-- ==== Sys2Proof/Word.lean ====
section
/-!
DEFINITION. Sys2Proof/Word.lean: the word types of the SX9.

The machine's registers are 32 bits wide, its code words 64 (R57), its memory is
addressed in bytes (R4), and thread sets are 32-bit masks (bit t is thread t, R12).
-/
namespace Sys2Proof

/-- A byte of memory. -/
abbrev Byte := BitVec 8
/-- A 32-bit register element, scalar or uniform word (R12). -/
abbrev W32 := BitVec 32
/-- A code word, a 64-bit pair or a 64-bit field (R57, R7). -/
abbrev W64 := BitVec 64
/-- A set of the 32 threads of a wale: bit t is thread t (R12). -/
abbrev Mask := BitVec 32

end Sys2Proof
end

