-- ==== Sys2Proof/Config.lean ====
section
/-!
DEFINITION. Sys2Proof/Config.lean: the constants of the part, and the free values.

The free values are opaque: nothing in Lean evaluates them, so no statement can rest
on one. Each stands where the spec leaves a value open, with an entry of the
assumption log naming it.
-/
namespace Sys2Proof.Config

/-- The byte that a location reads as while nothing has written it since its contents
became undefined (R225 for a window; power-on for RAM). The arguments are the number of
power losses, the number of window creations over its 4 KiB page, and the location. FREE VALUE (log 5). -/
opaque freeByte : Nat → Nat → Nat → Byte
/-- Which of `n` allowed outcomes comes about at the `k`-th free choice, as the old or the new word of a fetch
during a rewrite (R78). FREE VALUE (log 6). -/
opaque freeChoice : Nat → Nat → Nat
/-- What the clk counter of core `c` reads at the clk that State.coreReset holds: its core reset came so many clk before
(R14: the counters start at 0 at core reset and are not aligned). FREE VALUE (log 7). -/
opaque clkSkew : Nat → Nat
/-- A 32-bit value at the `k`-th use, where the spec states an effect and not the value. FREE VALUE (log 8). -/
opaque freeWord : Nat → W32

/-- The number of this package, 0 to 16,383 (R9, R226). The spec names no register that holds it. FREE VALUE (log 9). -/
opaque packageNo : Nat

/-- The context through which the weaver of a core reaches the command blocks it names (R158, R345, R363):
the spec gives weavers none. FREE VALUE (log 11). -/
opaque weaverCtx : Nat → Nat

/-- The firmware entry: the virtual address at which the weaver of a core starts (R285); the spec gives
no value. FREE VALUE (log 11). -/
opaque firmwareEntry : Nat → Nat

/-- The bank, 0 to 1,023, that holds a 256-byte granule of the common store (R232): the spec does not number it. FREE
VALUE (log 113). -/
opaque commonBank : Nat → Nat

/-- What the peer package `pkg` answers an access of job `job` to address `va` with permissions `p` (bit 0 R, bit 1 W) at a
clk (R226, R336): 0 performs it, 1 is XLATE, 2 is ACCESS. The peer's contexts and tables lie outside this package. FREE
VALUE (log 115). -/
opaque peerAnswer : Nat → Nat → Nat → Nat → Nat → Nat
/-- Whether a bus address lies in the BAR of another function (R331): the host assigns them. FREE VALUE (log 116). -/
opaque peerBar : Nat → Bool
/-- The set, 0 to 8,191, of a die's translation cache that holds a page of a context (R337): the spec gives the ways and
not the index. FREE VALUE (log 117). -/
opaque tlbSet : Nat → Nat → Nat → Nat

/-- Whether the 64 bytes at a location are a continuation record to whoever decrements its JOIN at a clk (R288, R289): a
record is what the program makes one. FREE VALUE (log 121). -/
opaque isRecord : Nat → Nat → Bool

/-- The Brynzen port over which the slew engine reaches a package (R333): the spec gives no routes. FREE VALUE (log 123). -/
opaque slewPort : Nat → Nat
/-- Whether the host has enabled MSI-X vector `n` at a clk (R327): the enables stand in the host's table. FREE VALUE (log 124). -/
opaque vectorOn : Nat → Nat → Bool

/-- Whether an HSS signature's bytes verify over the signed bytes against a public key, 0 the device's own in fuses, 1 Zawald's in
the ROM (R373): RFC 8554 gives the arithmetic, and the spec no key. FREE VALUE (log 85). -/
opaque hssValid : Nat → List Byte → List Byte → Bool
/-- The bytes of a part record in flash, of its core map, its HBM repair map and its link trims (R360): the spec gives no
layout. FREE VALUE (log 85). -/
opaque partBytes : List (Nat × Nat) → List (Nat × Nat) → List (Nat × Nat) → List Byte
/-- Whether a firmware image's header is malformed, and the version field that the header holds (R376): the spec gives no
layout. FREE VALUE (log 85). -/
opaque headerBad : List Byte → Bool
/-- The version field of an image (R376). FREE VALUE (log 85). -/
opaque imageVersion : List Byte → Nat
/-- Whether the self-test of an image fails at the boot that begins at a clk (R376). FREE VALUE (log 85). -/
opaque selfTestFails : List Byte → Nat → Bool
/-- The bytes of the signature that leaf `n` of the attestation key makes over a message (R377). FREE VALUE (log 85). -/
opaque leafSignature : Nat → List Byte → List Byte
/-- The virtual address of the ROM code at which a weaver starts in minimal mode (R375). FREE VALUE (log 11). -/
opaque romEntry : Nat → Nat

/-- The token that a lock word holds for an owner; the spec states only that it is not zero (R179). FREE VALUE (log 33). -/
opaque lockToken : Nat → W32

/-- R10: cores of the package, of a die, and of a cluster. -/
def numCores : Nat := 288
/-- R10. -/
def coresPerDie : Nat := 72
/-- R10. -/
def coresPerCluster : Nat := 8
/-- R20: wale-registers of a core's main file. -/
def mainFile : Nat := 4096
/-- R20: fast-file slots of a pipe. -/
def fastSlots : Nat := 32
/-- R232: bytes of HBM (576 GiB). -/
def hbmBytes : Nat := 576 * 2 ^ 30
/-- R230: bytes of one 8 MiB step of the common-store split. -/
def splitStep : Nat := 8 * 2 ^ 20
/-- 100 µs in clk at 600 MHz (R11, R240). -/
def clk100us : Nat := 60000
/-- R354: the management block of die d (4 is the I/O die) starts here. -/
def mgmtBase : Nat := 0x01000000
/-- R354: stride of management blocks. -/
def mgmtStride : Nat := 0x100000
/-- R370: the observation block of core c starts at this base plus 0x1000 c. -/
def obsBase : Nat := 0x02000000

end Sys2Proof.Config
end

