-- ==== Sys2Proof/Syntax.lean ====
section
/-!
DEFINITION. Sys2Proof/Syntax.lean: the steps of the SX9 as data.

`Instr` has one constructor per row of spec/opcode_table.json. The rows are the
machine's indivisible steps (95_what_each_step_holds.md): the instructions a wale,
weaver, engine stream or bank unit executes, and the asynchronous events of the
package. An instruction holds its operands as its encoding gives them (R60 to R75, R138,
R164 to R211); an event holds what the spec leaves to the moment it comes about (which
agent, which of several outcomes, the value an outside agent supplies).
-/
namespace Sys2Proof

/-- The type codes of R24, in code order 0 to 15. -/
inductive Ty where
  | raw | i8 | n8 | i16 | n16 | i32 | n32 | f16
  | bf16 | f32 | f64 | e4m3 | e5m2 | q4 | i16x2 | bf16x2
  deriving DecidableEq, Repr

/-- The FACE field of R64 and R70: 00, 01, 10 and 11. -/
inductive Face where
  | both | faceA | faceB | paired
  deriving DecidableEq, Repr

/-- The rounding modes of R43 and R67, in code order 0 to 5. -/
inductive RMode where
  | rn | rz | rp | rm | rna | rs
  deriving DecidableEq, Repr

/-- A destination operand: its file and number (R65), or an indexed vector (R23). -/
inductive Dst where
  | none
  | vec (r : Nat)
  | vix (x o : Nat)
  | pred (q : Nat)
  | xreg (x : Nat)
  | sc (n : Nat)
  deriving DecidableEq, Repr

/-- A source operand: vector, indexed vector, scalar, predicate, index register,
literal field, 28-bit immediate (R68) or 32-bit MOVI immediate (R69). -/
inductive Src where
  | none
  | vec (r : Nat)
  | vix (x o : Nat)
  | sc (n : Nat)
  | pred (q : Nat)
  | xreg (x : Nat)
  | lit (n : Nat)
  | imm (v : BitVec 28)
  | w32 (v : W32)
  deriving DecidableEq, Repr

/-- The OPMOD modifiers of R67, with the condition or class code of CMP, SCMP and CLASS. -/
structure Mods where
  rm : RMode := .rn
  ftz : Bool := false
  sat : Bool := false
  nosat : Bool := false
  any : Bool := false
  cond : Nat := 0
  deriving DecidableEq, Repr

/-- One face's operand set: bits 47:0 of a general-form word (R64, R70). -/
structure Opnds where
  d : Dst
  a : Src
  b : Src
  c : Src
  mods : Mods
  deriving DecidableEq, Repr

/-- A general-form instruction: TYPE, FACE, the operands of face A (or of the one set),
and those of face B when FACE is 11 (R64, R70). -/
structure G where
  ty : Ty
  face : Face
  fa : Opnds
  fb : Option Opnds
  deriving DecidableEq, Repr

/-- One range of an interval header: base and count (R60). -/
structure Range where
  base : Nat
  count : Nat
  deriving DecidableEq, Repr

/-- An interval header (R60). -/
structure IntervalHdr where
  r0 : Range
  r1 : Range
  r2 : Range
  r3 : Range
  wsel : Nat
  wen : Bool
  deriving DecidableEq, Repr

/-- A clause header (R62); `stalls` lists the stall count of slot positions 0 to 7. -/
structure ClauseHdr where
  wait : Nat
  setA : Nat
  setB : Nat
  len : Nat
  stalls : List Nat
  yield : Bool
  deriving DecidableEq, Repr

/-- The access classes of R71. -/
inductive Acls where
  | wk | sg | vol
  deriving DecidableEq, Repr

/-- The annotations of R71. -/
inductive Ann where
  | none | rel | acq | ar
  deriving DecidableEq, Repr

/-- The scopes of R71 and R237, in code order 0 to 5. -/
inductive Scope where
  | wl | grp | clu | die | dev | sys
  deriving DecidableEq, Repr

/-- A layout handle: immediate, or in a scalar (R71, R72). -/
inductive Handle where
  | imm (h : Nat)
  | sc (n : Nat)
  deriving DecidableEq, Repr

/-- One face's operand set of the memory form (R71). -/
structure MFace where
  scope : Scope
  handle : Handle
  d : Nat
  a : Nat
  b : Nat
  ckind : BitVec 6
  fsel : Bool
  rsp : Bool
  opx : BitVec 4
  deriving DecidableEq, Repr

/-- A memory-form instruction (R71). -/
structure MForm where
  acls : Acls
  ann : Ann
  face : Face
  fa : MFace
  fb : Option MFace
  deriving DecidableEq, Repr

/-- One face of CALL: target offset in words, first destination and source register (R138, R145). -/
structure CallFace where
  off : BitVec 28
  d : Nat
  a : Nat
  deriving DecidableEq, Repr

/-- CALL (R145): n common to both faces. -/
structure CallForm where
  n : Nat
  face : Face
  fa : CallFace
  fb : Option CallFace
  deriving DecidableEq, Repr

/-- SPAWN (R154): destination, entry pair, first of eight scalars, and with `.q` the frame operand. -/
structure SpawnForm where
  d : Nat
  a : Nat
  b : Nat
  c : Option Nat
  deriving DecidableEq, Repr

/-- RGRP (R155): key register, first moved register, number of moved registers.
Key and first register may be any vector register. -/
structure RgrpForm where
  a : Nat
  b : Nat
  n : Nat
  deriving DecidableEq, Repr

/-- A uniform operand that is a literal or a scalar. -/
inductive Uni where
  | lit (n : Nat)
  | sc (n : Nat)
  deriving DecidableEq, Repr

/-- LAYSET and LAYGET (R164): the vector register and the handle. -/
structure LayForm where
  face : Face
  v : Nat
  handle : Uni
  deriving DecidableEq, Repr

/-- FENCE and QFENCE share this form: scope, and annotation or queue mask (R173, R174). -/
structure FenceForm where
  face : Face
  scope : Scope
  ann : Ann
  deriving DecidableEq, Repr

/-- QFENCE (R174). -/
structure QfenceForm where
  face : Face
  scope : Scope
  mask : BitVec 5
  deriving DecidableEq, Repr

/-- BAR.SYNC, BAR.ARRIVE and BAR.WAIT: barrier number and count (R181). BAR.WAIT has no count. -/
structure BarForm where
  face : Face
  bar : Nat
  count : Uni
  deriving DecidableEq, Repr

/-- MMA and MMAZ (R188). -/
structure MmaForm where
  ty : Ty
  face : Face
  acc : Nat
  mc : Bool
  ch : Bool
  ha : Nat
  hb : Nat
  sk : Nat
  sm : Nat
  sn : Nat
  kc : Nat
  deriving DecidableEq, Repr

/-- MREAD and MWRITE (R194). -/
structure MrwForm where
  ty : Ty
  face : Face
  acc : Nat
  d : Nat
  row : Uni
  fsel : Bool
  deriving DecidableEq, Repr

/-- MZERO (R193). -/
structure MzeroForm where
  ty : Ty
  face : Face
  acc : Nat
  deriving DecidableEq, Repr

/-- MSTORE (R195). -/
structure MstoreForm where
  face : Face
  acc : Nat
  handle : Handle
  sc0 : Nat
  sc1 : Nat
  rm : RMode
  nosat : Bool
  deriving DecidableEq, Repr

/-- STFOLD (R196). -/
structure StfoldForm where
  face : Face
  acc : Nat
  handle : Handle
  sc0 : Nat
  sc1 : Nat
  sb : Nat
  deriving DecidableEq, Repr

/-- MWAIT and CWAIT (R197, R205): scope and number of groups or batches. -/
structure WaitForm where
  face : Face
  scope : Scope
  n : Nat
  deriving DecidableEq, Repr

/-- COPY.SLICE (R201). -/
structure CopyForm where
  face : Face
  cq : Nat
  hd : Nat
  hs : Nat
  sd : Nat
  ss : Nat
  i : Uni
  nm1 : Nat
  deriving DecidableEq, Repr

/-- BCALL (R209). -/
structure BcallForm where
  face : Face
  handle : Nat
  sc : Nat
  sp : Nat
  sa : Nat
  fsel : Bool
  deriving DecidableEq, Repr

/-- A privileged weaver operation (R158): destination run, source run, literal, flag select. -/
structure WvForm where
  face : Face
  d : Nat
  a : Nat
  b : Nat
  fsel : Bool
  deriving DecidableEq, Repr

/-- Where a queued access is performed (R233, R236, R237): the home slice, the issuing
core's cluster cache, or (a weak store only) nowhere, because a later store merged it (R234). -/
inductive Place where
  | home | cluster | merged
  deriving DecidableEq, Repr

/-- The engine access a translation fault concerns (R259, R339): a copy queue of a
workgroup, the head of a wale's matrix queue, a bank program, the slew engine, an image. -/
inductive EngAcc where
  | copy (wg cq : Nat)
  | matrix (w : Nat)
  | bank (b : Nat)
  | slew
  | image (i : Nat)
  deriving DecidableEq, Repr

/-- The resource that pops a task (R289): a core, or a bank-tier unit of a die. -/
inductive Resource where
  | core (c : Nat)
  | bankUnit (die : Nat)
  deriving DecidableEq, Repr

/-- The LMS typecode of a level of a signature: the three that R373 admits, or any other. -/
inductive LmsCode where
  | h10 | h15 | h20 | other
  deriving DecidableEq, Repr

/-- The LM-OTS typecode of a level of a signature: the two that R373 admits, or any other. -/
inductive OtsCode where
  | w4 | w8 | other
  deriving DecidableEq, Repr

/-- An HSS signature: the typecodes of its levels, top first, and its bytes (R373). -/
structure HssSig where
  levels : List (LmsCode × OtsCode)
  bytes : List Byte
  deriving DecidableEq, Repr

/-- A firmware image in flash with its signature (R373). -/
structure SignedImage where
  body : List Byte
  sig : HssSig
  deriving DecidableEq, Repr

/-- Where an uncorrectable error lies: its address, and the register, thread and row of one in the register file or tile memory
(R358). -/
structure ErrPlace where
  va : Nat
  at' : List Nat
  deriving DecidableEq, Repr

/-- An access of a peer package entering through space 6 (R226). -/
inductive PeerOp where
  | read (n : Nat)
  | write (bytes : List Byte)
  | swap (cmp : Option W32) (v : W32)
  | add (v : W32)
  deriving DecidableEq, Repr

/-- A bank instruction's row address: X adds the loop counter, `off` is the signed row offset (R211). -/
structure RowRef where
  x : Bool
  off : BitVec 13
  deriving DecidableEq, Repr

/-- One constructor per row of spec/opcode_table.json, in the table's order. -/
inductive Instr where
  /-- INTERVAL_HEADER (R21). -/
  | intervalHeader (h : IntervalHdr)
  /-- STAGING_GRANT (R21). -/
  | stagingGrant (core pipe : Nat)
  /-- CLAUSE_HEADER (R63). -/
  | clauseHeader (h : ClauseHdr)
  /-- ILLEGAL_WORD (R74). -/
  | illegalWord (w : W64)
  /-- ADD_INT (R102). -/
  | addInt (g : G)
  /-- SUB_INT (R102). -/
  | subInt (g : G)
  /-- MUL_INT (R102). -/
  | mulInt (g : G)
  /-- MULHI (R102). -/
  | mulhi (g : G)
  /-- MAD (R102). -/
  | mad (g : G)
  /-- DIV (R103). -/
  | div (g : G)
  /-- REM (R103). -/
  | rem (g : G)
  /-- ABS_INT (R102). -/
  | absInt (g : G)
  /-- NEG_INT (R102). -/
  | negInt (g : G)
  /-- MIN_INT (R102). -/
  | minInt (g : G)
  /-- MAX_INT (R102). -/
  | maxInt (g : G)
  /-- AND (R104). -/
  | and (g : G)
  /-- OR (R104). -/
  | or (g : G)
  /-- XOR (R104). -/
  | xor (g : G)
  /-- NOT (R104). -/
  | not (g : G)
  /-- SHL (R104). -/
  | shl (g : G)
  /-- SHR (R104). -/
  | shr (g : G)
  /-- SAR (R104). -/
  | sar (g : G)
  /-- ROT (R104). -/
  | rot (g : G)
  /-- POPC (R105). -/
  | popc (g : G)
  /-- CLZ (R105). -/
  | clz (g : G)
  /-- BREV (R105). -/
  | brev (g : G)
  /-- BFX (R106). -/
  | bfx (g : G)
  /-- BFI (R106). -/
  | bfi (g : G)
  /-- ADD64 (R107). -/
  | add64 (g : G)
  /-- SUB64 (R107). -/
  | sub64 (g : G)
  /-- MULW (R107). -/
  | mulw (g : G)
  /-- CMP_INT (R108). -/
  | cmpInt (g : G)
  /-- PAND (R109). -/
  | pand (g : G)
  /-- POR (R109). -/
  | por (g : G)
  /-- PXOR (R109). -/
  | pxor (g : G)
  /-- PNOT (R109). -/
  | pnot (g : G)
  /-- SEL (R110). -/
  | sel (g : G)
  /-- MOV (R111). -/
  | mov (g : G)
  /-- MOVI_VECTOR (R111). -/
  | moviVector (g : G)
  /-- MOVI_SCALAR (R111). -/
  | moviScalar (g : G)
  /-- MOVSV (R111). -/
  | movsv (g : G)
  /-- MOVVS (R111). -/
  | movvs (g : G)
  /-- SADD (R112). -/
  | sadd (g : G)
  /-- SSUB (R112). -/
  | ssub (g : G)
  /-- SMUL (R112). -/
  | smul (g : G)
  /-- SAND (R112). -/
  | sand (g : G)
  /-- SOR (R112). -/
  | sor (g : G)
  /-- SXOR (R112). -/
  | sxor (g : G)
  /-- SSHL (R112). -/
  | sshl (g : G)
  /-- SSHR (R112). -/
  | sshr (g : G)
  /-- SCMP (R112). -/
  | scmp (g : G)
  /-- SMIN (R112). -/
  | smin (g : G)
  /-- SMAX (R112). -/
  | smax (g : G)
  /-- SMOV (R112). -/
  | smov (g : G)
  /-- XMOV (R113). -/
  | xmov (g : G)
  /-- XADD (R113). -/
  | xadd (g : G)
  /-- XGET (R113). -/
  | xget (g : G)
  /-- SRD (R114). -/
  | srd (g : G)
  /-- SRDS (R114). -/
  | srds (g : G)
  /-- EXMRD (R115). -/
  | exmrd (g : G)
  /-- EXMWR (R115). -/
  | exmwr (g : G)
  /-- TAGSET (R116). -/
  | tagset (g : G)
  /-- TAGGET (R116). -/
  | tagget (g : G)
  /-- CLMULL (R75). -/
  | clmull (w : W64)
  /-- CLMULH (R75). -/
  | clmulh (w : W64)
  /-- ADD_FLT (R121). -/
  | addFlt (g : G)
  /-- SUB_FLT (R121). -/
  | subFlt (g : G)
  /-- MUL_FLT (R121). -/
  | mulFlt (g : G)
  /-- FMA (R121). -/
  | fma (g : G)
  /-- MIN_FLT (R121). -/
  | minFlt (g : G)
  /-- MAX_FLT (R121). -/
  | maxFlt (g : G)
  /-- MINNM (R121). -/
  | minnm (g : G)
  /-- MAXNM (R121). -/
  | maxnm (g : G)
  /-- ABS_FLT (R121). -/
  | absFlt (g : G)
  /-- NEG_FLT (R121). -/
  | negFlt (g : G)
  /-- CPYSGN (R121). -/
  | cpysgn (g : G)
  /-- CMP_FLT (R122). -/
  | cmpFlt (g : G)
  /-- CLASS (R123). -/
  | classFlt (g : G)
  /-- RCP (R124). -/
  | rcp (g : G)
  /-- SQRT (R124). -/
  | sqrt (g : G)
  /-- RSQ (R124). -/
  | rsq (g : G)
  /-- RINT (R125). -/
  | rint (g : G)
  /-- FRACT (R125). -/
  | fract (g : G)
  /-- EXPINS (R126). -/
  | expins (g : G)
  /-- EXPEXT (R126). -/
  | expext (g : G)
  /-- FEXP2F (R127). -/
  | fexp2f (g : G)
  /-- FLOG2F (R128). -/
  | flog2f (g : G)
  /-- CVT (R129). -/
  | cvt (g : G)
  /-- PACK2 (R130). -/
  | pack2 (g : G)
  /-- UNPK2 (R130). -/
  | unpk2 (g : G)
  /-- Q4PACK (R131). -/
  | q4pack (g : G)
  /-- Q4UNPK (R132). -/
  | q4unpk (g : G)
  /-- XCHG_BFLY (R134). -/
  | xchgBfly (g : G)
  /-- SHFL (R134). -/
  | shfl (g : G)
  /-- BCAST (R134). -/
  | bcast (g : G)
  /-- BALLOT (R135). -/
  | ballot (g : G)
  /-- VOTE (R135). -/
  | vote (g : G)
  /-- WSUM (R136). -/
  | wsum (g : G)
  /-- WMIN (R136). -/
  | wmin (g : G)
  /-- WMAX (R136). -/
  | wmax (g : G)
  /-- WAND (R136). -/
  | wand (g : G)
  /-- WOR (R136). -/
  | wor (g : G)
  /-- IF (R141). -/
  | ifOp (g : G)
  /-- ELSE (R141). -/
  | elseOp (g : G)
  /-- ENDIF (R141). -/
  | endif (g : G)
  /-- LOOP (R142). -/
  | loop (g : G)
  /-- ENDLOOP (R142). -/
  | endloop (g : G)
  /-- BREAK (R142). -/
  | breakOp (g : G)
  /-- CONT (R142). -/
  | cont (g : G)
  /-- JMP (R144). -/
  | jmp (g : G)
  /-- JMPZ (R144). -/
  | jmpz (g : G)
  /-- JMPNZ (R144). -/
  | jmpnz (g : G)
  /-- CALL (R145). -/
  | call (c : CallForm)
  /-- RET (R146). -/
  | ret (g : G)
  /-- EXIT (R147). -/
  | exit (g : G)
  /-- NOP (R148). -/
  | nop (g : G)
  /-- YIELD (R148). -/
  | yield (g : G)
  /-- MELD (R150). -/
  | meld (g : G)
  /-- ENDMELD (R150). -/
  | endmeld (g : G)
  /-- SPAWN (R154). -/
  | spawn (f : SpawnForm)
  /-- RGRP (R155). -/
  | rgrp (f : RgrpForm)
  /-- RGRP_FORM (R271). -/
  | rgrpForm (wg : Nat)
  /-- TRAP (R156). -/
  | trap (g : G)
  /-- BKPT (R156). -/
  | bkpt (g : G)
  /-- TRET (R157). -/
  | tret (g : G)
  /-- TRET_SKIP (R157). -/
  | tretSkip (g : G)
  /-- EVPOP (R158). -/
  | evpop (f : WvForm)
  /-- TKCLAIM (R283). -/
  | tkclaim (f : WvForm)
  /-- SYMWALK (R304). -/
  | symwalk (f : WvForm)
  /-- SLEW_START (R347). -/
  | slewStart (f : WvForm)
  /-- SLEW_QUERY (R345). -/
  | slewQuery (f : WvForm)
  /-- CKPT (R363). -/
  | ckpt (f : WvForm)
  /-- LD (R166). -/
  | ld (m : MForm)
  /-- ST (R166). -/
  | st (m : MForm)
  /-- GATHER (R168). -/
  | gather (m : MForm)
  /-- SCATTER (R168). -/
  | scatter (m : MForm)
  /-- LAYSET (R164). -/
  | layset (f : LayForm)
  /-- LAYGET (R164). -/
  | layget (f : LayForm)
  /-- LDQ (R169). -/
  | ldq (m : MForm)
  /-- STQ (R169). -/
  | stq (m : MForm)
  /-- GATHERQ (R169). -/
  | gatherq (m : MForm)
  /-- SCATTERQ (R169). -/
  | scatterq (m : MForm)
  /-- PREF (R169). -/
  | pref (m : MForm)
  /-- QUEUED_LOAD_COMPLETE (R169). -/
  | queuedLoadComplete (e : Nat) (m : Mask) (p : Place)
  /-- QUEUED_STORE_PERFORMED (R169). -/
  | queuedStorePerformed (e : Nat) (m : Mask) (p : Place)
  /-- PREF_ACCEPTED (R169). -/
  | prefAccepted (e : Nat)
  /-- ATOM_ADD (R176). -/
  | atomAdd (m : MForm)
  /-- ATOM_MIN (R176). -/
  | atomMin (m : MForm)
  /-- ATOM_MAX (R176). -/
  | atomMax (m : MForm)
  /-- ATOM_AND (R176). -/
  | atomAnd (m : MForm)
  /-- ATOM_OR (R176). -/
  | atomOr (m : MForm)
  /-- ATOM_XOR (R176). -/
  | atomXor (m : MForm)
  /-- ATOM_XCHG (R176). -/
  | atomXchg (m : MForm)
  /-- ATOM_CAS (R176). -/
  | atomCas (m : MForm)
  /-- ATOM_INCW (R177). -/
  | atomIncw (m : MForm)
  /-- ATOM_FADDB (R177). -/
  | atomFaddb (m : MForm)
  /-- ATOM_FADD (R176). -/
  | atomFadd (m : MForm)
  /-- ATOM_FMAX (R176). -/
  | atomFmax (m : MForm)
  /-- RED_ADD (R176). -/
  | redAdd (m : MForm)
  /-- RED_FADD (R176). -/
  | redFadd (m : MForm)
  /-- RED_FMAX (R176). -/
  | redFmax (m : MForm)
  /-- ATOMIC_PERFORM (R178). -/
  | atomicPerform (e : Nat)
  /-- FENCE (R173). -/
  | fence (f : FenceForm)
  /-- QFENCE (R174). -/
  | qfence (f : QfenceForm)
  /-- LOCKQ (R180). -/
  | lockq (m : MForm)
  /-- UNLOCKQ (R180). -/
  | unlockq (m : MForm)
  /-- BAR_SYNC (R181). -/
  | barSync (f : BarForm)
  /-- BAR_ARRIVE (R182). -/
  | barArrive (f : BarForm)
  /-- BAR_WAIT (R182). -/
  | barWait (f : BarForm)
  /-- BARW_ARV (R183). -/
  | barwArv (m : MForm)
  /-- BARW_WAIT (R183). -/
  | barwWait (m : MForm)
  /-- MMA (R190). -/
  | mma (f : MmaForm)
  /-- MMAZ (R190). -/
  | mmaz (f : MmaForm)
  /-- MCOMMIT (R197). -/
  | mcommit (face : Face)
  /-- MWAIT (R197). -/
  | mwait (f : WaitForm)
  /-- MREAD (R194). -/
  | mread (f : MrwForm)
  /-- MWRITE (R194). -/
  | mwrite (f : MrwForm)
  /-- MZERO (R193). -/
  | mzero (f : MzeroForm)
  /-- MSTORE (R195). -/
  | mstore (f : MstoreForm)
  /-- STFOLD (R196). -/
  | stfold (f : StfoldForm)
  /-- ARRAY_SERVE (R187). -/
  | arrayServe (core : Nat)
  /-- MMA_COMPLETE (R190). -/
  | mmaComplete (core : Nat)
  /-- MATRIX_OP_PERFORMED (R198). -/
  | matrixOpPerformed (w : Nat)
  /-- MATRIX_OP_ABANDON (R199). -/
  | matrixOpAbandon (w : Nat)
  /-- FOLD_LOG_APPEND (R321). -/
  | foldLogAppend (w : Nat)
  /-- COPY_SLICE (R202). -/
  | copySlice (f : CopyForm)
  /-- CSEAL (R205). -/
  | cseal (face : Face)
  /-- CWAIT (R205). -/
  | cwait (f : WaitForm)
  /-- COPY_START (R206). -/
  | copyStart (wg cq : Nat)
  /-- COPY_FINISH (R206). -/
  | copyFinish (wg cq : Nat)
  /-- COPY_ABANDON (R204). -/
  | copyAbandon (wg cq : Nat)
  /-- FORK_M (R207). -/
  | forkM (face : Face) (off : BitVec 28)
  /-- FORK_C (R207). -/
  | forkC (face : Face) (off : BitVec 28)
  /-- RDV (R207). -/
  | rdv (face : Face)
  /-- STREAM_FAULT (R208). -/
  | streamFault (st : Nat)
  /-- BCALL (R209). -/
  | bcall (f : BcallForm)
  /-- BANK_CALL_START (R209). -/
  | bankCallStart (w : Nat)
  /-- BANK_INSN_LIMIT (R213). -/
  | bankInsnLimit (b : Nat)
  /-- BEND (R212). -/
  | bend
  /-- BLD (R212). -/
  | bld (d : Nat) (r : RowRef)
  /-- BST (R212). -/
  | bst (a : Nat) (r : RowRef)
  /-- BADD (R212). -/
  | badd (d a b : Nat)
  /-- BSUB (R212). -/
  | bsub (d a b : Nat)
  /-- BMUL (R212). -/
  | bmul (d a b : Nat)
  /-- BFMA (R212). -/
  | bfma (d a b c : Nat)
  /-- BMIN (R212). -/
  | bmin (d a b : Nat)
  /-- BMAX (R212). -/
  | bmax (d a b : Nat)
  /-- BRSQ (R212). -/
  | brsq (d a : Nat)
  /-- BSCL (R212). -/
  | bscl (d a j : Nat)
  /-- BSPL (R212). -/
  | bspl (d j : Nat)
  /-- BCVT (R212). -/
  | bcvt (d a b mode : Nat)
  /-- BIADD (R212). -/
  | biadd (d a b : Nat)
  /-- BLOOP (R212). -/
  | bloop (j : Nat)
  /-- BNEXT (R212). -/
  | bnext
  /-- BSIG (R212). -/
  | bsig (j : Nat)
  /-- TRAP_ENTRY (R251). -/
  | trapEntry (w : Nat)
  /-- WATCHDOG (R261). -/
  | watchdog (w : Nat)
  /-- WALE_END (R147). -/
  | waleEnd (w : Nat)
  /-- WALE_AGED (R291). -/
  | waleAged (w : Nat)
  /-- FORWARDING_EXPIRE (R297). -/
  | forwardingExpire (i : Nat)
  /-- POWER_STATE_DESCEND (R379). -/
  | powerStateDescend (d : Nat)
  /-- FAST_FILE_PARITY_ERROR (R356). -/
  | fastFileParityError (w r : Nat)
  /-- TRANSLATION_WALK_DONE (R162). -/
  | translationWalkDone (w : Nat)
  /-- ENGINE_TRANSLATION_FAULT (R339). -/
  | engineTranslationFault (a : EngAcc)
  /-- FAULT_RETRY (R339). -/
  | faultRetry (v : W64)
  /-- FAULT_REFUSE (R384). -/
  | faultRefuse (v : W64)
  /-- FAULTHEAD (R340). -/
  | faultHead (v : W64)
  /-- FAULTQ (R340). -/
  | faultQ (v : W64)
  /-- FAULT_RECORD_WRITE (R340). -/
  | faultRecordWrite
  /-- UNCORRECTABLE_ERROR (R357). -/
  | uncorrectableError (ctx strct core slot : Nat) (place : ErrPlace)
  /-- SCRUB_ERROR (R357). -/
  | scrubError (strct pa : Nat)
  /-- SUBMISSION_WRITE (R281). -/
  | submissionWrite (off n : Nat) (data : BitVec 2048)
  /-- LAUNCH_REFUSE (R277). -/
  | launchRefuse (core q : Nat)
  /-- LAUNCH_START (R283). -/
  | launchStart (core q : Nat)
  /-- COOP_LAUNCH_PLACE (R283). -/
  | coopLaunchPlace (core q : Nat)
  /-- WORKGROUP_CREATE (R278). -/
  | workgroupCreate (core : Nat)
  /-- WORKGROUP_RETIRE (R286). -/
  | workgroupRetire (core : Nat)
  /-- TASK_POP (R289). -/
  | taskPop (r : Resource)
  /-- JOIN_DECREMENT (R289). -/
  | joinDecrement (core : Nat)
  /-- PREEMPT (R293). -/
  | preempt (v : W64)
  /-- RESUME (R293). -/
  | resume (v : W64)
  /-- WORKGROUP_DRAIN_LIMIT (R292). -/
  | workgroupDrainLimit (q : Nat)
  /-- COPY_DRAIN_LIMIT (R294). -/
  | copyDrainLimit (wg cq : Nat)
  /-- HARD_STOP_SAVE (R296). -/
  | hardStopSave (w : Nat)
  /-- WALE_RESTORE (R296). -/
  | waleRestore (core wg : Nat)
  /-- WALE_RESTORE_READY (R296). -/
  | waleRestoreReady (w : Nat)
  /-- WORKGROUP_MIGRATE (R297). -/
  | workgroupMigrate (wg core : Nat)
  /-- PART (R298). -/
  | partWrite (p w : Nat) (v : W64)
  /-- CSSPLIT (R231). -/
  | cssplit (d : Nat) (v : W64)
  /-- WVRESET (R285). -/
  | wvreset (v : W64)
  /-- CTXREC (R299). -/
  | ctxrec (c : Nat) (v : W64)
  /-- TLBINV (R338). -/
  | tlbinv (v : W64)
  /-- INVALIDATION_DONE (R338). -/
  | invalidationDone
  /-- SPAREREQ (R360). -/
  | sparereq (v : W64)
  /-- DBG_STOP (R371). -/
  | dbgStop (v : W64)
  /-- DBG_DUMP (R372). -/
  | dbgDump (v : W64)
  /-- DBG_RESUME (R372). -/
  | dbgResume (v : W64)
  /-- BREAKPOINT_STOP (R371). -/
  | breakpointStop (w : Nat)
  /-- REGISTER_WRITE (R329). -/
  | registerWrite (off : Nat) (v : W64)
  /-- HOST_BAR4_WRITE (R330). -/
  | hostBar4Write (off : Nat) (data : List Byte)
  /-- HOST_BAR4_READ (R330). -/
  | hostBar4Read (off n : Nat)
  /-- PEER_ACCESS (R226). -/
  | peerAccess (job va : Nat) (op : PeerOp)
  /-- FLIT_RECEIVE (R333). -/
  | flitReceive (port : Nat) (hdr : BitVec 512) (data : List (BitVec 512)) (crcOk : Bool)
  /-- NAK_RECEIVE (R333). -/
  | nakReceive (port seq : Nat)
  /-- LINK_DOWN (R333). -/
  | linkDown (port : Nat)
  /-- SLEW_PLAN_COMPLETE (R353). -/
  | slewPlanComplete
  /-- SLEW_TRANSFER_ACK (R350). -/
  | slewTransferAck
  /-- SLEW_TRANSFER_FAIL (R352). -/
  | slewTransferFail (unreachable : Bool)
  /-- SLEW_CTX_STOPPED (R352). -/
  | slewCtxStopped
  /-- CHECKPOINT_END (R363). -/
  | checkpointEnd
  /-- CHECKPOINT_TARGET_FAIL (R363). -/
  | checkpointTargetFail (i : Nat)
  /-- FOLD_MERGE (R322). -/
  | foldMerge (ctx h : Nat)
  /-- IMAGE_PERFORM (R312). -/
  | imagePerform (i : Nat)
  /-- PSIAK_DROP_REPORT (R368). -/
  | psiakDropReport (blk : Nat)
  /-- POWER_GOOD (R374). -/
  | powerGood (written : Option (List Byte)) (levels : List (LmsCode × OtsCode)) (sig : List Byte)
  /-- BOOTOK (R374). -/
  | bootOk (v : W64)
  /-- BOOTOK_TIMEOUT (R374). -/
  | bootOkTimeout
  /-- FBCLR (R375). -/
  | fbclr (v : W64)
  /-- THERMAL_TRIP (R381). -/
  | thermalTrip
  /-- ATTESTATION_SIGN (R377). -/
  | attestationSign (nonce : BitVec 256)
  /-- DIE_WAKE (R380). -/
  | dieWake (d : Nat)
  /-- POWER_LOSS (R377). -/
  | powerLoss
  /-- CLUSTER_CACHE_WRITE_BACK (R240). -/
  | clusterCacheWriteBack (cluster line : Nat)
  /-- WEAVER_OPERATION_COMPLETE (R158). -/
  | weaverOperationComplete (core : Nat)
  deriving DecidableEq, Repr

end Sys2Proof
end

