-- ==== Sys2Proof/Machine/Forms.lean ====
section
/-!
DEFINITION. Sys2Proof/Machine/Forms.lean: the operand shapes of the opcode map.

`opSpec` states, per class and op number of R73, the operand files, types, immediate form,
faces and modifiers that the operation's entry accepts. The decoder, the encoder and the
well-formedness checks all read this one table.
-/
namespace Sys2Proof

/-- The code of a type (R24). -/
def Ty.code : Ty → Nat
  | .raw => 0 | .i8 => 1 | .n8 => 2 | .i16 => 3 | .n16 => 4 | .i32 => 5 | .n32 => 6 | .f16 => 7
  | .bf16 => 8 | .f32 => 9 | .f64 => 10 | .e4m3 => 11 | .e5m2 => 12 | .q4 => 13 | .i16x2 => 14
  | .bf16x2 => 15

/-- The type of a 4-bit code (R24). -/
def Ty.ofCode : Nat → Ty
  | 0 => .raw | 1 => .i8 | 2 => .n8 | 3 => .i16 | 4 => .n16 | 5 => .i32 | 6 => .n32 | 7 => .f16
  | 8 => .bf16 | 9 => .f32 | 10 => .f64 | 11 => .e4m3 | 12 => .e5m2 | 13 => .q4 | 14 => .i16x2
  | _ => .bf16x2

/-- The code of FACE (R70). -/
def Face.code : Face → Nat
  | .both => 0 | .faceA => 1 | .faceB => 2 | .paired => 3

/-- The face of a 2-bit code (R70). -/
def Face.ofCode : Nat → Face
  | 0 => .both | 1 => .faceA | 2 => .faceB | _ => .paired

/-- The code of a rounding mode (R67). -/
def RMode.code : RMode → Nat
  | .rn => 0 | .rz => 1 | .rp => 2 | .rm => 3 | .rna => 4 | .rs => 5

/-- The rounding mode of a 3-bit code; 6 and 7 name none (R67). -/
def RMode.ofCode : Nat → Option RMode
  | 0 => some .rn | 1 => some .rz | 2 => some .rp | 3 => some .rm | 4 => some .rna
  | 5 => some .rs | _ => none

/-- The code of a scope (R71). -/
def Scope.code : Scope → Nat
  | .wl => 0 | .grp => 1 | .clu => 2 | .die => 3 | .dev => 4 | .sys => 5

/-- The scope of a 3-bit code; 6 and 7 name none (R71). -/
def Scope.ofCode : Nat → Option Scope
  | 0 => some .wl | 1 => some .grp | 2 => some .clu | 3 => some .die | 4 => some .dev
  | 5 => some .sys | _ => none

/-- The code of an access class (R71). -/
def Acls.code : Acls → Nat
  | .wk => 0 | .sg => 1 | .vol => 2

/-- The access class of a 2-bit code; 3 names none (R71). -/
def Acls.ofCode : Nat → Option Acls
  | 0 => some .wk | 1 => some .sg | 2 => some .vol | _ => none

/-- The code of an annotation (R71). -/
def Ann.code : Ann → Nat
  | .none => 0 | .rel => 1 | .acq => 2 | .ar => 3

/-- The annotation of a 2-bit code (R71). -/
def Ann.ofCode : Nat → Ann
  | 0 => .none | 1 => .rel | 2 => .acq | _ => .ar

/-- The file of a D operand (R65, R73). -/
inductive DKind where
  | none | vec | pred | xreg | sc
  deriving DecidableEq, Repr

/-- What an operand field may name (R65): nothing, a vector or scalar, only one of
them, a predicate, an index register, a literal up to a bound, or a literal or a scalar. -/
inductive OKind where
  | none | any | vec | sc | pred | xreg
  | lit (max : Nat)
  | litSc (max : Nat)
  deriving DecidableEq, Repr

/-- Whether an operation has the immediate form (R68), or only it, as a word offset (R138). -/
inductive ImMode where
  | no | yes | target
  deriving DecidableEq, Repr

/-- Which FACE values an entry allows (R70, R138, R152). -/
inductive Faces where
  | all | noPair | only00
  deriving DecidableEq, Repr

/-- Which FACE values an entry allows. -/
def Faces.allows : Faces → Face → Bool
  | .all, _ => true
  | .noPair, f => f != .paired
  | .only00, f => f == .both

/-- The OPMOD layout and the modifiers an entry accepts (R67). -/
inductive ModKind where
  | zero
  | int (sat : List Ty) (any : Bool)
  | icmp (any : Bool)
  | flt (rounds ftz any : Bool)
  | fcmp
  | fcls
  | cvt
  | q4
  | pack
  | lane
  | pred
  deriving DecidableEq, Repr

/-- Which vector operands are 64-bit pairs (R7, R37, R107): none, all when TYPE is f64, only
D and A then, only A then, always D, A and B, always D, or by the types of CVT. -/
inductive Wide where
  | no | ty | tyDA | tyA | dab | d | cvt
  deriving DecidableEq, Repr

/-- The checks of an entry across operands. -/
inductive Cross where
  | none | cvt | q4pack | q4unpk | srd | srds | endloop | movi | bare
  deriving DecidableEq, Repr

/-- The shape of an operation (R64 to R69, R73 and its entry). -/
structure OpSpec where
  d : DKind := .none
  a : OKind := .none
  b : OKind := .none
  c : OKind := .none
  tys : List Ty := [.raw]
  im : ImMode := .no
  faces : Faces := .all
  mods : ModKind := .zero
  ix : Bool := true
  wide : Wide := .no
  cross : Cross := .none
  deriving DecidableEq, Repr

/-- The six plain integer types "i8–n32" (R102). -/
def tysInt : List Ty := [.i8, .n8, .i16, .n16, .i32, .n32]
/-- The six integer types and i16×2. -/
def tysIntP : List Ty := .i16x2 :: tysInt
/-- i32 and n32. -/
def tys32 : List Ty := [.i32, .n32]
/-- The binary floating types of R121. -/
def tysFlt : List Ty := [.f16, .bf16, .f32, .f64]
/-- The binary floating types and bf16×2. -/
def tysFltP : List Ty := .bf16x2 :: tysFlt
/-- Every type. -/
def tysAll : List Ty :=
  [.raw, .i8, .n8, .i16, .n16, .i32, .n32, .f16, .bf16, .f32, .f64, .e4m3, .e5m2, .q4, .i16x2, .bf16x2]
/-- The types CVT converts between (R129). -/
def tysCvt : List Ty :=
  [.i8, .n8, .i16, .n16, .i32, .n32, .f16, .bf16, .f32, .f64, .e4m3, .e5m2]

/-- The largest word select of a special register; none for a code the table does not list (R114). -/
def srMaxWord : Nat → Option Nat
  | 0 => some 0 | 1 => some 0 | 2 => some 0 | 3 => some 0 | 4 => some 0 | 5 => some 0 | 6 => some 0
  | 0x10 => some 0 | 0x11 => some 1 | 0x12 => some 3 | 0x13 => some 0 | 0x14 => some 0
  | 0x15 => some 0 | _ => none

/-- Vector integer operations of class 0010 (R102). -/
def intOp (a b c : OKind) (tys : List Ty) (sat : List Ty) (im : ImMode) : OpSpec :=
  { d := .vec, a := a, b := b, c := c, tys := tys, im := im, mods := .int sat true }

/-- Scalar operations of class 0010 (R112). -/
def scOp (sat : List Ty) : OpSpec :=
  { d := .sc, a := .sc, b := .sc, tys := tys32, im := .yes, faces := .noPair
    mods := .int sat false, ix := false }

/-- Float operations of class 0011 (R121). -/
def fltOp (b c : OKind) (rounds ftz : Bool) (im : ImMode) : OpSpec :=
  { d := .vec, a := .any, b := b, c := c, tys := tysFltP, im := im
    mods := .flt rounds ftz true, wide := .ty }

/-- Shapes of class 0010 by op number (R73, R95 to R116). -/
def spec2 : Nat → OpSpec
  | 0x00 | 0x01 | 0x02 => intOp .any .any .none tysIntP tysIntP .yes
  | 0x03 => intOp .any .any .none tys32 [] .yes
  | 0x04 => intOp .any .any .any tysIntP tysIntP .no
  | 0x05 => intOp .any .any .none tys32 [.i32] .yes
  | 0x06 => intOp .any .any .none tys32 [] .yes
  | 0x07 => intOp .any .none .none [.i8, .i16, .i32, .i16x2] tysIntP .no
  | 0x08 => intOp .any .none .none tysIntP tysIntP .no
  | 0x09 | 0x0A => intOp .any .any .none tysIntP [] .yes
  | 0x0B | 0x0C | 0x0D => intOp .any .any .none (.raw :: tysIntP) [] .yes
  | 0x0E => intOp .any .none .none (.raw :: tysIntP) [] .no
  | 0x0F | 0x10 | 0x11 => intOp .any .any .none [.i32, .n32, .i16x2] [] .yes
  | 0x12 => intOp .any .any .none tys32 [] .yes
  | 0x13 | 0x14 | 0x15 => intOp .any .none .none [.raw, .i32, .n32] [] .no
  | 0x16 => intOp .any .any .any tys32 [] .no
  | 0x17 => intOp .any .any .any [.raw, .i32, .n32] [] .no
  | 0x18 | 0x19 => { intOp .vec .vec .none tys32 tys32 .no with wide := .dab }
  | 0x1A => { intOp .any .any .none tys32 [] .no with wide := .d }
  | 0x1B => { d := .pred, a := .any, b := .any, tys := tysInt, im := .yes, mods := .icmp true }
  | 0x1C | 0x1D | 0x1E => { d := .pred, a := .pred, b := .pred, mods := .int [] false }
  | 0x1F => { d := .pred, a := .pred, mods := .int [] false }
  | 0x20 => { d := .vec, a := .any, b := .any, c := .pred, tys := tysAll, mods := .int [] true, wide := .ty }
  | 0x21 => { d := .vec, a := .vec, tys := tysAll, mods := .int [] true, wide := .ty }
  | 0x22 => { d := .vec, tys := tysAll.erase .f64, cross := .movi, ix := false }
  | 0x23 => { d := .sc, faces := .noPair, cross := .movi, ix := false }
  | 0x24 => { d := .vec, a := .sc, tys := (tysAll.erase .f64).erase .q4, mods := .int [] false }
  | 0x25 => { d := .sc, a := .vec, b := .litSc 31, tys := [.raw, .i32, .n32, .f32, .i16x2, .bf16x2]
              faces := .noPair, mods := .int [] true, ix := false }
  | 0x26 | 0x27 | 0x28 => scOp tys32
  | 0x29 | 0x2A | 0x2B | 0x2C | 0x2D | 0x38 | 0x39 => scOp []
  | 0x2E => { scOp [] with mods := .icmp false }
  | 0x2F => { d := .xreg, a := .any, tys := tys32, mods := .int [] false }
  | 0x30 => { d := .xreg, a := .xreg, b := .any, tys := [.i32], im := .yes, mods := .int [] false }
  | 0x31 => { d := .vec, a := .xreg, mods := .int [] false }
  | 0x32 => { d := .vec, a := .lit 255, b := .lit 255, faces := .noPair, mods := .int [] false, cross := .srd }
  | 0x33 => { d := .sc, a := .lit 255, b := .lit 255, faces := .noPair, mods := .int [] false, ix := false
              cross := .srds }
  | 0x34 => { d := .sc, faces := .noPair, mods := .int [] false, ix := false }
  | 0x35 => { a := .sc, faces := .noPair, mods := .int [] false, ix := false }
  | 0x36 => { d := .vec, tys := tysAll, faces := .noPair, mods := .int [] false, ix := false, wide := .ty }
  | 0x37 => { d := .sc, a := .vec, faces := .noPair, mods := .int [] false, ix := false }
  | _ => { d := .sc, a := .sc, tys := tys32, faces := .noPair, mods := .int [] false, ix := false }

/-- Shapes of class 0011 by op number (R73, R118 to R128). -/
def spec3 : Nat → OpSpec
  | 0x00 | 0x01 | 0x02 => fltOp .any .none true true .yes
  | 0x03 => fltOp .any .any true true .no
  | 0x04 | 0x05 | 0x06 | 0x07 => fltOp .any .none false true .yes
  | 0x08 | 0x09 => fltOp .none .none false true .no
  | 0x0A => { d := .pred, a := .any, b := .any, tys := tysFlt, im := .yes, mods := .fcmp, wide := .ty }
  | 0x0B => { d := .pred, a := .any, tys := tysFlt, mods := .fcls, wide := .ty }
  | 0x0C | 0x0D | 0x0E => { d := .vec, a := .any, tys := [.f32], mods := .flt true true true }
  | 0x0F | 0x10 => { d := .vec, a := .any, tys := [.f32], mods := .flt false true true }
  | 0x11 => { fltOp .none .none true true .no with tys := tysFlt }
  | 0x12 => { fltOp .any .none true true .no with tys := tysFlt, wide := .tyDA }
  | 0x13 => { fltOp .none .none false true .no with tys := tysFlt, wide := .tyA }
  | 0x14 => fltOp .any .none false false .no
  | _ => { fltOp .none .none false true .no with tys := tysFlt }

/-- Shapes of class 0100 by op number (R129 to R132). -/
def spec4 : Nat → OpSpec
  | 0x00 => { d := .vec, a := .any, c := .lit 15, tys := tysCvt, mods := .cvt, wide := .cvt, cross := .cvt }
  | 0x01 => { d := .vec, a := .vec, b := .vec, c := .lit 63, tys := [.q4], mods := .q4, cross := .q4pack }
  | 0x02 => { d := .vec, a := .vec, b := .any, tys := [.f16, .bf16, .f32], mods := .q4, cross := .q4unpk }
  | 0x03 => { d := .vec, a := .any, b := .any, tys := [.bf16x2, .i16x2], mods := .pack }
  | _ => { d := .vec, a := .vec, b := .lit 1, tys := [.bf16, .i16], mods := .pack }

/-- Shapes of class 0101 by op number (R133 to R136). -/
def spec5 : Nat → OpSpec
  | 0x00 => { d := .vec, a := .vec, b := .lit 31, tys := tysAll.erase .q4, mods := .lane, wide := .ty }
  | 0x01 => { d := .vec, a := .vec, b := .any, tys := tysAll.erase .q4, mods := .lane, wide := .tyDA }
  | 0x02 => { d := .vec, a := .vec, b := .litSc 31, tys := tysAll.erase .q4, mods := .lane, wide := .tyDA }
  | 0x03 => { d := .sc, a := .pred, faces := .noPair, mods := .pred, ix := false }
  | 0x04 => { d := .sc, a := .pred, b := .lit 3, faces := .noPair, mods := .pred, ix := false }
  | 0x05 | 0x06 | 0x07 => { d := .sc, a := .vec, tys := [.i32, .n32, .f32], faces := .noPair, mods := .lane }
  | _ => { d := .sc, a := .vec, tys := [.raw, .i32, .n32], faces := .noPair, mods := .lane }

/-- Shapes of the general-form operations of class 0110 by op number (R138). -/
def spec6 : Nat → OpSpec
  | 0x00 => { a := .pred, faces := .only00, ix := false }
  | 0x03 => { ix := false }
  | 0x04 => { im := .target, faces := .only00, ix := false, cross := .endloop }
  | 0x05 => { a := .pred, ix := false }
  | 0x06 => { a := .pred, faces := .noPair, ix := false }
  | 0x07 => { im := .target, faces := .only00, ix := false }
  | 0x08 | 0x09 => { a := .sc, im := .target, faces := .only00, ix := false }
  | 0x0C => { faces := .noPair, ix := false }
  | 0x0F => { a := .pred, faces := .noPair, ix := false }
  | _ => { faces := .only00, ix := false }

/-- Shapes of TRAP, TRET, TRET.SKIP and BKPT (R156, R157, R257). TRET and TRET.SKIP have
every bit but CLASS and OP zero. -/
def specC : Nat → OpSpec
  | 0x00 => { b := .lit 255, faces := .noPair, ix := false }
  | 0x03 => { faces := .noPair, ix := false }
  | _ => { faces := .only00, ix := false, cross := .bare }

/-- The shape of a general-form operation by class and op (R73). -/
def opSpec (cls op : Nat) : OpSpec :=
  match cls with
  | 2 => spec2 op
  | 3 => spec3 op
  | 4 => spec4 op
  | 5 => spec5 op
  | 6 => spec6 op
  | _ => specC op

/-- Whether a set of operand roles is a 64-bit pair: `r` is 0 for D, 1 for A, 2 for B, 3 for C;
`src` is the source type of CVT. -/
def Wide.pair (w : Wide) (ty src : Ty) (r : Nat) : Bool :=
  match w with
  | .no => false
  | .ty => ty == .f64
  | .tyDA => ty == .f64 && r ≤ 1
  | .tyA => ty == .f64 && r == 1
  | .dab => r ≤ 2
  | .d => r == 0
  | .cvt => r == 0 && ty == .f64 || r == 1 && src == .f64

/-- The width in bits of an element of a type (R35); 32 where the image is the value. -/
def Ty.width : Ty → Nat
  | .i8 | .n8 => 8
  | .i16 | .n16 | .i16x2 | .f16 | .bf16 | .bf16x2 => 16
  | .e4m3 | .e5m2 => 8
  | .f64 => 64
  | _ => 32

/-- Whether a type is a signed integer (R36). -/
def Ty.signed : Ty → Bool
  | .i8 | .i16 | .i32 | .i16x2 => true
  | _ => false

/-- The low `w` bits of `x`, read as signed when `sg` (R36). -/
def readInt (w : Nat) (sg : Bool) (x : Nat) : Int :=
  let y := x % 2 ^ w
  if sg && decide (2 ^ (w - 1) ≤ y) then (y : Int) - 2 ^ w else y

/-- Whether a 32-bit word is a valid register image of a type (R35, R111). -/
def validImage (ty : Ty) (v : W32) : Bool :=
  match ty with
  | .i8 => v == (v.truncate 8).signExtend 32
  | .n8 => v == (v.truncate 8).zeroExtend 32
  | .i16 => v == (v.truncate 16).signExtend 32
  | .n16 | .f16 | .bf16 => v == (v.truncate 16).zeroExtend 32
  | .e4m3 | .e5m2 => v == (v.truncate 8).zeroExtend 32
  | _ => true

/-- The range of an integer type (R36). -/
def Ty.minVal : Ty → Int
  | .i8 => -128 | .i16 | .i16x2 => -32768 | .i32 => -2147483648 | _ => 0
/-- The range of an integer type (R36). -/
def Ty.maxVal : Ty → Int
  | .i8 => 127 | .n8 => 255 | .i16 | .i16x2 => 32767 | .n16 => 65535 | .i32 => 2147483647
  | _ => 4294967295

/-- The value of operand B in the immediate form by TYPE, as a register image or pair (R68);
none where bits that must be zero are not, or the value leaves the type's range. For n32 the
immediate is sign-extended as R68 says and a negative value lies outside the range (log 12). -/
def immValue (ty : Ty) (v : BitVec 28) : Option W64 :=
  match ty with
  | .i8 | .n8 | .i16 | .n16 | .i32 | .n32 =>
    if ty.minVal ≤ v.toInt ∧ v.toInt ≤ ty.maxVal then some (v.signExtend 64) else none
  | .f32 => some ((v.zeroExtend 64) <<< 4)
  | .f64 => some ((v.zeroExtend 64) <<< 36)
  | .f16 | .bf16 => if v.toNat < 2 ^ 16 then some (v.zeroExtend 64) else none
  | .e4m3 | .e5m2 => if v.toNat < 2 ^ 8 then some (v.zeroExtend 64) else none
  | .i16x2 | .bf16x2 =>
    if v.toNat < 2 ^ 16 then some (v.zeroExtend 64 ||| (v.zeroExtend 64) <<< 16) else none
  | .raw | .q4 => none

/-- Source type code carried in the C field of CVT and Q4PACK (R70, R129, R131). -/
def Opnds.srcTy (o : Opnds) : Ty :=
  match o.c with
  | .lit n => Ty.ofCode (n % 16)
  | _ => .raw

/-- Whether a type is a floating format (R38). -/
def Ty.isFloat : Ty → Bool
  | .f16 | .bf16 | .f32 | .f64 | .e4m3 | .e5m2 => true
  | _ => false

/-- Whether a run of `n` registers from a vector operand stays below v256. -/
def Src.runOk (s : Src) (n : Nat) : Bool :=
  match s with
  | .vec r => decide (r + n ≤ 256)
  | _ => true

/-- Whether a run of `n` registers from a destination stays below v256. -/
def Dst.runOk (d : Dst) (n : Nat) : Bool :=
  match d with
  | .vec r => decide (r + n ≤ 256)
  | _ => true

/-- The ILLEGAL_FIELD checks of an entry across its operands: true when they pass. -/
def crossOk (x : Cross) (ty : Ty) (o : Opnds) : Bool :=
  match x with
  | .none | .bare => true
  | .cvt => match o.c with
    | .lit n => decide (Ty.ofCode n ∈ tysCvt)
    | _ => false
  | .q4pack =>
    decide (o.srcTy ∈ [Ty.f32, .bf16, .f16]) && o.a.runOk 8 &&
      (match o.b, o.d with
       | .vec rb, .vec rd => rb != rd
       | _, _ => true)
  | .q4unpk => o.d.runOk 8
  | .srd | .srds => match o.a, o.b with
    | .lit c, .lit w => match srMaxWord c with
      | some m => decide (w ≤ m) && !(x == .srds && c == 0)
      | none => false
    | _, _ => false
  | .endloop => match o.b with
    | .imm v => decide (v.toInt < 0)
    | _ => true
  | .movi => match o.b with
    | .w32 v => validImage ty v
    | _ => false

/-- Whether a modifier set is one that the entry accepts with these types (R67, R129): the
ILLEGAL_MOD checks. Condition codes are those of R108, R122 and R123. -/
def modsOk (k : ModKind) (ty src : Ty) (m : Mods) : Bool :=
  match k with
  | .zero | .pred => !m.any && !m.sat
  | .int sat any => (!m.sat || decide (ty ∈ sat)) && (!m.any || any)
  | .icmp any => !m.sat && (!m.any || any) && decide (m.cond ≤ 5)
  | .flt rounds ftz any => (m.rm == .rn || rounds) && (!m.ftz || ftz) && (!m.any || any)
  | .fcmp => decide (m.cond ≤ 13)
  | .fcls => decide (m.cond ≤ 10)
  | .cvt =>
    let fl := ty.isFloat || src.isFloat
    (m.rm == .rn || fl) && (!m.ftz || fl) && (!m.sat || !ty.isFloat) &&
      (!m.nosat || ty == .e4m3 || ty == .e5m2)
  | .q4 => !m.sat
  | .pack => m.rm == .rn && !m.ftz && !m.sat
  | .lane => true

/-- How a memory-form operation reads its D field (R71, R163, R176, R179, R183): a vector
register, an even one, nothing, a scalar, or an even scalar. -/
inductive MDst where
  | vec | vecEven | none | sc | scEven
  deriving DecidableEq, Repr

/-- What OPX holds (R71, R168, R176): a displacement, the index fields of a gather, zero, or
the predicate of FADDB. -/
inductive MOpx where
  | disp | gather | zero | pred
  deriving DecidableEq, Repr

/-- The rows of R163. -/
inductive MRow where
  | near | ldq | stq | gq | atom | red | lock
  deriving DecidableEq, Repr

/-- The shape of a memory-form operation. -/
structure MSpec where
  row : MRow
  d : MDst
  opx : MOpx
  pair : Bool
  deriving DecidableEq, Repr

/-- Shapes of the memory-form operations of classes 0111, 1000 and 1001 by op number (R73). -/
def mSpec (cls op : Nat) : Option MSpec :=
  match cls, op with
  | 7, 0 | 7, 1 => some ⟨.near, .vec, .disp, true⟩
  | 7, 2 | 7, 3 => some ⟨.near, .vec, .gather, true⟩
  | 8, 0 => some ⟨.ldq, .vec, .disp, true⟩
  | 8, 1 => some ⟨.stq, .vec, .disp, true⟩
  | 8, 2 | 8, 3 => some ⟨.gq, .vec, .gather, true⟩
  | 8, 4 => some ⟨.gq, .none, .disp, true⟩
  | 9, 7 => some ⟨.atom, .vecEven, .zero, false⟩
  | 9, 9 => some ⟨.atom, .vecEven, .pred, false⟩
  | 9, 0 | 9, 1 | 9, 2 | 9, 3 | 9, 4 | 9, 5 | 9, 6 | 9, 8 | 9, 10 | 9, 11 =>
    some ⟨.atom, .vec, .zero, false⟩
  | 9, 12 | 9, 13 | 9, 14 => some ⟨.red, .vec, .zero, false⟩
  | 9, 0x12 | 9, 0x13 => some ⟨.lock, .none, .zero, false⟩
  | 9, 0x17 => some ⟨.lock, .scEven, .zero, false⟩
  | 9, 0x18 => some ⟨.lock, .sc, .zero, false⟩
  | _, _ => none

/-- The combinations of access class, annotation, scope and `.rsp` that R163 accepts. -/
def mModsOk (row : MRow) (acls : Acls) (ann : Ann) (f : MFace) : Bool :=
  let rspOk := f.rsp && (f.scope == .die || f.scope == .dev)
  let vol := acls == .vol && ann == .none && f.scope == .wl
  match row with
  | .near => ann == .none && f.scope == .wl && !f.rsp
  | .ldq =>
    (vol && !f.rsp) || (acls != .vol && ann == .none && !f.rsp) ||
      (acls == .sg && ann == .acq && (!f.rsp || rspOk))
  | .stq => !f.rsp && (vol || (acls != .vol && ann == .none) || (acls == .sg && ann == .rel))
  | .gq => acls == .wk && ann == .none && !f.rsp
  | .atom =>
    acls != .vol && (!f.rsp || (rspOk && (ann == .acq || ann == .ar)))
  | .red => acls != .vol && (ann == .none || ann == .rel) && !f.rsp
  | .lock => acls == .wk && ann == .none && f.scope == .wl && !f.rsp

/-- The ILLEGAL_FIELD checks of one face of a memory-form word that need no layout record:
true when they pass (R71, R176, R179, R183). -/
def mFieldsOk (sp : MSpec) (f : MFace) : Bool :=
  (match sp.d with
   | .vec => true
   | .vecEven => f.d % 2 == 0
   | .none => f.d == 0
   | .sc => decide (f.d < 64)
   | .scEven => decide (f.d < 64) && f.d % 2 == 0) &&
  (match sp.opx with
   | .disp | .gather => true
   | .zero => f.opx == 0
   | .pred => decide (f.opx.toNat < 8)) &&
  (match sp.row with
   | .near => !f.fsel
   | .lock => !f.fsel && f.a == 0 && f.ckind == 0
   | _ => true)

end Sys2Proof
end

