-- ==== Sys2Proof/WellFormed.lean ====
section
/-!
DEFINITION. Sys2Proof/WellFormed.lean: which instruction terms an encoding can hold.

The checks of each form: operands in the ranges and combinations that the form admits (R60 to
R75 and the entries). `Instr.wf` in Decode.lean applies them by constructor. They speak of syntax
alone; checks that need the machine (the working set, tags, layouts, faces outside a region) are the machine's.
-/
namespace Sys2Proof

/-- A destination operand of the file the entry fixes (R65, R66). -/
def Dst.wf (k : DKind) (pair ix : Bool) : Dst → Bool
  | .none => k == .none
  | .vec r => k == .vec && decide (r < 256) && (!pair || r % 2 == 0)
  | .vix x o => k == .vec && ix && !pair && decide (x < 8) && decide (o < 256)
  | .pred q => k == .pred && decide (q < 8)
  | .xreg x => k == .xreg && decide (x < 8)
  | .sc n => k == .sc && decide (n < 64)

/-- A source operand of a kind the entry allows (R65, R66). -/
def Src.wf (k : OKind) (pair ix : Bool) : Src → Bool
  | .none => k == .none
  | .vec r => (k == .any || k == .vec) && decide (r < 256) && (!pair || r % 2 == 0)
  | .vix x o => (k == .any || k == .vec) && ix && !pair && decide (x < 8) && decide (o < 256)
  | .sc n =>
    decide (n < 64) && !pair &&
      (match k with | .any | .sc | .litSc _ => true | _ => false)
  | .pred q => k == .pred && decide (q < 8)
  | .xreg x => k == .xreg && decide (x < 8)
  | .lit n => (match k with | .lit m | .litSc m => decide (n ≤ m) | _ => false) && decide (n < 256)
  | .imm _ => false
  | .w32 _ => false

/-- Whether a source operand is indexed. -/
def Src.isIx : Src → Bool
  | .vix _ _ => true
  | _ => false

/-- Whether a destination operand is indexed. -/
def Dst.isIx : Dst → Bool
  | .vix _ _ => true
  | _ => false

/-- At most one operand of an instruction is indexed (R23). -/
def Opnds.oneIx (o : Opnds) : Bool :=
  [o.d.isIx, o.a.isIx, o.b.isIx, o.c.isIx].count true ≤ 1

/-- Modifier fields that the OPMOD layout of the kind can carry (R67). -/
def modsRep (k : ModKind) (ty : Ty) (m : Mods) : Bool :=
  match k with
  | .zero | .pred => m == {}
  | .int _ _ => m.rm == .rn && !m.ftz && !m.nosat && m.cond == 0
  | .icmp _ => m.rm == .rn && !m.ftz && !m.nosat
  | .flt _ _ _ => !m.sat && !m.nosat && m.cond == 0
  | .fcmp | .fcls => m.rm == .rn && !m.ftz && !m.sat && !m.nosat
  | .cvt => m.cond == 0 && !(if ty.isFloat then m.sat else m.nosat)
  | .q4 | .pack => !m.sat && !m.nosat && m.cond == 0
  | .lane => m.rm == .rn && !m.ftz && !m.sat && !m.nosat && m.cond == 0

/-- The immediate form of an operand set (R68, R108, R122, R138). -/
def wfImm (sp : OpSpec) (ty : Ty) (o : Opnds) (v : BitVec 28) : Bool :=
  o.c == .none && !o.d.isIx && !o.a.isIx && o.mods == { cond := o.mods.cond } &&
  (match sp.im with
   | .no => false
   | .target => o.mods.cond == 0
   | .yes =>
     (immValue ty v).isSome &&
     (match sp.mods with
      | .icmp _ => v == (v.truncate 24).signExtend 28
      | .fcmp => true
      | _ => o.mods.cond == 0))

/-- One operand set of a general-form instruction. -/
def wfOpnds (sp : OpSpec) (ty : Ty) (o : Opnds) : Bool :=
  let p := sp.wide.pair ty o.srcTy
  o.d.wf sp.d (p 0) sp.ix && o.a.wf sp.a (p 1) sp.ix && o.oneIx &&
  modsOk sp.mods ty o.srcTy o.mods && crossOk sp.cross ty o &&
  (match o.b with
   | .imm v => wfImm sp ty o v
   | .w32 _ => sp.cross == .movi && o.c == .none && o.mods == {}
   | b => sp.im != .target && sp.cross != .movi && b.wf sp.b (p 2) sp.ix &&
     o.c.wf sp.c (p 3) sp.ix && modsRep sp.mods ty o.mods)

/-- A general-form instruction of an operation's shape (R64, R70). -/
def G.wf (sp : OpSpec) (g : G) : Bool :=
  decide (g.ty ∈ sp.tys) && sp.faces.allows g.face && wfOpnds sp g.ty g.fa &&
  (match g.fb with
   | none => g.face != .paired
   | some o => g.face == .paired && wfOpnds sp g.ty o)

/-- A range of an interval header: an empty range has base 0 (R61). -/
def Range.wf (r : Range) : Bool :=
  decide (r.base < 256) && decide (r.count < 32) && decide (r.base + r.count ≤ 256) &&
    (r.count != 0 || r.base == 0)

/-- Two ranges share no register (R61). -/
def Range.disjoint (a b : Range) : Bool :=
  a.count == 0 || b.count == 0 || decide (a.base + a.count ≤ b.base) ||
    decide (b.base + b.count ≤ a.base)

/-- The ranges of an interval header in order. -/
def IntervalHdr.ranges (h : IntervalHdr) : List Range := [h.r0, h.r1, h.r2, h.r3]

/-- The range that WSEL names (R60). -/
def IntervalHdr.window (h : IntervalHdr) : Range :=
  match h.wsel with
  | 0 => h.r0 | 1 => h.r1 | 2 => h.r2 | _ => h.r3

/-- The ILLEGAL_HDR checks of R61 that need no budget: true when they pass. -/
def IntervalHdr.contentsOk (h : IntervalHdr) : Bool :=
  decide ((h.ranges.map Range.count).sum ≤ 32) &&
  h.ranges.all (fun r => decide (r.base + r.count ≤ 256)) &&
  h.r0.disjoint h.r1 && h.r0.disjoint h.r2 && h.r0.disjoint h.r3 &&
  h.r1.disjoint h.r2 && h.r1.disjoint h.r3 && h.r2.disjoint h.r3 &&
  (!h.wen || h.window.count != 0)

/-- An interval header that passes R61. -/
def IntervalHdr.wf (h : IntervalHdr) : Bool :=
  h.ranges.all Range.wf && decide (h.wsel < 4) && (h.wen || h.wsel == 0) && h.contentsOk

/-- A flag selector of a clause header: 0 to 11, or 15 for none (R62, R63). -/
def setOk (n : Nat) : Bool := decide (n < 12) || n == 15

/-- A clause header that passes R63. -/
def ClauseHdr.wf (h : ClauseHdr) : Bool :=
  decide (h.wait < 4096) && setOk h.setA && setOk h.setB && (h.setA != h.setB || h.setA == 15) &&
  decide (h.len < 8) && h.stalls.length == 8 && h.stalls.all (fun n => decide (n < 16)) &&
  (h.stalls.drop (h.len + 1)).all (fun n => n == 0)

/-- A layout handle of the memory form (R71). -/
def Handle.wf : Handle → Bool
  | .imm h => decide (h < 1024)
  | .sc n => decide (n < 64)

/-- One face of a memory-form instruction. -/
def MFace.wf (f : MFace) : Bool :=
  f.handle.wf && decide (f.d < 256) && decide (f.a < 256) && decide (f.b < 64)

/-- A memory-form instruction of an operation's shape (R71, R163). -/
def MForm.wf (sp : MSpec) (m : MForm) : Bool :=
  let one := fun (f : MFace) => f.wf && mFieldsOk sp f && mModsOk sp.row m.acls m.ann f
  one m.fa &&
  (match m.fb with
   | none => m.face != .paired
   | some f => m.face == .paired && sp.pair && one f)

/-- A literal below `l` or a scalar. -/
def Uni.wf (lo hi : Nat) : Uni → Bool
  | .lit n => decide (lo ≤ n) && decide (n ≤ hi)
  | .sc n => decide (n < 64)

/-- One face of CALL (R138): with n = 0, D and A are zero. -/
def CallFace.wf (n : Nat) (f : CallFace) : Bool :=
  decide (f.d < 256) && decide (f.a < 256) && (n != 0 || (f.d == 0 && f.a == 0))

/-- The two faces name one target with different D fields (R145). -/
def CallForm.clash (c : CallForm) (f : CallFace) : Bool := c.fa.off == f.off && c.fa.d != f.d

/-- CALL (R138, R145). -/
def CallForm.wf (c : CallForm) : Bool :=
  decide (c.n ≤ 8) && c.fa.wf c.n &&
  (match c.fb with
   | none => c.face != .paired
   | some f => c.face == .paired && f.wf c.n && !c.clash f)

/-- The scalar runs of a weaver operation stay below s64 (R158): `nd` results, `na` sources. -/
def WvForm.wf (nd na : Nat) (lit flag faced : Bool) (f : WvForm) : Bool :=
  (if faced then f.face != .paired else f.face == .both) && decide (f.d + nd ≤ 64) && decide (f.a + na ≤ 64) && (na != 0 || f.a == 0) &&
  (if lit then decide (1 ≤ f.b) && decide (f.b ≤ 64) else f.b == 0) && (flag || !f.fsel)

/-- The modes of MMA (R188). -/
def tysMma : List Ty := [.f16, .bf16, .f32, .f64, .e4m3, .e5m2, .q4]

/-- MMA and MMAZ (R186, R188). -/
def MmaForm.wf (f : MmaForm) : Bool :=
  decide (f.ty ∈ tysMma) && f.face != .paired && decide (f.acc < 8) &&
  (f.ty != .f64 || f.acc % 2 == 0) && decide (f.ha < 1024) && decide (f.hb < 1024) &&
  decide (f.sk < 64) && decide (f.sm < 64) && decide (f.sn < 64) && decide (f.kc < 32)

/-- MREAD and MWRITE (R194). -/
def MrwForm.wf (f : MrwForm) : Bool :=
  (f.ty == .f32 || f.ty == .f64) && f.face != .paired && decide (f.acc < 8) &&
  (f.ty != .f64 || (f.acc % 2 == 0 && f.d % 2 == 0)) &&
  decide (f.d + (if f.ty == .f64 then 8 else 4) ≤ 256) && f.row.wf 0 127

/-- MZERO (R193). -/
def MzeroForm.wf (f : MzeroForm) : Bool :=
  (f.ty == .f32 || f.ty == .f64) && f.face != .paired && decide (f.acc < 8) &&
  (f.ty != .f64 || f.acc % 2 == 0)

/-- MSTORE (R195). -/
def MstoreForm.wf (f : MstoreForm) : Bool :=
  f.face != .paired && decide (f.acc < 8) && f.handle.wf && decide (f.sc0 < 64) &&
  decide (f.sc1 < 64) && f.rm != .rs

/-- STFOLD (R196). -/
def StfoldForm.wf (f : StfoldForm) : Bool :=
  f.face != .paired && decide (f.acc < 8) && f.handle.wf && decide (f.sc0 < 64) &&
  decide (f.sc1 < 64) && decide (f.sb < 64)

/-- COPY.SLICE (R201). -/
def CopyForm.wf (f : CopyForm) : Bool :=
  f.face != .paired && decide (f.cq < 4) && decide (f.hd < 1024) && decide (f.hs < 1024) &&
  decide (f.sd < 64) && decide (f.ss < 64) && f.i.wf 0 15 && decide (f.nm1 < 16)

/-- BCALL (R209). -/
def BcallForm.wf (f : BcallForm) : Bool :=
  f.face != .paired && decide (f.handle < 1024) && decide (f.sc < 64) && decide (f.sp < 64) &&
  f.sp % 2 == 0 && decide (f.sa + 4 ≤ 64)

/-- A row register of a bank program (R210). -/
def rowOk (n : Nat) : Bool := decide (n < 8)

end Sys2Proof
end

