-- ==== Sys2Proof/Decode.lean ====
section
/-!
DEFINITION. Sys2Proof/Decode.lean: from words to instructions, and back.

`decodeWord` reads one word of a wale's code and its pair-extension word (R57 to R77);
`decodeBank` a 32-bit bank instruction (R211). A rejection names the cause that R77 ranks
first among the checks that depend on the word alone; placement (R58, R59) and privilege
(R76) are checked where the machine stands. The encoders at the end are written from the
same field tables.
-/
namespace Sys2Proof

/-- Bits `lo + n - 1 : lo` of a number. -/
def fld (x lo n : Nat) : Nat := x / 2 ^ lo % 2 ^ n

/-- The cause a word is rejected with (R77 items 1, 2, 3, 6, 7). -/
inductive DecCause where
  | hdr | field | mod
  deriving DecidableEq, Repr

/-- What the privilege check of R77 item 5 makes of a rejected word: nothing, a privileged
operation (R76), or a read of a trap register (R114). -/
inductive DecPriv where
  | none | op | trapReg
  deriving DecidableEq, Repr

/-- A rejection. -/
structure DecErr where
  cause : DecCause
  priv : DecPriv
  deriving DecidableEq, Repr

/-- The result of the checks of R77 items 6 and 7. -/
def verdict (fieldOk modOk : Bool) (p : DecPriv) (i : Instr) : Except DecErr Instr :=
  if fieldOk then if modOk then .ok i else .error ⟨.mod, p⟩ else .error ⟨.field, p⟩

/-- Bits 47:0 of a general-form word as fields (R64). -/
structure Raw48 where
  ak : Nat
  bk : Nat
  ck : Nat
  im : Nat
  d : Nat
  a : Nat
  b : Nat
  c : Nat
  ixe : Nat
  ixr : Nat
  ixo : Nat
  om : Nat
  deriving DecidableEq, Repr

/-- The fields of R64. -/
def Raw48.ofNat (x : Nat) : Raw48 :=
  { ak := fld x 47 1, bk := fld x 46 1, ck := fld x 45 1, im := fld x 44 1, d := fld x 36 8
    a := fld x 28 8, b := fld x 20 8, c := fld x 12 8, ixe := fld x 11 1, ixr := fld x 8 3
    ixo := fld x 6 2, om := fld x 0 6 }

/-- The fields of R64 laid out in bits 47:0. -/
def Raw48.toNat (r : Raw48) : Nat :=
  r.ak * 2 ^ 47 + r.bk * 2 ^ 46 + r.ck * 2 ^ 45 + r.im * 2 ^ 44 + r.d * 2 ^ 36 + r.a * 2 ^ 28 +
    r.b * 2 ^ 20 + r.c * 2 ^ 12 + r.ixe * 2 ^ 11 + r.ixr * 2 ^ 8 + r.ixo * 2 ^ 6 + r.om

/-- The bits beside IXE: with IXE = 0, IXR and IXO are zero (R66). -/
def Raw48.ixZero (r : Raw48) : Bool := r.ixe == 1 || (r.ixr == 0 && r.ixo == 0)

/-- A vector operand field, indexed when `ix` names the index register (R23, R66). -/
def vecSrc (f : Nat) : Option Nat → Src
  | none => .vec f
  | some x => .vix x f

/-- A source operand field by its kind (R65), with whether its value is legal. -/
def decSrc (k : OKind) (pair : Bool) (kb f : Nat) (ix : Option Nat) : Src × Bool :=
  match k with
  | .none => (.none, kb == 0 && f == 0)
  | .any =>
    if kb == 1 then (.sc f, decide (f < 64) && !pair)
    else (vecSrc f ix, !pair || f % 2 == 0)
  | .vec => (vecSrc f ix, kb == 0 && (!pair || f % 2 == 0))
  | .sc => (.sc f, kb == 1 && decide (f < 64))
  | .pred => (.pred f, kb == 0 && decide (f < 8))
  | .xreg => (.xreg f, kb == 0 && decide (f < 8))
  | .lit m => (.lit f, kb == 0 && decide (f ≤ m))
  | .litSc m => if kb == 1 then (.sc f, decide (f < 64)) else (.lit f, decide (f ≤ m))

/-- A destination operand field by its file (R65), with whether its value is legal. -/
def decDst (k : DKind) (pair : Bool) (f : Nat) (ix : Option Nat) : Dst × Bool :=
  match k with
  | .none => (.none, f == 0)
  | .vec => (match ix with | none => .vec f | some x => .vix x f, !pair || f % 2 == 0)
  | .pred => (.pred f, decide (f < 8))
  | .xreg => (.xreg f, decide (f < 8))
  | .sc => (.sc f, decide (f < 64))

/-- OPMOD by the layout of its kind (R67): modifiers, whether every undefined bit is zero,
and whether the rounding code names a mode. -/
def decMods (k : ModKind) (ty : Ty) (om : Nat) : Mods × Bool × Bool :=
  let any := fld om 0 1 == 1
  let b1 := fld om 1 1 == 1
  let rmc := RMode.ofCode (fld om 3 3)
  let rm := rmc.getD .rn
  let ftz := fld om 2 1 == 1
  match k with
  | .zero => ({}, om == 0, true)
  | .pred => ({}, decide (om < 2), om == 0)
  | .int _ _ => ({ sat := fld om 5 1 == 1, any := any }, fld om 1 4 == 0, true)
  | .icmp _ => ({ sat := fld om 5 1 == 1, any := any, cond := fld om 1 4 }, true, true)
  | .flt _ _ _ => ({ rm := rm, ftz := ftz, any := any }, !b1, rmc.isSome)
  | .fcmp | .fcls => ({ any := any, cond := fld om 1 5 }, true, true)
  | .cvt =>
    ({ rm := rm, ftz := ftz, any := any, sat := b1 && !ty.isFloat, nosat := b1 && ty.isFloat },
      true, rmc.isSome)
  | .q4 | .pack => ({ rm := rm, ftz := ftz, any := any, sat := b1 }, true, rmc.isSome)
  | .lane => ({ any := any }, fld om 1 5 == 0, true)

/-- Whether an indexed operand is one that may be indexed (R66). -/
def ixOk (sp : OpSpec) (p : Nat → Bool) (r : Raw48) : Bool :=
  let src := fun (k : OKind) (kb : Nat) (n : Nat) => (k == .any || k == .vec) && kb == 0 && !p n
  r.ixe == 0 || (sp.ix &&
    (match r.ixo with
     | 0 => sp.d == .vec && !p 0
     | 1 => src sp.a r.ak 1
     | 2 => src sp.b r.bk 2
     | _ => src sp.c r.ck 3))

/-- One operand set in the register form (R64 to R67), with its field and modifier verdicts. -/
def decReg (sp : OpSpec) (ty : Ty) (r : Raw48) : Opnds × Bool × Bool :=
  let p := sp.wide.pair ty (Ty.ofCode (r.c % 16))
  let ix := fun n => if r.ixe == 1 && r.ixo == n then some r.ixr else none
  let d := decDst sp.d (p 0) r.d (ix 0)
  let a := decSrc sp.a (p 1) r.ak r.a (ix 1)
  let b := decSrc sp.b (p 2) r.bk r.b (ix 2)
  let c := decSrc sp.c (p 3) r.ck r.c (ix 3)
  let m := decMods sp.mods ty r.om
  let o : Opnds := { d := d.1, a := a.1, b := b.1, c := c.1, mods := m.1 }
  (o, d.2 && a.2 && b.2 && c.2 && m.2.1 && crossOk sp.cross ty o &&
      r.ixZero,
    m.2.2 && ixOk sp p r && modsOk sp.mods ty o.srcTy m.1 && sp.im != .target)

/-- The ILLEGAL_FIELD checks across the operands that the immediate form still has. Where the
opcode map does not allow the form, the fields that the immediate displaces decide nothing:
IMM = 1 is then ILLEGAL_MOD (R68). -/
def crossImm (x : Cross) (ty : Ty) (o : Opnds) : Bool :=
  match x with
  | .cvt => true
  | .q4pack => o.a.runOk 8
  | .srd | .srds => match o.a with
    | .lit c => (srMaxWord c).isSome && !(x == .srds && c == 0)
    | _ => true
  | x => crossOk x ty o

/-- One operand set in the immediate form (R68, with the layouts of R108, R122 and R138). -/
def decImm (sp : OpSpec) (ty : Ty) (r : Raw48) (imm : Nat) : Opnds × Bool × Bool :=
  let p := sp.wide.pair ty .raw
  let v28 := BitVec.ofNat 28 imm
  let cond := match sp.mods with
    | .icmp _ => fld imm 24 4
    | .fcmp => fld r.d 3 5
    | _ => 0
  let v := match sp.mods with
    | .icmp _ => (v28.truncate 24).signExtend 28
    | _ => v28
  let df := match sp.mods with
    | .fcmp => fld r.d 0 3
    | _ => r.d
  let d := decDst sp.d (p 0) df none
  let a := decSrc sp.a (p 1) r.ak r.a none
  let o : Opnds := { d := d.1, a := a.1, b := .imm v, c := .none, mods := { cond := cond } }
  let allowed := match sp.im with
    | .no => false
    | .yes => ty != .raw && ty != .q4
    | .target => true
  (o, d.2 && a.2 && r.bk == 0 && r.ck == 0 && crossImm sp.cross ty o &&
      (sp.im != .yes || !allowed || (immValue ty v).isSome),
    allowed && modsOk sp.mods ty .raw o.mods)

/-- One operand set in the MOVI form (R69). -/
def decMovi (sp : OpSpec) (ty : Ty) (x : Nat) : Opnds × Bool × Bool :=
  let d := decDst sp.d false (fld x 36 8) none
  let o : Opnds := { d := d.1, a := .none, b := .w32 (BitVec.ofNat 32 x), c := .none, mods := {} }
  (o, d.2 && fld x 44 4 == 0 && fld x 32 4 == 0 && crossOk sp.cross ty o, true)

/-- Bits 47:0 of a general-form word (R64, R68, R69); of TRET and TRET.SKIP every one is zero,
IMM and IXE too (R257). -/
def decOpnds (sp : OpSpec) (ty : Ty) (x : Nat) : Opnds × Bool × Bool :=
  if sp.cross == .movi then decMovi sp ty x
  else if sp.cross == .bare then (⟨.none, .none, .none, .none, {}⟩, x == 0, true)
  else
    let r := Raw48.ofNat x
    if r.im == 1 then decImm sp ty r (fld x 0 28) else decReg sp ty r

/-- A general-form instruction of the operation `sp` (R64, R70). `ext` is the pair-extension
word of a paired instruction. -/
def decG (sp : OpSpec) (mk : G → Instr) (priv : Opnds → DecPriv) (w : Nat) (ext : Option Nat) :
    Except DecErr Instr :=
  let ty := Ty.ofCode (fld w 50 4)
  let face := Face.ofCode (fld w 48 2)
  let fa := decOpnds sp ty (fld w 0 48)
  let tyOk := decide (ty ∈ sp.tys) && sp.faces.allows face
  match ext with
  | none => verdict (tyOk && fa.2.1) fa.2.2 (priv fa.1) (mk ⟨ty, face, fa.1, none⟩)
  | some e =>
    let fb := decOpnds sp ty (fld e 0 48)
    verdict (tyOk && fa.2.1 && fb.2.1 && fld e 48 12 == 0) (fa.2.2 && fb.2.2) (priv fa.1)
      (mk ⟨ty, face, fa.1, some fb.1⟩)

/-- Bits 47:0 of a memory-form word (R71): the face, its field verdict, and whether its
scope code names a scope. -/
def decMFace (sp : MSpec) (x : Nat) : MFace × Bool × Bool :=
  let hk := fld x 44 1
  let sc := Scope.ofCode (fld x 45 3)
  let f : MFace :=
    { scope := sc.getD .wl
      handle := if hk == 1 then .sc (fld x 12 6) else .imm (fld x 12 10)
      d := fld x 36 8, a := fld x 28 8, b := fld x 22 6, ckind := BitVec.ofNat 6 (fld x 6 6)
      fsel := fld x 5 1 == 1, rsp := fld x 4 1 == 1, opx := BitVec.ofNat 4 (fld x 0 4) }
  (f, mFieldsOk sp f && (hk == 0 || fld x 18 4 == 0), sc.isSome)

/-- A memory-form instruction (R70, R71, R163). -/
def decM (sp : MSpec) (mk : MForm → Instr) (w : Nat) (ext : Option Nat) : Except DecErr Instr :=
  let ac := Acls.ofCode (fld w 52 2)
  let acls := ac.getD .wk
  let ann := Ann.ofCode (fld w 50 2)
  let face := Face.ofCode (fld w 48 2)
  let fa := decMFace sp (fld w 0 48)
  let ok := fun (f : MFace × Bool × Bool) => f.2.2 && mModsOk sp.row acls ann f.1
  match ext with
  | none =>
    verdict (fa.2.1 && face != .paired) (ac.isSome && ok fa) .none (mk ⟨acls, ann, face, fa.1, none⟩)
  | some e =>
    let fb := decMFace sp (fld e 0 48)
    verdict (fa.2.1 && fb.2.1 && sp.pair && fld e 48 12 == 0) (ac.isSome && ok fa && ok fb) .none
      (mk ⟨acls, ann, face, fa.1, some fb.1⟩)

/-- The general-form instruction of a class and op number (R73). -/
def gCtor : Nat → Nat → Option (G → Instr)
  | 2, 0x0 => some .addInt
  | 2, 0x1 => some .subInt
  | 2, 0x2 => some .mulInt
  | 2, 0x3 => some .mulhi
  | 2, 0x4 => some .mad
  | 2, 0x5 => some .div
  | 2, 0x6 => some .rem
  | 2, 0x7 => some .absInt
  | 2, 0x8 => some .negInt
  | 2, 0x9 => some .minInt
  | 2, 0xa => some .maxInt
  | 2, 0xb => some .and
  | 2, 0xc => some .or
  | 2, 0xd => some .xor
  | 2, 0xe => some .not
  | 2, 0xf => some .shl
  | 2, 0x10 => some .shr
  | 2, 0x11 => some .sar
  | 2, 0x12 => some .rot
  | 2, 0x13 => some .popc
  | 2, 0x14 => some .clz
  | 2, 0x15 => some .brev
  | 2, 0x16 => some .bfx
  | 2, 0x17 => some .bfi
  | 2, 0x18 => some .add64
  | 2, 0x19 => some .sub64
  | 2, 0x1a => some .mulw
  | 2, 0x1b => some .cmpInt
  | 2, 0x1c => some .pand
  | 2, 0x1d => some .por
  | 2, 0x1e => some .pxor
  | 2, 0x1f => some .pnot
  | 2, 0x20 => some .sel
  | 2, 0x21 => some .mov
  | 2, 0x22 => some .moviVector
  | 2, 0x23 => some .moviScalar
  | 2, 0x24 => some .movsv
  | 2, 0x25 => some .movvs
  | 2, 0x26 => some .sadd
  | 2, 0x27 => some .ssub
  | 2, 0x28 => some .smul
  | 2, 0x29 => some .sand
  | 2, 0x2a => some .sor
  | 2, 0x2b => some .sxor
  | 2, 0x2c => some .sshl
  | 2, 0x2d => some .sshr
  | 2, 0x2e => some .scmp
  | 2, 0x2f => some .xmov
  | 2, 0x30 => some .xadd
  | 2, 0x31 => some .xget
  | 2, 0x32 => some .srd
  | 2, 0x33 => some .srds
  | 2, 0x34 => some .exmrd
  | 2, 0x35 => some .exmwr
  | 2, 0x36 => some .tagset
  | 2, 0x37 => some .tagget
  | 2, 0x38 => some .smin
  | 2, 0x39 => some .smax
  | 2, 0x3a => some .smov
  | 3, 0x0 => some .addFlt
  | 3, 0x1 => some .subFlt
  | 3, 0x2 => some .mulFlt
  | 3, 0x3 => some .fma
  | 3, 0x4 => some .minFlt
  | 3, 0x5 => some .maxFlt
  | 3, 0x6 => some .minnm
  | 3, 0x7 => some .maxnm
  | 3, 0x8 => some .absFlt
  | 3, 0x9 => some .negFlt
  | 3, 0xa => some .cmpFlt
  | 3, 0xb => some .classFlt
  | 3, 0xc => some .rcp
  | 3, 0xd => some .sqrt
  | 3, 0xe => some .rsq
  | 3, 0xf => some .fexp2f
  | 3, 0x10 => some .flog2f
  | 3, 0x11 => some .rint
  | 3, 0x12 => some .expins
  | 3, 0x13 => some .expext
  | 3, 0x14 => some .cpysgn
  | 3, 0x15 => some .fract
  | 4, 0x0 => some .cvt
  | 4, 0x1 => some .q4pack
  | 4, 0x2 => some .q4unpk
  | 4, 0x3 => some .pack2
  | 4, 0x4 => some .unpk2
  | 5, 0x0 => some .xchgBfly
  | 5, 0x1 => some .shfl
  | 5, 0x2 => some .bcast
  | 5, 0x3 => some .ballot
  | 5, 0x4 => some .vote
  | 5, 0x5 => some .wsum
  | 5, 0x6 => some .wmin
  | 5, 0x7 => some .wmax
  | 5, 0x8 => some .wand
  | 5, 0x9 => some .wor
  | 6, 0x0 => some .ifOp
  | 6, 0x1 => some .elseOp
  | 6, 0x2 => some .endif
  | 6, 0x3 => some .loop
  | 6, 0x4 => some .endloop
  | 6, 0x5 => some .breakOp
  | 6, 0x6 => some .cont
  | 6, 0x7 => some .jmp
  | 6, 0x8 => some .jmpz
  | 6, 0x9 => some .jmpnz
  | 6, 0xb => some .ret
  | 6, 0xc => some .exit
  | 6, 0xd => some .nop
  | 6, 0xe => some .yield
  | 6, 0xf => some .meld
  | 6, 0x10 => some .endmeld
  | 12, 0x0 => some .trap
  | 12, 0x1 => some .tret
  | 12, 0x2 => some .tretSkip
  | 12, 0x3 => some .bkpt
  | _, _ => none

/-- The memory-form instruction of a class and op number (R73). -/
def mCtor : Nat → Nat → Option (MForm → Instr)
  | 7, 0x0 => some .ld
  | 7, 0x1 => some .st
  | 7, 0x2 => some .gather
  | 7, 0x3 => some .scatter
  | 8, 0x0 => some .ldq
  | 8, 0x1 => some .stq
  | 8, 0x2 => some .gatherq
  | 8, 0x3 => some .scatterq
  | 8, 0x4 => some .pref
  | 9, 0x0 => some .atomAdd
  | 9, 0x1 => some .atomMin
  | 9, 0x2 => some .atomMax
  | 9, 0x3 => some .atomAnd
  | 9, 0x4 => some .atomOr
  | 9, 0x5 => some .atomXor
  | 9, 0x6 => some .atomXchg
  | 9, 0x7 => some .atomCas
  | 9, 0x8 => some .atomIncw
  | 9, 0x9 => some .atomFaddb
  | 9, 0xa => some .atomFadd
  | 9, 0xb => some .atomFmax
  | 9, 0xc => some .redAdd
  | 9, 0xd => some .redFadd
  | 9, 0xe => some .redFmax
  | 9, 0x12 => some .lockq
  | 9, 0x13 => some .unlockq
  | 9, 0x17 => some .barwArv
  | 9, 0x18 => some .barwWait
  | _, _ => none

/-- One face of CALL (R138): its fields, and their verdicts but for n. -/
def decCallFace (n : Nat) (x : Nat) : CallFace × Bool × Bool :=
  let f : CallFace := { off := BitVec.ofNat 28 (fld x 0 28), d := fld x 36 8, a := fld x 28 8 }
  (f, fld x 45 3 == 0 && f.wf n && (fld x 44 1 == 1 || fld x 0 28 == 0), fld x 44 1 == 1)

/-- CALL (R138, R145). -/
def decCall (w : Nat) (ext : Option Nat) : Except DecErr Instr :=
  let n := fld w 50 4
  let face := Face.ofCode (fld w 48 2)
  let fa := decCallFace n (fld w 0 48)
  match ext with
  | none => verdict (decide (n ≤ 8) && fa.2.1) fa.2.2 .none (.call ⟨n, face, fa.1, none⟩)
  | some e =>
    let fb := decCallFace n (fld e 0 48)
    let c : CallForm := ⟨n, face, fa.1, some fb.1⟩
    verdict (decide (n ≤ 8) && fa.2.1 && fb.2.1 && fld e 48 12 == 0 && !c.clash fb.1) (fa.2.2 && fb.2.2)
      .none (.call c)

/-- SPAWN (R138, R154): OPMOD bit 5 is `.q`, with which CK and C name the frame operand. With
IMM = 1 the fields that stay are checked first, bits 46:45 among them (R68); IXE = 1 is
ILLEGAL_MOD, for SPAWN is a scalar operation of R98 (R66). -/
def decSpawn (w : Nat) : Except DecErr Instr :=
  let r := Raw48.ofNat w
  let q := fld r.om 5 1 == 1
  let cOk := if q then r.ck == 1 && decide (r.c + 2 ≤ 64) else r.ck == 0 && r.c == 0
  verdict
    (fld w 48 6 == 0 && decide (r.d < 64) && r.ak == 1 && decide (r.a + 2 ≤ 64) &&
      (if r.im == 1 then r.bk == 0 && r.ck == 0
       else r.bk == 1 && cOk && decide (r.b + 8 ≤ 64) && r.ixZero && fld r.om 0 5 == 0))
    (r.im == 0 && r.ixe == 0) .none
    (.spawn { d := r.d, a := r.a, b := r.b, c := if q then some r.c else none })

/-- RGRP (R138, R155). -/
def decRgrp (w : Nat) : Except DecErr Instr :=
  let r := Raw48.ofNat w
  verdict
    (fld w 48 6 == 0 && r.d == 0 && r.ak == 0 && r.bk == 0 && r.ck == 0 &&
      (r.im == 1 || (decide (1 ≤ r.c) && decide (r.c ≤ 16) && decide (r.b + r.c ≤ 256) &&
        r.ixZero && r.om == 0)))
    (r.im == 0 && r.ixe == 0) .none (.rgrp ⟨r.a, r.b, r.c⟩)

/-- The handle of LAYSET and LAYGET (R164): immediate, or a scalar in B. -/
def decLay (set : Bool) (w : Nat) : Except DecErr Instr :=
  let r := Raw48.ofNat w
  let face := Face.ofCode (fld w 48 2)
  let imm := fld w 0 28
  let v := if set then r.a else r.d
  let f : LayForm := { face := face, v := v, handle := if r.im == 1 then .lit imm else .sc r.b }
  let common := fld w 50 4 == 0 && face != .paired && r.ak == 0 && r.ck == 0 &&
    (if set then r.d == 0 else r.a == 0)
  verdict
    (common && (if r.im == 1 then r.bk == 0 && decide (imm < 1024)
      else r.bk == 1 && decide (r.b < 64) && r.c == 0 && r.om == 0 && r.ixZero))
    (r.im == 1 || r.ixe == 0) .none (if set then .layset f else .layget f)

/-- The fields that FENCE and QFENCE leave zero (R173, R174): TYPE, the kind bits, D, A and,
but for the immediate form, C; `om` is the verdict on B and OPMOD. -/
def fenceFields (face : Face) (w : Nat) (om : Bool) : Bool :=
  let r := Raw48.ofNat w
  fld w 50 4 == 0 && face != .paired && r.ak == 0 && r.bk == 0 && r.ck == 0 && r.d == 0 && r.a == 0 &&
    (r.im == 1 || (r.c == 0 && r.ixZero && om))

/-- FENCE (R173): OPMOD bits 5:3 the scope, bits 2:1 the annotation. -/
def decFence (w : Nat) : Except DecErr Instr :=
  let face := Face.ofCode (fld w 48 2)
  let sc := Scope.ofCode (fld w 3 3)
  verdict (fenceFields face w (fld w 20 8 == 0 && fld w 0 1 == 0))
    (fld w 44 1 == 0 && fld w 11 1 == 0 && sc.isSome && fld w 1 2 != 0) .none
    (.fence ⟨face, sc.getD .wl, Ann.ofCode (fld w 1 2)⟩)

/-- QFENCE (R174): the mask in B, OPMOD bits 5:3 the scope. -/
def decQfence (w : Nat) : Except DecErr Instr :=
  let face := Face.ofCode (fld w 48 2)
  let sc := Scope.ofCode (fld w 3 3)
  let m := fld w 20 8
  verdict (fenceFields face w (decide (1 ≤ m) && decide (m < 32) && fld w 0 3 == 0))
    (fld w 44 1 == 0 && fld w 11 1 == 0 && sc.isSome) .none
    (.qfence ⟨face, sc.getD .wl, BitVec.ofNat 5 m⟩)

/-- BAR.SYNC, BAR.ARRIVE and BAR.WAIT (R181); BAR.WAIT has no count. -/
def decBar (count : Bool) (mk : BarForm → Instr) (w : Nat) : Except DecErr Instr :=
  let r := Raw48.ofNat w
  let face := Face.ofCode (fld w 48 2)
  let n : Uni := if r.bk == 1 then .sc r.b else .lit r.b
  let nOk := if count then n.wf 1 64 else r.bk == 0 && r.b == 0
  verdict
    (fld w 50 4 == 0 && face != .paired && r.ak == 0 && r.ck == 0 && r.d == 0 &&
      decide (r.a < 128) &&
      (if r.im == 1 then r.bk == 0 else nOk && r.c == 0 && r.om == 0 && r.ixZero))
    (r.im == 0 && r.ixe == 0) .none (mk ⟨face, r.a, n⟩)

/-- A weaver operation (R158): `nd` results, `na` source scalars, a literal, a flag select.
With IMM = 1 the fields that stay, with their runs, are checked first (R68). -/
def decWv (nd na : Nat) (lit flag faced : Bool) (mk : WvForm → Instr) (w : Nat) : Except DecErr Instr :=
  let r := Raw48.ofNat w
  let face := Face.ofCode (fld w 48 2)
  let f : WvForm := { face := face, d := r.d, a := r.a, b := r.b, fsel := fld r.om 5 1 == 1 }
  verdict
    (fld w 50 4 == 0 && r.ck == 0 && r.ak == (if na == 0 then 0 else 1) && r.bk == 0 &&
      (if r.im == 1 then
        { f with b := if lit then 1 else 0, fsel := false }.wf nd na lit flag faced
       else f.wf nd na lit flag faced && r.c == 0 && r.ixZero && fld r.om 0 5 == 0))
    (r.im == 0 && r.ixe == 0) .op (mk f)

/-- MMA and MMAZ (R188). -/
def decMma (mk : MmaForm → Instr) (w : Nat) : Except DecErr Instr :=
  let f : MmaForm :=
    { ty := Ty.ofCode (fld w 50 4), face := Face.ofCode (fld w 48 2), acc := fld w 45 3
      mc := fld w 44 1 == 1, ch := fld w 43 1 == 1, ha := fld w 33 10, hb := fld w 23 10
      sk := fld w 17 6, sm := fld w 11 6, sn := fld w 5 6, kc := fld w 0 5 }
  verdict f.wf true .none (mk f)

/-- MREAD and MWRITE (R194). -/
def decMrw (mk : MrwForm → Instr) (w : Nat) : Except DecErr Instr :=
  let rk := fld w 44 1
  let row := fld w 28 8
  let f : MrwForm :=
    { ty := Ty.ofCode (fld w 50 4), face := Face.ofCode (fld w 48 2), acc := fld w 45 3
      d := fld w 36 8, row := if rk == 1 then .sc row else .lit row, fsel := fld w 0 1 == 1 }
  verdict (f.wf && fld w 1 27 == 0) true .none (mk f)

/-- MZERO (R193). -/
def decMzero (w : Nat) : Except DecErr Instr :=
  let f : MzeroForm :=
    { ty := Ty.ofCode (fld w 50 4), face := Face.ofCode (fld w 48 2), acc := fld w 45 3 }
  verdict (f.wf && fld w 0 45 == 0) true .none (.mzero f)

/-- The HK and HANDLE fields of MSTORE and STFOLD (R195): bits 44 and 43:34. -/
def decHandle (w : Nat) : Handle × Bool :=
  if fld w 44 1 == 1 then (.sc (fld w 34 6), fld w 40 4 == 0) else (.imm (fld w 34 10), true)

/-- MSTORE (R195). -/
def decMstore (w : Nat) : Except DecErr Instr :=
  let rm := RMode.ofCode (fld w 19 3)
  let h := decHandle w
  let f : MstoreForm :=
    { face := Face.ofCode (fld w 48 2), acc := fld w 45 3, handle := h.1, sc0 := fld w 28 6
      sc1 := fld w 22 6, rm := rm.getD .rn, nosat := fld w 18 1 == 1 }
  verdict (fld w 50 4 == 0 && f.face != .paired && h.2 && fld w 0 18 == 0)
    (rm.isSome && f.rm != .rs) .none (.mstore f)

/-- STFOLD (R196). -/
def decStfold (w : Nat) : Except DecErr Instr :=
  let h := decHandle w
  let f : StfoldForm :=
    { face := Face.ofCode (fld w 48 2), acc := fld w 45 3, handle := h.1, sc0 := fld w 28 6
      sc1 := fld w 22 6, sb := fld w 16 6 }
  verdict (fld w 50 4 == 0 && f.face != .paired && h.2 && fld w 0 16 == 0) true .none (.stfold f)

/-- MWAIT and CWAIT (R197, R205): SCOPE in bits 47:45, n in bits 3:0. -/
def decWait (mk : WaitForm → Instr) (w : Nat) : Except DecErr Instr :=
  let sc := Scope.ofCode (fld w 45 3)
  let f : WaitForm := { face := Face.ofCode (fld w 48 2), scope := sc.getD .wl, n := fld w 0 4 }
  verdict (fld w 50 4 == 0 && f.face != .paired && decide (f.n ≤ 7) && fld w 4 41 == 0)
    sc.isSome .none (mk f)

/-- MCOMMIT, CSEAL and RDV have no operands (R197, R205, R207). -/
def decBare (mk : Face → Instr) (w : Nat) : Except DecErr Instr :=
  let face := Face.ofCode (fld w 48 2)
  verdict (fld w 50 4 == 0 && face != .paired && fld w 0 48 == 0) true .none (mk face)

/-- COPY.SLICE (R201). -/
def decCopy (w : Nat) : Except DecErr Instr :=
  let i := fld w 7 6
  let f : CopyForm :=
    { face := Face.ofCode (fld w 48 2), cq := fld w 46 2, hd := fld w 36 10, hs := fld w 26 10
      sd := fld w 20 6, ss := fld w 14 6, i := if fld w 13 1 == 1 then .lit i else .sc i
      nm1 := fld w 3 4 }
  verdict (fld w 50 4 == 0 && f.wf && fld w 0 3 == 0) true .none (.copySlice f)

/-- FORK.M and FORK.C (R207): IMM in bit 44, offset in bits 27:0. -/
def decFork (mk : Face → BitVec 28 → Instr) (w : Nat) : Except DecErr Instr :=
  let face := Face.ofCode (fld w 48 2)
  verdict (fld w 50 4 == 0 && face != .paired && fld w 45 3 == 0 && fld w 28 16 == 0)
    (fld w 44 1 == 1) .none (mk face (BitVec.ofNat 28 (fld w 0 28)))

/-- BCALL (R209). -/
def decBcall (w : Nat) : Except DecErr Instr :=
  let f : BcallForm :=
    { face := Face.ofCode (fld w 48 2), handle := fld w 34 10, sc := fld w 28 6, sp := fld w 22 6
      sa := fld w 16 6, fsel := fld w 0 1 == 1 }
  verdict (fld w 50 4 == 0 && f.wf && fld w 44 4 == 0 && fld w 1 15 == 0) true .none (.bcall f)

/-- An interval header (R60, R61). -/
def decInterval (w : Nat) : Except DecErr Instr :=
  let h : IntervalHdr :=
    { r0 := ⟨fld w 48 8, fld w 43 5⟩, r1 := ⟨fld w 35 8, fld w 30 5⟩
      r2 := ⟨fld w 22 8, fld w 17 5⟩, r3 := ⟨fld w 9 8, fld w 4 5⟩
      wsel := fld w 2 2, wen := fld w 1 1 == 1 }
  if fld w 56 4 == 0 && fld w 0 1 == 0 && (h.wen || h.wsel == 0) &&
      h.ranges.all (fun r => r.count != 0 || r.base == 0) then
    if h.contentsOk then .ok (.intervalHeader h) else .error ⟨.hdr, .none⟩
  else .error ⟨.field, .none⟩

/-- A clause header (R62, R63). -/
def decClause (w : Nat) : Except DecErr Instr :=
  let h : ClauseHdr :=
    { wait := fld w 48 12, setA := fld w 44 4, setB := fld w 40 4, len := fld w 37 3
      stalls := [fld w 33 4, fld w 29 4, fld w 25 4, fld w 21 4, fld w 17 4, fld w 13 4,
        fld w 9 4, fld w 5 4]
      yield := fld w 4 1 == 1 }
  if fld w 0 4 == 0 && (h.stalls.drop (h.len + 1)).all (fun n => n == 0) then
    if setOk h.setA && setOk h.setB && (h.setA != h.setB || h.setA == 15) then .ok (.clauseHeader h)
    else .error ⟨.hdr, .none⟩
  else .error ⟨.field, .none⟩

/-- The privilege check that a general-form word meets (R76, R114). -/
def gPriv (cls op : Nat) (o : Opnds) : DecPriv :=
  match cls, op with
  | 12, 1 | 12, 2 => .op
  | 2, 0x32 | 2, 0x33 => match o.a with
    | .lit c => if 0x10 ≤ c ∧ c ≤ 0x15 then .trapReg else .none
    | _ => .none
  | _, _ => .none

/-- The operations whose word layout their entries give, by class and op (R73). -/
def decOwn (cls op w : Nat) (ext : Option Nat) : Option (Except DecErr Instr) :=
  match cls, op with
  | 6, 0xA => some (decCall w ext)
  | 6, 0x11 => some (decSpawn w)
  | 6, 0x12 => some (decRgrp w)
  | 7, 4 => some (decLay true w)
  | 7, 5 => some (decLay false w)
  | 9, 0x10 => some (decFence w)
  | 9, 0x11 => some (decQfence w)
  | 9, 0x14 => some (decBar true .barSync w)
  | 9, 0x15 => some (decBar true .barArrive w)
  | 9, 0x16 => some (decBar false .barWait w)
  | 10, 0 => some (decMma .mma w)
  | 10, 1 => some (decMma .mmaz w)
  | 10, 2 => some (decBare .mcommit w)
  | 10, 3 => some (decWait .mwait w)
  | 10, 4 => some (decMrw .mread w)
  | 10, 5 => some (decMrw .mwrite w)
  | 10, 6 => some (decMzero w)
  | 10, 7 => some (decMstore w)
  | 10, 8 => some (decStfold w)
  | 11, 0 => some (decCopy w)
  | 11, 1 => some (decBare .cseal w)
  | 11, 2 => some (decWait .cwait w)
  | 11, 3 => some (decFork .forkM w)
  | 11, 4 => some (decFork .forkC w)
  | 11, 5 => some (decBare .rdv w)
  | 11, 6 => some (decBcall w)
  | 12, 4 => some (decWv 4 0 false false true .evpop w)
  | 12, 5 => some (decWv 2 2 true true true .tkclaim w)
  | 12, 6 => some (decWv 5 3 false true true .symwalk w)
  | 12, 7 => some (decWv 1 2 false true false .slewStart w)
  | 12, 8 => some (decWv 4 0 false true false .slewQuery w)
  | 12, 9 => some (decWv 1 2 false true true .ckpt w)
  | _, _ => none

/-- An instruction word of classes 0010 to 1100 once its pairing is settled (R64 to R75). -/
def decInsn (w : W64) (ext : Option Nat) : Except DecErr Instr :=
  let n := w.toNat
  let cls := fld n 60 4
  let op := fld n 54 6
  if cls == 2 && op == 0x3E then .ok (.clmull w)
  else if cls == 2 && op == 0x3F then .ok (.clmulh w)
  else match gCtor cls op with
    | some mk => decG (opSpec cls op) mk (gPriv cls op) n ext
    | none => match mCtor cls op, mSpec cls op with
      | some mk, some sp => decM sp mk n ext
      | _, _ => match decOwn cls op n ext with
        | some r => r
        | none => .ok (.illegalWord w)

/-- One word of code (R57): a header, an instruction with its pair-extension word when its
FACE is 11 (R58, R70), or a word of a reserved class. A pair-extension word on its own, and a
face-11 word without one, are ILLEGAL_HDR. -/
def decodeWord (w : W64) (ext : Option W64) : Except DecErr Instr :=
  let n := w.toNat
  let cls := fld n 60 4
  if cls == 0 then decInterval n
  else if cls == 1 then decClause n
  else if cls == 14 then .error ⟨.hdr, .none⟩
  else if cls == 13 || cls == 15 then .ok (.illegalWord w)
  else if fld n 48 2 == 3 then
    match ext with
    | some e => if fld e.toNat 60 4 == 14 then decInsn w (some e.toNat) else .error ⟨.hdr, .none⟩
    | none => .error ⟨.hdr, .none⟩
  else decInsn w none

/-- The fields of a bank instruction (R211). -/
structure RawBank where
  op : Nat
  d : Nat
  a : Nat
  b : Nat
  c : Nat
  xf : Nat
  deriving DecidableEq, Repr

/-- The fields of R211. -/
def RawBank.ofNat (x : Nat) : RawBank :=
  { op := fld x 27 5, d := fld x 24 3, a := fld x 21 3, b := fld x 18 3, c := fld x 15 3
    xf := fld x 0 15 }

/-- The fields of R211 laid out in a word. -/
def RawBank.toNat (r : RawBank) : Nat :=
  r.op * 2 ^ 27 + r.d * 2 ^ 24 + r.a * 2 ^ 21 + r.b * 2 ^ 18 + r.c * 2 ^ 15 + r.xf

/-- A bank instruction, or none where the program faults on it (R211, R212, R213): a reserved
operation or mode, or a reserved field that is not zero. -/
def decodeBank (x : W32) : Option Instr :=
  let r := RawBank.ofNat x.toNat
  let row : RowRef := { x := fld r.xf 13 1 == 1, off := BitVec.ofNat 13 r.xf }
  let z := fun (ok : Bool) (i : Instr) => if ok then some i else none
  let j := fld r.xf 0 2
  let jOk := fld r.xf 2 13 == 0
  match r.op with
  | 0 => z (r.d == 0 && r.a == 0 && r.b == 0 && r.c == 0 && r.xf == 0) .bend
  | 1 => z (r.a == 0 && r.b == 0 && r.c == 0 && fld r.xf 14 1 == 0) (.bld r.d row)
  | 2 => z (r.d == 0 && r.b == 0 && r.c == 0 && fld r.xf 14 1 == 0) (.bst r.a row)
  | 3 => z (r.c == 0 && r.xf == 0) (.badd r.d r.a r.b)
  | 4 => z (r.c == 0 && r.xf == 0) (.bsub r.d r.a r.b)
  | 5 => z (r.c == 0 && r.xf == 0) (.bmul r.d r.a r.b)
  | 6 => z (r.xf == 0) (.bfma r.d r.a r.b r.c)
  | 7 => z (r.c == 0 && r.xf == 0) (.bmin r.d r.a r.b)
  | 8 => z (r.c == 0 && r.xf == 0) (.bmax r.d r.a r.b)
  | 9 => z (r.b == 0 && r.c == 0 && r.xf == 0) (.brsq r.d r.a)
  | 10 => z (r.b == 0 && r.c == 0 && jOk) (.bscl r.d r.a j)
  | 11 => z (r.a == 0 && r.b == 0 && r.c == 0 && jOk) (.bspl r.d j)
  | 12 => z (r.c == 0 && jOk && j != 3 && (j == 2 || r.b == 0)) (.bcvt r.d r.a r.b j)
  | 13 => z (r.c == 0 && r.xf == 0) (.biadd r.d r.a r.b)
  | 14 => z (r.d == 0 && r.a == 0 && r.b == 0 && r.c == 0 && jOk) (.bloop j)
  | 15 => z (r.d == 0 && r.a == 0 && r.b == 0 && r.c == 0 && r.xf == 0) .bnext
  | 16 => z (r.d == 0 && r.a == 0 && r.b == 0 && r.c == 0 && jOk) (.bsig j)
  | _ => none

/-- What the decoder reads from the bits of a table row (bit 0 the least significant bit of
the first word): a bank instruction of up to 32 bits, else a code word with its extension.
A word the decoder rejects, and a word that only its rejection names, give none. -/
def decodeTableWord (nbits w : Nat) : Option Instr :=
  if nbits ≤ 32 then decodeBank (BitVec.ofNat 32 w)
  else match decodeWord (BitVec.ofNat 64 w) (some (BitVec.ofNat 64 (w / 2 ^ 64))) with
    | .ok i => some i
    | .error _ => none

/-! ### The encoders -/

/-- A Bool as a bit. -/
def bit (b : Bool) : Nat := if b then 1 else 0

/-- Kind bit and field of a source operand (R64, R65). -/
def encSrc : Src → Nat × Nat
  | .none => (0, 0)
  | .vec r => (0, r)
  | .vix _ o => (0, o)
  | .sc n => (1, n)
  | .pred q => (0, q)
  | .xreg x => (0, x)
  | .lit n => (0, n)
  | .imm _ => (0, 0)
  | .w32 _ => (0, 0)

/-- The D field of a destination operand (R64, R65). -/
def encDst : Dst → Nat
  | .none => 0
  | .vec r => r
  | .vix _ o => o
  | .pred q => q
  | .xreg x => x
  | .sc n => n

/-- IXE, IXR and IXO of an operand set (R64, R66). -/
def encIx (o : Opnds) : Nat × Nat × Nat :=
  match o.d, o.a, o.b, o.c with
  | .vix x _, _, _, _ => (1, x, 0)
  | _, .vix x _, _, _ => (1, x, 1)
  | _, _, .vix x _, _ => (1, x, 2)
  | _, _, _, .vix x _ => (1, x, 3)
  | _, _, _, _ => (0, 0, 0)

/-- OPMOD by the layout of its kind (R67). -/
def encMods (k : ModKind) (m : Mods) : Nat :=
  match k with
  | .zero | .pred => 0
  | .int _ _ => 32 * bit m.sat + bit m.any
  | .icmp _ => 32 * bit m.sat + 2 * m.cond + bit m.any
  | .flt _ _ _ => 8 * m.rm.code + 4 * bit m.ftz + bit m.any
  | .fcmp | .fcls => 2 * m.cond + bit m.any
  | .cvt | .q4 | .pack => 8 * m.rm.code + 4 * bit m.ftz + 2 * bit (m.sat || m.nosat) + bit m.any
  | .lane => bit m.any

/-- Bits 47:0 of a general-form word (R64, R68, R69, R108, R122). -/
def encOpnds (sp : OpSpec) (o : Opnds) : Nat :=
  let a := encSrc o.a
  match o.b with
  | .w32 v => encDst o.d * 2 ^ 36 + v.toNat
  | .imm v =>
    let d := match sp.mods with
      | .fcmp => 8 * o.mods.cond + encDst o.d
      | _ => encDst o.d
    let imm := match sp.mods with
      | .icmp _ => o.mods.cond * 2 ^ 24 + v.toNat % 2 ^ 24
      | _ => v.toNat
    a.1 * 2 ^ 47 + 2 ^ 44 + d * 2 ^ 36 + a.2 * 2 ^ 28 + imm
  | _ =>
    let b := encSrc o.b
    let c := encSrc o.c
    let ix := encIx o
    Raw48.toNat
      { ak := a.1, bk := b.1, ck := c.1, im := 0, d := encDst o.d, a := a.2, b := b.2, c := c.2
        ixe := ix.1, ixr := ix.2.1, ixo := ix.2.2, om := encMods sp.mods o.mods }

/-- The head of an instruction word: CLASS, OP, bits 53:50 and FACE (R64, R71). -/
def encHead (cls op t : Nat) (f : Face) : Nat :=
  cls * 2 ^ 60 + op * 2 ^ 54 + t * 2 ^ 50 + f.code * 2 ^ 48

/-- A pair-extension word over 48 operand bits (R70). -/
def encExt (x : Nat) : W64 := BitVec.ofNat 64 (14 * 2 ^ 60 + x)

/-- The words of a general-form instruction (R64, R70). -/
def encG (cls op : Nat) (g : G) : List W64 :=
  let sp := opSpec cls op
  BitVec.ofNat 64 (encHead cls op g.ty.code g.face + encOpnds sp g.fa) ::
    (match g.fb with | none => [] | some o => [encExt (encOpnds sp o)])

/-- Bits 47:0 of a memory-form word (R71). -/
def encMFace (f : MFace) : Nat :=
  let h := match f.handle with
    | .imm n => n * 2 ^ 12
    | .sc n => 2 ^ 44 + n * 2 ^ 12
  f.scope.code * 2 ^ 45 + h + f.d * 2 ^ 36 + f.a * 2 ^ 28 + f.b * 2 ^ 22 + f.ckind.toNat * 2 ^ 6 +
    bit f.fsel * 2 ^ 5 + bit f.rsp * 2 ^ 4 + f.opx.toNat

/-- The words of a memory-form instruction (R70, R71). -/
def encM (cls op : Nat) (m : MForm) : List W64 :=
  BitVec.ofNat 64 (encHead cls op (4 * m.acls.code + m.ann.code) m.face + encMFace m.fa) ::
    (match m.fb with | none => [] | some f => [encExt (encMFace f)])

/-- One face of CALL (R138). -/
def encCallFace (f : CallFace) : Nat := 2 ^ 44 + f.d * 2 ^ 36 + f.a * 2 ^ 28 + f.off.toNat

/-- A literal-or-scalar operand: its kind bit and field. -/
def encUni : Uni → Nat × Nat
  | .lit n => (0, n)
  | .sc n => (1, n)

/-- The HK and HANDLE fields of MSTORE and STFOLD (R195). -/
def encHandle : Handle → Nat
  | .imm n => n * 2 ^ 34
  | .sc n => 2 ^ 44 + n * 2 ^ 34

/-- A weaver operation (R158). -/
def encWv (op na : Nat) (f : WvForm) : List W64 :=
  [BitVec.ofNat 64 (encHead 12 op 0 f.face + (if na = 0 then 0 else 2 ^ 47) + f.d * 2 ^ 36 +
    f.a * 2 ^ 28 + f.b * 2 ^ 20 + bit f.fsel * 2 ^ 5)]

/-- MMA and MMAZ (R188). -/
def encMma (op : Nat) (f : MmaForm) : List W64 :=
  [BitVec.ofNat 64 (encHead 10 op f.ty.code f.face + f.acc * 2 ^ 45 + bit f.mc * 2 ^ 44 +
    bit f.ch * 2 ^ 43 + f.ha * 2 ^ 33 + f.hb * 2 ^ 23 + f.sk * 2 ^ 17 + f.sm * 2 ^ 11 +
    f.sn * 2 ^ 5 + f.kc)]

/-- MREAD and MWRITE (R194). -/
def encMrw (op : Nat) (f : MrwForm) : List W64 :=
  [BitVec.ofNat 64 (encHead 10 op f.ty.code f.face + f.acc * 2 ^ 45 + (encUni f.row).1 * 2 ^ 44 +
    f.d * 2 ^ 36 + (encUni f.row).2 * 2 ^ 28 + bit f.fsel)]

/-- BAR operations (R181). -/
def encBar (op : Nat) (count : Bool) (f : BarForm) : List W64 :=
  let n := if count then encUni f.count else (0, 0)
  [BitVec.ofNat 64 (encHead 9 op 0 f.face + n.1 * 2 ^ 46 + f.bar * 2 ^ 28 + n.2 * 2 ^ 20)]

/-- MWAIT and CWAIT (R197, R205). -/
def encWait (cls op : Nat) (f : WaitForm) : List W64 :=
  [BitVec.ofNat 64 (encHead cls op 0 f.face + f.scope.code * 2 ^ 45 + f.n)]

/-- LAYSET and LAYGET (R164). -/
def encLay (set : Bool) (f : LayForm) : List W64 :=
  let v := if set then f.v * 2 ^ 28 else f.v * 2 ^ 36
  let h := match f.handle with
    | .lit n => 2 ^ 44 + n
    | .sc n => 2 ^ 46 + n * 2 ^ 20
  [BitVec.ofNat 64 (encHead 7 (if set then 4 else 5) 0 f.face + v + h)]

/-- A range of an interval header at its bit positions (R60). -/
def encRange (b c : Nat) (r : Range) : Nat := r.base * 2 ^ b + r.count * 2 ^ c

/-- Whether a word is paired: an instruction class with FACE 11 (R58, R70). -/
def pairedWord (w : W64) : Bool :=
  decide (2 ≤ fld w.toNat 60 4) && decide (fld w.toNat 60 4 ≤ 12) && fld w.toNat 48 2 == 3

/-- The words of an instruction of the entries' own forms and of a header. -/
def encOwn : Instr → Option (List W64)
  | .intervalHeader h => some [BitVec.ofNat 64 (encRange 48 43 h.r0 + encRange 35 30 h.r1 +
      encRange 22 17 h.r2 + encRange 9 4 h.r3 + h.wsel * 2 ^ 2 + bit h.wen * 2)]
  | .clauseHeader h => some [BitVec.ofNat 64 (2 ^ 60 + h.wait * 2 ^ 48 + h.setA * 2 ^ 44 +
      h.setB * 2 ^ 40 + h.len * 2 ^ 37 +
      (h.stalls.foldl (fun n s => n * 16 + s) 0) * 2 ^ 5 + bit h.yield * 2 ^ 4)]
  | .illegalWord w | .clmull w | .clmulh w => some (w :: (if pairedWord w then [encExt 0] else []))
  | .call c => some (BitVec.ofNat 64 (encHead 6 0xA c.n c.face + encCallFace c.fa) ::
      (match c.fb with | none => [] | some f => [encExt (encCallFace f)]))
  | .spawn f => some [BitVec.ofNat 64 (encHead 6 0x11 0 .both + 2 ^ 47 + 2 ^ 46 + f.d * 2 ^ 36 +
      f.a * 2 ^ 28 + f.b * 2 ^ 20 +
      (match f.c with | none => 0 | some c => 2 ^ 45 + c * 2 ^ 12 + 2 ^ 5))]
  | .rgrp f => some [BitVec.ofNat 64 (encHead 6 0x12 0 .both + f.a * 2 ^ 28 + f.b * 2 ^ 20 +
      f.n * 2 ^ 12)]
  | .layset f => some (encLay true f)
  | .layget f => some (encLay false f)
  | .fence f => some [BitVec.ofNat 64 (encHead 9 0x10 0 f.face + f.scope.code * 2 ^ 3 +
      f.ann.code * 2)]
  | .qfence f => some [BitVec.ofNat 64 (encHead 9 0x11 0 f.face + f.mask.toNat * 2 ^ 20 +
      f.scope.code * 2 ^ 3)]
  | .barSync f => some (encBar 0x14 true f)
  | .barArrive f => some (encBar 0x15 true f)
  | .barWait f => some (encBar 0x16 false f)
  | .mma f => some (encMma 0 f)
  | .mmaz f => some (encMma 1 f)
  | .mcommit f => some [BitVec.ofNat 64 (encHead 10 2 0 f)]
  | .mwait f => some (encWait 10 3 f)
  | .mread f => some (encMrw 4 f)
  | .mwrite f => some (encMrw 5 f)
  | .mzero f => some [BitVec.ofNat 64 (encHead 10 6 f.ty.code f.face + f.acc * 2 ^ 45)]
  | .mstore f => some [BitVec.ofNat 64 (encHead 10 7 0 f.face + f.acc * 2 ^ 45 + encHandle f.handle +
      f.sc0 * 2 ^ 28 + f.sc1 * 2 ^ 22 + f.rm.code * 2 ^ 19 + bit f.nosat * 2 ^ 18)]
  | .stfold f => some [BitVec.ofNat 64 (encHead 10 8 0 f.face + f.acc * 2 ^ 45 + encHandle f.handle +
      f.sc0 * 2 ^ 28 + f.sc1 * 2 ^ 22 + f.sb * 2 ^ 16)]
  | .copySlice f => some [BitVec.ofNat 64 (encHead 11 0 0 f.face + f.cq * 2 ^ 46 + f.hd * 2 ^ 36 +
      f.hs * 2 ^ 26 + f.sd * 2 ^ 20 + f.ss * 2 ^ 14 + (1 - (encUni f.i).1) * 2 ^ 13 +
      (encUni f.i).2 * 2 ^ 7 + f.nm1 * 2 ^ 3)]
  | .cseal f => some [BitVec.ofNat 64 (encHead 11 1 0 f)]
  | .cwait f => some (encWait 11 2 f)
  | .forkM f off => some [BitVec.ofNat 64 (encHead 11 3 0 f + 2 ^ 44 + off.toNat)]
  | .forkC f off => some [BitVec.ofNat 64 (encHead 11 4 0 f + 2 ^ 44 + off.toNat)]
  | .rdv f => some [BitVec.ofNat 64 (encHead 11 5 0 f)]
  | .bcall f => some [BitVec.ofNat 64 (encHead 11 6 0 f.face + f.handle * 2 ^ 34 + f.sc * 2 ^ 28 +
      f.sp * 2 ^ 22 + f.sa * 2 ^ 16 + bit f.fsel)]
  | .evpop f => some (encWv 4 0 f)
  | .tkclaim f => some (encWv 5 2 f)
  | .symwalk f => some (encWv 6 3 f)
  | .slewStart f => some (encWv 7 2 f)
  | .slewQuery f => some (encWv 8 0 f)
  | .ckpt f => some (encWv 9 2 f)
  | _ => none

/-- Class, op and operands of a general-form instruction (R73). -/
def Instr.gView : Instr → Option (Nat × Nat × G)
  | .addInt g => some (2, 0x0, g)
  | .subInt g => some (2, 0x1, g)
  | .mulInt g => some (2, 0x2, g)
  | .mulhi g => some (2, 0x3, g)
  | .mad g => some (2, 0x4, g)
  | .div g => some (2, 0x5, g)
  | .rem g => some (2, 0x6, g)
  | .absInt g => some (2, 0x7, g)
  | .negInt g => some (2, 0x8, g)
  | .minInt g => some (2, 0x9, g)
  | .maxInt g => some (2, 0xa, g)
  | .and g => some (2, 0xb, g)
  | .or g => some (2, 0xc, g)
  | .xor g => some (2, 0xd, g)
  | .not g => some (2, 0xe, g)
  | .shl g => some (2, 0xf, g)
  | .shr g => some (2, 0x10, g)
  | .sar g => some (2, 0x11, g)
  | .rot g => some (2, 0x12, g)
  | .popc g => some (2, 0x13, g)
  | .clz g => some (2, 0x14, g)
  | .brev g => some (2, 0x15, g)
  | .bfx g => some (2, 0x16, g)
  | .bfi g => some (2, 0x17, g)
  | .add64 g => some (2, 0x18, g)
  | .sub64 g => some (2, 0x19, g)
  | .mulw g => some (2, 0x1a, g)
  | .cmpInt g => some (2, 0x1b, g)
  | .pand g => some (2, 0x1c, g)
  | .por g => some (2, 0x1d, g)
  | .pxor g => some (2, 0x1e, g)
  | .pnot g => some (2, 0x1f, g)
  | .sel g => some (2, 0x20, g)
  | .mov g => some (2, 0x21, g)
  | .moviVector g => some (2, 0x22, g)
  | .moviScalar g => some (2, 0x23, g)
  | .movsv g => some (2, 0x24, g)
  | .movvs g => some (2, 0x25, g)
  | .sadd g => some (2, 0x26, g)
  | .ssub g => some (2, 0x27, g)
  | .smul g => some (2, 0x28, g)
  | .sand g => some (2, 0x29, g)
  | .sor g => some (2, 0x2a, g)
  | .sxor g => some (2, 0x2b, g)
  | .sshl g => some (2, 0x2c, g)
  | .sshr g => some (2, 0x2d, g)
  | .scmp g => some (2, 0x2e, g)
  | .xmov g => some (2, 0x2f, g)
  | .xadd g => some (2, 0x30, g)
  | .xget g => some (2, 0x31, g)
  | .srd g => some (2, 0x32, g)
  | .srds g => some (2, 0x33, g)
  | .exmrd g => some (2, 0x34, g)
  | .exmwr g => some (2, 0x35, g)
  | .tagset g => some (2, 0x36, g)
  | .tagget g => some (2, 0x37, g)
  | .smin g => some (2, 0x38, g)
  | .smax g => some (2, 0x39, g)
  | .smov g => some (2, 0x3a, g)
  | .addFlt g => some (3, 0x0, g)
  | .subFlt g => some (3, 0x1, g)
  | .mulFlt g => some (3, 0x2, g)
  | .fma g => some (3, 0x3, g)
  | .minFlt g => some (3, 0x4, g)
  | .maxFlt g => some (3, 0x5, g)
  | .minnm g => some (3, 0x6, g)
  | .maxnm g => some (3, 0x7, g)
  | .absFlt g => some (3, 0x8, g)
  | .negFlt g => some (3, 0x9, g)
  | .cmpFlt g => some (3, 0xa, g)
  | .classFlt g => some (3, 0xb, g)
  | .rcp g => some (3, 0xc, g)
  | .sqrt g => some (3, 0xd, g)
  | .rsq g => some (3, 0xe, g)
  | .fexp2f g => some (3, 0xf, g)
  | .flog2f g => some (3, 0x10, g)
  | .rint g => some (3, 0x11, g)
  | .expins g => some (3, 0x12, g)
  | .expext g => some (3, 0x13, g)
  | .cpysgn g => some (3, 0x14, g)
  | .fract g => some (3, 0x15, g)
  | .cvt g => some (4, 0x0, g)
  | .q4pack g => some (4, 0x1, g)
  | .q4unpk g => some (4, 0x2, g)
  | .pack2 g => some (4, 0x3, g)
  | .unpk2 g => some (4, 0x4, g)
  | .xchgBfly g => some (5, 0x0, g)
  | .shfl g => some (5, 0x1, g)
  | .bcast g => some (5, 0x2, g)
  | .ballot g => some (5, 0x3, g)
  | .vote g => some (5, 0x4, g)
  | .wsum g => some (5, 0x5, g)
  | .wmin g => some (5, 0x6, g)
  | .wmax g => some (5, 0x7, g)
  | .wand g => some (5, 0x8, g)
  | .wor g => some (5, 0x9, g)
  | .ifOp g => some (6, 0x0, g)
  | .elseOp g => some (6, 0x1, g)
  | .endif g => some (6, 0x2, g)
  | .loop g => some (6, 0x3, g)
  | .endloop g => some (6, 0x4, g)
  | .breakOp g => some (6, 0x5, g)
  | .cont g => some (6, 0x6, g)
  | .jmp g => some (6, 0x7, g)
  | .jmpz g => some (6, 0x8, g)
  | .jmpnz g => some (6, 0x9, g)
  | .ret g => some (6, 0xb, g)
  | .exit g => some (6, 0xc, g)
  | .nop g => some (6, 0xd, g)
  | .yield g => some (6, 0xe, g)
  | .meld g => some (6, 0xf, g)
  | .endmeld g => some (6, 0x10, g)
  | .trap g => some (12, 0x0, g)
  | .tret g => some (12, 0x1, g)
  | .tretSkip g => some (12, 0x2, g)
  | .bkpt g => some (12, 0x3, g)
  | _ => none

/-- Class, op and operands of a memory-form instruction (R73). -/
def Instr.mView : Instr → Option (Nat × Nat × MForm)
  | .ld m => some (7, 0x0, m)
  | .st m => some (7, 0x1, m)
  | .gather m => some (7, 0x2, m)
  | .scatter m => some (7, 0x3, m)
  | .ldq m => some (8, 0x0, m)
  | .stq m => some (8, 0x1, m)
  | .gatherq m => some (8, 0x2, m)
  | .scatterq m => some (8, 0x3, m)
  | .pref m => some (8, 0x4, m)
  | .atomAdd m => some (9, 0x0, m)
  | .atomMin m => some (9, 0x1, m)
  | .atomMax m => some (9, 0x2, m)
  | .atomAnd m => some (9, 0x3, m)
  | .atomOr m => some (9, 0x4, m)
  | .atomXor m => some (9, 0x5, m)
  | .atomXchg m => some (9, 0x6, m)
  | .atomCas m => some (9, 0x7, m)
  | .atomIncw m => some (9, 0x8, m)
  | .atomFaddb m => some (9, 0x9, m)
  | .atomFadd m => some (9, 0xa, m)
  | .atomFmax m => some (9, 0xb, m)
  | .redAdd m => some (9, 0xc, m)
  | .redFadd m => some (9, 0xd, m)
  | .redFmax m => some (9, 0xe, m)
  | .lockq m => some (9, 0x12, m)
  | .unlockq m => some (9, 0x13, m)
  | .barwArv m => some (9, 0x17, m)
  | .barwWait m => some (9, 0x18, m)
  | _ => none

/-- The words of a code instruction or header; none for a bank instruction or an event. -/
def encode (i : Instr) : Option (List W64) :=
  match i.gView with
  | some (cls, op, g) => some (encG cls op g)
  | none => match i.mView with
    | some (cls, op, m) => some (encM cls op m)
    | none => encOwn i

/-- XF of a row reference (R211). -/
def encRow (r : RowRef) : Nat := bit r.x * 2 ^ 13 + r.off.toNat

/-- The fields of a bank instruction (R211, R212). -/
def bankFields : Instr → Option RawBank
  | .bend => some ⟨0, 0, 0, 0, 0, 0⟩
  | .bld d r => some ⟨1, d, 0, 0, 0, encRow r⟩
  | .bst a r => some ⟨2, 0, a, 0, 0, encRow r⟩
  | .badd d a b => some ⟨3, d, a, b, 0, 0⟩
  | .bsub d a b => some ⟨4, d, a, b, 0, 0⟩
  | .bmul d a b => some ⟨5, d, a, b, 0, 0⟩
  | .bfma d a b c => some ⟨6, d, a, b, c, 0⟩
  | .bmin d a b => some ⟨7, d, a, b, 0, 0⟩
  | .bmax d a b => some ⟨8, d, a, b, 0, 0⟩
  | .brsq d a => some ⟨9, d, a, 0, 0, 0⟩
  | .bscl d a j => some ⟨10, d, a, 0, 0, j⟩
  | .bspl d j => some ⟨11, d, 0, 0, 0, j⟩
  | .bcvt d a b m => some ⟨12, d, a, b, 0, m⟩
  | .biadd d a b => some ⟨13, d, a, b, 0, 0⟩
  | .bloop j => some ⟨14, 0, 0, 0, 0, j⟩
  | .bnext => some ⟨15, 0, 0, 0, 0, 0⟩
  | .bsig j => some ⟨16, 0, 0, 0, 0, j⟩
  | _ => none

/-- The word of a bank instruction (R211). -/
def encodeBank (i : Instr) : Option W32 :=
  (bankFields i).map fun r => BitVec.ofNat 32 r.toNat

/-! ### Well-formed instructions -/

/-- Whether a class and op number are a general-form, memory-form or own-form operation, or CLMUL's (R73, R75). -/
def opDefined (cls op : Nat) : Bool :=
  (gCtor cls op).isSome || ((mCtor cls op).isSome && (mSpec cls op).isSome) || (decOwn cls op 0 none).isSome ||
    (cls == 2 && decide (0x3E ≤ op))

/-- Whether a word has a reserved class, or an op number that its class does not define (R57, R74). -/
def reservedWord (w : W64) : Bool :=
  let cls := fld w.toNat 60 4
  cls == 13 || cls == 15 || (decide (2 ≤ cls) && decide (cls ≤ 12) && !opDefined cls (fld w.toNat 54 6))

/-- The checks of LAYSET and LAYGET (R164). -/
def LayForm.wf (f : LayForm) : Bool := f.face != .paired && decide (f.v < 256) && f.handle.wf 0 1023

/-- The checks of the barriers (R181): BAR.WAIT has no count. -/
def BarForm.wf (count : Bool) (f : BarForm) : Bool :=
  f.face != .paired && decide (f.bar < 128) && (if count then f.count.wf 1 64 else f.count == .lit 0)

/-- The checks of MWAIT and CWAIT (R197, R205). -/
def WaitForm.wf (f : WaitForm) : Bool := f.face != .paired && decide (f.n ≤ 7)

/-- The checks of SPAWN (R154). -/
def SpawnForm.wf (f : SpawnForm) : Bool :=
  decide (f.d < 64) && decide (f.a + 2 ≤ 64) && decide (f.b + 8 ≤ 64) &&
    (match f.c with | none => true | some c => decide (c + 2 ≤ 64))

/-- The checks of RGRP (R155). -/
def RgrpForm.wf (f : RgrpForm) : Bool :=
  decide (f.a < 256) && decide (1 ≤ f.n) && decide (f.n ≤ 16) && decide (f.b + f.n ≤ 256)

/-- Well-formed instructions of the entries' own forms, headers and bank instructions. An event has no encoding. -/
def wfOwn : Instr → Bool
  | .intervalHeader h => h.wf
  | .clauseHeader h => h.wf
  | .illegalWord w => reservedWord w
  | .clmull w => fld w.toNat 60 4 == 2 && fld w.toNat 54 6 == 0x3E
  | .clmulh w => fld w.toNat 60 4 == 2 && fld w.toNat 54 6 == 0x3F
  | .call c => c.wf
  | .spawn f => f.wf
  | .rgrp f => f.wf
  | .layset f | .layget f => f.wf
  | .fence f => f.face != .paired && f.ann != .none
  | .qfence f => f.face != .paired && f.mask != 0
  | .barSync f | .barArrive f => f.wf true
  | .barWait f => f.wf false
  | .mma f | .mmaz f => f.wf
  | .mcommit f | .cseal f | .rdv f | .forkM f _ | .forkC f _ => f != .paired
  | .mwait f | .cwait f => f.wf
  | .mread f | .mwrite f => f.wf
  | .mzero f => f.wf
  | .mstore f => f.wf
  | .stfold f => f.wf
  | .copySlice f => f.wf
  | .bcall f => f.wf
  | .evpop f => f.wf 4 0 false false true
  | .tkclaim f => f.wf 2 2 true true true
  | .symwalk f => f.wf 5 3 false true true
  | .ckpt f => f.wf 1 2 false true true
  | .slewStart f => f.wf 1 2 false true false
  | .slewQuery f => f.wf 4 0 false true false
  | .bld d _ | .bst d _ => rowOk d
  | .badd d a b | .bsub d a b | .bmul d a b | .bmin d a b | .bmax d a b | .biadd d a b => rowOk d && rowOk a && rowOk b
  | .bfma d a b c => rowOk d && rowOk a && rowOk b && rowOk c
  | .brsq d a => rowOk d && rowOk a
  | .bscl d a j => rowOk d && rowOk a && decide (j < 4)
  | .bspl d j => rowOk d && decide (j < 4)
  | .bcvt d a b m => rowOk d && rowOk a && rowOk b && decide (m < 3) && (m == 2 || b == 0)
  | .bloop j | .bsig j => decide (j < 4)
  | _ => true

/-- WELL-FORMED: the operands lie in the ranges and combinations that the form admits (R60 to R75). -/
def Instr.wf (i : Instr) : Bool :=
  match i.gView with
  | some (cls, op, g) => g.wf (opSpec cls op)
  | none => match i.mView with
    | some (cls, op, m) => (match mSpec cls op with | some sp => m.wf sp | none => false)
    | none => wfOwn i

end Sys2Proof
end

