-- ==== Sys2Proof/Machine/State.lean ====
section
/-!
DEFINITION. Sys2Proof/Machine/State.lean: the state of one SX9 package as plain data.

Registers and memory are sparse maps: lists of (key, value) with strictly rising keys
that hold no entry equal to the map's default. Everything in it is data the spec names,
but for the fields whose docstring says MODEL FIELD.
-/
namespace Sys2Proof.Machine

/-- A sparse map from Nat: strictly rising keys, no entry holding the map's default. -/
abbrev NMap (α : Type) := List (Nat × α)

/-- Why a step stops with a fault. -/
inductive Fault where
  /-- Raised by any access of physical memory (near, queued, engine, host) whose translated
  frame lies beyond the installed HBM, or whose host or common-store address leaves its
  space: the spec gives no effect for it (R232). Safe: the model stops where hardware goes on. -/
  | absentFrame
  deriving DecidableEq, Repr

/-- Why a step refuses. -/
inductive Refusal where
  /-- Raised by an arm of `exec` that has no meaning yet. Safe. -/
  | notModelled (mnemonic : String)
  deriving DecidableEq, Repr

/-- The kinds of mask-stack levels (R140). -/
inductive MaskKind where
  | ifK | elseK | loopK | callK
  deriving DecidableEq, Repr

/-- One level of the mask stack (R140). -/
structure MaskLevel where
  kind : MaskKind
  mask : Mask
  deriving DecidableEq, Repr

/-- One entry of the meld stack (R149). -/
structure MeldEntry where
  saved : Mask
  fb : Mask
  fa : Mask
  sd : Nat
  qn : Nat
  deriving DecidableEq, Repr

/-- The trap causes of R250. -/
inductive Cause where
  | illegalOp | illegalField | illegalMod | illegalHdr | priv | idxRange | wsetMiss
  | fmtMismatch | fmtPartial | layoutRange | layoutBad | xlate | access | misalign
  | fpExc | intDiv0 | stackOvf | barrierCount | copyRange | engineFault | stallShort
  | meldIllegal | trap | brk | watchdog | lockError
  deriving DecidableEq, Repr

/-- The files a pending result can belong to. -/
inductive RFile where
  | v | tag | s | q | x
  deriving DecidableEq, Repr

/-- A fixed-latency result on its way to its register (R27, R28, R30): `vals` holds thread
t's element (one element for a scalar or tag); thread t's becomes readable at
`base + k * (t / 8)`. `encAt` is the wale's encoded position at issue and `lat` its L (R31). -/
structure InFlight where
  file : RFile
  reg : Nat
  mask : Mask
  vals : List W32
  base : Nat
  k : Nat
  encAt : Nat
  lat : Nat
  /-- issue number of the producer in its wale (R30) -/
  no : Nat
  /-- MODEL FIELD: false while a near load has not read its elements yet (R167). -/
  filled : Bool
  deriving DecidableEq, Repr

/-- A fixed-latency producer that the hazard checker of strict mode knows: its register, its encoded
position and its L (R31). -/
structure Prod where
  file : RFile
  reg : Nat
  encAt : Nat
  lat : Nat
  deriving DecidableEq, Repr

/-- The clause a wale issues under (R63, R258): the header's address and contents, and the next slot. -/
structure ClausePos where
  addr : Nat
  hdr : ClauseHdr
  slot : Nat
  deriving DecidableEq, Repr

/-- Where the staging of a wale's interval stands (R21). -/
inductive Staging where
  | none
  | waiting
  | until (clk : Nat)
  | done
  deriving DecidableEq, Repr

/-- The trap special registers and what TRET needs (R251 to R253). -/
structure TrapFrame where
  tcause : W32
  tpc : Nat
  tinsn0 : W64
  tinsn1 : W64
  tlanes : Mask
  texm : Mask
  tmeld : W32
  maskDepth : Nat
  meldDepth : Nat
  /-- issue number at the trap, and the clause position to return to (R258) -/
  no : Nat
  clause : Option ClausePos
  interval : Option IntervalHdr
  intervalAddr : Nat
  /-- the trap was raised on a header: TRET re-checks it (R258). -/
  onHdr : Bool
  deriving DecidableEq, Repr

/-- Stall reasons of R370, in code order 0 to 10. -/
inductive Reason where
  | noneResident | flagWait | staging | barrier | queueLock | loadQFull | storeQFull
  | matrixQFull | trap | parked | stallCount
  deriving DecidableEq, Repr

/-- What a wale is waiting at: the reason it is charged, and since which clk (R261, R370).
`watched` says whether the wait is one that the watchdog counts (R261). -/
structure Held where
  reason : Reason
  since : Nat
  watched : Bool
  deriving DecidableEq, Repr

/-- One element of a memory request: thread, element number, its coordinates' byte address in
the layout's space (virtual, or a window offset), physical location once translated, data. -/
structure Elem where
  t : Nat
  j : Nat
  va : Nat
  loc : Nat
  size : Nat
  val : W64
  val2 : W32
  /-- out of extent under mode zero: loads read zero, stores and atomics are dropped (R160). -/
  zero : Bool
  done : Bool
  /-- a later instruction of the wale has written its register: the result is discarded (R30). Of a store: it may not
  be performed again, and where it is not done, a later store merges it and it never is performed (R234, R240) -/
  dead : Bool
  /-- a q4 element whose coordinate 0 is no multiple of 8: MISALIGN, after its translation (R161, R162) -/
  mis : Bool := false
  /-- the value that a `.sys` atomic has read at the port and not yet written (R178) -/
  old : Option W32 := none
  /-- the value of a `.wk` load that a later load of the element may share (R234, R240) -/
  read : Option W64 := none
  /-- its coordinates, for the record of an uncorrectable error (R358) -/
  cs : List Int := []
  deriving DecidableEq, Repr

/-- The kinds of memory request. -/
inductive ReqKind where
  | load | store | atomic (op : Nat) | red (op : Nat) | pref
  deriving DecidableEq, Repr

/-- What a release left on a location (R238): its scope and stamp, releasing agent, and write set. -/
structure RelInfo where
  scope : Scope
  core : Nat
  wg : Nat
  ctx : Nat
  stamp : List Nat
  deriving DecidableEq, Repr

/-- One image of a store: the element's index, the code of a q4 word, the image's virtual address, and for q4
whether it is the high code of its byte (R309). -/
structure ImgAt where
  i : Nat
  code : Option Nat
  va : Nat
  hi : Bool
  deriving DecidableEq, Repr

/-- A memory request of a wale: a queue entry once committed (R170), a parked one while
a translation walk is made (R162). -/
structure Req where
  id : Nat
  wale : Nat
  core : Nat
  die : Nat
  ctx : Nat
  kind : ReqKind
  space : Nat
  fmt : Ty
  acls : Acls
  scope : Scope
  /-- release and acquire scopes, with what a FENCE.rel makes of it (R173, R238) -/
  rel : Option Scope
  acq : Option Scope
  rsp : Bool
  flag : Option Nat
  /-- first data register (loads and returning atomics) -/
  reg : Nat
  /-- predicate written by FADDB, and the threads whose bit a later instruction has written (R30) -/
  pred : Nat
  predDead : Mask
  elems : List Elem
  stamp : List Nat
  /-- issue number in the wale, and commit clk (R30, R240). -/
  no : Nat
  at' : Nat
  /-- ids that must be performed first because of FENCE.rel or QFENCE (R173, R174). -/
  after : List Nat
  /-- near accesses before this issue number come first (R173) -/
  fenceNo : Nat
  /-- issue number of the last FENCE.rel of `.die` or wider before it: the images of earlier stores come first (R312) -/
  fenceWide : Option Nat
  /-- performed whole: a weak store that may still be repeated (R234). -/
  finished : Bool
  /-- words of the issuing instruction, kept for the fault report of an imaged store (R384). -/
  insn : W64
  /-- layout handle of the access -/
  handle : Nat
  /-- peer package of a space-6 access -/
  pkg : Nat
  /-- an imaged store: its images, and VMAP negate (R308 to R310). -/
  imgs : List ImgAt
  neg : Bool
  deriving DecidableEq, Repr

/-- A near access waiting for its clk (R167): `wr` tells a store from a load; a load fills
the element of the in-flight result `resId`. -/
structure NearOp where
  wale : Nat
  at' : Nat
  wr : Bool
  loc : Nat
  size : Nat
  val : W64
  reg : Nat
  t : Nat
  fmt : Ty
  no : Nat
  /-- of the volatile class (R248) -/
  vol : Bool
  /-- an arrival at a barrier word, with its count (R183) -/
  arv : Option Nat
  /-- layout handle and coordinates, for the record of an uncorrectable error (R358) -/
  handle : Nat := 0
  cs : List Int := []
  deriving DecidableEq, Repr

/-- An ordering point of scope `.die` or wider (FENCE.rel, QFENCE): until the accesses `ids` and every byte that the
cluster's cache held from before `clk` are at their home slices, the operations that name it wait (R173, R174). -/
structure WideFence where
  id : Nat
  cluster : Nat
  ids : List Nat
  clk : Nat
  deriving DecidableEq, Repr

/-- A LAYSET that has issued and not committed: its entry is written at `at'` (R164). -/
structure LayPend where
  at' : Nat
  ctx : Nat
  h : Nat
  rec' : BitVec 1024
  deriving DecidableEq, Repr

/-- A QFENCE of a wale: what comes first, and the queues whose later operations wait (R174). -/
structure QFence where
  ids : List Nat
  mask : BitVec 5
  deriving DecidableEq, Repr

/-- What an instruction that has taken effect in part still waits for. -/
inductive Latch where
  | lock (loc va : Nat)
  /-- a LOCKQ or UNLOCKQ on its way to the home slice, where it arrives at a clk (R227) -/
  | lockReq (loc va arrives : Nat)
  /-- parked until the page walk of an address is complete, and then going on (R162) -/
  | pageWalk (va : Nat)
  | walked (va : Nat)
  | unlock (loc : Nat)
  | arrived (bar : Nat)
  | barw (loc : Nat) (phase : Bool) (wakeAt : Option Nat)
  | rgrp (key base n : Nat)
  | walk (rs : List Req) (issue : Nat)
  | fence (ids : List Nat)
  | faceB (callPc : Nat)
  deriving DecidableEq, Repr

/-- Kinds of matrix-queue operations (R187). -/
inductive MKind where
  | mma | mmaz | mzero | mread | mwrite | mstore | stfold
  deriving DecidableEq, Repr

/-- One matrix-queue entry (R187 to R198): its group, latched operands and progress. -/
structure MOp where
  id : Nat
  kind : MKind
  ty : Ty
  acc : Nat
  grp : Nat
  issued : Nat
  /-- layout records as read at issue: A, B and their block scales, or the destination (R165); the destination's handle, and origins -/
  recs : List (BitVec 1024)
  ha : Nat
  o0 : Nat
  o1 : Nat
  o2 : Nat
  kk : Nat
  /-- copy id a chained MMA waits for (R192) -/
  chain : Option Nat
  /-- data latched by MWRITE: register run, thread mask; flag of MREAD and MWRITE; row -/
  vals : List W64
  mask : Mask
  reg : Nat
  row : Nat
  /-- issue number, and per register the threads whose result still stands (R30) -/
  no : Nat
  standing : List Mask
  flag : Option Nat
  rm : RMode
  nosat : Bool
  key : W32
  /-- clk at which it became a candidate of the array (R187) -/
  candAt : Option Nat
  /-- stalled on a translation fault (R199), with the fault answered or not -/
  stalled : Bool
  /-- STFOLD: its reservation, once taken (R321); MSTORE: its scale exponent plus 126, once its ring step is made (R195) -/
  resv : Option Nat
  /-- MSTORE: the elements already written, while it pauses for the rim's lane (R314); STFOLD: 1 once its entry is written (R321) -/
  next : Nat := 0
  after : List Nat
  insn : W64
  deriving DecidableEq, Repr

/-- A pending engine fault of a wale (R199, R203, R208, R213): cause, DETAIL and the abandoned word. -/
structure PendFault where
  cause : Cause
  detail : Nat
  insn : W64
  /-- the flag of a faulted bank call, whose waiter takes the fault (R213) -/
  flag : Option Nat := none
  deriving DecidableEq, Repr

/-- What a wale record stands for. -/
inductive WaleKind where
  | wale | weaver | streamM | streamC
  deriving DecidableEq, Repr

/-- Where a resident wale stands in a hard stop or a debug stop (R296, R371). -/
inductive Life where
  | resident | stopping | saved | restoring
  deriving DecidableEq, Repr

/-- A wale, the weaver of a core, or an engine stream (R12, R19, R207). -/
structure Wale where
  /-- serial number fixed at creation (R179) -/
  id : Nat
  kind : WaleKind
  core : Nat
  slot : Nat
  wg : Nat
  windex : Nat
  ctx : Nat
  budget : Nat
  v : NMap W32
  tags : NMap Ty
  s : NMap W32
  q : NMap Mask
  x : NMap (BitVec 8)
  seeds : NMap W32
  exm : Mask
  live : Mask
  exist : Mask
  masks : List MaskLevel
  melds : List MeldEntry
  flags : NMap Nat
  pc : Nat
  clause : Option ClausePos
  interval : Option IntervalHdr
  intervalAddr : Nat
  staging : Staging
  stageReq : Nat
  inflight : List InFlight
  /-- producers that are nearer than their L by encoded distance (R31) -/
  prods : List Prod
  /-- sum of encoded stall counts issued so far (R29, R31) -/
  encPos : Nat
  /-- issue number of the next instruction -/
  issueNo : Nat
  nextIssue : Nat
  yielded : Bool
  born : Nat
  readySince : Option Nat
  aged : Option Nat
  held : Option Held
  latch : Option Latch
  trap : Option TrapFrame
  /-- in trap entry: the handler's interval header is not reached yet (R251) -/
  entry : Bool
  /-- from the trap until the handler's first issue: charged "trap" (R251) -/
  trapping : Bool
  /-- the words and address of the instruction at hand -/
  insn0 : W64
  insn1 : W64
  insnPc : Nat
  /-- ids of this wale's accesses that a FENCE.rel orders before later stores (R173) -/
  fenceRel : List Nat
  fenceScope : Option Scope
  /-- issue number of the last FENCE.rel, and of the last whose scope was `.die` or wider (R173, R312) -/
  fenceNo : Nat
  fenceWide : Option Nat
  qfences : List QFence
  acqClk : Nat
  stamp : List Nat
  /-- releases that its loads have read, which a FENCE.acq acquires (R238) -/
  seen : List RelInfo
  mq : List MOp
  mgOpen : Nat
  batOpen : Nat
  lastCopy : Option Nat
  pend : List PendFault
  barPend : List Nat
  /-- the releases of the last completed phase of each barrier that it arrived at (R238) -/
  barGot : NMap (List RelInfo)
  barArrivals : NMap Nat
  /-- its forked streams that it has not joined: serial and sequencer (R207) -/
  streams : List (Nat × WaleKind)
  atRdv : Bool
  parent : Nat
  life : Life
  dbg : Bool
  resume : Bool
  /-- a stop of the debugger was requested during trap entry (R371) -/
  stopReq : Bool
  /-- a waiting instruction that a WATCHDOG trap left with its arrival or queue place standing (R261) -/
  retryPc : Option Nat
  /-- its trap save area while it is saved (R252, R295) -/
  area : List Byte
  deriving DecidableEq, Repr

/-- A named barrier in the state Filling(count, arrived); Idle is absence (R182). -/
structure Barrier where
  count : Nat
  arrived : Nat
  deriving DecidableEq, Repr

/-- What a workgroup was created for. -/
inductive Origin where
  | launch (queue seq recVa : Nat)
  | task (recVa parentRec : Nat)
  | spawned
  deriving DecidableEq, Repr

/-- The states of a copy (R206). -/
inductive CopySt where
  | forming | ready | running | stalled
  deriving DecidableEq, Repr

/-- One slice of a copy (R201, R203): index, issuing wale, its batch, origins as latched. -/
structure Slice where
  i : Nat
  wale : Nat
  batch : Nat
  dst : List Int
  src : List Int
  insn : W64
  deriving DecidableEq, Repr

/-- One element that a running copy writes: its location and value. For q4, size 0 is the low code
of the byte and size 9 the high one; a tile word has size 10 and its key as location (R204). -/
structure Move where
  loc : Nat
  size : Nat
  val : W64
  deriving DecidableEq, Repr

/-- A collective copy (R202): rejection, slices so far, and once running the elements it moves. -/
structure Copy where
  id : Nat
  cq : Nat
  n : Nat
  hd : Nat
  hs : Nat
  rejected : Bool
  st : CopySt
  slices : List Slice
  lastIssue : Nat
  moves : List Move
  after : List Nat
  /-- destination's and source's layout records, as read at its start (R165) -/
  recs : List (BitVec 1024) := []
  /-- the clk of its start (R227) -/
  began : Nat := 0
  deriving DecidableEq, Repr

/-- A slot of a fold log whose entry is written and that TAIL has not passed (R321): the location of the TAIL word, the
reservation number, and the stamp of the append. -/
structure FoldSlot where
  log : Nat
  seq : Nat
  stamp : List Nat
  deriving DecidableEq, Repr

/-- A scratchpad window: launch slot number, offset and size in bytes (R225). -/
structure Window where
  slot : Nat
  off : Nat
  size : Nat
  deriving DecidableEq, Repr

/-- A workgroup (R12, R186, R225, R278). -/
structure Workgroup where
  id : Nat
  core : Nat
  origin : Origin
  group : Nat
  launch : Nat
  ctx : Nat
  wcount : Nat
  budget : Nat
  fpen : BitVec 5
  bars : Nat
  tiles : Nat
  window : Option Window
  /-- the launch or task it belongs to, shared with the workgroups that SPAWN adds (R154, R225) -/
  family : Nat
  imageMask : W32
  sym : W32
  grid : List Nat
  /-- GRID0 to GRID3 of its launch, with the extents above the rank (R308) -/
  grids : List Nat
  barriers : NMap Barrier
  tileTags : NMap Ty
  tile : NMap W32
  copies : List Copy
  /-- ids of rejected and abandoned copies, for the MMAs chained to them (R192) -/
  badCopies : List Nat
  created : Nat
  /-- the rewrites of code words made before the launch that runs its code started (R78) -/
  started : Nat
  /-- Σ resident clk of its ended wales (R290) -/
  charge : Nat
  /-- hard-stopped and saved (R296) -/
  saved : Bool
  coop : Bool
  /-- what the ends of its wales released (R286) -/
  stamp : List Nat
  /-- bytes of its window while it is saved (R295) -/
  footprint : List Byte
  /-- the core that a migration moves it to (R297) -/
  moveTo : Option Nat
  /-- when its hard stop was ordered (R294) -/
  stopAt : Nat
  /-- the partition of the core it was created on: a task resumes there (R297) -/
  part : Option Nat
  /-- images of other workgroups whose primaries happen before its releases at `.die` and wider (R312) -/
  imgWait : List Nat
  /-- the clk from which the new wales of its RGRP exist, once the conditions have held (R271) -/
  regroup : Option Nat
  deriving DecidableEq, Repr

/-- The states of a bank call (R209, R210). -/
inductive BankSt where
  | queued | running | stalled
  deriving DecidableEq, Repr

/-- A bank call or bank task (R209, R210): the issuing wale, context, base row, and program state. -/
structure BankCall where
  id : Nat
  wale : Option Nat
  ctx : Nat
  base : Nat
  prog : Nat
  pc : Nat
  w : NMap (BitVec 256)
  args : List W32
  lc : Nat
  limit : Nat
  loopStart : Option Nat
  skipping : Bool
  count : Nat
  flag : Option Nat
  st : BankSt
  /-- the space of its layout, 0 or 1, which chooses the unit (R209) -/
  space : Nat
  /-- PARENT of a bank task, and its record (R289) -/
  parent : Nat
  recVa : Nat
  die : Nat
  /-- the stack engine 0 to 11, or the bank arithmetic unit, from 16 on, that runs it (R209); none while its base
  row is not mapped -/
  unit : Option Nat
  /-- it has accessed a row, and every row it accessed is homed at its own bank (R213) -/
  touched : Bool
  pure : Bool
  after : List Nat
  issued : Nat
  insn : W64
  /-- the acquired stamp that its accesses carry (R246) -/
  stamp : List Nat
  deriving DecidableEq, Repr

/-- A queue lock that is not Free (R180). -/
structure Lock where
  owner : Nat
  fifo : List Nat
  /-- the context of its owner: it stays held until that context ends -/
  ctx : Nat
  deriving DecidableEq, Repr

/-- A cached translation: the holding TLB (core id, or 1000 + die for a die's cache), context, page and leaf (R337). -/
structure TlbEnt where
  unit : Nat
  ctx : Nat
  page : Nat
  size : Nat
  leaf : W64
  deriving DecidableEq, Repr

/-- A clean cluster-cache line (R241): the bytes as filled, fill clk, the home die's applied clock then,
and the clk after which it must not be served because a later write was performed (R240). -/
structure CleanLine where
  cluster : Nat
  line : Nat
  bytes : List Byte
  filled : Nat
  applied : List Nat
  dieAt : Nat
  stale : Option Nat
  /-- the releases that stood on its locations at the fill: a read served from it reads these (R238) -/
  rels : NMap (List RelInfo)
  deriving DecidableEq, Repr

/-- A byte a cluster cache holds that is not yet at its home slice (R233, R240). -/
structure DirtyByte where
  v : Byte
  at' : Nat
  deriving DecidableEq, Repr

/-- An applied-clock entry that waits for writes homed on `die` (R246): counter `e` may not pass `k`. -/
structure PendApplied where
  die : Nat
  e : Nat
  k : Nat
  ids : List Nat
  deriving DecidableEq, Repr

/-- A record in an event queue (R287), with the stamp of the release that posted it (R244). -/
structure EvRec where
  data : BitVec 128
  stamp : List Nat
  deriving DecidableEq, Repr

/-- The array of a core while it serves an MMA (R187, R190). -/
structure ArrayBusy where
  wale : Nat
  op : Nat
  done : Nat
  deriving DecidableEq, Repr

/-- An image write of the rim that is not performed yet (R309 to R314). -/
structure Image where
  id : Nat
  wg : Nat
  wale : Nat
  lane : Nat
  ctx : Nat
  /-- space of the layout: 0 or 1 (R307) -/
  space : Nat
  va : Nat
  /-- bytes; for q4, 0 is the low code of the byte and 9 the high one -/
  size : Nat
  val : W64
  stamp : List Nat
  stalled : Bool
  insn : W64
  /-- layout handle of the primary's access (R358) -/
  handle : Nat
  deriving DecidableEq, Repr

/-- A record written or waiting to be written to the fault ring (R339, R358). -/
structure FaultRec where
  data : BitVec 512
  acc : Option EngAcc
  answered : Bool
  deriving DecidableEq, Repr

/-- A retired launch's continuation whose join counter is decremented once its completion record has entered
the queue of `ccore` (R286): the weaver's core, the context and address, and the release it carries. -/
structure ContHeld where
  ccore : Nat
  data : BitVec 128
  core : Nat
  ctx : Nat
  va : Nat
  stamp : List Nat
  deriving DecidableEq, Repr

/-- A saved resume-list entry and dispatch state of a submission queue (R293). -/
structure QueueSt where
  closed : Bool
  resumeList : List Nat
  deriving DecidableEq, Repr

/-- A launch that has started: its total, grid and symmetry as fixed at the start (R284, R305). -/
structure LaunchSt where
  queue : Nat
  seq : Nat
  recVa : Nat
  total : Nat
  grid : List Nat
  /-- SYM, and GRID0 to GRID3 with the extents above the rank (R305, R308) -/
  sym : W32
  grids : List Nat
  /-- the rewrites of code words made before its start (R78) -/
  started : Nat
  coop : Bool
  /-- the release that its workgroups acquire at their creation (R280, R284) -/
  stamp : List Nat
  /-- when its pre-emption was ordered (R292) -/
  drainAt : Nat
  deriving DecidableEq, Repr

/-- A core's claim register (R285): the launch claimed from, the next rank to build and the end. -/
structure Claim where
  queue : Nat
  seq : Nat
  next : Nat
  last : Nat
  deriving DecidableEq, Repr

/-- A long-latency weaver operation that has not completed (R158). -/
structure WvPend where
  op : Nat
  /-- the context whose addresses it names -/
  ctx : Nat
  d : Nat
  a0 : W64
  b : Nat
  s0 : W32
  flag : Option Nat
  /-- serial of the weaver or wale that issued it, its issue number, and the result scalars that a later
  instruction has written (R30) -/
  owner : Nat
  no : Nat
  dead : List Nat
  /-- its issue clk (R345) -/
  issued : Nat
  deriving DecidableEq, Repr

/-- The states of the slew engine, in code order 0 to 5 (R353). -/
inductive SlewSt where
  | idle | planning | pulling | switching | doneS | halted
  deriving DecidableEq, Repr

/-- One transfer of a plan (R348). -/
structure Transfer where
  rank : Nat
  replicas : List Nat
  src : List Nat
  dst : List Nat
  ext : List Nat
  deriving DecidableEq, Repr

/-- The slew engine (R345 to R353). -/
structure Slew where
  st : SlewSt
  block : Nat
  prec : Nat
  ccore : Nat
  ctx : Nat
  mode : Nat
  dstRec : BitVec 1024
  srcRec : BitVec 1024
  plan : List Transfer
  phash : W32
  cursor : Nat
  done : Nat
  fail : Nat
  halt : Nat
  hpkg : Nat
  unreachable : List Nat
  /-- packages whose failure was a translation or permission failure (R352) -/
  lastXlate : List Nat
  /-- the replica chosen, and whether its hop count was 255 (R349, R352) -/
  current : Nat
  dead : Bool
  stalled : Bool
  /-- what the starting weaver had acquired and released (R347) -/
  stamp : List Nat
  /-- the clk at which Planning began (R348) -/
  since : Nat
  /-- a replica for the transfer at CURSOR is still to be chosen (R349) -/
  choosing : Bool
  /-- the run has come to its end, with this state and HALT, and waits for its progress record and for CCORE's event queue
  (R287, R350, R353) -/
  ending : Option (SlewSt × Nat)
  deriving DecidableEq, Repr

/-- A running checkpoint (R361 to R364): its block, the block's fields, granules that a record has named as uncorrectable, and
the dirty bits that it has cleared as it began. -/
structure Ckpt where
  block : Nat
  bctx : Nat
  mode : Nat
  sel : Nat
  ttab : Nat
  ccore : Nat
  ctx : Nat
  bad : List Nat
  was : List Nat
  /-- the run is over, with this STATUS and GRANS, and waits for its block and for CCORE's event queue (R287, R363) -/
  ending : Option (Nat × Nat)
  deriving DecidableEq, Repr

/-- The part record in flash (R360): a core id to its built core, 0 to 79 of its die, an id that is not listed standing for its own
position; the HBM repair map; the link trims. -/
structure PartRec where
  cores : NMap Nat
  repair : NMap Nat
  trims : NMap Nat
  deriving DecidableEq, Repr

/-- What ATTESTATION_SIGN yields (R377): the leaf, the message signed, and the signature. -/
structure Attestation where
  leaf : Nat
  message : List Byte
  sig : HssSig
  deriving DecidableEq, Repr

/-- A retry link (R332 to R334): the next SEQ expected, the lowest SEQ that the peer has not acknowledged,
replays without progress, and whether it is down. -/
structure Link where
  expect : Nat
  acked : Nat
  replays : Nat
  down : Bool
  /-- the SEQ that the last NAK sent names, until that flit has come (R333) -/
  nak : Option Nat := none
  deriving DecidableEq, Repr

/-- The states of the boot (R374). -/
inductive Boot where
  | reset | bringUp | running | minimal | off
  deriving DecidableEq, Repr

/-- The power states of R378. -/
inductive PState where
  | p0 | c1 | c2 | c3 | c4
  deriving DecidableEq, Repr

/-- An old value of a code word written while launches ran (R78), and which of the rewrites replaced it. -/
structure OldWord where
  word : W64
  at' : Nat
  deriving DecidableEq, Repr

/-- A forwarding entry left by a migration (R297). -/
structure Forward where
  core : Nat
  wg : Nat
  /-- the window slot that the workgroup left; none without a window -/
  slot : Option Nat
  newCore : Nat
  expires : Nat
  deriving DecidableEq, Repr

/-- One asynchronous step of the agenda. -/
inductive Turn where
  /-- an event of the table -/
  | event (i : Instr)
  /-- one instruction of a running bank program -/
  | bank (id : Nat)
  /-- the next word of an engine stream -/
  | stream (w : Nat)
  /-- the weaver of a core starts at the firmware entry (R19, R285) -/
  | weaver (core : Nat)
  /-- the power controller withholds issue and array starts for whole clk (R381) -/
  | withhold (n : Nat)
  /-- an error of a structure of die `d`, 4 the I/O die, is corrected in place (R355) -/
  | corrected (strct d : Nat)
  /-- PCI Express makes a replay, or its link fails (R355) -/
  | pcie (failed : Bool)
  deriving DecidableEq, Repr

/-- An agenda entry: the clk at or after which the step comes about. MODEL TYPE. -/
structure Due where
  clk : Nat
  turn : Turn
  deriving DecidableEq, Repr

/-- The state of one package. -/
structure State where
  /-- the package's 600 MHz clk counter -/
  clk : Nat
  /-- clk at which the cores were last held in reset (R14) -/
  coreReset : Nat
  /-- MODEL FIELD: the asynchronous steps still to come (log 2). -/
  agenda : List Due
  /-- MODEL FIELD: how many free values have been used (log 6). -/
  free : Nat
  /-- MODEL FIELD: next identifier of a record of this state. -/
  nextId : Nat
  /-- MODEL FIELD: serial of the wale, weaver or stream whose instruction is at hand. -/
  cur : Nat
  /-- MODEL FIELD: the bank call whose instruction is at hand. -/
  curBank : Nat
  wales : List Wale
  wgs : List Workgroup
  /-- pipe key core * 16 + pipe: clk from which the pipe is free (R16) -/
  pipes : NMap Nat
  /-- MODEL FIELD: pipe key to the clk of its last issue, for HIST (R370). -/
  issuedAt : NMap Nat
  /-- the counters of the observation blocks by BAR 0 offset; HIST(0) and REASON(0) are kept less clk (R370) -/
  obs : NMap W64
  mem : List Host.Cell
  /-- MODEL FIELD: counts that renew the free bytes (log 5). -/
  powerEpoch : Nat
  pageEpoch : NMap Nat
  near : List NearOp
  reqs : List Req
  locks : NMap Lock
  rels : NMap (List RelInfo)
  dirty : NMap DirtyByte
  clean : List CleanLine
  relCount : List Nat
  pendApplied : List PendApplied
  wideFences : List WideFence
  layPend : List LayPend
  /-- slots of fold logs that are written and not yet passed by TAIL (R321) -/
  foldSlots : List FoldSlot
  layouts : NMap (BitVec 1024)
  rings : NMap (List W32)
  tlbs : List TlbEnt
  inval : Option (List Nat)
  regs : NMap W64
  faultTail : Nat
  faultHead : Nat
  faultRing : List FaultRec
  faultHeld : List FaultRec
  events : NMap (List EvRec)
  evHeld : List (Nat × EvRec)
  contHeld : List ContHeld
  ctxRecs : NMap (BitVec 512)
  ctxStopped : List Nat
  weaverStopped : List Nat
  queueSt : NMap QueueSt
  launches : List LaunchSt
  claims : NMap Claim
  wvPend : NMap WvPend
  retired : NMap (List Nat)
  lastServed : NMap Nat
  coreTasks : NMap (List Nat)
  dieTasks : NMap (List Nat)
  bankTasks : NMap (List Nat)
  arrays : NMap ArrayBusy
  banks : List BankCall
  images : List Image
  forwards : List Forward
  dirtyGranules : List Nat
  slew : Slew
  ckpt : Option Ckpt
  links : NMap Link
  msix : List Nat
  hostRead : List Byte
  /-- why the last access of a peer failed, which returns to it (R226, R336) -/
  peerFail : Option Cause
  predone : Bool
  preempting : List (Nat × Nat)
  boot : Boot
  bootCnt : Nat
  nextBlk : Nat
  report : W64
  leavesLeft : Nat
  /-- clk at which Bring-up was entered (R374) -/
  bootAt : Nat
  /-- the clk up to which the power controller withholds issue and array starts (R381) -/
  withheld : Nat
  /-- flash: the part record and its signature (R360, R373) -/
  part : PartRec
  partSig : HssSig
  /-- flash: the core ids that no built core serves from the next boot on (R360) -/
  lost : List Nat
  /-- flash: the firmware image (R373) -/
  firmware : SignedImage
  /-- the last attestation (R377) -/
  attested : Option Attestation
  /-- words with an uncorrectable error that no store has replaced: location, and size of the ECC word (R355, R357) -/
  badWords : List (Nat × Nat)
  absent : List Nat
  power : NMap PState
  idleSince : NMap Nat
  wakeAt : NMap Nat
  psDropped : NMap Nat
  oldWords : NMap (List OldWord)
  /-- MODEL FIELD: how many code words have been rewritten while launches ran (R78). -/
  rewrites : Nat
  wvIssues : NMap Nat
  /-- MODEL FIELD: an access met a frame beyond the installed memory; the step faults. -/
  absentHit : Bool
  deriving DecidableEq, Repr

/-- The slew engine at reset: Idle (R353). -/
def Slew.reset : Slew :=
  { st := .idle, block := 0, prec := 0, ccore := 0, ctx := 0, mode := 0, dstRec := 0, srcRec := 0
    plan := [], phash := 0, cursor := 0, done := 0, fail := 0, halt := 0, hpkg := 0
    unreachable := [], lastXlate := [], current := 0, dead := false, stalled := false, stamp := [], since := 0, choosing := false
    ending := none }

/-- A part record that maps every id to its own position (log 1). -/
def PartRec.reset : PartRec := { cores := [], repair := [], trims := [] }
/-- The levels of the device's own key (R377). -/
def keyLevels : List (LmsCode × OtsCode) := [(.h10, .w8), (.h20, .w4)]
/-- The signature of a part record and firmware as delivered: its levels are those of R377, and whether it verifies is left
open (log 1, log 85). -/
def HssSig.reset : HssSig := { levels := keyLevels, bytes := [] }

/-- The state right after reset: no wale, context, launch or translation exists; the
BAR 0 registers hold their reset values (R298: every enabled core belongs to partition 0;
every other register of R329 and R354 reads zero but ID, which is read as a constant);
PREDONE reads 1 (R293); memory lists nothing; the boot stands in Reset (R374). The flash
fields (BOOTCNT, NEXTBLK, the part record, the firmware) are as a part without failures holds them (log 1). -/
def State.reset : State :=
  { clk := 0, coreReset := 0, agenda := [], free := 0, nextId := 1, cur := 0, curBank := 0
    wales := [], wgs := [], pipes := [], issuedAt := [], obs := [], mem := [], powerEpoch := 0, pageEpoch := []
    near := [], reqs := [], locks := [], rels := [], dirty := [], clean := []
    relCount := [0, 0, 0, 0, 0], pendApplied := [], wideFences := [], layPend := [], foldSlots := []
    layouts := [], rings := [], tlbs := [], inval := none
    regs := [(0x3800, 0xFFFFFFFFFFFFFFFF), (0x3808, 0xFFFFFFFFFFFFFFFF),
      (0x3810, 0xFFFFFFFFFFFFFFFF), (0x3818, 0xFFFFFFFFFFFFFFFF), (0x3820, 0xFFFFFFFF)]
    faultTail := 0, faultHead := 0, faultRing := [], faultHeld := []
    events := [], evHeld := [], contHeld := [], ctxRecs := [], ctxStopped := [], weaverStopped := []
    queueSt := [], launches := [], claims := [], wvPend := [], retired := [], lastServed := []
    coreTasks := [], dieTasks := [], bankTasks := [], arrays := [], banks := [], images := []
    forwards := [], dirtyGranules := [], slew := Slew.reset, ckpt := none, links := [], msix := []
    hostRead := [], peerFail := none, predone := true, preempting := [], boot := .reset, bootCnt := 0, nextBlk := 0
    report := 0, leavesLeft := 0, bootAt := 0, withheld := 0, part := PartRec.reset
    partSig := HssSig.reset, lost := [], firmware := { body := [], sig := HssSig.reset }, attested := none, badWords := [], absent := [], power := [], idleSince := []
    wakeAt := [], psDropped := [], oldWords := [], rewrites := 0, wvIssues := [], absentHit := false }

end Sys2Proof.Machine
end

