-- ==== Sys2Proof/Machine/Map.lean ====
section
/-!
DEFINITION. Sys2Proof/Machine/Map.lean: sparse maps, bytes and bit fields.

The one place where a map keeps its canonical form, where little-endian order is fixed
(R4) and where a field is cut from a record.
-/
namespace Sys2Proof.Machine

variable {α : Type}

/-- The value at a key of a sorted list of pairs. -/
def mFind : List (Nat × α) → Nat → Option α
  | [], _ => none
  | (k, v) :: r, n => if n < k then none else if n = k then some v else mFind r n

/-- Insert or replace, keeping the keys strictly rising. -/
def mPut : List (Nat × α) → Nat → α → List (Nat × α)
  | [], n, x => [(n, x)]
  | (k, v) :: r, n, x =>
    if n < k then (n, x) :: (k, v) :: r else if n = k then (n, x) :: r else (k, v) :: mPut r n x

/-- Remove a key. -/
def mDel : List (Nat × α) → Nat → List (Nat × α)
  | [], _ => []
  | (k, v) :: r, n => if n = k then r else (k, v) :: mDel r n

/-- The value at a key of a sparse map with default `d`. -/
def mGet (d : α) (m : NMap α) (n : Nat) : α := (mFind m n).getD d

/-- Set a key of a sparse map with default `d`; the default is not listed. -/
def mSet [DecidableEq α] (d : α) (m : NMap α) (n : Nat) (x : α) : NMap α :=
  if x = d then mDel m n else mPut m n x

/-- The pairs with keys in `lo` to `hi - 1` removed. -/
def mDelRange (m : List (Nat × α)) (lo hi : Nat) : List (Nat × α) :=
  m.filter fun p => decide (p.1 < lo) || decide (hi ≤ p.1)

/-- Consecutive keys from `a` with the values of a list. -/
def mCells : Nat → List α → List (Nat × α)
  | _, [] => []
  | a, x :: xs => (a, x) :: mCells (a + 1) xs

/-- Replace the pairs at `a` to `a + xs.length - 1` by the values of `xs`. -/
def mPutRange (m : List (Nat × α)) (a : Nat) (xs : List α) : List (Nat × α) :=
  (m.filter fun p => decide (p.1 < a)) ++ mCells a xs ++
    (m.filter fun p => decide (a + xs.length ≤ p.1))

/-- The keys of a list of pairs rise strictly: the canonical form of a map. -/
def mSorted : List (Nat × α) → Bool
  | [] => true
  | [_] => true
  | p :: q :: r => decide (p.1 < q.1) && mSorted (q :: r)

/-- THE CANONICAL FORM OF MEMORY: addresses rise strictly. A byte that nothing has written is a free byte (log 5), so
no value is left out. -/
abbrev Memory.wf (m : List (Nat × Byte)) : Bool := mSorted m

/-- A number from little-endian bytes (R4, R57). -/
def leNat : List Byte → Nat
  | [] => 0
  | b :: bs => b.toNat + 256 * leNat bs

/-- The `n` little-endian bytes of a number (R4, R57). -/
def leBytes : Nat → Nat → List Byte
  | 0, _ => []
  | n + 1, x => BitVec.ofNat 8 (x % 256) :: leBytes n (x / 256)

/-- Bits `hi : lo` of a record as a number. -/
def field {n : Nat} (x : BitVec n) (hi lo : Nat) : Nat := x.toNat / 2 ^ lo % 2 ^ (hi + 1 - lo)

/-- Set bits `hi : lo` of a record. -/
def setField {n : Nat} (x : BitVec n) (hi lo v : Nat) : BitVec n :=
  let w := hi + 1 - lo
  let old := x.toNat / 2 ^ lo % 2 ^ w
  BitVec.ofNat n (x.toNat - old * 2 ^ lo + v % 2 ^ w * 2 ^ lo)

/-- The threads of a wale, 0 to 31 in order (R7). -/
def threads : List Nat := List.range 32

/-- Bit `t` of a thread mask. -/
def Mask.has (m : Mask) (t : Nat) : Bool := m.getLsbD t

/-- The mask of the threads that satisfy a predicate. -/
def maskOf (p : Nat → Bool) : Mask :=
  BitVec.ofNat 32 (threads.foldl (fun n t => if p t then n + 2 ^ t else n) 0)

/-- The number of threads in a mask. -/
def Mask.count (m : Mask) : Nat := (threads.filter fun t => m.getLsbD t).length

/-- A 52-bit address (R12). -/
def addr52 (n : Nat) : Nat := n % 2 ^ 52

/-- Replace element `n` of a list. -/
def setNth (l : List α) (n : Nat) (x : α) : List α :=
  match l, n with
  | [], _ => []
  | _ :: r, 0 => x :: r
  | a :: r, n + 1 => a :: setNth r n x

/-- Entry-by-entry maximum of two stamps (R246). -/
def stampJoin : List Nat → List Nat → List Nat
  | [], b => b
  | a, [] => a
  | a :: as, b :: bs => max a b :: stampJoin as bs

/-- Every entry of `a` is at most that of `b` (R246). -/
def stampLe : List Nat → List Nat → Bool
  | [], _ => true
  | a :: as, [] => a == 0 && stampLe as []
  | a :: as, b :: bs => decide (a ≤ b) && stampLe as bs

end Sys2Proof.Machine
end

