-- ==== Sys2Proof/Machine/Ops.lean ====
section
/-!
DEFINITION. Sys2Proof/Machine/Ops.lean: the shared operations of the machine.

Memory by location, wales and their registers, active sets, issue, the fault ring, taking
a trap (R251) and returning from one (R157, R257). Every family of meanings is written over these.
-/
namespace Sys2Proof.Machine

/-! ### Outcomes -/

/-- The outcome of an instruction or event that has been carried out: a next state, unless an
access met a frame beyond the installed memory. -/
def fin (s : State) : Host.Outcome State Fault Refusal :=
  if s.absentHit then .fault .absentFrame else .next s

/-! ### Locations and memory -/

/-- The location of a byte of HBM (R232). -/
def locHbm (a : Nat) : Nat := a
/-- The location of a byte of the explicit common store (R231). -/
def locCommon (a : Nat) : Nat := 2 ^ 52 + a
/-- The location of a byte of a core's scratchpad (R225). -/
def locSpad (core off : Nat) : Nat := 2 ^ 53 + core * 2 ^ 20 + off
/-- The location of a byte of host memory on the PCI Express bus (R224). -/
def locHost (a : Nat) : Nat := 2 ^ 56 + a
/-- The location of a byte of a peer package's job (R226). -/
def locPeer (pkg va : Nat) : Nat := 2 ^ 60 + pkg * 2 ^ 52 + va

/-- Whether a location is in HBM or the common store, the part that dies home. -/
def locDevice (l : Nat) : Bool := decide (l < 2 ^ 53)

/-- The compute die that homes a location (R232); the issuing die for host and peer packages. -/
def homeDie (l issuer : Nat) : Nat :=
  if l < 2 ^ 52 then l / (48 * 2 ^ 30) / 3
  else if l < 2 ^ 53 then (l - 2 ^ 52) / 2 ^ 27
  else if l < 2 ^ 56 then (l - 2 ^ 53) / 2 ^ 20 / Config.coresPerDie
  else issuer

/-- The HBM stack that holds a location of HBM, and the base die and stack engines under it (R9, R232). -/
def stackOf (l : Nat) : Nat := l / (48 * 2 ^ 30)

/-- The bank of a device location's home slice (R232): of HBM, the XOR of the ten-bit groups of address bits 47:8. -/
def homeBank (l : Nat) : Nat :=
  if l < 2 ^ 52 then (List.range 4).foldl (fun n k => n ^^^ (l / 2 ^ (8 + 10 * k) % 2 ^ 10)) 0
  else Config.commonBank ((l - 2 ^ 52) / 256) % 1024

/-- The home of scale ring `n` of a context: its die and bank (R232). -/
def ringHome (n : Nat) : Nat × Nat := (n % 4, 1023 - n / 4)

/-- The bank arithmetic unit of a device location's home slice, counted from 16 (R209, R232). -/
def bankOf (l : Nat) : Nat := 16 + 1024 * homeDie l 0 + homeBank l

/-- The unit that runs the bank programs of a layout's space on a base row (R209): for space 0 the stack engine of the row's
stack, for space 1 the arithmetic unit of its home slice, as for a row that no stack holds. -/
def bankUnitOf (space l : Nat) : Nat := if space = 0 ∧ l < 2 ^ 52 then stackOf l else bankOf l

/-- The byte at a location: what was last written, else a free byte (R225, log 5). -/
def State.byteAt (s : State) (l : Nat) : Byte :=
  (mFind s.mem l).getD (Config.freeByte s.powerEpoch (mGet 0 s.pageEpoch (l / 4096)) l)

/-- The `n` bytes from a location. -/
def State.bytesAt (s : State) (l n : Nat) : List Byte := (List.range n).map fun i => s.byteAt (l + i)

/-- The little-endian number of `n` bytes from a location. -/
def State.natAt (s : State) (l n : Nat) : Nat := leNat (s.bytesAt l n)

/-- The granule of R361 that a location lies in; none outside HBM and the common store. -/
def granule (l : Nat) : Option Nat :=
  if l < 2 ^ 52 then some (l / 65536)
  else if l < 2 ^ 53 then
    some (9437184 + 1536 * ((l - 2 ^ 52) / 2 ^ 27) + (l - 2 ^ 52) % 2 ^ 27 / 65536)
  else none

/-- Mark the granule of a location dirty (R364). -/
def State.markDirty (s : State) (l : Nat) : State :=
  match granule l with
  | none => s
  | some g => if s.dirtyGranules.contains g then s else { s with dirtyGranules := g :: s.dirtyGranules }

/-- Keep the old value of the code word `k` that a write replaces while launches run (R78). -/
def State.keepOld (s : State) (k : Nat) : State :=
  if !locDevice (8 * k) || s.launches.isEmpty then s
  else
    let w := BitVec.ofNat 64 (s.natAt (8 * k) 8)
    { s with oldWords := mPut s.oldWords k (⟨w, s.rewrites⟩ :: mGet [] s.oldWords k), rewrites := s.rewrites + 1 }

/-- The 8-byte words that `n` bytes from a location lie in. -/
def wordsOf (l n : Nat) : List Nat := (List.range ((l + n + 7) / 8 - l / 8)).map (l / 8 + ·)

/-- A line's clean copies go stale 100 µs after a later write of any byte of the line at home (R240). -/
def CleanLine.touch (c : CleanLine) (l n clk : Nat) : CleanLine :=
  if decide (l / 128 ≤ c.line) && decide (c.line ≤ (l + n - 1) / 128) && c.stale.isNone then
    { c with stale := some (clk + Config.clk100us) }
  else c

/-- The uncorrectable words that remain once `n` bytes from a location are written: a word written whole is good (R357). -/
def healed (bad : List (Nat × Nat)) (l n : Nat) : List (Nat × Nat) :=
  bad.filter fun b => !(decide (l ≤ b.1) && decide (b.1 + b.2 ≤ l + n))

/-- Write bytes at their home: memory, dirty granule, old code words, clean copies and uncorrectable words. -/
def State.writeLoc (s : State) (l : Nat) (bs : List Byte) : State :=
  let s := (wordsOf l bs.length).foldl State.keepOld s
  let s := s.markDirty l
  { s with
    mem := mPutRange s.mem l bs
    clean := s.clean.map (fun c => c.touch l bs.length s.clk)
    badWords := healed s.badWords l bs.length }

/-- The uncorrectable word that an access of `n` bytes from a location meets: it reads a byte of the word, or writes a part of
it (R357). -/
def State.badWord (s : State) (l n : Nat) (wr : Bool) : Option Nat :=
  (s.badWords.find? fun b => decide (l < b.1 + b.2) && decide (b.1 < l + n) &&
    !(wr && decide (l ≤ b.1) && decide (b.1 + b.2 ≤ l + n))).map Prod.fst

/-- Write the `n` low bytes of a number (R4). -/
def State.writeNat (s : State) (l n x : Nat) : State := s.writeLoc l (leBytes n x)

/-! ### Tables of agents -/

/-- The wale, weaver or stream with a serial. -/
def State.wale? (s : State) (id : Nat) : Option Wale := s.wales.find? fun w => w.id == id

/-- Replace the wale with the same serial. -/
def State.putWale (s : State) (w : Wale) : State :=
  { s with wales := s.wales.map fun x => if x.id == w.id then w else x }

/-- Apply a function to the wale with a serial, if there is one. -/
def State.onWale (s : State) (id : Nat) (f : Wale → Wale) : State :=
  { s with wales := s.wales.map fun x => if x.id == id then f x else x }

/-- The workgroup with an id. -/
def State.wg? (s : State) (id : Nat) : Option Workgroup := s.wgs.find? fun g => g.id == id

/-- Replace the workgroup with the same id. -/
def State.putWg (s : State) (g : Workgroup) : State :=
  { s with wgs := s.wgs.map fun x => if x.id == g.id then g else x }

/-- Apply a function to the workgroup with an id. -/
def State.onWg (s : State) (id : Nat) (f : Workgroup → Workgroup) : State :=
  { s with wgs := s.wgs.map fun x => if x.id == id then f x else x }

/-- Run `f` on the wale at hand; nothing happens when there is none. -/
def State.onCur (s : State) (f : Wale → State) : State :=
  match s.wale? s.cur with
  | some w => f w
  | none => s

/-- A fresh identifier. -/
def State.fresh (s : State) : Nat × State := (s.nextId, { s with nextId := s.nextId + 1 })

/-- The compute die of a core (R10). -/
def dieOf (core : Nat) : Nat := core / Config.coresPerDie
/-- The cluster of a core, numbered over the package (R10). -/
def clusterOf (core : Nat) : Nat := core / Config.coresPerCluster
/-- The hop count between two cores of a cluster (R227). -/
def hops (a b : Nat) : Nat :=
  let x := (a % 8) ^^^ (b % 8)
  x % 2 + x / 2 % 2 + x / 4 % 2

/-- Whether a core id names a present core (R10, R360, R375): in minimal mode only the first
core of each die runs. -/
def State.corePresent (s : State) (c : Nat) : Bool :=
  decide (c < Config.numCores) && !s.absent.contains c &&
    (s.boot != .minimal || c % Config.coresPerDie == 0)

/-! ### Context records (R299) -/

/-- The cached record of a context. -/
def State.ctxRec (s : State) (c : Nat) : BitVec 512 := mGet 0 s.ctxRecs c
/-- VALID of a context's record. -/
def State.ctxExists (s : State) (c : Nat) : Bool := decide (c < 128) && field (s.ctxRec c) 32 32 == 1
/-- A context exists and is not stopped. -/
def State.ctxValid (s : State) (c : Nat) : Bool := s.ctxExists c && !s.ctxStopped.contains c
/-- HANDLER of a context (R251). -/
def State.handler (s : State) (c : Nat) : Nat := field (s.ctxRec c) 115 64
/-- STRICT of a context (R31). -/
def State.strict (s : State) (c : Nat) : Bool := field (s.ctxRec c) 34 34 == 1
/-- BKEN of a context (R156). -/
def State.bken (s : State) (c : Nat) : Bool := field (s.ctxRec c) 33 33 == 1
/-- WDOG of a context, in units of 65,536 clk (R261). -/
def State.wdog (s : State) (c : Nat) : Nat := field (s.ctxRec c) 63 48
/-- JOB of a context (R226). -/
def State.job (s : State) (c : Nat) : Nat := field (s.ctxRec c) 271 256

/-- A BAR 0 register as stored; every register is zero until written (R329, R354). -/
def State.reg (s : State) (off : Nat) : W64 := mGet 0 s.regs off
/-- Store a BAR 0 register. -/
def State.setReg (s : State) (off : Nat) (v : W64) : State := { s with regs := mSet 0 s.regs off v }

/-! ### Registers of a wale -/

/-- Whether a pending result of a register's element for thread `t` is readable at `clk` (R28). -/
def InFlight.covers (e : InFlight) (f : RFile) (r t clk : Nat) : Bool :=
  e.file == f && e.reg == r && e.filled && e.mask.getLsbD t && decide (e.base + e.k * (t / 8) ≤ clk)

/-- The newest readable pending element, if any (R28, R30). -/
def pendingVal (l : List InFlight) (f : RFile) (r t clk : Nat) : Option W32 :=
  l.foldl (fun acc e => if e.covers f r t clk then some (e.vals.getD t 0) else acc) none

/-- The element of vector register `r` for thread `t` read at `clk` (R28). -/
def Wale.vAt (w : Wale) (r t clk : Nat) : W32 :=
  (pendingVal w.inflight .v r t clk).getD (mGet 0 w.v (r * 32 + t))

/-- Scalar `n` read at `clk` (R101). Reading past s63 gives zero. -/
def Wale.sAt (w : Wale) (n clk : Nat) : W32 :=
  (pendingVal w.inflight .s n 0 clk).getD (mGet 0 w.s n)

/-- The bit of predicate `q` for thread `t` read at `clk` (R28, R108). -/
def Wale.qAt (w : Wale) (q t clk : Nat) : Bool :=
  match pendingVal w.inflight .q q t clk with
  | some v => v != 0
  | none => (mGet 0 w.q q).getLsbD t

/-- Index register `x` of thread `t` read at `clk` (R23, R28). -/
def Wale.xAt (w : Wale) (x t clk : Nat) : Nat :=
  match pendingVal w.inflight .x x t clk with
  | some v => v.toNat % 256
  | none => (mGet 0 w.x (x * 32 + t)).toNat

/-- The tag of a vector register for an instruction issued at `clk` (R25, R100). -/
def Wale.tagAt (w : Wale) (r clk : Nat) : Ty :=
  match pendingVal w.inflight .tag r 0 clk with
  | some v => Ty.ofCode (v.toNat % 16)
  | none => mGet .raw w.tags r

/-- A 64-bit scalar pair, low word first (R154, R158). -/
def Wale.s64At (w : Wale) (n clk : Nat) : Nat := (w.sAt n clk).toNat + 2 ^ 32 * (w.sAt (n + 1) clk).toNat

/-- Write a vector element. -/
def Wale.vSet (w : Wale) (r t : Nat) (x : W32) : Wale := { w with v := mSet 0 w.v (r * 32 + t) x }

/-- Move one pending result to its register, every element of its mask (R28, R33). -/
def Wale.land (w : Wale) (e : InFlight) : Wale :=
  let each := threads.filter fun t => e.mask.getLsbD t
  if e.mask == 0 then w
  else match e.file with
  | .v => { w with v := each.foldl (fun m t => mSet 0 m (e.reg * 32 + t) (e.vals.getD t 0)) w.v }
  | .x => { w with x := each.foldl (fun m t => mSet 0 m (e.reg * 32 + t) ((e.vals.getD t 0).truncate 8)) w.x }
  | .s => { w with s := mSet 0 w.s e.reg (e.vals.getD 0 0) }
  | .tag => { w with tags := mSet .raw w.tags e.reg (Ty.ofCode ((e.vals.getD 0 0).toNat % 16)) }
  | .q =>
    let old := mGet 0 w.q e.reg
    let new := maskOf fun t => if e.mask.getLsbD t then e.vals.getD t 0 != 0 else old.getLsbD t
    { w with q := mSet 0 w.q e.reg new }

/-- The clk from which every element of a pending result is readable (R28). -/
def InFlight.readable (e : InFlight) : Nat := e.base + 3 * e.k

/-- Move every pending result that is readable at `clk`, and no older one of its register is
still pending, to its register, in issue order (R30). `keep` collects those that stay. -/
def settleList (clk : Nat) : List InFlight → List InFlight → Wale → Wale
  | [], keep, w => { w with inflight := keep.reverse }
  | e :: r, keep, w =>
    if e.filled && decide (e.readable ≤ clk) && !(keep.any fun p => p.file == e.file && p.reg == e.reg)
    then settleList clk r keep (w.land e)
    else settleList clk r (e :: keep) w

/-- Settle the results that are readable at `clk`. -/
def Wale.settle (w : Wale) (clk : Nat) : Wale := settleList clk w.inflight [] w

/-- A later result of the same register takes its elements from an older pending one (R30). -/
def InFlight.under (p e : InFlight) : InFlight :=
  if p.file == e.file && p.reg == e.reg && decide (p.no < e.no) then { p with mask := p.mask &&& ~~~e.mask } else p

/-- Settle every fixed-latency result whose value is known; a near load that has not read its
elements keeps those that no later result has written (R30, R251 step 2). -/
def Wale.settleAll (w : Wale) : Wale :=
  let (done, rest) := w.inflight.partition fun e => e.filled
  let w := done.foldl Wale.land w
  { w with inflight := rest.map fun p => done.foldl InFlight.under p }

/-- The latest clk at which a pending result becomes readable, at least `clk` (R251). -/
def Wale.settleClk (w : Wale) (clk : Nat) : Nat :=
  w.inflight.foldl (fun n e => max n e.readable) clk

/-- A result of instruction `no` of wale `w` for threads `m` of register `r` of a file has become readable:
what this older queued operation would still deliver there is discarded (R30). `h` is the issue number
at the trap, in a handler: a handler's v248 to v255 are not those of the interrupted program (R255). -/
def Req.supersede (q : Req) (w : Nat) (f : RFile) (r no : Nat) (m : Mask) (h : Option Nat) : Req :=
  let apart := match h with
    | some n => f == .v && decide (248 ≤ r) && decide (n ≤ no) && decide (q.no < n)
    | none => false
  if q.wale != w || decide (no ≤ q.no) || apart then q
  else match f with
    | .v =>
      { q with elems := q.elems.map fun e =>
          if decide (q.reg + e.j = r) && m.getLsbD e.t then { e with dead := true } else e }
    | .q => if q.kind == .atomic 9 && q.pred == r then { q with predDead := q.predDead ||| m } else q
    | _ => q

/-- The same for a queued MREAD (R30, R194). -/
def MOp.supersede (o : MOp) (f : RFile) (r no : Nat) (m : Mask) (h : Option Nat) : MOp :=
  let apart := match h with
    | some n => decide (248 ≤ r) && decide (n ≤ no) && decide (o.no < n)
    | none => false
  if o.kind == .mread && f == .v && decide (o.no < no) && !apart then
    { o with standing := (o.standing.zip (List.range o.standing.length)).map fun (k, i) =>
        if o.reg + i == r then k &&& ~~~m else k }
  else o

/-- The same for a weaver operation's scalar (R30, R158). -/
def WvPend.supersede (p : WvPend) (w : Nat) (f : RFile) (r no : Nat) : WvPend :=
  if p.owner == w && f == .s && decide (p.no < no) then { p with dead := r :: p.dead } else p

/-- A result has become readable: older queued results of its elements are discarded (R30). -/
def State.supersede (s : State) (w : Wale) (f : RFile) (r no : Nat) (m : Mask) : State :=
  let h := w.trap.map TrapFrame.no
  { s with
    reqs := s.reqs.map fun q => q.supersede w.id f r no m h
    wvPend := s.wvPend.map fun p => (p.1, p.2.supersede w.id f r no)
    wales := s.wales.map fun x =>
      if x.id == w.id then { x with mq := x.mq.map fun o => o.supersede f r no m h } else x }

/-- Every filled pending result of a wale supersedes the older queued ones (R30, R251). -/
def State.supersedeAll (s : State) (w : Wale) (clk : Nat) : State :=
  (w.inflight.filter fun e => e.filled && decide (e.readable ≤ clk)).foldl
    (fun s e => s.supersede w e.file e.reg e.no e.mask) s

/-! ### Active sets (R149, R151) -/

/-- The innermost meld entry when a melded region is current (R149). -/
def Wale.region (w : Wale) : Option MeldEntry :=
  match w.melds with
  | [] => none
  | e :: _ =>
    let above := w.masks.take (w.masks.length - e.sd)
    if above.any (fun l => l.kind == .callK) then none
    else match w.trap with
      | some f => if w.melds.length ≤ f.meldDepth then none else some e
      | none => some e

/-- Whether a FACE is legal where the wale stands (R70, R149). -/
def Wale.faceOk (w : Wale) (f : Face) : Bool := f == .both || w.region.isSome

/-- The active set of an instruction (R151). -/
def Wale.active (w : Wale) (f : Face) : Mask :=
  match f, w.region with
  | .faceA, some e => w.exm &&& e.fa
  | .faceB, some e => w.exm &&& e.fb
  | _, _ => w.exm

/-- Whether thread `t` uses face B's operand set of a paired instruction (R151). -/
def Wale.usesB (w : Wale) (t : Nat) : Bool :=
  match w.region with
  | some e => !e.fa.getLsbD t
  | none => false

/-- Levels of the mask stack that operations may pop or search: in a handler only those above
the depth at entry (R143, R254). -/
def Wale.ownMasks (w : Wale) : List MaskLevel :=
  match w.trap with
  | some f => w.masks.take (w.masks.length - f.maskDepth)
  | none => w.masks

/-- Meld entries that operations may pop (R254). -/
def Wale.ownMelds (w : Wale) : List MeldEntry :=
  match w.trap with
  | some f => w.melds.take (w.melds.length - f.meldDepth)
  | none => w.melds

/-- Whether privileged operations are permitted (R76). -/
def Wale.privileged (w : Wale) : Bool := w.kind == .weaver || w.trap.isSome

/-! ### The fault ring (R339, R340, R358) -/

/-- A record with the layout handle of its access, and HV set (R358). -/
def withHandle (d : BitVec 512) (h : Option Nat) : BitVec 512 :=
  match h with
  | some n => setField d 491 481 (2 ^ 10 + n % 2 ^ 10)
  | none => d

/-- A record is written at slot FAULTTAIL mod 256, or held while the ring is full (R340). -/
def State.pushFault (s : State) (r : FaultRec) : State :=
  if s.faultTail - s.faultHead ≥ 256 || !s.faultHeld.isEmpty then
    { s with faultHeld := s.faultHeld ++ [r] }
  else
    let a := (s.reg 0x3100).toNat + 64 * (s.faultTail % 256)
    let s := if a + 64 ≤ Config.hbmBytes then s.writeNat (locHbm a) 64 r.data.toNat else s
    { s with
      faultRing := s.faultRing ++ [r], faultTail := s.faultTail + 1
      msix := if s.msix.contains 256 then s.msix else s.msix ++ [256] }

/-- The fields of R358 at their bit positions. -/
def mkRecord (kind ctx strct core slot : Nat) (body addr clk : Nat) : BitVec 512 :=
  BitVec.ofNat 512 (kind % 256 * 2 ^ 504 + ctx % 128 * 2 ^ 497 + strct % 32 * 2 ^ 492 +
    core % 512 * 2 ^ 472 + slot % 128 * 2 ^ 465 + body * 2 ^ 256 + addr % 2 ^ 52 * 2 ^ 204 +
    clk % 2 ^ 64 * 2 ^ 128)

/-- What the engines and queues of a context still had to do is dropped, without saving (R357, log 63). -/
def State.quiet (s : State) (ctx : Nat) : State :=
  let ours (id : Nat) : Bool := s.wales.any fun w => w.id == id && w.ctx == ctx
  let gone := (s.reqs.filter fun q => q.ctx == ctx).map Req.id
  { s with
    reqs := s.reqs.filter fun q => q.ctx != ctx
    near := s.near.filter fun o => !ours o.wale
    wales := s.wales.map fun w => if w.ctx == ctx then { w with mq := [] } else w
    wgs := s.wgs.map fun g => if g.ctx == ctx then { g with copies := [] } else g
    arrays := s.arrays.filter fun p => !ours p.2.wale
    banks := s.banks.filter fun b => b.ctx != ctx
    images := s.images.filter fun i => i.ctx != ctx
    pendApplied := (s.pendApplied.map fun p => { p with ids := p.ids.filter fun i => !gone.contains i }).filter
      fun p => !p.ids.isEmpty }

/-- Stop a context with one containment record; a context already stopped adds none (R256, R357, R358). -/
def State.stopCtx (s : State) (ctx : Nat) (data : BitVec 512) : State :=
  if s.ctxStopped.contains ctx then s
  else (({ s with ctxStopped := ctx :: s.ctxStopped }).quiet ctx).pushFault ⟨data, none, true⟩

/-! ### Causes -/

/-- The code of a cause (R250). -/
def Cause.code : Cause → Nat
  | .illegalOp => 0x01 | .illegalField => 0x02 | .illegalMod => 0x03 | .illegalHdr => 0x04
  | .priv => 0x05 | .idxRange => 0x06 | .wsetMiss => 0x07 | .fmtMismatch => 0x08
  | .fmtPartial => 0x09 | .layoutRange => 0x0A | .layoutBad => 0x0B | .xlate => 0x0C
  | .access => 0x0D | .misalign => 0x0E | .fpExc => 0x0F | .intDiv0 => 0x10 | .stackOvf => 0x11
  | .barrierCount => 0x12 | .copyRange => 0x13 | .engineFault => 0x14 | .stallShort => 0x15
  | .meldIllegal => 0x16 | .trap => 0x17 | .brk => 0x18 | .watchdog => 0x19 | .lockError => 0x1A

/-- What raising a trap needs: cause, the threads it lists, DETAIL, whether on a header, the
clk it is raised at, and what sr.tinsn words 2 and 3 hold when not the pair-extension word (R250, R253). -/
structure TrapReq where
  cause : Cause
  lanes : Mask := 0
  detail : Nat := 0
  hdr : Bool := false
  t0 : Nat := 0
  tinsn1 : Option W64 := none
  deriving DecidableEq, Repr

/-- FFACE of sr.tmeld (R253): the faces that hold the listed threads. -/
def fface (r : Option MeldEntry) (lanes : Mask) : Nat :=
  match r with
  | none => 0
  | some e => (if lanes &&& e.fa != 0 then 1 else 0) + (if lanes &&& e.fb != 0 then 2 else 0)

/-- sr.tmeld at a trap (R253). -/
def Wale.tmeldWord (w : Wale) (lanes : Mask) : W32 :=
  let qn := match w.melds with | e :: _ => e.qn | [] => 0
  BitVec.ofNat 32 (fface w.region lanes * 2 ^ 8 + (if w.region.isSome then 128 else 0) + qn * 8 +
    w.melds.length)

/-- Where slot `n` of a core keeps its save area (R252). -/
def saveArea (core slot : Nat) : Nat := locSpad core (0xEE000 + 0x480 * slot)

/-- The clause position word of R252 and R258. -/
def clauseWord (c : Option ClausePos) (hdrPc : Nat) : Nat :=
  match c with
  | some p => addr52 p.addr + p.slot % 8 * 2 ^ 56
  | none => addr52 hdrPc

/-- The 1,152 bytes of a wale's save area at a trap (R252). -/
def Wale.saveBytes (w : Wale) : List Byte :=
  let own := w.budget == 256
  let vs := (List.range 8).flatMap fun r => threads.flatMap fun t =>
    leBytes 4 (if own then (mGet 0 w.v ((248 + r) * 32 + t)).toNat else 0)
  let ss := (List.range 8).flatMap fun n => leBytes 4 (mGet 0 w.s (56 + n)).toNat
  let tagw := (List.range 8).foldl (fun n r => n + (mGet Ty.raw w.tags (248 + r)).code * 16 ^ r) 0
  vs ++ ss ++ leBytes 4 (if own then tagw else 0) ++ leBytes 4 0 ++ leBytes 8 (addr52 w.intervalAddr) ++
    leBytes 8 (clauseWord w.clause w.insnPc) ++ leBytes 72 0

/-- The clause position of the instruction at hand names its own slot (R251 step 4). -/
def Wale.trapClause (w : Wale) (hdr : Bool) : Option ClausePos := if hdr then none else w.clause

/-- The frame that a trap leaves (R253). -/
def Wale.frame (w : Wale) (r : TrapReq) : TrapFrame :=
  { tcause := BitVec.ofNat 32 (r.detail % 256 * 2 ^ 16 + (if r.hdr then 256 else 0) + r.cause.code)
    tpc := w.insnPc, tinsn0 := w.insn0, tinsn1 := r.tinsn1.getD w.insn1, tlanes := r.lanes
    texm := w.exm, tmeld := w.tmeldWord r.lanes, maskDepth := w.masks.length
    meldDepth := w.melds.length, no := w.issueNo, clause := w.trapClause r.hdr
    interval := w.interval, intervalAddr := w.intervalAddr, onHdr := r.hdr }

/-- Clear v248 to v255 and their tags: the handler registers of a smaller budget (R254). -/
def Wale.clearHandlerRegs (w : Wale) : Wale :=
  if w.budget == 256 then w
  else { w with v := mDelRange w.v (248 * 32) (256 * 32), tags := mDelRange w.tags 248 256 }

/-- Free the fast-file slots of a wale: its interval is no longer staged (R21). -/
def Wale.unstage (w : Wale) : Wale := { w with staging := .none, interval := none }

/-- Steps 1 to 4 of R251 on the wale: its results settle, the frame is recorded, EXM becomes
live, and the program counter takes the handler's address. -/
def Wale.enter (w : Wale) (handler : Nat) (r : TrapReq) : Wale :=
  let ready := w.settleClk (r.t0 + 12)
  let f := w.frame r
  let w := w.settleAll
  let w := w.clearHandlerRegs
  { w.unstage with
    exm := w.live, trap := some f, pc := handler, clause := none, entry := true, trapping := true, prods := []
    nextIssue := ready, held := none, latch := none, yielded := false, readySince := none, aged := none, resume := false }

/-- A weaver that faults stops; its core takes no further workgroups (R256). -/
def State.stopWeaver (s : State) (core : Nat) : State :=
  if s.weaverStopped.contains core then s else { s with weaverStopped := core :: s.weaverStopped }

/-- A stream that meets a trap cause ends faulted and counts as having reached its RDV (R208). -/
def State.faultStream (s : State) (w : Wale) : State :=
  let s := { s with wales := s.wales.filter fun x => x.id != w.id }
  s.onWale w.parent fun p =>
    { p with pend := p.pend ++ [⟨.engineFault, 2, w.insn0, none⟩] }

/-- TAKING A TRAP: the wale `w` raises `r` (R249 to R256). A stream ends faulted (R208), a
weaver stops (R256), a trap in a handler or without a handler stops the context with a
containment record of kind 0x11; otherwise the save area is written, the trap registers are
loaded, EXM becomes live and the wale enters the handler. -/
def State.takeTrap (s : State) (w : Wale) (r : TrapReq) : State :=
  let r := { r with t0 := max r.t0 s.clk }
  match w.kind with
  | .streamM | .streamC => s.faultStream w
  | .weaver => s.stopWeaver w.core
  | .wale =>
    let h := s.handler w.ctx
    let (c1, p1) := match w.trap with
      | some f => (f.tcause.toNat % 256, f.tpc)
      | none => (0, 0)
    if w.trap.isSome || h == 0 then
      let first := if w.trap.isSome then (c1, p1, r.cause.code, w.insnPc) else (r.cause.code, w.insnPc, 0, 0)
      let body := (first.1 * 2 ^ 432 + first.2.2.1 * 2 ^ 440 + addr52 first.2.1 * 2 ^ 328 +
        addr52 first.2.2.2 * 2 ^ 380) / 2 ^ 256
      s.stopCtx w.ctx (mkRecord 0x11 w.ctx 0 w.core w.slot body w.insnPc s.clk)
    else
      let saved := w.settleAll.saveBytes
      let s := s.supersedeAll w (w.settleClk s.clk)
      let mq := match s.wale? w.id with | some x => x.mq | none => w.mq
      (s.writeLoc (saveArea w.core w.slot) saved).putWale { w.enter h r with mq := mq }

/-! ### Issue (R16, R18, R29, R139) -/

/-- The pipe of a slot; the weaver shares pipe 15 (R18, R19). -/
def pipeOf (core slot : Nat) : Nat := core * 16 + (if slot ≥ 64 then 15 else slot % 16)

/-- The offset of a counter of a pipe's observation block (R370). -/
def obsAt (core pipe o : Nat) : Nat := Config.obsBase + 0x1000 * core + 0x100 * pipe + o

/-- Add to a counter of the observation blocks; it wraps (R370). -/
def State.addObs (s : State) (off n : Nat) : State :=
  { s with obs := mSet 0 s.obs off (mGet 0 s.obs off + BitVec.ofNat 64 n) }

/-- The lane slots that an instruction's beats leave idle in a melded region (R370, MELDIDLE). -/
def Wale.meldIdle (w : Wale) : Nat :=
  match w.region with
  | some e => Mask.count ((e.fa ||| e.fb) &&& ~~~(w.active (Face.ofCode (w.insn0.toNat / 2 ^ 48 % 4))))
  | none => 0

/-- Hold a pipe until `clk` (R16, R17): an issue, of beats when it is held for four clk. -/
def State.holdPipe (s : State) (w : Wale) (clk : Nat) : State :=
  match w.kind with
  | .streamM | .streamC => s
  | _ =>
    let p := pipeOf w.core w.slot
    let s := { s with pipes := mSet 0 s.pipes p clk, issuedAt := mPut s.issuedAt p s.clk }
    if s.clk + 4 ≤ clk then s.addObs (obsAt w.core (p % 16) 0xE8) w.meldIdle else s

/-- The stall count of the slot at hand (R29, R62). -/
def Wale.stall (w : Wale) : Nat :=
  match w.clause with
  | some p => p.hdr.stalls.getD p.slot 0
  | none => 0

/-- The flag that FSEL selects under the clause at hand; none for 15 (R63). -/
def Wale.flagSel (w : Wale) (fsel : Bool) : Option Nat :=
  match w.clause with
  | some p =>
    let n := if fsel then p.hdr.setB else p.hdr.setA
    if n < 12 then some n else none
  | none => none

/-- The clause position after the slot at hand, and whether the clause ends and yields (R63). -/
def nextSlot (c : Option ClausePos) : Option ClausePos × Bool :=
  match c with
  | some p => if p.slot ≥ p.hdr.len then (none, p.hdr.yield) else (some { p with slot := p.slot + 1 }, false)
  | none => (none, false)

/-- The bytes that the instruction at hand fills: 16 when paired (R58). -/
def Wale.insnBytes (w : Wale) : Nat :=
  let c := w.insn0.toNat / 2 ^ 60
  if 2 ≤ c ∧ c ≤ 12 ∧ w.insn0.toNat / 2 ^ 48 % 4 = 3 then 16 else 8

/-- The producers after an issue: those of the instruction join, and those at least L behind by encoded
distance leave (R31). -/
def Wale.nextProds (w : Wale) : List Prod :=
  (w.prods ++ (w.inflight.filter fun e => e.no == w.issueNo).map fun e => (⟨e.file, e.reg, e.encAt, e.lat⟩ : Prod)).filter
    fun p => decide (w.encPos + w.stall < p.encAt + p.lat)

/-- After an issue at `clk`: the next slot, no earlier than the stall count and `bound` (R29, R139). -/
def Wale.advance (w : Wale) (clk bound : Nat) : Wale :=
  let (c, y) := nextSlot w.clause
  { w with
    clause := c, yielded := y, pc := addr52 (w.pc + w.insnBytes)
    nextIssue := clk + max (max w.stall bound) 1, encPos := w.encPos + w.stall, prods := w.nextProds
    trapping := false
    issueNo := w.issueNo + 1, held := none, latch := none, readySince := none, aged := none, resume := false
    retryPc := if w.retryPc == some w.insnPc && w.trap.isNone then none else w.retryPc }

/-- The wale at hand waits at its instruction: it tries again at the next clk (R18, R370). -/
def State.hold (s : State) (w : Wale) (reason : Reason) (watched : Bool) : State :=
  let since := match w.held with | some h => h.since | none => s.clk
  s.putWale { w with held := some ⟨reason, since, watched⟩, nextIssue := s.clk + 1 }

/-- An issue without register results: the pipe's port is held for one clk (R17, R139). -/
def State.issued (s : State) (w : Wale) (bound : Nat) : State :=
  (s.holdPipe w (s.clk + 1)).putWale (w.advance s.clk bound)

/-- A pending result of an instruction issued at `clk` with latency `lat`, occupancy `occ` and
beat length `k` (R28). -/
def mkFlight (w : Wale) (f : RFile) (r : Nat) (m : Mask) (vals : List W32) (clk lat occ k : Nat) :
    InFlight :=
  { file := f, reg := r, mask := m, vals := vals, base := clk + lat - occ + 4, k := k
    encAt := w.encPos, lat := lat, no := w.issueNo, filled := true }

/-- A pending scalar result, readable at `clk + lat` (R101, R119). -/
def scFlight (w : Wale) (n : Nat) (v : W32) (clk lat : Nat) : InFlight :=
  { file := .s, reg := n, mask := 1, vals := [v], base := clk + lat, k := 0
    encAt := w.encPos, lat := lat, no := w.issueNo, filled := true }

/-- A tag write, which governs instructions issued from `clk + occ` on (R100). -/
def tagFlight (w : Wale) (r : Nat) (ty : Ty) (clk occ : Nat) : InFlight :=
  { file := .tag, reg := r, mask := 1, vals := [BitVec.ofNat 32 ty.code], base := clk + occ, k := 0
    encAt := w.encPos, lat := occ, no := w.issueNo, filled := true }

/-- Issue with results: they join the wale's pending list, and the pipe is held for `occ` clk. -/
def State.issueWith (s : State) (w : Wale) (res : List InFlight) (occ bound : Nat) : State :=
  let w := { w with inflight := w.inflight ++ res }
  (s.holdPipe w (s.clk + occ)).putWale (w.advance s.clk bound)

/-! ### Completion flags (R32) -/

/-- Flag `k` of a wale. -/
def Wale.flag (w : Wale) (k : Nat) : Nat := mGet 0 w.flags k
/-- Raise a flag. -/
def Wale.raise (w : Wale) : Option Nat → Wale
  | none => w
  | some k => { w with flags := mSet 0 w.flags k (w.flag k + 1) }
/-- Lower a flag. -/
def Wale.lower (w : Wale) : Option Nat → Wale
  | none => w
  | some k => { w with flags := mSet 0 w.flags k (w.flag k - 1) }
/-- Whether a flag can be raised: it stays at most 63 (R32). -/
def Wale.canRaise (w : Wale) : Option Nat → Bool
  | none => true
  | some k => decide (w.flag k < 63)

/-- A pending result of a file that is older than instruction `no` loses the threads `m` of a register (R30). -/
def Wale.older (w : Wale) (f : RFile) (r no : Nat) (m : Mask) : List InFlight :=
  w.inflight.map fun e =>
    if e.file == f && e.reg == r && decide (e.no < no) then { e with mask := e.mask &&& ~~~m } else e

/-- A queued or near result lands: a register's element, or during trap entry and in the handler
the save slot's image of v248 to v255 for an operation issued before the trap (R255). -/
def State.landV (s : State) (id r t no : Nat) (x : W32) : State :=
  match s.wale? id with
  | none => s
  | some w =>
    let m : Mask := BitVec.ofNat 32 (2 ^ t)
    let s := s.supersede w .v r no m
    let land := s.onWale id fun w => { w.vSet r t x with inflight := w.older .v r no m }
    match w.trap with
    | some f =>
      if 248 ≤ r ∧ no < f.no then
        (s.onWale id fun w => { w with inflight := w.older .v r no m }).writeNat (saveArea w.core w.slot + 128 * (r - 248) + 4 * t) 4 x.toNat
      else land
    | none => land

/-! ### Returning from a trap (R157, R257, R258) -/

/-- The stack depths are those at entry (R157). -/
def Wale.depthsOk (w : Wale) (f : TrapFrame) : Bool :=
  w.masks.length == f.maskDepth && w.melds.length == f.meldDepth

/-- v248 to v255, their tags and s56 to s63 come back from the save area (R257). -/
def Wale.restore (w : Wale) (s : State) : Wale :=
  let a := saveArea w.core w.slot
  let word (o : Nat) : W32 := BitVec.ofNat 32 (s.natAt (a + o) 4)
  let scs := (List.range 8).foldl (fun m n => mSet 0 m (56 + n) (word (0x400 + 4 * n))) w.s
  if w.budget == 256 then
    let tagw := s.natAt (a + 0x420) 4
    let vs := (List.range 8).foldl (fun m r =>
      threads.foldl (fun m t => mSet 0 m ((248 + r) * 32 + t) (word (128 * r + 4 * t))) m) w.v
    let tgs := (List.range 8).foldl (fun m r =>
      mSet .raw m (248 + r) (Ty.ofCode (tagw / 16 ^ r % 16))) w.tags
    { w with s := scs, v := vs, tags := tgs }
  else { w.clearHandlerRegs with s := scs }

end Sys2Proof.Machine
end

