-- ==== Sys2Proof/Machine/Operands.lean ====
section
/-!
DEFINITION. Sys2Proof/Machine/Operands.lean: operand forms and the shape of a vector operation.

Reading an operand (R23, R28, R35, R68, R95), the checks at issue in the order of R99, the
strict-mode check (R31, R260), and carrying out a vector operation in beats (R16, R26, R33).
-/
namespace Sys2Proof.Machine

/-! ### Reading operands -/

/-- The image that a scalar supplies to an operation of a type (R95): its low bits, extended. -/
def scalarImage (ty : Ty) (v : W32) : W32 :=
  match ty with
  | .i8 => (v.truncate 8).signExtend 32
  | .i16 => (v.truncate 16).signExtend 32
  | .n8 | .e4m3 | .e5m2 => (v.truncate 8).zeroExtend 32
  | .n16 | .f16 | .bf16 => (v.truncate 16).zeroExtend 32
  | _ => v

/-- The register W + X + o that `v[x+o]` names for thread `t` at issue; none without a window (R23). -/
def Wale.vixName (w : Wale) (x o t clk : Nat) : Option Nat :=
  match w.interval with
  | some h => if h.wen then some (h.window.base + w.xAt x t clk + o) else none
  | none => none

/-- The register that thread `t` reaches through `v[x+o]`; none outside the window (R23). -/
def Wale.vixReg (w : Wale) (x o t clk : Nat) : Option Nat :=
  match w.interval with
  | some h =>
    let i := w.xAt x t clk + o
    if h.wen && decide (i < h.window.count) then some (h.window.base + i) else none
  | none => none

/-- The element or pair of a source operand for thread `t`: uniform operands and indices are
read at the issue clk `c`, vector elements at `cr` (R17, R23, R28). -/
def Wale.srcAt (w : Wale) (ty : Ty) (src : Src) (wide : Bool) (t c cr : Nat) : W64 :=
  match src with
  | .vec r =>
    if wide then (w.vAt (r + 1) t cr).zeroExtend 64 <<< 32 ||| (w.vAt r t cr).zeroExtend 64
    else (w.vAt r t cr).zeroExtend 64
  | .vix x o =>
    match w.vixReg x o t c with
    | some r => (w.vAt r t cr).zeroExtend 64
    | none => 0
  | .sc n => (scalarImage ty (w.sAt n c)).zeroExtend 64
  | .imm v => (immValue ty v).getD 0
  | .w32 v => v.zeroExtend 64
  | .lit n => BitVec.ofNat 64 n
  | .pred q => if w.qAt q t cr then 1 else 0
  | .xreg x => BitVec.ofNat 64 (w.xAt x t cr)
  | .none => 0

/-- The vector registers that a source names without an index (R22). -/
def regsOf (src : Src) (wide : Bool) : List Nat :=
  match src with
  | .vec r => if wide then [r, r + 1] else [r]
  | _ => []

/-- The vector registers that a source reads for thread `t`. -/
def Wale.srcRegs (w : Wale) (src : Src) (wide : Bool) (t clk : Nat) : List Nat :=
  match src with
  | .vix x o => (w.vixReg x o t clk).toList
  | _ => regsOf src wide

/-- Whether a register is in the staged working set (R22). -/
def Wale.inSet (w : Wale) (r : Nat) : Bool :=
  match w.interval with
  | some h => h.ranges.any fun g => decide (g.base ≤ r) && decide (r < g.base + g.count)
  | none => false

/-! ### Strict mode (R31, R260) -/

/-- Whether a fixed-latency producer of a register is closer than its latency by encoded distance,
whatever gap has come about (R31). -/
def Wale.tooEarly (w : Wale) (f : RFile) (r : Nat) : Bool :=
  w.prods.any fun p => p.file == f && p.reg == r && decide (w.encPos - p.encAt < p.lat)

/-- The wait mask of the clause at hand has a flag (R31). -/
def Wale.waitsOn (w : Wale) (k : Nat) : Bool :=
  match w.clause with
  | some p => p.hdr.wait / 2 ^ k % 2 == 1
  | none => false

/-- Whether the clause at hand does not wait on a flag. -/
def Wale.notOn (w : Wale) (f : Option Nat) : Bool := match f with | some k => !w.waitsOn k | none => false

/-- How many scalars a weaver operation writes (R158). -/
def WvPend.outs (p : WvPend) : Nat :=
  match p.op with
  | 5 => 2 | 6 => 5 | 8 => 4 | _ => 1

/-- Whether a register has an outstanding queued write whose flag the clause does not wait on (R31): a vector
register of a load, returning atomic or MREAD, a predicate of FADDB, a scalar of a weaver operation. -/
def State.queuedEarly (s : State) (w : Wale) (f : RFile) (r : Nat) : Bool :=
  match f with
  | .v =>
    (s.reqs.any fun q => q.wale == w.id && !q.finished &&
      (match q.kind with | .load | .atomic _ => true | _ => false) &&
      (q.elems.any fun e => decide (q.reg + e.j = r)) && w.notOn q.flag) ||
    (w.mq.any fun m => m.kind == .mread && decide (m.reg ≤ r) && decide (r < m.reg + m.standing.length) &&
      w.notOn m.flag)
  | .q => s.reqs.any fun q => q.wale == w.id && !q.finished && q.kind == .atomic 9 && q.pred == r && w.notOn q.flag
  | .s =>
    s.wvPend.any fun p => p.2.owner == w.id && decide (p.2.d ≤ r) && decide (r < p.2.d + p.2.outs) &&
      w.notOn p.2.flag
  | _ => false

/-- A register operand that an instruction reads. -/
structure Use where
  file : RFile
  reg : Nat
  deriving DecidableEq, Repr

/-- STALL_SHORT: DETAIL of the failed check, or none when nothing fails or strict mode is off (R260). -/
def State.stallShort (s : State) (w : Wale) (uses : List Use) : Option Nat :=
  if !s.strict w.ctx then none
  else
    let bad := uses.filter fun u =>
      w.tooEarly u.file u.reg || s.queuedEarly w u.file u.reg
    let vs := (bad.filter fun u => u.file == .v).map Use.reg
    match bad, vs with
    | [], _ => none
    | _, [] => some 0xFF
    | _, v :: vs => some (vs.foldl min v)

/-- The registers that a source operand reads when the active threads are `m`. -/
def Wale.srcUses (w : Wale) (src : Src) (wide : Bool) (m : Mask) (clk : Nat) : List Use :=
  match src with
  | .vec _ => (regsOf src wide).map (Use.mk .v)
  | .vix x o =>
    ⟨.x, x⟩ :: ((threads.filter fun t => m.getLsbD t).flatMap fun t =>
      (w.vixReg x o t clk).toList.map (Use.mk .v))
  | .sc n => [⟨.s, n⟩]
  | .pred q => [⟨.q, q⟩]
  | .xreg x => [⟨.x, x⟩]
  | _ => []

/-! ### Outcomes of an instruction of a wale -/

/-- The instruction at hand raises a trap (R249). -/
def State.raise (s : State) (w : Wale) (c : Cause) (lanes : Mask) (detail : Nat := 0) (t0 : Nat := 0) :
    Host.Outcome State Fault Refusal :=
  .next (s.takeTrap w { cause := c, lanes := lanes, detail := detail, t0 := max t0 s.clk })

/-- A wale takes a trap (R249). -/
def State.raise' (s : State) (w : Wale) (r : TrapReq) : Host.Outcome State Fault Refusal := .next (s.takeTrap w r)

/-- Run a meaning on the wale at hand. -/
def State.withCur (s : State) (f : Wale → Host.Outcome State Fault Refusal) :
    Host.Outcome State Fault Refusal :=
  match s.wale? s.cur with
  | some w => f w
  | none => .next s

/-! ### The shape of a vector operation -/

/-- What one thread's operation yields: the words of its destination registers, the IEEE
exceptions it raises (bit 4 invalid to bit 0 inexact, R253), a cause found in its beat, and the lane's seed. -/
structure ERes where
  vals : List W32
  exc : Nat := 0
  cause : Option Cause := none
  seed : W32 := 0
  deriving DecidableEq, Repr

/-- A vector operation: latency and occupancy (R27), result tag (R25), destination file and
number of registers, the tags each source may carry, and its effect on one thread. -/
structure VOp where
  lat : Nat := 8
  occ : Nat := 4
  tag : Ty
  file : RFile := .v
  outs : Nat := 1
  tags : Opnds → Nat → List Ty
  wide : Opnds → Nat → Bool := fun _ _ => false
  /-- the type by which a source's scalar is read, where it is not TYPE -/
  rd : Opnds → Nat → Option Ty := fun _ _ => none
  /-- lane exchange: the thread whose A element thread `t` reads, from B's value (R134) -/
  lane : Option (Nat → W64 → Nat) := none
  fn : Opnds → Nat → W32 → W64 → W64 → W64 → ERes

/-- The operand set of thread `t` (R151). -/
def Wale.opnds (w : Wale) (g : G) (t : Nat) : Opnds :=
  match g.fb with
  | some fb => if w.usesB t then fb else g.fa
  | none => g.fa

/-- The faces of a word with their active threads (R151). -/
def Wale.faces (w : Wale) (g : G) : List (Opnds × Mask) :=
  let m := w.active g.face
  match g.fb with
  | some fb => [(g.fa, maskOf fun t => m.getLsbD t && !w.usesB t), (fb, maskOf fun t => m.getLsbD t && w.usesB t)]
  | none => [(g.fa, m)]

/-- The base register that a destination names for thread `t`. -/
def Wale.dstReg (w : Wale) (d : Dst) (t clk : Nat) : Option Nat :=
  match d with
  | .vec r => some r
  | .vix x o => w.vixReg x o t clk
  | .pred q => some q
  | .xreg x => some x
  | .sc n => some n
  | .none => none

/-- Registers named without an index by a face of a vector operation (R22). -/
def VOp.named (op : VOp) (o : Opnds) : List Nat :=
  (match o.d with
   | .vec r => (List.range op.outs).map (r + ·)
   | _ => []) ++
  regsOf o.a (op.wide o 1) ++ regsOf o.b (op.wide o 2) ++ regsOf o.c (op.wide o 3)

/-- The registers that an indexed operand of a face names for thread `t` (R22, R23). -/
def VOp.ixNamed (op : VOp) (w : Wale) (o : Opnds) (t clk : Nat) : List Nat :=
  let one (n : Nat) (src : Src) := match src with
    | .vix x i => (w.vixName x i t clk).toList.flatMap fun r => (List.range n).map (r + ·)
    | _ => []
  (match o.d with
   | .vix x i => one op.outs (.vix x i)
   | _ => []) ++ one 1 o.a ++ one 1 o.b ++ one 1 o.c

/-- Whether an indexed operand of a face leaves the window for thread `t` (R23). -/
def Wale.ixBad (w : Wale) (o : Opnds) (t clk : Nat) : Bool :=
  (match o.d with | .vix x i => (w.vixReg x i t clk).isNone | _ => false) ||
  ([o.a, o.b, o.c].any fun | .vix x i => (w.vixReg x i t clk).isNone | _ => false)

/-- Whether some source of a face carries a tag the operation does not accept (R25). -/
def Wale.fmtBad (w : Wale) (op : VOp) (o : Opnds) (m : Mask) (clk : Nat) : Bool :=
  !o.mods.any && ([(1, o.a), (2, o.b), (3, o.c)].any fun (r, src) =>
    let ok := op.tags o r
    !ok.isEmpty && ((w.srcUses src (op.wide o r) m clk).any fun u =>
      u.file == .v && !ok.contains (w.tagAt u.reg clk)))

/-- The base destination registers and the threads that write each. Through an indexed D whose threads
reach different registers each register is written in part, which FMT_PARTIAL counts (R26, R99, log 103). -/
def Wale.dests (w : Wale) (fs : List (Opnds × Mask)) (clk : Nat) : List (Nat × Mask) :=
  let each := fs.flatMap fun (o, m) =>
    (threads.filter fun t => m.getLsbD t).filterMap fun t => (w.dstReg o.d t clk).map fun r => (r, t)
  ((each.map Prod.fst).eraseDups).map fun r =>
    (r, maskOf fun t => each.contains (r, t))

/-- Whether writing `m` of register `r` with a tag is a forbidden partial write (R26). -/
def Wale.partialBad (w : Wale) (r : Nat) (m : Mask) (tag : Ty) (clk : Nat) : Bool :=
  w.exist &&& ~~~m != 0 && w.tagAt r clk != .raw && w.tagAt r clk != tag

/-- The registers that a vector instruction reads in strict mode. -/
def VOp.uses (op : VOp) (w : Wale) (fs : List (Opnds × Mask)) (clk : Nat) : List Use :=
  fs.flatMap fun (o, m) =>
    if m == 0 then []
    else
      (match o.d with | .vix x _ => [Use.mk .x x] | _ => []) ++
      w.srcUses o.a (op.wide o 1) m clk ++ w.srcUses o.b (op.wide o 2) m clk ++
      w.srcUses o.c (op.wide o 3) m clk

/-- The checks of a vector instruction made at decode and issue: MELD_ILLEGAL (R70), then
R99's order, then STALL_SHORT (log 20). The answer is the trap they raise. -/
def State.vecCheck (s : State) (w : Wale) (g : G) (op : VOp) : Option TrapReq :=
  let m := w.active g.face
  let fs := w.faces g
  let c := s.clk
  let faceMiss := ((g.fa :: g.fb.toList).any fun o => (op.named o).any fun r => !w.inSet r) ||
    (threads.any fun t => m.getLsbD t && ((op.ixNamed w (w.opnds g t) t c).any fun r => !w.inSet r))
  let ix := maskOf fun t => m.getLsbD t && w.ixBad (w.opnds g t) t c
  if w.kind != .wale then some { cause := .illegalField }
  else if !w.faceOk g.face then some { cause := .meldIllegal, lanes := m }
  else if faceMiss then some { cause := .wsetMiss, lanes := m }
  else if m == 0 then none
  else if ix != 0 then some { cause := .idxRange, lanes := ix }
  else if fs.any fun (o, tm) => tm != 0 && w.fmtBad op o tm c then some { cause := .fmtMismatch, lanes := m }
  else if op.file == .v && ((w.dests fs c).any fun (r, tm) =>
      (List.range op.outs).any fun j => w.partialBad (r + j) tm op.tag c) then
    some { cause := .fmtPartial, lanes := m }
  else match s.stallShort w (op.uses w fs c) with
    | some d => some { cause := .stallShort, lanes := m, detail := d }
    | none => none

/-- One thread's operation, its operands read at their clk (R16, R17, R28). -/
def VOp.run (op : VOp) (w : Wale) (g : G) (t c : Nat) (seed : W32) : ERes :=
  let o := w.opnds g t
  let k := op.occ / 4
  let cr := c + k * (t / 8)
  let ty (r : Nat) := (op.rd o r).getD g.ty
  let b := w.srcAt (ty 2) o.b (op.wide o 2) t c cr
  let cc := w.srcAt (ty 3) o.c (op.wide o 3) t c cr
  let a := match op.lane with
    | none => w.srcAt (ty 1) o.a (op.wide o 1) t c cr
    | some f =>
      let u := f t b
      let src := match o.a with
        | .vix x i => (match w.vixReg x i t c with | some r => Src.vec r | none => .none)
        | x => x
      w.srcAt .raw src (op.wide o 1) u c (c + u / 8)
  op.fn o t seed a b cc

/-- The seed of lane `t mod 8`. -/
def seedOf (seeds : NMap W32) (t : Nat) : W32 := mGet 0 seeds (t % 8)

/-- Every active thread's operation, in beat order, with the seeds carried along (R45). -/
def VOp.runAll (op : VOp) (w : Wale) (g : G) (c : Nat) : List (Nat × ERes) × NMap W32 :=
  let m := w.active g.face
  threads.foldl (fun (acc : List (Nat × ERes) × NMap W32) t =>
    if m.getLsbD t then
      let r := op.run w g t c (seedOf acc.2 t)
      (acc.1 ++ [(t, r)], mSet 0 acc.2 (t % 8) r.seed)
    else acc) ([], w.seeds)

/-- The word that thread `t` writes to destination register `j` of an operation. -/
def resWord (rs : List (Nat × ERes)) (t j : Nat) : W32 :=
  match rs.find? fun p => p.1 == t with
  | some (_, e) => e.vals.getD j 0
  | none => 0

/-- The enables of R46 for a wale. -/
def State.enables (s : State) (w : Wale) : Nat :=
  match s.wg? w.wg with
  | some g => g.fpen.toNat
  | none => 0

/-- The exceptions of a thread that are enabled. -/
def ERes.trapping (e : ERes) (en : Nat) : Bool := e.exc &&& en != 0

/-- The trap that the results of the beats raise at commit: the lowest code, with the threads
that raised it; zero for a scalar thread number out of range (R46, R134, R249, R250). -/
def commitTrap (rs : List (Nat × ERes)) (en : Nat) (t0 : Nat) : Option TrapReq :=
  let causeOf (e : ERes) : Option Cause :=
    match e.cause with
    | some c => if e.trapping en && decide (Cause.fpExc.code < c.code) then some .fpExc else some c
    | none => if e.trapping en then some .fpExc else none
  let all := rs.filterMap fun p => (causeOf p.2).map fun c => (p.1, p.2, c)
  match all with
  | [] => none
  | a :: rest =>
    let best := rest.foldl (fun b x => if x.2.2.code < b.code then x.2.2 else b) a.2.2
    let mine := all.filter fun x => x.2.2 == best
    let detail := if best == .fpExc then mine.foldl (fun n x => n ||| x.2.1.exc) 0 else 0
    let lanes := if best == .idxRange then 0 else maskOf fun t => mine.any fun x => x.1 == t
    some { cause := best, lanes := lanes, detail := detail, t0 := t0 }

/-- The pending results of a vector operation: one per destination register, and its tag. -/
def VOp.flights (op : VOp) (w : Wale) (g : G) (rs : List (Nat × ERes)) (c : Nat) : List InFlight :=
  (w.dests (w.faces g) c).flatMap fun (r, m) =>
    (List.range op.outs).flatMap fun j =>
      mkFlight w op.file (r + j) m (threads.map fun t => resWord rs t j) c op.lat op.occ (op.occ / 4) ::
        (if op.file == .v then [tagFlight w (r + j) op.tag c op.occ] else [])

/-- A VECTOR INSTRUCTION: checks, beats, and all-or-nothing commit (R16, R33, R99). With an
empty active set it costs one issue clk (R17). -/
def State.vector (s : State) (g : G) (op : VOp) : Host.Outcome State Fault Refusal :=
  s.withCur fun w =>
    match s.vecCheck w g op with
    | some r => .next (s.takeTrap w r)
    | none =>
      if w.active g.face == 0 then .next (s.issued w 0)
      else
        let (rs, seeds) := op.runAll w g s.clk
        match commitTrap rs (s.enables w) (s.clk + op.occ) with
        | some r => .next ((s.holdPipe w (s.clk + op.occ)).takeTrap w r)
        | none => .next (s.issueWith { w with seeds := seeds } (op.flights w g rs s.clk) op.occ 0)

/-! ### Scalar operations (R98) -/

/-- A SCALAR INSTRUCTION: it is not gated by EXM; with an empty face it has no effect, makes no check of
issue (log 101) and costs one issue clk. `uses` are the registers it reads, `trap` a cause found at issue
and `late` one found at commit, with their lanes, and `res` its pending results. -/
def State.scalar (s : State) (face : Face) (uses : Wale → List Use) (trap : Wale → Option TrapReq)
    (res : Wale → List InFlight) (late : Wale → Option TrapReq := fun _ => none) :
    Host.Outcome State Fault Refusal :=
  s.withCur fun w =>
    if !w.faceOk face then s.raise w .meldIllegal (w.active face)
    else if face != .both && w.active face == 0 then .next (s.issued w 0)
    else match trap w with
      | some r => .next (s.takeTrap w r)
      | none =>
        match s.stallShort w (uses w) with
        | some d => s.raise w .stallShort (w.active face) d
        | none =>
          match late w with
          | some r => .next ((s.holdPipe w (s.clk + 1)).takeTrap w { r with t0 := s.clk + 1 })
          | none => .next (s.issueWith w (res w) 1 0)

/-- A uniform source of a scalar operation: a scalar or an immediate (R112). -/
def Wale.uniSrc (w : Wale) (ty : Ty) (src : Src) (clk : Nat) : W32 :=
  (w.srcAt ty src false 0 clk clk).truncate 32

/-- The scalar registers that a uniform source reads. -/
def scUsesOf (src : Src) : List Use :=
  match src with
  | .sc n => [⟨.s, n⟩]
  | _ => []

end Sys2Proof.Machine
end

