-- ==== Sys2Proof/Machine/Flags.lean ====
section
/-!
DEFINITION. Sys2Proof/Machine/Flags.lean: conditions and exception bits.

The condition codes of CMP and SCMP (R108) and of the float CMP (R122), and the five IEEE 754
exceptions as DETAIL orders them (R46, R253).
-/
namespace Sys2Proof.Machine

/-- The condition codes 0 to 5 on integers (R108). -/
def condHolds (cond : Nat) (a b : Int) : Bool :=
  match cond with
  | 0 => a == b
  | 1 => a != b
  | 2 => decide (a < b)
  | 3 => decide (a ≤ b)
  | 4 => decide (a > b)
  | _ => decide (a ≥ b)

/-- Invalid operation. -/
def excInvalid : Nat := 16
/-- Division by zero. -/
def excDiv0 : Nat := 8
/-- Overflow. -/
def excOverflow : Nat := 4
/-- Underflow. -/
def excUnderflow : Nat := 2
/-- Inexact. -/
def excInexact : Nat := 1

/-- A predicate bit as a pending word. -/
def boolWord (b : Bool) : W32 := if b then 1 else 0

end Sys2Proof.Machine
end

