-- ==== Sys2Proof/Machine/Num.lean ====
section
/-!
DEFINITION. Sys2Proof/Machine/Num.lean: number formats and rounding (R35 to R52).

A float is decoded to an exact dyadic value, computed exactly, and rounded once. An inexact
quotient or root carries one sticky bit below more than 64 exact ones.
-/
namespace Sys2Proof.Machine

/-! ### Formats (R38, R39) -/

/-- A binary floating format: width, precision with the hidden bit, bias, magnitude images of
its largest finite value, its infinity if it has one, and its canonical NaN. -/
structure FFmt where
  width : Nat
  p : Nat
  bias : Nat
  maxBits : Nat
  infBits : Option Nat
  nanBits : Nat
  deriving DecidableEq, Repr

/-- binary64. -/
def fmt64 : FFmt := ⟨64, 53, 1023, 0x7FEFFFFFFFFFFFFF, some 0x7FF0000000000000, 0x7FF8000000000000⟩
/-- binary32. -/
def fmt32 : FFmt := ⟨32, 24, 127, 0x7F7FFFFF, some 0x7F800000, 0x7FC00000⟩
/-- binary16. -/
def fmt16 : FFmt := ⟨16, 11, 15, 0x7BFF, some 0x7C00, 0x7E00⟩
/-- bf16. -/
def fmtBf : FFmt := ⟨16, 8, 127, 0x7F7F, some 0x7F80, 0x7FC0⟩
/-- e4m3 (R40). -/
def fmtE4 : FFmt := ⟨8, 4, 7, 0x7E, none, 0x7F⟩
/-- e5m2 (R40). -/
def fmtE5 : FFmt := ⟨8, 3, 15, 0x7B, some 0x7C, 0x7E⟩

/-- The format of a type; f32 for a type without one. -/
def fmtOf (ty : Ty) : FFmt :=
  match ty with
  | .f64 => fmt64 | .f16 => fmt16 | .bf16 | .bf16x2 => fmtBf | .e4m3 => fmtE4 | .e5m2 => fmtE5
  | _ => fmt32

/-- A decoded value: NaN (signalling or not), infinity, or ± m × 2^e. -/
inductive FVal where
  | nan (sig : Bool)
  | inf (neg : Bool)
  | num (neg : Bool) (m : Nat) (e : Int)
  deriving DecidableEq, Repr

/-- Decode an image (R38 to R41). -/
def FFmt.decode (f : FFmt) (x : Nat) : FVal :=
  let x := x % 2 ^ f.width
  let mag := x % 2 ^ (f.width - 1)
  let neg := decide (2 ^ (f.width - 1) ≤ x)
  let ex := mag / 2 ^ (f.p - 1)
  let t := mag % 2 ^ (f.p - 1)
  if mag > f.maxBits then
    if f.infBits == some mag then .inf neg
    else .nan (f.infBits.isSome && decide (t < 2 ^ (f.p - 2)))
  else if ex = 0 then .num neg t (2 - (f.bias : Int) - f.p)
  else .num neg (t + 2 ^ (f.p - 1)) ((ex : Int) + 1 - f.bias - f.p)

/-- Decode an image, subnormals as zero under `.ftz` (R42). -/
def FFmt.read (f : FFmt) (ftz : Bool) (x : Nat) : FVal :=
  let mag := x % 2 ^ (f.width - 1)
  match f.decode x with
  | .num neg m e => if ftz && decide (mag < 2 ^ (f.p - 1)) then .num neg 0 e else .num neg m e
  | v => v

/-- The sign bit at its place. -/
def FFmt.sign (f : FFmt) (neg : Bool) : Nat := if neg then 2 ^ (f.width - 1) else 0

/-- Whether a value is a signalling NaN (R41). -/
def FVal.isSig : FVal → Bool
  | .nan s => s
  | _ => false

/-- Whether a value is a NaN. -/
def FVal.isNan : FVal → Bool
  | .nan _ => true
  | _ => false

/-- Whether a value is a zero. -/
def FVal.isZero : FVal → Bool
  | .num _ m _ => m == 0
  | _ => false

/-- The sign of a value; false for a NaN. -/
def FVal.sgn : FVal → Bool
  | .nan _ => false
  | .inf n => n
  | .num n _ _ => n

/-- Invalid operation when an operand is a signalling NaN (R41). -/
def sigExc (l : List FVal) : Nat := if l.any FVal.isSig then excInvalid else 0

/-! ### Rounding (R43 to R46) -/

/-- The number of bits of a number. -/
def bitLen (m : Nat) : Nat := if m = 0 then 0 else m.log2 + 1

/-- Round m × 2^e to a multiple of 2^q by magnitude: the multiple, and whether it is inexact.
`g` is the lane's random word under `.rs` (R43, R45). -/
def roundAt (mode : RMode) (neg : Bool) (g m : Nat) (e q : Int) : Nat × Bool :=
  if q ≤ e then (m * 2 ^ (e - q).toNat, false)
  else
    let sh := (q - e).toNat
    let lo := m / 2 ^ sh
    let r := m % 2 ^ sh
    if r = 0 then (lo, false)
    else
      let up := match mode with
        | .rn => decide (2 ^ sh < 2 * r) || (2 * r == 2 ^ sh && lo % 2 == 1)
        | .rna => decide (2 ^ sh ≤ 2 * r)
        | .rz => false
        | .rp => !neg
        | .rm => neg
        | .rs => decide (2 ^ 32 ≤ r * 2 ^ 32 / 2 ^ sh + g)
      (if up then lo + 1 else lo, true)

/-- How a finite overflow is written: R44, saturation (R52), or NaN (R52, e4m3 under `.nosat`). -/
inductive Ovf where
  | ieee | sat | nan
  deriving DecidableEq, Repr

/-- An image with the exceptions raised. -/
structure Rounded where
  bits : Nat
  exc : Nat
  deriving DecidableEq, Repr

/-- The image of an overflow (R44, R52). -/
def FFmt.overflow (f : FFmt) (o : Ovf) (mode : RMode) (neg up : Bool) : Nat :=
  let inf := f.infBits.getD f.maxBits
  match o with
  | .sat => f.sign neg + f.maxBits
  | .nan => f.nanBits
  | .ieee =>
    let toInf := match mode with
      | .rn | .rna => true
      | .rz => false
      | .rp => !neg
      | .rm => neg
      | .rs => up
    f.sign neg + (if toInf then inf else f.maxBits)

/-- RoundTo: ± m × 2^e rounded once to a format, with overflow, tininess and `.ftz` (R42 to R46). -/
def FFmt.round (f : FFmt) (o : Ovf) (mode : RMode) (ftz : Bool) (g : Nat) (neg : Bool) (m : Nat)
    (e : Int) : Rounded :=
  if m = 0 then ⟨f.sign neg, 0⟩
  else
    let top := e + bitLen m
    let emin : Int := 1 - f.bias
    let q0 := top - f.p
    let q := max q0 (emin + 1 - f.p)
    let (r, inexact) := roundAt mode neg g m e q
    let bits := ((q + f.p + f.bias - 2) * 2 ^ (f.p - 1) + r).toNat
    if bits > f.maxBits then
      let (t, _) := roundAt .rz neg g m e q
      ⟨f.overflow o mode neg (decide (t < r)), excOverflow + excInexact⟩
    else if ftz && bits != 0 && decide (bits < 2 ^ (f.p - 1)) then
      ⟨f.sign neg, excUnderflow + excInexact⟩
    else
      let (r0, _) := roundAt mode neg g m e q0
      let tiny := decide ((bitLen r0 : Int) + q0 ≤ emin)
      ⟨f.sign neg + bits, if inexact then excInexact + (if tiny then excUnderflow else 0) else 0⟩

/-- The rounding choices of an operation: mode, `.ftz`, the random word, and overflow. -/
structure RCtl where
  mode : RMode := .rn
  ftz : Bool := false
  g : Nat := 0
  ovf : Ovf := .ieee
  deriving DecidableEq, Repr

/-- Write a value: NaN canonical (R41), infinity, or rounded; `exc` are exceptions raised before. -/
def FFmt.write (f : FFmt) (c : RCtl) (exc : Nat) (v : FVal) : Rounded :=
  match v with
  | .nan _ => ⟨f.nanBits, exc⟩
  | .inf n => ⟨f.sign n + f.infBits.getD f.maxBits, exc⟩
  | .num n m e =>
    let r := f.round c.ovf c.mode c.ftz c.g n m e
    ⟨r.bits, r.exc ||| exc⟩

/-- The next seed (R45). -/
def nextSeed (g : W32) : W32 := if g.getLsbD 0 then (g >>> 1) ^^^ 0x80200003 else g >>> 1

/-- A seed as loaded: zero becomes 1 (R45). -/
def loadSeed (g : W32) : W32 := if g == 0 then 1 else g

/-! ### Exact arithmetic -/

/-- A dyadic number n × 2^e. -/
structure Dy where
  n : Int
  e : Int
  deriving DecidableEq, Repr

/-- Exact sum. -/
def Dy.add (a b : Dy) : Dy :=
  let e := min a.e b.e
  ⟨a.n * 2 ^ (a.e - e).toNat + b.n * 2 ^ (b.e - e).toNat, e⟩
/-- Exact product. -/
def Dy.mul (a b : Dy) : Dy := ⟨a.n * b.n, a.e + b.e⟩
/-- A finite value as a dyadic number; a NaN or infinity as zero. -/
def FVal.dy : FVal → Dy
  | .num neg m e => ⟨if neg then -(m : Int) else m, e⟩
  | _ => ⟨0, 0⟩
/-- A dyadic number as a value, zero with the sign given. -/
def Dy.val (d : Dy) (negZero : Bool) : FVal :=
  if d.n = 0 then .num negZero 0 d.e else .num (decide (d.n < 0)) d.n.natAbs d.e
/-- Order of two dyadic numbers. -/
def Dy.lt (a b : Dy) : Bool :=
  let e := min a.e b.e
  decide (a.n * 2 ^ (a.e - e).toNat < b.n * 2 ^ (b.e - e).toNat)

/-- Exact sum of values, with the exceptions of the specials (R43, R46). -/
def FVal.add (mode : RMode) (a b : FVal) : FVal × Nat :=
  match a, b with
  | .nan s, b => (.nan false, if s || b.isSig then excInvalid else 0)
  | _, .nan s => (.nan false, if s then excInvalid else 0)
  | .inf x, .inf y => if x == y then (.inf x, 0) else (.nan false, excInvalid)
  | .inf x, _ => (.inf x, 0)
  | _, .inf y => (.inf y, 0)
  | .num x _ _, .num y _ _ =>
    ((a.dy.add b.dy).val (if x == y then x else mode == .rm), 0)

/-- The value with its sign inverted; a NaN stays itself. -/
def FVal.neg : FVal → FVal
  | .nan s => .nan s
  | .inf n => .inf (!n)
  | .num n m e => .num (!n) m e

/-- Exact product of values, with the exceptions of the specials (R46). -/
def FVal.mul (a b : FVal) : FVal × Nat :=
  match a, b with
  | .nan s, b => (.nan false, if s || b.isSig then excInvalid else 0)
  | _, .nan s => (.nan false, if s then excInvalid else 0)
  | .inf x, b => if b.isZero then (.nan false, excInvalid) else (.inf (x != b.sgn), 0)
  | a, .inf y => if a.isZero then (.nan false, excInvalid) else (.inf (a.sgn != y), 0)
  | .num x m e, .num y n f => (.num (x != y) (m * n) (e + f), 0)

/-- a × b + c with one rounding to come; ∞ × 0 + c is invalid even when c is a NaN (R121). -/
def FVal.fma (mode : RMode) (a b c : FVal) : FVal × Nat :=
  let (p, x) := a.mul b
  if p.isNan then (.nan false, x ||| sigExc [c])
  else p.add mode c

/-- Whether a < b for values that are not NaN, −0 equal to +0. -/
def FVal.lt (a b : FVal) : Bool :=
  match a, b with
  | .inf x, .inf y => x && !y
  | .inf x, _ => x
  | _, .inf y => !y
  | a, b => a.dy.lt b.dy

/-- Whether two values that are not NaN are equal, −0 equal to +0. -/
def FVal.eq (a b : FVal) : Bool := !a.lt b && !b.lt a

/-- Whether a is the smaller of two numbers, −0 less than +0 (R121). -/
def FVal.below (a b : FVal) : Bool := a.lt b || (!b.lt a && a.sgn && !b.sgn)

/-- The smaller (or larger) of a and b; NaN if either is, or with `nm` only if both are (R121). -/
def FVal.minmax (larger nm : Bool) (a b : FVal) : FVal × Nat :=
  let x := sigExc [a, b]
  let pick := if (if larger then b.below a else a.below b) then a else b
  if a.isNan || b.isNan then
    if nm then (if !a.isNan then (a, x) else if !b.isNan then (b, x) else (.nan false, x)) else (.nan false, x)
  else (pick, x)

/-- floor(√n), bit by bit from bit k - 1. -/
def isqrtFrom (n : Nat) : Nat → Nat → Nat
  | 0, r => r
  | k + 1, r =>
    let r' := r + 2 ^ k
    isqrtFrom n k (if r' * r' ≤ n then r' else r)

/-- floor(√n). -/
def isqrt (n : Nat) : Nat := isqrtFrom n (bitLen n / 2 + 1) 0

/-- ± n / d as a value: 100 or more quotient bits and a sticky bit. -/
def quotVal (neg : Bool) (n d : Nat) : FVal :=
  let sh := 100 + bitLen d
  let q := n * 2 ^ sh / d
  let st := if n * 2 ^ sh % d = 0 then 0 else 1
  .num neg (2 * q + st) (-(sh : Int) - 1)

/-- 1/a for finite non-zero a (R124). -/
def FVal.recip : FVal → FVal
  | .num neg m e =>
    match quotVal neg 1 m with
    | .num s q x => .num s q (x - e)
    | v => v
  | v => v

/-- √(n × 2^(2h)) with a sticky bit, n at least 2^200. -/
def sqrtVal (n : Nat) (exact : Bool) (h : Int) : FVal :=
  let r := isqrt n
  .num false (2 * r + (if exact && r * r == n then 0 else 1)) (h - 1)

/-- √a for finite positive a (R124). -/
def FVal.root : FVal → FVal
  | .num _ m e =>
    let odd := e % 2 != 0
    let m := if odd then 2 * m else m
    let e := if odd then e - 1 else e
    sqrtVal (m * 2 ^ 200) true (e / 2 - 100)
  | v => v

/-- 1/√a for finite positive a (R124). -/
def FVal.rroot : FVal → FVal
  | .num _ m e =>
    let odd := e % 2 != 0
    let m := if odd then 2 * m else m
    let e := if odd then e - 1 else e
    let n := 2 ^ 400 / m
    sqrtVal n (2 ^ 400 % m == 0) (-(e / 2) - 200)
  | v => v

/-- floor(log2 |a|) of a finite non-zero value (R126). -/
def FVal.ilog2 : FVal → Int
  | .num _ m e => e + m.log2
  | _ => 0

/-! ### Integers as values -/

/-- An integer as an exact value (R51). -/
def intVal (x : Int) : FVal := .num (decide (x < 0)) x.natAbs 0

/-- Round a value to an integer of a range (R51): the clamp, NaN and infinity rules. -/
def FVal.toRange (v : FVal) (mode : RMode) (g : Nat) (lo hi : Int) : Int × Nat :=
  match v with
  | .nan _ => (0, excInvalid)
  | .inf n => (if n then lo else hi, excInvalid)
  | .num neg m e =>
    let (r, inexact) := roundAt mode neg g m e 0
    let x : Int := if neg then -(r : Int) else r
    if x < lo then (lo, excInvalid) else if hi < x then (hi, excInvalid)
    else (x, if inexact then excInexact else 0)

/-! ### The tables of FEXP2F and FLOG2F (R127, R128) -/

/-- RoundTo(f64, rn, 2^(j/64)) times 2^52 for j = 0 to 63 (R127), entries 0 on. -/
def exp2Tab0 : List Nat :=
  [0x10000000000000, 0x102C9A3E778061, 0x1059B0D3158574,
    0x10874518759BC8, 0x10B5586CF9890F, 0x10E3EC32D3D1A2,
    0x111301D0125B51, 0x11429AAEA92DE0, 0x1172B83C7D517B,
    0x11A35BEB6FCB75, 0x11D4873168B9AA, 0x12063B88628CD6,
    0x12387A6E756238]

/-- RoundTo(f64, rn, 2^(j/64)) times 2^52 for j = 0 to 63 (R127), entries 13 on. -/
def exp2Tab1 : List Nat :=
  [0x126B4565E27CDD, 0x129E9DF51FDEE1, 0x12D285A6E4030B,
    0x1306FE0A31B715, 0x133C08B26416FF, 0x1371A7373AA9CB,
    0x13A7DB34E59FF7, 0x13DEA64C123422, 0x14160A21F72E2A,
    0x144E086061892D, 0x1486A2B5C13CD0, 0x14BFDAD5362A27,
    0x14F9B2769D2CA7]

/-- RoundTo(f64, rn, 2^(j/64)) times 2^52 for j = 0 to 63 (R127), entries 26 on. -/
def exp2Tab2 : List Nat :=
  [0x15342B569D4F82, 0x156F4736B527DA, 0x15AB07DD485429,
    0x15E76F15AD2148, 0x16247EB03A5585, 0x16623882552225,
    0x16A09E667F3BCD, 0x16DFB23C651A2F, 0x171F75E8EC5F74,
    0x175FEB564267C9, 0x17A11473EB0187, 0x17E2F336CF4E62,
    0x182589994CCE13]

/-- RoundTo(f64, rn, 2^(j/64)) times 2^52 for j = 0 to 63 (R127), entries 39 on. -/
def exp2Tab3 : List Nat :=
  [0x1868D99B4492ED, 0x18ACE5422AA0DB, 0x18F1AE99157736,
    0x193737B0CDC5E5, 0x197D829FDE4E50, 0x19C49182A3F090,
    0x1A0C667B5DE565, 0x1A5503B23E255D, 0x1A9E6B5579FDBF,
    0x1AE89F995AD3AD, 0x1B33A2B84F15FB, 0x1B7F76F2FB5E47,
    0x1BCC1E904BC1D2]

/-- RoundTo(f64, rn, 2^(j/64)) times 2^52 for j = 0 to 63 (R127), entries 52 on. -/
def exp2Tab4 : List Nat :=
  [0x1C199BDD85529C, 0x1C67F12E57D14B, 0x1CB720DCEF9069,
    0x1D072D4A07897C, 0x1D5818DCFBA487, 0x1DA9E603DB3285,
    0x1DFC97337B9B5F, 0x1E502EE78B3FF6, 0x1EA4AFA2A490DA,
    0x1EFA1BEE615A27, 0x1F50765B6E4540, 0x1FA7C1819E90D8]

/-- RoundTo(f64, rn, 2^(j/64)) times 2^52 for j = 0 to 63 (R127). -/
def exp2Tab : List Nat := exp2Tab0 ++ exp2Tab1 ++ exp2Tab2 ++ exp2Tab3 ++ exp2Tab4

/-- The f64 image of RoundTo(f64, rn, log2(1 + j/64)) for j = 0 to 64 (R128), entries 0 on. -/
def log2Tab0 : List Nat :=
  [0x0, 0x3F96E79685C2D22A, 0x3FA6BAD3758EFD87,
    0x3FB0EB389FA29F9B, 0x3FB663F6FAC91316, 0x3FBBC84240ADABBA,
    0x3FC08C588CDA79E4, 0x3FC32AE9E278AE1A, 0x3FC5C01A39FBD688,
    0x3FC84C2BD02F03B3, 0x3FCACF5E2DB4EC94, 0x3FCD49EE4C325970,
    0x3FCFBC16B902680A]

/-- The f64 image of RoundTo(f64, rn, log2(1 + j/64)) for j = 0 to 64 (R128), entries 13 on. -/
def log2Tab1 : List Nat :=
  [0x3FD11307DAD30B76, 0x3FD24407AB0E073A, 0x3FD37124CEA4CDED,
    0x3FD49A784BCD1B8B, 0x3FD5C01A39FBD688, 0x3FD6E221CD9D0CDE,
    0x3FD800A563161C54, 0x3FD91BBA891F1709, 0x3FDA33760A7F6051,
    0x3FDB47EBF73882A1, 0x3FDC592FAD295B56, 0x3FDD6753E032EA0F,
    0x3FDE726AA1E754D2]

/-- The f64 image of RoundTo(f64, rn, log2(1 + j/64)) for j = 0 to 64 (R128), entries 26 on. -/
def log2Tab2 : List Nat :=
  [0x3FDF7A8568CB06CF, 0x3FE03FDA8B97997F, 0x3FE0C10500D63AA6,
    0x3FE140C9FAA1E544, 0x3FE1BF311E95D00E, 0x3FE23C41D42727C8,
    0x3FE2B803473F7AD1, 0x3FE3327C6AB49CA7, 0x3FE3ABB3FAA02167,
    0x3FE423B07E986AA9, 0x3FE49A784BCD1B8B, 0x3FE510118708A8F9,
    0x3FE5848226989D34]

/-- The f64 image of RoundTo(f64, rn, log2(1 + j/64)) for j = 0 to 64 (R128), entries 39 on. -/
def log2Tab3 : List Nat :=
  [0x3FE5F7CFF41E09AF, 0x3FE66A008E4788CC, 0x3FE6DB196A76194A,
    0x3FE74B1FD64E0754, 0x3FE7BA18F93502E4, 0x3FE82809D5BE7073,
    0x3FE894F74B06EF8B, 0x3FE900E6160002CD, 0x3FE96BDAD2ACB5F6,
    0x3FE9D5D9FD5010B3, 0x3FEA3EE7F38E181F, 0x3FEAA708F58014D3,
    0x3FEB0E4126BCC86C]

/-- The f64 image of RoundTo(f64, rn, log2(1 + j/64)) for j = 0 to 64 (R128), entries 52 on. -/
def log2Tab4 : List Nat :=
  [0x3FEB74948F5532DA, 0x3FEBDA071CC67E6E, 0x3FEC3E9CA2E1A055,
    0x3FECA258DCA93316, 0x3FED053F6D260896, 0x3FED6753E032EA0F,
    0x3FEDC899AB3FF56C, 0x3FEE29142E0E0140, 0x3FEE88C6B3626A73,
    0x3FEEE7B471B3A950, 0x3FEF45E08BCF0655, 0x3FEFA34E1177C233,
    0x3FF0000000000000]

/-- The f64 image of RoundTo(f64, rn, log2(1 + j/64)) for j = 0 to 64 (R128). -/
def log2Tab : List Nat := log2Tab0 ++ log2Tab1 ++ log2Tab2 ++ log2Tab3 ++ log2Tab4

/-- c1 to c3 of R127 as f32 images. -/
def exp2Coef : List Nat := [0x3F317218, 0x3E75FDF0, 0x3D635847]
/-- The magnitudes of p1 to p5 of R128 as f32 images; even ones are negative. -/
def log2Coef : List Nat := [0x3FB8AA3B, 0x3F38AA3B, 0x3EF6384F, 0x3EB8AA3B, 0x3E93BB63]

/-- The f32 image of 2^f by the formula of R127, for |f| ≤ 1. -/
def exp2Bits (f : Dy) : Nat :=
  let x := FVal.num (decide (f.n < 0)) (64 * f.n.natAbs) f.e
  let j : Int := match x with
    | .num neg m e => let r := (roundAt .rn neg 0 m e 0).1; if neg then -(r : Int) else r
    | _ => 0
  let r := f.add ⟨-j, -6⟩
  let c (n : Nat) : Dy := (fmt32.decode (exp2Coef.getD n 0)).dy
  let poly := ((((c 2).mul r).add (c 1)).mul r).add (c 0)
  let poly := (poly.mul r).add ⟨1, 0⟩
  let t : Dy := ⟨exp2Tab.getD (j % 64).toNat 0, j / 64 - 52⟩
  (fmt32.write {} 0 ((t.mul poly).val false)).bits

/-- The f32 image of log2(m × 2^e) by the formula of R128. The sum is formed over the common
denominator (64 + j)^5. -/
def log2Bits (m : Nat) (e : Int) : Nat :=
  let ex := e + m.log2
  let k := m.log2
  let top := 64 * (m - 2 ^ k)
  let j := (roundAt .rn false 0 top (-(k : Int)) 0).1
  let d : Nat := 64 + j
  -- u = (64 m / 2^k - d) / d, as un / (2^k d)
  let un : Int := 64 * (m : Int) - (d : Int) * 2 ^ k
  let u : Dy := ⟨un, -(k : Int)⟩
  let p (n : Nat) : Dy :=
    let c := (fmt32.decode (log2Coef.getD n 0)).dy
    if n % 2 = 0 then c else ⟨-c.n, c.e⟩
  let head := (fmt64.decode (log2Tab.getD j 0)).dy.add ⟨ex, 0⟩
  let dd (n : Nat) : Dy := ⟨(d : Int) ^ n, 0⟩
  let term (n : Nat) : Dy := ((p n).mul ⟨u.n ^ (n + 1), u.e * (n + 1)⟩).mul (dd (4 - n))
  let sum := ((((((head.mul (dd 5)).add (term 0)).add (term 1)).add (term 2)).add (term 3)).add (term 4))
  if sum.n = 0 then 0
  else
    match quotVal (decide (sum.n < 0)) sum.n.natAbs (d ^ 5) with
    | .num s q x => (fmt32.round .ieee .rn false 0 s q (x + sum.e)).bits
    | _ => 0

end Sys2Proof.Machine
end

