-- ==== Sys2Proof/Machine/Xlate.lean ====
section
/-!
DEFINITION. Sys2Proof/Machine/Xlate.lean: address translation (R336 to R338) and code fetch (R78, R383).
-/
namespace Sys2Proof.Machine

/-- What a translation gives: a location, a cause, or a frame beyond the installed memory. -/
inductive Xl where
  | ok (loc : Nat)
  | bad (c : Cause)
  | absent
  deriving DecidableEq, Repr

/-- What an access needs of its page. -/
inductive Perm where
  | r | w | x
  deriving DecidableEq, Repr

/-- A leaf found by a walk: its entry, the page's first virtual address and its size (R336). -/
structure Leaf where
  entry : W64
  page : Nat
  size : Nat
  deriving DecidableEq, Repr

/-- The target of an entry (R336). -/
def entTgt (e : W64) : Nat := field e 7 6
/-- The address of an entry (R336). -/
def entAddr (e : W64) : Nat := field e 55 8 * 256

/-- The location of a physical address in the space a TGT names (R231, R232, R336). -/
def physLoc (tgt a : Nat) : Nat :=
  match tgt with
  | 0 => locHbm a
  | 1 => locCommon a
  | _ => locHost a

/-- Page size and index bits of a level: 4 is the top (R336). -/
def levelSize : Nat → Nat
  | 4 => 2 ^ 39
  | 3 => 2 ^ 30
  | 2 => 2 ^ 21
  | _ => 2 ^ 16

/-- The number of entries of a level's table (R336). -/
def levelEntries : Nat → Nat
  | 4 => 2 ^ 13
  | 1 => 2 ^ 5
  | _ => 2 ^ 9

/-- A table of the next level lies in memory that exists (log 10). -/
def tableOk (e : W64) : Bool :=
  match entTgt e with
  | 0 => decide (entAddr e < Config.hbmBytes)
  | 1 => decide (entAddr e < 2 ^ 29)
  | _ => true

/-- A walk from the table at `tab` for `level` levels; none fails with XLATE (R336). -/
def walkFrom (s : State) (va : Nat) : Nat → Nat → Option Leaf
  | 0, _ => none
  | n + 1, tab =>
    let lv := n + 1
    let sz := levelSize lv
    let e := BitVec.ofNat 64 (s.natAt (tab + 8 * (va / sz % levelEntries lv)) 8)
    let leaf := e.getLsbD 1
    if !e.getLsbD 0 || e.getLsbD 5 || field e 63 56 != 0 || entTgt e == 3 then none
    else if leaf then
      if lv = 4 ∨ entAddr e % sz ≠ 0 then none else some ⟨e, va / sz * sz, sz⟩
    else if lv = 1 ∨ !tableOk e then none
    else walkFrom s va n (physLoc (entTgt e) (entAddr e))

/-- The address of a context's top-level table (R329, log 10). -/
def State.ctxRoot (s : State) (ctx : Nat) : Nat := (s.reg (0x2000 + 8 * ctx)).toNat

/-- Walk the tables of a context (R336). -/
def State.walk (s : State) (ctx va : Nat) : Option Leaf :=
  if s.ctxRoot ctx < Config.hbmBytes then walkFrom s va 4 (s.ctxRoot ctx) else none

/-- Whether a leaf grants a permission. -/
def Leaf.grants (l : Leaf) : Perm → Bool
  | .r => l.entry.getLsbD 2
  | .w => l.entry.getLsbD 3
  | .x => l.entry.getLsbD 4

/-- EXPL of a die: 8 MiB units of the explicit common store (R231). -/
def State.expl (s : State) (die : Nat) : Nat := field (s.reg (0x3C80 + 8 * die)) 3 0

/-- A leaf and a virtual address to a location: a common-store frame beyond the split is XLATE
(R231), a frame beyond the installed HBM is absent (R232). -/
def State.place (s : State) (l : Leaf) (va : Nat) : Xl :=
  let pa := entAddr l.entry + (va - l.page)
  match entTgt l.entry with
  | 0 => if pa < Config.hbmBytes then .ok (locHbm pa) else .absent
  | 1 =>
    if pa < 2 ^ 29 ∧ pa % 2 ^ 27 < s.expl (pa / 2 ^ 27) * Config.splitStep then .ok (locCommon pa)
    else .bad .xlate
  | _ => .ok (locHost pa)

/-- The TGT that a layout's space demands (R336); space 6 is HBM or common store of the peer. -/
def spaceTgt : Nat → Option Nat
  | 0 => some 0
  | 1 => some 1
  | 5 => some 2
  | _ => none

/-- An access to a leaf: the permission and the space, then the frame (R336). -/
def State.useLeaf (s : State) (l : Leaf) (tgt : Option Nat) (p : Perm) (va : Nat) : Xl :=
  if !l.grants p || (match tgt with | some t => entTgt l.entry != t | none => false) then .bad .access
  else s.place l va

/-- Translate an address by a walk. -/
def State.xlate (s : State) (ctx : Nat) (tgt : Option Nat) (p : Perm) (va : Nat) : Xl :=
  match s.walk ctx va with
  | none => .bad .xlate
  | some l => s.useLeaf l tgt p va

/-- A leaf under several permissions. -/
def State.useLeafs (s : State) (l : Leaf) (tgt : Option Nat) (ps : List Perm) (va : Nat) : Xl :=
  match ps with
  | [] => s.place l va
  | p :: r => match s.useLeaf l tgt p va with | .ok _ => s.useLeafs l tgt r va | b => b

/-! ### The TLBs (R337) -/

/-- The cached leaf of a unit (a core, or 1000 + a die) for an address. -/
def State.tlbFind (s : State) (unit ctx va : Nat) : Option Leaf :=
  match s.tlbs.find? fun e => e.unit == unit && e.ctx == ctx && decide (e.page ≤ va) &&
      decide (va < e.page + e.size) with
  | some e => some ⟨e.leaf, e.page, e.size⟩
  | none => none

/-- Keep at most `n` of the entries that `p` picks, the newest (R337). -/
def keepNewest (p : TlbEnt → Bool) : Nat → List TlbEnt → List TlbEnt
  | _, [] => []
  | n, e :: r =>
    if p e then (match n with | 0 => keepNewest p 0 r | m + 1 => e :: keepNewest p m r)
    else e :: keepNewest p n r

/-- The set of a die's translation cache that holds an entry (R337). -/
def TlbEnt.set' (e : TlbEnt) : Nat := Config.tlbSet e.ctx e.page e.size % 8192

/-- Fill a leaf into a unit that does not hold it: a core keeps 512 entries, a set of a die's cache 8 (R337). -/
def State.tlbFill (s : State) (unit ctx : Nat) (l : Leaf) : State :=
  if (s.tlbFind unit ctx l.page).isSome then s
  else
    let e : TlbEnt := { unit := unit, ctx := ctx, page := l.page, size := l.size, leaf := l.entry }
    { s with tlbs :=
        e :: (if unit < 1000 then keepNewest (fun x => x.unit == unit) 511 s.tlbs
              else keepNewest (fun x => x.unit == unit && x.set' == e.set') 7 s.tlbs) }

/-- A leaf that the core's TLB or its die's translation cache holds (R337). -/
def State.cachedLeaf (s : State) (core ctx va : Nat) : Option Leaf :=
  match s.tlbFind core ctx va with
  | some l => some l
  | none => s.tlbFind (1000 + dieOf core) ctx va

/-- Fill the caches of a core with what an access used. -/
def State.fillBoth (s : State) (core ctx : Nat) (l : Leaf) : State :=
  (s.tlbFill core ctx l).tlbFill (1000 + dieOf core) ctx l

/-- The leaf that an access of a core uses: a cached one, else what a walk finds (R337). -/
def State.leafAt (s : State) (core ctx va : Nat) : Option Leaf :=
  match s.cachedLeaf core ctx va with
  | some l => some l
  | none => s.walk ctx va

/-- The leaf that a unit of a die uses. -/
def State.leafDie (s : State) (die ctx va : Nat) : Option Leaf :=
  match s.tlbFind (1000 + die) ctx va with
  | some l => some l
  | none => s.walk ctx va

/-- A core's access of an address has filled its caches (R337). -/
def State.fillVa (s : State) (core ctx va : Nat) : State :=
  match s.leafAt core ctx va with
  | some l => s.fillBoth core ctx l
  | none => s

/-- An access of an address by a unit of a die has filled the die's cache (R337). -/
def State.fillDie (s : State) (die ctx va : Nat) : State :=
  match s.leafDie die ctx va with
  | some l => s.tlbFill (1000 + die) ctx l
  | none => s

/-- Translate an address for an access of a core (R336, R337). -/
def State.xlateAt (s : State) (core ctx : Nat) (tgt : Option Nat) (p : Perm) (va : Nat) : Xl :=
  match s.leafAt core ctx va with
  | none => .bad .xlate
  | some l => s.useLeaf l tgt p va

/-- Translate an address for an access of a unit of a die (R336, R337). -/
def State.xlateDie (s : State) (die ctx : Nat) (tgt : Option Nat) (p : Perm) (va : Nat) : Xl :=
  match s.leafDie die ctx va with
  | none => .bad .xlate
  | some l => s.useLeaf l tgt p va

/-! ### Space 6 (R226) -/

/-- Where a loop-back address of a context lies; that of another package lies there. -/
def State.loopLoc (s : State) (ctx pkg va : Nat) : Nat :=
  if pkg = Config.packageNo then (match s.walk ctx va with | some l => (match s.place l va with | .ok a => a | _ => 0) | none => 0)
  else locPeer pkg va

/-- A permission as a number of `Config.peerAnswer`. -/
def Perm.bits : Perm → Nat
  | .r => 1 | .w => 2 | .x => 4

/-- A space-6 access of a context (R226, R336): the loop-back is translated in the context itself and reaches HBM and the
common store; any other package answers for itself (log 115). -/
def State.peerXl (s : State) (ctx pkg : Nat) (ps : List Perm) (va : Nat) : Xl :=
  if s.job ctx = 0 then .bad .access
  else if pkg = Config.packageNo then
    match s.walk ctx va with
    | none => .bad .xlate
    | some l => if entTgt l.entry = 2 then .bad .access else s.useLeafs l none ps va
  else match Config.peerAnswer pkg (s.job ctx) va ((ps.map Perm.bits).foldl (· + ·) 0) s.clk with
    | 1 => .bad .xlate
    | 2 => .bad .access
    | _ => .ok (locPeer pkg va)

/-! ### Code fetch -/

/-- The rewrites of code words made before the launch that runs a wale's code started (R78). -/
def State.startOf (s : State) (w : Wale) : Nat := match s.wg? w.wg with | some g => g.started | none => 0

/-- The words a fetch of a location may give: the present one and those overwritten since the
launch started (R78). -/
def State.wordChoices (s : State) (w : Wale) (loc : Nat) : List W64 :=
  BitVec.ofNat 64 (s.natAt loc 8) ::
    ((mGet [] s.oldWords (loc / 8)).filter fun o => decide (s.startOf w ≤ o.at')).map OldWord.word

/-- The code word at an address, or why it cannot be fetched (R383); none of both when its frame
is absent. `k` tells the free choices of one step apart (R78). -/
def State.codeWord (s : State) (w : Wale) (va k : Nat) : Except (Option Cause) W64 :=
  match s.xlateAt w.core w.ctx none .x (addr52 va) with
  | .bad c => .error (some c)
  | .absent => .error none
  | .ok loc =>
    let cs := s.wordChoices w loc
    .ok (cs.getD (if cs.length ≤ 1 then 0 else Config.freeChoice (s.free + k) cs.length % cs.length) 0)

/-- The class of a word (R57). -/
def wordClass (x : W64) : Nat := x.toNat / 2 ^ 60

/-- Whether a word is paired: an instruction word with FACE 11 (R58). -/
def wordPaired (x : W64) : Bool :=
  decide (2 ≤ wordClass x) && decide (wordClass x ≤ 12) && x.toNat / 2 ^ 48 % 4 == 3

/-! ### Staging (R20, R21) -/

/-- The registers a working set stages. -/
def intervalCount (h : IntervalHdr) : Nat := h.ranges.foldl (fun n r => n + r.count) 0
/-- The staging cost: 2 clk per non-empty range and 1 per register (R21). -/
def stageCost (h : IntervalHdr) : Nat :=
  h.ranges.foldl (fun n r => n + (if r.count = 0 then 0 else 2) + r.count) 0

/-- Whether every range lies within the budget, or, in a handler, within v248 to v255 (R21, R254). -/
def Wale.rangesOk (w : Wale) (h : IntervalHdr) : Bool :=
  h.ranges.all fun r => r.count == 0 || decide (r.base + r.count ≤ w.budget) ||
    (w.trap.isSome && ((List.range r.count).all fun i =>
      decide (r.base + i < w.budget) || decide (248 ≤ r.base + i)))

/-- Request staging of a working set: the previous set's slots are free (R21). A header with every range
empty stages nothing, and takes no staging clk (R61). -/
def Wale.request (w : Wale) (h : IntervalHdr) (addr clk : Nat) : Wale :=
  { w with
    interval := some h, intervalAddr := addr, stageReq := clk
    staging := if intervalCount h = 0 then .done else .waiting }

/-- The fast-file slots that a wale holds or is being given on its pipe (R21). -/
def Wale.slotsHeld (w : Wale) : Nat :=
  match w.staging, w.interval with
  | .until _, some h => intervalCount h
  | .done, some h => intervalCount h
  | _, _ => 0

/-- The slots in use on the pipe of a wale (R20). -/
def State.pipeSlots (s : State) (pipe : Nat) : Nat :=
  (s.wales.filter fun w => w.kind == .wale && pipeOf w.core w.slot == pipe).foldl (fun n w => n + w.slotsHeld) 0

/-! ### Transfers (R59, R139) -/

/-- Continue at `target` no earlier than `bound` clk on: the clause is left (R59, R63, R139). -/
def Wale.goto (w : Wale) (clk bound target : Nat) : Wale :=
  let y := match w.clause with | some p => p.hdr.yield | none => false
  { w.advance clk bound with clause := none, yielded := y, pc := addr52 target }

/-- The trap of a transfer to a target that is misaligned or no header; `interval` demands an
interval header (R59). A target that cannot be fetched traps when it is fetched (R383). -/
def State.targetTrap (s : State) (w : Wale) (target : Nat) (interval : Bool) (lanes : Mask) : Option TrapReq :=
  if target % 8 ≠ 0 then some { cause := .misalign }
  else match s.codeWord w target 1 with
    | .ok x =>
      if wordClass x = 0 ∨ (wordClass x = 1 ∧ interval = false) then none
      else some { cause := .illegalHdr, lanes := lanes }
    | .error _ => none

/-- The byte address of a word offset from the instruction at hand (R138). -/
def Wale.relTarget (w : Wale) (off : BitVec 28) : Nat := (((w.insnPc : Int) + 8 * off.toInt) % 2 ^ 52).toNat

/-- The target of a word that is JMP or CALL in its immediate form, whatever else the word holds, and whether it must be an
interval header (R59, R138). -/
def Wale.plainTarget (w : Wale) (x : W64) : Option (Nat × Bool) :=
  let n := x.toNat
  if n / 2 ^ 60 = 6 ∧ n / 2 ^ 44 % 2 = 1 then
    match n / 2 ^ 54 % 64 with
    | 0x7 => some (w.relTarget (BitVec.ofNat 28 n), false)
    | 0xA => some (w.relTarget (BitVec.ofNat 28 n), true)
    | _ => none
  else none

/-- The target of a JMP or CALL is not the header that R59 asks for: a check of placement, before the word's others (R77). -/
def State.badTarget (s : State) (w : Wale) (x : W64) : Bool :=
  match w.plainTarget x with
  | some (t, interval) => (s.targetTrap w t interval 0).isSome
  | none => false


end Sys2Proof.Machine
end

