-- ==== Sys2Proof/Machine/Layout.lean ====
section
/-!
DEFINITION. Sys2Proof/Machine/Layout.lean: layout records (R220 to R223), their shard
descriptors (R341 to R344), the checks of LAYSET (R164, R221, R307, R344), coordinates
and addresses (R160, R222, R223), and scratchpad windows (R225).
-/
namespace Sys2Proof.Machine

/-- A layout record (R220). -/
abbrev LRec := BitVec 1024

/-! ### Fields (R220) -/

/-- VALID. -/
def lValid (r : LRec) : Bool := r.getLsbD 31
/-- SPACE. -/
def lSpace (r : LRec) : Nat := field r 30 28
/-- FMT. -/
def lFmt (r : LRec) : Ty := Ty.ofCode (field r 27 24)
/-- RANK. -/
def lRank (r : LRec) : Nat := field r 23 21
/-- OOB. -/
def lOob (r : LRec) : Nat := field r 20 19
/-- BPERM. -/
def lBperm (r : LRec) : Nat := field r 18 14
/-- PEER. -/
def lPeer (r : LRec) : Nat := field r 13 0
/-- BASE. -/
def lBase (r : LRec) : Nat := field r 83 32
/-- EXTj, global in a sharded record. -/
def lExt (r : LRec) (j : Nat) : Nat := field r (127 + 32 * j) (96 + 32 * j)
/-- STRj. -/
def lStr (r : LRec) (j : Nat) : Int :=
  let n := field r (351 + 64 * j) (288 + 64 * j)
  if n < 2 ^ 63 then n else (n : Int) - 2 ^ 64
/-- SHARD. -/
def lShard (r : LRec) : BitVec 128 := BitVec.ofNat 128 (field r 799 672)
/-- IMAGE. -/
def lImage (r : LRec) : W32 := BitVec.ofNat 32 (field r 831 800)

/-- The bytes of an element; a q4 transfer is one word of eight codes (R161, R222). -/
def elemSize (ty : Ty) : Nat :=
  match ty with
  | .i16 | .n16 | .f16 | .bf16 => 2
  | .i8 | .n8 | .e4m3 | .e5m2 => 1
  | .f64 => 8
  | _ => 4

/-! ### Shard descriptors (R341 to R344) -/

/-- The size of mesh axis `a`. -/
def shSize (d : BitVec 128) (a : Nat) : Nat := field d (68 + 14 * a) (55 + 14 * a) + 1
/-- The number of mesh axes. -/
def shAxes (d : BitVec 128) : Nat := field d 112 111 + 1
/-- AMAPj. -/
def shMap (d : BitVec 128) (j : Nat) : Nat := field d (39 + 3 * j) (37 + 3 * j)
/-- SEN. -/
def shOn (d : BitVec 128) : Bool := d.getLsbD 127
/-- PBASE. -/
def shBase (d : BitVec 128) : Nat := field d 126 113
/-- The number of packages of the mesh. -/
def shCount (d : BitVec 128) : Nat := shSize d 0 * shSize d 1 * shSize d 2 * shSize d 3

/-- The coordinate of a mesh rank on axis `a` (R341). -/
def shCoord (d : BitVec 128) (rank a : Nat) : Nat :=
  let below := ((List.range a).map fun i => shSize d i).foldl (· * ·) 1
  rank / below % shSize d a

/-- The mesh rank of a package; none outside the mesh. -/
def shRank (d : BitVec 128) (pkg : Nat) : Option Nat :=
  if shBase d ≤ pkg ∧ pkg - shBase d < shCount d then some (pkg - shBase d) else none

/-- The start and size of block `i` of `n` of a dimension of extent `e` (R342). -/
def shBlock (rule e n i : Nat) : Nat × Nat :=
  if rule = 0 then
    let b := (e + n - 1) / n
    (i * b, min b (e - i * b))
  else
    let q := e / n
    let m := e % n
    (i * q + min i m, if i < m then q + 1 else q)

/-- The box of a mesh rank: start and size in each dimension of the rank (R342). -/
def shBox (r : LRec) (rank : Nat) : List (Nat × Nat) :=
  let d := lShard r
  (List.range (lRank r)).map fun j =>
    let a := shMap d j
    if a = 7 then (0, lExt r j) else shBlock (field d 32 31) (lExt r j) (shSize d a) (shCoord d rank a)

/-- Whether the package lies outside the mesh of a sharded record (R343). -/
def outsideMesh (r : LRec) : Bool := shOn (lShard r) && (shRank (lShard r) Config.packageNo).isNone

/-- The local extents of a record in this package (R343). -/
def lExts (r : LRec) : List Nat :=
  let d := lShard r
  if shOn d then
    match shRank d Config.packageNo with
    | some k => (shBox r k).map Prod.snd
    | none => List.replicate (lRank r) 0
  else (List.range (lRank r)).map (lExt r)

/-- A SHARD field that LAYSET refuses (R344). -/
def shardBad (r : LRec) : Bool :=
  let d := lShard r
  let nax := shAxes d
  let maps := (List.range (lRank r)).map (shMap d)
  if !shOn d then d != 0
  else
    field d 30 0 != 0 || lSpace r != 0 ||
    ((List.range 4).any fun a => decide (nax ≤ a) && (shSize d a != 1 || d.getLsbD (33 + a))) ||
    ((List.range 6).any fun j =>
      let m := shMap d j
      m != 7 && (decide (4 ≤ m) || decide (nax ≤ m) || decide (lRank r ≤ j))) ||
    ((List.range 4).any fun a => decide (1 < (maps.filter (· == a)).length)) ||
    ((List.range 4).any fun a => decide (a < nax) && (maps.contains a == d.getLsbD (33 + a))) ||
    decide (1 < field d 32 31) ||
    decide (16383 < shBase d + shCount d - 1) ||
    ((List.range (lRank r)).any fun j =>
      let a := shMap d j
      a != 7 && ((List.range (shSize d a)).any fun i =>
        (shBlock (field d 32 31) (lExt r j) (shSize d a) i).2 == 0))

/-! ### Image rules (R306, R307) -/

/-- LDIMg. -/
def imDim (i : W32) (g : Nat) : Nat := field i (7 * g + 6) (7 * g + 4)
/-- TLg. -/
def imTl (i : W32) (g : Nat) : Nat := field i (7 * g + 3) (7 * g)
/-- IEN. -/
def imOn (i : W32) : Bool := i.getLsbD 31

/-- An IMAGE field that LAYSET refuses (R307). -/
def imageBad (r : LRec) : Bool :=
  let i := lImage r
  let dims := (List.range 4).map (imDim i)
  if !imOn i then i != 0
  else
    decide (2 ≤ field i 30 29) || i.getLsbD 28 || decide (2 ≤ lSpace r) ||
    (dims.any fun d => d != 7 && (d == 6 || decide (lRank r ≤ d))) ||
    ((List.range 4).any fun g => (List.range g).any fun h => imDim i g == imDim i h && imDim i g != 7) ||
    ((List.range 4).any fun g => imDim i g == 7 && imTl i g != 0) ||
    (field i 30 29 == 1 &&
      !decide (lFmt r ∈ [Ty.f16, .bf16, .f32, .f64, .e4m3, .e5m2, .i8, .i16, .i32]))

/-! ### Coordinates and addresses (R160, R222, R223) -/

/-- `lin` of a coordinate list (R222). -/
def lLin (r : LRec) (cs : List Int) : Int :=
  ((List.range (lRank r)).map fun j => cs.getD j 0 * lStr r j).foldl (· + ·) 0

/-- The address of a linear element number (R222). -/
def lByte (r : LRec) (lin : Int) : Int :=
  if lFmt r = .q4 then lBase r + lin / 2 else lBase r + elemSize (lFmt r) * lin

/-- Map(L, c) of R222 for coordinates within the extents. -/
def lAddr (r : LRec) (cs : List Int) : Int := lByte r (lLin r cs)

/-- The first and last byte of the span (R222). With a local extent of 0 it holds no byte, and the
last lies before the first (R343). -/
def lSpan (r : LRec) : Int × Int :=
  let es := lExts r
  let term (f : Int → Int) := ((List.range (lRank r)).map fun j =>
    f (((es.getD j 0 : Int) - 1) * lStr r j)).foldl (· + ·) 0
  if es.contains 0 then (lBase r, (lBase r : Int) - 1)
  else (lByte r (term (min 0)), lByte r (term (max 0)) + (if lFmt r = .q4 then 0 else elemSize (lFmt r) - 1))

/-- The permuted scratchpad address a' (R223). -/
def lPerm (r : LRec) (a : Nat) : Nat := a ^^^ ((a / 128 % 32 &&& lBperm r) * 4)

/-- What the out-of-extent mode makes of a coordinate list (R160). -/
inductive Fit where
  | ok (cs : List Int)
  | zero
  | fault
  deriving DecidableEq, Repr

/-- A coordinate list under the extents and the out-of-extent mode (R160). -/
def fitCoords (r : LRec) (cs : List Int) : Fit :=
  let es := lExts r
  let inside := (List.range (lRank r)).all fun j =>
    decide (0 ≤ cs.getD j 0) && decide (cs.getD j 0 < es.getD j 0)
  if inside then .ok cs
  else match lOob r with
    | 0 => .fault
    | 1 => .ok ((List.range (lRank r)).map fun j => max 0 (min (cs.getD j 0) ((es.getD j 0 : Int) - 1)))
    | _ => .zero

/-! ### The table of a context -/

/-- Entry `h` of a context's layout table (R164, R221). -/
def State.layout (s : State) (ctx h : Nat) : LRec := mGet 0 s.layouts (ctx * 1024 + h)

/-- A record as LAYSET stores it: RRST reads as 0 (R220). -/
def storedRec (r : LRec) : LRec := setField r 856 856 0

/-- LTAB of a context record (R299). -/
def State.ltab (s : State) (ctx : Nat) : Nat := field (s.ctxRec ctx) 179 128

/-- The entry's 128 bytes in the table at LTAB, a physical HBM address (R220, R299, log 10, log 95). -/
def State.showLayout (s : State) (ctx h : Nat) (r : LRec) : State :=
  let a := s.ltab ctx + 128 * h
  if a + 128 ≤ Config.hbmBytes then s.writeNat (locHbm a) 128 r.toNat else s

/-- Write an entry, also in the table in memory; RRST clears ring RGN (R220, R221, R164, R299). -/
def State.putLayout (s : State) (ctx h : Nat) (r : LRec) : State :=
  let s := { s with layouts := mSet 0 s.layouts (ctx * 1024 + h) (storedRec r) }.showLayout ctx h (storedRec r)
  if field r 856 856 = 1 then
    { s with rings := mSet (List.replicate 16 0) s.rings (ctx * 64 + field r 862 857) (List.replicate 16 0) }
  else s

/-- Scale ring `n` of a context (R221). -/
def State.ring (s : State) (ctx n : Nat) : List W32 := mGet (List.replicate 16 0) s.rings (ctx * 64 + n)

/-- PEER of a space-3 record is another core of the cluster of `core` (R162, R221). -/
def peerOk (core : Nat) (r : LRec) : Bool :=
  lPeer r != core && clusterOf (lPeer r) == clusterOf core

/-- The reserved bits of a record are zero (R220). -/
def reservedOk (r : LRec) : Bool :=
  field r 1023 896 == 0 && field r 873 864 == 0 && field r 855 832 == 0 && field r 95 84 == 0

/-- The block-scale layout of a q4 record (R221). -/
def scaleOk (r b : LRec) : Bool :=
  lValid b && lFmt b == .n8 && lSpace b == lSpace r && lRank b == lRank r &&
    lExt b 0 == lExt r 0 / 32 &&
    ((List.range (lRank r)).all fun j => j == 0 || lExt b j == lExt r j)

/-- LAYOUT_BAD of LAYSET: a record that may not be written from `core` (R164, R221, R222, R307, R344). -/
def State.recordBad (s : State) (ctx core : Nat) (r : LRec) : Bool :=
  let rank := lRank r
  let sp := lSpace r
  let f := lFmt r
  let q := decide (f = .q4)
  let bse := r.getLsbD 895
  let span := lSpan r
  !reservedOk r || rank == 0 || rank == 7 || sp == 7 || lOob r == 3 ||
  ((List.range 6).any fun j => if j < rank then lExt r j == 0 else lExt r j != 0 || lStr r j != 0) ||
  lBase r % (if q then 4 else elemSize f) != 0 ||
  (lBperm r != 0 && (!(sp == 2 || sp == 3) || (f == .f64 && lBperm r % 2 == 1))) ||
  (if sp = 3 then !peerOk core r else sp != 6 && lPeer r != 0) ||
  (q && (lExt r 0 % 32 != 0 || lStr r 0 != 1 ||
    ((List.range rank).any fun j => j != 0 && lStr r j % 8 != 0) || !bse ||
    !scaleOk r (s.layout ctx (field r 894 885)))) ||
  (bse && !q) ||
  (r.getLsbD 884 && (sp != 0 || f != .f32 || !lValid (s.layout ctx (field r 883 874)))) ||
  (r.getLsbD 863 && (rank != 2 || !decide (f ∈ [Ty.f32, .bf16, .f16, .e4m3, .e5m2, .f64]))) ||
  imageBad r || shardBad r || decide (span.1 < 0) || decide (2 ^ 52 ≤ span.2)

/-- Whether every byte from `a` to `hi` lies on a page of a context that has the target and grants
some access: the context's permitted VA ranges (R164, R336, log 35). The first argument bounds the
number of pages. -/
def State.permitted (s : State) (ctx tgt hi : Nat) : Nat → Nat → Bool
  | 0, a => decide (hi < a)
  | n + 1, a =>
    decide (hi < a) ||
      match s.walk ctx a with
      | some l => entTgt l.entry == tgt && field l.entry 4 2 != 0 && s.permitted ctx tgt hi n (l.page + l.size)
      | none => false

/-- Whether every 64 KiB page from `a` to `hi` is permitted in some way to the job of a context at package `pkg`, whose
answer it is (R226, R336, log 115). The first argument bounds the number of pages. -/
def State.peerPermitted (s : State) (ctx pkg hi : Nat) : Nat → Nat → Bool
  | 0, a => decide (hi < a)
  | n + 1, a =>
    decide (hi < a) ||
      ((s.peerXl ctx pkg [.r] a == .ok (s.loopLoc ctx pkg a) || s.peerXl ctx pkg [.w] a == .ok (s.loopLoc ctx pkg a)) &&
        s.peerPermitted ctx pkg hi n (a / 65536 * 65536 + 65536))

/-- ACCESS of LAYSET: the span leaves the context's permitted VA ranges, the window or the granted
tiles (R164). The ranges of space 6 are those of the job's context at the peer (R226, R336). -/
def State.spanOutside (s : State) (ctx : Nat) (r : LRec) (window tiles : Nat) : Bool :=
  let span := lSpan r
  let lo := span.1.toNat
  let hi := span.2.toNat
  if span.2 < span.1 then false
  else match lSpace r with
    | 2 | 3 => decide ((window : Int) ≤ span.2)
    | 4 => decide ((0x10000 * tiles : Int) ≤ span.2)
    | sp =>
      match spaceTgt sp with
      | some tgt => !s.permitted ctx tgt hi (hi / 65536 - lo / 65536 + 1) lo
      | none => !s.peerPermitted ctx (lPeer r) hi (hi / 65536 - lo / 65536 + 1) lo

/-! ### Windows (R225) -/

/-- The workgroup of the same launch that holds a window slot on a core: one whose last wale has ended, or
that is saved, holds none (R147, R225). -/
def State.slotHolder (s : State) (family core slot : Nat) : Option Workgroup :=
  s.wgs.find? fun g => g.family == family && g.core == core && !g.saved &&
    (s.wales.any fun w => w.kind == .wale && w.wg == g.id) &&
    (match g.window with | some w => w.slot == slot | none => false)

/-- Where a space-3 access of a workgroup to core `peer` goes: the core and window, through a
forwarding entry when the workgroup has moved away (R225, R297). -/
def State.peerWindow (s : State) (g : Workgroup) (peer : Nat) : Option (Nat × Window) :=
  match g.window with
  | none => none
  | some w =>
    match s.slotHolder g.family peer w.slot with
    | some h => h.window.map fun x => (peer, x)
    | none =>
      let via := s.forwards.find? fun f => f.core == peer && f.slot == some w.slot && decide (s.clk < f.expires) &&
        (match s.wg? f.wg with | some h => h.family == g.family | none => false)
      match via with
      | some f => (s.wg? f.wg).bind fun h => h.window.map fun x => (h.core, x)
      | none => none

/-- The scratchpad location of byte address `a` of a record for a workgroup on `core`, `n` bytes
long; ACCESS where the window does not hold it (R162, R223, R225). -/
def State.nearLoc (s : State) (g : Workgroup) (core : Nat) (r : LRec) (a : Int) (n : Nat) : Xl :=
  let at' := if lSpace r = 3 then s.peerWindow g (lPeer r) else g.window.map fun w => (core, w)
  match at' with
  | some (c, w) =>
    if a < 0 ∨ (w.size : Int) < a + n then .bad .access
    else .ok (locSpad c (w.off + lPerm r a.toNat))
  | none => .bad .access

end Sys2Proof.Machine
end

