-- ==== Sys2Proof/Machine/Symmetry.lean ====
section
/-!
DEFINITION. Sys2Proof/Machine/Symmetry.lean: symmetry descriptors, the group and its elements,
the walker (R300 to R305), and where and what an image writes (R309, R310).
-/
namespace Sys2Proof.Machine

/-- A generator of a descriptor (R300). -/
inductive Gen where
  | swap (a b : Nat)
  | flip (a : Nat)
  | shift (a n : Nat)
  deriving DecidableEq, Repr

/-- The half of SYM that holds generator `k`. -/
def symHalf (sym : W32) (k : Nat) : Nat := sym.toNat / (if k = 0 then 2 ^ 16 else 1) % 2 ^ 16

/-- The generator that a half names; none for KIND 00 (R300). -/
def genOf (h : Nat) : Option Gen :=
  let da := h / 2 ^ 12 % 4
  let par := h % 2 ^ 12
  match h / 2 ^ 14 with
  | 1 => some (.swap da (par % 4))
  | 2 => some (.flip da)
  | 3 => some (.shift da par)
  | _ => none

/-- The generators present, in order. -/
def symGens (sym : W32) : List Gen := ((List.range 2).filterMap fun k => genOf (symHalf sym k))

/-- What a generator does to an index of a grid (R300). -/
def Gen.onIndex (g : Gen) (grid c : List Nat) : List Nat :=
  match g with
  | .swap a b => setNth (setNth c a (c.getD b 0)) b (c.getD a 0)
  | .flip a => setNth c a (grid.getD a 1 - 1 - c.getD a 0)
  | .shift a n => setNth c a ((c.getD a 0 + n) % grid.getD a 1)

/-- A word of generators, applied left to right. -/
def wordOnIndex (grid : List Nat) (w : List Gen) (c : List Nat) : List Nat :=
  w.foldl (fun c g => g.onIndex grid c) c

/-- One coordinate of an element as a map on indices: the source dimension, whether it is
reversed, and the offset; in a form in which equal maps are equal data. -/
structure Axis where
  dim : Nat
  neg : Bool
  add : Nat
  deriving DecidableEq, Repr

/-- The normal form of an axis map of a dimension of extent `e`. -/
def Axis.normal (x : Axis) (here e : Nat) : Axis :=
  if e ≤ 1 then ⟨here, false, 0⟩
  else if x.neg && e == 2 then ⟨x.dim, false, x.add % 2⟩
  else ⟨x.dim, x.neg, x.add % e⟩

/-- A generator applied after an element's action. -/
def Gen.after (g : Gen) (grid : List Nat) (m : List Axis) : List Axis :=
  let e (a : Nat) := grid.getD a 1
  let m' := match g with
    | .swap a b => setNth (setNth m a (m.getD b ⟨b, false, 0⟩)) b (m.getD a ⟨a, false, 0⟩)
    | .flip a =>
      let x := m.getD a ⟨a, false, 0⟩
      setNth m a ⟨x.dim, !x.neg, (e a - 1 + e a - x.add % e a) % e a⟩
    | .shift a n =>
      let x := m.getD a ⟨a, false, 0⟩
      setNth m a ⟨x.dim, x.neg, (x.add + n) % e a⟩
  (m'.zip (List.range m'.length)).map fun (x, i) => x.normal i (e i)

/-- An element of the group: its action on indices and its kept word (R303). -/
structure SymElt where
  map : List Axis
  word : List Gen
  deriving DecidableEq, Repr

/-- The identity on a rank. -/
def SymElt.one (rank : Nat) : SymElt := ⟨(List.range rank).map fun i => ⟨i, false, 0⟩, []⟩

/-- The closure of R303, for at most `fuel` elements: the list so far and its next index. -/
def symClose (grid : List Nat) (gens : List Gen) : Nat → Nat → List SymElt → List SymElt
  | 0, _, l => l
  | fuel + 1, i, l =>
    match l[i]? with
    | none => l
    | some e =>
      let l' := gens.foldl (fun l g =>
        let m := g.after grid e.map
        if l.any fun x => x.map == m then l else l ++ [⟨m, e.word ++ [g]⟩]) l
      symClose grid gens fuel (i + 1) l'

/-- The elements of the group in the order of R303; a group of more than 32 elements shows as
a list of more than 32. On a grid without an index every map is the same. -/
def symGroup (sym : W32) (grid : List Nat) : List SymElt :=
  if grid.contains 0 then [SymElt.one grid.length]
  else symClose grid (symGens sym) 33 0 [SymElt.one grid.length]

/-- A descriptor that the weaver refuses (R301); a shift by 0 is an out-of-range field (R277, R300, log 61). -/
def symBad (sym : W32) (grid : List Nat) : Bool :=
  let h0 := symHalf sym 0
  let h1 := symHalf sym 1
  let rank := grid.length
  let bad (h : Nat) : Bool :=
    let da := h / 2 ^ 12 % 4
    let par := h % 2 ^ 12
    match h / 2 ^ 14 with
    | 0 => h != 0
    | 1 =>
      let b := par % 4
      par / 4 != 0 || decide (rank ≤ da) || decide (rank ≤ b) || da == b || grid.getD da 1 != grid.getD b 1
    | 2 => par != 0 || decide (rank ≤ da)
    | _ => decide (rank ≤ da) || par == 0 || decide (grid.getD da 1 ≤ par)
  bad h0 || bad h1 || (h0 / 2 ^ 14 == 0 && h1 / 2 ^ 14 != 0) || decide (32 < (symGroup sym grid).length)

/-- Every index of a grid, in lexicographic order with c0 first (R304). -/
def gridIndices : List Nat → List (List Nat)
  | [] => [[]]
  | e :: r => (List.range e).flatMap fun c => (gridIndices r).map (c :: ·)

/-- Lexicographic comparison of indices. -/
def lexLt : List Nat → List Nat → Bool
  | a :: as, b :: bs => decide (a < b) || (a == b && lexLt as bs)
  | _, _ => false

/-- Whether an index is the representative of its orbit (R304). -/
def isRep (g : List SymElt) (grid c : List Nat) : Bool :=
  g.all fun e => !lexLt (wordOnIndex grid e.word c) c

/-- The orbit representatives in increasing lexicographic order (R304). -/
def symReps (sym : W32) (grid : List Nat) : List (List Nat) :=
  let g := symGroup sym grid
  (gridIndices grid).filter (isRep g grid)

/-- The image mask of a representative (R304). -/
def symMask (sym : W32) (grid c : List Nat) : W32 :=
  let imgs := (symGroup sym grid).map fun e => wordOnIndex grid e.word c
  BitVec.ofNat 32 ((List.range imgs.length).foldl (fun m j =>
    let x := imgs.getD j []
    if x != c && !((imgs.take j).contains x) then m + 2 ^ j else m) 0)

/-! ### Images (R309, R310) -/

/-- A generator on the driven coordinates `u` with tile logarithms `tl` (R309). -/
def Gen.onTile (g : Gen) (grid tl : List Nat) (u : List Int) : List Int :=
  let p (a : Nat) : Int := grid.getD a 1 * 2 ^ tl.getD a 0
  match g with
  | .swap a b => setNth (setNth u a (u.getD b 0)) b (u.getD a 0)
  | .flip a => setNth u a (p a - 1 - u.getD a 0)
  | .shift a n => setNth u a ((u.getD a 0 + n * 2 ^ tl.getD a 0) % p a)

/-- The layout coordinates of the image of `x` under an element (R309). -/
def imageCoords (i : W32) (grid : List Nat) (w : List Gen) (x : List Int) : List Int :=
  let tl := (List.range 4).map (imTl i)
  let u := (List.range 4).map fun g => if imDim i g = 7 then 0 else x.getD (imDim i g) 0
  let v := w.foldl (fun u g => g.onTile grid tl u) u
  (List.range 4).foldl (fun x g => if imDim i g = 7 then x else setNth x (imDim i g) (v.getD g 0)) x

/-- Whether an element lies in the high code of its byte: only of q4 (R222). -/
def lHigh (r : LRec) (cs : List Int) : Bool := lFmt r == .q4 && lLin r cs % 2 == 1

/-- The places of the images of coordinates of a workgroup's store: the virtual address, and for q4 whether the image
is the high code of its byte (R309, R311). -/
def imagePlaces (g : Workgroup) (r : LRec) (cs : List Int) : List (Nat × Bool) :=
  if !(g.sym != 0 && imOn (lImage r)) then []
  else
    let words := (symGroup g.sym g.grid).map SymElt.word
    (List.range words.length).filterMap fun j =>
      let cs' := imageCoords (lImage r) g.grid (words.getD j []) cs
      if g.imageMask.getLsbD j && cs' != cs then some ((lAddr r cs').toNat, lHigh r cs') else none

/-- The image rule of a layout does not fit the symmetry of a launch with the extents GRID0 to GRID3 (R308). -/
def imageMisfit (r : LRec) (sym : W32) (grids : List Nat) : Bool :=
  let i := lImage r
  let dims := (symGens sym).flatMap fun | .swap a b => [a, b] | .flip a => [a] | .shift a _ => [a]
  (dims.any fun d => imDim i d == 7) ||
  ((symGens sym).any fun | .swap a b => imTl i a != imTl i b | _ => false) ||
  ((List.range 4).any fun g => imDim i g != 7 &&
    (lExts r).getD (imDim i g) 0 != grids.getD g 1 * 2 ^ imTl i g)

/-- Whether stores through a record are imaged in a launch (R308). -/
def imaged (r : LRec) (sym : W32) : Bool := sym != 0 && imOn (lImage r)

/-- The canonical NaN of a floating format as its memory image (R39). -/
def canonNanBits (ty : Ty) : Nat :=
  match ty with
  | .f16 => 0x7E00 | .bf16 => 0x7FC0 | .f32 => 0x7FC00000 | .f64 => 0x7FF8000000000000
  | .e4m3 => 0x7F | .e5m2 => 0x7E | _ => 0

/-- Whether memory bits are a NaN of a format (R38, R40). -/
def nanBits (ty : Ty) (x : Nat) : Bool :=
  match ty with
  | .f16 => decide (0x7C00 < x % 2 ^ 15)
  | .bf16 => decide (0x7F80 < x % 2 ^ 15)
  | .f32 => decide (0x7F800000 < x % 2 ^ 31)
  | .f64 => decide (0x7FF0000000000000 < x % 2 ^ 63)
  | .e4m3 => x % 2 ^ 7 == 0x7F
  | .e5m2 => decide (0x7C < x % 2 ^ 7)
  | _ => false

/-- The value an image writes, from the memory bits its primary writes (R310). -/
def imageVal (ty : Ty) (neg : Bool) (x : Nat) : Nat :=
  let w := 8 * elemSize ty
  if !neg then x
  else match ty with
    | .i8 | .i16 | .i32 => (2 ^ w - x % 2 ^ w) % 2 ^ w
    | _ => if nanBits ty x then canonNanBits ty else x ^^^ 2 ^ (w - 1)

end Sys2Proof.Machine
end

