-- ==== Sys2Proof/Machine/NearMem.lean ====
section
/-!
DEFINITION. Sys2Proof/Machine/NearMem.lean: the checks of every memory instruction (R160 to R163),
near loads and stores (R166 to R168), and LAYSET and LAYGET (R164, R165).
-/
namespace Sys2Proof.Machine

/-! ### Coordinates of a memory-form face (R72, R160, R168) -/

/-- What a memory-form instruction is, for the checks of R162. -/
structure MemOp where
  spaces : List Nat
  fmtOk : Ty → Bool := fun _ => true
  gather : Bool := false
  /-- writes its data registers with the layout's format -/
  load : Bool := false
  /-- reads its data registers, which carry the format -/
  store : Bool := false
  /-- D + 1 is an operand too (R176) -/
  two : Bool := false
  /-- an imaged store (R308) -/
  image : Bool := false
  /-- refused through an image rule in a symmetric launch (R308) -/
  noImage : Bool := false
  /-- OPX is a displacement, where the form has no index fields in it (R72); FADDB's names a predicate (R176) -/
  disp : Bool := true
  /-- wale-uniform (R152) -/
  uni : Bool := false

/-- CKIND bit j. -/
def MFace.isVec (f : MFace) (j : Nat) : Bool := f.ckind.getLsbD j
/-- The place of coordinate `j` within its run (R72). -/
def ckPlace (f : MFace) (j : Nat) : Nat := ((List.range j).filter fun i => MFace.isVec f i == MFace.isVec f j).length
/-- The number of vector coordinates below rank `n`. -/
def vecCount (f : MFace) (n : Nat) : Nat := ((List.range n).filter fun i => MFace.isVec f i).length
/-- The vector registers that hold coordinates (R72). -/
def coordRegs (f : MFace) (n : Nat) : List Nat := (List.range (vecCount f n)).map (f.a + ·)
/-- The scalars that hold coordinates (R72). -/
def coordScs (f : MFace) (n : Nat) : List Nat := (List.range (n - vecCount f n)).map (f.b + ·)

/-- The elements of a gather: WID (R168). -/
def gatherCount (op : MemOp) (f : MFace) : Nat := if op.gather then (if f.opx.getLsbD 0 then 4 else 2) else 1

/-- Index `j` of a gather in a register image (R168). -/
def gatherIndex (f : MFace) (x : W32) (j : Nat) : Int :=
  let w := if f.opx.getLsbD 0 then 8 else 16
  readInt w (f.opx.getLsbD 1) (x.toNat / 2 ^ (w * j)) * 2 ^ (f.opx.toNat / 4 % 4)

/-- The data registers of a face: those of every element (R161, R168, R176). -/
def dataRegs (op : MemOp) (f : MFace) (r : LRec) : List Nat :=
  if op.load || op.store then
    (List.range (gatherCount op f * (if lFmt r = .f64 then 2 else 1) + (if op.two then 1 else 0))).map (f.d + ·)
  else []

/-- The coordinates of thread `t`, element `j` (R72, R160, R168): vector operands are read in the
thread's beat. -/
def Wale.coords (w : Wale) (op : MemOp) (f : MFace) (r : LRec) (t j c : Nat) : List Int :=
  let n := lRank r
  (List.range n).map fun i =>
    let last := i + 1 == n
    let base : Int :=
      if MFace.isVec f i then
        let reg := f.a + ckPlace f i
        let x := w.vAt reg t (c + t / 8)
        if op.gather && last then gatherIndex f x j
        else if w.tagAt reg c == .i32 then x.toInt else x.toNat
      else (w.sAt (f.b + ckPlace f i) c).toNat
    if last && op.disp && !op.gather then base + f.opx.toInt else base

/-! ### The checks of R162 -/

/-- A face of a memory instruction whose record is known. -/
structure MCtx where
  f : MFace
  handle : Nat
  r : LRec
  m : Mask
  deriving DecidableEq, Repr

/-- The faces of a memory-form word with their active threads (R151). -/
def Wale.mFaces (w : Wale) (m : MForm) : List (MFace × Mask) :=
  let act := w.active m.face
  match m.fb with
  | some fb => [(m.fa, maskOf fun t => act.getLsbD t && !w.usesB t), (fb, maskOf fun t => act.getLsbD t && w.usesB t)]
  | none => [(m.fa, act)]

/-- The handle of a face; none for a scalar with non-zero bits 31:10 (R72). -/
def Wale.handle (w : Wale) (h : Handle) (c : Nat) : Option Nat :=
  match h with
  | .imm n => some n
  | .sc n => if (w.sAt n c).toNat < 1024 then some (w.sAt n c).toNat else none

/-- The records of every face; none where a handle names no valid record (R162). -/
def State.mResolve (s : State) (w : Wale) (fs : List (MFace × Mask)) : Option (List MCtx) :=
  fs.foldr (fun (f, m) acc =>
    match acc, w.handle f.handle s.clk with
    | some l, some h =>
      let r := s.layout w.ctx h
      if lValid r then some (⟨f, h, r, m⟩ :: l) else none
    | _, _ => none) (some [])

/-- ILLEGAL_FIELD by the record's rank or format (R162). -/
def fieldBad (op : MemOp) (x : MCtx) : Bool :=
  let n := lRank x.r
  ((coordRegs x.f n).any fun v => decide (256 ≤ v)) || ((coordScs x.f n).any fun v => decide (64 ≤ v)) ||
  ((op.load || op.store) && lFmt x.r == .f64 && x.f.d % 2 == 1) ||
  ((dataRegs op x.f x.r).any fun v => decide (256 ≤ v))

/-- The registers of a face that carry a wrong tag (R160, R161). -/
def Wale.mTagBad (w : Wale) (op : MemOp) (x : MCtx) (c : Nat) : Bool :=
  let n := lRank x.r
  let vs := coordRegs x.f n
  let vs := if op.gather && MFace.isVec x.f (n - 1) then vs.dropLast else vs
  (vs.any fun v => !decide (w.tagAt v c ∈ tys32)) ||
  (op.store && lFmt x.r != .raw && ((dataRegs op x.f x.r).any fun v => w.tagAt v c != lFmt x.r))

/-- The launch's SYM word for a wale (R308). -/
def State.symOf (s : State) (w : Wale) : W32 := match s.wg? w.wg with | some g => g.sym | none => 0
/-- The launch's grid for a wale. -/
def State.gridOf (s : State) (w : Wale) : List Nat := match s.wg? w.wg with | some g => g.grids | none => []

/-- The other causes of LAYOUT_BAD (R162 item 5, R72, R308, R343). -/
def State.mBad (s : State) (w : Wale) (op : MemOp) (x : MCtx) : Bool :=
  let n := lRank x.r
  !op.spaces.contains (lSpace x.r) || !op.fmtOk (lFmt x.r) ||
  (op.gather && (lFmt x.r == .f64 || lFmt x.r == .q4)) ||
  (lSpace x.r == 3 && !peerOk w.core x.r) ||
  decide (2 ^ n ≤ x.f.ckind.toNat) || outsideMesh x.r ||
  (imaged x.r (s.symOf w) && (op.noImage || (op.image && imageMisfit x.r (s.symOf w) (s.gridOf w))))

/-- The registers that a memory instruction reads (R31). -/
def mUses (op : MemOp) (x : MCtx) : List Use :=
  if x.m == 0 then []
  else
    (coordRegs x.f (lRank x.r)).map (Use.mk .v) ++ (coordScs x.f (lRank x.r)).map (Use.mk .s) ++
    (if op.store then (dataRegs op x.f x.r).map (Use.mk .v) else []) ++
    (match x.f.handle with | .sc n => [⟨.s, n⟩] | _ => [])

/-- What the checks before any beat find. -/
inductive MChk where
  | trap (r : TrapReq)
  | empty
  | go (l : List MCtx)
  deriving DecidableEq, Repr

/-- The checks that precede the beats, in the order of R162; then STALL_SHORT (log 20). R162 does not rank R168's
ILLEGAL_MOD for a scalar last coordinate: it comes after item 5, and not with an empty active set (log 109). -/
def State.memCheck (s : State) (w : Wale) (m : MForm) (op : MemOp) : MChk :=
  let act := w.active m.face
  let c := s.clk
  let zero (x : Mask) : Mask := if op.uni then 0 else x
  if w.kind != .wale then .trap { cause := .illegalField }
  else if !w.faceOk m.face then .trap { cause := .meldIllegal, lanes := act }
  else match s.mResolve w (w.mFaces m) with
    | none => .trap { cause := .layoutBad, lanes := zero act }
    | some l =>
      let live := l.filter fun x => x.m != 0
      if l.any (fieldBad op) then .trap { cause := .illegalField, lanes := act }
      else if l.any fun x => (coordRegs x.f (lRank x.r) ++ dataRegs op x.f x.r).any fun v => !w.inSet v then
        .trap { cause := .wsetMiss, lanes := act }
      else if live.isEmpty then .empty
      else if live.any fun x => w.mTagBad op x c then .trap { cause := .fmtMismatch, lanes := act }
      else if op.load && (live.any fun x => (dataRegs { op with two := false } x.f x.r).any fun v =>
          w.partialBad v ((live.filter fun y => (dataRegs op y.f y.r).contains v).foldl (fun k y => k ||| y.m) 0)
            (lFmt x.r) c) then
        .trap { cause := .fmtPartial, lanes := act }
      else if live.any (s.mBad w op) then .trap { cause := .layoutBad, lanes := zero act }
      else if op.gather && (live.any fun x => !MFace.isVec x.f (lRank x.r - 1)) then
        .trap { cause := .illegalMod, lanes := act }
      else match s.stallShort w (live.flatMap (mUses op)) with
        | some d => .trap { cause := .stallShort, lanes := act, detail := d }
        | none => .go live

/-! ### Elements -/

/-- What the beats find for one element. -/
inductive EPlan where
  | bad (c : Cause)
  | ok (es : List Elem)
  | absent
  deriving DecidableEq, Repr

/-- The memory value of a data register's image: its low bytes (R161). -/
def regBits (ty : Ty) (v : W32) : Nat := v.toNat % 2 ^ (8 * min 4 (elemSize ty))

/-- The register image of memory bits (R35, R161). -/
def memImage (ty : Ty) (x : Nat) : W32 := scalarImage ty (BitVec.ofNat 32 x)

/-- An element or its two halves, at a byte address `a` of its space. -/
def mkElems (ty : Ty) (t reg0 d a : Nat) (zero : Bool) (v : Nat → W32) (v2 : W32) : List Elem :=
  let n := if ty = .f64 then 2 else 1
  (List.range n).map fun i =>
    { t := t, j := reg0 + i, va := a + 4 * i, loc := 0, size := min 4 (elemSize ty)
      val := BitVec.ofNat 64 (regBits ty (v (d + reg0 + i))), val2 := v2
      zero := zero, done := false, dead := false }

/-- Thread `t`, element `j` of a face, before translation (R160, R161). -/
def Wale.elemPlan (w : Wale) (op : MemOp) (x : MCtx) (t j c : Nat) : EPlan :=
  let ty := lFmt x.r
  let v (r : Nat) : W32 := if op.store then w.vAt r t (c + t / 8) else 0
  let v2 := if op.two then v (x.f.d + 1) else 0
  match fitCoords x.r (w.coords op x.f x.r t j c) with
  | .fault => .bad .layoutRange
  | .zero => .ok (mkElems ty t j x.f.d 0 true v v2)
  | .ok cs =>
    .ok ((mkElems ty t j x.f.d (lAddr x.r cs).toNat false v v2).map fun e =>
      { e with mis := decide (ty = .q4 ∧ cs.getD 0 0 % 8 ≠ 0), cs := cs })

/-- The elements of every active thread of a face, in ascending t, then j. -/
def Wale.facePlan (w : Wale) (op : MemOp) (x : MCtx) (c : Nat) : List (Nat × EPlan) :=
  (threads.filter fun t => x.m.getLsbD t).flatMap fun t =>
    (List.range (gatherCount op x.f)).map fun j => (t, w.elemPlan op x t j c)

/-- The trap that the beats raise: the lowest code, with the threads that raised it (R249). -/
def beatTrap (ps : List (Nat × EPlan)) (t0 : Nat) : Option TrapReq :=
  let bad := ps.filterMap fun | (t, .bad c) => some (t, c) | _ => none
  match bad with
  | [] => none
  | b :: _ =>
    let best := bad.foldl (fun k x => if x.2.code < k.code then x.2 else k) b.2
    some { cause := best, lanes := maskOf fun t => bad.contains (t, best), t0 := t0 }

/-- The elements of plans without a cause. -/
def planElems (ps : List (Nat × EPlan)) : List Elem :=
  ps.flatMap fun | (_, .ok es) => es | _ => []

/-- MISALIGN of a q4 element, after every other cause of its access (R161, R162). -/
def misPlan (p : Nat × EPlan) : Nat × EPlan :=
  match p.2 with
  | .ok es => if es.any Elem.mis then (p.1, .bad .misalign) else p
  | _ => p

/-- Place near elements in their window; ACCESS where the window or its holder is missing (R162, R225). -/
def State.nearPlace (s : State) (w : Wale) (x : MCtx) (p : Nat × EPlan) : Nat × EPlan :=
  match p.2, s.wg? w.wg with
  | .ok es, some g =>
    let out := es.map fun e => (e, if e.zero then Xl.ok 0 else s.nearLoc g w.core x.r e.va e.size)
    if out.any fun q => match q.2 with | .ok _ => false | _ => true then (p.1, .bad .access)
    else (p.1, .ok (out.map fun q => { q.1 with loc := match q.2 with | .ok l => l | _ => 0 }))
  | .ok _, none => (p.1, .bad .access)
  | _, _ => p

/-! ### LD, ST, GATHER, SCATTER (R166 to R168) -/

/-- The added clk of a peer access each way, and the load latency (R27, R167, R227). -/
def nearDelay (core : Nat) (r : LRec) (wr : Bool) : Nat × Nat :=
  if lSpace r = 3 then
    let h := hops core (lPeer r)
    (if wr then 12 + 2 * h else 16 + 2 * h, 28 + 4 * h)
  else (if wr then 8 else 12, 20)

/-- Near operations of a face at their fixed clk (R167). -/
def nearOps (w : Wale) (x : MCtx) (wr vol : Bool) (es : List Elem) (c : Nat) : List NearOp :=
  let (d, _) := nearDelay w.core x.r wr
  (es.filter fun e => !e.zero).map fun e =>
    { wale := w.id, at' := c + d + e.t / 8, wr := wr, loc := e.loc, size := e.size, val := e.val
      reg := x.f.d + e.j, t := e.t, fmt := lFmt x.r, no := w.issueNo, vol := vol, arv := none, handle := x.handle, cs := e.cs }

/-- The pending results of a near load of a face: they fill as the bank reads them (R28, R167). -/
def nearFlights (op : MemOp) (w : Wale) (x : MCtx) (es : List Elem) (c : Nat) : List InFlight :=
  let (_, lat) := nearDelay w.core x.r false
  (dataRegs op x.f x.r).flatMap fun r =>
    [{ mkFlight w .v r x.m (List.replicate 32 0) c lat 4 1 with
        filled := !(es.any fun e => !e.zero && x.f.d + e.j == r) },
     tagFlight w r (lFmt x.r) c 4]

/-! ### What is outstanding (R173, R174) -/

/-- Two elements share a byte. -/
def Elem.overlaps (a b : Elem) : Bool :=
  !a.zero && !b.zero && decide (a.loc < b.loc + b.size) && decide (b.loc < a.loc + a.size)

/-- A request still to be performed. -/
def Req.open' (q : Req) : Bool := !q.finished

/-- Whether an operation with this id is outstanding: a request, a matrix or bank operation, a copy; a rejected copy
counts as performed (R174, R243). -/
def State.busyId (s : State) (id : Nat) : Bool :=
  (s.reqs.any fun q => q.id == id && q.open') ||
  (s.wales.any fun w => w.mq.any fun m => m.id == id) ||
  (s.wgs.any fun g => g.copies.any fun c => c.id == id && !c.rejected) ||
  (s.banks.any fun b => b.id == id)

/-- An ordering point of `.die` or wider is not reached: an access before it is outstanding, or its cluster still holds a
byte from before it (R173, R174, R237). -/
def State.fenceOpen (s : State) (f : WideFence) : Bool :=
  f.ids.any s.busyId || s.dirty.any fun p => p.1 / 2 ^ 64 == f.cluster && decide (p.2.at' < f.clk)

/-- Whether what has this id is still to come: an operation, or an ordering point. -/
def State.pendingId (s : State) (id : Nat) : Bool :=
  s.busyId id || s.wideFences.any fun f => f.id == id && s.fenceOpen f

/-- A new ordering point of a wale at `.die` or wider, after the operations `ids` (R173, R174). A write that the wale has
issued commits within 4 clk. -/
def State.wideFence (s : State) (w : Wale) (ids : List Nat) : Nat × State :=
  let (id, s) := s.fresh
  (id, { s with wideFences := s.wideFences ++ [⟨id, clusterOf w.core, ids, s.clk + 4⟩] })

/-- Ordering points that are reached are forgotten. -/
def State.fenceClk (s : State) : State := { s with wideFences := s.wideFences.filter s.fenceOpen }

/-- The near accesses that a FENCE.rel still holds back: the wale's earlier accesses are not yet
performed at the fence's scope (R173). -/
def State.fenceHolds (s : State) (w : Wale) : Bool :=
  (w.fenceRel.any s.pendingId) || (s.near.any fun o => o.wale == w.id && decide (o.no < w.fenceNo))

/-- An acquire of the wale is still to be performed: near accesses after it, which have a fixed clk, wait at issue
(R167, R239, log 119). -/
def State.acquireOpen (s : State) (w : Wale) : Bool := s.reqs.any fun q => q.wale == w.id && q.open' && q.acq.isSome

/-- A queued `.vol` access of an active thread is still to be performed (R248). -/
def State.volOpen (s : State) (w : Wale) (act : Mask) : Bool :=
  s.reqs.any fun q => q.wale == w.id && q.open' && q.acls == .vol && q.elems.any fun e => !e.done && act.getLsbD e.t

/-- An earlier atomic of the wale on a byte of these elements is still to be performed at its bank (R239). -/
def State.bankHolds (s : State) (w : Wale) (ops : List NearOp) : Bool :=
  s.reqs.any fun q => q.wale == w.id && q.open' && (q.space == 2 || q.space == 3) && q.elems.any fun e =>
    !e.done && !e.zero && ops.any fun o => decide (o.loc < e.loc + e.size) && decide (e.loc < o.loc + o.size)

/-- A near access of every face (R166, R167). -/
def State.near' (s : State) (m : MForm) (op : MemOp) : Host.Outcome State Fault Refusal :=
  s.withCur fun w =>
    match s.memCheck w m op with
    | .trap r => .next (s.takeTrap w r)
    | .empty => .next (s.issued w 0)
    | .go l =>
      if op.store && s.fenceHolds w || s.acquireOpen w || m.acls == .vol && s.volOpen w (w.active m.face) then
        .next (s.hold w .flagWait false)
      else
        let ps := l.map fun x => (x, (w.facePlan op x s.clk).map fun p => misPlan (s.nearPlace w x p))
        match beatTrap (ps.flatMap Prod.snd) (s.clk + 4) with
        | some r => .next ((s.holdPipe w (s.clk + 4)).takeTrap w r)
        | none =>
          let ops := ps.flatMap fun (x, p) => nearOps w x op.store (m.acls == .vol) (planElems p) s.clk
          let ops := (threads.flatMap fun t => ops.filter fun o => o.t == t)
          if s.bankHolds w ops then .next (s.hold w .flagWait false)
          else
          let res := if op.store then [] else ps.flatMap fun (x, p) => nearFlights op w x (planElems p) s.clk
          .next (({ s with near := s.near ++ ops }).issueWith w res 4 0)

/-- LD (R166). -/
def execLd (m : MForm) (s : State) : Host.Outcome State Fault Refusal :=
  s.near' m { spaces := [2, 3], load := true }
/-- ST (R166). -/
def execSt (m : MForm) (s : State) : Host.Outcome State Fault Refusal :=
  s.near' m { spaces := [2, 3], store := true }
/-- GATHER (R168). -/
def execGather (m : MForm) (s : State) : Host.Outcome State Fault Refusal :=
  s.near' m { spaces := [2, 3], load := true, gather := true }
/-- SCATTER (R168). -/
def execScatter (m : MForm) (s : State) : Host.Outcome State Fault Refusal :=
  s.near' m { spaces := [2, 3], store := true, gather := true }

/-! ### The bank's clk (R167) -/

/-- The pending result that a near access fills for a thread, unless a later instruction's result has taken the element (R30). -/
def InFlight.takes (e : InFlight) (f : RFile) (o : NearOp) : Bool :=
  e.file == f && e.no == o.no && e.reg == o.reg && e.mask.getLsbD o.t && !e.filled

/-- A near load's element reaches its pending result, and the save area when the register has
been saved by a trap since (R251). -/
def State.fillNear (s : State) (o : NearOp) : State :=
  let x := memImage o.fmt (s.natAt o.loc o.size)
  match s.wale? o.wale with
  | none => s
  | some w =>
    let fl := w.inflight.map fun e => if e.takes .v o then { e with vals := setNth e.vals o.t x } else e
    let s := s.putWale { w with inflight := fl }
    match w.trap with
    | some f => if 248 ≤ o.reg ∧ o.no < f.no ∧ (w.inflight.any fun e => e.takes .v o) = true then
        s.writeNat (saveArea w.core w.slot + 128 * (o.reg - 248) + 4 * o.t) 4 x.toNat else s
    | none => s

/-- The effect of an arrival on a barrier word: the new word, or a count mismatch (R183). -/
def barwArrive (old c : Nat) : Option Nat :=
  let phase := old / 2 ^ 31
  let count := old / 2 ^ 16 % 2 ^ 15
  let arr := old % 2 ^ 16
  if count ≠ 0 ∧ count ≠ c then none
  else if (arr + 1) % 2 ^ 16 = c then some ((1 - phase) * 2 ^ 31)
  else some (phase * 2 ^ 31 + c * 2 ^ 16 + (arr + 1) % 2 ^ 16)

/-- Wake the wales parked at a barrier word whose phase has changed (R183). -/
def State.wakeBarw (s : State) (l : Nat) (phase : Bool) : State :=
  { s with wales := s.wales.map fun w =>
      match w.latch with
      | some (.barw a p none) =>
        if a = l ∧ p ≠ phase then
          let own := l / 2 ^ 20 == locSpad w.core 0 / 2 ^ 20
          let h := hops w.core ((l - locSpad 0 0) / 2 ^ 20)
          { w with latch := some (.barw a p (some (s.clk + if own then 8 else 16 + 4 * h))) }
        else w
      | _ => w }

/-- An arrival is performed at its bank: the word changes, unless its count no longer fits, and the old word reaches the
pending result, or the save slot's image of its scalar after a trap (R183, R251, log 32). -/
def State.arriveNear (s : State) (o : NearOp) : State :=
  let old := s.natAt o.loc 4
  let s := match barwArrive old (o.arv.getD 0) with
    | none => s
    | some new =>
      let s := s.writeNat o.loc 4 new
      if new / 2 ^ 31 ≠ old / 2 ^ 31 then s.wakeBarw o.loc (decide (new / 2 ^ 31 = 1)) else s
  match s.wale? o.wale with
  | none => s
  | some w =>
    let fl := w.inflight.map fun e =>
      if e.takes .s o then { e with vals := [BitVec.ofNat 32 old], filled := true } else e
    let s := s.putWale { w with inflight := fl }
    match w.trap with
    | some f => if 56 ≤ o.reg ∧ o.no < f.no ∧ (w.inflight.any fun e => e.takes .s o) = true then
        s.writeNat (saveArea w.core w.slot + 0x400 + 4 * (o.reg - 56)) 4 old else s
    | none => s

/-- A pending near load whose last element has been read is filled. -/
def markFilled (ops : List NearOp) (w : Wale) : Wale :=
  { w with inflight := w.inflight.map fun e =>
      if e.file == .v && !e.filled && !(ops.any fun o => o.wale == w.id && !o.wr && o.no == e.no && o.reg == e.reg)
      then { e with filled := true } else e }

/-- The near accesses due at this clk: reads before writes (R167), and after them arrivals at barrier words (log 32). Of writes to one element in one clk by several wales
the one that issued last stands (log 108). A near store ends the release sequences of its element (R238). -/
def State.bankClk (s : State) : State :=
  let due := s.near.filter fun o => decide (o.at' ≤ s.clk)
  if due.isEmpty then s
  else
    let rest := s.near.filter fun o => !decide (o.at' ≤ s.clk)
    let s := (due.filter fun o => !o.wr && o.arv.isNone).foldl State.fillNear { s with near := rest }
    let s := (due.filter fun o => o.wr).foldl (fun (s : State) o =>
      let s := s.writeNat o.loc o.size o.val.toNat
      { s with rels := mDelRange s.rels o.loc (o.loc + o.size) }) s
    let s := (due.filter fun o => o.arv.isSome).foldl State.arriveNear s
    { s with wales := s.wales.map (markFilled rest) }

/-! ### LAYSET and LAYGET (R164, R165) -/

/-- The handle of LAYSET and LAYGET; none for a scalar with non-zero bits 31:10 (R164). -/
def Wale.layHandle (w : Wale) (u : Uni) (c : Nat) : Option Nat :=
  match u with
  | .lit n => some n
  | .sc n => w.handle (.sc n) c

/-- Tiles granted to a wale's workgroup (R186). -/
def State.tilesOf (s : State) (w : Wale) : Nat := match s.wg? w.wg with | some g => g.tiles | none => 0
/-- The window size of a wale's workgroup (R225). -/
def State.windowSize (s : State) (w : Wale) : Nat :=
  match s.wg? w.wg with
  | some g => (match g.window with | some x => x.size | none => 0)
  | none => 0

/-- The record that a vector register's 32 words form (R164). -/
def Wale.recordOf (w : Wale) (v c : Nat) : LRec :=
  BitVec.ofNat 1024 (leNat (threads.flatMap fun t => leBytes 4 (w.vAt v t (c + t / 8)).toNat))

/-- The scalars that a uniform operand reads. -/
def uniUses (u : Uni) : List Use := match u with | .sc n => [⟨.s, n⟩] | .lit _ => []

/-- The entries whose LAYSET commits at this clk are written (R164). -/
def State.layClk (s : State) : State :=
  let due := s.layPend.filter fun p => decide (p.at' ≤ s.clk)
  due.foldl (fun s p => s.putLayout p.ctx p.h p.rec') { s with layPend := s.layPend.filter fun p => !decide (p.at' ≤ s.clk) }

/-- LAYSET (R164), with the checks in the order of R162 (log 36). The entry is written at its commit, p + 4; an agent that
R165 does not order after it uses the whole old record before that clk and the whole new one from then on (log 107). -/
def execLayset (f : LayForm) (s : State) : Host.Outcome State Fault Refusal :=
  s.withCur fun w =>
    let act := w.active f.face
    if w.kind != .wale then s.raise w .illegalField 0
    else if !w.faceOk f.face then s.raise w .meldIllegal act
    else match w.layHandle f.handle s.clk with
      | none => s.raise w .layoutBad 0
      | some h =>
        if !w.inSet f.v then s.raise w .wsetMiss act
        else if act == 0 then .next (s.issued w 0)
        else
          let r := w.recordOf f.v s.clk
          if s.recordBad w.ctx w.core r then s.raise w .layoutBad 0
          else if s.spanOutside w.ctx r (s.windowSize w) (s.tilesOf w) then s.raise w .access 0
          else match s.stallShort w (⟨.v, f.v⟩ :: uniUses f.handle) with
            | some d => s.raise w .stallShort act d
            | none => .next ({ s with layPend := s.layPend ++ [(⟨s.clk + 4, w.ctx, h, r⟩ : LayPend)] }.issueWith w [] 4 0)

/-- The vector operation that LAYGET is: word t of the entry to thread t (R164). -/
def laygetOp (r : LRec) : VOp :=
  { lat := 20, occ := 4, tag := .n32, tags := fun _ _ => []
    fn := fun _ t seed _ _ _ => { vals := [BitVec.ofNat 32 (field r (32 * t + 31) (32 * t))], seed := seed } }

/-- LAYGET (R164): the entry as it stands, a valid record or not. -/
def execLayget (f : LayForm) (s : State) : Host.Outcome State Fault Refusal :=
  s.withCur fun w =>
    match w.layHandle f.handle s.clk with
    | none => if w.faceOk f.face then s.raise w .layoutBad 0 else s.raise w .meldIllegal (w.active f.face)
    | some h =>
      let o : Opnds := { d := .vec f.v, a := .none, b := (match f.handle with | .sc n => .sc n | .lit n => .lit n), c := .none, mods := {} }
      s.vector { ty := .n32, face := f.face, fa := o, fb := none } (laygetOp (s.layout w.ctx h))

end Sys2Proof.Machine
end

