-- ==== Sys2Proof/Machine/Order.lean ====
section
/-!
DEFINITION. Sys2Proof/Machine/Order.lean: places, scopes, releases and acquires (R233 to R248).

Bytes that a cluster cache holds and its clean lines, what a release leaves on a location,
the dies' applied clocks, and when an access of a wale may be performed.
-/
namespace Sys2Proof.Machine

/-! ### Scopes (R237) -/

/-- Whether a scope counted from an agent on core `c1` of workgroup `g1` includes an agent on
`c2` of `g2` (R237). -/
def scCovers (sc : Scope) (c1 g1 c2 g2 : Nat) : Bool :=
  match sc with
  | .wl => false
  | .grp => g1 == g2
  | .clu => clusterOf c1 == clusterOf c2
  | .die => dieOf c1 == dieOf c2
  | .dev | .sys => true

/-- The wider of two scopes. -/
def scMax (a b : Scope) : Scope := if a.code < b.code then b else a

/-- Scopes whose releases are performed at the home slice (R237). -/
def scHome (a : Scope) : Bool := decide (3 ≤ a.code)

/-- Whether a release left by `i` synchronises with an acquire at `sc` by an agent on `core` of
`wg` in `ctx`; `.rsp` widens a group-scope release of the context (R175, R238). -/
def RelInfo.syncs (i : RelInfo) (sc : Scope) (core wg ctx : Nat) (rsp : Bool) : Bool :=
  let rs := if rsp && i.ctx == ctx && i.scope == .grp then sc else i.scope
  scCovers rs i.core i.wg core wg && scCovers sc core wg i.core i.wg

/-! ### The cluster caches (R233, R240, R241) -/

/-- The key of a byte that cluster `c` holds. -/
def cacheKey (c l : Nat) : Nat := c * 2 ^ 64 + l

/-- Whether cluster `c` holds an unwritten-back byte among `n` bytes from `l`. -/
def State.dirtyAny (s : State) (c l n : Nat) : Bool :=
  (List.range n).any fun i => (mFind s.dirty (cacheKey c (l + i))).isSome

/-- Whether cluster `c` holds every one of `n` bytes from `l` unwritten-back. -/
def State.dirtyAll (s : State) (c l n : Nat) : Bool :=
  (List.range n).all fun i => (mFind s.dirty (cacheKey c (l + i))).isSome

/-- Cluster `c` holds bytes that a write with commit clk `clk` has performed there; a byte that already waits for its
write-back is due no later than before (R240). -/
def State.putDirty (s : State) (c l clk : Nat) (bs : List Byte) : State :=
  (bs.zip (List.range bs.length)).foldl (fun (s : State) b =>
    let k := cacheKey c (l + b.2)
    let at' := match mFind s.dirty k with | some d => min d.at' clk | none => clk
    { s with dirty := mPut s.dirty k ⟨b.1, at'⟩ }) s


/-- A write of `n` bytes at key `k` ends the release sequences there; `new` are those that it leaves. -/
def State.putRels (s : State) (k n : Nat) (new : List RelInfo) : State :=
  { s with rels := mSet [] (mDelRange s.rels k (k + n)) k new }

/-- The clean line of a cluster that holds a location. -/
def State.cleanAt (s : State) (c l : Nat) : Option CleanLine :=
  s.clean.find? fun x => x.cluster == c && x.line == l / 128

/-- The releases left on the `n` bytes from `l` that a read sees: with `near` at cluster `c`, those of its own writes or of
its clean line, else those at home (R238). -/
def State.relsAt (s : State) (c l n : Nat) (near : Bool) : List RelInfo :=
  if near && s.dirtyAny c l n then mGet [] s.rels (cacheKey c l)
  else match (if near then s.cleanAt c l else none) with
    | some x => mGet [] x.rels l
    | none => mGet [] s.rels l

/-- Drop a cluster's clean line. -/
def State.dropClean (s : State) (c l : Nat) : State :=
  { s with clean := s.clean.filter fun x => !(x.cluster == c && x.line == l / 128) }

/-- Write back every byte of the keys `lo` to `hi - 1` of cluster `c`, in order, with the releases they carry (R240). -/
def State.flushKeys (s : State) (c lo hi : Nat) : State :=
  let mine := s.dirty.filter fun p => decide (lo ≤ p.1) && decide (p.1 < hi)
  let s := mine.foldl (fun s p =>
    let l := p.1 - cacheKey c 0
    let infos := mGet [] s.rels p.1
    let s := (s.writeLoc l [p.2.v]).dropClean c l
    { s with rels := mSet [] (mSet [] s.rels p.1 []) l infos }) s
  let whole (b : Nat × Nat) : Bool := (List.range b.2).all fun i =>
    mine.any fun p => p.1 == cacheKey c (b.1 + i)
  { s with
    badWords := s.badWords.filter fun b => !whole b
    dirty := s.dirty.filter fun p => !(decide (lo ≤ p.1) && decide (p.1 < hi)) }

/-- Write back the line of a cluster that holds a location. -/
def State.flushLine (s : State) (c l : Nat) : State :=
  s.flushKeys c (cacheKey c (l / 128 * 128)) (cacheKey c (l / 128 * 128 + 128))

/-- Write back everything that a cluster holds. -/
def State.flushCluster (s : State) (c : Nat) : State := s.flushKeys c (cacheKey c 0) (cacheKey (c + 1) 0)

/-- Write back everything that every cluster holds. -/
def State.flushAll (s : State) : State := (List.range 36).foldl State.flushCluster s

/-! ### Applied clocks (R246) -/

/-- The applied clock of a die: every release counted, but for those that wait for writes homed there. -/
def State.applied (s : State) (die : Nat) : List Nat :=
  (List.range 5).map fun e =>
    (s.pendApplied.filter fun p => p.die == die && p.e == e).foldl (fun n p => min n (p.k - 1)) (s.relCount.getD e 0)

/-- A compute die is awake (R378). -/
def State.awake (s : State) (die : Nat) : Bool := mGet .p0 s.power die == .p0

/-- The wake time of a state in clk (R378). -/
def PState.wakeClk : PState → Nat
  | .p0 => 0 | .c1 => 1200 | .c2 => 24000 | .c3 => 720000 | .c4 => 15000000

/-- An arrival at a die: one that sleeps is to be awake within its wake time (R380). -/
def State.stir (s : State) (die : Nat) : State :=
  if s.awake die || (mFind s.wakeAt die).isSome then s
  else { s with wakeAt := mPut s.wakeAt die (s.clk + (mGet .p0 s.power die).wakeClk) }

/-- A die is awake: from C4 the whole package wakes (R380). -/
def State.wake (s : State) (d : Nat) : State :=
  if mGet .p0 s.power d = .c4 then { s with power := [], wakeAt := [], idleSince := [] }
  else { s with power := mDel s.power d, wakeAt := mDel s.wakeAt d, idleSince := mDel s.idleSince d }

/-- The die that homes a location is awake for an access from outside (R380, log 82). -/
def State.rouse (s : State) (l : Nat) : State := if s.awake (homeDie l 5) then s else s.wake (homeDie l 5)

/-- The lines that a cluster cache holds: clean ones, newest first, and those with bytes still to be written back. -/
def State.linesOf (s : State) (c : Nat) : List Nat :=
  let clean : List Nat := (s.clean.filter fun x => x.cluster == c).map CleanLine.line
  let dirty : List Nat := (s.dirty.filter fun p => p.1 / 2 ^ 64 == c).map fun p => p.1 % 2 ^ 64 / 128
  (clean ++ dirty).eraseDups

/-- The home of a location is awake and has applied the stamp that an access carries (R246, R380). -/
def State.homeApplied (s : State) (l core : Nat) (stamp : List Nat) : Bool :=
  s.awake (homeDie l (dieOf core)) && stampLe stamp (s.applied (homeDie l (dieOf core)))

/-- A program of a bank arithmetic unit, other than `but`, has begun on rows of its own bank and accessed no other:
no access to those rows comes between (R213). -/
def State.bankHeld (s : State) (l : Nat) (but : Option Nat) : Bool :=
  s.banks.any fun b => b.st != .queued && b.touched && b.pure && some b.id != but &&
    (match b.unit with | some u => locDevice l && u == bankOf l | none => false)

/-- A byte that cluster `c` holds lies on the rows of such a program: it cannot be written back yet (R213). -/
def State.flushHeld (s : State) (c : Nat) : Bool := s.dirty.any fun p => p.1 / 2 ^ 64 == c && s.bankHeld (p.1 % 2 ^ 64) none

/-- A byte that any cluster holds does (R213). -/
def State.flushAllHeld (s : State) : Bool := s.dirty.any fun p => s.bankHeld (p.1 % 2 ^ 64) none

/-- Whether the home of a location performs an access that carries a stamp (R213, R246, R380). -/
def State.homeReady (s : State) (l core : Nat) (stamp : List Nat) : Bool :=
  s.homeApplied l core stamp && !s.bankHeld l none

/-- A cluster cache holds 2 MiB, 16,384 lines (R233): beyond them the clean line filled longest ago is dropped, or with
none the line written longest ago is written back (log 118). -/
def State.fitCache (s : State) (c : Nat) : State :=
  if (s.linesOf c).length ≤ 16384 then s
  else match (s.clean.filter fun x => x.cluster == c && !s.dirtyAny c (128 * x.line) 128).getLast? with
    | some x => s.dropClean c (128 * x.line)
    | none =>
      let d := (s.dirty.filter fun p => p.1 / 2 ^ 64 == c && !s.bankHeld (p.1 % 2 ^ 64) none).foldl
        (fun (b : Option (Nat × DirtyByte)) p => match b with | some x => if p.2.at' < x.2.at' then some p else b | none => some p) none
      match d with
      | some p => s.flushLine c (p.1 % 2 ^ 64)
      | none => s

/-- The bytes due at 100 µs are written back, unless their rows are a running bank program's (R213, log 114), and
stale clean lines are dropped (R240). -/
def State.cacheClk (s : State) : State :=
  let s := { s with clean := s.clean.filter fun x => match x.stale with | some k => decide (s.clk < k) | none => true }
  (s.dirty.filter fun p => decide (p.2.at' + Config.clk100us ≤ s.clk) && !s.bankHeld (p.1 % 2 ^ 64) none).foldl
    (fun s p => s.flushLine (p.1 / 2 ^ 64) (p.1 % 2 ^ 64)) s

/-- The stamp of the release `k` of die `e`. -/
def unitStamp (e k : Nat) : List Nat := (List.range 5).map fun i => if i = e then k else 0

/-- A request has been performed: releases no longer wait for it (R246). -/
def State.clearPend (s : State) (id : Nat) : State :=
  { s with pendApplied :=
      (s.pendApplied.map fun p => { p with ids := p.ids.filter (· != id) }).filter fun p => !p.ids.isEmpty }

/-- Fill a cluster's clean line from its home slice (R241); a line with an uncorrectable word is not filled (R357). -/
def State.fillLine (s : State) (c l : Nat) : State :=
  if !locDevice l || (s.badWord (l / 128 * 128) 128 false).isSome then s
  else
    let base := l / 128 * 128
    let d := homeDie l 0
    let x : CleanLine :=
      { cluster := c, line := l / 128, bytes := s.bytesAt base 128, filled := s.clk
        applied := s.applied d, dieAt := d, stale := none
        rels := s.rels.filter fun p => decide (base ≤ p.1) && decide (p.1 < base + 128) }
    { s with clean := x :: (s.dropClean c l).clean }.fitCache c

/-- The bytes that a cluster's line gives: its own writes over its fill, or over home where it has none (R241). -/
def State.lineBytes (s : State) (c l n : Nat) : List Byte :=
  (List.range n).map fun i =>
    match mFind s.dirty (cacheKey c (l + i)) with
    | some b => b.v
    | none =>
      match s.cleanAt c l with
      | some x => if (l + i) / 128 = l / 128 then x.bytes.getD ((l + i) % 128) 0 else s.byteAt (l + i)
      | none => s.byteAt (l + i)

/-- Whether a clean line may serve a read of a wale (R241). -/
def CleanLine.serves (x : CleanLine) (w : Wale) (clk : Nat) : Bool :=
  decide (w.acqClk < x.filled) && stampLe w.stamp x.applied &&
    (match x.stale with | some k => decide (clk < k) | none => true)

/-! ### Acquires -/

/-- A wale acquires the releases that synchronise with it (R238, R246). -/
def Wale.acquire (w : Wale) (infos : List RelInfo) (sc : Scope) (rsp : Bool) (clk : Nat) : Wale :=
  let st := infos.foldl (fun st i => if i.syncs sc w.core w.wg w.ctx rsp then stampJoin st i.stamp else st) w.stamp
  { w with stamp := st, acqClk := if scHome sc then clk else w.acqClk }

/-- A wale's load that is no acquire has read these releases (R238, FENCE.acq). -/
def Wale.notice (w : Wale) (infos : List RelInfo) : Wale :=
  { w with seen := infos.foldl (fun l i => if l.contains i then l else l ++ [i]) w.seen }

/-! ### When an access may be performed -/

/-- The requests of the same wale issued before `q`, not yet performed. -/
def State.before (s : State) (q : Req) : List Req :=
  s.reqs.filter fun p => p.wale == q.wale && p.open' && decide (p.no < q.no)

/-- The value that a load takes from the store queue: of the youngest earlier store to exactly its
element, the highest thread's, and of that the last element's (R171). -/
def State.forward (s : State) (q : Req) (e : Elem) : Option W64 :=
  if q.acls == .vol then none
  else
    let c := ((s.before q).filter fun p => p.kind == .store).flatMap fun p =>
      (p.elems.filter fun x => !x.zero && x.loc == e.loc && x.size == e.size).map fun x => (p.no, x.t, x.val)
    (c.foldl (fun (b : Option (Nat × Nat × W64)) x =>
      match b with
      | some y => if y.1 < x.1 || (y.1 == x.1 && decide (y.2.1 ≤ x.2.1)) then some x else b
      | none => some x) none).map fun x => x.2.2

/-- The requests of the other face of a paired instruction. -/
def State.sibling (s : State) (q : Req) : List Req :=
  s.reqs.filter fun p => p.wale == q.wale && p.open' && p.no == q.no && p.id != q.id

/-- An earlier access of the wale to the element, or a lower thread of the other face, holds this one back (R171, R176,
R229, R239, R240). -/
def State.elementHeld (s : State) (q : Req) (e : Elem) : Bool :=
  ((s.before q).any fun p =>
    p.kind != .pref && (p.elems.any fun x => !x.done && !(p.kind == .store && x.dead) && x.overlaps e &&
      !(q.kind == .load && p.kind == .store && q.acls != .vol && x.loc == e.loc && x.size == e.size))) ||
  ((s.sibling q).any fun p => p.elems.any fun x => !x.done && decide (x.t < e.t) &&
    (match q.kind with | .load | .pref => false | .store => x.overlaps e | _ => true))

/-- Among the elements of one request before index `i`, one that shares bytes or, for an atomic,
any one is still to be performed (R176, R229). -/
def Req.innerHeld (q : Req) (i : Nat) (e : Elem) : Bool :=
  match q.kind with
  | .load | .pref => false
  | .store => (q.elems.take i).any fun x => !x.done && x.overlaps e
  | _ => (q.elems.take i).any fun x => !x.done

/-- The earlier accesses that a release at scope `sc` waits for: at `.wl` those of the scratchpad, whose place is the
bank (R237). A store homed on another die, without images, may still be pending at `.dev` and `.sys` (R239, R246). -/
def State.relWaits (s : State) (q : Req) (sc : Scope) : List Req × List Req :=
  let prev := (s.before q).filter fun p => p.kind != .pref
  let far (p : Req) : Bool := decide (4 ≤ sc.code) && p.kind == .store && p.imgs.isEmpty &&
    p.elems.all fun x => x.done || x.zero || (locDevice x.loc && homeDie x.loc 0 != dieOf q.core)
  if sc == .wl then (prev.filter fun p => p.space == 2 || p.space == 3, [])
  else (prev.filter fun p => !far p, prev.filter far)

/-- The images that a release at `.die` or wider of a workgroup waits for: its own, and those of other workgroups whose
primaries its wales have acquired (R312). -/
def State.imagesOpen (s : State) (wg : Nat) : Bool :=
  let more := match s.wg? wg with | some g => g.imgWait | none => []
  s.images.any fun i => i.wg == wg || more.contains i.id

/-- A release at scope `sc` may be performed. -/
def State.relReady (s : State) (q : Req) (sc : Scope) (wg : Nat) : Bool :=
  (s.relWaits q sc).1.isEmpty && !(s.near.any fun o => o.wale == q.wale && decide (o.no < q.no)) &&
    (!scHome sc || !(s.imagesOpen wg || s.flushHeld (clusterOf q.core)))

/-- The 512 image records of a die's lane are in use: a record holds the images of one wale in one line (R314, log 46). -/
def State.laneFull (s : State) (die : Nat) : Bool :=
  decide (512 ≤ (((s.images.filter fun i => i.lane == die).map fun i => (i.wale, i.va / 128)).eraseDups).length)

/-- A load after a FENCE.rel of `.die` or wider waits for the images of the wale's stores before the fence (R312). -/
def State.imagesHold (s : State) (q : Req) : Bool :=
  match q.kind, q.fenceWide with
  | .load, some n | .atomic _, some n =>
    (s.images.any fun i => i.wale == q.wale) || (s.before q).any fun p => !p.imgs.isEmpty && decide (p.no < n)
  | _, _ => false

/-- Ordering against the rest of the wale: fences, earlier acquires, the volatile class, near and queued, its own
release, and the lane of the rim (R172, R173, R174, R239, R248, R314). -/
def State.orderReady (s : State) (q : Req) (e : Elem) (wg : Nat) : Bool :=
  !(q.after.any s.pendingId) &&
  !(s.near.any fun o => o.wale == q.wale && decide (o.no < q.fenceNo)) &&
  !s.imagesHold q &&
  !((s.before q).any fun p => p.acq.isSome) &&
  (q.acls != .vol || (!((s.before q).any fun p => p.acls == .vol && p.kind != .pref && p.elems.any fun x => x.t == e.t && !x.done) &&
    !(s.near.any fun o => o.wale == q.wale && o.vol && o.t == e.t && decide (o.no < q.no)))) &&
  (match q.rel with | some sc => s.relReady q sc wg | none => true) &&
  (q.imgs.isEmpty || !s.laneFull q.die)

/-- Whether the access must be performed at its home slice (R172, R226, R233, R246). -/
def State.mustHome (s : State) (q : Req) (l : Nat) : Bool :=
  !locDevice l || q.space == 6 || q.acls == .vol || (q.acls == .sg && scHome q.scope) ||
  (match q.rel with | some sc => scHome sc | none => false) ||
  (s.pendApplied.any fun p => p.ids.contains q.id)

/-- Whether a device location's bytes can be read at cluster `c` without its home: the cluster's own writes cover them,
or a clean line serves the rest (R239, R241). -/
def State.lineServes (s : State) (w : Wale) (c l n : Nat) : Bool :=
  s.dirtyAll c l n || (match s.cleanAt c l with | some x => x.serves w s.clk | none => false)

/-! ### Sharing reads (R234, R240) -/

/-- The wale's requests whose elements change by `f`. -/
def State.onElems (s : State) (wale : Nat) (f : Req → Elem → Elem) : State :=
  { s with reqs := s.reqs.map fun q => if q.wale == wale then { q with elems := q.elems.map (f q) } else q }

/-- A new read or write of an element by the wale: no later load shares an older read of it (R240). -/
def State.unshare (s : State) (wale id : Nat) (e : Elem) : State :=
  s.onElems wale fun q x => if q.id != id && x.overlaps e then { x with read := none } else x

/-- Whether a request is a store, scatter, atomic or reduction: the first after a FENCE.rel is a release (R238). -/
def Req.writes (q : Req) : Bool := match q.kind with | .store | .atomic _ | .red _ => true | _ => false

/-- An element of the wale's own writes issued between two numbers shares bytes with `e`. -/
def State.ownWrite (s : State) (wale a b : Nat) (e : Elem) : Bool :=
  s.reqs.any fun r => r.wale == wale && decide (a < r.no) && decide (r.no < b) && r.writes && r.elems.any fun x => x.overlaps e

/-- What a `.wk` load has read so far is kept for the wale's later loads of the same elements that have issued: they may
share it (R234, R240). -/
def State.shareReads (s : State) (q : Req) : State :=
  if q.kind != .load then s
  else q.elems.foldl (fun (s : State) e =>
    match e.read with
    | none => s
    | some v => s.onElems q.wale fun p x =>
        if p.kind == .load && p.acls == .wk && p.open' && decide (q.no < p.no) && !x.done && !x.zero && x.loc == e.loc &&
            x.size == e.size && !s.ownWrite q.wale q.no p.no e then { x with read := some v } else x) s

/-- An acquire with issue number `no`: what is issued after it shares no read made before it (R239). -/
def State.unshareAll (s : State) (wale no : Nat) : State :=
  let s := (s.reqs.filter fun q => q.wale == wale && q.open' && q.elems.any fun e => e.done && e.read.isSome).foldl State.shareReads s
  s.onElems wale fun q x => if x.done || decide (no < q.no) then { x with read := none } else x

/-! ### Acquires by a wale -/

/-- The images of another workgroup's primaries that an acquire of its release brings before the releases of `wg` (R312). -/
def State.joinImages (s : State) (wg : Nat) (infos : List RelInfo) : State :=
  let from' (i : RelInfo) : List Nat :=
    if i.wg = wg then []
    else (s.images.filter fun x => x.wg == i.wg).map Image.id ++ (match s.wg? i.wg with | some g => g.imgWait | none => [])
  let ids := infos.flatMap from'
  if ids.isEmpty then s else s.onWg wg fun g => { g with imgWait := (g.imgWait ++ ids).eraseDups }

/-- A WALE ACQUIRES, by its access with issue number `no`, the releases that synchronise with it (R238, R312). -/
def State.acquireBy (s : State) (id no : Nat) (infos : List RelInfo) (sc : Scope) (rsp : Bool) : State :=
  match s.wale? id with
  | none => s
  | some w =>
    let syn := infos.filter fun i => i.syncs sc w.core w.wg w.ctx rsp
    ((s.onWale id fun x => x.acquire infos sc rsp s.clk).unshareAll id no).joinImages w.wg syn

end Sys2Proof.Machine
end

