-- ==== Sys2Proof/Machine/Observe.lean ====
section
/-!
DEFINITION. Sys2Proof/Machine/Observe.lean: the management registers of R354, error counters
(R355, R359), Psiak trace records (R366 to R368), event records (R287) and completion flags.
-/
namespace Sys2Proof.Machine

/-! ### CRC-32C -/

/-- One bit of the reflected Castagnoli CRC. -/
def crcBit (c : W32) : W32 := if c.getLsbD 0 then (c >>> 1) ^^^ 0x82F63B78 else c >>> 1

/-- One byte of the CRC. -/
def crcByte (c : W32) (b : Byte) : W32 :=
  let c := c ^^^ b.zeroExtend 32
  (List.range 8).foldl (fun c _ => crcBit c) c

/-- CRC-32C: reflected, initial value and final XOR all ones (R366). -/
def crc32c (bs : List Byte) : W32 := ~~~(bs.foldl crcByte 0xFFFFFFFF)

/-! ### Registers of the management blocks (R354) -/

/-- Register at offset `o` of the block of die `d`; 4 is the I/O die. -/
def mgmt (d o : Nat) : Nat := Config.mgmtBase + Config.mgmtStride * d + o

/-- The debugger's registers. -/
def dbgWale : Nat := mgmt 4 0x8000
/-- DBGBUF. -/
def dbgBuf : Nat := mgmt 4 0x8010
/-- DBGST. -/
def dbgSt : Nat := mgmt 4 0x8018

/-- Set DBGST (R372). -/
def State.dbgDone (s : State) (st : Nat) : State := s.setReg dbgSt (BitVec.ofNat 64 st)

/-- CTRACE(c). -/
def State.ctrace (s : State) (c : Nat) : W64 := s.reg (mgmt 4 (0x2000 + 8 * c))
/-- BP(c, n). -/
def State.bp (s : State) (c n : Nat) : W64 := s.reg (mgmt 4 (0x3000 + 32 * c + 8 * n))

/-- Whether an enabled breakpoint of a context names a code address (R371). -/
def State.bpHit (s : State) (c va : Nat) : Bool :=
  (List.range 4).any fun n =>
    let b := s.bp c n
    b.getLsbD 0 && field b 51 3 * 8 == va

/-- Count an event of a counter, which saturates (R359). -/
def State.bump (s : State) (off : Nat) : State :=
  let v := s.reg off
  if v == 0xFFFFFFFFFFFFFFFF then s else s.setReg off (v + 1)

/-- CORR(n) of a die. -/
def State.countCorr (s : State) (d n : Nat) : State := s.bump (mgmt d (16 * n))
/-- UNCORR(n) of a die. -/
def State.countUncorr (s : State) (d n : Nat) : State := s.bump (mgmt d (8 + 16 * n))

/-! ### Uncorrectable errors (R355 to R358) -/

/-- The structure that holds a device location (R355): HBM or the common store. -/
def structOf (l : Nat) : Nat := if l < 2 ^ 52 then 1 else 6

/-- What a containment record says of an access: context, core, slot, address, the words of BODY and the layout handle (R358). -/
structure ErrAt where
  ctx : Nat
  core : Nat
  slot : Nat
  va : Nat
  body : List Nat := []
  handle : Option Nat := none
  deriving DecidableEq, Repr

/-- AN UNCORRECTABLE ERROR that an access of a context meets (R357, R358): it is counted, and the context stops without saving,
with a record of kind 0x10, or 0x14 while the wale named is being saved. -/
def State.uncorrectable (s : State) (strct die : Nat) (a : ErrAt) : State :=
  let s := s.countUncorr die strct
  let saving := s.wales.any fun w => w.kind == .wale && w.ctx == a.ctx && w.core == a.core && w.slot == a.slot && w.life == .stopping
  let body := (List.range 6).foldl (fun n j => n + a.body.getD j 0 % 2 ^ 32 * 2 ^ (32 * j)) 0
  s.stopCtx a.ctx (withHandle (mkRecord (if saving then 0x14 else 0x10) a.ctx strct a.core a.slot body a.va s.clk) a.handle)

/-- An access that meets an uncorrectable word is not performed: what it leaves instead (R357). -/
def State.spoiled (s : State) (l n : Nat) (wr : Bool) (a : ErrAt) : Option State :=
  (s.badWord l n wr).map fun b => s.uncorrectable (structOf b) (homeDie b 0) a

/-- The coordinates of an element as the words of BODY. -/
def coordWords (cs : List Int) : List Nat := cs.map fun c => (c % 2 ^ 32).toNat

/-! ### Psiak rings (R354, R366 to R368) -/

/-- The records that a die's ring holds. -/
def State.psLen (s : State) (d : Nat) : Nat := 2 ^ (s.reg (mgmt d 0x1008)).toNat
/-- Records in a die's ring that software has not consumed. -/
def State.psUsed (s : State) (d : Nat) : Nat :=
  (s.reg (mgmt d 0x1018)).toNat - (s.reg (mgmt d 0x1010)).toNat

/-- Where the next record of a die's ring is written. -/
def State.psNext (s : State) (d : Nat) : Xl :=
  let base := s.reg (mgmt d 0x1000)
  s.xlate (field base 63 57) none .w (addr52 (field base 51 0 + 32 * ((s.reg (mgmt d 0x1018)).toNat % s.psLen d)))

/-- A record is written at its place, and the tail moves on. -/
def State.psWrite (s : State) (d l : Nat) (rec : BitVec 256) : State :=
  (s.writeNat l 32 rec.toNat).setReg (mgmt d 0x1018) (BitVec.ofNat 64 ((s.reg (mgmt d 0x1018)).toNat + 1))

/-- A trace record (R367). -/
def psRecord (kind ctx core slot windex bar lseq group phase data pc : Nat) : BitVec 256 :=
  BitVec.ofNat 256 (kind % 256 * 2 ^ 248 + ctx % 128 * 2 ^ 241 + core % 512 * 2 ^ 232 + slot % 128 * 2 ^ 225 +
    windex % 16 * 2 ^ 221 + bar % 128 * 2 ^ 214 + lseq % 2 ^ 32 * 2 ^ 160 + group % 2 ^ 32 * 2 ^ 128 +
    phase % 2 ^ 32 * 2 ^ 96 + data % 2 ^ 32 * 2 ^ 64 + addr52 pc)

/-- A ring has dropped records and has space to report them (R368). -/
def State.psOwes (s : State) (d : Nat) : Bool := mGet 0 s.psDropped d != 0 && decide (s.psUsed d < s.psLen d)

/-- Space has returned: a record of kind 0x06 reports the count of records dropped (R368). -/
def State.psReport (s : State) (d : Nat) : State :=
  if s.psOwes d then
    match s.psNext d with
    | .ok l =>
      let rec' := psRecord 0x06 (field (s.reg (mgmt d 0x1000)) 63 57) 0x1FF 127 0 0 0 0 (mGet 0 s.psDropped d) 0 0
      { s.psWrite d l rec' with psDropped := mSet 0 s.psDropped d 0 }
    | .bad _ => s
    | .absent => { s with absentHit := true }
  else s

/-- Write a record to a die's ring, after the report of those dropped before it, or drop it when the ring is full or its
page cannot be written (R368, log 40). -/
def State.psiak (s : State) (d : Nat) (rec : BitVec 256) : State :=
  let s := s.psReport d
  let drop := { s.bump (mgmt d 0x1020) with psDropped := mSet 0 s.psDropped d (mGet 0 s.psDropped d + 1) }
  if s.psUsed d ≥ s.psLen d then drop
  else match s.psNext d with
    | .ok l => s.psWrite d l rec
    | .bad _ => drop
    | .absent => { s with absentHit := true }

/-- sr.launch and sr.group of a wale. -/
def State.nameOf (s : State) (w : Wale) : Nat × Nat :=
  match s.wg? w.wg with
  | some g => (g.launch, g.group)
  | none => (0, 0)

/-- The working-set registers of a wale in ascending number (R366). -/
def Wale.workingSet (w : Wale) : List Nat := (List.range 256).filter w.inSet

/-- The checksum of a wale at a barrier arrival (R366). -/
def Wale.checksum (w : Wale) (clk : Nat) : W32 :=
  crc32c ((w.workingSet.flatMap fun r => threads.flatMap fun t => leBytes 4 (w.vAt r t clk).toNat) ++
    ((List.range 64).flatMap fun n => leBytes 4 (w.sAt n clk).toNat) ++ leBytes 4 w.exm.toNat)

/-- Log the checksum of an arrival when the context asks for it (R366, R367); count the arrival. -/
def State.logArrival (s : State) (w : Wale) (bar : Nat) : State :=
  let k := mGet 0 w.barArrivals bar
  let s := s.onWale w.id fun x => { x with barArrivals := mSet 0 x.barArrivals bar (k + 1) }
  if (s.ctrace w.ctx).getLsbD 0 then
    let (l, g) := s.nameOf w
    s.psiak (dieOf w.core) (psRecord 0x01 w.ctx w.core w.slot w.windex bar l g k (w.checksum s.clk).toNat w.insnPc)
  else s

/-- PSIAK_DROP_REPORT (R368): space has returned to a ring; a record of kind 0x06 reports the drops. -/
def execPsiakDropReport (d : Nat) (s : State) : Host.Outcome State Fault Refusal :=
  if s.psOwes d then fin (s.psReport d) else .next s

/-! ### Event queues (R287, R382) -/

/-- An event record (R287). -/
def evData (addr val kind ctx : Nat) : BitVec 128 :=
  BitVec.ofNat 128 (addr % 2 ^ 64 * 2 ^ 64 + val % 2 ^ 32 * 2 ^ 32 + kind % 256 * 2 ^ 24 + ctx % 128)

/-- Post a record to a core's event queue, or hold it while the queue is full (R287); the posting is
a `.dev` release by an agent of `die` that has acquired `stamp` (R244, R238). -/
def State.postEv (s : State) (core : Nat) (data : BitVec 128) (die : Nat) (stamp : List Nat) : State :=
  let k := s.relCount.getD die 0 + 1
  let s := { s with relCount := setNth s.relCount die k }.stir (dieOf core)
  let e : EvRec := { data := data, stamp := stampJoin stamp (unitStamp die k) }
  let q := mGet [] s.events core
  if q.length < 64 ∧ !(s.evHeld.any fun p => p.1 == core) then { s with events := mSet [] s.events core (q ++ [e]) }
  else { s with evHeld := s.evHeld ++ [(core, e)] }

/-- A core's event queue takes no record now: a poster that can wait, waits (R287). -/
def State.evFull (s : State) (core : Nat) : Bool :=
  decide (64 ≤ (mGet [] s.events core).length) || s.evHeld.any fun p => p.1 == core

/-- Held records enter their queues as space returns, oldest first. -/
def State.evClk (s : State) : State :=
  s.evHeld.foldl (fun (s : State) p =>
    let q := mGet [] s.events p.1
    if q.length < 64 ∧ !(s.evHeld.any fun x => x.1 == p.1) then { s with events := mSet [] s.events p.1 (q ++ [p.2]) }
    else { s with evHeld := s.evHeld ++ [p] }) { s with evHeld := [] }

end Sys2Proof.Machine
end

