-- ==== Sys2Proof/Machine/QueueMem.lean ====
section
/-!
DEFINITION. Sys2Proof/Machine/QueueMem.lean: queued loads and stores (R169 to R172, R229, R234):
their issue, the translation of their addresses (R162, R336, R337), and how they are performed.
-/
namespace Sys2Proof.Machine

/-! ### Building a request -/

/-- Whether a request takes a load-queue entry (R170). -/
def ReqKind.isLoad : ReqKind → Bool
  | .load | .pref | .atomic _ => true
  | _ => false

/-- The entries of a wale's load or store queue in use: one per instruction (R170). -/
def State.entries (s : State) (w : Wale) (ld : Bool) : Nat :=
  (((s.reqs.filter fun q => q.wale == w.id && q.open' && q.kind.isLoad == ld).map Req.no).eraseDups).length

/-- The ids that a QFENCE orders before an operation of queue `b` (R174). -/
def Wale.fenced (w : Wale) (b : Nat) : List Nat :=
  (w.qfences.filter fun f => f.mask.getLsbD b).flatMap QFence.ids

/-- Whether every flag of a list can be raised together: each stays at most 63 (R32). -/
def Wale.canRaiseAll (w : Wale) (fl : List (Option Nat)) : Bool :=
  fl.all fun f => match f with
    | none => true
    | some k => decide (w.flag k + (fl.filter (· == f)).length ≤ 63)

/-- The flags that a queued instruction's faces with active threads raise. -/
def Wale.mFlags (w : Wale) (m : MForm) : List (Option Nat) :=
  ((w.mFaces m).filter fun f => f.2 != 0).map fun f => w.flagSel f.1.fsel

/-- The images of a store's elements, each code of a q4 word by itself (R308, R309, R311). -/
def State.imageList (s : State) (w : Wale) (op : MemOp) (x : MCtx) (es : List Elem) (c : Nat) : List ImgAt :=
  match s.wg? w.wg with
  | none => []
  | some g =>
    if !op.image || !imaged x.r g.sym then []
    else
      let step := if lFmt x.r = .f64 then 2 else 1
      ((es.zip (List.range es.length)).filter fun p => !p.1.zero && p.1.j % step == 0).flatMap fun (e, i) =>
        match fitCoords x.r (w.coords op x.f x.r e.t (if step = 2 then 0 else e.j) c) with
        | .ok cs =>
          if lFmt x.r = .q4 then
            (List.range 8).flatMap fun k =>
              (imagePlaces g x.r (setNth cs 0 (cs.getD 0 0 + ((k : Nat) : Int)))).map fun p => (⟨i, some k, p.1, p.2⟩ : ImgAt)
          else (imagePlaces g x.r cs).map fun p => (⟨i, none, p.1, p.2⟩ : ImgAt)
        | _ => []

/-- The request of a face, not yet committed. `rel` and `acq` are the scopes of its annotation (R238). -/
def State.mkReq (s : State) (w : Wale) (m : MForm) (op : MemOp) (x : MCtx) (kind : ReqKind)
    (es : List Elem) : Req :=
  let rel := m.ann == .rel || m.ann == .ar
  let acq := m.ann == .acq || m.ann == .ar
  let writes := match kind with | .store | .atomic _ | .red _ => true | _ => false
  let own := if rel then some x.f.scope else none
  let fenced := if writes then w.fenceScope else none
  { id := 0, wale := w.id, core := w.core, die := dieOf w.core, ctx := w.ctx, kind := kind, space := lSpace x.r
    fmt := lFmt x.r, acls := m.acls, scope := x.f.scope
    rel := (match own, fenced with | some a, some b => some (scMax a b) | some a, none => some a | none, f => f)
    acq := if acq then some x.f.scope else none, rsp := x.f.rsp, flag := w.flagSel x.f.fsel
    reg := x.f.d, pred := x.f.opx.toNat % 8, predDead := 0, elems := es, stamp := w.stamp, no := w.issueNo, at' := s.clk + 4
    after := (if writes then w.fenceRel else []) ++ w.fenced (if kind.isLoad then 0 else 1)
    fenceNo := (if writes then w.fenceNo else 0), fenceWide := w.fenceWide
    finished := false, insn := w.insn0, handle := x.handle, pkg := lPeer x.r
    imgs := s.imageList w op x es s.clk, neg := field (lImage x.r) 30 29 == 1 }

/-! ### Translation of a wale's own access (R162, R226, R336, R337) -/

/-- What an access needs: atomics and locks read and write. -/
def permsOf : ReqKind → List Perm
  | .load | .pref => [.r]
  | .store => [.w]
  | _ => [.r, .w]

/-- What one element's translation finds: done, or no cached leaf. -/
inductive TR where
  | miss
  | done (x : Xl)
  deriving DecidableEq, Repr

/-- An atomic or reduction on a bus page in the BAR of another function is ACCESS (R331). -/
def Req.ofBus (q : Req) (x : Xl) : Xl :=
  match x, q.kind with
  | .ok l, .atomic _ | .ok l, .red _ => if q.space == 5 && Config.peerBar (l - locHost 0) then .bad .access else x
  | _, _ => x

/-- Translate one element of a request by the cached leaves (R337). A scratchpad element has its
place already. A space-6 access is
translated at the package it names, in its context of the same job (R226). -/
def State.transElem (s : State) (q : Req) (e : Elem) : TR :=
  let va := e.va
  match q.space with
  | 2 | 3 => .done (.ok e.loc)
  | 6 => .done (s.peerXl q.ctx q.pkg (permsOf q.kind) va)
  | sp =>
    match s.cachedLeaf q.core q.ctx va with
    | some l => .done (q.ofBus (s.useLeafs l (spaceTgt sp) (permsOf q.kind) va))
    | none => .miss

/-- Every element of a request is decided without a walk. -/
def State.reqMisses (s : State) (q : Req) : Bool :=
  q.elems.any fun e => !e.zero && (match s.transElem q e with | .miss => true | _ => false)

/-- The caches filled by the pages of a request (R337). -/
def State.fillReq (s : State) (q : Req) : State :=
  if q.space = 2 ∨ q.space = 3 ∨ q.space = 6 then s
  else q.elems.foldl (fun s e => if e.zero then s else s.fillVa q.core q.ctx e.va) s

/-- The elements of a prefetch that translate, at their places: it raises no fault (R169). -/
def State.prefElems (s : State) (q : Req) : List Elem :=
  q.elems.filterMap fun e =>
    match (if e.zero then .bad .xlate else if q.space = 6 then s.peerXl q.ctx q.pkg [.r] e.va
        else s.xlateAt q.core q.ctx (spaceTgt q.space) .r e.va) with
    | .ok l => some { e with loc := l, mis := false }
    | _ => none

/-- The translations of a request after a walk: what no leaf maps is XLATE (R336); a prefetch has its places. -/
def State.transAll (s : State) (q : Req) : List (Elem × Xl) :=
  q.elems.map fun e =>
    (e, if e.zero then .ok 0 else if q.kind == .pref then .ok e.loc else match s.transElem q e with | .done x => x | .miss => .bad .xlate)

/-! ### Commit (R33, R162) -/

/-- The trap that the translations raise: the lowest code, MISALIGN last (R161, R162, R249). -/
def transTrap (l : List (Elem × Xl)) (t0 : Nat) : Option TrapReq :=
  beatTrap (l.map fun (e, x) => (e.t, match x with | .bad c => EPlan.bad c | _ => if e.mis then .bad .misalign else .ok [])) t0

/-- Enter a request whose elements are placed: its id, its flag, and the tags of its registers (R32, R100, R170). -/
def State.enterReq (s : State) (q : Req) : State :=
  let (id, s) := s.fresh
  { s with reqs := s.reqs ++ [{ q with id := id }] }.onWale q.wale fun w => w.raise q.flag

/-- The registers that a load or returning atomic of these requests writes, with their threads. -/
def reqTags (qs : List Req) : List (Nat × Ty) :=
  (qs.flatMap fun q =>
    match q.kind with
    | .load | .atomic _ => (q.elems.map fun e => (q.reg + e.j, q.fmt))
    | _ => []).eraseDups

/-- COMMIT of a queued instruction: translation faults trap, else the requests enter their queues
and the wale goes on; `issue` is the clk at which it issued. -/
def State.commitReqs (s : State) (w : Wale) (qs : List Req) (issue : Nat) :
    Host.Outcome State Fault Refusal :=
  let tr := qs.map fun q => (q, s.transAll q)
  if tr.any fun p => p.2.any fun e => e.2 == .absent then fin { s with absentHit := true }
  else match transTrap (tr.flatMap Prod.snd) (issue + 4) with
    | some r => .next (s.takeTrap { w with latch := none } r)
    | none =>
      let done := tr.map fun (q, l) =>
        { q with elems := l.map fun (e, x) =>
            { e with loc := (match x with | .ok a => a | _ => 0)
                     done := e.zero && (match q.kind with | .atomic _ | .red _ => true | _ => false) } }
      let s1 := done.foldl State.fillReq s
      let tags := (reqTags done).map fun (r, ty) => tagFlight w r ty issue 4
      let wr := done.any Req.writes
      let w1 := { w with inflight := w.inflight ++ tags, fenceScope := if wr then none else w.fenceScope }
      let w2 := w1.advance issue 0
      let w3 := { w2 with nextIssue := max w2.nextIssue s.clk }
      .next (done.foldl State.enterReq (s1.putWale w3))

/-- A QUEUED INSTRUCTION (R169): its flag and entry, the checks of R162, the beats, and its
commit, which waits for a page walk when a translation is not cached. -/
def State.queued (s : State) (m : MForm) (op : MemOp) (kind : ReqKind) (ret : Bool) :
    Host.Outcome State Fault Refusal :=
  s.withCur fun w =>
    let act := w.active m.face
    let fs := m.fa :: m.fb.toList
    if w.kind != .wale then s.raise w .illegalField 0
    else if ret && (fs.any fun f => (w.flagSel f.fsel).isNone) then s.raise w .illegalMod act
    else if !w.faceOk m.face then s.raise w .meldIllegal act
    else if !w.canRaiseAll (w.mFlags m) then .next (s.hold w .flagWait false)
    else if act != 0 && decide (16 ≤ s.entries w kind.isLoad) then
      .next (s.hold w (if kind.isLoad then .loadQFull else .storeQFull) false)
    else match s.memCheck w m op with
      | .trap r => .next (s.takeTrap w r)
      | .empty => .next (s.issued w 0)
      | .go l =>
        let ps := l.map fun x => (x, w.facePlan op x s.clk)
        let s1 := s.holdPipe w (s.clk + 4)
        match (if kind == .pref then none else beatTrap (ps.flatMap Prod.snd) (s.clk + 4)) with
        | some r => .next (s1.takeTrap w r)
        | none =>
          let qs := ps.map fun (x, p) => s.mkReq w m op x kind (planElems p)
          if kind != .pref && qs.any s.reqMisses then
            .next (s1.putWale { w with
              latch := some (.walk qs s.clk), held := some ⟨.parked, s.clk, false⟩ })
          else if kind == .pref then s1.commitReqs w (qs.map fun q => { q with elems := s.prefElems q }) s.clk
          else s1.commitReqs w qs s.clk

/-- TRANSLATION_WALK_DONE (R162): the walks of a parked commit are complete; it proceeds or traps. A wale parked before a
wale-uniform access makes it again with the walk done. -/
def execTranslationWalkDone (id : Nat) (s : State) : Host.Outcome State Fault Refusal :=
  match s.wale? id with
  | some w =>
    match w.latch with
    | some (.walk qs issue) =>
      (qs.foldl State.fillReq s).commitReqs { w with latch := none, held := none } qs issue
    | some (.pageWalk va) =>
      .next ((s.fillVa w.core w.ctx va).putWale { w with latch := some (.walked va), nextIssue := max w.nextIssue s.clk })
    | _ => .next s
  | none => .next s

/-! ### LDQ, STQ, GATHERQ, SCATTERQ, PREF (R169) -/

/-- The spaces of R169. -/
def queuedSpaces : List Nat := [0, 1, 5, 6]

/-- LDQ (R169). -/
def execLdq (m : MForm) (s : State) : Host.Outcome State Fault Refusal :=
  s.queued m { spaces := queuedSpaces, load := true } .load true
/-- STQ (R169). -/
def execStq (m : MForm) (s : State) : Host.Outcome State Fault Refusal :=
  s.queued m { spaces := queuedSpaces, store := true, image := true } .store false
/-- GATHERQ (R168, R169). -/
def execGatherq (m : MForm) (s : State) : Host.Outcome State Fault Refusal :=
  s.queued m { spaces := queuedSpaces, load := true, gather := true } .load true
/-- SCATTERQ (R168, R169). -/
def execScatterq (m : MForm) (s : State) : Host.Outcome State Fault Refusal :=
  s.queued m { spaces := queuedSpaces, store := true, gather := true, image := true } .store false
/-- PREF (R169). -/
def execPref (m : MForm) (s : State) : Host.Outcome State Fault Refusal :=
  s.queued m { spaces := queuedSpaces } .pref false

/-! ### Performing (R171, R229, R233 to R241) -/

/-- Replace the request with the same id. -/
def State.putReq (s : State) (q : Req) : State :=
  { s with reqs := s.reqs.map fun x => if x.id == q.id then q else x }

/-- A request is complete: its flag falls and its entry is freed; a weak store is kept for its
repetitions (R32, R170, R234). -/
def State.finishReq (s : State) (id : Nat) : State :=
  match s.reqs.find? fun q => q.id == id with
  | none => s
  | some q =>
    let keep := q.kind == .store && q.acls == .wk && (s.wale? q.wale).isSome && q.rel.isNone &&
      !(s.pendApplied.any fun p => p.ids.contains id) && q.elems.any fun e => !e.dead && !e.zero
    let s := ((s.shareReads q).clearPend id).onWale q.wale fun w => w.lower q.flag
    if keep then s.putReq { q with finished := true }
    else { s with reqs := s.reqs.filter fun x => x.id != id }

/-- Mark element `i` of a request done. -/
def State.markDone (s : State) (id i : Nat) (f : Elem → Elem) : State :=
  { s with reqs := s.reqs.map fun q =>
      if q.id == id then
        { q with elems := (q.elems.zip (List.range q.elems.length)).map fun (e, k) =>
            if k = i then { f e with done := true } else e }
      else q }

/-- A write of the wale ends the repetition of its earlier weak stores to the element, and its release that of every
earlier one (R234, R240). -/
def State.endRepeats (s : State) (q : Req) (e : Elem) : State :=
  let s := (s.unshare q.wale q.id e).onElems q.wale fun p x =>
    if p.kind == .store && x.done && decide (p.no ≤ q.no) && (x.overlaps e || (q.rel.isSome && decide (p.no < q.no))) then
      { x with dead := true } else x
  { s with reqs := s.reqs.filter fun p => !(p.finished && p.wale == q.wale && p.elems.all Elem.dead) }

/-- A release at `.grp` or `.clu` passes on what the wale has acquired: its cluster keeps no clean line that could not serve
the wale itself (R239). -/
def State.dropOld (s : State) (w : Wale) : State :=
  { s with clean := s.clean.filter fun x => x.cluster != clusterOf w.core || x.serves w s.clk }

/-- The release that a wale's access makes at `sc`: what it leaves on the location, with a new value of its die's counter
at `.dev` and wider, and of stamp entry 4 for a loop-back (R226, R237, R238, R246). -/
def State.release (s : State) (w : Wale) (sc : Scope) (loop : Bool) (far : List Req) : RelInfo × State :=
  let e := if loop then 4 else dieOf w.core
  let s := if sc == .grp || sc == .clu then s.dropOld w else s
  if sc.code < 4 then (⟨sc, w.core, w.wg, w.ctx, w.stamp⟩, s)
  else
    let k := s.relCount.getD e 0 + 1
    let dies := (far.flatMap fun p => (p.elems.filter fun x => !x.done && !x.zero).map fun x => homeDie x.loc 0).eraseDups
    let pend := dies.map fun d =>
      { die := d, e := e, k := k
        ids := (far.filter fun p => p.elems.any fun x => !x.done && !x.zero && homeDie x.loc 0 == d).map Req.id : PendApplied }
    (⟨sc, w.core, w.wg, w.ctx, stampJoin w.stamp (unitStamp e k)⟩,
     { s with relCount := setNth s.relCount e k, pendApplied := s.pendApplied ++ pend })

/-- A loop-back: a space-6 access of the package itself (R226). -/
def Req.loops (q : Req) : Bool := q.space == 6 && q.pkg == Config.packageNo

/-- The writes ordered before a release at `.die` or wider reach home first (R239). -/
def State.flushFor (s : State) (q : Req) : State :=
  if (match q.rel with | some sc => scHome sc | none => false) then s.flushCluster (clusterOf q.core) else s

/-- The images of a store's element that has been performed join the lane of its die (R309 to R314). -/
def State.pushImages (s : State) (q : Req) (w : Option Wale) (i : Nat) : State :=
  let wg := match w with | some w => w.wg | none => 0
  let step := if q.fmt = .f64 then 2 else 1
  let lo := i / step * step
  let es := (q.elems.drop lo).take step
  -- both halves of a pair must have been performed
  if es.all fun e => e.done then
    let v := leNat (es.flatMap fun e => leBytes e.size e.val.toNat)
    let size := (es.map Elem.size).foldl (· + ·) 0
    (q.imgs.filter fun p => p.i == lo).foldl (fun s p =>
      let (id, s) := s.fresh
      let (n, x) := match p.code with
        | some k => (if p.hi then 9 else 0, v / 16 ^ k % 16)
        | none => (size, imageVal q.fmt q.neg v)
      { s with images := s.images ++
          [{ id := id, wg := wg, wale := q.wale, lane := q.die, ctx := q.ctx, space := q.space, va := p.va, size := n
             val := BitVec.ofNat 64 x, stamp := (match w with | some w => w.stamp | none => q.stamp), stalled := false
             insn := q.insn, handle := q.handle }] }) s
  else s

/-- Element `i` of a queued load has its value: it is done, and its register is written unless a later instruction has
written it (R30). A `.wk` load's value may be shared. -/
def State.landLoad (s : State) (q : Req) (x : Nat × Elem) (v : Nat) : State :=
  let s := s.markDone q.id x.1 fun e => { e with read := if q.acls == .wk then some (BitVec.ofNat 64 v) else none }
  if x.2.dead then s
  else s.landV q.wale (q.reg + x.2.j) x.2.t q.no (memImage (if q.fmt = .f64 then .raw else q.fmt) v)

/-- What a load has read: it acquires when it is annotated, and a later FENCE.acq may acquire it (R238). -/
def State.readRels (s : State) (q : Req) (infos : List RelInfo) : State :=
  let s := s.onWale q.wale fun x => x.notice infos
  match q.acq with
  | some sc => s.acquireBy q.wale q.no infos sc q.rsp
  | none => s

/-- The value of an earlier `.wk` load of the wale that this one may share (R234, R240). -/
def State.shared (s : State) (q : Req) (e : Elem) : Option W64 :=
  if q.acls != .wk then none
  else match e.read with
    | some v => some v
    | none => (s.before q).findSome? fun p =>
        if p.kind == .load && !s.ownWrite q.wale p.no q.no e then
          (p.elems.find? fun x => x.done && x.loc == e.loc && x.size == e.size).bind Elem.read
        else none

/-- What the record of an error says of an element of a request (R358). -/
def State.errAt (s : State) (q : Req) (e : Elem) : ErrAt :=
  { ctx := q.ctx, core := q.core, slot := (match s.wale? q.wale with | some w => w.slot | none => 127), va := e.va
    body := coordWords e.cs, handle := some q.handle }

/-- Elements of a request are read at their home, or written there, and meet an uncorrectable word: what that leaves (R357). -/
def State.elemSpoiled (s : State) (q : Req) (es : List (Nat × Elem)) (wr : Bool) : Option State :=
  let n := (es.map fun x => x.2.size).foldl (· + ·) 0
  match es with
  | [] => none
  | x :: _ => if x.2.zero then none else s.spoiled x.2.loc n wr (s.errAt q x.2)

/-- Perform elements of a queued load at a place, whole (R171, R233, R234, R241); nothing happens when they may not be.
A cluster unit is at least 6 clk from the core each way (R227). -/
def State.performLoad (s : State) (q : Req) (w : Wale) (es : List (Nat × Elem)) (p : Place) : State :=
  let c := clusterOf q.core
  let l := match es with | x :: _ => x.2.loc | [] => 0
  let n := (es.map fun x => x.2.size).foldl (· + ·) 0
  let land (s : State) (vs : List Nat) : State := (es.zip vs).foldl (fun s x => s.landLoad q x.1 x.2) s
  let rsp (s : State) : State := if q.rsp then s.flushAll else s
  let fwd := es.filterMap fun x => s.forward q x.2
  let sh := es.filterMap fun x => s.shared q x.2
  if s.clk < q.at' || (q.rsp && s.flushAllHeld) then s
  else if es.all fun x => x.2.zero then land ((rsp s).readRels q []) (es.map fun _ => 0)
  else if fwd.length = es.length then land ((rsp s).readRels q []) (fwd.map BitVec.toNat)
  else if !fwd.isEmpty || s.clk < q.at' + 12 then s
  else if p == .merged then (if sh.length = es.length then land s (sh.map BitVec.toNat) else s)
  else if p == .cluster && !s.mustHome q l && !(q.rsp && (match q.acq with | some sc => scHome sc | none => false)) &&
      s.lineServes w c l n then
    let infos := es.flatMap fun x => s.relsAt c x.2.loc x.2.size true
    let s := es.foldl (fun s x => s.unshare q.wale q.id x.2) (s.readRels q infos)
    land s (es.map fun x => leNat (s.lineBytes c x.2.loc x.2.size))
  else if (p == .home || (p == .cluster && !s.mustHome q l)) && s.homeReady l q.core w.stamp then
    let s := rsp s
    let s := if locDevice l then s.flushLine c l else s
    match s.elemSpoiled q es false with
    | some t => t
    | none =>
      let infos := es.flatMap fun x => s.relsAt c x.2.loc x.2.size false
      let s := es.foldl (fun s x => s.unshare q.wale q.id x.2) (s.readRels q infos)
      (land s (es.map fun x => s.natAt x.2.loc x.2.size)).fillLine c l
  else s

/-- Whether a later weak store of the wale to exactly this element merges this one (R234). -/
def State.mergeable (s : State) (q : Req) (e : Elem) : Bool :=
  q.acls == .wk && q.rel.isNone &&
  (s.reqs.any fun p => p.wale == q.wale && p.open' && decide (q.no < p.no) && p.kind == .store && p.acls == .wk &&
    p.rel.isNone && !p.after.contains q.id && (p.elems.any fun x => !x.zero && !x.done && x.loc == e.loc && x.size == e.size) &&
    !(s.reqs.any fun r => r.wale == q.wale && r.open' && decide (q.no < r.no) && decide (r.no < p.no) &&
      (r.rel.isSome || r.acq.isSome || r.after.contains q.id ||
        (r.kind != .pref && r.elems.any fun x => !x.done && x.overlaps e)))) &&
  !(s.pendApplied.any fun a => a.ids.contains q.id)

/-- An element of a store is written at cluster `c`'s cache, or at home, with the releases it carries (R233, R237). -/
def State.storeAt (s : State) (q : Req) (e : Elem) (near : Bool) (infos : List RelInfo) : State :=
  let c := clusterOf q.core
  let bs := leBytes e.size e.val.toNat
  if near then ((s.putDirty c e.loc q.at' bs).putRels (cacheKey c e.loc) e.size infos).fitCache c
  else
    let s := if locDevice e.loc then s.flushLine c e.loc else s
    ((s.writeLoc e.loc bs).dropClean c e.loc).putRels e.loc e.size infos

/-- Finish a request whose elements are all done. -/
def State.finishIfDone (s : State) (id : Nat) : State :=
  match s.reqs.find? fun q => q.id == id with
  | some q => if q.open' && q.elems.all Elem.done then s.finishReq id else s
  | none => s

/-- The store that merges them has been performed: the wale's earlier merged stores to exactly its element are done (R234). -/
def State.mergeDone (s : State) (q : Req) (e : Elem) : State :=
  let merged (p : Req) (x : Elem) : Bool := p.kind == .store && decide (p.no < q.no) && x.dead && !x.done && x.loc == e.loc && x.size == e.size
  let ids := (s.reqs.filter fun p => p.wale == q.wale && p.elems.any (merged p)).map Req.id
  ids.foldl State.finishIfDone (s.onElems q.wale fun p x => if merged p x then { x with done := true } else x)

/-- A store's element is done, with those that it merges: older ones are not repeated over it, and its images join the
lane. -/
def State.stored (s : State) (q : Req) (w : Wale) (x : Nat × Elem) : State :=
  let s := ((s.mergeDone q x.2).endRepeats q x.2).markDone q.id x.1 id
  match s.reqs.find? fun r => r.id == q.id with
  | some r => s.pushImages r (some w) x.1
  | none => s

/-- A later store of the wale merges element `i` of a store, which is never performed; the element is done once the later
one has been performed (R234). -/
def State.merge (s : State) (q : Req) (i : Nat) : State :=
  { s with reqs := s.reqs.map fun r =>
      if r.id == q.id then
        { r with elems := (r.elems.zip (List.range r.elems.length)).map fun (e, k) => if k = i then { e with dead := true } else e }
      else r }

/-- Perform elements of a queued store at a place, whole (R229, R233, R234, R237). The images of one that is a release carry
its stamp, so that they come after what it orders (R246, R312). -/
def State.performStore (s : State) (q : Req) (w : Wale) (es : List (Nat × Elem)) (p : Place) : State :=
  let l := match es with | x :: _ => x.2.loc | [] => 0
  let near := p == .cluster && !s.mustHome q l
  if es.all fun x => x.2.zero then es.foldl (fun s x => s.markDone q.id x.1 id) s
  else if p == .merged then
    (if es.all fun x => s.mergeable q x.2 then es.foldl (fun s x => s.merge q x.1) s else s)
  else if s.clk < q.at' + 6 || !s.homeReady l q.core w.stamp || !(near || p == .home) then s
  else match (if near then none else s.elemSpoiled q es true) with
  | some t => t
  | none =>
    let n := (es.map fun x => x.2.size).foldl (· + ·) 0
    let s := if near then s else { s with badWords := healed s.badWords l n }
    let (infos, s) := match q.rel with
      | some sc =>
        let (r, s) := s.release w sc q.loops (s.relWaits q sc).2
        ([r], s)
      | none => ([], s)
    let w := { w with stamp := infos.foldl (fun st i => stampJoin st i.stamp) w.stamp }
    es.foldl (fun s x => (s.storeAt q x.2 near infos).stored q w x) (s.flushFor q)

/-- Element `e`, number `i`, of a request may be performed as far as the wale's own order goes. -/
def State.mayPerform (s : State) (q : Req) (w : Wale) (x : Nat × Elem) : Bool :=
  !x.2.done && !(q.kind == .store && x.2.dead) && !s.elementHeld q x.2 && !q.innerHeld x.1 x.2 && s.orderReady q x.2 w.wg

/-- Perform elements `is` of request `id` at a place, whole, when every rule that orders them allows it. -/
def State.perform (s : State) (id : Nat) (is : List Nat) (p : Place) : State :=
  match s.reqs.find? fun q => q.id == id with
  | none => s
  | some q =>
    match s.wale? q.wale with
    | some w =>
      let es := is.filterMap fun i => (q.elems[i]?).map fun e => (i, e)
      if es.isEmpty || es.any fun x => !s.mayPerform q w x then s
      else match q.kind with
        | .load => s.performLoad q w es p
        | .store => s.performStore q w es p
        | _ => s
    | none => s

/-- What has been performed of a weak store may be performed again, until a later write of the wale or a release ends it
(R234, R240). -/
def Req.repeats (q : Req) (e : Elem) : Bool := q.kind == .store && q.acls == .wk && q.rel.isNone && e.done && !e.dead && !e.zero

/-- Elements of a weak store that have been performed are performed again with the same values (R234, R240). -/
def State.performAgain (s : State) (q : Req) (m : Mask) (p : Place) : State :=
  match s.wale? q.wale with
  | none => s
  | some w =>
    if s.pendApplied.any fun a => a.ids.contains q.id then s
    else (q.elems.filter fun e => q.repeats e && m.getLsbD e.t).foldl (fun s e =>
      let near := p == .cluster && !s.mustHome q e.loc
      if s.homeReady e.loc q.core w.stamp && (near || (p == .home && (s.badWord e.loc e.size true).isNone)) then s.storeAt q e near []
      else s) s

/-- The elements of thread `t` that one event performs: of a weak f64 element either half may come first (R234). -/
def Req.halves (q : Req) (t k : Nat) : List Nat :=
  let is := (List.range q.elems.length).filter fun i =>
    match q.elems[i]? with | some e => e.t == t && !e.done | none => false
  if q.fmt == .f64 && q.acls == .wk && is.length == 2 then [is.getD (Config.freeChoice k 2 % 2) 0] else is

/-- The element numbers that are performed whole together: the two halves of an f64 that is not weak (R234). -/
def Req.groups (q : Req) (is : List Nat) : List (List Nat) :=
  if q.fmt == .f64 && q.acls != .wk then
    (threads.map fun t => is.filter fun i => match q.elems[i]? with | some e => e.t == t | none => false).filter
      fun g => !g.isEmpty
  else is.map fun i => [i]

/-- The 32-byte sector of a device element; none for any other (R325). -/
def Elem.sector (e : Elem) : Option Nat := if !e.zero && locDevice e.loc then some (e.loc / 32) else none

/-- A load has read a sector in part: no bank program may begin to write rows between its elements (R325). -/
def State.sectorSplit (s : State) : Bool :=
  s.reqs.any fun q => q.kind == .load && q.open' && q.elems.any fun e =>
    e.done && e.sector.isSome && q.elems.any fun x => !x.done && x.sector == e.sector

/-- While bank programs are at work the elements of a load in one sector are read together, or none of them (R325). -/
def State.wholeSectors (s : State) (q : Req) (w : Wale) (is : List Nat) : List Nat :=
  let all := (q.elems.zip (List.range q.elems.length)).map fun x => (x.2, x.1)
  let secs := is.filterMap fun i => (q.elems[i]?).bind Elem.sector
  let go := all.filter fun x => !x.2.done && (is.contains x.1 || (match x.2.sector with | some k => secs.contains k | none => false))
  let stuck := (go.filter fun x => !s.mayPerform q w x).filterMap fun x => x.2.sector
  (go.filter fun x => match x.2.sector with | some k => !stuck.contains k | none => true).map Prod.fst

/-- The elements that an event on the threads of a mask performs. -/
def State.picked (s : State) (q : Req) (m : Mask) : List (List Nat) :=
  let is := (threads.filter fun t => m.getLsbD t).flatMap fun t => q.halves t s.free
  match s.wale? q.wale with
  | some w => q.groups (if q.kind == .load && !s.banks.isEmpty then s.wholeSectors q w is else is)
  | none => []

/-- Perform the threads of a mask of a request. -/
def State.performMask (s : State) (q : Req) (m : Mask) (p : Place) : State :=
  let is := s.picked q m
  let s := if q.fmt == .f64 && q.acls == .wk then { s with free := s.free + 1 } else s
  (is.foldl (fun s g => s.perform q.id g p) s).finishIfDone q.id

/-- A completed returning atomic writes its registers, zero for an element that zero mode drops, and, for FADDB, the
predicate of the threads that were performed (R30, R160, R176, R177; log 110). -/
def State.landAtomic (s : State) (q : Req) (fadb : Bool) : State :=
  let s := q.elems.foldl (fun (s : State) e =>
    if e.dead then s else s.landV q.wale (q.reg + e.j) e.t q.no (if e.zero then 0 else e.val.truncate 32)) s
  let m := maskOf fun t => !q.predDead.getLsbD t && q.elems.any fun e => e.t == t && !e.zero
  let one := maskOf fun t => q.elems.any fun e => e.t == t && e.val2 != 0
  match s.wale? q.wale with
  | some w =>
    if !fadb then s
    else (s.supersede w .q q.pred q.no m).onWale q.wale fun w =>
      { w with q := mSet 0 w.q q.pred ((mGet 0 w.q q.pred &&& ~~~m) ||| (one &&& m)), inflight := w.older .q q.pred q.no m }
  | none => s

/-- QUEUED_LOAD_COMPLETE (R169): threads of a queued load or gather are performed at a place and
their registers written; the flag falls with the last. A returning atomic completes once performed, 12 clk after its
commit at the least when it goes by the cluster unit (R227). -/
def execQueuedLoadComplete (id : Nat) (m : Mask) (p : Place) (s : State) : Host.Outcome State Fault Refusal :=
  match s.reqs.find? fun q => q.id == id with
  | some q =>
    match q.kind with
    | .load => if q.open' then fin (s.performMask q m p) else .next s
    | .atomic op =>
      if q.open' && q.elems.all Elem.done && (q.space == 2 || q.space == 3 || decide (q.at' + 12 ≤ s.clk)) then
        fin ((s.landAtomic q (op == 9)).finishReq id)
      else .next s
    | _ => .next s
  | none => .next s

/-- QUEUED_STORE_PERFORMED (R169): threads of a queued store or scatter are performed at a place, those already performed
again (R234); the flag and entry are freed with the last. A reduction completes once performed. -/
def execQueuedStorePerformed (id : Nat) (m : Mask) (p : Place) (s : State) : Host.Outcome State Fault Refusal :=
  match s.reqs.find? fun q => q.id == id with
  | some q =>
    match q.kind with
    | .store => fin (let s := s.performAgain q m p; if q.open' then s.performMask q m p else s)
    | .red _ => if q.open' && q.elems.all Elem.done then .next (s.finishReq id) else .next s
    | _ => .next s
  | none => .next s

/-- PREF_ACCEPTED (R169): the common store has accepted a prefetch; its flag falls. -/
def execPrefAccepted (id : Nat) (s : State) : Host.Outcome State Fault Refusal :=
  match s.reqs.find? fun q => q.id == id with
  | some q => if q.kind == .pref && decide (q.at' + 6 ≤ s.clk) then .next (s.finishReq id) else .next s
  | none => .next s

/-- CLUSTER_CACHE_WRITE_BACK (R240): a cluster cache writes a line's bytes back to the home slice, unless their rows are a
running bank program's (R213). -/
def execClusterCacheWriteBack (cluster line : Nat) (s : State) : Host.Outcome State Fault Refusal :=
  .next (if s.bankHeld (line * 128) none then s else s.flushLine cluster (line * 128))

end Sys2Proof.Machine
end

