-- ==== Sys2Proof/Machine/Atomic.lean ====
section
/-!
DEFINITION. Sys2Proof/Machine/Atomic.lean: atomics and reductions (R176 to R178).
-/
namespace Sys2Proof.Machine

/-- A floating sum or maximum of f32 bits with `.rn`, subnormals kept, NaNs canonical (R121, R176). -/
def f32Op (f : FVal → FVal → FVal × Nat) (a b : Nat) : Nat :=
  let (v, e) := f (fmt32.decode a) (fmt32.decode b)
  (fmt32.write { mode := .rn, ftz := false, g := 0 } e v).bits

/-- RoundTo(f32, rn, a + b) on bits. -/
def f32Add (a b : Nat) : Nat := f32Op (FVal.add .rn) a b
/-- MAXNM on f32 bits. -/
def f32Max (a b : Nat) : Nat := f32Op (fun x y => FVal.minmax true true x y) a b
/-- MINNM on f32 bits. -/
def f32Min (a b : Nat) : Nat := f32Op (fun x y => FVal.minmax false true x y) a b

/-- The new value at the element, and FADDB's predicate bit (R176, R177), by op number of class
1001. `ty` tells signed from unsigned; `v2` is V[d+1][t]. -/
def atomNew (op : Nat) (ty : Ty) (old v v2 : Nat) : Nat × Nat :=
  let m := 2 ^ 32
  let lt (a b : Nat) : Bool :=
    if ty == .i32 then decide ((BitVec.ofNat 32 a).toInt < (BitVec.ofNat 32 b).toInt) else decide (a < b)
  match op with
  | 0 | 12 => ((old + v) % m, 0)
  | 1 => (if lt v old then v else old, 0)
  | 2 => (if lt old v then v else old, 0)
  | 3 => (old &&& v, 0)
  | 4 => (old ||| v, 0)
  | 5 => (old ^^^ v, 0)
  | 6 => (v, 0)
  | 7 => (if old = v2 then v else old, 0)
  | 8 => (if v ≤ old then 0 else old + 1, 0)
  | 9 => if old + v ≤ v2 then (old + v, 1) else (old, 0)
  | 10 | 13 => (f32Add old v, 0)
  | _ => (f32Max old v, 0)

/-- Whether an atomic is performed at the cluster unit (R178, R233). -/
def Req.atCluster (q : Req) (l : Nat) : Bool :=
  locDevice l && q.space != 6 && !scHome q.scope && !(match q.rel with | some sc => scHome sc | none => false)

/-- Whether it is performed at a Brynzen port over home memory, where accesses of the home slice may fall between its read
and its write (R178). -/
def Req.atPort (q : Req) (l : Nat) : Bool := locDevice l && q.space != 6 && q.scope == .sys

/-- Another atomic of the port has read the element and not yet written it. -/
def State.portBusy (s : State) (l : Nat) : Bool :=
  s.reqs.any fun q => q.elems.any fun e => e.old.isSome && e.loc == l

/-- The memory beneath an atomic stands at its level: at home, and for the port and the home slice what the cluster holds
of the line has been written back (R233). -/
def State.atLevel (s : State) (q : Req) (w : Wale) (l : Nat) : State :=
  let s := if q.rsp then s.flushAll else s
  if locDevice l && !(q.atCluster l && s.lineServes w (clusterOf q.core) l 4) then s.flushLine (clusterOf q.core) l else s

/-- What an atomic has read: an annotated one acquires, and a later FENCE.acq may acquire a returning one (R238). -/
def State.atomicRels (s : State) (q : Req) (infos : List RelInfo) : State :=
  match q.acq, q.kind with
  | none, .red _ => s
  | _, _ => s.readRels q infos

/-- The write of an atomic's element `i` after it has read `old`: its release, what it carries on of the release sequence
it continues, and its value (R176, R177, R238). -/
def State.atomicWrite (s : State) (q : Req) (w : Wale) (i : Nat) (e : Elem) (op old : Nat) : State :=
  let c := clusterOf q.core
  let near := q.atCluster e.loc
  let infos := s.relsAt c e.loc 4 near
  let (new, pr) := atomNew op q.fmt old e.val.toNat e.val2.toNat
  let (left, s) := match q.rel with
    | some sc =>
      let (r, s) := s.release w sc q.loops (s.relWaits q sc).2
      (infos ++ [r], s)
    | none => (infos, s)
  let s := (s.flushFor q).endRepeats q e
  let bs := leBytes 4 new
  let s :=
    if near then ((s.putDirty c e.loc q.at' bs).putRels (cacheKey c e.loc) 4 left).fitCache c
    else ((s.writeLoc e.loc bs).dropClean c e.loc).putRels e.loc 4 left
  s.markDone q.id i fun e => { e with val := BitVec.ofNat 64 old, val2 := BitVec.ofNat 32 pr, old := none }

/-- Perform the next atomic of a request, in ascending t (R176), at the level that its space and scope select (R178): one
step, but at the port, where one step reads and the next writes. By the cluster unit it takes 6 clk at the least (R227). -/
def State.performAtomic (s : State) (q : Req) (op : Nat) : State :=
  match (q.elems.zip (List.range q.elems.length)).find? fun p => !p.1.done, s.wale? q.wale with
  | some (e, i), some w =>
    let c := clusterOf q.core
    let nearOpen := s.near.any fun o => o.wale == q.wale && decide (o.no < q.no)
    let early := if q.space = 2 ∨ q.space = 3 then s.clk < q.at' else s.clk < q.at' + 6
    if early || nearOpen || (q.rsp && s.flushAllHeld) || s.elementHeld q e || !s.orderReady q e w.wg || !s.homeReady e.loc q.core w.stamp then s
    else match e.old with
      | some v => (s.atLevel q w e.loc).atomicWrite q w i e op v.toNat
      | none =>
        if q.atPort e.loc && s.portBusy e.loc then s
        else
          let s := s.atLevel q w e.loc
          let near := q.atCluster e.loc && s.lineServes w c e.loc 4
          match (if near then none else s.elemSpoiled q [(i, e)] false) with
          | some t => t
          | none =>
          let old := leNat (if near then s.lineBytes c e.loc 4 else s.bytesAt e.loc 4)
          let s := s.atomicRels q (s.relsAt c e.loc 4 near)
          let w := (s.wale? q.wale).getD w
          if q.atPort e.loc then
            { s with reqs := s.reqs.map fun r =>
                if r.id == q.id then { r with elems := setNth r.elems i { e with old := some (BitVec.ofNat 32 old) } } else r }
          else s.atomicWrite q w i e op old
  | _, _ => s

/-! ### Issue -/

/-- The beats of an atomic: a scratchpad element is placed in its window, with no translation (R162, R225). -/
def State.atomicBeats (s : State) (m : MForm) (op : MemOp) (kind : ReqKind) (w : Wale) (l : List MCtx) :
    Host.Outcome State Fault Refusal :=
  let ps := l.map fun x =>
    (x, (w.facePlan op x s.clk).map fun p => if decide (2 ≤ lSpace x.r ∧ lSpace x.r ≤ 3) then s.nearPlace w x p else p)
  let s1 := s.holdPipe w (s.clk + 4)
  match beatTrap (ps.flatMap Prod.snd) (s.clk + 4) with
  | some r => .next (s1.takeTrap w r)
  | none =>
    let qs := ps.map fun (x, p) => s.mkReq w m op x kind (planElems p)
    if qs.any fun q => !(q.space == 2 || q.space == 3) && s.reqMisses q then
      .next (s1.putWale { w with latch := some (.walk qs s.clk), held := some ⟨.parked, s.clk, false⟩ })
    else s1.commitReqs w qs s.clk

/-- AN ATOMIC OR REDUCTION (R176): as a queued instruction, on every space but tile memory. -/
def State.atomicOp (s : State) (m : MForm) (kind : ReqKind) (fmts : List Ty) (two : Bool) :
    Host.Outcome State Fault Refusal :=
  let ret := kind.isLoad
  let op : MemOp := { spaces := [0, 1, 2, 3, 5, 6], fmtOk := fun t => decide (t ∈ fmts), load := ret, store := true
                      two := two, noImage := true, disp := kind != .atomic 9 }
  s.withCur fun w =>
    let act := w.active m.face
    let fs := m.fa :: m.fb.toList
    if w.kind != .wale then s.raise w .illegalField 0
    else if ret && (fs.any fun f => (w.flagSel f.fsel).isNone) then s.raise w .illegalMod act
    else if !w.faceOk m.face then s.raise w .meldIllegal act
    else if !w.canRaiseAll (w.mFlags m) then .next (s.hold w .flagWait false)
    else if act != 0 && decide (16 ≤ s.entries w ret) then
      .next (s.hold w (if ret then .loadQFull else .storeQFull) false)
    else match s.memCheck w m op with
      | .trap r => .next (s.takeTrap w r)
      | .empty => .next (s.issued w 0)
      | .go l => s.atomicBeats m op kind w l

/-- Every format of 32 bits an element (R35, R176, R222). -/
def tys32Bit : List Ty := [.raw, .i32, .n32, .f32, .i16x2, .bf16x2]

/-- ATOM.ADD (R176). -/
def execAtomAdd (m : MForm) (s : State) : Host.Outcome State Fault Refusal := s.atomicOp m (.atomic 0) tys32 false
/-- ATOM.MIN (R176). -/
def execAtomMin (m : MForm) (s : State) : Host.Outcome State Fault Refusal := s.atomicOp m (.atomic 1) tys32 false
/-- ATOM.MAX (R176). -/
def execAtomMax (m : MForm) (s : State) : Host.Outcome State Fault Refusal := s.atomicOp m (.atomic 2) tys32 false
/-- ATOM.AND (R176). -/
def execAtomAnd (m : MForm) (s : State) : Host.Outcome State Fault Refusal :=
  s.atomicOp m (.atomic 3) (.raw :: tys32) false
/-- ATOM.OR (R176). -/
def execAtomOr (m : MForm) (s : State) : Host.Outcome State Fault Refusal :=
  s.atomicOp m (.atomic 4) (.raw :: tys32) false
/-- ATOM.XOR (R176). -/
def execAtomXor (m : MForm) (s : State) : Host.Outcome State Fault Refusal :=
  s.atomicOp m (.atomic 5) (.raw :: tys32) false
/-- ATOM.XCHG (R176). -/
def execAtomXchg (m : MForm) (s : State) : Host.Outcome State Fault Refusal := s.atomicOp m (.atomic 6) tys32Bit false
/-- ATOM.CAS (R176). -/
def execAtomCas (m : MForm) (s : State) : Host.Outcome State Fault Refusal := s.atomicOp m (.atomic 7) tys32Bit true
/-- ATOM.INCW (R177). -/
def execAtomIncw (m : MForm) (s : State) : Host.Outcome State Fault Refusal := s.atomicOp m (.atomic 8) [.n32] false
/-- ATOM.FADDB (R177). -/
def execAtomFaddb (m : MForm) (s : State) : Host.Outcome State Fault Refusal := s.atomicOp m (.atomic 9) [.n32] true
/-- ATOM.FADD (R176). -/
def execAtomFadd (m : MForm) (s : State) : Host.Outcome State Fault Refusal := s.atomicOp m (.atomic 10) [.f32] false
/-- ATOM.FMAX (R176). -/
def execAtomFmax (m : MForm) (s : State) : Host.Outcome State Fault Refusal := s.atomicOp m (.atomic 11) [.f32] false
/-- RED.ADD (R176). -/
def execRedAdd (m : MForm) (s : State) : Host.Outcome State Fault Refusal := s.atomicOp m (.red 12) tys32 false
/-- RED.FADD (R176). -/
def execRedFadd (m : MForm) (s : State) : Host.Outcome State Fault Refusal := s.atomicOp m (.red 13) [.f32] false
/-- RED.FMAX (R176). -/
def execRedFmax (m : MForm) (s : State) : Host.Outcome State Fault Refusal := s.atomicOp m (.red 14) [.f32] false

end Sys2Proof.Machine
end

