-- ==== Sys2Proof/Machine/Int.lean ====
section
/-!
DEFINITION. Sys2Proof/Machine/Int.lean: the vector operations of class 0010 (R95 to R113).
-/
namespace Sys2Proof.Machine

/-! ### Integer values and images (R35, R96, R97) -/

/-- The values of an operand's elements: one, or two for i16×2 (R35, R96). -/
def elems (ty : Ty) (v : W32) : List Int :=
  match ty with
  | .i16x2 => [readInt 16 true v.toNat, readInt 16 true (v.toNat / 65536)]
  | .i8 | .i16 | .i32 => [v.toInt]
  | _ => [(v.toNat : Int)]

/-- Reduce modulo 2^w and read back in the range of a type, or clamp under `.sat` (R97). -/
def fitInt (ty : Ty) (sat : Bool) (x : Int) : Int :=
  if sat then max ty.minVal (min ty.maxVal x)
  else readInt ty.width ty.signed (x % 2 ^ ty.width).toNat

/-- The image of elements in their register (R35, R96). -/
def putInt (ty : Ty) (xs : List Int) : W32 :=
  match ty, xs with
  | .i16x2, [a, b] => BitVec.ofInt 32 (b % 65536 * 65536 + a % 65536)
  | _, x :: _ => BitVec.ofInt 32 x
  | _, [] => 0

/-- Element-wise application of an exact operation to one, two or three operands. -/
def mapElems (ty : Ty) (sat : Bool) (f : Int → Int → Int → Int) (a b c : W32) : W32 :=
  let get (v : W32) (i : Nat) := (elems ty v).getD i 0
  putInt ty ((List.range (elems ty a).length).map fun i => fitInt ty sat (f (get a i) (get b i) (get c i)))

/-- The tag of its TYPE on every source (R25). -/
def sameTag (ty : Ty) : Opnds → Nat → List Ty := fun _ _ => [ty]

/-- TYPE on A, and i32 or n32 on the sources listed: shift counts and bit-field controls (R104, R106). -/
def countTag (ty : Ty) (roles : List Nat) : Opnds → Nat → List Ty :=
  fun _ r => if roles.contains r then [.i32, .n32] else [ty]

/-- An integer operation on 32-bit images. -/
def imgOp (ty : Ty) (tags : Opnds → Nat → List Ty) (f : Opnds → W32 → W32 → W32 → W32) : VOp :=
  { tag := ty, tags := tags
    fn := fun o _ seed a b c =>
      { vals := [f o (a.truncate 32) (b.truncate 32) (c.truncate 32)], seed := seed } }

/-- The arithmetic of R102: exact, then wrapped or saturated. -/
def arithOp (ty : Ty) (f : Int → Int → Int → Int) : VOp :=
  imgOp ty (sameTag ty) fun o a b c => mapElems ty o.mods.sat f a b c

/-- ADD (R102). -/
def execAddInt (g : G) (s : State) : Host.Outcome State Fault Refusal :=
  s.vector g (arithOp g.ty fun a b _ => a + b)
/-- SUB (R102). -/
def execSubInt (g : G) (s : State) : Host.Outcome State Fault Refusal :=
  s.vector g (arithOp g.ty fun a b _ => a - b)
/-- MUL (R102). -/
def execMulInt (g : G) (s : State) : Host.Outcome State Fault Refusal :=
  s.vector g (arithOp g.ty fun a b _ => a * b)
/-- MULHI (R102): floor of the product over 2^32. -/
def execMulhi (g : G) (s : State) : Host.Outcome State Fault Refusal :=
  s.vector g (arithOp g.ty fun a b _ => a * b / 2 ^ 32)
/-- MAD (R102). -/
def execMad (g : G) (s : State) : Host.Outcome State Fault Refusal :=
  s.vector g (arithOp g.ty fun a b c => a * b + c)
/-- ABS (R102). -/
def execAbsInt (g : G) (s : State) : Host.Outcome State Fault Refusal :=
  s.vector g (arithOp g.ty fun a _ _ => a.natAbs)
/-- NEG (R102). -/
def execNegInt (g : G) (s : State) : Host.Outcome State Fault Refusal :=
  s.vector g (arithOp g.ty fun a _ _ => -a)
/-- MIN (R102). -/
def execMinInt (g : G) (s : State) : Host.Outcome State Fault Refusal :=
  s.vector g (arithOp g.ty fun a b _ => min a b)
/-- MAX (R102). -/
def execMaxInt (g : G) (s : State) : Host.Outcome State Fault Refusal :=
  s.vector g (arithOp g.ty fun a b _ => max a b)

/-- Quotient or remainder, truncated toward zero; INT_DIV0 on a zero divisor (R103). -/
def divOp (ty : Ty) (f : Int → Int → Int) : VOp :=
  { lat := 24, occ := 8, tag := ty, tags := sameTag ty
    fn := fun o _ seed a b _ =>
      let y := (elems ty (b.truncate 32)).getD 0 0
      { vals := [mapElems ty o.mods.sat (fun a b _ => f a b) (a.truncate 32) (b.truncate 32) 0]
        cause := if y == 0 then some .intDiv0 else none, seed := seed } }

/-- DIV (R103). -/
def execDiv (g : G) (s : State) : Host.Outcome State Fault Refusal := s.vector g (divOp g.ty Int.tdiv)
/-- REM (R103). -/
def execRem (g : G) (s : State) : Host.Outcome State Fault Refusal := s.vector g (divOp g.ty Int.tmod)

/-! ### Logic, shifts and bit fields (R104 to R106) -/

/-- Place a 32-bit result by R35 for a type: the low bits, extended (R104). -/
def placeImage (ty : Ty) (v : W32) : W32 := scalarImage ty v

/-- A bitwise operation. -/
def logicOp (ty : Ty) (f : W32 → W32 → W32) : VOp :=
  imgOp ty (sameTag ty) fun _ a b _ => placeImage ty (f a b)

/-- AND (R104). -/
def execAnd (g : G) (s : State) : Host.Outcome State Fault Refusal := s.vector g (logicOp g.ty (· &&& ·))
/-- OR (R104). -/
def execOr (g : G) (s : State) : Host.Outcome State Fault Refusal := s.vector g (logicOp g.ty (· ||| ·))
/-- XOR (R104). -/
def execXor (g : G) (s : State) : Host.Outcome State Fault Refusal := s.vector g (logicOp g.ty (· ^^^ ·))
/-- NOT (R104). -/
def execNot (g : G) (s : State) : Host.Outcome State Fault Refusal := s.vector g (logicOp g.ty fun a _ => ~~~a)

/-- A shift of a `w`-bit pattern by an unsigned count (R104). -/
def shlN (w a n : Nat) : Nat := if n ≥ w then 0 else a * 2 ^ n % 2 ^ w
/-- Right shift with zero fill (R104). -/
def shrN (w a n : Nat) : Nat := if n ≥ w then 0 else a / 2 ^ n
/-- Right shift with fill from the top bit (R104). -/
def sarN (w a n : Nat) : Nat :=
  if a < 2 ^ (w - 1) then shrN w a n
  else if n ≥ w then 2 ^ w - 1 else a / 2 ^ n + (2 ^ w - 2 ^ (w - n))

/-- A shift on each element (R96, R104). -/
def shiftImage (ty : Ty) (f : Nat → Nat → Nat → Nat) (a b : W32) : W32 :=
  match ty with
  | .i16x2 =>
    BitVec.ofNat 32 (f 16 (a.toNat / 65536) (b.toNat / 65536) * 65536 + f 16 (a.toNat % 65536) (b.toNat % 65536))
  | _ => BitVec.ofNat 32 (f 32 a.toNat b.toNat)

/-- SHL, SHR and SAR: the count may carry i32 or n32, or i16×2 for the packed type (R104). -/
def shiftOp (ty : Ty) (f : Nat → Nat → Nat → Nat) : VOp :=
  imgOp ty (if ty == .i16x2 then sameTag ty else countTag ty [2]) fun _ a b _ => shiftImage ty f a b

/-- SHL (R104). -/
def execShl (g : G) (s : State) : Host.Outcome State Fault Refusal := s.vector g (shiftOp g.ty shlN)
/-- SHR (R104). -/
def execShr (g : G) (s : State) : Host.Outcome State Fault Refusal := s.vector g (shiftOp g.ty shrN)
/-- SAR (R104). -/
def execSar (g : G) (s : State) : Host.Outcome State Fault Refusal := s.vector g (shiftOp g.ty sarN)
/-- ROT (R104). -/
def execRot (g : G) (s : State) : Host.Outcome State Fault Refusal :=
  s.vector g (imgOp g.ty (countTag g.ty [2]) fun _ a b _ => a.rotateLeft (b.toNat % 32))

/-- The number of 1 bits (R105). -/
def popc32 (v : W32) : Nat := (threads.filter fun i => v.getLsbD i).length
/-- The number of 0 bits above the highest 1 bit (R105). -/
def clz32 (v : W32) : Nat := if v == 0 then 32 else 31 - v.toNat.log2
/-- Bit i moves to bit 31 − i (R105). -/
def brev32 (v : W32) : W32 := maskOf fun i => v.getLsbD (31 - i)

/-- POPC (R105). -/
def execPopc (g : G) (s : State) : Host.Outcome State Fault Refusal :=
  s.vector g (imgOp g.ty (sameTag g.ty) fun _ a _ _ => BitVec.ofNat 32 (popc32 a))
/-- CLZ (R105). -/
def execClz (g : G) (s : State) : Host.Outcome State Fault Refusal :=
  s.vector g (imgOp g.ty (sameTag g.ty) fun _ a _ _ => BitVec.ofNat 32 (clz32 a))
/-- BREV (R105). -/
def execBrev (g : G) (s : State) : Host.Outcome State Fault Refusal :=
  s.vector g (imgOp g.ty (sameTag g.ty) fun _ a _ _ => brev32 a)

/-- The field of `a` at offset `b` of width `c`, extended by signedness (R106). -/
def bfx32 (sg : Bool) (a b c : W32) : W32 :=
  if c == 0 || decide (b.toNat ≥ 32) then 0
  else
    let w := min (b.toNat + c.toNat) 32 - b.toNat
    BitVec.ofInt 32 (readInt w sg (a.toNat / 2 ^ b.toNat))

/-- `a` with the field that control word `c` names replaced from `b` (R106). -/
def bfi32 (a b c : W32) : W32 :=
  let off := c.toNat % 256
  let wid := c.toNat / 256 % 256
  if wid = 0 ∨ off ≥ 32 then a
  else
    let n := min (off + wid) 32 - off
    let old := a.toNat / 2 ^ off % 2 ^ n
    BitVec.ofNat 32 (a.toNat - old * 2 ^ off + b.toNat % 2 ^ n * 2 ^ off)

/-- BFX (R106). -/
def execBfx (g : G) (s : State) : Host.Outcome State Fault Refusal :=
  s.vector g (imgOp g.ty (countTag g.ty [2, 3]) fun _ a b c => bfx32 g.ty.signed a b c)
/-- BFI (R106). -/
def execBfi (g : G) (s : State) : Host.Outcome State Fault Refusal :=
  s.vector g (imgOp g.ty (countTag g.ty [3]) fun _ a b c => bfi32 a b c)

/-! ### 64-bit integers (R107) -/

/-- The two words of a 64-bit value, low first (R7). -/
def words64 (x : W64) : List W32 := [x.truncate 32, (x >>> 32).truncate 32]

/-- A 64-bit sum or difference, wrapped or clamped (R36, R107). -/
def wide64 (ty : Ty) (sat : Bool) (f : Int → Int → Int) (a b : W64) : W64 :=
  let val (x : W64) : Int := if ty.signed then x.toInt else x.toNat
  let x := f (val a) (val b)
  let lo : Int := if ty.signed then -2 ^ 63 else 0
  let hi : Int := if ty.signed then 2 ^ 63 - 1 else 2 ^ 64 - 1
  BitVec.ofInt 64 (if sat then max lo (min hi x) else x)

/-- ADD64 and SUB64: pairs, both halves tagged TYPE (R107). -/
def op64 (ty : Ty) (f : Int → Int → Int) : VOp :=
  { tag := ty, outs := 2, tags := sameTag ty, wide := fun _ _ => true
    fn := fun o _ seed a b _ => { vals := words64 (wide64 ty o.mods.sat f a b), seed := seed } }

/-- ADD64 (R107). -/
def execAdd64 (g : G) (s : State) : Host.Outcome State Fault Refusal := s.vector g (op64 g.ty (· + ·))
/-- SUB64 (R107). -/
def execSub64 (g : G) (s : State) : Host.Outcome State Fault Refusal := s.vector g (op64 g.ty (· - ·))
/-- The value of a one-element operand. -/
def val0 (ty : Ty) (x : W64) : Int := (elems ty (x.truncate 32)).getD 0 0
/-- The exact 64-bit product of 32-bit values (R107). -/
def mulwOp (ty : Ty) : VOp :=
  { tag := ty, outs := 2, tags := sameTag ty
    fn := fun _ _ seed a b _ => { vals := words64 (BitVec.ofInt 64 (val0 ty a * val0 ty b)), seed := seed } }
/-- MULW (R107). -/
def execMulw (g : G) (s : State) : Host.Outcome State Fault Refusal := s.vector g (mulwOp g.ty)

/-! ### Compares, predicates and select (R108 to R110) -/

/-- A compare of integer values into a predicate (R108). -/
def cmpIntOp (ty : Ty) : VOp :=
  { tag := ty, file := .q, tags := sameTag ty
    fn := fun o _ seed a b _ =>
      { vals := [boolWord (condHolds o.mods.cond (val0 ty a) (val0 ty b))], seed := seed } }
/-- CMP (R108). -/
def execCmpInt (g : G) (s : State) : Host.Outcome State Fault Refusal := s.vector g (cmpIntOp g.ty)

/-- A logic operation on predicates (R109). -/
def predOp (f : Bool → Bool → Bool) : VOp :=
  { tag := .raw, file := .q, tags := fun _ _ => []
    fn := fun _ _ seed a b _ => { vals := [boolWord (f (a != 0) (b != 0))], seed := seed } }

/-- PAND (R109). -/
def execPand (g : G) (s : State) : Host.Outcome State Fault Refusal := s.vector g (predOp (· && ·))
/-- POR (R109). -/
def execPor (g : G) (s : State) : Host.Outcome State Fault Refusal := s.vector g (predOp (· || ·))
/-- PXOR (R109). -/
def execPxor (g : G) (s : State) : Host.Outcome State Fault Refusal := s.vector g (predOp (· != ·))
/-- PNOT (R109). -/
def execPnot (g : G) (s : State) : Host.Outcome State Fault Refusal := s.vector g (predOp fun a _ => !a)

/-- Both halves of a 64-bit operand when TYPE is f64 (R7). -/
def pairIfF64 (ty : Ty) : Opnds → Nat → Bool := fun _ r => ty == .f64 && decide (r ≤ 2)

/-- The words of a result: a pair for f64, else one. -/
def resWords (ty : Ty) (x : W64) : List W32 := if ty == .f64 then words64 x else [x.truncate 32]

/-- A bit copy of TYPE (R110, R111). -/
def copyOp (ty : Ty) (f : W64 → W64 → W64 → W64) : VOp :=
  { tag := ty, outs := if ty == .f64 then 2 else 1, tags := sameTag ty, wide := pairIfF64 ty
    fn := fun _ _ seed a b c => { vals := resWords ty (f a b c), seed := seed } }

/-- SEL (R110). -/
def execSel (g : G) (s : State) : Host.Outcome State Fault Refusal :=
  s.vector g (copyOp g.ty fun a b q => if q != 0 then a else b)
/-- MOV (R111). -/
def execMov (g : G) (s : State) : Host.Outcome State Fault Refusal := s.vector g (copyOp g.ty fun a _ _ => a)
/-- MOVI of a vector (R111). -/
def execMoviVector (g : G) (s : State) : Host.Outcome State Fault Refusal :=
  s.vector g (copyOp g.ty fun _ b _ => b)
/-- MOVSV (R111). -/
def execMovsv (g : G) (s : State) : Host.Outcome State Fault Refusal := s.vector g (copyOp g.ty fun a _ _ => a)

/-! ### Index registers (R113) -/

/-- An operation that writes an index register, modulo 256 (R113). -/
def idxOp (ty : Ty) (f : Nat → Nat → Nat) : VOp :=
  { tag := ty, file := .x, tags := sameTag ty
    fn := fun _ _ seed a b _ => { vals := [BitVec.ofNat 32 (f a.toNat b.toNat % 256)], seed := seed } }
/-- An index register read into a vector as n32 (R113). -/
def xgetOp : VOp :=
  { tag := .n32, tags := fun _ _ => []
    fn := fun _ _ seed a _ _ => { vals := [a.truncate 32], seed := seed } }
/-- XMOV (R113). -/
def execXmov (g : G) (s : State) : Host.Outcome State Fault Refusal := s.vector g (idxOp g.ty fun a _ => a)
/-- XADD (R113). -/
def execXadd (g : G) (s : State) : Host.Outcome State Fault Refusal := s.vector g (idxOp g.ty fun a b => a + b)
/-- XGET (R113). -/
def execXget (g : G) (s : State) : Host.Outcome State Fault Refusal := s.vector g xgetOp

end Sys2Proof.Machine
end

