-- ==== Sys2Proof/Machine/Float.lean ====
section
/-!
DEFINITION. Sys2Proof/Machine/Float.lean: the operations of class 0011 (R118 to R128).
-/
namespace Sys2Proof.Machine

/-- The rounding choices of an operand set's modifiers with a seed (R43, R45). -/
def Mods.ctl (m : Mods) (g : W32) : RCtl := { mode := m.rm, ftz := m.ftz, g := g.toNat }

/-- The seed after one element is rounded: it advances under `.rs` only (R45). -/
def stepSeed (m : Mods) (g : W32) : W32 := if m.rm == .rs then nextSeed g else g

/-- An operation on one element: format, modifiers, random word and operand images to the result. -/
abbrev ElemOp := FFmt → Mods → W32 → Nat → Nat → Nat → Rounded

/-- An element operation on the images of a type: one element, or two for bf16×2 (R118). -/
def fltRes (ty : Ty) (f : ElemOp) (m : Mods) (seed : W32) (a b c : W64) : ERes :=
  match ty with
  | .bf16x2 =>
    let g0 := stepSeed m seed
    let r0 := f fmtBf m g0 (a.toNat % 65536) (b.toNat % 65536) (c.toNat % 65536)
    let g1 := stepSeed m g0
    let r1 := f fmtBf m g1 (a.toNat / 65536 % 65536) (b.toNat / 65536 % 65536) (c.toNat / 65536 % 65536)
    { vals := [BitVec.ofNat 32 (r1.bits * 65536 + r0.bits)], exc := r0.exc ||| r1.exc, seed := g1 }
  | _ =>
    let g := stepSeed m seed
    let r := f (fmtOf ty) m g a.toNat b.toNat c.toNat
    { vals := resWords ty (BitVec.ofNat 64 r.bits), exc := r.exc, seed := g }

/-- Latency and occupancy of class 0011: f64 takes beats of 2 clk (R119). -/
def fltLat (ty : Ty) : Nat := if ty == .f64 then 12 else 8
/-- Occupancy by type (R119). -/
def fltOcc (ty : Ty) : Nat := if ty == .f64 then 8 else 4

/-- All operands wide for f64 (R7). -/
def allWide (ty : Ty) : Opnds → Nat → Bool := fun _ _ => ty == .f64

/-- A float operation of R121. -/
def fltVOp (ty : Ty) (f : ElemOp) : VOp :=
  { lat := fltLat ty, occ := fltOcc ty, tag := ty, outs := if ty == .f64 then 2 else 1
    tags := sameTag ty, wide := allWide ty
    fn := fun o _ seed a b c => fltRes ty f o.mods seed a b c }

/-- A two-operand operation on decoded values. -/
def binF (op : RMode → FVal → FVal → FVal × Nat) : ElemOp := fun f m g a b _ =>
  let (v, x) := op m.rm (f.read m.ftz a) (f.read m.ftz b)
  f.write (Mods.ctl m g) x v

/-- ADD (R121). -/
def execAddFlt (g : G) (s : State) : Host.Outcome State Fault Refusal :=
  s.vector g (fltVOp g.ty (binF FVal.add))
/-- SUB (R121). -/
def execSubFlt (g : G) (s : State) : Host.Outcome State Fault Refusal :=
  s.vector g (fltVOp g.ty (binF fun m a b => a.add m b.neg))
/-- MUL (R121). -/
def execMulFlt (g : G) (s : State) : Host.Outcome State Fault Refusal :=
  s.vector g (fltVOp g.ty (binF fun _ a b => a.mul b))
/-- a × b + c, rounded once (R121). -/
def fmaF : ElemOp := fun f m g a b c =>
  let (v, x) := FVal.fma m.rm (f.read m.ftz a) (f.read m.ftz b) (f.read m.ftz c)
  f.write (Mods.ctl m g) x v
/-- FMA (R121). -/
def execFma (g : G) (s : State) : Host.Outcome State Fault Refusal := s.vector g (fltVOp g.ty fmaF)
/-- MIN (R121). -/
def execMinFlt (g : G) (s : State) : Host.Outcome State Fault Refusal :=
  s.vector g (fltVOp g.ty (binF fun _ a b => a.minmax false false b))
/-- MAX (R121). -/
def execMaxFlt (g : G) (s : State) : Host.Outcome State Fault Refusal :=
  s.vector g (fltVOp g.ty (binF fun _ a b => a.minmax true false b))
/-- MINNM (R121). -/
def execMinnm (g : G) (s : State) : Host.Outcome State Fault Refusal :=
  s.vector g (fltVOp g.ty (binF fun _ a b => a.minmax false true b))
/-- MAXNM (R121). -/
def execMaxnm (g : G) (s : State) : Host.Outcome State Fault Refusal :=
  s.vector g (fltVOp g.ty (binF fun _ a b => a.minmax true true b))

/-- A one-operand operation on decoded values. -/
def unF (op : FVal → FVal × Nat) : ElemOp := fun f m g a _ _ =>
  let (v, x) := op (f.read m.ftz a)
  f.write (Mods.ctl m g) x v

/-- The value with sign 0; a NaN stays itself. -/
def FVal.abs (v : FVal) : FVal := if v.sgn then v.neg else v

/-- ABS (R121). -/
def execAbsFlt (g : G) (s : State) : Host.Outcome State Fault Refusal :=
  s.vector g (fltVOp g.ty (unF fun a => (a.abs, sigExc [a])))
/-- NEG (R121). -/
def execNegFlt (g : G) (s : State) : Host.Outcome State Fault Refusal :=
  s.vector g (fltVOp g.ty (unF fun a => (a.neg, sigExc [a])))

/-- a's bits with b's sign bit (R121). -/
def cpysgnF : ElemOp := fun f _ _ a b _ =>
  let top := 2 ^ (f.width - 1)
  ⟨a % top + b / top % 2 * top, 0⟩
/-- CPYSGN (R121). -/
def execCpysgn (g : G) (s : State) : Host.Outcome State Fault Refusal := s.vector g (fltVOp g.ty cpysgnF)

/-! ### Compare and classify (R122, R123) -/

/-- The value of a float condition and the exceptions it raises (R122). -/
def fcond (cond : Nat) (a b : FVal) : Bool × Nat :=
  let un := a.isNan || b.isNan
  let lt := !un && a.lt b
  let gt := !un && b.lt a
  let eq := !un && !a.lt b && !b.lt a
  let v := match cond with
    | 0 => eq | 1 => !eq | 2 => lt | 3 => lt || eq | 4 => gt | 5 => gt || eq
    | 6 => un | 7 => !un | 8 => un || eq | 9 => !un && !eq
    | 10 => un || lt | 11 => un || lt || eq | 12 => un || gt | _ => un || gt || eq
  let quiet := !(decide (2 ≤ cond) && decide (cond ≤ 5))
  (v, if quiet then sigExc [a, b] else if un then excInvalid else 0)

/-- A float operation that writes a predicate. -/
def fltPred (ty : Ty) (f : Mods → Nat → Nat → Bool × Nat) : VOp :=
  { lat := fltLat ty, occ := fltOcc ty, tag := ty, file := .q, tags := sameTag ty, wide := allWide ty
    fn := fun o _ seed a b _ =>
      let (v, x) := f o.mods a.toNat b.toNat
      { vals := [boolWord v], exc := x, seed := seed } }

/-- CMP (R122). -/
def execCmpFlt (g : G) (s : State) : Host.Outcome State Fault Refusal :=
  s.vector g (fltPred g.ty fun m a b => fcond m.cond ((fmtOf g.ty).decode a) ((fmtOf g.ty).decode b))

/-- Membership in a class of R123. -/
def classHolds (f : FFmt) (cls x : Nat) : Bool :=
  let v := f.decode x
  let mag := x % 2 ^ (f.width - 1)
  let neg := decide (2 ^ (f.width - 1) ≤ x % 2 ^ f.width)
  let normal := decide (2 ^ (f.p - 1) ≤ mag) && decide (mag ≤ f.maxBits)
  let sub := decide (0 < mag) && decide (mag < 2 ^ (f.p - 1))
  match cls with
  | 0 => v.isNan
  | 1 => v.isSig
  | 2 => v.isNan && !v.isSig
  | 3 => v == .inf true || v == .inf false
  | 4 => v == .inf false
  | 5 => v == .inf true
  | 6 => mag == 0
  | 7 => sub
  | 8 => normal
  | 9 => neg
  | _ => decide (mag ≤ f.maxBits)

/-- CLASS (R123). -/
def execClassFlt (g : G) (s : State) : Host.Outcome State Fault Refusal :=
  s.vector g (fltPred g.ty fun m a _ => (classHolds (fmtOf g.ty) m.cond a, 0))

/-! ### Reciprocal, roots, integers, exponents (R124 to R126) -/

/-- A transcendental operation in f32 (R119). -/
def transOp (ty : Ty) (f : ElemOp) : VOp :=
  { fltVOp ty f with lat := 16, occ := 8 }

/-- RCP on a value (R124). -/
def rcpVal (a : FVal) : FVal × Nat :=
  match a with
  | .nan _ => (a, sigExc [a])
  | .inf n => (.num n 0 0, 0)
  | .num n 0 _ => (.inf n, excDiv0)
  | _ => (a.recip, 0)

/-- SQRT on a value (R124). -/
def sqrtF (a : FVal) : FVal × Nat :=
  match a with
  | .nan _ => (a, sigExc [a])
  | .num n 0 e => (.num n 0 e, 0)
  | .inf false => (a, 0)
  | .num false _ _ => (a.root, 0)
  | _ => (.nan false, excInvalid)

/-- RSQ on a value (R124). -/
def rsqVal (a : FVal) : FVal × Nat :=
  match a with
  | .nan _ => (a, sigExc [a])
  | .num n 0 _ => (.inf n, excDiv0)
  | .inf false => (.num false 0 0, 0)
  | .num false _ _ => (a.rroot, 0)
  | _ => (.nan false, excInvalid)

/-- RCP (R124). -/
def execRcp (g : G) (s : State) : Host.Outcome State Fault Refusal := s.vector g (transOp g.ty (unF rcpVal))
/-- SQRT (R124). -/
def execSqrt (g : G) (s : State) : Host.Outcome State Fault Refusal := s.vector g (transOp g.ty (unF sqrtF))
/-- RSQ (R124). -/
def execRsq (g : G) (s : State) : Host.Outcome State Fault Refusal := s.vector g (transOp g.ty (unF rsqVal))

/-- RINT on an element (R125): a zero keeps a's sign; only a signalling NaN raises. -/
def rintF : ElemOp := fun f m g a _ _ =>
  match f.read m.ftz a with
  | .num neg k e =>
    let (r, _) := roundAt m.rm neg g.toNat k e 0
    f.write {} 0 (.num neg r 0)
  | v => f.write {} (sigExc [v]) v

/-- FRACT on an element (R125): a − floor(a) toward zero; a zero is +0. -/
def fractF : ElemOp := fun f m _ a _ _ =>
  match f.read m.ftz a with
  | .num neg k e =>
    if 0 ≤ e then ⟨0, 0⟩
    else
      let d := 2 ^ (-e).toNat
      let r := k % d
      let r := if neg && r != 0 then d - r else r
      let y := f.write { mode := .rz, ftz := m.ftz } 0 (.num false r e)
      ⟨y.bits, y.exc % 2⟩
  | .inf _ => ⟨f.nanBits, excInvalid⟩
  | v => f.write {} (sigExc [v]) v

/-- RINT (R125). -/
def execRint (g : G) (s : State) : Host.Outcome State Fault Refusal := s.vector g (fltVOp g.ty rintF)
/-- FRACT (R125). -/
def execFract (g : G) (s : State) : Host.Outcome State Fault Refusal := s.vector g (fltVOp g.ty fractF)

/-- a × 2^b rounded once. Beyond ±5000 a larger |b| changes neither the result nor an
exception, since every format's range lies within. -/
def expinsF (f : FFmt) (m : Mods) (g : W32) (a : Nat) (b : Int) : Rounded :=
  let b := max (-5000) (min 5000 b)
  match f.read m.ftz a with
  | .num n k e => f.write (Mods.ctl m g) 0 (.num n k (e + b))
  | v => f.write {} (sigExc [v]) v

/-- The vector operation of EXPINS: B is an i32 (R126). -/
def expinsOp (ty : Ty) : VOp :=
  { fltVOp ty (fun _ _ _ _ _ _ => ⟨0, 0⟩) with
    tags := fun _ r => if r == 2 then [.i32] else [ty]
    wide := fun _ r => ty == .f64 && r == 1
    rd := fun _ r => if r == 2 then some .i32 else none
    fn := fun o _ seed a b _ =>
      let sd := stepSeed o.mods seed
      let r := expinsF (fmtOf ty) o.mods sd a.toNat (b.truncate 32 : W32).toInt
      { vals := resWords ty (BitVec.ofNat 64 r.bits), exc := r.exc, seed := sd } }
/-- EXPINS (R126). -/
def execExpins (g : G) (s : State) : Host.Outcome State Fault Refusal := s.vector g (expinsOp g.ty)

/-- EXPEXT on an element (R126). -/
def expextVal (f : FFmt) (ftz : Bool) (a : Nat) : W32 :=
  match f.read ftz a with
  | .num _ 0 _ => 0x80000000
  | .num n m e => BitVec.ofInt 32 (FVal.num n m e).ilog2
  | _ => 0x7FFFFFFF

/-- The vector operation of EXPEXT: an i32 in a single register (R126). -/
def expextOp (ty : Ty) : VOp :=
  { lat := fltLat ty, occ := fltOcc ty, tag := .i32, tags := sameTag ty, wide := allWide ty
    fn := fun o _ seed a _ _ => { vals := [expextVal (fmtOf ty) o.mods.ftz a.toNat], seed := seed } }
/-- EXPEXT (R126). -/
def execExpext (g : G) (s : State) : Host.Outcome State Fault Refusal := s.vector g (expextOp g.ty)

/-! ### FEXP2F and FLOG2F (R127, R128) -/

/-- Whether |f| > 1. -/
def Dy.beyondOne (d : Dy) : Bool := Dy.lt ⟨1, 0⟩ ⟨d.n.natAbs, d.e⟩
/-- Whether |f| = 1 or f = 0. -/
def Dy.unit (d : Dy) : Bool :=
  d.n == 0 || (!d.beyondOne && !Dy.lt ⟨d.n.natAbs, d.e⟩ ⟨1, 0⟩)

/-- FEXP2F on an element (R127). -/
def fexp2fF : ElemOp := fun f m _ a _ _ =>
  match f.read m.ftz a with
  | .num n k e =>
    let d := (FVal.num n k e).dy
    if d.beyondOne then ⟨f.nanBits, excInvalid⟩
    else ⟨exp2Bits d, if d.unit then 0 else excInexact⟩
  | .inf _ => ⟨f.nanBits, excInvalid⟩
  | v => f.write {} (sigExc [v]) v

/-- FLOG2F on an element (R128). -/
def flog2fF : ElemOp := fun f m _ a _ _ =>
  match f.read m.ftz a with
  | .num _ 0 _ => ⟨f.sign true + f.infBits.getD 0, excDiv0⟩
  | .num false k e => ⟨log2Bits k e, if 2 ^ k.log2 = k then 0 else excInexact⟩
  | .inf false => ⟨f.infBits.getD 0, 0⟩
  | .nan sg => ⟨f.nanBits, if sg then excInvalid else 0⟩
  | _ => ⟨f.nanBits, excInvalid⟩

/-- FEXP2F (R127). -/
def execFexp2f (g : G) (s : State) : Host.Outcome State Fault Refusal := s.vector g (transOp g.ty fexp2fF)
/-- FLOG2F (R128). -/
def execFlog2f (g : G) (s : State) : Host.Outcome State Fault Refusal := s.vector g (transOp g.ty flog2fF)

end Sys2Proof.Machine
end

