-- ==== Sys2Proof/Machine/Convert.lean ====
section
/-!
DEFINITION. Sys2Proof/Machine/Convert.lean: the operations of class 0100 (R129 to R132), the
conversions of R51 and R52, and the q4 family (R47 to R50).
-/
namespace Sys2Proof.Machine

/-! ### Conversions (R51, R52) -/

/-- Overflow of a conversion to a type (R44, R52). -/
def ovfOf (ty : Ty) (nosat : Bool) : Ovf :=
  match ty with
  | .e4m3 => if nosat then .nan else .sat
  | .e5m2 => if nosat then .ieee else .sat
  | _ => .ieee

/-- A value written to a float type (R51, R52). -/
def toFloat (ty : Ty) (m : Mods) (g : W32) (v : FVal) : Rounded :=
  let f := fmtOf ty
  match v, ty with
  | .inf n, .e4m3 =>
    if m.nosat then ⟨f.nanBits, excInvalid⟩ else ⟨f.sign n + f.maxBits, excOverflow + excInexact⟩
  | v, _ => f.write { mode := m.rm, ftz := m.ftz, g := g.toNat, ovf := ovfOf ty m.nosat } (sigExc [v]) v

/-- Convert an image (R51): the image of the result and the exceptions. -/
def convert (dst src : Ty) (m : Mods) (g : W32) (x : W64) : Rounded :=
  if src.isFloat then
    let v := (fmtOf src).read m.ftz x.toNat
    if dst.isFloat then toFloat dst m g v
    else
      let (y, e) := v.toRange m.rm g.toNat dst.minVal dst.maxVal
      ⟨(BitVec.ofInt 32 y).toNat, e⟩
  else
    let v := (elems src (x.truncate 32)).getD 0 0
    if dst.isFloat then toFloat dst m g (intVal v)
    else ⟨(BitVec.ofInt 32 (fitInt dst m.sat v)).toNat, 0⟩

/-- Whether a face of CVT, or its destination, is f64 (R129). -/
def cvtWide (g : G) : Bool :=
  g.ty == .f64 || g.fa.srcTy == .f64 || (match g.fb with | some o => o.srcTy == .f64 | none => false)

/-- The vector operation of CVT (R129). -/
def cvtOp (g : G) : VOp :=
  { lat := if cvtWide g then 12 else 8, occ := if cvtWide g then 8 else 4, tag := g.ty
    outs := if g.ty == .f64 then 2 else 1
    tags := fun o _ => [o.srcTy], wide := fun o r => r == 1 && o.srcTy == .f64
    rd := fun o _ => some o.srcTy
    fn := fun o _ seed a _ _ =>
      let sd := stepSeed o.mods seed
      let r := convert g.ty o.srcTy o.mods sd a
      { vals := resWords g.ty (BitVec.ofNat 64 r.bits), exc := r.exc, seed := sd } }
/-- CVT (R129). -/
def execCvt (g : G) (s : State) : Host.Outcome State Fault Refusal := s.vector g (cvtOp g)

/-! ### PACK2 and UNPK2 (R130) -/

/-- The element type of a packed type. -/
def elemTy (ty : Ty) : Ty := if ty == .bf16x2 then .bf16 else .i16

/-- The vector operation of PACK2 (R130). -/
def pack2Op (ty : Ty) : VOp :=
  { tag := ty, tags := fun _ _ => [elemTy ty], rd := fun _ _ => some (elemTy ty)
    fn := fun _ _ seed a b _ =>
      { vals := [BitVec.ofNat 32 (b.toNat % 65536 * 65536 + a.toNat % 65536)], seed := seed } }
/-- PACK2 (R130). -/
def execPack2 (g : G) (s : State) : Host.Outcome State Fault Refusal := s.vector g (pack2Op g.ty)

/-- The vector operation of UNPK2 (R130). -/
def unpk2Op (ty : Ty) : VOp :=
  { tag := ty, tags := fun _ _ => [if ty == .bf16 then .bf16x2 else .i16x2]
    fn := fun _ _ seed a b _ =>
      { vals := [placeImage ty (BitVec.ofNat 32 (a.toNat / 65536 ^ b.toNat % 65536))], seed := seed } }
/-- UNPK2 (R130). -/
def execUnpk2 (g : G) (s : State) : Host.Outcome State Fault Refusal := s.vector g (unpk2Op g.ty)

/-! ### The q4 family (R47 to R50) -/

/-- Magnitude of a code in eighths, for the types with a sign bit (R48). -/
def q4Mag (bt k : Nat) : Nat :=
  match bt with
  | 1 => [0, 4, 8, 12, 16, 24, 32, 48].getD k 0
  | 2 => [0, 1, 2, 4, 8, 16, 32, 64].getD k 0
  | _ => [0, 8, 16, 24, 32, 64, 128, 256].getD k 0

/-- The value of a code under a scale byte (R47, R48). -/
def q4Value (scale code : Nat) : FVal :=
  let bt := scale / 64 % 4
  let e := scale % 64
  if e = 63 then .nan false
  else
    let x : Int := (e : Int) - 32
    if bt = 0 then
      if code < 8 then .num false code x else .num true (16 - code) x
    else .num (decide (8 ≤ code)) (q4Mag bt (code % 8)) (x - 3)

/-- The magnitudes in eighths that a sign of a block type can hold, smallest first (R48). -/
def q4Mags (bt : Nat) (neg : Bool) : List Nat :=
  if bt = 0 then (List.range (if neg then 9 else 8)).map (· * 8)
  else (List.range 8).map (q4Mag bt)

/-- The code of the `k`-th magnitude of a sign (R48). -/
def q4Code (bt k : Nat) (neg : Bool) : Nat :=
  if bt = 0 then (if neg then (16 - k) % 16 else k) else k + (if neg then 8 else 0)

/-- Encode a value into a code of a block with scale exponent field `e` (R50). `g` is the
random word under `.rs`: D is the fraction of the step from lo to hi. -/
def q4Encode (bt e : Nat) (mode : RMode) (g : Nat) (v : FVal) : Nat × Nat :=
  match v with
  | .nan _ => (0, 0)
  | .inf n => (q4Code bt ((q4Mags bt n).length - 1) n, excOverflow + excInexact)
  | .num neg m x =>
    let ms := q4Mags bt neg
    let last := ms.length - 1
    -- the magnitude in eighths of the scale: m × 2^(x - (e - 32) + 3)
    let d : Dy := ⟨m, x - ((e : Int) - 32) + 3⟩
    let at' (k : Nat) : Dy := ⟨(ms.getD k 0 : Nat), 0⟩
    let lo := ((List.range ms.length).filter fun k => !d.lt (at' k)).length - 1
    if !d.lt (at' lo) && !(at' lo).lt d then (q4Code bt lo neg, 0)
    else if lo = last then (q4Code bt last neg, excOverflow + excInexact)
    else
      let a := at' lo
      let b := at' (lo + 1)
      let low := d.add ⟨-a.n, 0⟩
      let high := b.add ⟨-d.n, d.e⟩
      let up := match mode with
        | .rn => high.lt low || (!low.lt high && q4Code bt lo neg % 2 == 1)
        | .rna => !low.lt high
        | .rz => false
        | .rp => !neg
        | .rm => neg
        | .rs =>
          let span := b.n - a.n
          let p : Dy := ⟨low.n * 2 ^ 32, low.e⟩
          let dd := (if 0 ≤ p.e then p.n * 2 ^ p.e.toNat else p.n / 2 ^ (-p.e).toNat) / span
          decide (2 ^ 32 ≤ dd.toNat + g)
      (q4Code bt (if up then lo + 1 else lo) neg, excInexact)

/-- The scale exponent field of a block with largest magnitude `amax` (R131). -/
def q4Exp (bt : Nat) (amax : FVal) : Nat :=
  let qmax : Int := [7, 6, 8, 32].getD bt 7
  match amax with
  | .num _ 0 _ => 0
  | .num _ m x =>
    -- the smallest k with amax ≤ qmax × 2^k
    let d : Dy := ⟨m, x⟩
    let k0 := x + m.log2 - 6
    let k := (List.range 8).foldl (fun (k : Int) _ => if Dy.lt ⟨qmax, k⟩ d then k + 1 else k) k0
    (max 0 (min 62 (32 + k))).toNat
  | _ => 62

/-- The larger magnitude of two values. -/
def magMax (a b : FVal) : FVal := if a.abs.lt b.abs then b.abs else a.abs

/-- Code j of a q4 word (R35). -/
def q4Get (w : W64) (j : Nat) : Nat := w.toNat / 16 ^ j % 16

/-- Q4UNPK on one thread: eight conversions, code 0 first (R132, log 21). -/
def q4unpkRes (ty : Ty) (m : Mods) (seed : W32) (codes scale : W64) : ERes :=
  let r := (List.range 8).foldl (fun (acc : List W32 × Nat × W32) j =>
    let g := stepSeed m acc.2.2
    let y := (fmtOf ty).write (Mods.ctl m g) 0 (q4Value (scale.toNat % 256) (q4Get codes j))
    (acc.1 ++ [BitVec.ofNat 32 y.bits], acc.2.1 ||| y.exc, g)) ([], 0, seed)
  { vals := r.1, exc := r.2.1, seed := r.2.2 }

/-- The vector operation of Q4UNPK (R132). -/
def q4unpkOp (ty : Ty) : VOp :=
  { tag := ty, outs := 8, tags := fun _ r => if r == 1 then [.q4] else [.n8]
    rd := fun _ _ => some .raw
    fn := fun o _ seed a b _ => q4unpkRes ty o.mods seed a b }
/-- Q4UNPK (R132). -/
def execQ4unpk (g : G) (s : State) : Host.Outcome State Fault Refusal := s.vector g (q4unpkOp g.ty)

/-! ### Q4PACK (R131) -/

/-- The block type of a Q4PACK operand set. -/
def btOf (o : Opnds) : Nat := match o.c with | .lit n => n / 16 % 4 | _ => 0

/-- Whether a source is indexed. -/
def vixSrc (src : Src) : Bool := match src with | .vix _ _ => true | _ => false

/-- The eight source registers of thread `t` (R131). -/
def Wale.q4Run (w : Wale) (o : Opnds) (t clk : Nat) : List Nat :=
  match o.a with
  | .vec r => (List.range 8).map (r + ·)
  | .vix x i => (w.vixName x i t clk).toList.flatMap fun r => (List.range 8).map (r + ·)
  | _ => []

/-- The scale-byte destination of thread `t` (R131). -/
def Wale.q4Scale (w : Wale) (o : Opnds) (t clk : Nat) : Option Nat :=
  match o.b with
  | .vec r => some r
  | .vix x i => w.vixReg x i t clk
  | _ => none

/-- Threads grouped by a register each names: the registers and their masks. -/
def byReg (l : List (Nat × Nat)) : List (Nat × Mask) :=
  ((l.map Prod.fst).eraseDups).map fun r => (r, maskOf fun t => l.contains (r, t))

/-- One block's threads in one face: codes and scale byte per thread, exceptions, seeds (R131). -/
def Wale.q4Block (w : Wale) (o : Opnds) (ts : List Nat) (c : Nat) (seeds : NMap W32) :
    List (Nat × W32 × W32 × Nat) × NMap W32 :=
  let val (t j : Nat) : FVal :=
    (fmtOf o.srcTy).read o.mods.ftz (w.vAt ((w.q4Run o t c).getD j 0) t (c + t / 8)).toNat
  let all := ts.flatMap fun t => (List.range 8).map fun j => val t j
  let bt := btOf o
  let nan := all.any FVal.isNan
  let e := if nan then 63 else q4Exp bt (all.foldl magMax (.num false 0 0))
  ts.foldl (fun (acc : List (Nat × W32 × W32 × Nat) × NMap W32) t =>
    let r := (List.range 8).foldl (fun (x : Nat × Nat × W32) j =>
      let g := stepSeed o.mods x.2.2
      let v := val t j
      let (k, ex) := if nan then (0, sigExc [v]) else q4Encode bt e o.mods.rm g.toNat v
      (x.1 + k * 16 ^ j, x.2.1 ||| ex, g)) (0, 0, seedOf acc.2 t)
    (acc.1 ++ [(t, BitVec.ofNat 32 r.1, BitVec.ofNat 32 (bt * 64 + e), r.2.1)],
      mSet 0 acc.2 (t % 8) r.2.2)) ([], seeds)

/-- The registers that a face of Q4PACK names for thread `t`: sources, codes and scale byte. -/
def Wale.q4Named (w : Wale) (o : Opnds) (t clk : Nat) : List Nat :=
  w.q4Run o t clk ++
  (match o.d with | .vec r => [r] | .vix x i => (w.vixName x i t clk).toList | _ => []) ++
  (match o.b with | .vec r => [r] | .vix x i => (w.vixName x i t clk).toList | _ => [])

/-- The registers that a face of Q4PACK reads for thread `t`: its sources and its index register (R31). -/
def Wale.q4Uses (w : Wale) (o : Opnds) (t clk : Nat) : List Use :=
  (match o.d with | .vix x _ => [Use.mk .x x] | _ => []) ++
  ([o.a, o.b].filterMap fun | .vix x _ => some (Use.mk .x x) | _ => none) ++
  (w.q4Run o t clk).map (Use.mk .v)

/-- The checks of Q4PACK at issue, in the order of R99. -/
def State.q4Check (s : State) (w : Wale) (g : G) : Option TrapReq :=
  let m := w.active g.face
  let c := s.clk
  let act := threads.filter fun t => m.getLsbD t
  let fixed (o : Opnds) : Opnds :=
    { o with a := if vixSrc o.a then .none else o.a, b := if vixSrc o.b then .none else o.b
             d := match o.d with | .vix _ _ => .none | d => d }
  let miss := ((g.fa :: g.fb.toList).any fun o => (w.q4Named (fixed o) 0 c).any fun r => !w.inSet r) ||
    (act.any fun t => (w.q4Named (w.opnds g t) t c).any fun r => !w.inSet r)
  let ix := maskOf fun t => m.getLsbD t && w.ixBad (w.opnds g t) t c
  let bad := act.any fun t =>
    let o := w.opnds g t
    !o.mods.any && ((w.q4Run o t c).any fun r => w.tagAt r c != o.srcTy)
  let part (reg : Nat → Option Nat) (tag : Ty) :=
    (byReg (act.filterMap fun t => (reg t).map fun r => (r, t))).any fun (r, tm) => w.partialBad r tm tag c
  if w.kind != .wale then some { cause := .illegalField }
  else if !w.faceOk g.face then some { cause := .meldIllegal, lanes := m }
  else if miss then some { cause := .wsetMiss, lanes := m }
  else if m == 0 then none
  else if ix != 0 then some { cause := .idxRange, lanes := ix }
  else if bad then some { cause := .fmtMismatch, lanes := m }
  else if part (fun t => w.dstReg (w.opnds g t).d t c) .q4 || part (fun t => w.q4Scale (w.opnds g t) t c) .n8 then
    some { cause := .fmtPartial, lanes := m }
  else
    match s.stallShort w ((act.flatMap fun t => w.q4Uses (w.opnds g t) t c).eraseDups) with
    | some d => some { cause := .stallShort, lanes := m, detail := d }
    | none => none

/-- The active threads of blocks of a face that are only partly active (R131). -/
def mixedBlocks (fs : List (Opnds × Mask)) : Mask :=
  maskOf fun t => fs.any fun (_, tm) =>
    let b := (List.range 4).map fun i => tm.getLsbD (t / 4 * 4 + i)
    tm.getLsbD t && b.contains false

/-- What the beats of a Q4PACK issued at `c` give: each active thread's codes and scale byte, block by block of each
face, and the seeds (R131). -/
def Wale.q4Beats (w : Wale) (g : G) (c : Nat) : List (Nat × ERes) × NMap W32 :=
  let run := (List.range 8).foldl (fun (acc : List (Nat × W32 × W32 × Nat) × NMap W32) b =>
    (w.faces g).foldl (fun acc (o, tm) =>
      if tm.getLsbD (4 * b) then
        let r := w.q4Block o ((List.range 4).map (4 * b + ·)) c acc.2
        (acc.1 ++ r.1, r.2)
      else acc) acc) ([], w.seeds)
  (run.1.map fun x => (x.1, { vals := [x.2.1, x.2.2.1], exc := x.2.2.2 }), run.2)

/-- The pending results of a Q4PACK: the codes, then the scale bytes (R131). -/
def Wale.q4Flights (w : Wale) (g : G) (rs : List (Nat × ERes)) (c : Nat) : List InFlight :=
  let act := threads.filter fun t => (w.active g.face).getLsbD t
  let out (reg : Nat → Option Nat) (j : Nat) (tag : Ty) : List InFlight :=
    (byReg (act.filterMap fun t => (reg t).map fun r => (r, t))).flatMap fun (r, tm) =>
      [mkFlight w .v r tm (threads.map fun t => resWord rs t j) c 8 4 1, tagFlight w r tag c 4]
  out (fun t => w.dstReg (w.opnds g t).d t c) 0 .q4 ++ out (fun t => w.q4Scale (w.opnds g t) t c) 1 .n8

/-- Q4PACK (R131): per block of each face, codes to D and the scale byte to B. -/
def execQ4pack (g : G) (s : State) : Host.Outcome State Fault Refusal :=
  s.withCur fun w =>
    match s.q4Check w g with
    | some r => .next (s.takeTrap w r)
    | none =>
      if w.active g.face == 0 then .next (s.issued w 0)
      else
        let c := s.clk
        let mixed := mixedBlocks (w.faces g)
        if mixed != 0 then (s.holdPipe w (c + 4)).raise w .fmtPartial mixed 0 (c + 4)
        else
          let (rs, seeds) := w.q4Beats g c
          match commitTrap rs (s.enables w) (c + 4) with
          | some r => .next ((s.holdPipe w (c + 4)).takeTrap w r)
          | none => .next (s.issueWith { w with seeds := seeds } (w.q4Flights g rs c) 4 0)

end Sys2Proof.Machine
end

