-- ==== Sys2Proof/Machine/Control.lean ====
section
/-!
DEFINITION. Sys2Proof/Machine/Control.lean: structured control flow, transfers, calls and melding
(R138 to R153).
-/
namespace Sys2Proof.Machine

/-! ### Shared shapes -/

/-- The bits of a predicate for the active threads, each read in its beat (R139). -/
def Wale.readPred (w : Wale) (q : Nat) (m : Mask) (clk : Nat) : Mask :=
  maskOf fun t => m.getLsbD t && w.qAt q t (clk + t / 8)

/-- The predicate that an operand set names in A. -/
def Opnds.predA (o : Opnds) : Nat := match o.a with | .pred q => q | _ => 0

/-- A control operation: face legality (R70), then strict mode on what it reads, then its effect. -/
def State.control (s : State) (face : Face) (uses : Wale → List Use)
    (f : Wale → Host.Outcome State Fault Refusal) : Host.Outcome State Fault Refusal :=
  s.withCur fun w =>
    if w.kind != .wale then s.raise w .illegalField 0
    else if !w.faceOk face then s.raise w .meldIllegal (w.active face)
    else match s.stallShort w (uses w) with
      | some d => s.raise w .stallShort (w.active face) d
      | none => f w

/-- The use of a predicate whose bits are read for the threads `m`; with none no bit is read (R139). -/
def predUse (q : Nat) (m : Mask) : List Use := if m == 0 then [] else [⟨.q, q⟩]

/-- A stack trap (R143): sr.tlanes is zero. -/
def State.stackOvf (s : State) (w : Wale) : Host.Outcome State Fault Refusal := s.raise w .stackOvf 0

/-- The bound of R139 for an operation that reads a predicate. -/
def predBound (m : Mask) : Nat := if m == 0 then 1 else 4

/-- The mask-stack depth is at or below that of the innermost region, so a structured close
would cross it (R153). -/
def Wale.crossesRegion (w : Wale) : Bool :=
  match w.ownMelds with
  | e :: _ => decide (w.masks.length ≤ e.sd)
  | [] => false

/-! ### IF, ELSE, ENDIF (R141) -/

/-- IF (R141). -/
def execIfOp (g : G) (s : State) : Host.Outcome State Fault Refusal :=
  let q := Opnds.predA g.fa
  s.control g.face (fun w => predUse q w.exm) fun w =>
    if w.masks.length ≥ 16 then s.stackOvf w
    else
      let m := w.exm
      .next (s.issued { w with masks := ⟨.ifK, m⟩ :: w.masks, exm := w.readPred q m s.clk } (predBound m))

/-- ELSE (R141). -/
def execElseOp (g : G) (s : State) : Host.Outcome State Fault Refusal :=
  s.control g.face (fun _ => []) fun w =>
    if w.crossesRegion then s.raise w .meldIllegal w.exm
    else match w.ownMasks with
      | ⟨.ifK, m⟩ :: _ =>
        .next (s.issued { w with masks := ⟨.elseK, m⟩ :: w.masks.tail, exm := m &&& w.live &&& ~~~w.exm } 1)
      | _ => s.stackOvf w

/-- ENDIF (R141). -/
def execEndif (g : G) (s : State) : Host.Outcome State Fault Refusal :=
  s.control g.face (fun _ => []) fun w =>
    if w.crossesRegion then s.raise w .meldIllegal w.exm
    else match w.ownMasks with
      | ⟨.ifK, m⟩ :: _ => .next (s.issued { w with masks := w.masks.tail, exm := m &&& w.live } 1)
      | ⟨.elseK, m⟩ :: _ => .next (s.issued { w with masks := w.masks.tail, exm := m &&& w.live } 1)
      | _ => s.stackOvf w

/-! ### LOOP, ENDLOOP, BREAK, CONT (R142) -/

/-- The face set that a LOOP's FACE selects (R142). -/
def Wale.loopFaces (w : Wale) (f : Face) : Mask :=
  match w.region with
  | some e =>
    match f with
    | .faceA => e.fa
    | .faceB => e.fb
    | _ => e.fa ||| e.fb
  | none => 0xFFFFFFFF

/-- LOOP (R142, R153). -/
def execLoop (g : G) (s : State) : Host.Outcome State Fault Refusal :=
  s.control g.face (fun _ => []) fun w =>
    if w.region.isSome && g.face == .both then s.raise w .meldIllegal w.exm
    else if w.masks.length + 2 > 16 then s.stackOvf w
    else
      let f := w.loopFaces g.face
      .next (s.issued
        { w with masks := ⟨.loopK, w.exm &&& ~~~f⟩ :: ⟨.loopK, w.exm⟩ :: w.masks, exm := w.exm &&& f } 1)

/-- The trap or next state of a taken or untaken transfer of a wale whose other effects are `w'`. -/
def State.jump (s : State) (w w' : Wale) (taken : Bool) (target : Nat) : Host.Outcome State Fault Refusal :=
  if taken then
    match s.targetTrap w target false (w.active .both) with
    | some r => .next (s.takeTrap w r)
    | none => .next ((s.holdPipe w (s.clk + 1)).putWale (w'.goto s.clk 4 target))
  else .next (s.issued w' 1)

/-- The target of the immediate form. -/
def Wale.immTarget (w : Wale) (o : Opnds) : Nat :=
  match o.b with
  | .imm v => w.relTarget v
  | _ => w.insnPc

/-- ENDLOOP at an innermost LOOP pair with threads left goes back (R142). -/
def Wale.loopsBack (w : Wale) : Bool :=
  match w.ownMasks with
  | ⟨.loopK, brk⟩ :: ⟨.loopK, m⟩ :: _ => (m &&& ~~~brk &&& w.live) != 0
  | _ => false

/-- ENDLOOP (R142); the check of its target, where it goes back, comes before the others (R59, R77). -/
def execEndloop (g : G) (s : State) : Host.Outcome State Fault Refusal :=
  s.control g.face (fun _ => []) fun w =>
    match (if w.loopsBack then s.targetTrap w (w.immTarget g.fa) false (w.active .both) else none) with
    | some r => .next (s.takeTrap w r)
    | none =>
    if w.crossesRegion then s.raise w .meldIllegal w.exm
    else match w.ownMasks with
      | ⟨.loopK, brk⟩ :: ⟨.loopK, m⟩ :: _ =>
        let c := m &&& ~~~brk &&& w.live
        if c != 0 then s.jump w { w with exm := c } true (w.immTarget g.fa)
        else s.jump w { w with exm := m &&& w.live, masks := w.masks.tail.tail } false 0
      | _ => s.stackOvf w

/-- The number of levels above the innermost LOOP pair's upper level; none when the search meets
a CALL level or the bottom (R142, R143). -/
def loopAbove : List MaskLevel → Option Nat
  | [] => none
  | ⟨.loopK, _⟩ :: _ => some 0
  | ⟨.callK, _⟩ :: _ => none
  | _ :: r => (loopAbove r).map (· + 1)

/-- Remove the threads `r` from the levels above the innermost pair, and with `brk` add them to BRK. -/
def leaveLoop (l : List MaskLevel) (k : Nat) (r : Mask) (brk : Bool) : List MaskLevel :=
  (l.take k).map (fun v => { v with mask := v.mask &&& ~~~r }) ++
    (match l.drop k with
     | v :: rest => (if brk then { v with mask := v.mask ||| r } else v) :: rest
     | [] => [])

/-- BREAK and CONT (R142, R153). -/
def State.leave (s : State) (g : G) (brk : Bool) : Host.Outcome State Fault Refusal :=
  s.control g.face (fun w => (w.faces g).flatMap fun p => predUse (Opnds.predA p.1) p.2) fun w =>
    match loopAbove w.ownMasks with
    | none => s.stackOvf w
    | some k =>
      let below := match w.ownMelds with
        | e :: _ => decide (w.masks.length - k - 1 < e.sd)
        | [] => false
      if below then s.raise w .meldIllegal (w.active g.face)
      else
        let m := w.active g.face
        let r := (w.faces g).foldl (fun r (o, tm) => r ||| w.readPred (Opnds.predA o) tm s.clk) 0
        .next (s.issued { w with exm := w.exm &&& ~~~r, masks := leaveLoop w.masks k r brk } (predBound m))

/-- BREAK (R142). -/
def execBreakOp (g : G) (s : State) : Host.Outcome State Fault Refusal := s.leave g true
/-- CONT (R142). -/
def execCont (g : G) (s : State) : Host.Outcome State Fault Refusal := s.leave g false

/-! ### Jumps (R144) -/

/-- The scalar that an operand set names in A. -/
def Opnds.scA (o : Opnds) : Nat := match o.a with | .sc n => n | _ => 0

/-- A uniform jump (R144): streams and the weaver may execute it too (R19, R208). The check of R59 on the
target of a transfer comes first (R77 item 1). -/
def State.uniJump (s : State) (g : G) (uses : List Use) (taken : Wale → Bool) : Host.Outcome State Fault Refusal :=
  s.withCur fun w =>
    match (if taken w then s.targetTrap w (w.immTarget g.fa) false (w.active g.face) else none) with
    | some r => .next (s.takeTrap w r)
    | none =>
      if !w.faceOk g.face then s.raise w .meldIllegal (w.active g.face)
      else match s.stallShort w uses with
        | some d => s.raise w .stallShort (w.active g.face) d
        | none => s.jump w w (taken w) (w.immTarget g.fa)

/-- JMP (R144). -/
def execJmp (g : G) (s : State) : Host.Outcome State Fault Refusal := s.uniJump g [] fun _ => true
/-- JMPZ (R144). -/
def execJmpz (g : G) (s : State) : Host.Outcome State Fault Refusal :=
  s.uniJump g [⟨.s, Opnds.scA g.fa⟩] fun w => w.sAt (Opnds.scA g.fa) s.clk == 0
/-- JMPNZ (R144). -/
def execJmpnz (g : G) (s : State) : Host.Outcome State Fault Refusal :=
  s.uniJump g [⟨.s, Opnds.scA g.fa⟩] fun w => w.sAt (Opnds.scA g.fa) s.clk != 0

/-! ### CALL and RET (R145, R146) -/

/-- The registers that a face of CALL names (R22). -/
def callRegs (n : Nat) (f : CallFace) : List Nat :=
  (List.range n).flatMap fun i => [f.d + i, f.a + i]

/-- The pending results of a call's copies: argument i of each thread from its face (R145). -/
def Wale.callCopies (w : Wale) (n : Nat) (fs : List (CallFace × Mask)) (clk : Nat) : List InFlight :=
  (List.range n).flatMap fun i =>
    let dsts := (fs.filter fun p => p.2 != 0).map fun p => p.1.d + i
    dsts.eraseDups.flatMap fun r =>
      let here := fs.filter fun p => p.1.d + i == r
      let m := here.foldl (fun m p => m ||| p.2) 0
      let vals := threads.map fun t =>
        match here.find? fun p => p.2.getLsbD t with
        | some p => w.vAt (p.1.a + i) t (clk + t / 8)
        | none => 0
      let src := match here with | p :: _ => p.1.a + i | [] => 0
      let done := clk + 4 * n + 1
      [{ file := .v, reg := r, mask := m, vals := vals, base := done, k := 1, encAt := w.encPos
         lat := 4 * n + 4, no := w.issueNo, filled := true },
       { file := .tag, reg := r, mask := 1, vals := [BitVec.ofNat 32 (w.tagAt src clk).code]
         base := done, k := 0, encAt := w.encPos, lat := 4 * n + 4, no := w.issueNo, filled := true }]

/-- The call itself: copies, return record, level, q7, and the transfer (R145). `fs` are the
faces that take part with their threads, `exm` the callee's EXM, `ret` the return address and phase.
The check of the target comes first (R59, R77 item 1), then the faces, and of the checks at issue
WSET_MISS, FMT_MISMATCH, STACK_OVF and STALL_SHORT in this order (log 105). -/
def State.callTo (s : State) (w : Wale) (c : CallForm) (fs : List (CallFace × Mask)) (exm : Mask)
    (ret phase target : Nat) : Host.Outcome State Fault Refusal :=
  let lanes := exm
  let regs := fs.flatMap fun p => callRegs c.n p.1
  let uses := fs.flatMap fun p => if p.2 == 0 then [] else (List.range c.n).map fun i => Use.mk .v (p.1.a + i)
  let tagsDiffer := match c.fb with
    | some b => (List.range c.n).any fun i => w.tagAt (c.fa.a + i) s.clk != w.tagAt (b.a + i) s.clk
    | none => false
  match s.targetTrap w target true lanes with
  | some r => .next (s.takeTrap w r)
  | none =>
    if !w.faceOk c.face then s.raise w .meldIllegal (w.active c.face)
    else if regs.any fun r => !w.inSet r then s.raise w .wsetMiss lanes
    else if tagsDiffer then s.raise w .fmtMismatch lanes
    else if w.masks.length ≥ 16 then s.stackOvf w
    else match s.stallShort w uses with
      | some d => s.raise w .stallShort lanes d
      | none =>
        let sc (n x : Nat) := scFlight w n (BitVec.ofNat 32 x) s.clk 4
        let q7 := match w.region with
          | some e => [{ file := .q, reg := 7, mask := exm
                         vals := threads.map fun t => boolWord (e.fa.getLsbD t)
                         base := s.clk + 1, k := 1, encAt := w.encPos, lat := 4, no := w.issueNo
                         filled := true : InFlight }]
          | none => []
        let res := w.callCopies c.n fs s.clk ++
          [sc 60 (ret % 2 ^ 32 / 2 * 2 + phase), sc 61 (ret / 2 ^ 32), sc 62 (w.intervalAddr % 2 ^ 32),
           sc 63 (w.intervalAddr / 2 ^ 32)] ++ q7
        let w' := { w with
          inflight := w.inflight ++ res, masks := ⟨.callK, w.exm⟩ :: w.masks, exm := exm }
        .next ((s.holdPipe w (s.clk + max (4 * c.n) 1)).putWale (w'.goto s.clk (4 + 4 * c.n) target))

/-- CALL (R145). Its target is checked also where no thread calls (R77). When RET has asked for face B of this word, the call is made for face B alone (R146). -/
def execCall (c : CallForm) (s : State) : Host.Outcome State Fault Refusal :=
  s.withCur fun w =>
    if w.kind != .wale then s.raise w .illegalField 0
    else
      let next := w.insnPc + w.insnBytes
      let m := w.active c.face
      match c.fb with
      | none =>
        if m == 0 then
          (match s.targetTrap w (w.relTarget c.fa.off) true m with
           | some r => .next (s.takeTrap w r)
           | none => if !w.faceOk c.face then s.raise w .meldIllegal m else .next (s.issued w 1))
        else s.callTo w c [(c.fa, m)] m next 0 (w.relTarget c.fa.off)
      | some fb =>
        let ma := w.exm &&& w.active .faceA
        let mb := maskOf fun t => w.exm.getLsbD t && w.usesB t
        if w.latch == some (.faceB w.insnPc) then
          s.callTo w c [(fb, w.active .faceB)] (w.active .faceB) next 0 (w.relTarget fb.off)
        else if c.fa.off == fb.off then
          s.callTo w c [(c.fa, ma), (fb, mb)] w.exm next 0 (w.relTarget c.fa.off)
        else s.callTo w c [(c.fa, ma)] ma w.insnPc 1 (w.relTarget c.fa.off)

/-- The interval header that code memory holds at an address, by the checks of R21, R61 and R63: no interval
header is ILLEGAL_HDR, and one that R61 refuses traps as R61 says; `.error none` when its frame is absent. -/
def State.intervalAt (s : State) (w : Wale) (addr k : Nat) : Except (Option Cause) IntervalHdr :=
  match s.codeWord w addr k with
  | .error e => .error e
  | .ok x =>
    if wordClass x ≠ 0 then .error (some .illegalHdr)
    else match decodeWord x none with
      | .ok (.intervalHeader h) => if w.rangesOk h then .ok h else .error (some .illegalHdr)
      | .error ⟨.field, _⟩ => .error (some .illegalField)
      | _ => .error (some .illegalHdr)

/-- The fetch of a header failed: its cause, or the absent frame. -/
def State.fetchFail (s : State) (w : Wale) (e : Option Cause) (r : TrapReq) : Host.Outcome State Fault Refusal :=
  match e with
  | some c => .next (s.takeTrap w { r with cause := c })
  | none => fin { s with absentHit := true }

/-- The index of the innermost CALL level within the mask stack. -/
def callIndex (l : List MaskLevel) : Option Nat :=
  match l with
  | [] => none
  | ⟨.callK, _⟩ :: r => some r.length
  | _ :: r => callIndex r

/-- The header and target that a RET reads, with the traps of R146 steps 2 and 3: the header, its
address, the return address and the phase bit. -/
def State.retPlan (s : State) (w : Wale) : Except (Option TrapReq) (IntervalHdr × Nat × Nat × Nat) :=
  let ret := addr52 (w.s64At 60 s.clk)
  let ivl := addr52 (w.s64At 62 s.clk)
  let phase := ret % 2
  let hdr (c : Cause) : Except (Option TrapReq) (IntervalHdr × Nat × Nat × Nat) :=
    .error (some { cause := c, lanes := w.exm })
  if ivl % 8 ≠ 0 then hdr .illegalHdr
  else match s.intervalAt w ivl 2 with
    | .error (some c) => hdr c
    | .error none => .error none
    | .ok h =>
      if ret % 8 ≠ phase then .error (some { cause := .misalign })
      else match (if phase = 0 then s.targetTrap w ret false w.exm else none) with
        | some r => .error (some r)
        | none => .ok (h, ivl, ret, phase)

/-- RET (R146, R153). Its header and target are checked first, as R249 places these traps at decode (log 22). With the phase
bit set it executes, for face B alone, whatever word stands at the return address, as a slot without a clause (log 104). -/
def execRet (g : G) (s : State) : Host.Outcome State Fault Refusal :=
  s.control g.face (fun _ => []) fun w =>
    match s.retPlan w with
    | .error (some r) => .next (s.takeTrap w r)
    | .error none => fin { s with absentHit := true }
    | .ok (h, ivl, ret, phase) =>
      let hidden := w.masks.length - w.ownMasks.length
      let openRegion := match w.ownMelds, callIndex w.ownMasks with
        | e :: _, some k => decide (k + hidden < e.sd)
        | _, _ => false
      if openRegion then s.raise w .meldIllegal w.exm
      else match w.ownMasks with
        | ⟨.callK, m⟩ :: _ =>
          match s.stallShort w ([60, 61, 62, 63].map (Use.mk .s)) with
          | some d => s.raise w .stallShort w.exm d
          | none =>
            let w1 := { w with exm := m &&& w.live, masks := w.masks.tail }
            let faceB := match w1.region with | some e => w1.exm &&& e.fb | none => 0
            let call := ret - phase
            let target := if phase = 0 then ret else call + 16
            let w2 := w1.goto s.clk 4 (if phase = 1 ∧ faceB ≠ 0 then call else target)
            let w3 := { w2.request h ivl s.clk with
              latch := if phase = 1 ∧ faceB ≠ 0 then some (.faceB call) else none }
            .next ((s.holdPipe w (s.clk + 1)).putWale w3)
        | _ => s.stackOvf w

/-! ### EXIT, NOP, YIELD (R147, R148) -/

/-- EXIT (R147): the threads leave live and EXM; WALE_END follows when none is left. -/
def execExit (g : G) (s : State) : Host.Outcome State Fault Refusal :=
  s.control g.face (fun _ => []) fun w =>
    let m := w.active g.face
    .next (s.issued { w with live := w.live &&& ~~~m, exm := w.exm &&& ~~~m } 1)

/-- NOP (R148). -/
def execNop (g : G) (s : State) : Host.Outcome State Fault Refusal :=
  s.withCur fun w =>
    if !w.faceOk g.face then s.raise w .meldIllegal (w.active g.face) else .next (s.issued w 1)

/-- YIELD (R148): the wale's next issue ranks below every other. -/
def execYield (g : G) (s : State) : Host.Outcome State Fault Refusal :=
  s.withCur fun w =>
    if !w.faceOk g.face then s.raise w .meldIllegal (w.active g.face)
    else .next ((s.issued w 1).onWale w.id fun x => { x with yielded := true })

/-! ### MELD and ENDMELD (R149, R150) -/

/-- MELD (R150). -/
def execMeld (g : G) (s : State) : Host.Outcome State Fault Refusal :=
  let q := Opnds.predA g.fa
  s.control g.face (fun w => predUse q (w.active g.face)) fun w =>
    if w.melds.length ≥ 3 then s.stackOvf w
    else
      let e := w.active g.face
      let p := w.readPred q e s.clk
      let entry : MeldEntry := ⟨w.exm, e &&& ~~~p, e &&& p, w.masks.length, q⟩
      .next (s.issued { w with melds := entry :: w.melds, exm := e } (predBound e))

/-- ENDMELD (R150, R153). -/
def execEndmeld (g : G) (s : State) : Host.Outcome State Fault Refusal :=
  s.control g.face (fun _ => []) fun w =>
    match w.ownMelds with
    | e :: _ =>
      if w.masks.length ≠ e.sd then s.raise w .meldIllegal w.exm
      else .next (s.issued { w with melds := w.melds.tail, exm := e.saved &&& w.live } 1)
    | [] => s.raise w .meldIllegal w.exm

end Sys2Proof.Machine
end

