-- ==== Sys2Proof/Machine/Sync.lean ====
section
/-!
DEFINITION. Sys2Proof/Machine/Sync.lean: fences (R173, R174), queue locks (R179, R180), named
barriers (R181, R182), barrier words (R183) and the watchdog (R261).
-/
namespace Sys2Proof.Machine

/-! ### Fences -/

/-- The wale whose queues an instruction uses: the forking wale of a stream (R208). -/
def State.ownerId (w : Wale) : Nat :=
  match w.kind with
  | .streamM | .streamC => w.parent
  | _ => w.id

/-- The ids of a wale's requests that are still open. -/
def State.openIds (s : State) (id : Nat) (p : Req → Bool) : List Nat :=
  (s.reqs.filter fun q => q.wale == id && q.open' && p q).map Req.id

/-- Whether a wale's earlier loads, gathers and returning atomics have completed (R173). -/
def State.loadsDone (s : State) (w : Wale) : Bool :=
  (s.openIds w.id fun q => q.kind.isLoad && q.kind != .pref).isEmpty &&
    !(s.near.any fun o => o.wale == w.id && !o.wr && o.arv.isNone)

/-- FENCE (R173): `.rel` orders later writes after every earlier access, `.acq` waits for the
earlier loads and makes them acquires. It acts whatever EXM holds. -/
def execFence (f : FenceForm) (s : State) : Host.Outcome State Fault Refusal :=
  s.withCur fun w =>
    let rel := f.ann == .rel || f.ann == .ar
    let acq := f.ann == .acq || f.ann == .ar
    if w.kind != .wale then s.raise w .illegalField 0
    else if !w.faceOk f.face then s.raise w .meldIllegal (w.active f.face)
    else if f.ann == .none then s.raise w .illegalMod (w.active f.face)
    else if acq && !s.loadsDone w then .next (s.hold w .flagWait false)
    else
      let s := if acq then s.acquireBy w.id w.issueNo w.seen f.scope false else s
      let w := (s.wale? w.id).getD w
      if !rel then .next (s.issued w 0)
      else
        let ids := s.openIds w.id fun q => q.kind != .pref
        let (far, s) := if scHome f.scope then (let (i, s) := s.wideFence w ids; ([i], s)) else (([] : List Nat), s)
        let w1 : Wale := { w with
          fenceRel := ((w.fenceRel.filter s.pendingId) ++ ids ++ far).eraseDups
          fenceScope := (match w.fenceScope with | some x => some (scMax x f.scope) | none => some f.scope)
          fenceNo := w.issueNo, fenceWide := if scHome f.scope then some w.issueNo else w.fenceWide }
        .next (s.issued w1 0)

/-- The ids of what a wale has placed on the queues of a mask (R174). -/
def State.queueIds (s : State) (id : Nat) (m : BitVec 5) : List Nat :=
  (if m.getLsbD 0 then s.openIds id fun q => q.kind.isLoad else []) ++
  (if m.getLsbD 1 then s.openIds id fun q => !q.kind.isLoad else []) ++
  (if m.getLsbD 2 then (match s.wale? id with | some w => w.mq.map MOp.id | none => []) else []) ++
  (if m.getLsbD 3 then
    s.wgs.flatMap fun g => (g.copies.filter fun c => c.slices.any fun x => x.wale == id).map Copy.id
   else []) ++
  (if m.getLsbD 4 then (s.banks.filter fun b => b.wale == some id).map BankCall.id else [])

/-- QFENCE (R174): later operations on the named queues begin after the earlier ones are performed at its scope. -/
def execQfence (f : QfenceForm) (s : State) : Host.Outcome State Fault Refusal :=
  s.withCur fun w =>
    if w.kind == .weaver then s.raise w .illegalField 0
    else if !w.faceOk f.face then s.raise w .meldIllegal (w.active f.face)
    else
      let id := State.ownerId w
      let ids := s.queueIds id f.mask
      let (far, s) := if scHome f.scope then (let (i, s) := s.wideFence w ids; ([i], s)) else (([] : List Nat), s)
      let s1 := s.issued w 0
      .next (s1.onWale id fun x =>
        { x with qfences := (x.qfences.filter fun q => q.ids.any s.pendingId) ++ [(⟨ids ++ far, f.mask⟩ : QFence)] })

/-! ### Wale-uniform accesses -/

/-- What a wale-uniform memory access finds: a trap, no effect, a page walk to wait for, or its element: its address and
its location, none under zero mode (R160, R162). -/
inductive UniAcc where
  | trap (r : TrapReq)
  | empty
  | absent
  | miss (va : Nat)
  | at' (x : MCtx) (va : Nat) (loc : Option Nat)
  deriving DecidableEq, Repr

/-- The leaf that a wale-uniform access uses: a cached one, or after its page walk what the walk found (R162, R337). -/
def State.uniLeaf (s : State) (w : Wale) (va : Nat) : Option (Option Leaf) :=
  match s.cachedLeaf w.core w.ctx va with
  | some l => some (some l)
  | none => if w.latch == some (.walked va) then some (s.walk w.ctx va) else none

/-- The checks and the address of a wale-uniform memory-form access (R152, R162). -/
def State.uniAccess (s : State) (w : Wale) (m : MForm) (op : MemOp) : UniAcc :=
  let act := w.active m.face
  match s.memCheck w m { op with uni := true } with
  | .trap r => .trap r
  | .empty => .empty
  | .go l =>
    match l with
    | [] => .empty
    | x :: _ =>
      match w.elemPlan op x 0 0 s.clk with
      | .bad c => .trap { cause := c, lanes := act, t0 := s.clk + 4 }
      | .absent => .absent
      | .ok es =>
        match es with
        | [] => .at' x 0 none
        | e :: _ =>
          if e.zero then .at' x e.va none
          else
            let answer (xl : Xl) : UniAcc :=
              match xl with
              | .ok a => .at' x e.va (some a)
              | .bad c => .trap { cause := c, lanes := act, t0 := s.clk + 4 }
              | .absent => .absent
            if lSpace x.r = 2 ∨ lSpace x.r = 3 then
              answer (match s.wg? w.wg with | some g => s.nearLoc g w.core x.r e.va e.size | none => .bad .access)
            else match s.uniLeaf w e.va with
              | none => .miss e.va
              | some none => .trap { cause := .xlate, lanes := act, t0 := s.clk + 4 }
              | some (some lf) => answer (s.useLeafs lf (spaceTgt (lSpace x.r)) [.r, .w] e.va)

/-- A wale-uniform access misses in the TLBs: the wale waits, parked, for the page walk (R162). -/
def State.parkWalk (s : State) (w : Wale) (va : Nat) : State :=
  (s.holdPipe w (s.clk + 1)).hold { w with latch := some (.pageWalk va) } .parked false

/-- A wale-uniform access has its translation: the core's caches hold it (R337). -/
def State.uniFill (s : State) (w : Wale) (va : Nat) : State := s.fillVa w.core w.ctx va

/-- A stand-in request for a release or acquire that is no queued access. -/
def Wale.asReq (w : Wale) : Req :=
  { id := 0, wale := w.id, core := w.core, die := dieOf w.core, ctx := w.ctx, kind := .store, space := 0, fmt := .n32
    acls := .sg, scope := .dev, rel := none, acq := none, rsp := false, flag := none, reg := 0, pred := 0, predDead := 0, elems := []
    stamp := w.stamp, no := w.issueNo, at' := 0, after := [], fenceNo := 0, fenceWide := none, finished := false
    insn := 0, handle := 0, pkg := 0, imgs := [], neg := false }

/-- A release by a wale outside its queues may be performed at a scope (R239, R312). -/
def State.waleRelReady (s : State) (w : Wale) (sc : Scope) : Bool := s.relReady w.asReq sc w.wg

/-- The release itself: its ordered writes reach the scope's place, repetition ends (R237, R240, R246). -/
def State.waleRelease (s : State) (w : Wale) (sc : Scope) : RelInfo × State :=
  let (i, s) := s.release w sc false (s.relWaits w.asReq sc).2
  let s := if scHome sc then s.flushCluster (clusterOf w.core) else s
  (i, { s with reqs := s.reqs.filter fun q => !(q.finished && q.wale == w.id) })

/-! ### Queue locks (R179, R180) -/

/-- The location key under which a lock keeps the releases of its UNLOCKQs (R242). -/
def lockKey (l : Nat) : Nat := 2 ^ 100 + l

/-- The token of an owner: not zero; the spec states no other value (R179). -/
def lockToken (id : Nat) : Nat :=
  let x := (Config.lockToken id).toNat
  if x = 0 then 1 else x

/-- The home slice writes the lock word at a change of owner (R179). -/
def State.lockWord (s : State) (l v : Nat) : State :=
  ((s.writeNat l 4 v).putRels l 4 [])

/-- The lock entries in use at a die (R180). -/
def State.lockCount (s : State) (die : Nat) : Nat := (s.locks.filter fun p => homeDie p.1 0 == die).length

/-- Grant a lock: an acquire at `.dev` of its UNLOCKQs (R238, R242). -/
def State.grantLock (s : State) (w : Wale) (l : Nat) : State :=
  s.acquireBy w.id w.issueNo (mGet [] s.rels (lockKey l)) .dev false

/-- A waiting instruction stands by its arrival or queue place after a WATCHDOG trap (R261). -/
def Wale.retrying (w : Wale) : Bool := w.retryPc == some w.insnPc && w.trap.isNone

/-- A LOCKQ has its place in a lock's queue, or the lock itself, whose acknowledgement takes `n` clk (R180, R227). -/
def State.lockWait (s : State) (w : Wale) (va l n : Nat) : State :=
  (s.hold { w with latch := some (.lock l va) } .queueLock true).onWale w.id fun x => { x with nextIssue := s.clk + n }

/-- LOCKQ at a lock's place: it is granted, waits, or finds itself the owner (R180). `waiting` says that its queue place
stands. -/
def State.lockAt (s : State) (w : Wale) (va l : Nat) (waiting : Bool) : Host.Outcome State Fault Refusal :=
  match mFind s.locks l with
  | none =>
    if s.lockCount (homeDie l 0) ≥ 4096 || !s.homeReady l w.core w.stamp then .next (s.hold w .queueLock true)
    else .next (({ s with locks := mPut s.locks l ⟨w.id, [], w.ctx⟩ }.lockWord l (lockToken w.id)).lockWait w va l 6)
  | some k =>
    if k.owner = w.id then
      if waiting then .next (s.lockWait w va l 6) else s.raise w .lockError 0
    else if k.fifo.contains w.id then .next (s.lockWait w va l 1)
    else .next ({ s with locks := mPut s.locks l { k with fifo := k.fifo ++ [w.id] } }.lockWait w va l 1)

/-- A LOCKQ or UNLOCKQ issues: its request reaches the home slice 6 clk later at the least (R227). -/
def State.lockSend (s : State) (w : Wale) (va l : Nat) (watched : Bool) : State :=
  (s.holdPipe w (s.clk + 1)).hold { w with latch := some (.lockReq l va (s.clk + 6)) } .queueLock watched

/-- The grant of a lock has reached its wale: an acquire at `.dev` (R238). -/
def State.lockDone (s : State) (w : Wale) (l : Nat) : State :=
  let s := s.grantLock w l
  s.issued ((s.wale? w.id).getD w) 0

/-- LOCKQ (R179, R180): an acquire at `.dev` that holds the wale until the lock is granted. R160 has no column for it:
a lock word out of extent under zero mode is no lock, and LOCKQ and UNLOCKQ do nothing (log 111). -/
def execLockq (m : MForm) (s : State) : Host.Outcome State Fault Refusal :=
  s.withCur fun w =>
    match w.latch with
    | some (.lock l va) =>
      .next (if (mFind s.locks l).map Lock.owner = some w.id then s.lockDone w l else s.lockWait w va l 1)
    | some (.lockReq l va t) => if s.clk < t then .next (s.hold w .queueLock true) else s.lockAt w va l w.retrying
    | _ =>
      match s.uniAccess w m { spaces := [0, 1], fmtOk := (· == .n32), noImage := true } with
      | .trap r => .next (s.takeTrap w r)
      | .absent => fin { s with absentHit := true }
      | .empty => .next (s.issued w 0)
      | .miss va => .next (s.parkWalk w va)
      | .at' _ _ none => .next (s.issued w 0)
      | .at' _ va (some l) => .next ((s.uniFill w va).lockSend w va l true)

/-- UNLOCKQ at a lock's place: a release at `.dev`; the lock passes to the queue head, which wakes 6 clk later at the least,
or becomes free (R180, R227). -/
def State.unlockAt (s : State) (w : Wale) (l : Nat) : Host.Outcome State Fault Refusal :=
  match mFind s.locks l with
  | none => s.raise w .lockError 0
  | some k =>
    if k.owner ≠ w.id then s.raise w .lockError 0
    else if !s.waleRelReady w .dev || !s.homeReady l w.core w.stamp then .next (s.hold w .queueLock false)
    else
      let (i, s) := s.waleRelease w .dev
      let all := mGet [] s.rels (lockKey l)
      let i := { i with stamp := all.foldl (fun st x => stampJoin st x.stamp) i.stamp }
      let s := { s with rels := mSet [] s.rels (lockKey l) [i] }
      let s := match k.fifo with
        | [] => { (s.lockWord l 0) with locks := mDel s.locks l }
        | h :: r =>
          let c := match s.wale? h with | some x => x.ctx | none => k.ctx
          { (s.lockWord l (lockToken h)) with locks := mPut s.locks l ⟨h, r, c⟩ }.onWale h fun x =>
            match x.latch with | some (.lock _ _) => { x with nextIssue := max x.nextIssue (s.clk + 6) } | _ => x
      .next ((s.hold { w with latch := some (.unlock l) } .queueLock false).onWale w.id fun x => { x with nextIssue := s.clk + 6 })

/-- UNLOCKQ (R179, R180): its request goes to the home slice, and the wale goes on when that has acknowledged it (R227). -/
def execUnlockq (m : MForm) (s : State) : Host.Outcome State Fault Refusal :=
  s.withCur fun w =>
    match w.latch with
    | some (.unlock _) => .next (s.issued w 0)
    | some (.lockReq l _ t) => if s.clk < t then .next (s.hold w .queueLock false) else s.unlockAt w l
    | _ =>
      match s.uniAccess w m { spaces := [0, 1], fmtOk := (· == .n32), noImage := true } with
      | .trap r => .next (s.takeTrap w r)
      | .absent => fin { s with absentHit := true }
      | .empty => .next (s.issued w 0)
      | .miss va => .next (s.parkWalk w va)
      | .at' _ _ none => .next (s.issued w 0)
      | .at' _ va (some l) => .next ((s.uniFill w va).lockSend w va l false)

/-! ### Named barriers (R181, R182) -/

/-- The key of the releases of a barrier's open phase. -/
def barKey (wg bar : Nat) : Nat := 2 ^ 101 + wg * 512 + bar

/-- Complete a phase by the arrival of `id`: pending bits clear, waiting wales become eligible 4 clk later (R181, R182).
The phase's releases are those that the waits of its arrivers acquire (R238). -/
def State.completePhase (s : State) (g : Workgroup) (bar id : Nat) : State :=
  let infos := mGet [] s.rels (barKey g.id bar)
  let rel (w : Wale) : Wale :=
    if w.wg == g.id && (w.barPend.contains bar || w.id == id) then
      { w with
        barGot := mSet [] w.barGot bar infos, barPend := w.barPend.filter (· != bar)
        nextIssue := match w.held with
          | some h => if h.reason = .barrier ∧ w.barPend.contains bar then s.clk + 4 else w.nextIssue
          | none => w.nextIssue }
    else w
  { (s.putWg { g with barriers := mDel g.barriers bar }) with
    wales := s.wales.map rel
    rels := mSet [] s.rels (barKey g.id bar) [] }

/-- The arrival of a wale with a count, in the states of R182; none is a count mismatch. -/
def State.arrive (s : State) (w : Wale) (bar count : Nat) : Option State :=
  match s.wg? w.wg with
  | none => some s
  | some g =>
    let b := mFind g.barriers bar
    if (match b with | some b => b.count != count | none => false) then none
    else
      let s := s.logArrival w bar
      let (i, s) := s.waleRelease w .grp
      let s := { s with rels := mSet [] s.rels (barKey g.id bar) (mGet [] s.rels (barKey g.id bar) ++ [i]) }
      let a := match b with | some b => b.arrived + 1 | none => 1
      if a = count then some (s.completePhase g bar w.id)
      else
        let s := s.putWg { g with barriers := mPut g.barriers bar ⟨count, a⟩ }
        some (s.onWale w.id fun x => if x.barPend.contains bar then x else { x with barPend := x.barPend ++ [bar] })

/-- The completion of a wait: an acquire at `.grp` (R181). -/
def State.barAcquire (s : State) (w : Wale) (bar : Nat) : State :=
  s.acquireBy w.id w.issueNo (mGet [] w.barGot bar) .grp false

/-- The waiting part of BAR.WAIT and BAR.SYNC. -/
def State.barWaitPart (s : State) (w : Wale) (bar : Nat) (arrived : Bool) : State :=
  if w.barPend.contains bar then
    s.hold { w with latch := if arrived then some (.arrived bar) else w.latch } .barrier true
  else
    let s := s.barAcquire w bar
    s.issued ((s.wale? w.id).getD w) 0

/-- The count operand: a literal, or a scalar (R181). -/
def Wale.uniVal (w : Wale) (u : Uni) (clk : Nat) : Nat :=
  match u with
  | .lit n => n
  | .sc n => (w.sAt n clk).toNat

/-- A barrier operation: its checks (R181), then what it does. `arrives` says whether it makes an arrival, whose count
is checked. -/
def State.barOp (s : State) (f : BarForm) (arrives : Wale → Bool)
    (go : Wale → Nat → Host.Outcome State Fault Refusal) : Host.Outcome State Fault Refusal :=
  s.withCur fun w =>
    let act := w.active f.face
    if w.kind != .wale then s.raise w .illegalField 0
    else if !w.faceOk f.face then s.raise w .meldIllegal act
    else if act == 0 then .next (s.issued w 0)
    else
      let bars := match s.wg? w.wg with | some g => g.bars | none => 0
      let n := w.uniVal f.count s.clk
      if bars ≤ f.bar then s.raise w .access 0
      else if arrives w && (n < 1 || 64 < n) then s.raise w .barrierCount 0
      else match s.stallShort w (if arrives w then uniUses f.count else []) with
        | some d => s.raise w .stallShort act d
        | none => go w n

/-- Whether an arrival may be made: the earlier accesses are performed at group scope (R181, R239),
and with checksums on every fixed-latency result is readable (R366). -/
def State.arriveReady (s : State) (w : Wale) : Bool :=
  s.waleRelReady w .grp && (!(s.ctrace w.ctx).getLsbD 0 || decide (w.settleClk s.clk ≤ s.clk))

/-- BAR.ARRIVE (R181, R182). -/
def execBarArrive (f : BarForm) (s : State) : Host.Outcome State Fault Refusal :=
  s.barOp f (fun _ => true) fun w n =>
    if !s.arriveReady w then .next (s.hold w .barrier false)
    else match s.arrive w f.bar n with
      | none => s.raise w .barrierCount 0
      | some t => fin (t.issued ((t.wale? w.id).getD w) 0)

/-- BAR.WAIT (R182). -/
def execBarWait (f : BarForm) (s : State) : Host.Outcome State Fault Refusal :=
  s.barOp f (fun _ => false) fun w _ => .next (s.barWaitPart w f.bar false)

/-- The arrival of a BAR.SYNC stands: it is re-executed as BAR.WAIT (R261). -/
def Wale.arrived (w : Wale) (bar : Nat) : Bool := w.latch == some (.arrived bar) || w.retrying

/-- BAR.SYNC (R181): an arrival, which holds the issue port for one clk, and then a wait. -/
def execBarSync (f : BarForm) (s : State) : Host.Outcome State Fault Refusal :=
  s.barOp f (fun w => !w.arrived f.bar) fun w n =>
    if w.arrived f.bar then .next (s.barWaitPart w f.bar true)
    else if !s.arriveReady w then .next (s.hold w .barrier true)
    else match s.arrive w f.bar n with
      | none => s.raise w .barrierCount 0
      | some t => fin ((t.holdPipe w (s.clk + 1)).barWaitPart ((t.wale? w.id).getD w) f.bar true)

/-! ### Barrier words (R183) -/

/-- The clk from a phase change to the wake of a parked wale (R183). -/
def barwWake (core : Nat) (r : LRec) : Nat := if lSpace r = 3 then 16 + 4 * hops core (lPeer r) else 8

/-- An access of the wale before a barrier word's operation, at its bank or an acquire, is still to be performed, or a near
one later than `at'`, when the operation is performed itself (R183, R239). -/
def State.barwHeld (s : State) (w : Wale) (at' : Nat) : Bool :=
  (s.near.any fun o => o.wale == w.id && decide (at' < o.at')) || s.acquireOpen w ||
    s.reqs.any fun q => q.wale == w.id && q.open' && (q.space == 2 || q.space == 3)

/-- BARW.ARV (R183). Its bank performs it when it would read the word for a load, and its count is checked at issue, where
an arrival with another count that is on its way to the word is waited for (log 32). Under zero mode a word out of extent is
no word: nothing arrives, and S[d+1] becomes 0 (log 111). -/
def execBarwArv (m : MForm) (s : State) : Host.Outcome State Fault Refusal :=
  s.withCur fun w =>
    let d := m.fa.d
    match s.uniAccess w m { spaces := [2, 3], fmtOk := (· == .n32) } with
    | .trap r => .next (s.takeTrap w r)
    | .absent => fin { s with absentHit := true }
    | .empty => .next (s.issued w 0)
    | .miss va => .next (s.parkWalk w va)
    | .at' x _ loc =>
      let c := (w.sAt d s.clk).toNat
      let far := lSpace x.r = 3
      let at' := s.clk + if far then 16 + 2 * hops w.core (lPeer x.r) else 12
      let lat := if far then 32 + 4 * hops w.core (lPeer x.r) else 24
      if c < 1 ∨ 32767 < c then s.raise w .barrierCount 0
      else match s.stallShort w [⟨.s, d⟩] with
        | some k => s.raise w .stallShort (w.active m.face) k
        | none =>
          if s.fenceHolds w then .next (s.hold w .flagWait false)
          else if s.barwHeld w at' then .next (s.hold w .parked false)
          else match loc with
            | none => .next (s.issueWith w [scFlight w (d + 1) 0 s.clk lat] 1 0)
            | some l =>
              if s.near.any fun o => o.loc == l && o.arv.isSome && o.arv != some c then .next (s.hold w .parked false)
              else if (barwArrive (s.natAt l 4) c).isNone then s.raise w .barrierCount 0
              else
                let o : NearOp :=
                  { wale := w.id, at' := at', wr := false, loc := l, size := 4, val := 0, reg := d + 1, t := 0, fmt := .n32
                    no := w.issueNo, vol := false, arv := some c }
                .next ({ s with near := s.near ++ [o] }.issueWith w
                  [{ scFlight w (d + 1) 0 s.clk lat with filled := false }] 1 0)

/-- BARW.WAIT (R183): it holds the port for one clk, and parks while the word's PHASE equals bit 31 of S[d]; a word out of extent under zero mode reads as 0
(log 111). -/
def execBarwWait (m : MForm) (s : State) : Host.Outcome State Fault Refusal :=
  s.withCur fun w =>
    let d := m.fa.d
    match s.uniAccess w m { spaces := [2, 3], fmtOk := (· == .n32) } with
    | .trap r => .next (s.takeTrap w r)
    | .absent => fin { s with absentHit := true }
    | .empty => .next (s.issued w 0)
    | .miss va => .next (s.parkWalk w va)
    | .at' x _ loc =>
      match s.stallShort w [⟨.s, d⟩] with
      | some k => s.raise w .stallShort (w.active m.face) k
      | none =>
        if s.acquireOpen w then .next (s.hold w .flagWait false)
        else
        let mine := (w.sAt d s.clk).getLsbD 31
        let word := match loc with | some l => s.natAt l 4 | none => 0
        let phase := decide (word / 2 ^ 31 = 1)
        match w.latch with
        | some (.barw a p (some t)) =>
          if t ≤ s.clk then .next (s.issued w 0)
          else .next (s.hold { w with latch := some (.barw a p (some t)) } .parked true)
        | some (.barw a p none) =>
          if phase ≠ p then
            .next (s.hold { w with latch := some (.barw a p (some (s.clk + barwWake w.core x.r))) } .parked true)
          else .next (s.hold w .parked true)
        | _ =>
          if phase = mine then
            .next ((s.holdPipe w (s.clk + 1)).hold { w with latch := some (.barw (loc.getD 0) phase none) } .parked true)
          else .next (s.issued w 0)

/-! ### The watchdog (R261) -/

/-- WATCHDOG (R261): a wale held at one waiting instruction for W units traps there. An arrival or
queue place that stands is kept for the re-execution. -/
def execWatchdog (id : Nat) (s : State) : Host.Outcome State Fault Refusal :=
  match s.wale? id with
  | none => .next s
  | some w =>
    match w.held with
    | none => .next s
    | some h =>
      let lim := s.wdog w.ctx * 65536
      if w.kind != .wale || w.life != .resident || !h.watched || lim = 0 || s.clk < h.since + lim then .next s
      else
        let stands := match w.latch with
          | some (.arrived _) => true
          | some (.lock _ _) => true
          | _ => w.retrying
        let w1 := { w with retryPc := if stands then some w.insnPc else w.retryPc }
        s.raise' w1 { cause := .watchdog, lanes := 0, detail := if stands then 1 else 0
                      hdr := wordClass w.insn0 == 1, t0 := s.clk }

end Sys2Proof.Machine
end

