-- ==== Sys2Proof/Machine/Engine.lean ====
section
/-!
DEFINITION. Sys2Proof/Machine/Engine.lean: what the engine operations share (R185): their checks,
the tiles of a workgroup (R186), where an engine access goes (R199, R204, R259) and its write.
-/
namespace Sys2Proof.Machine

/-! ### Issue -/

/-- AN ENGINE OPERATION (R185): legal in the kinds of program given, faced words only in a region,
and issued once when its active set is not empty. `f` gets the wale or stream and the wale whose
queues it uses. -/
def State.engOp (s : State) (face : Face) (kinds : List WaleKind)
    (f : Wale → Wale → Host.Outcome State Fault Refusal) : Host.Outcome State Fault Refusal :=
  s.withCur fun w =>
    match s.wale? (State.ownerId w) with
    | none => .next s
    | some o =>
      if !kinds.contains w.kind then s.raise w .illegalField (w.active face)
      else if !w.faceOk face then s.raise w .meldIllegal (w.active face)
      else if w.active face == 0 then .next (s.issued w 0)
      else f w o

/-- The checks of an entry: the first that fails, in the entry's order (R185). -/
def firstBad (l : List (Bool × Cause)) : Option Cause := (l.find? fun p => p.1).map Prod.snd

/-- sr.tlanes of a check made at issue: the active set for causes that list it, else zero (R250). -/
def engLanes (c : Cause) (act : Mask) : Mask :=
  match c with
  | .illegalField | .illegalMod | .wsetMiss | .fmtMismatch | .fmtPartial => act
  | _ => 0

/-! ### Tiles (R186) -/

/-- The key of element `n` of tile `k`. -/
def tileKey (k n : Nat) : Nat := k * 16384 + n

/-- Element `n` of an f32 tile. -/
def Workgroup.tileW (g : Workgroup) (k n : Nat) : W32 := mGet 0 g.tile (tileKey k n)

/-- Element `n` of the f64 pair named by tile `k`. -/
def Workgroup.tileD (g : Workgroup) (k n : Nat) : Nat :=
  (g.tileW k (2 * n)).toNat + 2 ^ 32 * (g.tileW k (2 * n + 1)).toNat

/-- An element of an accumulator as an image of its type. -/
def Workgroup.accAt (g : Workgroup) (ty : Ty) (k n : Nat) : Nat :=
  if ty = .f64 then g.tileD k n else (g.tileW k n).toNat

/-- Write words of a tile from element `n` on; zero words are not listed. -/
def Workgroup.tilePut (g : Workgroup) (k n : Nat) (ws : List W32) : Workgroup :=
  let a := tileKey k n
  { g with tile := (g.tile.filter fun p => decide (p.1 < a)) ++ ((mCells a ws).filter fun p => p.2 != 0) ++
      (g.tile.filter fun p => decide (a + ws.length ≤ p.1)) }

/-- The words of images of a type, low half first. -/
def tileWords (ty : Ty) (xs : List Nat) : List W32 :=
  if ty = .f64 then xs.flatMap fun x => [BitVec.ofNat 32 x, BitVec.ofNat 32 (x / 2 ^ 32)]
  else xs.map (BitVec.ofNat 32)

/-- The tag of a tile as the operations issued so far left it. -/
def Workgroup.tileTag (g : Workgroup) (k : Nat) : Ty := mGet .raw g.tileTags k

/-- Set the tag of an accumulator, both tiles of a pair for f64. -/
def Workgroup.setTileTag (g : Workgroup) (k : Nat) (ty : Ty) : Workgroup :=
  let t := mSet .raw g.tileTags k ty
  { g with tileTags := if ty = .f64 then mSet .raw t (k + 1) ty else t }

/-- The accumulator lies within the grant. -/
def Workgroup.granted (g : Workgroup) (ty : Ty) (k : Nat) : Bool :=
  decide (k + (if ty = .f64 then 1 else 0) < g.tiles)

/-- Every tile of an accumulator carries a tag. -/
def Workgroup.tagged (g : Workgroup) (ty : Ty) (k : Nat) : Bool :=
  g.tileTag k == ty && (ty != .f64 || g.tileTag (k + 1) == ty)

/-! ### Boxes (R189, R195) -/

/-- Under fault mode the window of sizes `n` from origin `o` leaves the extents (R189). -/
def boxFault (r : LRec) (o n : List Nat) : Bool :=
  lOob r == 0 && ((List.range (lRank r)).any fun j =>
    decide ((lExts r).getD j 0 < o.getD j 0 + n.getD j 0))

/-! ### Where an engine access goes -/

/-- An engine access: its location; a window that is not held, or a byte outside it (R199, R204); a peer package that
has no context for it, which is refused at once (R226); a translation fault (R259); or a frame beyond the installed
memory. -/
inductive EngLoc where
  | ok (l : Nat)
  | unheld
  | refused
  | bad (c : Cause)
  | absent
  deriving DecidableEq, Repr

/-- An answer of the translation as an engine access. -/
def EngLoc.ofXl : Xl → EngLoc
  | .ok l => .ok l
  | .bad c => .bad c
  | .absent => .absent

/-- Where an engine of workgroup `g` on `core` accesses `n` bytes at address `a` of a record. -/
def State.engLoc (s : State) (g : Workgroup) (core ctx : Nat) (r : LRec) (p : Perm) (a : Int) (n : Nat) : EngLoc :=
  match lSpace r with
  | 2 | 3 => (match s.nearLoc g core r a n with | .ok l => .ok l | _ => .unheld)
  | 6 =>
    if s.job ctx = 0 then .refused
    else match s.peerXl ctx (lPeer r) [p] a.toNat with
      | .bad .access => if lPeer r = Config.packageNo then .bad .access else .refused
      | x => EngLoc.ofXl x
  | sp => EngLoc.ofXl (s.xlateAt core ctx (spaceTgt sp) p a.toNat)

/-- The home of an engine's access has applied what the stamp it carries depends on (R246). -/
def State.engReady (s : State) (l core : Nat) (stamp : List Nat) : Bool := !locDevice l || s.homeReady l core stamp

/-- The bytes that an engine of cluster `c` reads: what the cluster's cache holds over home (R233). -/
def State.engRead (s : State) (c l n : Nat) : List Byte :=
  (List.range n).map fun i => match mFind s.dirty (cacheKey c (l + i)) with | some b => b.v | none => s.byteAt (l + i)

/-- An engine's write at its home: the cluster's own bytes of the line go first (R195, R233, R243). -/
def State.engWrite (s : State) (c l : Nat) (bs : List Byte) : State :=
  if locDevice l then
    let s := (s.flushLine c l).flushLine c (l + bs.length - 1)
    ((s.writeLoc l bs).dropClean c l).putRels l bs.length []
  else s.writeLoc l bs

/-! ### Pending faults (R199, R203, R213, R384) -/

/-- A pending fault of a wale, delivered at its next wait. -/
def State.pendOn (s : State) (id : Nat) (p : PendFault) : State :=
  s.onWale id fun w => { w with pend := w.pend ++ [p] }

/-- DELIVERING A FAULT at a wait (W of R250): the first pending fault that `p` picks traps at the
instruction at hand, and is delivered once. -/
def State.deliver (s : State) (w o : Wale) (p : PendFault) : Host.Outcome State Fault Refusal :=
  let r : TrapReq := { cause := p.cause, detail := p.detail, tinsn1 := some p.insn }
  if w.id = o.id then s.raise' { w with pend := w.pend.erase p } r
  else .next ((s.onWale o.id fun x => { x with pend := x.pend.erase p }).takeTrap w r)

end Sys2Proof.Machine
end

