-- ==== Sys2Proof/Machine/Scalar.lean ====
section
/-!
DEFINITION. Sys2Proof/Machine/Scalar.lean: the scalar operations of class 0010, special
registers, the execution mask, tags, and the words that trap at once (R74, R98, R111 to R116).
-/
namespace Sys2Proof.Machine

/-- The scalar number of a destination. -/
def scOf (d : Dst) : Nat := match d with | .sc n => n | _ => 0

/-- A scalar operation on uniform sources (R112). -/
def State.scArith (s : State) (g : G) (f : W32 → W32 → W32) : Host.Outcome State Fault Refusal :=
  s.scalar g.face (fun _ => scUsesOf g.fa.a ++ scUsesOf g.fa.b) (fun _ => none) fun w =>
    [scFlight w (scOf g.fa.d) (f (w.uniSrc g.ty g.fa.a s.clk) (w.uniSrc g.ty g.fa.b s.clk)) s.clk 4]

/-- An exact operation, wrapped or saturated to 32 bits (R97, R112). -/
def scExact (g : G) (f : Int → Int → Int) (a b : W32) : W32 :=
  mapElems g.ty g.fa.mods.sat (fun x y _ => f x y) a b 0

/-- MOVI of a scalar (R111). -/
def execMoviScalar (g : G) (s : State) : Host.Outcome State Fault Refusal := s.scArith g fun _ b => b
/-- SADD (R112). -/
def execSadd (g : G) (s : State) : Host.Outcome State Fault Refusal := s.scArith g (scExact g (· + ·))
/-- SSUB (R112). -/
def execSsub (g : G) (s : State) : Host.Outcome State Fault Refusal := s.scArith g (scExact g (· - ·))
/-- SMUL (R112). -/
def execSmul (g : G) (s : State) : Host.Outcome State Fault Refusal := s.scArith g (scExact g (· * ·))
/-- SAND (R112). -/
def execSand (g : G) (s : State) : Host.Outcome State Fault Refusal := s.scArith g (· &&& ·)
/-- SOR (R112). -/
def execSor (g : G) (s : State) : Host.Outcome State Fault Refusal := s.scArith g (· ||| ·)
/-- SXOR (R112). -/
def execSxor (g : G) (s : State) : Host.Outcome State Fault Refusal := s.scArith g (· ^^^ ·)
/-- SSHL (R112). -/
def execSshl (g : G) (s : State) : Host.Outcome State Fault Refusal := s.scArith g (shiftImage .i32 shlN)
/-- SSHR (R112): SAR for i32, SHR for n32. -/
def execSshr (g : G) (s : State) : Host.Outcome State Fault Refusal :=
  s.scArith g (shiftImage .i32 (if g.ty == .i32 then sarN else shrN))
/-- SCMP (R112). -/
def execScmp (g : G) (s : State) : Host.Outcome State Fault Refusal :=
  s.scArith g fun a b =>
    let v (x : W32) := (elems g.ty x).getD 0 0
    boolWord (condHolds g.fa.mods.cond (v a) (v b))
/-- SMIN (R112). -/
def execSmin (g : G) (s : State) : Host.Outcome State Fault Refusal := s.scArith g (scExact g min)
/-- SMAX (R112). -/
def execSmax (g : G) (s : State) : Host.Outcome State Fault Refusal := s.scArith g (scExact g max)
/-- SMOV (R112). -/
def execSmov (g : G) (s : State) : Host.Outcome State Fault Refusal := s.scArith g fun a _ => a

/-- The trap of a scalar operation that names vector register `r` (R19, R22). -/
def Wale.vecOfScalar (w : Wale) (face : Face) (rs : List Nat) : Option TrapReq :=
  if w.kind != .wale then some { cause := .illegalField }
  else if rs.any fun r => !w.inSet r then some { cause := .wsetMiss, lanes := w.active face }
  else none

/-- The vector register that a source names. -/
def vecOf (src : Src) : Nat := match src with | .vec r => r | _ => 0

/-- MOVVS (R111): the element of one thread, read at the issue clk whatever EXM holds. A thread number above
31 is found in the scalar, by value: it traps at commit (R99, R250). -/
def execMovvs (g : G) (s : State) : Host.Outcome State Fault Refusal :=
  let r := vecOf g.fa.a
  let u (w : Wale) : Nat := (w.uniSrc .raw g.fa.b s.clk).toNat
  s.scalar g.face (fun _ => Use.mk .v r :: scUsesOf g.fa.b)
    (fun w =>
      match w.vecOfScalar g.face [r] with
      | some q => some q
      | none =>
        if !g.fa.mods.any && w.tagAt r s.clk != g.ty then some { cause := .fmtMismatch, lanes := w.active g.face }
        else none)
    (fun w => [scFlight w (scOf g.fa.d) (w.vAt r (u w) s.clk) s.clk 4])
    fun w => if 31 < u w then some { cause := .idxRange } else none

/-! ### Special registers (R14, R15, R114, R253) -/

/-- sr.wale (R15). -/
def Wale.srWale (w : Wale) (wcount : Nat) : W32 :=
  BitVec.ofNat 32 (w.slot % 128 * 2 ^ 16 + (if w.slot ≥ 64 then 15 else w.slot % 16) * 2 ^ 12 +
    (wcount - 1) % 16 * 16 + w.windex % 16)

/-- The clk counter of a core: 0 at core reset, and not aligned between cores (R14, log 7). -/
def State.coreClk (s : State) (core : Nat) : Nat := s.clk - s.coreReset + Config.clkSkew core

/-- Word `sel` of special register `code` for thread `t` (R114). The weaver slot belongs to no workgroup: WCOUNT, WINDEX,
sr.group and sr.launch read 0 there (log 132). -/
def State.srWord (s : State) (w : Wale) (code sel t : Nat) : W32 :=
  let g := s.wg? w.wg
  let fr (f : TrapFrame → W32) : W32 := match w.trap with | some x => f x | none => 0
  match code with
  | 0x00 => BitVec.ofNat 32 t
  | 0x01 => w.srWale (match g with | some g => g.wcount | none => 1)
  | 0x02 => BitVec.ofNat 32 (match g with | some g => g.group | none => 0)
  | 0x03 => BitVec.ofNat 32 w.core
  | 0x04 => BitVec.ofNat 32 (dieOf w.core)
  | 0x05 => BitVec.ofNat 32 (match g with | some g => g.launch | none => 0)
  | 0x06 => BitVec.ofNat 32 (s.coreClk w.core)
  | 0x10 => fr TrapFrame.tcause
  | 0x11 => fr fun x => BitVec.ofNat 32 (x.tpc / 2 ^ (32 * sel))
  | 0x12 => fr fun x =>
    let d := if sel < 2 then x.tinsn0 else x.tinsn1
    BitVec.ofNat 32 (d.toNat / 2 ^ (32 * (sel % 2)))
  | 0x13 => fr TrapFrame.tlanes
  | 0x14 => fr TrapFrame.texm
  | _ => fr TrapFrame.tmeld

/-- A literal operand's value. -/
def litOf (src : Src) : Nat := match src with | .lit n => n | _ => 0

/-- Whether a special-register code is one of the trap registers (R114). -/
def srTrap (code : Nat) : Bool := decide (0x10 ≤ code)

/-- The vector operation of SRD (R114). -/
def State.srdOp (s : State) (w : Wale) : VOp :=
  { tag := .n32, tags := fun _ _ => []
    fn := fun o t seed _ _ _ => { vals := [s.srWord w (litOf o.a) (litOf o.b) t], seed := seed } }

/-- SRD (R114). A trap register outside a handler is PRIV. -/
def execSrd (g : G) (s : State) : Host.Outcome State Fault Refusal :=
  s.withCur fun w =>
    if srTrap (litOf g.fa.a) && w.trap.isNone then s.raise w .priv (w.active g.face)
    else s.vector g (s.srdOp w)

/-- SRDS (R114). -/
def execSrds (g : G) (s : State) : Host.Outcome State Fault Refusal :=
  s.withCur fun w =>
    if srTrap (litOf g.fa.a) && w.trap.isNone then s.raise w .priv (w.active g.face)
    else s.scalar g.face (fun _ => []) (fun _ => none) fun w =>
      [scFlight w (scOf g.fa.d) (s.srWord w (litOf g.fa.a) (litOf g.fa.b) 0) s.clk 4]

/-! ### The execution mask and tags (R115, R116) -/

/-- EXMRD (R115). -/
def execExmrd (g : G) (s : State) : Host.Outcome State Fault Refusal :=
  s.scalar g.face (fun _ => []) (fun _ => none) fun w => [scFlight w (scOf g.fa.d) w.exm s.clk 4]

/-- EXMWR (R115): EXM := S[a] AND live; the next issue waits until it has taken effect. -/
def execExmwr (g : G) (s : State) : Host.Outcome State Fault Refusal :=
  s.withCur fun w =>
    if w.region.isSome || g.face != .both then s.raise w .meldIllegal (w.active g.face)
    else match s.stallShort w (scUsesOf g.fa.a) with
      | some d => s.raise w .stallShort (w.active g.face) d
      | none => .next (s.issued { w with exm := w.uniSrc .raw g.fa.a s.clk &&& w.live } 4)

/-- TAGSET (R116): both halves of a pair for f64; never a partial write. -/
def execTagset (g : G) (s : State) : Host.Outcome State Fault Refusal :=
  let r := match g.fa.d with | .vec r => r | _ => 0
  let rs := if g.ty == .f64 then [r, r + 1] else [r]
  s.scalar g.face (fun _ => []) (fun w => w.vecOfScalar g.face rs) fun w =>
    rs.map fun r => tagFlight w r g.ty s.clk 1

/-- TAGGET (R116): the tag code as it stands at the issue clk. It reads a tag and no element of v[a], so
strict mode checks nothing (R31, log 102). -/
def execTagget (g : G) (s : State) : Host.Outcome State Fault Refusal :=
  let r := vecOf g.fa.a
  s.scalar g.face (fun _ => []) (fun w => w.vecOfScalar g.face [r]) fun w =>
    [scFlight w (scOf g.fa.d) (BitVec.ofNat 32 (w.tagAt r s.clk).code) s.clk 4]

/-! ### Words that trap at decode (R74, R75) -/

/-- The active set of an undecoded word: its FACE field, where it has one (R77). -/
def Wale.wordLanes (w : Wale) (x : W64) : Mask :=
  let c := x.toNat / 2 ^ 60
  if 2 ≤ c ∧ c ≤ 12 then w.active (Face.ofCode (x.toNat / 2 ^ 48 % 4)) else w.exm

/-- ILLEGAL_OP on the word at hand (R74). -/
def State.illegalOp (s : State) (x : W64) : Host.Outcome State Fault Refusal :=
  s.withCur fun w => s.raise w .illegalOp (w.wordLanes x)

/-- A word that R74 rejects. -/
def execIllegalWord (x : W64) (s : State) : Host.Outcome State Fault Refusal := s.illegalOp x
/-- CLMULL: reserved for emulation, ILLEGAL_OP on this part (R74, R75). -/
def execClmull (x : W64) (s : State) : Host.Outcome State Fault Refusal := s.illegalOp x
/-- CLMULH: reserved for emulation, ILLEGAL_OP on this part (R74, R75). -/
def execClmulh (x : W64) (s : State) : Host.Outcome State Fault Refusal := s.illegalOp x

end Sys2Proof.Machine
end

