-- ==== Sys2Proof/Machine/System.lean ====
section
/-!
DEFINITION. Sys2Proof/Machine/System.lean: headers and staging (R21, R61 to R63), trap entry, and
the operations that raise and leave traps (R156, R157, R251, R257, R258).
-/
namespace Sys2Proof.Machine

/-! ### Headers -/

/-- A program without vector registers: the weaver or an engine stream. -/
def WaleKind.bare (k : WaleKind) : Bool := k != .wale

/-- INTERVAL_HEADER (R21): a range past the budget is ILLEGAL_HDR; otherwise the working set is
requested. An engine stream's ranges are all empty, and it stages nothing (R207). -/
def execIntervalHeader (h : IntervalHdr) (s : State) : Host.Outcome State Fault Refusal :=
  s.withCur fun w =>
    let empty := intervalCount h == 0
    if (if w.kind.bare then !empty else !w.rangesOk h) then
      .next (s.takeTrap w { cause := .illegalHdr, lanes := w.exm, hdr := true })
    else
      let w' := { w.request h w.pc s.clk with pc := addr52 (w.pc + 8), clause := none, held := none }
      .next (s.putWale (if w.kind.bare then { w' with staging := .done } else w'))

/-- The wale that a staging grant would serve: the oldest that waits on a pipe (R21). -/
def State.stagingNext (s : State) (core pipe : Nat) : Option Wale :=
  let l := s.wales.filter fun w => w.kind == .wale && w.core == core && w.slot % 16 == pipe && w.staging == .waiting
  l.foldl (fun (b : Option Wale) w => match b with
    | none => some w
    | some x => if w.born < x.born || (w.born == x.born && decide (w.slot < x.slot)) then some w else b) none

/-- Whether a pipe has the free slots that the wale's working set needs (R20, R21). -/
def State.canStage (s : State) (w : Wale) : Bool :=
  match w.interval with
  | some h => decide (s.pipeSlots (pipeOf w.core w.slot) + intervalCount h ≤ Config.fastSlots)
  | none => false

/-- STAGING_GRANT (R21): the oldest waiting request of a pipe takes its slots and is staged
after 2 clk per range and 1 per register. -/
def execStagingGrant (core pipe : Nat) (s : State) : Host.Outcome State Fault Refusal :=
  match s.stagingNext core pipe with
  | some w =>
    if s.canStage w then
      let cost := match w.interval with | some h => stageCost h | none => 0
      .next (s.putWale { w with staging := .until (s.clk + cost) })
    else .next s
  | none => .next s

/-- The flags of a wait mask that are not clear (R32). -/
def Wale.waiting (w : Wale) (mask : Nat) : Bool :=
  (List.range 12).any fun k => mask / 2 ^ k % 2 == 1 && w.flag k != 0

/-- CLAUSE_HEADER (R63): the clause starts when every flag of its wait mask is clear. -/
def execClauseHeader (h : ClauseHdr) (s : State) : Host.Outcome State Fault Refusal :=
  s.withCur fun w =>
    if w.waiting h.wait then .next (s.hold w .flagWait true)
    else .next (s.putWale { w with clause := some ⟨w.pc, h, 0⟩, pc := addr52 (w.pc + 8), held := none })

/-- The fault of a bank call that the first instruction under a clause waiting on its flag takes (R213). -/
def Wale.bankFault (w : Wale) : Option PendFault :=
  w.pend.find? fun p => match p.flag with | some k => w.waitsOn k | none => false

/-! ### TRAP and BKPT (R156) -/

/-- TRAP n (R156): traps when its active set is not empty. -/
def execTrap (g : G) (s : State) : Host.Outcome State Fault Refusal :=
  s.withCur fun w =>
    if !w.faceOk g.face then s.raise w .meldIllegal (w.active g.face)
    else if w.active g.face == 0 then .next (s.issued w 1)
    else s.raise w .trap (w.active g.face) (match g.fa.b with | .lit n => n | _ => 0)

/-- BKPT (R156): BREAK whatever EXM holds when the context's breakpoint enable is set, else NOP. -/
def execBkpt (g : G) (s : State) : Host.Outcome State Fault Refusal :=
  s.withCur fun w =>
    if !w.faceOk g.face then s.raise w .meldIllegal (w.active g.face)
    else if s.bken w.ctx then s.raise w .brk 0
    else .next (s.issued w 1)

/-! ### TRET and TRET.SKIP (R157, R257, R258) -/

/-- The bytes that the trapping instruction's slot fills (R157). -/
def TrapFrame.slotBytes (f : TrapFrame) : Nat := if wordPaired f.tinsn0 then 16 else 8

/-- Where a return resumes: the program counter, the clause, and whether face B of a CALL is due. -/
structure Resume where
  pc : Nat
  clause : Option ClausePos
  faceB : Bool
  deriving DecidableEq, Repr

/-- The position that TRET or TRET.SKIP resumes at, the recorded clause header re-read (R258). -/
def State.resumeAt (s : State) (w : Wale) (f : TrapFrame) (skip : Bool) : Except (Option Cause) Resume :=
  if f.onHdr then .ok ⟨f.tpc, none, false⟩
  else
    let pc := if skip then addr52 (f.tpc + f.slotBytes) else f.tpc
    match f.clause with
    | none => .ok ⟨pc, none, !skip⟩
    | some _ =>
      let word := s.natAt (saveArea w.core w.slot + 0x430) 8
      let addr := addr52 word
      let slot := word / 2 ^ 56 % 8 + (if skip then 1 else 0)
      match s.codeWord w addr 3 with
      | .error e => .error e
      | .ok x =>
        match decodeWord x none with
        | .ok (.clauseHeader h) => .ok ⟨pc, if slot > h.len then none else some ⟨addr, h, slot⟩, false⟩
        | _ => .error (some .illegalHdr)

/-- The interval to stage again, read anew; none when no interval was staged at the trap (R257). -/
def State.intervalBack (s : State) (w : Wale) (f : TrapFrame) : Except (Option Cause) (Option IntervalHdr) :=
  match f.interval with
  | none => .ok none
  | some _ =>
    let addr := addr52 (s.natAt (saveArea w.core w.slot + 0x428) 8)
    match s.intervalAt { w with trap := none } addr 2 with
    | .ok h => .ok (some h)
    | .error e => .error e

/-- LEAVING A HANDLER (R157, R257): the saved registers come back, EXM := sr.texm AND live, the
interrupted interval is staged again, and the wale resumes in its clause. -/
def State.leaveHandler (s : State) (skip : Bool) : Host.Outcome State Fault Refusal :=
  s.withCur fun w =>
    match w.trap with
    | none => s.raise w .priv w.exm
    | some f =>
      if skip && f.onHdr then s.raise w .illegalHdr w.exm
      else if !w.depthsOk f then s.stackOvf w
      else if s.clk < w.settleClk s.clk then .next (s.hold w .stallCount false)
      else
        match s.intervalBack w f, s.resumeAt w f skip with
        | .error e, _ => s.fetchFail w e { cause := .illegalHdr, lanes := w.exm }
        | _, .error e => s.fetchFail w e { cause := .illegalHdr, lanes := w.exm }
        | .ok h, .ok r =>
          let addr := addr52 (s.natAt (saveArea w.core w.slot + 0x428) 8)
          let s := s.supersedeAll w s.clk
          let w := { w with mq := (match s.wale? w.id with | some x => x.mq | none => w.mq) }
          let w1 := (w.settleAll.advance s.clk 4).restore s
          let w2 := { w1 with
            exm := f.texm &&& w.live, trap := none, prods := [], pc := r.pc, clause := r.clause
            retryPc := if skip then none else w1.retryPc
            latch := if r.faceB then some (.faceB r.pc) else none }
          let w3 := match h with
            | some h => w2.request h addr s.clk
            | none => w2.unstage
          .next ((s.holdPipe w (s.clk + 1)).putWale w3)

/-- TRET (R157). -/
def execTret (_ : G) (s : State) : Host.Outcome State Fault Refusal := s.leaveHandler false
/-- TRET.SKIP (R157). -/
def execTretSkip (_ : G) (s : State) : Host.Outcome State Fault Refusal := s.leaveHandler true

/-! ### Trap entry (R251 step 5) -/

/-- TRAP_ENTRY (R251): the handler's interval header is fetched and staged. A fetch fault here is a
double trap (R383). -/
def execTrapEntry (id : Nat) (s : State) : Host.Outcome State Fault Refusal :=
  match s.wale? id with
  | some w =>
    if !w.entry || decide (s.clk < w.nextIssue) then .next s
    else
      let w1 := { w with entry := false, insnPc := w.pc }
      match s.intervalAt w1 w.pc 1 with
      | .ok h => .next (s.putWale { w1.request h w.pc s.clk with pc := addr52 (w.pc + 8) })
      | .error e => s.fetchFail w1 e { cause := .illegalHdr, lanes := w.exm, hdr := true }
  | none => .next s

/-! ### Ageing (R291) -/

/-- WALE_AGED (R291): a wale ready for 64 consecutive clk ranks first until it issues. -/
def execWaleAged (id : Nat) (s : State) : Host.Outcome State Fault Refusal :=
  match s.wale? id with
  | some w =>
    match w.readySince with
    | some t =>
      if t + 64 ≤ s.clk && w.aged.isNone then .next (s.putWale { w with aged := some s.clk }) else .next s
    | none => .next s
  | none => .next s

end Sys2Proof.Machine
end

