-- ==== Sys2Proof/Machine/Fetch.lean ====
section
/-!
DEFINITION. Sys2Proof/Machine/Fetch.lean: fetching the next word of a wale or stream, and the
checks of R58, R77 and R383 that come before it is carried out.
-/
namespace Sys2Proof.Machine

/-- What reaching the next word gives: the step ends, or an instruction is at hand. -/
inductive Fetched where
  | stop (o : Host.Outcome State Fault Refusal)
  | run (s : State) (i : Instr)

/-- The instructions that an engine stream may execute (R208). -/
def streamAllows (k : WaleKind) (i : Instr) : Bool :=
  match i with
  | .intervalHeader _ | .clauseHeader _ => true
  | .moviScalar _ | .movvs _ | .sadd _ | .ssub _ | .smul _ | .sand _ | .sor _ | .sxor _ | .sshl _ | .sshr _
  | .scmp _ | .smin _ | .smax _ | .smov _ | .srds _ | .exmrd _ | .tagget _ => true
  | .nop _ | .jmp _ | .jmpz _ | .jmpnz _ | .qfence _ | .rdv _ => true
  | .mma _ | .mmaz _ | .mzero _ | .mcommit _ | .mwait _ | .mstore _ | .stfold _ => k == .streamM
  | .copySlice _ | .cseal _ | .cwait _ => k == .streamC
  | _ => false

/-- Whether an instruction may be executed by a program of a kind. -/
def kindAllows (k : WaleKind) (i : Instr) : Bool :=
  match k with
  | .streamM | .streamC => streamAllows k i
  | _ => true

/-- The privilege check of a rejected word fails (R76, R77, R114). -/
def Wale.lacks (w : Wale) (p : DecPriv) : Bool :=
  match p with
  | .none => false
  | .op => !w.privileged
  | .trapReg => w.trap.isNone

/-- The cause of a rejected word (R77). -/
def Wale.rejected (w : Wale) (e : DecErr) : Cause :=
  if e.cause != .hdr && w.lacks e.priv then .priv
  else match e.cause with
    | .hdr => .illegalHdr
    | .field => .illegalField
    | .mod => .illegalMod

/-- A header is due: between clauses, but for face B of a CALL that RET asks for (R58, R146). -/
def Wale.headerDue (w : Wale) : Bool := w.clause.isNone && w.latch != some (.faceB w.pc)

/-- A word in the wrong place: ILLEGAL_HDR (R58, R59, R145, R154, R207). -/
def Wale.misplaced (w : Wale) (x : W64) : Bool :=
  let c := wordClass x
  if w.pc % 8 ≠ 0 then true
  else if w.headerDue then decide (2 ≤ c) || (c == 1 && w.interval.isNone)
  else decide (c ≤ 1) ||
    (c == 6 && x.toNat / 2 ^ 54 % 64 == 0xA &&
      (match w.clause with | some p => decide (p.slot < p.hdr.len) | none => false))

/-- The breakpoint that stops a wale before an instruction (R371). -/
def State.breaks (s : State) (w : Wale) : Bool :=
  w.kind == .wale && !w.headerDue && !w.resume && s.bpHit w.ctx w.pc

/-- A wale stops for the debugger at the instruction boundary where it stands (R34, R371): an instruction whose translations are
still being walked is squashed, and the wale is charged "parked". -/
def State.debugStop (s : State) (w : Wale) (kind : Nat) : State :=
  let s := s.putWale { w with
    dbg := true, stopReq := false, held := some ⟨.parked, s.clk, false⟩
    latch := match w.latch with | some (.walk _ _) | some (.pageWalk _) | some (.walked _) => none | l => l }
  if (s.ctrace w.ctx).getLsbD 1 then
    let (l, g) := s.nameOf w
    s.psiak (dieOf w.core) (psRecord kind w.ctx w.core w.slot w.windex 0 l g 0 w.exm.toNat w.pc)
  else s

/-- A decode check of R77 that a decoded instruction still fails where it stands: ILLEGAL_OP, PRIV, the flag 15
of R63, MELD_ILLEGAL. The instruction's meaning raises it. -/
def Wale.decodeFails (w : Wale) (x : W64) (i : Instr) : Bool :=
  let flag15 (fsel : Bool) : Bool := (w.flagSel fsel).isNone
  !w.faceOk (Face.ofCode (x.toNat / 2 ^ 48 % 4)) ||
  (match i with
   | .illegalWord _ | .clmull _ | .clmulh _ => true
   | .tret _ | .tretSkip _ | .evpop _ => !w.privileged
   | .tkclaim f | .symwalk f | .slewStart f | .slewQuery f | .ckpt f => !w.privileged || flag15 f.fsel
   | .srd g | .srds g => srTrap (litOf g.fa.a) && w.trap.isNone
   | .ldq m | .gatherq m | .atomAdd m | .atomMin m | .atomMax m | .atomAnd m | .atomOr m | .atomXor m | .atomXchg m
   | .atomCas m | .atomIncw m | .atomFaddb m | .atomFadd m | .atomFmax m =>
     flag15 m.fa.fsel || (match m.fb with | some f => flag15 f.fsel | none => false)
   | _ => false)

/-- The word at hand once it has been fetched with its extension: placement, with the target of a transfer, decoding and
privilege, the program's kind, and a bank call's fault at a clause's first instruction, which the
checks of decoding precede (R77, R208, R213). -/
def State.reach (s : State) (w : Wale) (x : W64) (ext : Option W64) : Fetched :=
  let hdr := w.headerDue
  let lanes := if hdr then w.exm else w.wordLanes x
  let trap (c : Cause) : Fetched := .stop (.next (s.takeTrap w { cause := c, lanes := lanes, hdr := hdr }))
  if w.misplaced x then trap .illegalHdr
  else match decodeWord x ext with
    | .error e => trap (if s.badTarget w x then .illegalHdr else w.rejected e)
    | .ok i =>
      if !kindAllows w.kind i then trap .illegalField
      else match (if hdr || w.decodeFails x i || s.badTarget w x then none else w.bankFault) with
        | some p =>
          let r : TrapReq := { cause := p.cause, detail := p.detail, tinsn1 := some p.insn }
          .stop (.next (s.takeTrap { w with pend := w.pend.erase p } r))
        | none => .run s i

/-- FETCHING the next word of a wale, weaver or stream (R57, R58, R78, R383), after a breakpoint check (R371).
Of a word that could not be fetched sr.tinsn holds 0, in its first half and in the second (log 106). -/
def State.fetch (s : State) (w : Wale) : Fetched :=
  let hdr := w.headerDue
  let w0 := { w with insn0 := 0, insn1 := 0, insnPc := w.pc }
  let s := { s with cur := w.id }
  let fail (w : Wale) (e : Option Cause) (lanes : Mask) : Fetched :=
    match e with
    | none => .stop (fin { s with absentHit := true })
    | some c => .stop (.next (s.takeTrap w { cause := c, lanes := if hdr then w.exm else lanes, hdr := hdr }))
  if w.stopReq then .stop (fin ((s.debugStop w 0x03).dbgDone 2))
  else if s.breaks w then .stop (fin (s.debugStop w 0x02))
  else match s.codeWord w w.pc 0 with
    | .error e => fail w0 e w.exm
    | .ok x =>
      let w1 := { w0 with insn0 := x }
      let s1 := { s with free := s.free + 4 }.fillVa w.core w.ctx (addr52 w.pc)
      if hdr || !wordPaired x then (s1.putWale w1).reach w1 x none
      else match s.codeWord w (addr52 (w.pc + 8)) 3 with
        | .error e => fail w1 e (w1.wordLanes x)
        | .ok y =>
          let w2 := { w1 with insn1 := y }
          (s1.putWale w2).reach w2 x (some y)

/-! ### Selecting the wale that issues (R18, R63, R291) -/

/-- The boot has released the weavers (R374, R375). -/
def State.weaversRun (s : State) : Bool := s.boot == .bringUp || s.boot == .running || s.boot == .minimal

/-- Eligible apart from its pipe being free (R18, R296, R371): its die's clocks run (R378). The weaver slot is a program like a
wale's, without an interval to stage (R19); the boot has released it (R374), its core takes part, and it has not stopped (R256). -/
def State.eligible (s : State) (w : Wale) : Bool :=
  s.awake (dieOf w.core) && w.life == .resident && !w.dbg && !w.entry && w.live != 0 && decide (w.nextIssue ≤ s.clk) &&
    (match w.kind with
     | .wale => s.ctxValid w.ctx
     | .weaver => s.weaversRun && s.corePresent w.core && !s.weaverStopped.contains w.core
     | _ => false) &&
    (match w.staging with | .done => true | .until k => decide (k ≤ s.clk) | .none => w.interval.isNone | .waiting => false) &&
    (match w.latch with | some (.walk _ _) => false | some (.pageWalk _) => false | _ => true)

/-- Whether `a` ranks before `b`: aged first, yielded last, then age and slot (R18, R63, R291). -/
def ranksBefore (a b : Wale) : Bool :=
  match a.aged, b.aged with
  | some x, some y => decide (x < y) || (x == y && decide (a.slot < b.slot))
  | some _, none => true
  | none, some _ => false
  | none, none =>
    if a.yielded != b.yielded then b.yielded
    else decide (a.born < b.born) || (a.born == b.born && decide (a.slot < b.slot))

/-- The first of the best wales. -/
def bestWale (l : List Wale) : Option Wale :=
  l.foldl (fun b w => match b with | none => some w | some x => if ranksBefore w x then some w else b) none

/-- Whether the weaver slot goes ahead of the wales of pipe 15 (R19, R291): while its event queue is not
empty, but at most 16 times in a row while an aged wale waits. -/
def State.weaverFirst (s : State) (core : Nat) (others : List Wale) : Bool :=
  !(mGet [] s.events core).isEmpty && (!(others.any fun w => w.aged.isSome) || decide (mGet 0 s.wvIssues core < 16))

/-- What a pipe issues from its eligible programs: the oldest wale, or the weaver slot by its rank (R18, R19). -/
def State.pick15 (s : State) (l : List Wale) : Option Wale :=
  let wales := l.filter fun w => w.kind == .wale
  match l.find? fun w => w.kind == .weaver with
  | none => bestWale wales
  | some v => if wales.isEmpty || s.weaverFirst v.core wales then some v else bestWale wales

/-- An issue on a weaver's pipe counts toward the 16 in a row: the weaver's own while an aged wale waits; any
other issue ends the row (R291). -/
def State.countIssue (s : State) (w : Wale) (others : List Wale) : State :=
  if pipeOf w.core w.slot % 16 = 15 then
    let n := if w.kind == .weaver && others.any fun v => v.aged.isSome then mGet 0 s.wvIssues w.core + 1 else 0
    { s with wvIssues := mSet 0 s.wvIssues w.core n }
  else s

/-- The wale or weaver that issues at this clk: on the first pipe that is free, the best eligible one (R18); none while the
power controller withholds issue (R381). -/
def State.selected (s : State) : Option (Wale × State) :=
  let ok := if s.clk < s.withheld then [] else s.wales.filter s.eligible
  (ok.find? fun w => decide (mGet 0 s.pipes (pipeOf w.core w.slot) ≤ s.clk)).bind fun w =>
    let here := ok.filter fun x => pipeOf x.core x.slot == pipeOf w.core w.slot
    (s.pick15 here).map fun v => (v, s.countIssue v (here.filter fun x => x.kind == .wale))

end Sys2Proof.Machine
end

