-- ==== Sys2Proof/Machine/Bank.lean ====
section
/-!
DEFINITION. Sys2Proof/Machine/Bank.lean: bank calls, bank tasks and bank programs (R209 to R213).
-/
namespace Sys2Proof.Machine

/-! ### The calls -/

/-- The bank call with an id. -/
def State.bank? (s : State) (id : Nat) : Option BankCall := s.banks.find? fun b => b.id == id

/-- Replace the bank call with the same id. -/
def State.putBank (s : State) (b : BankCall) : State :=
  { s with banks := s.banks.map fun x => if x.id == b.id then b else x }

/-- The flag of a wale's call falls; a clause that waits on it acquires the program's rows at `.dev` (R209, R243). -/
def State.bankDone (s : State) (id : Nat) (flag : Option Nat) : State :=
  match flag, s.wale? id with
  | some _, some w => (s.onWale id fun w => { w.lower flag with acqClk := max w.acqClk s.clk }).unshareAll id w.issueNo
  | _, _ => s

/-- The device location of a row, whatever its page permits; none where the tables map none. -/
def State.rowLoc (s : State) (ctx base : Nat) : Option Nat :=
  (s.walk ctx base).bind fun f => match s.place f base with | .ok l => if locDevice l then some l else none | _ => none

/-- The compute die that a unit stands on: that of its row's home (R232, R235). -/
def State.bankDie (s : State) (ctx base core : Nat) : Nat :=
  match s.rowLoc ctx base with
  | some l => homeDie l (dieOf core)
  | none => dieOf core

/-- The unit that runs the programs of a layout's space on a base row (R209); none while the row is not mapped. -/
def State.bankUnit (s : State) (ctx base space : Nat) : Option Nat := (s.rowLoc ctx base).map (bankUnitOf space)

/-- A call whose base row was not mapped has its unit, and the unit's die, once the row is (R209, R339). -/
def State.settleUnit (s : State) (b : BankCall) (core : Nat) : BankCall :=
  if b.unit.isSome then b
  else { b with die := s.bankDie b.ctx b.base core, unit := s.bankUnit b.ctx b.base b.space }

/-- A core's retirement list names an ended bank task by its context and continuation record. -/
def bankMark (ctx va : Nat) : Nat := 2 ^ 60 + ctx * 2 ^ 52 + va

/-- The end of a bank task has to wait: the event queue of core 72d is full (R287). -/
def State.endWaits (s : State) (b : BankCall) : Bool := b.wale.isNone && s.evFull (72 * b.die)

/-- The call is gone; a task's end asks core 72d for the PARENT decrement (R289, R382). -/
def State.endBank (s : State) (b : BankCall) : State :=
  let s := { s with banks := s.banks.filter fun x => x.id != b.id }
  match b.wale with
  | some id => s.bankDone id b.flag
  | none =>
    let k := 72 * b.die
    { (s.postEv k (evData b.recVa 0 0x03 b.ctx) b.die b.stamp) with
      retired := mSet [] s.retired k (mGet [] s.retired k ++ [bankMark b.ctx b.recVa]) }

/-- A PROGRAM FAULTS (R213): it ends, its rows stand, and the fault waits for the wale at the clause
that waits on its flag, or at MWAIT when it has none. A task's waits for the event queue (R287). -/
def State.faultBank (s : State) (b : BankCall) : State :=
  if s.endWaits b then s
  else
  let s := s.endBank b
  match b.wale with
  | some id => s.pendOn id ⟨.engineFault, 3, b.insn, b.flag⟩
  | none => s

/-! ### BCALL (R209) -/

/-- LAYOUT_BAD of BCALL (R185, R209, R308, R343). -/
def State.bankLayBad (s : State) (w : Wale) (r : LRec) : Bool :=
  !lValid r || !(lSpace r == 0 || lSpace r == 1) || imaged r (s.symOf w) || outsideMesh r

/-- A coordinate lies outside the extents (R209). -/
def coordsOut (r : LRec) (cs : List Int) : Bool :=
  (List.range (lRank r)).any fun j => decide (cs.getD j 0 < 0) || decide (((lExts r).getD j 0 : Int) ≤ cs.getD j 0)

/-- BCALL (R209): the call joins the wale's queue of eight. -/
def execBcall (f : BcallForm) (s : State) : Host.Outcome State Fault Refusal :=
  s.engOp f.face [.wale] fun w o =>
    let r := s.layout w.ctx f.handle
    let n := lRank r
    let flag := w.flagSel f.fsel
    let cs : List Int := (List.range n).map fun j => ((w.sAt (f.sc + j) s.clk).toNat : Int)
    if 8 ≤ (s.banks.filter fun b => b.wale == some w.id).length then .next (s.hold w .parked false)
    else if !w.canRaise flag then .next (s.hold w .flagWait false)
    else match firstBad [(lValid r && decide (64 < f.sc + n), .illegalField), (s.bankLayBad w r, .layoutBad),
        (coordsOut r cs, .layoutRange)] with
      | some c => s.raise w c (engLanes c (w.active f.face))
      | none =>
        let uses := ((List.range n).map (f.sc + ·)) ++ [f.sp, f.sp + 1] ++ (List.range 4).map (f.sa + ·)
        match s.stallShort w (uses.map (Use.mk .s)) with
        | some d => s.raise w .stallShort (w.active f.face) d
        | none =>
          let (id, s1) := s.fresh
          let b : BankCall :=
            { id := id, wale := some w.id, ctx := w.ctx, base := (lAddr r cs).toNat / 32 * 32
              prog := addr52 (w.s64At f.sp s.clk), pc := addr52 (w.s64At f.sp s.clk), w := []
              args := (List.range 4).map fun j => w.sAt (f.sa + j) s.clk
              lc := 0, limit := 0, loopStart := none, skipping := false, count := 0, flag := flag, st := .queued, space := lSpace r
              parent := 0, recVa := 0, die := dieOf w.core, unit := none, touched := false, pure := true, after := o.fenced 4, issued := s.clk, insn := w.insn0
              stamp := w.stamp }
          let s2 := s1.issued (w.raise flag) 0
          .next { s2 with banks := s2.banks ++ [b] }

/-- BANK_CALL_START (R209): the oldest call of a wale begins when none of its calls runs. It waits for no unit: any number of
calls may run on one base die's engines or one bank's arithmetic unit (log 133). -/
def execBankCallStart (id : Nat) (s : State) : Host.Outcome State Fault Refusal :=
  match s.banks.find? fun b => b.wale == some id with
  | none => .next s
  | some b =>
    if b.st != .queued || b.after.any s.pendingId || s.sectorSplit then .next s
    else
      let core := match s.wale? id with | some w => w.core | none => 0
      .next (s.putBank (s.settleUnit { b with st := .running } core))

/-- BANK_INSN_LIMIT (R213): a program that would execute more than 2^20 instructions faults. -/
def execBankInsnLimit (id : Nat) (s : State) : Host.Outcome State Fault Refusal :=
  match s.bank? id with
  | none => .next s
  | some b => if b.st == .running && decide (2 ^ 20 ≤ b.count) then .next (s.faultBank b) else .next s

/-! ### Fetching (R210, R211, R213) -/

/-- The next word of a running program: the step ends, or an instruction is at hand. While a BLOOP
with a zero count is skipped, its body is passed over to the next BNEXT (R212). -/
def State.bankFetch (s : State) (id : Nat) : Fetched :=
  match s.bank? id with
  | none => .stop (.next s)
  | some b =>
    if b.st != .running then .stop (.next s)
    else if 2 ^ 20 ≤ b.count ∨ b.pc % 4 ≠ 0 then .stop (.next (s.faultBank b))
    else match s.xlateDie b.die b.ctx none .x b.pc with
      | .absent => .stop (fin { s with absentHit := true })
      | .bad _ => .stop (.next (s.faultBank b))
      | .ok l =>
        let x : W32 := BitVec.ofNat 32 (s.natAt l 4)
        if b.skipping then
          .stop (.next (s.putBank { b with pc := addr52 (b.pc + 4), skipping := decide (decodeBank x ≠ some .bnext) }))
        else match decodeBank x with
          | none => .stop (.next (s.faultBank b))
          | some i => .run ({ s with curBank := id }.fillDie b.die b.ctx b.pc) i

/-- Run a meaning on the program at hand. -/
def State.withBank (s : State) (f : BankCall → Host.Outcome State Fault Refusal) : Host.Outcome State Fault Refusal :=
  match s.bank? s.curBank with
  | some b => f b
  | none => .next s

/-- The program goes on with its next word. -/
def BankCall.step (b : BankCall) : BankCall := { b with pc := addr52 (b.pc + 4), count := b.count + 1 }

/-! ### Row registers (R210) -/

/-- Row register `n`. -/
def BankCall.row (b : BankCall) (n : Nat) : BitVec 256 := mGet 0 b.w n
/-- Write a row register. -/
def BankCall.setRow (b : BankCall) (n : Nat) (x : BitVec 256) : BankCall := { b with w := mSet 0 b.w n x }
/-- Lane `i` of a row. -/
def rowLane (x : BitVec 256) (i : Nat) : Nat := field x (32 * i + 31) (32 * i)
/-- bf16 half `i` of a row. -/
def rowHalf (x : BitVec 256) (i : Nat) : Nat := field x (16 * i + 15) (16 * i)
/-- A row of eight lanes. -/
def rowOf (f : Nat → Nat) : BitVec 256 :=
  BitVec.ofNat 256 ((List.range 8).foldl (fun n i => n + f i % 2 ^ 32 * 2 ^ (32 * i)) 0)

/-- An operation on the eight lanes of row registers. -/
def State.bankLanes (s : State) (d : Nat) (f : BankCall → Nat → Nat) : Host.Outcome State Fault Refusal :=
  s.withBank fun b => .next (s.putBank (b.step.setRow d (rowOf (f b))))

/-! ### Row accesses (R210, R213) -/

/-- The address of a row. -/
def BankCall.rowVa (b : BankCall) (r : RowRef) : Nat :=
  (((b.base : Int) + 32 * (r.off.toInt + if r.x then (b.lc : Int) else 0)) % 2 ^ 52).toNat

/-- Where a row access goes: a miss waits for the MMU (R259), and a permission failure, or a bus page, faults. -/
inductive RowAt where
  | ok (l : Nat)
  | miss
  | bad
  | absent
  deriving DecidableEq, Repr

/-- The location of a row. -/
def State.rowAt (s : State) (b : BankCall) (r : RowRef) (p : Perm) : RowAt :=
  match s.xlateDie b.die b.ctx none p (b.rowVa r) with
  | .ok l => if locDevice l then .ok l else .bad
  | .bad .xlate => .miss
  | .bad _ => .bad
  | .absent => .absent

/-- The program has accessed a row: whether it keeps to its own bank (R213). -/
def BankCall.touch (b : BankCall) (l : Nat) : BankCall :=
  { b with touched := true, pure := b.pure && b.unit == some (bankOf l) }

/-- CORE of a fault of a bank program (R358): the base die of its stack engine; none on a bank arithmetic unit, or
where the base row is not mapped. -/
def BankCall.engineId (b : BankCall) : Nat :=
  match b.unit with
  | some k => if k < 12 then 0x120 + k else 0x1FF
  | none => 0x1FF

/-- A row access of the program at hand, once its home, which it wakes, has applied the stamp it carries (R246, R380) and no
other program has begun on the rows of its bank (R213); an uncorrectable word stops its context (R357). -/
def State.rowAccess (s : State) (r : RowRef) (p : Perm) (f : BankCall → Nat → State) : Host.Outcome State Fault Refusal :=
  s.withBank fun b =>
    match s.rowAt b r p with
    | .ok l =>
      if s.homeApplied l (72 * b.die) b.stamp && !s.bankHeld l (some b.id) then
        match s.spoiled l 32 (p == .w) { ctx := b.ctx, core := b.engineId, slot := 127, va := b.rowVa r } with
        | some t => .next t
        | none => .next ((f (b.touch l) l).fillDie b.die b.ctx (b.rowVa r))
      else .next (s.stir (homeDie l b.die))
    | .miss => .next s
    | .bad => .next (s.faultBank b)
    | .absent => fin { s with absentHit := true }

/-! ### The operations (R212) -/

/-- BEND (R212): a task's waits while the event queue that it reports to is full (R287). -/
def execBend (s : State) : Host.Outcome State Fault Refusal :=
  s.withBank fun b => .next (if s.endWaits b then s else s.endBank b)

/-- BLD (R212): the row, read whole. -/
def execBld (d : Nat) (r : RowRef) (s : State) : Host.Outcome State Fault Refusal :=
  s.rowAccess r .r fun b l => s.putBank (b.step.setRow d (BitVec.ofNat 256 (s.natAt l 32)))

/-- BST (R212): the row, written whole. -/
def execBst (a : Nat) (r : RowRef) (s : State) : Host.Outcome State Fault Refusal :=
  s.rowAccess r .w fun b l => ((s.writeNat l 32 (b.row a).toNat).putRels l 32 []).putBank b.step

/-- BADD (R212). -/
def execBadd (d a b : Nat) (s : State) : Host.Outcome State Fault Refusal :=
  s.bankLanes d fun c i => f32Add (rowLane (c.row a) i) (rowLane (c.row b) i)
/-- BSUB (R212). -/
def execBsub (d a b : Nat) (s : State) : Host.Outcome State Fault Refusal :=
  s.bankLanes d fun c i => f32Op (fun x y => FVal.add .rn x y.neg) (rowLane (c.row a) i) (rowLane (c.row b) i)
/-- BMUL (R212). -/
def execBmul (d a b : Nat) (s : State) : Host.Outcome State Fault Refusal :=
  s.bankLanes d fun c i => f32Op FVal.mul (rowLane (c.row a) i) (rowLane (c.row b) i)

/-- RoundTo(f32, rn, v) of a computed value. -/
def f32Write (v : FVal × Nat) : Nat := (fmt32.write { mode := .rn, ftz := false, g := 0 } v.2 v.1).bits

/-- BFMA (R212): one rounding. -/
def execBfma (d a b c : Nat) (s : State) : Host.Outcome State Fault Refusal :=
  s.bankLanes d fun x i =>
    f32Write (FVal.fma .rn (fmt32.decode (rowLane (x.row a) i)) (fmt32.decode (rowLane (x.row b) i))
      (fmt32.decode (rowLane (x.row c) i)))
/-- BMIN (R212). -/
def execBmin (d a b : Nat) (s : State) : Host.Outcome State Fault Refusal :=
  s.bankLanes d fun c i => f32Min (rowLane (c.row a) i) (rowLane (c.row b) i)
/-- BMAX (R212). -/
def execBmax (d a b : Nat) (s : State) : Host.Outcome State Fault Refusal :=
  s.bankLanes d fun c i => f32Max (rowLane (c.row a) i) (rowLane (c.row b) i)
/-- BRSQ (R212). -/
def execBrsq (d a : Nat) (s : State) : Host.Outcome State Fault Refusal :=
  s.bankLanes d fun c i => f32Write (rsqVal (fmt32.decode (rowLane (c.row a) i)))

/-- Argument `j` (R210). -/
def BankCall.arg (b : BankCall) (j : Nat) : W32 := b.args.getD j 0

/-- BSCL (R212). -/
def execBscl (d a j : Nat) (s : State) : Host.Outcome State Fault Refusal :=
  s.bankLanes d fun c i => f32Op FVal.mul (rowLane (c.row a) i) (c.arg j).toNat
/-- BSPL (R212). -/
def execBspl (d j : Nat) (s : State) : Host.Outcome State Fault Refusal :=
  s.bankLanes d fun c _ => (c.arg j).toNat

/-- A bf16 half widened to f32 (R212). -/
def widenBf (h : Nat) : Nat := f32Write (fmtBf.decode h, 0)
/-- An f32 lane rounded to bf16 (R212). -/
def narrowBf (x : Nat) : Nat := (fmtBf.write { mode := .rn, ftz := false, g := 0 } 0 (fmt32.decode x)).bits

/-- BCVT (R212): widen the low or high halves, or narrow two rows; mode 3 faults as its word is fetched. -/
def execBcvt (d a b mode : Nat) (s : State) : Host.Outcome State Fault Refusal :=
  match mode with
  | 0 => s.bankLanes d fun c i => widenBf (rowHalf (c.row a) i)
  | 1 => s.bankLanes d fun c i => widenBf (rowHalf (c.row a) (8 + i))
  | 2 => s.bankLanes d fun c i =>
      let src := if i < 4 then c.row a else c.row b
      let k := 2 * (i % 4)
      narrowBf (rowLane src k) + 2 ^ 16 * narrowBf (rowLane src (k + 1))
  | _ => s.withBank fun c => .next (s.faultBank c)

/-- BIADD (R212): wraps. -/
def execBiadd (d a b : Nat) (s : State) : Host.Outcome State Fault Refusal :=
  s.bankLanes d fun c i => rowLane (c.row a) i + rowLane (c.row b) i

/-- BLOOP (R212): a loop inside a loop faults; a zero count continues after the next BNEXT. -/
def execBloop (j : Nat) (s : State) : Host.Outcome State Fault Refusal :=
  s.withBank fun b =>
    if b.loopStart.isSome then .next (s.faultBank b)
    else
      let n := (b.arg j).toNat
      let b1 := { b.step with lc := 0, limit := n }
      .next (s.putBank (if n = 0 then { b1 with skipping := true } else { b1 with loopStart := some b1.pc }))

/-- BNEXT (R212). -/
def execBnext (s : State) : Host.Outcome State Fault Refusal :=
  s.withBank fun b =>
    match b.loopStart with
    | none => .next (s.faultBank b)
    | some a =>
      let b1 := { b.step with lc := b.lc + 1 }
      .next (s.putBank (if b1.lc < b.limit then { b1 with pc := a } else { b1 with loopStart := none }))

/-- BSIG (R212, R287): a completion record of kind 0x04 to core aj; it waits while the queue there is full, and an
absent core faults. -/
def execBsig (j : Nat) (s : State) : Host.Outcome State Fault Refusal :=
  s.withBank fun b =>
    let n := (b.arg j).toNat
    if !s.corePresent n then .next (s.faultBank b)
    else if s.evFull n then .next s
    else .next ((s.postEv n (evData b.base n 0x04 b.ctx) b.die b.stamp).putBank b.step)

/-- The row access of a running program that misses in the MMU: its address, and whether it writes (R259). -/
def State.bankMiss (s : State) (b : BankCall) : Option (Nat × Bool) :=
  match s.xlateDie b.die b.ctx none .x b.pc with
  | .ok l =>
    match decodeBank (BitVec.ofNat 32 (s.natAt l 4)) with
    | some (.bld _ r) => if s.rowAt b r .r = .miss then some (b.rowVa r, false) else none
    | some (.bst _ r) => if s.rowAt b r .w = .miss then some (b.rowVa r, true) else none
    | _ => none
  | _ => none

end Sys2Proof.Machine
end

