-- ==== Sys2Proof/Machine/Matrix.lean ====
section
/-!
DEFINITION. Sys2Proof/Machine/Matrix.lean: the matrix queue and the array (R186 to R199), matrix
sums (R55, R56), converting stores and scale rings (R53, R54), and the fold log's appends (R320, R321).
-/
namespace Sys2Proof.Machine

/-! ### Entering the queue (R187, R197) -/

/-- A queue entry of a kind, with nothing latched but what every entry holds. -/
def mkMOp (kind : MKind) (ty : Ty) (acc : Nat) (w o : Wale) (clk : Nat) : MOp :=
  { id := 0, kind := kind, ty := ty, acc := acc, grp := o.mgOpen, issued := clk, recs := [], ha := 0
    o0 := 0, o1 := 0, o2 := 0, kk := 0, chain := none, vals := [], mask := 0, reg := 0, row := 0
    no := w.issueNo, standing := [], flag := none, rm := .rn, nosat := false, key := 0, candAt := none
    stalled := false, resv := none, after := o.fenced 2, insn := w.insn0 }

/-- While an abandonment of a wale is not delivered its queued operations are discarded (R198). -/
def Wale.discarding (o : Wale) : Bool := o.pend.any fun p => p.cause == .engineFault && p.detail == 0

/-- Append an operation to the queue of wale `id`, or discard it (R198). -/
def State.enterMq (s : State) (id : Nat) (m : MOp) : State :=
  match s.wale? id with
  | none => s
  | some o =>
    if o.discarding then s
    else
      let (n, s) := s.fresh
      s.onWale id fun x => ({ x with mq := x.mq ++ [{ m with id := n }] }).raise m.flag

/-- A MATRIX-QUEUE OPERATION: free entry, workgroup, the checks of its entry, strict mode, and then
its place in the queue; `tag` is the tag that its issue gives the accumulator (R185 to R187). -/
def State.mOp (s : State) (face : Face) (kinds : List WaleKind) (flag : Wale → Option Nat)
    (checks : Wale → Workgroup → List (Bool × Cause)) (uses : List Use)
    (mk : Wale → Wale → MOp) (tag : Option (Nat × Ty)) (occ : Nat) (res : Wale → List InFlight) :
    Host.Outcome State Fault Refusal :=
  s.engOp face kinds fun w o =>
    match s.wg? w.wg with
    | none => .next s
    | some g =>
      if 16 ≤ o.mq.length then .next (s.hold w .matrixQFull false)
      else if !o.canRaise (flag w) then .next (s.hold w .flagWait false)
      else match firstBad (checks w g) with
        | some c => s.raise w c (engLanes c (w.active face))
        | none =>
          match s.stallShort w uses with
          | some d => s.raise w .stallShort (w.active face) d
          | none =>
            let s1 := s.issueWith w (res w) occ 0
            let s2 := match tag with
              | some (k, ty) => s1.onWg g.id fun x => x.setTileTag k ty
              | none => s1
            .next (s2.enterMq o.id (mk w o))

/-- The kinds of program that may issue the matrix operations of a matrix stream (R208). -/
def matrixKinds : List WaleKind := [.wale, .streamM]

/-! ### MMA and MMAZ (R188 to R192) -/

/-- Whether a format serves an MMA mode (R189). -/
def mmaFmt (mode f : Ty) : Bool :=
  if mode == .e4m3 || mode == .e5m2 then f == .e4m3 || f == .e5m2 else f == mode

/-- LAYOUT_BAD of an operand layout (R185, R189). -/
def State.mmaLayBad (s : State) (w : Wale) (mode : Ty) (r : LRec) : Bool :=
  !lValid r || lRank r != 2 || !(lSpace r == 2 || lSpace r == 3) || !mmaFmt mode (lFmt r) ||
    (lSpace r == 3 && !peerOk w.core r)

/-- The block-scale layout of a record (R221, R222). -/
def State.scaleRec (s : State) (ctx : Nat) (r : LRec) : LRec :=
  if lFmt r = .q4 then s.layout ctx (field r 894 885) else 0

/-- MMA and MMAZ enter the queue (R188 to R192). -/
def State.mmaIssue (s : State) (f : MmaForm) (zero : Bool) : Host.Outcome State Fault Refusal :=
  let c := s.clk
  let kk := 32 * (f.kc + 1)
  let recA (w : Wale) := s.layout w.ctx f.ha
  let recB (w : Wale) := s.layout w.ctx f.hb
  let sc (w : Wale) (n : Nat) := (w.sAt n c).toNat
  let accTy := if f.ty = .f64 then Ty.f64 else .f32
  s.mOp f.face matrixKinds (fun _ => none)
    (fun w g =>
      let o := (s.wale? (State.ownerId w)).getD w
      [(f.ch && o.lastCopy.isNone, .illegalMod),
       (!g.granted accTy f.acc, .access),
       (s.mmaLayBad w f.ty (recA w) || s.mmaLayBad w f.ty (recB w), .layoutBad),
       (!zero && !g.tagged accTy f.acc, .fmtMismatch),
       (boxFault (recA w) [sc w f.sk, sc w f.sm] [kk, 128] ||
          boxFault (recB w) [sc w f.sk, sc w f.sn] [kk, 128], .layoutRange),
       (f.ty == .q4 && sc w f.sk % 32 != 0, .misalign)])
    ([f.sk, f.sm, f.sn].map (Use.mk .s))
    (fun w o =>
      { mkMOp (if zero then .mmaz else .mma) f.ty f.acc w o c with
        recs := [recA w, recB w, s.scaleRec w.ctx (recA w), s.scaleRec w.ctx (recB w)]
        o0 := sc w f.sk, o1 := sc w f.sm, o2 := sc w f.sn, kk := kk
        chain := if f.ch then o.lastCopy else none })
    (some (f.acc, accTy)) 1 (fun _ => [])

/-- MMA (R190). -/
def execMma (f : MmaForm) (s : State) : Host.Outcome State Fault Refusal := s.mmaIssue f false
/-- MMAZ (R190). -/
def execMmaz (f : MmaForm) (s : State) : Host.Outcome State Fault Refusal := s.mmaIssue f true

/-! ### MZERO, MREAD, MWRITE (R193, R194) -/

/-- MZERO (R193). -/
def execMzero (f : MzeroForm) (s : State) : Host.Outcome State Fault Refusal :=
  s.mOp f.face matrixKinds (fun _ => none) (fun _ g => [(!g.granted f.ty f.acc, .access)]) []
    (fun w o => mkMOp .mzero f.ty f.acc w o s.clk) (some (f.acc, f.ty)) 1 (fun _ => [])

/-- The registers of the run of MREAD and MWRITE (R194). -/
def mrwRun (f : MrwForm) : List Nat := (List.range (if f.ty = .f64 then 8 else 4)).map (f.d + ·)

/-- MREAD (R194): the run is tagged at issue, and its registers are written in the queue turn. -/
def execMread (f : MrwForm) (s : State) : Host.Outcome State Fault Refusal :=
  s.mOp f.face [.wale] (fun w => w.flagSel f.fsel)
    (fun w g =>
      let act := w.active f.face
      [((w.flagSel f.fsel).isNone, .illegalMod),
       ((mrwRun f).any fun r => !w.inSet r, .wsetMiss),
       (!g.granted f.ty f.acc, .access),
       (!g.tagged f.ty f.acc, .fmtMismatch),
       ((mrwRun f).any fun r => w.partialBad r act f.ty s.clk, .fmtPartial),
       (decide (127 < w.uniVal f.row s.clk), .idxRange)])
    (uniUses f.row)
    (fun w o =>
      let act := w.active f.face
      { mkMOp .mread f.ty f.acc w o s.clk with
        mask := act, reg := f.d, row := w.uniVal f.row s.clk, flag := w.flagSel f.fsel
        standing := (mrwRun f).map fun _ => act })
    none 1 (fun w => (mrwRun f).map fun r => tagFlight w r f.ty s.clk 1)

/-- The values that MWRITE reads in its beats: of each active thread, four elements (R194). -/
def Wale.mwriteVals (w : Wale) (f : MrwForm) (clk : Nat) : List W64 :=
  threads.flatMap fun t => (List.range 4).map fun j =>
    let v (r : Nat) : W64 := (w.vAt r t (clk + t / 8)).zeroExtend 64
    if f.ty = .f64 then v (f.d + 2 * j + 1) <<< 32 ||| v (f.d + 2 * j) else v (f.d + j)

/-- MWRITE (R194). -/
def execMwrite (f : MrwForm) (s : State) : Host.Outcome State Fault Refusal :=
  s.mOp f.face [.wale] (fun w => w.flagSel f.fsel)
    (fun w g =>
      let tagOk (k : Nat) : Bool := g.tileTag k == .raw || g.tileTag k == f.ty
      [((mrwRun f).any fun r => !w.inSet r, .wsetMiss),
       (!g.granted f.ty f.acc, .access),
       (((mrwRun f).any fun r => w.tagAt r s.clk != f.ty) || !tagOk f.acc ||
          (f.ty == .f64 && !tagOk (f.acc + 1)), .fmtMismatch),
       (decide (127 < w.uniVal f.row s.clk), .idxRange)])
    (uniUses f.row ++ (mrwRun f).map (Use.mk .v))
    (fun w o =>
      { mkMOp .mwrite f.ty f.acc w o s.clk with
        mask := w.active f.face, vals := w.mwriteVals f s.clk, row := w.uniVal f.row s.clk
        flag := w.flagSel f.fsel })
    (some (f.acc, f.ty)) 4 (fun _ => [])

/-! ### MSTORE and STFOLD at issue (R195, R196, R320) -/

/-- The record of a handle; an invalid one where the handle names no entry. -/
def State.handleRec (s : State) (w : Wale) (h : Handle) : LRec :=
  match w.handle h s.clk with
  | some n => s.layout w.ctx n
  | none => 0

/-- The scalar that a handle reads. -/
def handleUses : Handle → List Use
  | .sc n => [⟨.s, n⟩]
  | .imm _ => []

/-- Formats that MSTORE writes from a tile (R195). -/
def mstoreFmts (tag : Ty) : List Ty :=
  if tag = .f64 then [.f64, .f32] else [.f32, .bf16, .f16, .e4m3, .e5m2]

/-- The kind of element that a tile's tag declares: f64 pairs, or f32. -/
def accTy (tag : Ty) : Ty := if tag = .f64 then .f64 else .f32

/-- MSTORE (R195): a tile tagged f64 must be an even one. -/
def execMstore (f : MstoreForm) (s : State) : Host.Outcome State Fault Refusal :=
  let c := s.clk
  let tagOf (w : Wale) : Ty := match s.wg? w.wg with | some g => g.tileTag f.acc | none => .raw
  let rec' (w : Wale) := s.handleRec w f.handle
  s.mOp f.face matrixKinds (fun _ => none)
    (fun w g =>
      let r := rec' w
      let tag := g.tileTag f.acc
      [(tag == .f64 && f.acc % 2 == 1, .illegalField),
       (f.nosat && !(lFmt r == .e4m3 || lFmt r == .e5m2) && lValid r, .illegalMod),
       (!g.granted (accTy tag) f.acc, .access),
       (!lValid r || lRank r != 2 || decide (3 < lSpace r) ||
          (tag != .raw && !decide (lFmt r ∈ mstoreFmts tag)) ||
          (tag == .raw && !decide (lFmt r ∈ Ty.f64 :: mstoreFmts .f32)) || outsideMesh r ||
          (lSpace r == 3 && !peerOk w.core r) ||
          (imaged r g.sym && imageMisfit r g.sym g.grids), .layoutBad),
       (tag == .raw || !g.tagged (accTy tag) f.acc, .fmtMismatch),
       (boxFault r [(w.sAt f.sc0 c).toNat, (w.sAt f.sc1 c).toNat] [128, 128], .layoutRange)])
    (handleUses f.handle ++ [f.sc0, f.sc1].map (Use.mk .s))
    (fun w o =>
      { mkMOp .mstore (accTy (tagOf w)) f.acc w o c with
        recs := [rec' w], ha := (w.handle f.handle c).getD 0
        o0 := (w.sAt f.sc0 c).toNat, o1 := (w.sAt f.sc1 c).toNat, rm := f.rm, nosat := f.nosat })
    none 1 (fun _ => [])

/-- The shape that a fold-log layout must have: rank 1, n32, space 0, 64 + 16,448 n words (R320). -/
def foldLogShape (l : LRec) : Bool :=
  lValid l && lRank l == 1 && lFmt l == .n32 && lSpace l == 0 && decide (64 ≤ lExt l 0) &&
    (lExt l 0 - 64) % 16448 == 0

/-- A fold-log layout has that shape, with n the NENT that its control block holds as the STFOLD issues; where that word
does not translate n is left open (R320; log 120). A package outside the log's mesh has no access to it (R343). -/
def State.foldLogOk (s : State) (core ctx : Nat) (l : LRec) : Bool :=
  foldLogShape l && !outsideMesh l && (match s.xlateAt core ctx (some 0) .r (lAddr l [4]).toNat with
    | .ok a => lExt l 0 == 64 + 16448 * s.natAt a 4
    | _ => true)

/-- STFOLD (R196). -/
def execStfold (f : StfoldForm) (s : State) : Host.Outcome State Fault Refusal :=
  let c := s.clk
  let rec' (w : Wale) := s.handleRec w f.handle
  let log (w : Wale) := s.layout w.ctx (field (rec' w) 883 874)
  s.mOp f.face matrixKinds (fun _ => none)
    (fun w g =>
      let r := rec' w
      [(!g.granted .f32 f.acc, .access),
       (!lValid r || lRank r != 2 || lSpace r != 0 || lFmt r != .f32 || !r.getLsbD 884 || !s.foldLogOk w.core w.ctx (log w) ||
          ((List.range 2).any fun j => lExt r j % 128 != 0) || outsideMesh r || imaged r g.sym, .layoutBad),
       (g.tileTag f.acc != .f32, .fmtMismatch),
       (decide ((w.sAt f.sc0 c).toNat % 128 ≠ 0 ∨ (w.sAt f.sc1 c).toNat % 128 ≠ 0), .misalign)])
    (handleUses f.handle ++ [f.sc0, f.sc1, f.sb].map (Use.mk .s))
    (fun w o =>
      { mkMOp .stfold .f32 f.acc w o c with
        recs := [log w], ha := (w.handle f.handle c).getD 0
        o0 := (w.sAt f.sc0 c).toNat, o1 := (w.sAt f.sc1 c).toNat, key := w.sAt f.sb c })
    none 1 (fun _ => [])

/-! ### MCOMMIT and MWAIT (R197 to R199) -/

/-- The sealed groups of a wale that are not complete: groups complete in sealing order (R198). -/
def Wale.groupsOut (w : Wale) : Nat :=
  w.mgOpen - (w.mq.map MOp.grp).foldl min w.mgOpen

/-- MCOMMIT (R197): the open group is sealed; a ninth sealed group holds the wale. -/
def execMcommit (face : Face) (s : State) : Host.Outcome State Fault Refusal :=
  s.engOp face matrixKinds fun w o =>
    if 8 ≤ o.groupsOut then .next (s.hold w .matrixQFull false)
    else .next ((s.issued w 0).onWale o.id fun x => { x with mgOpen := x.mgOpen + 1 })

/-- The faults that an MWAIT delivers: matrix, unflagged bank programs, images (R199, R213, R384). -/
def Wale.mwaitFault (o : Wale) : Option PendFault :=
  o.pend.find? fun p => p.cause == .engineFault &&
    (p.detail == 0 || (p.detail == 3 && p.flag.isNone) || p.detail == 4)

/-- An acquire at a scope of what engines have completed: later loads do not use older clean lines (R241, R243). -/
def State.engAcquire (s : State) (id : Nat) (sc : Scope) : State :=
  s.acquireBy id (match s.wale? id with | some w => w.issueNo | none => 0) [] sc false

/-- MWAIT (R197, R199, R254): a pending abandonment traps outside a handler; otherwise the wale
waits until at most n sealed groups are outstanding, and acquires. -/
def execMwait (f : WaitForm) (s : State) : Host.Outcome State Fault Refusal :=
  s.engOp f.face matrixKinds fun w o =>
    match (if w.trap.isSome then none else o.mwaitFault) with
    | some p => s.deliver w o p
    | none =>
      if f.n < o.groupsOut then .next (s.hold w .flagWait true)
      else .next ((s.issued w 0).engAcquire o.id f.scope)

/-! ### Matrix sums (R55, R56) -/

/-- The exact sum of a group's products, before its rounding (R55). -/
def groupSum (ps : List FVal) : FVal :=
  let infP := ps.any fun v => v == .inf false
  let infN := ps.any fun v => v == .inf true
  if (ps.any FVal.isNan) || (infP && infN) then .nan false
  else if infP then .inf false
  else if infN then .inf true
  else
    let negZero := ps.all fun v => v.isZero && v.sgn
    (ps.foldl (fun (d : Dy) v => d.add v.dy) ⟨0, 0⟩).val negZero

/-- A group's contribution G_j as an f32 image (R55). -/
def groupBits (as bs : List FVal) : Nat :=
  let ps := (as.zip bs).map fun p => (p.1.mul p.2).1
  (fmt32.write {} 0 (groupSum ps)).bits

/-- The accumulator after `n` groups of 32 (R55). -/
def sumGroups : Nat → Nat → List FVal → List FVal → Nat
  | 0, c, _, _ => c
  | n + 1, c, as, bs =>
    sumGroups n (f32Add c (groupBits (as.take 32) (bs.take 32))) (as.drop 32) (bs.drop 32)

/-- The f64 accumulator: one fused rounding per product, k ascending (R56). -/
def sumFused (c : Nat) (as bs : List FVal) : Nat :=
  (as.zip bs).foldl (fun c p =>
    let (v, x) := FVal.fma .rn p.1 p.2 (fmt64.decode c)
    (fmt64.write {} x v).bits) c

/-- One accumulator element (R190). -/
def mmaElem (ty : Ty) (kk c : Nat) (as bs : List FVal) : Nat :=
  if ty = .f64 then sumFused c as bs else sumGroups (kk / 32) c as bs

/-! ### Operands of the array (R189, R190) -/

/-- The value of an operand element; none where its window is not held (R199). A q4 element is its
code under its block's scale byte in the scale layout `b` (R47, R49). -/
def State.operand (s : State) (g : Workgroup) (core : Nat) (r b : LRec) (cs : List Int) : Option FVal :=
  match fitCoords r cs with
  | .ok cs =>
    if lFmt r = .q4 then
      let lin := lLin r cs
      match s.nearLoc g core r (lByte r lin) 1,
          s.nearLoc g core b (lAddr b [cs.getD 0 0 / 32, cs.getD 1 0]) 1 with
      | .ok l, .ok m => some (q4Value (s.byteAt m).toNat ((s.byteAt l).toNat / (if lin % 2 = 0 then 1 else 16) % 16))
      | _, _ => none
    else
      match s.nearLoc g core r (lAddr r cs) (elemSize (lFmt r)) with
      | .ok l => some ((fmtOf (lFmt r)).decode (s.natAt l (elemSize (lFmt r))))
      | _ => none
  | _ => some (.num false 0 0)

/-- Row `i` of an operand: K values from k0. -/
def State.operandRow (s : State) (g : Workgroup) (core : Nat) (r b : LRec) (k0 x kk : Nat) : Option (List FVal) :=
  (List.range kk).foldr (fun k acc =>
    match acc, s.operand g core r b [((k0 + k : Nat) : Int), (x : Int)] with
    | some l, some v => some (v :: l)
    | _, _ => none) (some [])

/-- The 128 rows of an operand. -/
def State.operandRows (s : State) (g : Workgroup) (core : Nat) (r b : LRec) (k0 x0 kk : Nat) :
    Option (List (List FVal)) :=
  (List.range 128).foldr (fun i acc =>
    match acc, s.operandRow g core r b k0 (x0 + i) kk with
    | some l, some v => some (v :: l)
    | _, _ => none) (some [])

/-- Record `n` that an entry latched. -/
def MOp.rec' (m : MOp) (n : Nat) : LRec := m.recs.getD n 0

/-- The result of an MMA on its tile; none where an operand's window is not held (R190, R199). -/
def State.mmaResult (s : State) (g : Workgroup) (core : Nat) (m : MOp) : Option Workgroup :=
  match s.operandRows g core (m.rec' 0) (m.rec' 2) m.o0 m.o1 m.kk,
      s.operandRows g core (m.rec' 1) (m.rec' 3) m.o0 m.o2 m.kk with
  | some as, some bs =>
    let ty := accTy m.ty
    let xs := (List.range 128).flatMap fun i => (List.range 128).map fun j =>
      let c := if m.kind == .mmaz then 0 else g.accAt ty m.acc (128 * i + j)
      mmaElem m.ty m.kk c (as.getD i []) (bs.getD j [])
    some (g.tilePut m.acc 0 (tileWords ty xs))
  | _, _ => none

/-! ### Performing and abandoning (R187, R198, R199) -/

/-- The operation at the head of a queue is performed: its flag falls and its entry is freed. -/
def State.popMq (s : State) (id : Nat) : State :=
  s.onWale id fun w =>
    match w.mq with
    | m :: r => ({ w with mq := r }).lower m.flag
    | [] => w

/-- ABANDONING the head (R198, R199): the wale's queued operations are discarded, their flags fall,
and the fault is pending. -/
def State.abandonMq (s : State) (id : Nat) : State :=
  match s.wale? id with
  | none => s
  | some w =>
    match w.mq with
    | [] => s
    | m :: _ =>
      let w1 := w.mq.foldl (fun x o => x.lower o.flag) { w with mq := [] }
      s.putWale { w1 with pend := w.pend ++ [⟨.engineFault, 0, m.insn, none⟩] }

/-- Whether the copy that an MMA is chained to was rejected or abandoned (R192). -/
def Workgroup.chainBad (g : Workgroup) (id : Nat) : Bool :=
  g.badCopies.contains id || (g.copies.any fun c => c.id == id && c.rejected)

/-- Whether the copy that an MMA is chained to has written its last byte (R192). -/
def Workgroup.chainDone (g : Workgroup) (id : Nat) : Bool :=
  !g.chainBad id && !(g.copies.any fun c => c.id == id)

/-- Whether a kind is served by the array. -/
def MKind.onArray : MKind → Bool
  | .mma | .mmaz => true
  | _ => false

/-- Whether an entry at the head of its queue can begin: what QFENCE puts before it and its chained copy are done, and an
MMA was issued 24 clk ago (R174, R187, R190, R192, log 48). -/
def State.canBegin (s : State) (g : Workgroup) (m : MOp) : Bool :=
  !(m.after.any s.pendingId) && (match m.chain with | some c => g.chainDone c | none => true) &&
    (!m.kind.onArray || decide (m.issued + 24 ≤ s.clk))

/-- The MMA at the head of a queue is noted as a candidate (R187). -/
def State.markCand (s : State) (w : Wale) : Wale :=
  match w.mq, s.wg? w.wg with
  | m :: r, some g =>
    if m.kind.onArray && m.candAt.isNone && s.canBegin g m then { w with mq := { m with candAt := some s.clk } :: r } else w
  | _, _ => w

/-- The candidates of every queue are noted (R187). -/
def State.candClk (s : State) : State := { s with wales := s.wales.map s.markCand }

/-- The array's MACs per clk in a mode (R11, R190). -/
def macRate (ty : Ty) : Nat :=
  match ty with
  | .f64 => 1024 | .f32 => 4096 | .e4m3 | .e5m2 => 32768 | .q4 => 65536
  | _ => 16384

/-- The clk at which the MMA at the head of a wale's queue became a candidate, if it is one (R187). -/
def State.candAt (s : State) (w : Wale) : Option Nat :=
  match (s.markCand w).mq with
  | m :: _ => m.candAt
  | [] => none

/-- The tiles that an operation is on. -/
def MOp.tiles (m : MOp) : List Nat := if m.ty = .f64 then [m.acc, m.acc + 1] else [m.acc]

/-- An operation is at work on its tile: the array serves it, or it is an MSTORE that has begun and pauses, but not one that a
fault stalls, which holds back its own queue alone (R187, R195, R199). -/
def State.atWork (s : State) (w : Wale) (m : MOp) : Bool :=
  (match mFind s.arrays w.core with | some a => a.wale == w.id && a.op == m.id | none => false) ||
    (m.kind == .mstore && !m.stalled && (m.resv.isSome || m.next != 0))

/-- Another wale's operation is at work on a tile of this one, which waits: each operation behaves as if it ran alone (R187). -/
def State.tileHeld (s : State) (w : Wale) (m : MOp) : Bool :=
  s.wales.any fun x => x.wg == w.wg && x.id != w.id &&
    match x.mq with | y :: _ => (y.tiles.any m.tiles.contains) && s.atWork x y | [] => false

/-- The candidate that the array of a core serves next: earliest candidate, then lower slot (R187); a wale that a hard
stop has reached starts no more (R262), and none starts while the power controller withholds starts (R381). -/
def State.nextMma (s : State) (core : Nat) : Option Wale :=
  let free (w : Wale) : Bool := match w.mq with | m :: _ => !s.tileHeld w m | [] => false
  let l := if s.clk < s.withheld then []
    else s.wales.filter fun w => w.core == core && w.kind == .wale && w.life == .resident && (s.candAt w).isSome && free w
  l.foldl (fun (b : Option Wale) w =>
    match b with
    | none => some w
    | some x =>
      let cw := (s.candAt w).getD 0
      let cx := (s.candAt x).getD 0
      if cw < cx || (cw == cx && decide (w.slot < x.slot)) then some w else b) none

/-- ARRAY_SERVE (R187, R190): the array of a core takes its next candidate. -/
def execArrayServe (core : Nat) (s : State) : Host.Outcome State Fault Refusal :=
  if (mFind s.arrays core).isSome then .next s
  else match s.nextMma core with
    | none => .next s
    | some w =>
      match w.mq with
      | [] => .next s
      | m :: _ => .next { s with arrays := mPut s.arrays core ⟨w.id, m.id, s.clk + m.kk * 16384 / macRate m.ty⟩ }

/-- MMA_COMPLETE (R190): the MMA being served writes its tile, all elements together; it is
abandoned when an operand's window is not held (R199). -/
def execMmaComplete (core : Nat) (s : State) : Host.Outcome State Fault Refusal :=
  match mFind s.arrays core with
  | none => .next s
  | some a =>
    if s.clk < a.done then .next s
    else
      let s := { s with arrays := mDel s.arrays core }
      match s.wale? a.wale with
      | none => .next s
      | some w =>
        match w.mq, s.wg? w.wg with
        | m :: _, some g =>
          if m.id ≠ a.op then .next s
          else match s.mmaResult g core m with
            | some g => .next ((s.putWg g).popMq w.id)
            | none => .next (s.abandonMq w.id)
        | _, _ => .next s

/-! ### Converting stores (R53, R54, R195) -/

/-- The largest finite value of a ring's destination (R53); none for a format without scaling. -/
def ringMax (ty : Ty) : Option FVal :=
  match ty with
  | .e4m3 | .e5m2 | .f16 | .bf16 => some ((fmtOf ty).decode (fmtOf ty).maxBits)
  | _ => none

/-- The scale exponent of R53 from the ring's largest entry. -/
def ringScale (ty : Ty) (m : FVal) : Int :=
  match ringMax ty, m with
  | none, _ => 0
  | _, .inf _ => -126
  | some _, .nan _ => 0
  | some _, .num _ 0 _ => 0
  | some f, m =>
    -- floor(log2(fmax / m)): the largest k with m × 2^k ≤ fmax
    let k := f.ilog2 - m.ilog2
    let high := f.dy.lt ⟨m.dy.n, m.dy.e + k⟩
    max (-126) (min 127 (if high then k - 1 else k))

/-- The largest of f32 images that are not NaN, zero if there is none (R53). -/
def amaxOf (vs : List FVal) : FVal :=
  vs.foldl (fun b v => if v.isNan then b else magMax b v) (.num false 0 0)

/-- One ring step (R53, R54): the scale from the ring as it stands, then the push of the amax. An
amax of f64 elements that no f32 holds exactly is pushed as a free value (log 8). -/
def State.ringStep (s : State) (ctx : Nat) (r : LRec) (vs : List FVal) : Int × State :=
  let n := field r 862 857
  let ring := s.ring ctx n
  let m := amaxOf (ring.map fun x => fmt32.decode x.toNat)
  let k := ringScale (lFmt r) m
  let am := amaxOf vs
  let w := fmt32.write {} 0 am
  let (x, s) : W32 × State :=
    if w.exc = 0 then (BitVec.ofNat 32 w.bits, s)
    else (Config.freeWord s.free, { s with free := s.free + 1 })
  (k, { s with rings := mSet (List.replicate 16 0) s.rings (ctx * 64 + n) (ring.drop 1 ++ [x]) })

/-- A value times 2^k, exact. -/
def FVal.scale (v : FVal) (k : Int) : FVal :=
  match v with
  | .num n m e => .num n m (e + k)
  | v => v

/-- The tile of an MSTORE as images: what it latched when a fault stalled it, or the tile as it stands. -/
def MOp.tileBits (m : MOp) (g : Workgroup) : List W64 :=
  if m.vals.isEmpty then (List.range 16384).map fun n => BitVec.ofNat 64 (g.accAt m.ty m.acc n) else m.vals

/-- The tile values of an entry. -/
def MOp.tileVals (m : MOp) (g : Workgroup) : List FVal := (m.tileBits g).map fun x => (fmtOf m.ty).decode x.toNat

/-- The die of a record's scale ring is awake and has applied the stamp that the step carries (R232, R246, R380). -/
def State.ringReady (s : State) (w : Wale) (m : MOp) : Bool :=
  let r := m.rec' 0
  let d := (ringHome (field r 862 857)).1
  !r.getLsbD 863 || m.resv.isSome || (s.awake d && stampLe w.stamp (s.applied d))

/-- One element that an MSTORE writes: its index in the tile, its place and its image addresses. -/
structure MElem where
  n : Nat
  loc : EngLoc
  imgs : List (Nat × Bool)
  deriving DecidableEq, Repr

/-- The elements that an MSTORE writes, those under zero mode dropped (R160, R195). -/
def State.mstorePlan (s : State) (w : Wale) (g : Workgroup) (m : MOp) : List MElem :=
  let r := m.rec' 0
  (List.range 16384).filterMap fun n =>
    match fitCoords r [((m.o0 + n % 128 : Nat) : Int), ((m.o1 + n / 128 : Nat) : Int)] with
    | .ok cs => some ⟨n, s.engLoc g w.core w.ctx r .w (lAddr r cs) (elemSize (lFmt r)), imagePlaces g r cs⟩
    | _ => none

/-- The ring step of an MSTORE, made once: the scale exponent. The amax is that of the elements that it writes (R53, R54,
R195, log 55). -/
def State.mstoreStep (s : State) (w : Wale) (g : Workgroup) (m : MOp) : Int × State :=
  let r := m.rec' 0
  match m.resv with
  | some x => ((x : Int) - 126, s)
  | none =>
    if !r.getLsbD 863 then (0, s)
    else
      let vs := m.tileVals g
      let (k, s) := s.ringStep w.ctx r ((s.mstorePlan w g m).map fun e => vs.getD e.n (.num false 0 0))
      (k, s.onWale w.id fun x =>
        { x with mq := x.mq.map fun o => if o.id == m.id then { o with resv := some (k + 126).toNat } else o })

/-- The address of the first access of an MSTORE that a translation fault stalls. -/
def State.mstoreFault (s : State) (w : Wale) (g : Workgroup) (m : MOp) : Option Nat :=
  let r := m.rec' 0
  (List.range 16384).findSome? fun n =>
    match fitCoords r [((m.o0 + n % 128 : Nat) : Int), ((m.o1 + n / 128 : Nat) : Int)] with
    | .ok cs =>
      (match s.engLoc g w.core w.ctx r .w (lAddr r cs) (elemSize (lFmt r)) with
       | .bad _ => some (lAddr r cs).toNat
       | _ => none)
    | _ => none

/-- The images of one performed engine store join the rim's lane (R309 to R314). -/
def State.pushImgs (s : State) (w : Wale) (r : LRec) (m : MOp) (vas : List (Nat × Bool)) (bits : Nat) : State :=
  vas.foldl (fun (s : State) p =>
    let (id, s) := s.fresh
    { s with images := s.images ++
        [{ id := id, wg := w.wg, wale := w.id, lane := dieOf w.core, ctx := w.ctx, space := lSpace r, va := p.1
           size := elemSize (lFmt r), val := BitVec.ofNat 64 (imageVal (lFmt r) (field (lImage r) 30 29 == 1) bits), handle := m.ha
           stamp := w.stamp, stalled := false, insn := m.insn }] }) s

/-- Write those elements of a plan that `p` picks and that have a place (R195); one that has images waits for the lane, and
with it every later one: how many elements have been passed (R314). -/
def State.mstoreWrite (s : State) (w : Wale) (m : MOp) (k : Int) (vs : List FVal) (p : Nat → Bool) : List MElem → State × Nat
  | [] => (s, 0)
  | e :: rest =>
    let r := m.rec' 0
    match e.loc with
    | .ok l =>
      if !p e.n then (fun x => (x.1, x.2 + 1)) (s.mstoreWrite w m k vs p rest)
      else if !e.imgs.isEmpty && s.laneFull (dieOf w.core) then (s, 0)
      else
        let x := toFloat (lFmt r) { rm := m.rm, nosat := m.nosat } 0 ((vs.getD e.n (.num false 0 0)).scale k)
        let s := s.engWrite (clusterOf w.core) l (leBytes (elemSize (lFmt r)) x.bits)
        (fun x => (x.1, x.2 + 1)) ((s.pushImgs w r m e.imgs x.bits).mstoreWrite w m k vs p rest)
    | _ => (fun x => (x.1, x.2 + 1)) (s.mstoreWrite w m k vs p rest)

/-- The first element of an MSTORE that meets an uncorrectable word: what that leaves (R357). -/
def State.mstoreSpoiled (s : State) (w : Wale) (m : MOp) (plan : List MElem) : Option State :=
  if s.badWords.isEmpty then none
  else
    let r := m.rec' 0
    plan.findSome? fun e =>
      match e.loc, fitCoords r [((m.o0 + e.n % 128 : Nat) : Int), ((m.o1 + e.n / 128 : Nat) : Int)] with
      | .ok l, .ok cs =>
        s.spoiled l (elemSize (lFmt r)) true
          { ctx := w.ctx, core := w.core, slot := w.slot, va := (lAddr r cs).toNat, body := coordWords cs, handle := some m.ha }
      | _, _ => none

/-- The pages of an MSTORE's elements are in the core's caches (R337). -/
def State.mstoreFill (s : State) (w : Wale) (m : MOp) (plan : List MElem) : State :=
  let r := m.rec' 0
  if 2 ≤ lSpace r then s
  else plan.foldl (fun (s : State) e =>
    match fitCoords r [((m.o0 + e.n % 128 : Nat) : Int), ((m.o1 + e.n / 128 : Nat) : Int)] with
    | .ok cs => s.fillVa w.core w.ctx (lAddr r cs).toNat
    | _ => s) s

/-- MSTORE in its queue turn: it stalls on a translation fault, is abandoned where a window is not
held, and otherwise writes every element (R195, R199). -/
def State.mstorePerform (s : State) (w : Wale) (g : Workgroup) (m : MOp) : Host.Outcome State Fault Refusal :=
  let plan := (s.mstorePlan w g m).drop m.next
  if plan.any fun e => e.loc == .absent then fin { s with absentHit := true }
  else if !s.ringReady w m || plan.any fun e => match e.loc with | .bad _ => true | .ok l => !s.engReady l w.core w.stamp | _ => false then .next s
  else
    let vs := m.tileVals g
    let (k, s) := s.mstoreStep w g m
    if plan.any fun e => e.loc == .unheld || e.loc == .refused then .next (s.abandonMq w.id)
    else match s.mstoreSpoiled w m plan with
    | some t => .next t
    | none =>
      let (s, n) := s.mstoreWrite w m k vs (fun _ => true) plan
      let s := s.mstoreFill w m plan
      if n = plan.length then fin (s.popMq w.id)
      else .next (s.onWale w.id fun x =>
        { x with mq := x.mq.map fun o => if o.id == m.id then { o with next := m.next + n } else o })

/-- An MSTORE that is refused may have written any of its elements (R199): a free choice (log 6). -/
def State.mstoreAbandon (s : State) (w : Wale) (g : Workgroup) (m : MOp) : State :=
  let plan := (s.mstorePlan w g m).drop m.next
  let vs := m.tileVals g
  let (k, s) := s.mstoreStep w g m
  let n := s.free
  let s := (s.mstoreWrite w m k vs (fun i => Config.freeChoice (n + i) 2 % 2 == 1) plan).1
  { s with free := n + 16384 }.abandonMq w.id

/-! ### MZERO, MREAD, MWRITE in their turn (R193, R194) -/

/-- MREAD in its turn: the standing elements of its run are written (R30, R194, R255). -/
def State.mreadPerform (s : State) (w : Wale) (g : Workgroup) (m : MOp) : State :=
  let per := if m.ty = .f64 then 2 else 1
  (List.range m.standing.length).foldl (fun s i =>
    threads.foldl (fun s t =>
      if (m.standing.getD i 0).getLsbD t then
        s.landV w.id (m.reg + i) t m.no
          (g.tileW m.acc (per * (128 * m.row + 4 * t + i / per) + i % per))
      else s) s) s

/-- MWRITE in its turn: the active threads' columns of the row (R194). -/
def mwriteTile (g : Workgroup) (m : MOp) : Workgroup :=
  let per := if m.ty = .f64 then 2 else 1
  threads.foldl (fun g t =>
    if m.mask.getLsbD t then
      g.tilePut m.acc (per * (128 * m.row + 4 * t))
        (tileWords m.ty ((List.range 4).map fun j => (m.vals.getD (4 * t + j) 0).toNat))
    else g) g

/-- MZERO in its turn. -/
def mzeroTile (g : Workgroup) (m : MOp) : Workgroup :=
  g.tilePut m.acc 0 (List.replicate (if m.ty = .f64 then 32768 else 16384) 0)

/-- The operation at the head of a wale's queue may be performed: it can begin, no stall and no hard stop holds it, and no
other wale's operation is at work on its tile (R187, R199, R262). -/
def State.mqGo (s : State) (w : Wale) (g : Workgroup) (m : MOp) : Bool :=
  s.canBegin g m && !m.stalled && w.life == .resident && !s.tileHeld w m

/-- MATRIX_OP_PERFORMED (R193 to R198): the operation at the head of a wale's queue, other than an
MMA or STFOLD, is performed when it can begin. -/
def execMatrixOpPerformed (id : Nat) (s : State) : Host.Outcome State Fault Refusal :=
  match s.wale? id with
  | none => .next s
  | some w =>
    match w.mq, s.wg? w.wg with
    | m :: _, some g =>
      if !s.mqGo w g m then .next s
      else match m.kind with
        | .mzero => .next ((s.putWg (mzeroTile g m)).popMq id)
        | .mwrite => .next ((s.putWg (mwriteTile g m)).popMq id)
        | .mread => .next ((s.mreadPerform w g m).popMq id)
        | .mstore => s.mstorePerform w g m
        | _ => .next s
    | _, _ => .next s

/-- MATRIX_OP_ABANDON (R192, R199): the head's chained copy was rejected or abandoned. -/
def execMatrixOpAbandon (id : Nat) (s : State) : Host.Outcome State Fault Refusal :=
  match s.wale? id with
  | none => .next s
  | some w =>
    match w.mq, s.wg? w.wg with
    | m :: _, some g =>
      (match m.chain with
       | some c => if g.chainBad c then .next (s.abandonMq id) else .next s
       | none => .next s)
    | _, _ => .next s

/-! ### The fold log (R320, R321) -/

/-- Word `n` of a log's control block or entries: its place, as a unit of a die translates it (R337). -/
def State.logWord (s : State) (die ctx : Nat) (log : LRec) (p : Perm) (n : Nat) : EngLoc :=
  EngLoc.ofXl (s.xlateDie die ctx (some 0) p (lAddr log [(n : Int)]).toNat)

/-- The words of an entry (R321). -/
def foldEntry (g : Workgroup) (core : Nat) (m : MOp) (seq : Nat) : List Nat :=
  [m.o0, m.o1, m.key.toNat, core, seq, m.ha] ++ List.replicate 58 0 ++
    (List.range 16384).map fun n => (g.tileW m.acc n).toNat

/-- A control word of a log as a number. -/
def State.logGet (s : State) (die ctx : Nat) (log : LRec) (n : Nat) : Nat :=
  match s.logWord die ctx log .r n with
  | .ok l => s.natAt l 4
  | _ => 0

/-- Write one word of a log (R321). -/
def State.logPut (s : State) (ctx core : Nat) (log : LRec) (n v : Nat) : State :=
  match s.logWord (dieOf core) ctx log .w n with
  | .ok l => s.engWrite (clusterOf core) l (leBytes 4 v)
  | _ => s

/-- The words that an append of reservation `seq` touches: those of the control block, and its slot's. -/
def foldWords (nent seq : Nat) : List Nat :=
  [1, 2, 3, 4] ++ (List.range 16448).map fun i => 64 + 16448 * (seq % nent) + i

/-- The first word of a log that an append cannot reach, and whether a frame is absent. -/
def State.foldFault (s : State) (die ctx : Nat) (log : LRec) (ws : List Nat) : Option EngLoc :=
  ws.findSome? fun n =>
    match s.logWord die ctx log .w n, s.logWord die ctx log .r n with
    | .ok _, .ok _ => none
    | .ok _, e => some e
    | e, _ => some e

/-- Every word of a list that an append touches has a home that has applied the stamp it carries (R246). -/
def State.foldReady (s : State) (w : Wale) (log : LRec) (ws : List Nat) : Bool :=
  ws.all fun n => match s.logWord (dieOf w.core) w.ctx log .w n with | .ok l => s.engReady l w.core w.stamp | _ => true

/-- The home slice advances TAIL, at `l`, a `.dev` release that continues the earlier ones there (R238, R321). -/
def State.passTail (s : State) (w : Wale) (l v : Nat) : State :=
  let old := mGet [] s.rels l
  let (i, s) := (s.engWrite (clusterOf w.core) l (leBytes 4 v)).release w .dev false []
  s.putRels l 4 (old ++ [i])

/-- TAIL passes every consecutive slot whose entry is written (R321): at most `n` of them. Each passing releases what the
append of that entry released. -/
def State.passSlots (s : State) (w : Wale) (l : Nat) : Nat → State
  | 0 => s
  | n + 1 =>
    match s.foldSlots.find? fun x => x.log == l && x.seq == s.natAt l 4 with
    | some x =>
      let t := s.passTail { w with stamp := x.stamp } l ((x.seq + 1) % 2 ^ 32)
      State.passSlots { t with foldSlots := t.foldSlots.erase x } w l n
    | none => s

/-- The head of a matrix queue changes by `f`. -/
def State.onHead (s : State) (id : Nat) (f : MOp → MOp) : State :=
  s.onWale id fun w => match w.mq with | m :: r => { w with mq := f m :: r } | [] => w

/-- The tail of a log, at `l`, moves on as far as it can, and an STFOLD whose slot it has passed is performed (R321). -/
def State.foldPass (s : State) (w : Wale) (l seq : Nat) : State :=
  let s := if s.engReady l w.core w.stamp then s.passSlots w l s.foldSlots.length else s
  let d := (s.natAt l 4 + 2 ^ 32 - seq) % 2 ^ 32
  if 0 < d ∧ d < 2 ^ 31 then s.popMq w.id else s

/-- The words of an entry, each at its place as the log's pages map it when the entry is written (R321). -/
def State.foldCells (s : State) (w : Wale) (g : Workgroup) (m : MOp) (nent seq : Nat) : List (Nat × Nat) :=
  let es := foldEntry g w.core m seq
  (es.zip (List.range es.length)).filterMap fun p =>
    match s.logWord (dieOf w.core) w.ctx (m.rec' 0) .w (64 + 16448 * (seq % nent) + p.2) with
    | .ok l => some (l, p.1)
    | _ => none

/-- The words that an STFOLD touches next: the control block, then the slot that it has reserved, then TAIL (R321). -/
def MOp.foldNeeds (m : MOp) (nent : Nat) : List Nat :=
  match m.resv with
  | none => [1, 2, 3, 4]
  | some seq => if m.next = 0 then foldWords (max 1 nent) seq else [2]

/-- The first word of a log that an append meets with an uncorrectable error: what that leaves (R357). -/
def State.foldSpoiled (s : State) (w : Wale) (m : MOp) (ws : List Nat) : Option State :=
  if s.badWords.isEmpty then none
  else
    let log := m.rec' 0
    ws.findSome? fun (n : Nat) =>
      match s.logWord (dieOf w.core) w.ctx log .w n with
      | .ok l =>
        s.spoiled l 4 true
          { ctx := w.ctx, core := w.core, slot := w.slot, va := (lAddr log [(n : Int)]).toNat, body := [n]
            handle := some (field (s.layout w.ctx m.ha) 883 874) }
      | _ => none

/-- FOLD_LOG_APPEND (R196, R321): the STFOLD at the head of a queue takes its reservation, which waits while the log is
full; then it writes its entry; it is performed once the log's tail has passed its slot. A translation that fails keeps it
waiting. -/
def execFoldLogAppend (id : Nat) (s : State) : Host.Outcome State Fault Refusal :=
  match s.wale? id with
  | none => .next s
  | some w =>
    match w.mq, s.wg? w.wg with
    | m :: _, some g =>
      let log := m.rec' 0
      let nent := s.logGet (dieOf w.core) w.ctx log 4
      let ws := m.foldNeeds nent
      if m.kind ≠ .stfold ∨ !s.mqGo w g m then .next s
      else match s.foldFault (dieOf w.core) w.ctx log ws with
        | some .absent => fin { s with absentHit := true }
        | some _ => .next s
        | none =>
          if !s.foldReady w log ws then .next s
          else match s.foldSpoiled w m ws with
          | some t => .next t
          | none =>
          match m.resv with
            | none =>
              let seq := s.logGet (dieOf w.core) w.ctx log 3
              if nent = 0 ∨ (seq + 2 ^ 32 - s.logGet (dieOf w.core) w.ctx log 1) % 2 ^ 32 = nent then .next s
              else fin ((s.logPut w.ctx w.core log 3 ((seq + 1) % 2 ^ 32)).onHead id fun m => { m with resv := some seq })
            | some seq =>
              let tail := match s.logWord (dieOf w.core) w.ctx log .w 2 with | .ok l => l | _ => 0
              if m.next = 0 then
                let slot : FoldSlot := ⟨tail, seq, w.stamp⟩
                let s := (s.foldCells w g m (max 1 nent) seq).foldl
                  (fun (s : State) p => s.engWrite (clusterOf w.core) p.1 (leBytes 4 p.2)) s
                let s := { s with foldSlots := s.foldSlots ++ [slot] }.onHead id fun m => { m with next := 1 }
                fin (s.foldPass w tail seq)
              else fin (s.foldPass w tail seq)
    | _, _ => .next s

end Sys2Proof.Machine
end

