-- ==== Sys2Proof/Machine/Copy.lean ====
section
/-!
DEFINITION. Sys2Proof/Machine/Copy.lean: collective copies (R201 to R206).
-/
namespace Sys2Proof.Machine

/-! ### Boxes of a slice (R203) -/

/-- The offsets of a slice's box: in each dimension the first offset and the count (R203). -/
def sliceBox (e : List Nat) (d : List Int) (i n : Nat) : List (Nat × Nat) :=
  (List.range e.length).map fun j =>
    let h := ((e.getD j 0 : Int) - d.getD j 0).toNat
    if j + 1 = e.length then (i * h / n, (i + 1) * h / n - i * h / n) else (0, h)

/-- Every offset of a box. -/
def boxOffsets : List (Nat × Nat) → List (List Nat)
  | [] => [[]]
  | (a, n) :: r => (List.range n).flatMap fun i => (boxOffsets r).map ((a + i) :: ·)

/-- Whether a box names no element. -/
def boxEmpty (b : List (Nat × Nat)) : Bool := b.any fun p => p.2 == 0

/-- The lowest and highest byte of a record's elements over a box at an origin. -/
def boxSpan (r : LRec) (o : List Int) (b : List (Nat × Nat)) : Int × Int :=
  let term (f : Int → Int → Int) : Int := ((List.range (lRank r)).map fun j =>
    let p := b.getD j (0, 0)
    let lo := (o.getD j 0 + p.1) * lStr r j
    let hi := (o.getD j 0 + p.1 + p.2 - 1) * lStr r j
    f lo hi).foldl (· + ·) 0
  (lByte r (term min), lByte r (term max) + (if lFmt r = .q4 then 0 else elemSize (lFmt r) - 1))

/-- A scratchpad element outside the window, or a tile element outside the grant (R203). -/
def boxOutside (r : LRec) (o : List Int) (b : List (Nat × Nat)) (window tiles : Nat) : Bool :=
  let (lo, hi) := boxSpan r o b
  match lSpace r with
  | 2 | 3 => decide (lo < 0) || decide ((window : Int) ≤ hi)
  | 4 => decide (lo < 0) || decide ((65536 * tiles : Int) ≤ hi)
  | _ => false

/-- A slice fails its checks on arrival (R203). -/
def sliceBad (rd rs : LRec) (d o : List Int) (i n window tiles : Nat) : Bool :=
  let e := lExts rd
  let es := lExts rs
  let b := sliceBox e d i n
  ((List.range e.length).any fun j => decide (d.getD j 0 < 0) || decide ((e.getD j 0 : Int) ≤ d.getD j 0)) ||
  (!boxEmpty b &&
    (((List.range es.length).any fun j =>
        let p := b.getD j (0, 0)
        decide (o.getD j 0 < 0) || decide ((es.getD j 0 : Int) < o.getD j 0 + p.1 + p.2)) ||
      boxOutside rd d b window tiles || boxOutside rs o b window tiles))

/-! ### COPY.SLICE (R201, R202) -/

/-- The scalars of an origin run (R201). -/
def Wale.originRun (w : Wale) (s0 n clk : Nat) : List Int := (List.range n).map fun j => ((w.sAt (s0 + j) clk).toNat : Int)

/-- LAYOUT_BAD of COPY.SLICE (R185, R201, R308, R343). -/
def State.copyLayBad (s : State) (w : Wale) (rd rs : LRec) : Bool :=
  !lValid rd || !lValid rs || lRank rd != lRank rs || lFmt rd != lFmt rs ||
    ([rd, rs].any fun r => (lSpace r == 4 && lFmt r != .f32 && lFmt r != .f64) ||
      (lSpace r == 3 && !peerOk w.core r) || outsideMesh r) ||
    imaged rd (s.symOf w)

/-- The copies of a queue that are still forming, oldest first. -/
def Workgroup.forming (g : Workgroup) (cq : Nat) : List Copy := g.copies.filter fun c => c.cq == cq && c.st == .forming

/-- The slices that a wale has in unfinished copies (R201); those of a rejected copy that still forms are not counted (log 112). -/
def Workgroup.slicesOf (g : Workgroup) (id : Nat) : Nat :=
  (g.copies.filter fun c => !c.rejected).foldl (fun n c => n + (c.slices.filter fun x => x.wale == id).length) 0

/-- Every wale of a workgroup has a pending fault (R203, R204). -/
def State.pendAll (s : State) (wg : Nat) (p : PendFault) : State :=
  { s with wales := s.wales.map fun w => if w.wg == wg && w.kind == .wale then { w with pend := w.pend ++ [p] } else w }

/-- Replace a copy, or remove it from its workgroup. -/
def Workgroup.putCopy (g : Workgroup) (c : Copy) : Workgroup :=
  { g with copies := g.copies.map fun x => if x.id == c.id then c else x }
/-- Remove a copy that has finished; a rejected or abandoned one is remembered for its chained MMAs. -/
def Workgroup.dropCopy (g : Workgroup) (id : Nat) (bad : Bool) : Workgroup :=
  { g with
    copies := g.copies.filter fun x => x.id != id
    badCopies := if bad && !g.badCopies.contains id then id :: g.badCopies else g.badCopies }

/-- A slice joins a copy (R202, R206): a rejected copy discards it, a bad slice rejects the copy,
and the last slice makes it ready or removes it. -/
def State.joinCopy (s : State) (g : Workgroup) (c : Copy) (x : Slice) (bad : Bool) (after : List Nat) : State :=
  let last := c.slices.length + 1 == c.n
  let s := if bad && !c.rejected then s.pendAll g.id ⟨.copyRange, 0, x.insn, none⟩ else s
  let c := { c with slices := c.slices ++ [x], rejected := c.rejected || bad, lastIssue := s.clk, after := c.after ++ after }
  let g := (s.wg? g.id).getD g
  if !last then s.putWg (if g.copies.any fun y => y.id == c.id then g.putCopy c else { g with copies := g.copies ++ [c] })
  else if c.rejected then s.putWg (g.dropCopy c.id true)
  else
    let g := g.dropCopy c.id false
    s.putWg { g with copies := g.copies ++ [{ c with st := .ready }] }

/-- COPY.SLICE (R201 to R203). -/
def execCopySlice (f : CopyForm) (s : State) : Host.Outcome State Fault Refusal :=
  s.engOp f.face [.wale, .streamC] fun w o =>
    match s.wg? w.wg with
    | none => .next s
    | some g =>
      let rd := s.layout w.ctx f.hd
      let rs := s.layout w.ctx f.hs
      let n := f.nm1 + 1
      let i := w.uniVal f.i s.clk
      let long (r : LRec) (b : Nat) : Bool := lValid r && decide (64 < b + lRank r)
      let runs := (List.range (lRank rd)).flatMap fun j => [f.sd + j, f.ss + j]
      match firstBad [(long rd f.sd || long rs f.ss, .illegalField), (s.copyLayBad w rd rs, .layoutBad),
          (decide (n ≤ i), .idxRange)] with
      | some c => s.raise w c (engLanes c (w.active f.face))
      | none =>
        match s.stallShort w (uniUses f.i ++ runs.map (Use.mk .s)) with
        | some d => s.raise w .stallShort (w.active f.face) d
        | none =>
          let forming := g.forming f.cq
          let joins := forming.find? fun c => !(c.slices.any fun x => x.i == i)
          if 16 ≤ g.slicesOf o.id ∨ (joins.isNone ∧ 4 ≤ forming.length) then .next (s.hold w .parked false)
          else
            let d := w.originRun f.sd (lRank rd) s.clk
            let so := w.originRun f.ss (lRank rs) s.clk
            let x : Slice := { i := i, wale := o.id, batch := o.batOpen, dst := d, src := so, insn := w.insn0 }
            let (id, s1) := s.fresh
            let c : Copy := joins.getD
              { id := id, cq := f.cq, n := n, hd := f.hd, hs := f.hs, rejected := false, st := .forming, slices := []
                lastIssue := 0, moves := [], after := [] }
            let bad := c.n != n || c.hd != f.hd || c.hs != f.hs ||
              sliceBad rd rs d so i n (s.windowSize w) g.tiles
            let s2 := (s1.issued w 0).onWale o.id fun x => { x with lastCopy := some c.id }
            .next (s2.joinCopy g c x bad (o.fenced 3))

/-! ### CSEAL and CWAIT (R205) -/

/-- The unfinished sealed batches of a wale (R205). -/
def State.batchesOut (s : State) (o : Wale) : Nat :=
  match s.wg? o.wg with
  | none => 0
  | some g =>
    (((g.copies.filter fun c => !c.rejected).flatMap fun c =>
      (c.slices.filter fun x => x.wale == o.id && decide (x.batch < o.batOpen)).map Slice.batch).eraseDups).length

/-- CSEAL (R205): the slices issued since the last one form the next batch; a ninth holds the wale. -/
def execCseal (face : Face) (s : State) : Host.Outcome State Fault Refusal :=
  s.engOp face [.wale, .streamC] fun w o =>
    if 8 ≤ s.batchesOut o then .next (s.hold w .parked false)
    else .next ((s.issued w 0).onWale o.id fun x => { x with batOpen := x.batOpen + 1 })

/-- The fault that a CWAIT delivers: COPY_RANGE first, then an abandoned copy (R205). -/
def Wale.cwaitFault (o : Wale) : Option PendFault :=
  match o.pend.find? fun p => p.cause == .copyRange with
  | some p => some p
  | none => o.pend.find? fun p => p.cause == .engineFault && p.detail == 1

/-- CWAIT (R205, R254). -/
def execCwait (f : WaitForm) (s : State) : Host.Outcome State Fault Refusal :=
  s.engOp f.face [.wale, .streamC] fun w o =>
    match (if w.trap.isSome then none else o.cwaitFault) with
    | some p => s.deliver w o p
    | none =>
      if f.n < s.batchesOut o then .next (s.hold w .flagWait true)
      else .next ((s.issued w 0).engAcquire o.id f.scope)

/-! ### Running a copy (R202 to R206) -/

/-- Where one end of a copied element lies. -/
inductive CopyEnd where
  | at' (l : EngLoc) (size : Nat)
  | tile (key : Nat)
  deriving DecidableEq, Repr

/-- An end of a copied element at coordinates of a record (R204). -/
def State.copyEnd (s : State) (g : Workgroup) (ctx : Nat) (r : LRec) (p : Perm) (cs : List Int) : CopyEnd :=
  let a := lAddr r cs
  if lSpace r = 4 then .tile (a.toNat / 4)
  else if lFmt r = .q4 then .at' (s.engLoc g g.core ctx r p a 1) (if lLin r cs % 2 = 0 then 0 else 9)
  else .at' (s.engLoc g g.core ctx r p a (elemSize (lFmt r))) (elemSize (lFmt r))

/-- The layout records of a copy, destination and source: as it read them at its start, or as they stand before it (R165). -/
def State.copyRecs (s : State) (g : Workgroup) (c : Copy) : LRec × LRec :=
  match c.recs with
  | [d, r] => (d, r)
  | _ => (s.layout g.ctx c.hd, s.layout g.ctx c.hs)

/-- A copy's elements have 64 bits. -/
def State.copyWide (s : State) (g : Workgroup) (c : Copy) : Bool := lFmt (s.copyRecs g c).1 == .f64

/-- The coordinates of every element of a copy: destination's, source's. -/
def State.copyCoords (s : State) (g : Workgroup) (c : Copy) : List (List Int × List Int) :=
  let rd := (s.copyRecs g c).1
  c.slices.flatMap fun x =>
    (boxOffsets (sliceBox (lExts rd) x.dst x.i c.n)).map fun o =>
      let add (b : List Int) : List Int := (List.range o.length).map fun j => b.getD j 0 + (o.getD j 0 : Nat)
      (add x.dst, add x.src)

/-- The two ends of every element of a copy: destination, source. -/
def State.copyPairs (s : State) (g : Workgroup) (c : Copy) : List (CopyEnd × CopyEnd) :=
  let r := s.copyRecs g c
  (s.copyCoords g c).map fun p => (s.copyEnd g g.ctx r.1 .w p.1, s.copyEnd g g.ctx r.2 .r p.2)

/-- The pages of a copy's elements are in the core's caches (R337). -/
def State.copyFill (s : State) (g : Workgroup) (c : Copy) : State :=
  let r := s.copyRecs g c
  let one (s : State) (r : LRec) (cs : List Int) : State :=
    if 2 ≤ lSpace r then s else s.fillVa g.core g.ctx (lAddr r cs).toNat
  (s.copyCoords g c).foldl (fun (s : State) p => one (one s r.1 p.1) r.2 p.2) s

/-- The value of a source end, at most 64 bits. -/
def State.copyVal (s : State) (g : Workgroup) (wide : Bool) (e : CopyEnd) : W64 :=
  match e with
  | .at' (.ok l) n =>
    if n = 0 then BitVec.ofNat 64 (leNat (s.engRead (clusterOf g.core) l 1) % 16)
    else if n = 9 then BitVec.ofNat 64 (leNat (s.engRead (clusterOf g.core) l 1) / 16)
    else BitVec.ofNat 64 (leNat (s.engRead (clusterOf g.core) l n))
  | .tile k =>
    BitVec.ofNat 64 ((mGet 0 g.tile k).toNat + (if wide then 2 ^ 32 * (mGet 0 g.tile (k + 1)).toNat else 0))
  | _ => 0

/-- The elements of a copy with their values as they stand. -/
def State.copyMoves (s : State) (g : Workgroup) (wide : Bool) (ps : List (CopyEnd × CopyEnd)) : List Move :=
  ps.flatMap fun (d, e) =>
    let v := s.copyVal g wide e
    match d with
    | .at' (.ok l) n => [⟨l, n, v⟩]
    | .tile k => ⟨k, 10, v &&& 0xFFFFFFFF⟩ :: (if wide then [⟨k + 1, 10, v >>> 32⟩] else [])
    | _ => []

/-- Write one element of a copy (R204). -/
def State.putMove (s : State) (wg core : Nat) (m : Move) : State :=
  if m.size = 10 then s.onWg wg fun g => { g with tile := mSet 0 g.tile m.loc (m.val.truncate 32) }
  else
    let old := (leNat (s.engRead (clusterOf core) m.loc 1))
    let bs := if m.size = 0 then leBytes 1 (old / 16 * 16 + m.val.toNat % 16)
      else if m.size = 9 then leBytes 1 (old % 16 + m.val.toNat % 16 * 16)
      else leBytes m.size m.val.toNat
    s.engWrite (clusterOf core) m.loc bs

/-- The engine locations of an element's ends. -/
def pairLocs (p : CopyEnd × CopyEnd) : List EngLoc :=
  [p.1, p.2].filterMap fun | .at' l _ => some l | .tile _ => none

/-- The stamp that a copy's accesses carry: those of its issuing wales (R246). -/
def State.copyStamp (s : State) (c : Copy) : List Nat :=
  c.slices.foldl (fun st x => match s.wale? x.wale with | some w => stampJoin st w.stamp | none => st) []

/-- The next copy of a queue: the first that became ready, when none is running or stalled (R202). -/
def Workgroup.nextCopy (g : Workgroup) (cq : Nat) : Option Copy :=
  if g.copies.any fun c => c.cq == cq && (c.st == .running || c.st == .stalled) then none
  else g.copies.find? fun c => c.cq == cq && c.st == .ready

/-- Whether a ready copy may begin: 24 clk after its last slice, and after what QFENCE orders before it (R174, R243). -/
def State.copyReady (s : State) (c : Copy) : Bool :=
  decide (c.lastIssue + 24 ≤ s.clk) && !((c.after.filter (· != c.id)).any s.pendingId)

/-- ABANDONING a copy (R204): every wale of the workgroup has ENGINE_FAULT pending. -/
def State.abandonCopy (s : State) (wg : Nat) (c : Copy) : State :=
  let insn := match c.slices.getLast? with | some x => x.insn | none => 0
  (s.onWg wg fun g => g.dropCopy c.id true).pendAll wg ⟨.engineFault, 1, insn, none⟩

/-- The tag that a copy into tile memory sets as it begins (R204). -/
def State.copyTag (s : State) (g : Workgroup) (c : Copy) (ps : List (CopyEnd × CopyEnd)) : State :=
  let ty := lFmt (s.copyRecs g c).1
  let tiles := (ps.filterMap fun p => match p.1 with | .tile k => some (k / 16384) | _ => none).eraseDups
  s.onWg g.id fun g => tiles.foldl (fun g k => { g with tileTags := mSet .raw g.tileTags k ty }) g

/-- A hard stop has reached a wale of a workgroup: none of its copies starts (R262, R294). -/
def State.groupStops (s : State) (wg : Nat) : Bool := s.wales.any fun w => w.wg == wg && w.life == .stopping

/-- A copy that is refused may have written any of its elements that translate (R204): a free choice (log 6). -/
def State.refuseCopy (s : State) (g : Workgroup) (c : Copy) : State :=
  let ms := s.copyMoves g (s.copyWide g c)
    ((s.copyPairs g c).filter fun p => (pairLocs p).all fun l => match l with | .ok _ => true | _ => false)
  let n := s.free
  let s := (ms.zip (List.range ms.length)).foldl (fun s p =>
    if Config.freeChoice (n + p.2) 2 % 2 = 1 then s.putMove g.id g.core p.1 else s) s
  { s with free := n + ms.length }.abandonCopy g.id c

/-- The first element of a copy that meets an uncorrectable word as it is read or written: what that leaves (R357). -/
def State.copySpoiled (s : State) (g : Workgroup) (c : Copy) (wr : Bool) : Option State :=
  if s.badWords.isEmpty then none
  else
    let r := s.copyRecs g c
    ((s.copyCoords g c).zip (s.copyPairs g c)).findSome? fun x =>
      match (if wr then x.2.1 else x.2.2) with
      | .at' (.ok l) n =>
        s.spoiled l (if n = 0 ∨ n = 9 then 1 else n) wr
          { ctx := g.ctx, core := g.core, slot := 127, va := (if wr then lAddr r.1 x.1.1 else lAddr r.2 x.1.2).toNat
            body := coordWords (if wr then x.1.1 else x.1.2), handle := some (if wr then c.hd else c.hs) }
      | _ => none

/-- COPY_START (R204, R206): the next ready copy of a queue begins, with every source element as it
stands; a window that is not held abandons it, as does a peer package without a context for it (R226), and a translation
that fails keeps it waiting. -/
def execCopyStart (wg cq : Nat) (s : State) : Host.Outcome State Fault Refusal :=
  match s.wg? wg with
  | none => .next s
  | some g =>
    match g.nextCopy cq with
    | none => .next s
    | some c =>
      if !s.copyReady c || g.saved || s.groupStops wg then .next s
      else
        let r := s.copyRecs g c
        let c := { c with recs := [r.1, r.2] }
        let ps := s.copyPairs g c
        let locs := ps.flatMap pairLocs
        let st := s.copyStamp c
        if locs.contains .absent then fin { s with absentHit := true }
        else if locs.contains .refused then .next ((s.copyTag g c ps).refuseCopy g c)
        else if locs.any fun l => match l with | .bad _ => true | .ok a => !s.engReady a g.core st | _ => false then .next s
        else
          let s1 := s.copyTag g c ps
          if locs.contains .unheld then .next (s1.abandonCopy wg c)
          else match s.copySpoiled g c false with
          | some t => .next t
          | none => .next ((s1.copyFill g c).onWg wg fun x =>
            x.putCopy { c with st := .running, moves := s.copyMoves g (s.copyWide g c) ps, began := s.clk })

/-- The running copy of a queue. -/
def Workgroup.runningCopy (g : Workgroup) (cq : Nat) : Option Copy := g.copies.find? fun c => c.cq == cq && c.st == .running

/-- A window that a copy reaches is not held (R204, R225), or a peer package refuses it (R226). -/
def State.copyUnheld (s : State) (g : Workgroup) (c : Copy) : Bool :=
  ((s.copyPairs g c).flatMap pairLocs).any fun l => l == .unheld || l == .refused

/-- The writes that a running copy makes as it finishes: its values, in space 3 where its window lies by then (R225, R297). -/
def State.copyWrites (s : State) (g : Workgroup) (c : Copy) : List Move :=
  if lSpace (s.copyRecs g c).1 = 3 then
    ((s.copyMoves g (s.copyWide g c) (s.copyPairs g c)).zip c.moves).map fun p => { p.1 with val := p.2.val }
  else c.moves

/-- A running copy may write its elements: 4 clk from a bank to the sequencer have passed (R227), and the homes of what it
writes take them (R213, R246). -/
def State.copyEnds (s : State) (g : Workgroup) (c : Copy) : Bool :=
  decide (c.began + 4 ≤ s.clk) &&
    (s.copyWrites g c).all fun m => m.size == 10 || s.engReady m.loc g.core (s.copyStamp c)

/-- A copy's accesses to host memory set the Relaxed Ordering bit: they are `.wk` (R204, R330). -/
def copyRelaxed (r : LRec) : Bool := lSpace r == 5

/-- COPY_FINISH (R204, R206): the running copy of a queue has written every element; it is abandoned where a window is no
longer held. -/
def execCopyFinish (wg cq : Nat) (s : State) : Host.Outcome State Fault Refusal :=
  match s.wg? wg with
  | none => .next s
  | some g =>
    match g.runningCopy cq with
    | none => .next s
    | some c =>
      if s.copyUnheld g c then .next (s.refuseCopy g c)
      else if !s.copyEnds g c then .next s
      else match s.copySpoiled g c true with
      | some t => .next t
      | none => fin (((s.copyWrites g c).foldl (fun s m => s.putMove wg g.core m) s).onWg wg fun g => g.dropCopy c.id false)

/-- COPY_ABANDON (R204): a window of the running copy is no longer held. -/
def execCopyAbandon (wg cq : Nat) (s : State) : Host.Outcome State Fault Refusal :=
  match s.wg? wg with
  | none => .next s
  | some g =>
    match g.runningCopy cq with
    | none => .next s
    | some c => if s.copyUnheld g c then .next (s.refuseCopy g c) else .next s

/-- The address and access of the first element of the next copy of a queue that does not translate (R259). -/
def State.copyFault (s : State) (g : Workgroup) (c : Copy) : Option (Nat × Bool) :=
  let r := s.copyRecs g c
  (s.copyCoords g c).findSome? fun p =>
    match s.copyEnd g g.ctx r.1 .w p.1, s.copyEnd g g.ctx r.2 .r p.2 with
    | .at' (.bad _) _, _ => some ((lAddr r.1 p.1).toNat, true)
    | _, .at' (.bad _) _ => some ((lAddr r.2 p.2).toNat, false)
    | _, _ => none

end Sys2Proof.Machine
end

