-- ==== Sys2Proof/Machine/Stream.lean ====
section
/-!
DEFINITION. Sys2Proof/Machine/Stream.lean: engine streams (R207, R208).
-/
namespace Sys2Proof.Machine

/-- A new wale record with every register zero (R13); what its creator fixes is given. -/
def newWale (id : Nat) (kind : WaleKind) (core slot wg windex ctx budget pc clk : Nat) (exist : Mask) : Wale :=
  { id := id, kind := kind, core := core, slot := slot, wg := wg, windex := windex, ctx := ctx, budget := budget
    v := [], tags := [], s := [], q := [], x := [], seeds := [], exm := exist, live := exist, exist := exist
    masks := [], melds := [], flags := [], pc := pc, clause := none, interval := none, intervalAddr := 0
    staging := .none, stageReq := 0, inflight := [], prods := [], encPos := 0, issueNo := 0, nextIssue := clk
    yielded := false, born := clk, readySince := none, aged := none, held := none, latch := none, trap := none
    entry := false, trapping := false, insn0 := 0, insn1 := 0, insnPc := pc, fenceRel := [], fenceScope := none, fenceNo := 0
    fenceWide := none, qfences := [], acqClk := 0, stamp := [], seen := [], mq := [], mgOpen := 0, batOpen := 0
    lastCopy := none, pend := [], barPend := [], barGot := [], barArrivals := [], streams := [], atRdv := false, parent := 0
    life := .resident, dbg := false, resume := false, stopReq := false, retryPc := none, area := [] }

/-- The weaver of a core starts at the firmware entry, in minimal mode at the ROM's, with zero scalars (R19, R285, R375). -/
def State.startWeaver (s : State) (core : Nat) : State :=
  let (id, s) := s.fresh
  { s with wales := (s.wales.filter fun w => !(w.kind == .weaver && w.core == core)) ++
      [newWale id .weaver core 64 0 0 (Config.weaverCtx core) 32 (addr52 (if s.boot = .minimal then Config.romEntry core else Config.firmwareEntry core)) s.clk 1] }

/-- The scalars of a wale as they stand at a clk. -/
def Wale.scalars (w : Wale) (clk : Nat) : NMap W32 :=
  (List.range 64).foldl (fun m n => mSet 0 m n (w.sAt n clk)) []

/-- The streams that a core's sequencer holds (R207). -/
def State.seqCount (s : State) (core : Nat) (k : WaleKind) : Nat :=
  (s.wales.filter fun w => w.core == core && w.kind == k).length

/-- Start a stream of a wale at a target (R207, R279). -/
def State.startStream (s : State) (w : Wale) (k : WaleKind) (target : Nat) (scs : NMap W32) : State :=
  let (id, s) := s.fresh
  let n := { newWale id k w.core w.slot w.wg w.windex w.ctx w.budget (addr52 target) s.clk 0xFFFFFFFF with
             s := scs, parent := w.id }
  ({ s with wales := s.wales ++ [n] }).onWale w.id fun x => { x with streams := x.streams ++ [(id, k)] }

/-- FORK (R207): a second unjoined stream on a sequencer is STACK_OVF, and a full sequencer holds the wale. -/
def State.fork (s : State) (face : Face) (off : BitVec 28) (k : WaleKind) : Host.Outcome State Fault Refusal :=
  s.engOp face [.wale] fun w _ =>
    if w.streams.any fun p => p.2 == k then s.raise w .stackOvf 0
    else if 8 ≤ s.seqCount w.core k then .next (s.hold w .parked false)
    else .next ((s.issued w 0).startStream w k (w.relTarget off) (w.scalars s.clk))

/-- FORK.M (R207). -/
def execForkM (face : Face) (off : BitVec 28) (s : State) : Host.Outcome State Fault Refusal := s.fork face off .streamM
/-- FORK.C (R207). -/
def execForkC (face : Face) (off : BitVec 28) (s : State) : Host.Outcome State Fault Refusal := s.fork face off .streamC

/-- The streams of a wale that stand at their RDV end once the wale has arrived at its own (R207). -/
def State.endArrived (s : State) (w : Wale) : State :=
  { s with wales := s.wales.filter fun x => !(x.atRdv && w.streams.any fun p => p.1 == x.id) }

/-- Every stream that a wale has forked and not joined has reached its RDV, or has faulted (R207, R208). -/
def State.streamsDone (s : State) (w : Wale) : Bool :=
  w.streams.all fun p => match s.wale? p.1 with | some x => x.atRdv | none => true

/-- The streams of a wale are joined: they end (R207). -/
def State.join (s : State) (id : Nat) : State :=
  match s.wale? id with
  | none => s
  | some w =>
    ({ s with wales := s.wales.filter fun x => !(w.streams.any fun p => p.1 == x.id) }).onWale id fun x =>
      { x with streams := [] }

/-- The fault of a stream that RDV delivers (R208). -/
def Wale.rdvFault (w : Wale) : Option PendFault := w.pend.find? fun p => p.cause == .engineFault && p.detail == 2

/-- RDV (R207, R208): a stream stops there; a wale waits for its streams, takes the fault of one
that faulted, and goes on with none left. -/
def execRdv (face : Face) (s : State) : Host.Outcome State Fault Refusal :=
  s.engOp face [.wale, .streamM, .streamC] fun w o =>
    if w.kind != .wale then .next (s.putWale { w with atRdv := true, held := some ⟨.parked, s.clk, false⟩ })
    else if !s.streamsDone w then .next ((s.endArrived w).hold w .parked true)
    else match w.rdvFault with
      | some p => s.deliver w o p
      | none => .next ((s.issued w 0).join w.id)

/-- STREAM_FAULT (R208): a stream whose next word may not be fetched, or that it may not execute,
ends faulted. A cause that an instruction of a stream raises faults it as that instruction is carried out. -/
def execStreamFault (st : Nat) (s : State) : Host.Outcome State Fault Refusal :=
  match s.wale? st with
  | none => .next s
  | some w =>
    if w.kind == .wale || w.kind == .weaver || w.atRdv then .next s
    else match s.fetch w with
      | .stop o => o
      | .run _ _ => .next s

end Sys2Proof.Machine
end

