-- ==== Sys2Proof/Machine/Record.lean ====
section
/-!
DEFINITION. Sys2Proof/Machine/Record.lean: queue descriptors and launch records in memory (R276, R281,
R282), weavers' releases, the resources of a core (R20, R225, R278) and the creation of workgroups.
-/
namespace Sys2Proof.Machine

/-! ### Queue descriptors (R282): physical HBM addresses (log 10) -/

/-- The address of queue `q`'s descriptor (R329). -/
def State.descAt (s : State) (q : Nat) : Nat := (s.reg (0x100 + 16 * q)).toNat

/-- The descriptor of a queue; one beyond the installed memory names no queue. -/
def State.desc (s : State) (q : Nat) : BitVec 512 :=
  if s.descAt q + 64 ≤ Config.hbmBytes then BitVec.ofNat 512 (s.natAt (locHbm (s.descAt q)) 64) else 0

/-- Write the 32-bit descriptor field at a byte offset. -/
def State.putDesc (s : State) (q off v : Nat) : State := s.writeNat (locHbm (s.descAt q + off)) 4 v

/-- VALID. -/
def dValid (d : BitVec 512) : Bool := d.getLsbD 77
/-- EXPR. -/
def dExpr (d : BitVec 512) : Bool := d.getLsbD 76
/-- CTX. -/
def dCtx (d : BitVec 512) : Nat := field d 75 69
/-- PART. -/
def dPart (d : BitVec 512) : Nat := field d 81 78
/-- Records of the ring. -/
def dSize (d : BitVec 512) : Nat := 2 ^ field d 68 64
/-- TAIL. -/
def dTail (d : BitVec 512) : Nat := field d 223 192
/-- HEAD. -/
def dHead (d : BitVec 512) : Nat := field d 191 160
/-- LOW. -/
def dLow (d : BitVec 512) : Nat := field d 255 224
/-- QUANTUM. -/
def dQuantum (d : BitVec 512) : Nat := field d 127 96
/-- DEFICIT, signed. -/
def dDeficit (d : BitVec 512) : Int := (BitVec.ofNat 32 (field d 159 128)).toInt
/-- LTOL. -/
def dLtol (d : BitVec 512) : Nat := field d 287 256
/-- The virtual address of the ring slot of append index `i` (R283). -/
def dSlot (d : BitVec 512) (i : Nat) : Nat := addr52 (field d 51 0 + 256 * (i % dSize d))

/-! ### Launch records (R276) -/

/-- The location of a record of a context, when its page is mapped in HBM or the common store with the permission. -/
def State.recLoc (s : State) (ctx va : Nat) (p : Perm) : Option Nat :=
  match s.xlate ctx none p va with
  | .ok l => if locDevice l then some l else none
  | _ => none

/-- The record at a location. -/
def State.recAt (s : State) (l : Nat) : BitVec 2048 := BitVec.ofNat 2048 (s.natAt l 256)

/-- STATE of a record: 0 Queued, 1 Running, 2 Draining, 3 Preempted, 4 Suspended, 5 Retired, 6 Refused. -/
def rState (r : BitVec 2048) : Nat := field r 31 28
/-- TICKET. -/
def rTicket (r : BitVec 2048) : Nat := field r 447 416
/-- NEXT. -/
def rNext (r : BitVec 2048) : Nat := field r 479 448
/-- DONE. -/
def rDone (r : BitVec 2048) : Nat := field r 511 480
/-- CTX. -/
def rCtx (r : BitVec 2048) : Nat := field r 47 41
/-- CCORE. -/
def rCcore (r : BitVec 2048) : Nat := field r 584 576
/-- SYM. -/
def rSym (r : BitVec 2048) : W32 := BitVec.ofNat 32 (field r 639 608)
/-- BATCH, 0 standing for 4. -/
def rBatch (r : BitVec 2048) : Nat := if field r 55 48 = 0 then 4 else field r 55 48
/-- Wales of a workgroup. -/
def rWales (r : BitVec 2048) : Nat := field r 25 22 + 1
/-- Register budget. -/
def rBudget (r : BitVec 2048) : Nat := 32 * 2 ^ field r 27 26

/-- Write STATE. -/
def State.putState (s : State) (l st : Nat) : State := s.writeNat l 4 (s.natAt l 4 % 2 ^ 28 + st * 2 ^ 28)
/-- Write SEQ. -/
def State.putSeq (s : State) (l v : Nat) : State := s.writeNat (l + 8) 4 v
/-- Write TICKET. -/
def State.putTicket (s : State) (l v : Nat) : State := s.writeNat (l + 52) 4 v
/-- Write NEXT. -/
def State.putNext (s : State) (l v : Nat) : State := s.writeNat (l + 56) 4 v
/-- Write DONE. -/
def State.putDone (s : State) (l v : Nat) : State := s.writeNat (l + 60) 4 v
/-- Write RSN. -/
def State.putRsn (s : State) (l v : Nat) : State := s.writeNat (l + 96) 4 v

/-- A launch that has started. -/
def State.launch? (s : State) (q seq : Nat) : Option LaunchSt := s.launches.find? fun l => l.queue == q && l.seq == seq

/-- The location of a started launch's record, for writing. -/
def State.launchLoc (s : State) (l : LaunchSt) : Option Nat := s.recLoc (dCtx (s.desc l.queue)) l.recVa .w

/-- STATE of a started launch. -/
def State.launchState (s : State) (l : LaunchSt) : Nat := match s.launchLoc l with | some a => rState (s.recAt a) | none => 0

/-- A device-scope release by a weaver on location `l`: it leaves its stamp there, over what an
atomic continues when `keep` (R238, R242). -/
def State.weaverRel (s : State) (core ctx l : Nat) (stamp : List Nat) (keep : Bool) : List Nat × State :=
  let e := dieOf core
  let k := s.relCount.getD e 0 + 1
  let st := stampJoin stamp (unitStamp e k)
  let i : RelInfo := ⟨.dev, core, 0, ctx, st⟩
  let old := if keep then mGet [] s.rels l else []
  (st, { s with relCount := setNth s.relCount e k }.putRels l 4 (old ++ [i]))

/-- The stamps that an acquire at `.dev` by an agent of a core takes on a location: those of the releases that synchronise
with it (R238, R245). -/
def State.stampAt (s : State) (l core : Nat) : List Nat :=
  (mGet [] s.rels l).foldl (fun st i => if i.syncs .dev core 0 0 false then stampJoin st i.stamp else st) []

/-- The home of a location has applied what a weaver of a core carries, and is awake (R246, R380). -/
def State.weaverReady (s : State) (core l : Nat) (stamp : List Nat) : Bool := s.homeReady l core stamp

/-- A weaver's access wakes the home dies of what it reads or writes (R380). -/
def State.stirHomes (s : State) (ls : List Nat) : State := ls.foldl (fun s l => s.stir (homeDie l 0)) s

/-- What a weaver has acquired, its EVPOPs among it (R244). -/
def State.weaverStamp (s : State) (core : Nat) : List Nat :=
  match s.wales.find? fun w => w.kind == .weaver && w.core == core with | some w => w.stamp | none => []

/-- A weaver acquires a stamp (R244). -/
def State.weaverJoin (s : State) (core : Nat) (stamp : List Nat) : State :=
  { s with wales := s.wales.map fun w =>
      if w.kind == .weaver && w.core == core then { w with stamp := stampJoin w.stamp stamp, acqClk := s.clk } else w }

/-! ### Partitions (R298) -/

/-- Whether a core belongs to partition `p`; an absent core belongs to none. -/
def State.inPart (s : State) (p core : Nat) : Bool :=
  decide (core < Config.numCores) && !s.absent.contains core && (s.reg (0x3800 + 64 * p + 8 * (core / 64))).getLsbD (core % 64)

/-- The partition of a core. -/
def State.partOf (s : State) (core : Nat) : Option Nat := (List.range 16).find? fun p => s.inPart p core

/-- The present cores of a partition. -/
def State.partCores (s : State) (p : Nat) : List Nat :=
  (List.range Config.numCores).filter fun c => s.inPart p c && s.corePresent c

/-- A weaver runs and may take launches: its core is present, it has not stopped, weavers are released (R374, R375),
its die is awake (R380), and it does not wait for an event queue that is full (R287). -/
def State.weaverUp (s : State) (core : Nat) : Bool :=
  s.corePresent core && !s.weaverStopped.contains core && (s.boot == .running || s.boot == .bringUp) && s.awake (dieOf core) &&
    !(s.contHeld.any fun h => h.core == core)

/-! ### What a core can hold (R20, R225, R278) -/

/-- What one workgroup needs. -/
structure Need where
  wales : Nat
  budget : Nat
  window : Nat
  bars : Nat
  tiles : Nat
  streamM : Bool
  streamC : Bool
  deriving DecidableEq, Repr

/-- The need of a launch record's workgroups. -/
def rNeed (r : BitVec 2048) : Need :=
  let b := r.getLsbD 12
  { wales := rWales r, budget := rBudget r, window := 4096 * field r 63 56, bars := field r 11 4, tiles := field r 3 0
    streamM := b && field r 691 640 != 0, streamC := b && field r 755 704 != 0 }

/-- The wales that hold slots and registers of a core. -/
def State.onCore (s : State) (core : Nat) : List Wale :=
  s.wales.filter fun w => w.kind == .wale && w.core == core && w.life != .saved

/-- A workgroup that holds resources of its core. -/
def State.holds (s : State) (g : Workgroup) : Bool := s.wales.any fun w => w.kind == .wale && w.wg == g.id && w.life != .saved

/-- The workgroups that hold resources of a core. -/
def State.groupsOn (s : State) (core : Nat) : List Workgroup := s.wgs.filter fun g => g.core == core && s.holds g

/-- The free context slots of a core, in ascending order. -/
def State.freeSlots (s : State) (core : Nat) : List Nat :=
  (List.range 64).filter fun n => !((s.onCore core).any fun w => w.slot == n)

/-- Free wale-registers of a core's main file (R20). -/
def State.freeMain (s : State) (core : Nat) : Nat :=
  Config.mainFile - (s.onCore core).foldl (fun n w => n + w.budget) 0

/-- The window slots open in a cluster: family, slot number, offset, size (R225). -/
def State.openSlots (s : State) (cluster : Nat) : List (Nat × Window) :=
  (s.wgs.filter fun g => clusterOf g.core == cluster && s.holds g).filterMap fun g => g.window.map fun w => (g.family, w)

/-- Two byte ranges share a byte. -/
def rangesMeet (a n b m : Nat) : Bool := decide (a < b + m) && decide (b < a + n)

/-- Where a window of a family goes on a core: the lowest free slot of the family in the cluster, else a
new slot at the lowest offset free on every core of the cluster (R225). -/
def State.placeWindow (s : State) (family core size : Nat) : Option Window :=
  let all := s.openSlots (clusterOf core)
  let mine := (all.filter fun p => p.1 == family).map Prod.snd
  let here := (s.groupsOn core).filterMap fun g => if g.family = family then g.window.map Window.slot else none
  let open' := (List.range 256).findSome? fun n =>
    match mine.find? fun w => w.slot == n with
    | some w => if here.contains n then none else some w
    | none => none
  match open' with
  | some w => some w
  | none =>
    let off := (List.range 238).find? fun k =>
      decide (4096 * k + size ≤ 238 * 4096) && !(all.any fun p => rangesMeet (4096 * k) size p.2.off p.2.size)
    let slot := (List.range 256).find? fun n => !(mine.any fun w => w.slot == n)
    match off, slot with
    | some k, some n => some ⟨n, 4096 * k, size⟩
    | _, _ => none

/-- Whether a core can hold a workgroup now (R278). -/
def State.fits (s : State) (family core : Nat) (n : Need) : Bool :=
  let gs := s.groupsOn core
  decide (n.wales ≤ (s.freeSlots core).length) && decide (n.wales * n.budget ≤ s.freeMain core) &&
    decide (gs.foldl (fun k g => k + g.bars) n.bars ≤ 128) && decide (gs.foldl (fun k g => k + g.tiles) n.tiles ≤ 8) &&
    (n.window == 0 || (s.placeWindow family core n.window).isSome) &&
    (!n.streamM || decide (s.seqCount core .streamM < 8)) && (!n.streamC || decide (s.seqCount core .streamC < 8))

/-- How many workgroups of a need an empty core holds (R277). -/
def Need.perCore (n : Need) : Nat :=
  let a := min (64 / n.wales) (Config.mainFile / (n.wales * n.budget))
  let b := if n.bars = 0 then a else min a (128 / n.bars)
  let c := if n.tiles = 0 then b else min b (8 / n.tiles)
  if n.window = 0 then c else min c (238 * 4096 / n.window)

/-! ### Creating a workgroup (R13, R278) -/

/-- A window's bytes are undefined when its workgroup is created (R225). -/
def State.openWindow (s : State) (core : Nat) (w : Window) : State :=
  let l := locSpad core w.off
  { s with
    mem := mDelRange s.mem l (l + w.size)
    pageEpoch := (List.range (w.size / 4096)).foldl (fun m i =>
      mSet 0 m (l / 4096 + i) (mGet 0 m (l / 4096 + i) + 1)) s.pageEpoch }

/-- The seeds of a wale of a launch (R45, R278). -/
def launchSeeds (seed group windex : Nat) : NMap W32 :=
  (List.range 8).foldl (fun m l =>
    mSet 0 m l (loadSeed (BitVec.ofNat 32 seed ^^^ BitVec.ofNat 32 (((group * 16 + windex) * 8 + l) * 0x9E3779B9)))) []

/-- Scalars s0 on, from a list of words. -/
def scalarsOf (ws : List W32) : NMap W32 := (ws.zip (List.range ws.length)).foldl (fun m p => mSet 0 m p.2 p.1) []

/-- A workgroup with nothing in it. -/
def newGroup (id core : Nat) (origin : Origin) (family ctx budget clk : Nat) : Workgroup :=
  { id := id, core := core, origin := origin, group := 0, launch := 0, ctx := ctx, wcount := 1, budget := budget, fpen := 0
    bars := 0, tiles := 0, window := none, family := family, imageMask := 0, sym := 0, grid := [1], grids := [1, 1, 1, 1], barriers := []
    tileTags := [], tile := [], copies := [], badCopies := [], created := clk, started := 0, charge := 0, saved := false, coop := false
    stamp := [], footprint := [], moveTo := none, stopAt := 0, part := none, imgWait := [], regroup := none }

/-- The mask of the first `n` threads. -/
def firstThreads (n : Nat) : Mask := maskOf fun t => decide (t < n)

/-- Put a wale in a slot of a workgroup; it acquires `stamp` at its creation. -/
def State.addWale (s : State) (g : Workgroup) (slot windex pc : Nat) (exist : Mask) (scs seeds : NMap W32)
    (stamp : List Nat) : Nat × State :=
  let (id, s) := s.fresh
  let w := { newWale id .wale g.core slot g.id windex g.ctx g.budget pc s.clk exist with
             s := scs, seeds := seeds, stamp := stamp, acqClk := s.clk }
  (id, { s with wales := s.wales ++ [w] })

/-- The identity of a launch. -/
def launchFamily (q seq : Nat) : Nat := q * 2 ^ 32 + seq
/-- The identity of a task's workgroup. -/
def taskFamily (id : Nat) : Nat := 2 ^ 48 + id

/-- The started launch whose record a context's address names (R158). -/
def State.launchOf (s : State) (ctx va : Nat) (p : Perm) : Option LaunchSt :=
  (s.recLoc ctx (addr52 va) p).bind fun a => s.launches.find? fun l => s.recLoc (dCtx (s.desc l.queue)) l.recVa .r == some a

/-- Build rank `rank` of a launch on a core that can hold it (R278, R279, R304). -/
def State.buildRank (s : State) (l : LaunchSt) (r : BitVec 2048) (core rank : Nat) : State :=
  let fam := launchFamily l.queue l.seq
  let sym := l.sym
  let idx := if sym = 0 then [] else (symReps sym l.grid).getD rank []
  let lin := (idx.zip l.grid).foldr (fun p n => p.1 + p.2 * n) 0
  let group := if sym = 0 then rank else lin
  let n := rNeed r
  let win := if n.window = 0 then none else s.placeWindow fam core n.window
  let slots := s.freeSlots core
  let (id, s) := s.fresh
  let g := { newGroup id core (.launch l.queue l.seq l.recVa) fam (rCtx r) n.budget s.clk with
    group := group, launch := l.seq, wcount := n.wales, fpen := BitVec.ofNat 5 (field r 38 34), bars := n.bars
    tiles := n.tiles, window := win, imageMask := if sym = 0 then 0 else symMask sym l.grid idx, sym := sym, grid := l.grid
    grids := l.grids, started := l.started, part := s.partOf core, coop := l.coop }
  let s := match win with | some w => s.openWindow core w | none => s
  let s := { s with wgs := s.wgs ++ [g] }
  let args := scalarsOf ((List.range 8).map fun j => BitVec.ofNat 32 (field r (1823 + 32 * j) (1792 + 32 * j)))
  let last := if field r 21 17 = 0 then 32 else field r 21 17
  let code := field r 179 128
  let s := (List.range n.wales).foldl (fun s i =>
    let exist := firstThreads (if i + 1 = n.wales then last else 32)
    (s.addWale g (slots.getD i 0) i code exist args (launchSeeds (field r 127 96) group i) l.stamp).2) s
  match s.wales.find? fun w => w.wg == id && w.windex == 0 with
  | none => s
  | some w =>
    let s := if n.streamM then s.startStream w .streamM (field r 691 640) args else s
    if n.streamC then s.startStream w .streamC (field r 755 704) args else s

end Sys2Proof.Machine
end

