-- ==== Sys2Proof/Machine/Task.lean ====
section
/-!
DEFINITION. Sys2Proof/Machine/Task.lean: continuation records (R288, R289), TASK_POP, JOIN_DECREMENT and SPAWN (R154).
-/
namespace Sys2Proof.Machine

/-! ### Continuation records (R288) -/

/-- A released record on a task queue: its context and address. -/
def taskEntry (ctx va : Nat) : Nat := ctx * 2 ^ 52 + addr52 va
/-- The key of the release that pushed it. -/
def taskKey (e : Nat) : Nat := 2 ^ 102 + e

/-- A continuation record at a location. -/
def State.contAt (s : State) (l : Nat) : BitVec 512 := BitVec.ofNat 512 (s.natAt l 64)

/-- Append to a core's, die's or bank tier's queue. -/
def qPush (m : NMap (List Nat)) (k e : Nat) : NMap (List Nat) := mSet [] m k (mGet [] m k ++ [e])

/-- PUSHING a released record (R289): a `.dev` release by a core's agent. A record of a refused tier
is not pushed; AFF 0x1FF of a bank task takes the pushing agent's die. `r` is the record. -/
def State.pushTask (s : State) (ctx va core : Nat) (r : BitVec 512) (stamp : List Nat) : State :=
  let e := taskEntry ctx va
  let aff := field r 189 181
  let (_, s1) := s.weaverRel core ctx (taskKey e) stamp false
  match field r 191 190 with
  | 0 =>
    if aff = 0x1FF then { s1 with dieTasks := qPush s1.dieTasks (dieOf core) e }
    else { s1 with coreTasks := qPush s1.coreTasks aff e }.stir (dieOf aff)
  | 1 =>
    let d := if aff = 0x1FF then dieOf core else aff % 4
    { s1 with bankTasks := qPush s1.bankTasks d e }.stir d
  | _ => s

/-- A weaver of a core may decrement a join counter: its home has applied the stamp it carries (R246). -/
def State.joinReady (s : State) (ctx va core : Nat) (stamp : List Nat) : Bool :=
  match s.recLoc ctx va .w with
  | none => true
  | some l => s.weaverReady core l stamp

/-- A decrement that has to wait wakes the counter's home (R380). -/
def State.joinStir (s : State) (ctx va : Nat) : State :=
  match s.recLoc ctx va .w with
  | none => s
  | some l => s.stirHomes [l]

/-- A JOIN COUNTER IS DECREMENTED with `.ar.dev` by a core's weaver (R286, R289): at 0 the record is released. -/
def State.joinDec (s : State) (ctx va core : Nat) (stamp : List Nat) : State :=
  match s.recLoc ctx va .w with
  | none => s
  | some l =>
    let st := stampJoin stamp (s.stampAt (l + 16) core)
    let n := (s.natAt (l + 16) 4 + (2 ^ 32 - 1)) % 2 ^ 32
    let s := s.writeNat (l + 16) 4 n
    let (st', s) := s.weaverRel core ctx (l + 16) st true
    if n = 0 then s.pushTask ctx va core (s.contAt l) st' else s

/-! ### Atomics and reductions that release a record (R289, R326) -/

/-- An element that an ADD with a release of `.die` or wider has brought to 0 is the JOIN of a continuation record: the
record is released by that decrement (R289, R326; log 121). -/
def State.joinHit (s : State) (q : Req) (e : Elem) (old : Nat) : Bool :=
  (match q.rel with | some sc => decide (3 ≤ sc.code) | none => false) && locDevice e.loc && e.loc % 64 == 16 &&
    old != 0 && (old + e.val.toNat) % 2 ^ 32 == 0 && Config.isRecord (e.loc - 16) s.clk

/-- The next atomic or reduction of a request (R178), and the push of a record that it releases (R289). -/
def State.atomicStep (s : State) (q : Req) (op : Nat) : State :=
  let t := s.performAtomic q op
  if op ≠ 0 ∧ op ≠ 12 then t
  else match t.reqs.find? fun r => r.id == q.id with
    | none => t
    | some r =>
      (q.elems.zip r.elems).foldl (fun (t : State) p =>
        if !p.1.done && p.2.done && s.joinHit q p.1 p.2.val.toNat then
          t.pushTask q.ctx (p.1.va - 16) q.core (t.contAt (p.1.loc - 16)) (t.stampAt p.1.loc q.core)
        else t) t

/-- ATOMIC_PERFORM (R178): the next thread's atomic or reduction of a request, indivisible at its level. -/
def execAtomicPerform (id : Nat) (s : State) : Host.Outcome State Fault Refusal :=
  match s.reqs.find? fun q => q.id == id with
  | some q =>
    match q.kind with
    | .atomic op => fin (s.atomicStep q op)
    | .red op => fin (s.atomicStep q op)
    | _ => .next s
  | none => .next s

/-! ### Running a task (R289) -/

/-- The address that coordinate `n` of a rank-1 layout of a context maps to, in device or peer memory; none outside it
(R289). -/
def frameVa (r : LRec) (n : Nat) : Option Nat :=
  if !lValid r || lRank r != 1 || !((spaceTgt (lSpace r)).isSome || lSpace r == 6) || decide ((lExts r).getD 0 0 ≤ n) then none
  else some (lAddr r [(n : Int)]).toNat

/-- The location of a byte of a frame; none where it cannot be read (R289). -/
def State.frameLoc (s : State) (ctx : Nat) (r : LRec) (a : Nat) : Option Nat :=
  match (if lSpace r = 6 then s.peerXl ctx (lPeer r) [.r] (addr52 a) else s.xlate ctx (spaceTgt (lSpace r)) .r (addr52 a)) with
  | .ok l => some l
  | _ => none

/-- Word `j` of the 32 bytes at the frame coordinate of a task (R289); one that cannot be read is a free value (log 8). -/
def State.frameWord (s : State) (ctx h n j : Nat) : W32 :=
  let r := s.layout ctx h
  match frameVa r n with
  | none => Config.freeWord (s.free + j)
  | some a =>
    let bs := (List.range 4).filterMap fun i => (s.frameLoc ctx r (a + 4 * j + i)).map s.byteAt
    if bs.length = 4 then BitVec.ofNat 32 (leNat bs) else Config.freeWord (s.free + j)

/-- What the frame of a task is read from: the locations of its words (R289). -/
def State.frameLocs (s : State) (ctx h n : Nat) : List Nat :=
  let r := s.layout ctx h
  match frameVa r n with
  | none => []
  | some a => (List.range 8).filterMap fun j => s.frameLoc ctx r (a + 4 * j)

/-- BARG1 breaks the limits of R289. -/
def bargBad (b : Nat) : Bool :=
  b / 2 ^ 5 % 8 != 0 || b / 2 ^ 20 != 0 || decide (128 < b / 2 ^ 8 % 256) || decide (8 < b / 2 ^ 16 % 16)

/-- The need of a core task. -/
def taskNeed (r : BitVec 512) : Need :=
  let b := field r 319 288
  { wales := 1, budget := 32 * 2 ^ field r 172 171, window := 4096 * field r 180 173, bars := b / 2 ^ 8 % 256
    tiles := b / 2 ^ 16 % 16, streamM := false, streamC := false }

/-- When the launch started whose code a task runs, counted in rewritten code words: the running launch of its context with
the SEQ that its sr.launch names, else its own start (R78, log 14). -/
def State.taskStart (s : State) (ctx seq : Nat) : Nat :=
  match s.launches.find? fun l => l.seq == seq && (s.launchLoc l).map (fun a => rCtx (s.recAt a)) == some ctx with
  | some l => l.started
  | none => s.rewrites

/-- Start a core task as a one-wale workgroup (R289). -/
def State.startTask (s : State) (core va : Nat) (r : BitVec 512) (stamp : List Nat) : State :=
  let n := taskNeed r
  let ctx := field r 166 160
  let b := field r 319 288
  let args := (List.range 8).map (s.frameWord ctx (field r 73 64) (field r 127 96))
  let slot := (s.freeSlots core).getD 0 0
  let fam := taskFamily s.nextId
  let win := if n.window = 0 then none else s.placeWindow fam core n.window
  let (id, s) := { s with free := s.free + 8 }.fresh
  let g := { newGroup id core (.task va (field r 243 192)) fam ctx n.budget s.clk with
    group := field r 351 320, launch := field r 383 352, fpen := BitVec.ofNat 5 b, bars := n.bars, tiles := n.tiles, window := win, part := s.partOf core
    started := s.taskStart ctx (field r 383 352) }
  let s := match win with | some w => s.openWindow core w | none => s
  let s := { s with wgs := s.wgs ++ [g] }
  let seeds := (List.range 8).foldl (fun m l =>
    mSet 0 m l (loadSeed (BitVec.ofNat 32 (field r 287 256) ^^^ BitVec.ofNat 32 (l * 0x9E3779B9)))) []
  (s.addWale g slot 0 (field r 51 0) 0xFFFFFFFF (scalarsOf args) seeds stamp).2

/-- The base row of a bank task: the row at coordinate FOFF of FH (R289); none when it does not exist. -/
def State.taskRow (s : State) (r : BitVec 512) : Option Nat :=
  let lay := s.layout (field r 166 160) (field r 73 64)
  let c : Int := (field r 127 96 : Nat)
  if !lValid lay || lRank lay != 1 || !(lSpace lay == 0 || lSpace lay == 1) || coordsOut lay [c] then none
  else some ((lAddr lay [c]).toNat / 32 * 32)

/-- The space of a bank task's layout, which chooses its unit (R209, R289). -/
def State.taskSpace (s : State) (r : BitVec 512) : Nat := lSpace (s.layout (field r 166 160) (field r 73 64))

/-- A unit is idle: the arithmetic unit of a bank runs no program, one of a base die's 32 stack engines runs none (R9). -/
def State.unitIdle (s : State) (u : Option Nat) : Bool :=
  match u with
  | none => true
  | some k => decide ((s.banks.filter fun b => b.st != .queued && b.unit == u).length < if k < 12 then 32 else 1)

/-- Start a bank task (R289): as a BCALL on its base row; a row that does not exist ends it. Its unit's die is that of the
row's home, or of its queue where the row is not mapped (R235). -/
def State.startBankTask (s : State) (die va : Nat) (r : BitVec 512) (stamp : List Nat) : State :=
  let ctx := field r 166 160
  let row := s.taskRow r
  let base := row.getD 0
  let (id, s) := s.fresh
  let b : BankCall :=
    { id := id, wale := none, ctx := ctx, base := base, prog := field r 51 0, pc := field r 51 0, w := []
      args := (List.range 4).map fun j => BitVec.ofNat 32 (field r (287 + 32 * j) (256 + 32 * j))
      lc := 0, limit := 0, loopStart := none, skipping := false, count := 0, flag := none, st := .running
      space := s.taskSpace r, parent := field r 243 192, recVa := va, die := die, unit := none, touched := false, pure := true, after := [], issued := s.clk, insn := 0, stamp := stamp }
  if row.isNone then s.endBank b else { s with banks := s.banks ++ [s.settleUnit b (72 * die)] }

/-- Drop the first entry of a task queue. -/
def qPop (m : NMap (List Nat)) (k : Nat) : NMap (List Nat) := mSet [] m k ((mGet [] m k).drop 1)

/-- The record of a task-queue entry, with its location. -/
def State.entryRec (s : State) (e : Nat) : Option (Nat × BitVec 512) :=
  (s.recLoc (e / 2 ^ 52) (e % 2 ^ 52) .r).map fun l => (l, s.contAt l)

/-- A record and its frame can be read at their homes, which have applied what the push released (R246, R289). -/
def State.taskReady (s : State) (core l : Nat) (rec' : BitVec 512) (stamp : List Nat) : Bool :=
  (l :: s.frameLocs (field rec' 166 160) (field rec' 73 64) (field rec' 127 96)).all fun x => s.weaverReady core x stamp

/-- A weaver declines a core task (R289): it posts kind 0x08, and then decrements PARENT as if the task had ended. -/
def State.decline (s : State) (c e : Nat) (rec' : BitVec 512) (stamp : List Nat) : State :=
  let parent := field rec' 243 192
  let s := s.postEv c (evData (e % 2 ^ 52) 0xFFFFFFFF 0x08 (field rec' 166 160)) (dieOf c) stamp
  if parent = 0 then s else s.joinDec (e / 2 ^ 52) parent c stamp

/-- TASK_POP for a weaver (R289): it starts a task only when its core can hold it, and declines one whose setup words break
the limits, which waits for room in its event queue (R287). -/
def State.popCore (s : State) (c : Nat) : State :=
  let own := mGet [] s.coreTasks c
  let (e?, s1) := match own with
    | e :: _ => (some e, { s with coreTasks := qPop s.coreTasks c })
    | [] => ((mGet [] s.dieTasks (dieOf c)).head?, { s with dieTasks := qPop s.dieTasks (dieOf c) })
  match e? with
  | none => s
  | some e =>
    match s.entryRec e with
    | none => s
    | some (l, rec') =>
      let ctx := field rec' 166 160
      let parent := field rec' 243 192
      let st := stampJoin (s.weaverStamp c) (s.stampAt (taskKey e) c)
      let s2 := { s1 with rels := mSet [] s1.rels (taskKey e) [] }
      if !s.taskReady c l rec' st then s.stirHomes (l :: s.frameLocs ctx (field rec' 73 64) (field rec' 127 96))
      else if bargBad (field rec' 319 288) then
        if s.evFull c then s
        else if parent != 0 && !s.joinReady (e / 2 ^ 52) parent c st then s.joinStir (e / 2 ^ 52) parent
        else (s2.weaverJoin c st).decline c e rec' st
      else if !s.ctxValid ctx || !s.fits (taskFamily s.nextId) c (taskNeed rec') then s
      else (s2.weaverJoin c st).startTask c (e % 2 ^ 52) rec' st

/-- TASK_POP for a die's bank tier (R289): the oldest task starts on its unit, when that is idle and no load has read a
sector in part (R325). -/
def State.popBank (s : State) (d : Nat) : State :=
  match (mGet [] s.bankTasks d).head? with
  | none => s
  | some e =>
    match s.entryRec e with
    | none => s
    | some (l, rec') =>
      let ctx := field rec' 166 160
      let row := s.taskRow rec'
      let unit := row.bind fun b => s.bankUnit ctx b (s.taskSpace rec')
      let st := s.stampAt (taskKey e) (72 * d)
      if !s.weaverReady (72 * d) l st then s.stirHomes [l]
      else if !s.ctxValid ctx || !s.unitIdle unit || s.sectorSplit || (row.isNone && s.evFull (72 * d)) then s
      else { s with bankTasks := qPop s.bankTasks d, rels := mSet [] s.rels (taskKey e) [] }.startBankTask d (e % 2 ^ 52) rec' st

/-- TASK_POP (R289): an idle resource takes the oldest record of its own queue, then of its die's, and runs it. -/
def execTaskPop (r : Resource) (s : State) : Host.Outcome State Fault Refusal :=
  match r with
  | .core c => .next (if s.weaverUp c then s.popCore c else s)
  | .bankUnit d => .next (s.popBank d)

/-! ### What a weaver learns from its event queue (R286, R289, R382) -/

/-- The record that reports the end of a workgroup or bank task of a retirement list. -/
def State.reports (s : State) (n : Nat) (x : EvRec) : Bool :=
  let kind := field x.data 31 24
  let addr := field x.data 127 64
  if 2 ^ 60 ≤ n then kind == 3 && addr == n % 2 ^ 52 && field x.data 6 0 == n % 2 ^ 60 / 2 ^ 52
  else match s.wg? n with
    | some g =>
      let va := match g.origin with | .launch _ _ a => a | .task a _ => a | .spawned => 0
      kind == 2 && addr == va && field x.data 63 32 == g.group
    | none => false

/-- The weaver pops its event queue through the record that reports `n`, and acquires it (R244): the state and what
it has acquired. None while that record has not reached the queue, or another workgroup's record comes first. One
that EVPOP has popped needs no popping. -/
def State.popReport (s : State) (core n : Nat) : Option (State × List Nat) :=
  let q := mGet [] s.events core
  let ends (x : EvRec) : Bool := field x.data 31 24 == 2 || field x.data 31 24 == 3
  if q.any (s.reports n) then
    match q.dropWhile (fun x => !ends x) with
    | x :: rest =>
      if s.reports n x then
        let skipped := q.takeWhile fun x => !ends x
        let st := (skipped ++ [x]).foldl (fun st e => stampJoin st e.stamp) (s.weaverStamp core)
        some ({ s with events := mSet [] s.events core rest }.weaverJoin core st, st)
      else none
    | [] => none
  else if s.evHeld.any fun p => p.1 == core && s.reports n p.2 then none
  else some (s, s.weaverStamp core)

/-- Whether an entry of a retirement list is a task, with its PARENT's context and address. -/
def State.taskParent (s : State) (n : Nat) : Option (Nat × Nat) :=
  if 2 ^ 60 ≤ n then
    let ctx := n % 2 ^ 60 / 2 ^ 52
    some (ctx, match s.recLoc ctx (n % 2 ^ 52) .r with | some l => field (s.contAt l) 243 192 | none => 0)
  else match s.wg? n with
    | some g => (match g.origin with | .task _ p => some (g.ctx, p) | _ => none)
    | none => none

/-- The entry of a retirement list leaves it, with its workgroup. -/
def State.unlist (s : State) (core n : Nat) : State :=
  { s with
    retired := mSet [] s.retired core ((mGet [] s.retired core).erase n)
    wgs := s.wgs.filter fun g => g.id != n }

/-- JOIN_DECREMENT (R289): a core's weaver decrements the PARENT of the first ended task of its retirement list. -/
def execJoinDecrement (core : Nat) (s : State) : Host.Outcome State Fault Refusal :=
  match (mGet [] s.retired core).head? with
  | none => .next s
  | some n =>
    match s.taskParent n with
    | none => .next s
    | some (ctx, parent) =>
      if !s.weaverUp core then .next s
      else match s.popReport core n with
        | none => .next s
        | some (s1, ev) =>
          let st := match s.wg? n with | some g => stampJoin g.stamp ev | none => ev
          if parent != 0 && !s.joinReady ctx parent core st then .next (s.joinStir ctx parent)
          else .next ((if parent = 0 then s1 else s1.joinDec ctx parent core st).unlist core n)

/-! ### SPAWN (R154) -/

/-- The context slot that a spawned wale would take: none when no context is free. -/
def State.spawnSlot (s : State) (w : Wale) : Option Nat :=
  if s.freeMain w.core < w.budget then none else (s.freeSlots w.core).head?

/-- The seeds advanced once (R45). -/
def Wale.nextSeeds (w : Wale) : NMap W32 :=
  (List.range 8).foldl (fun m l => mSet 0 m l (nextSeed (mGet 0 w.seeds l))) []

/-- The seeds of a spawned wale. -/
def spawnSeeds (m : NMap W32) : NMap W32 :=
  (List.range 8).foldl (fun x l => mSet 0 x l (loadSeed (mGet 0 m l ^^^ 0xA5A5A5A5))) []

/-- The scratchpad window of a wale's workgroup in units of 4 KiB. -/
def State.footOf (s : State) (w : Wale) : Nat := s.windowSize w / 4096

/-- Where the frame and record words of SPAWN.q go: the locations of elements 0 to 7 and 16 to 31, or the trap;
of the causes of one commit the lowest code comes first (R162, R249). -/
def State.spawnFrame (s : State) (w : Wale) (h n : Nat) : Except (Option Cause) (List Nat × Nat) :=
  let r := s.layout w.ctx h
  if !lValid r || lRank r != 1 || !(lFmt r == .n32 || lFmt r == .raw) || !(lSpace r == 0 || lSpace r == 1) ||
      outsideMesh r then .error (some .layoutBad)
  else if (lExts r).getD 0 0 < n + 32 then .error (some .layoutRange)
  else
    let va (j : Nat) : Nat := (lAddr r [((n + j : Nat) : Int)]).toNat
    let xs := ((List.range 8) ++ (List.range 16).map (16 + ·)).map fun j => s.xlate w.ctx (spaceTgt (lSpace r)) .w (va j)
    if xs.contains (.bad .xlate) then .error (some .xlate)
    else if xs.contains (.bad .access) then .error (some .access)
    else if va 0 % 64 ≠ 0 then .error (some .misalign)
    else if xs.contains .absent then .error none
    else .ok (xs.filterMap (fun x => match x with | .ok l => some l | _ => none), va 16)

/-- The continuation record of SPAWN.q as words. -/
def spawnRecord (entry h n foot budget core ctx seed fpen group launch : Nat) : BitVec 512 :=
  let regs := if budget = 32 then 0 else if budget = 64 then 1 else if budget = 128 then 2 else 3
  BitVec.ofNat 512 (addr52 entry + h % 1024 * 2 ^ 64 + n % 2 ^ 32 * 2 ^ 96 + ctx % 128 * 2 ^ 160 + regs * 2 ^ 171 +
    foot % 256 * 2 ^ 173 + core % 512 * 2 ^ 181 + seed % 2 ^ 32 * 2 ^ 256 + fpen % 32 * 2 ^ 288 +
    group % 2 ^ 32 * 2 ^ 320 + launch % 2 ^ 32 * 2 ^ 352)

/-- The new wale of SPAWN in its own workgroup (R154): what the rule does not list, the image mask, the symmetry word and the
grid, is the spawner's (log 134). The entry address is checked as the wale fetches its first word (log 135). -/
def State.spawnWale (s : State) (w : Wale) (g : Workgroup) (slot entry : Nat) (args : List W32) (seeds : NMap W32) : State :=
  let (id, s) := s.fresh
  let n := { newGroup id w.core .spawned g.family w.ctx w.budget s.clk with
    group := g.group, launch := g.launch, fpen := g.fpen, window := g.window, imageMask := g.imageMask, sym := g.sym, grid := g.grid
    grids := g.grids, started := g.started, part := g.part }
  let s := { s with wgs := s.wgs ++ [n] }
  (s.addWale n slot 0 (addr52 entry) 0xFFFFFFFF (scalarsOf args) (spawnSeeds seeds) w.stamp).2

/-- SPAWN and SPAWN.q (R154). The push of `.q` is a `.dev` release, which waits for the wale's earlier accesses (R289, R326,
log 131). -/
def execSpawn (f : SpawnForm) (s : State) : Host.Outcome State Fault Refusal :=
  s.withCur fun w =>
    let run := [f.a, f.a + 1] ++ (List.range 8).map (f.b + ·) ++ (match f.c with | some c => [c, c + 1] | none => [])
    if w.kind != .wale then s.raise w .illegalField 0
    else match s.wg? w.wg, s.stallShort w (run.map (Use.mk .s)) with
      | none, _ => .next s
      | _, some d => s.raise w .stallShort w.exm d
      | some g, none =>
        let entry := w.s64At f.a s.clk
        let args := (List.range 8).map fun j => w.sAt (f.b + j) s.clk
        let seeds := w.nextSeeds
        let done (s : State) (w : Wale) (v : Nat) : State := s.issueWith w [scFlight w f.d (BitVec.ofNat 32 v) s.clk 8] 1 0
        match s.spawnSlot w, f.c with
        | some slot, _ => .next ((done s { w with seeds := seeds } slot).spawnWale w g slot entry args seeds)
        | none, none => .next (done s w 0xFFFFFFFF)
        | none, some c =>
          let h := (w.sAt c s.clk).toNat % 1024
          let n := (w.sAt (c + 1) s.clk).toNat
          match s.spawnFrame w h n with
          | .error none => fin { s with absentHit := true }
          | .error (some k) => s.raise w k 0 0 (s.clk + 1)
          | .ok (ls, va) =>
            if !s.waleRelReady w .dev then .next (s.hold w .flagWait false)
            else
            let (i, s) := s.waleRelease w .dev
            let seed := (mGet 0 seeds 0 ^^^ 0xA5A5A5A5).toNat
            let cr := spawnRecord entry h n (s.footOf w) w.budget w.core w.ctx seed g.fpen.toNat g.group g.launch
            let words := args.map BitVec.toNat ++ (List.range 16).map fun j => field cr (32 * j + 31) (32 * j)
            let s1 := (ls.zip words).foldl (fun s p => ((s.engWrite (clusterOf w.core) p.1 (leBytes 4 p.2)))) s
            fin (done (s1.pushTask w.ctx va w.core cr i.stamp) { w with seeds := seeds } 0xFFFFFFFE)

end Sys2Proof.Machine
end

