-- ==== Sys2Proof/Machine/Launch.lean ====
section
/-!
DEFINITION. Sys2Proof/Machine/Launch.lean: submission (R281), checks, starts and claims of launches
(R277, R280, R283, R284, R290), their workgroups (R278) and retirement (R286).
-/
namespace Sys2Proof.Machine

/-! ### LOW, retirement and refusal (R277, R286) -/

/-- The smallest SEQ from `low` on that is neither Retired nor Refused; TAIL when there is none (R282). -/
def State.lowScan (s : State) (d : BitVec 512) : Nat → Nat → Nat
  | 0, low => low
  | n + 1, low =>
    if low = dTail d then low
    else match s.recLoc (dCtx d) (dSlot d low) .r with
      | some l => if 5 ≤ rState (s.recAt l) ∧ rState (s.recAt l) ≤ 6 then s.lowScan d n (low + 1) else low
      | none => low

/-- LOW advances with a `.dev` release, and vector q is raised where its enable is set (R286, R327). -/
def State.advanceLow (s : State) (q core : Nat) (stamp : List Nat) : State :=
  let d := s.desc q
  let low := s.lowScan d (dSize d + 1) (dLow d)
  if low = dLow d then s
  else
    let s := s.putDesc q 28 low
    let s := (s.weaverRel core (dCtx d) (locHbm (s.descAt q + 28)) stamp false).2
    { s with msix := if s.msix.contains q || !Config.vectorOn q s.clk then s.msix else s.msix ++ [q] }

/-- A queue's dispatch state. -/
def State.queueOf (s : State) (q : Nat) : QueueSt := (mFind s.queueSt q).getD ⟨false, []⟩

/-- HEAD passes a record that stands at it (R282); it does not move while dispatch from the queue is stopped (R293). -/
def State.passHead (s : State) (q seq : Nat) : State :=
  if dHead (s.desc q) = seq && !(s.queueOf q).closed then s.putDesc q 20 ((seq + 1) % 2 ^ 32) else s

/-- Set a queue's dispatch state. -/
def State.putQueue (s : State) (q : Nat) (x : QueueSt) : State := { s with queueSt := mSet ⟨false, []⟩ s.queueSt q x }

/-- A pre-empted record has settled; PREDONE reads 1 once none is left (R293). -/
def State.settled (s : State) (q seq : Nat) : State :=
  let l := s.preempting.filter fun p => p != (q, seq)
  { s with preempting := l, predone := s.predone || l.isEmpty }

/-- Once a weaver's record has entered its queue, the weaver goes on: a retired launch's continuation is decremented, when its
home has applied the weaver's stamp (R246, R286, R287). -/
def State.contClk (s : State) : State :=
  let due (h : ContHeld) : Bool := !(s.evHeld.any fun p => p.1 == h.ccore && p.2.data == h.data) &&
    (h.va == 0 || s.joinReady h.ctx h.va h.core h.stamp)
  if s.contHeld.isEmpty then s
  else
    (s.contHeld.filter due).foldl (fun s h => if h.va = 0 then s else s.joinDec h.ctx h.va h.core h.stamp)
      { s with contHeld := s.contHeld.filter fun h => !due h }

/-- A WEAVER POSTS a record to the queue of `ccore` and waits while that is full (R287); `va` is the continuation that it then
decrements, or 0. -/
def State.weaverPost (s : State) (core ccore : Nat) (data : BitVec 128) (ctx va : Nat) (stamp : List Nat) : State :=
  let s := s.postEv ccore data (dieOf core) stamp
  { s with contHeld := s.contHeld ++ [(⟨ccore, data, core, ctx, va, stamp⟩ : ContHeld)] }.contClk

/-- A LAUNCH RETIRES (R286): STATE, LOW, the completion record, the continuation, in this order; the last waits
while the queue of CCORE is full (R287). -/
def State.retireLaunch (s : State) (l : LaunchSt) (loc core : Nat) (stamp : List Nat) : State :=
  let r := s.recAt loc
  let s := s.putState loc 5
  let (st, s) := s.weaverRel core (rCtx r) loc stamp false
  let s := ({ s with launches := s.launches.filter fun x => !(x.queue == l.queue && x.seq == l.seq) }).passHead l.queue l.seq
  let s := s.advanceLow l.queue core st
  let data := evData l.recVa l.seq 0x01 (rCtx r)
  let s := s.weaverPost core (rCcore r) data (rCtx r) (field r 563 512) st
  let x := s.queueOf l.queue
  (s.putQueue l.queue { x with resumeList := x.resumeList.filter (· != l.seq) }).settled l.queue l.seq

/-! ### Checks (R277, R284, R301) -/

/-- The grid total of extents without symmetry, the orbit count with it (R276, R304). -/
def launchTotal (sym : W32) (grid : List Nat) : Nat :=
  if sym = 0 then grid.foldl (· * ·) 1 else (symReps sym grid).length

/-- GRID0 to GRID3 of a record. -/
def rGrids (r : BitVec 2048) : List Nat := (List.range 4).map fun j => field r (223 + 32 * j) (192 + 32 * j)

/-- GRID0 to GRID3 at the start: GRID0 from the grid word under GWE (R284); none when it cannot be translated. -/
def State.gridsAtStart (s : State) (r : BitVec 2048) : Option (List Nat) :=
  let g := rGrids r
  if r.getLsbD 14 then
    match s.xlate (rCtx r) none .r (field r 371 320) with
    | .ok l =>
      let k := 2 ^ field r 376 372
      some (setNth g 0 ((s.natAt l 4 + k - 1) / k))
    | _ => none
  else some g

/-- The extents GRID0 to GRIDRANK at the start. -/
def State.gridAtStart (s : State) (r : BitVec 2048) : Option (List Nat) := (s.gridsAtStart r).map (·.take (field r 40 39 + 1))

/-- A reserved field of a launch record that is not zero. -/
def rReserved (r : BitVec 2048) : Bool :=
  [(1791, 864), (767, 756), (703, 692), (607, 585), (575, 564), (383, 377), (191, 180), (32, 32)].any fun p =>
    field r p.1 p.2 != 0

/-- The reasons that a record shows by itself (R277). -/
def State.earlyReasons (s : State) (d : BitVec 512) (r : BitVec 2048) : List Nat :=
  let llist := field r 851 800
  let lcnt := field r 863 852
  let one := rReserved r || decide (7 ≤ rState r) || field r 179 128 % 8 != 0 || field r 371 320 % 4 != 0 ||
    llist % 128 != 0 || decide (1024 < lcnt) || decide (287 < rCcore r) || decide (64 < field r 55 48) ||
    (llist == 0) != (lcnt == 0)
  (if one then [1] else []) ++ (if (rNeed r).perCore = 0 then [2] else []) ++
    (if !s.ctxExists (rCtx r) || dCtx d != rCtx r then [4] else [])

/-- Load the layout list in order, from any pages that can be read; none when an entry fails LAYSET's checks or
cannot be read (R280). -/
def State.loadList (s : State) (core ctx win tiles : Nat) : Nat → Nat → Option State
  | _, 0 => some s
  | va, n + 1 =>
    match s.xlate ctx none .r va with
    | .bad _ | .absent => none
    | .ok l =>
      let e : BitVec 1024 := BitVec.ofNat 1024 (s.natAt l 128)
      let r : LRec := setField e 1023 896 0
      if field e 1023 906 != 0 || s.recordBad ctx core r || s.spanOutside ctx r win tiles then none
      else (s.putLayout ctx (field e 905 896) r).loadList core ctx win tiles (va + 128) n

/-- The layout list of a record, loaded. -/
def State.loaded (s : State) (core : Nat) (r : BitVec 2048) : Option State :=
  s.loadList core (rCtx r) (4096 * field r 63 56) (field r 3 0) (field r 851 800) (field r 863 852)

/-- The reasons found as the launch starts (R277, R280, R284, R301). The grid total of RSN 3 and RSN 5 is the product
of the extents, with or without symmetry (R276, log 37). -/
def State.lateReasons (s : State) (core part : Nat) (r : BitVec 2048) : List Nat :=
  match s.gridAtStart r with
  | none => [5]
  | some g =>
    if rSym r != 0 && symBad (rSym r) g then [1]
    else
      (if 2 ^ 32 ≤ g.foldl (· * ·) 1 then [5] else []) ++
      (if r.getLsbD 16 && decide ((s.partCores part).length * (rNeed r).perCore < g.foldl (· * ·) 1) then [3] else []) ++
      (if (s.loaded core r).isNone then [6] else [])

/-- The SER and GEV conditions hold (R276, R284). -/
def startable (d : BitVec 512) (r : BitVec 2048) : Bool :=
  (!r.getLsbD 33 || decide (dHead d ≤ dLow d)) && (!r.getLsbD 13 || !r.getLsbD 14 || decide (field r 415 384 < dLow d))

/-- The record at HEAD of a queue: its location and its words. -/
def State.headRec (s : State) (d : BitVec 512) : Option (Nat × BitVec 2048) :=
  if dHead d = dTail d then none
  else (s.recLoc (dCtx d) (dSlot d (dHead d)) .w).map fun l => (l, s.recAt l)

/-- A record that no weaver has looked at: Queued, or of a reserved STATE, and not a launch that has started (R292). -/
def unseen (r : BitVec 2048) : Bool := rState r == 0 || decide (7 ≤ rState r)

/-- The reasons why the record at HEAD is refused now; none while it still waits, or once it has started. -/
def State.reasons (s : State) (core q : Nat) (d : BitVec 512) (r : BitVec 2048) : List Nat :=
  let e := if !unseen r || (s.launch? q (dHead d)).isSome then [] else s.earlyReasons d r
  if !e.isEmpty then e
  else if rState r ≠ 0 ∨ !startable d r then []
  else s.lateReasons core (dPart d) r

/-! ### Arbitration (R290, R293) -/

/-- A workgroup of a launch that is saved, or on its way there. -/
def State.savedOf (s : State) (q seq : Nat) : Bool := s.wgs.any fun g =>
  g.family == launchFamily q seq && (g.saved || s.wales.any fun w => w.wg == g.id && w.life == .stopping)

/-- The started launch that a queue's weavers would claim from: the first of the resume list once its saved
workgroups are restored, else the Running record at HEAD (R283, R293). -/
def State.claimable (s : State) (q : Nat) (d : BitVec 512) : Option LaunchSt :=
  let run (l : LaunchSt) : Bool := !l.coop && s.launchState l == 1 && s.ctxValid (dCtx d)
  match (s.queueOf q).resumeList with
  | n :: _ =>
    match s.launch? q n with
    | some l => if run l && !s.savedOf q n then some l else none
    | none => none
  | [] =>
    match s.launch? q (dHead d) with
    | some l => if run l then some l else none
    | none => none

/-- The record at HEAD can be started or refused. -/
def State.headWork (s : State) (q : Nat) (d : BitVec 512) : Bool :=
  match s.headRec d with
  | some (_, r) =>
    !s.ctxStopped.contains (dCtx d) && unseen r && (s.launch? q (dHead d)).isNone &&
      (!(s.earlyReasons d r).isEmpty || (rState r == 0 && startable d r))
  | none => false

/-- A queue has a startable or claimable record: one on its resume list is served before that at HEAD (R290, R293). -/
def State.qWork (s : State) (q : Nat) (d : BitVec 512) : Bool :=
  !(s.queueOf q).closed && ((s.claimable q d).isSome || ((s.queueOf q).resumeList.isEmpty && s.headWork q d))

/-- A queue has pending work: a record on its resume list, or one that HEAD has not passed (R290). -/
def State.qPending (s : State) (q : Nat) (d : BitVec 512) : Bool :=
  !(s.queueOf q).closed && (!(s.queueOf q).resumeList.isEmpty || dHead d != dTail d || (s.claimable q d).isSome)

/-- The valid queues of a partition, in number order. -/
def State.queuesOf (s : State) (part : Nat) : List (Nat × BitVec 512) :=
  ((List.range 256).map fun q => (q, s.desc q)).filter fun p => dValid p.2 && dPart p.2 == part

/-- A queue order rotated to start after the queue served last. -/
def rotateAfter (last : Option Nat) (l : List (Nat × BitVec 512)) : List (Nat × BitVec 512) :=
  match last with
  | some n => (l.filter fun p => decide (n < p.1)) ++ l.filter fun p => decide (p.1 ≤ n)
  | none => l

/-- The key under which a weaver keeps the queue of a class that it served last (R290). -/
def servedKey (core : Nat) (expr : Bool) : Nat := 2 * core + if expr then 1 else 0

/-- The queue that deficit round-robin gives a core's weaver: express first, then in rotation, with work and a deficit
above 0 (R290); a queue of QUANTUM 0 is not served (R282). -/
def State.pick (s : State) (core part : Nat) : Option Nat :=
  let all := s.queuesOf part
  [true, false].findSome? fun x =>
    ((rotateAfter (mFind s.lastServed (servedKey core x)) (all.filter fun p => dExpr p.2 == x)).find? fun p =>
      decide (0 < dQuantum p.2) && decide (0 < dDeficit p.2) && s.qWork p.1 p.2).map Prod.fst

/-- When no queue qualifies, queues with pending work gain QUANTUM, and the others are set to 0 (R290). -/
def State.replenish (s : State) (part : Nat) : State :=
  (s.queuesOf part).foldl (fun s p =>
    let n : Int := if s.qPending p.1 p.2 then min (dDeficit p.2 + dQuantum p.2) (2 * dQuantum p.2) else 0
    if n = dDeficit p.2 then s else s.putDesc p.1 16 (n % 2 ^ 32).toNat) s

/-- The queue that a core's weaver serves next, with the round it takes to find it. -/
def State.arbitrate (s : State) (core : Nat) : Option Nat × State :=
  match s.partOf core with
  | none => (none, s)
  | some p =>
    match s.pick core p with
    | some q => (some q, s)
    | none => ((s.replenish p).pick core p, s.replenish p)

/-- The weaver has taken work from a queue: its rotation starts after it (R290). -/
def State.served (s : State) (core q : Nat) : State :=
  { s with lastServed := mPut s.lastServed (servedKey core (dExpr (s.desc q))) q }

/-- Where a queue's descriptor, and the record at its HEAD, lie. -/
def State.queueLocs (s : State) (q : Nat) : List Nat :=
  let d := s.desc q
  locHbm (s.descAt q) :: ((s.recLoc (dCtx d) (dSlot d (dHead d)) .r).toList)

/-- A weaver with a free context slot takes work from queue `q` when arbitration gives it that queue, no record of its resume
list comes first (R293), and the homes of what it reads and writes answer (R246, R380). -/
def State.serve (s : State) (core q : Nat) (f : State → Host.Outcome State Fault Refusal) :
    Host.Outcome State Fault Refusal :=
  if !s.weaverUp core || (s.freeSlots core).isEmpty || s.ctxStopped.contains (dCtx (s.desc q)) ||
      !(s.queueOf q).resumeList.isEmpty then .next s
  else if (s.queueLocs q).any fun l => !s.weaverReady core l (s.weaverStamp core) then .next (s.stirHomes (s.queueLocs q))
  else
    let (x, s1) := s.arbitrate core
    if x = some q then f s1 else .next s1

/-! ### Refusal and start -/

/-- LAUNCH_REFUSE (R277): SEQ, RSN and STATE are written, HEAD and LOW pass the record, and kind 0x08 is
posted. Of several reasons any one may be given (log 6). -/
def execLaunchRefuse (core q : Nat) (s : State) : Host.Outcome State Fault Refusal :=
  s.serve core q fun s =>
    let d := s.desc q
    match s.headRec d with
    | none => .next s
    | some (l, r) =>
      let rs := s.reasons core q d r
      match rs with
      | [] => .next s
      | a :: _ =>
        let rsn := rs.getD (if rs.length = 1 then 0 else Config.freeChoice s.free rs.length % rs.length) a
        let seq := dHead d
        let s := (({ s with free := s.free + 1 }.putSeq l seq).putRsn l rsn).putState l 6
        let (st, s) := s.weaverRel core (dCtx d) l [] false
        let s := ((s.passHead q seq).advanceLow q core st).served core q
        .next (if 287 < rCcore r then s
               else s.weaverPost core (rCcore r) (evData (dSlot d seq) seq 0x08 (dCtx d)) (dCtx d) 0 st)

/-- LAUNCH_START (R280, R283, R284, R292): SEQ, TICKET and STATE are written, the layout list is loaded, and a
total of 0 retires at once. -/
def execLaunchStart (core q : Nat) (s : State) : Host.Outcome State Fault Refusal :=
  s.serve core q fun s =>
    let d := s.desc q
    match s.headRec d with
    | none => .next s
    | some (l, r) =>
      if rState r ≠ 0 ∨ !startable d r ∨ !(s.reasons core q d r).isEmpty ∨ s.ckpt.isSome then .next s
      else match s.gridsAtStart r, s.loaded core r with
        | some gs, some s1 =>
          let g := gs.take (field r 40 39 + 1)
          let seq := dHead d
          let s2 := ((s1.putSeq l seq).putTicket l (rNext r)).putState l 1
          let gev := if r.getLsbD 13 then s.stampAt (locHbm (s.descAt q + 28)) core else []
          let (st, s3) := s2.weaverRel core (rCtx r) l (stampJoin (stampJoin (s.weaverStamp core) (s.stampAt l core)) gev) false
          let x : LaunchSt :=
            { queue := q, seq := seq, recVa := dSlot d seq, total := launchTotal (rSym r) g, grid := g, sym := rSym r
              grids := gs, started := s.rewrites
              coop := r.getLsbD 16, stamp := st, drainAt := 0 }
          let s4 := { s3 with launches := s3.launches ++ [x] }.served core q
          .next (if x.total = 0 then s4.retireLaunch x l core st else s4)
        | _, _ => .next s

/-! ### Claims (R283) -/

/-- A CLAIM of `b` ranks at the record's home slice: the first rank and how many were granted. Fewer than
`b` while Running moves HEAD past the record; a cooperative launch grants none. -/
def State.claim (s : State) (l : LaunchSt) (loc b : Nat) : Option Nat × Nat × State :=
  let r := s.recAt loc
  if l.coop || rState r != 1 then (none, 0, s)
  else
    let t := rTicket r
    let n := min b (l.total - t)
    let s := if n = 0 then s else s.putTicket loc (t + n)
    (if n = 0 then none else some t, n, if n < b then s.passHead l.queue l.seq else s)

/-- A record whose saved workgroups are restored and whose ranks are all claimed leaves the resume list (R293). -/
def State.tidyResume (s : State) (q : Nat) : State :=
  let x := s.queueOf q
  let stays (n : Nat) : Bool :=
    match s.launch? q n with
    | some l =>
      s.savedOf q n || (match s.launchLoc l with | some a => decide (rTicket (s.recAt a) < l.total) | none => true)
    | none => false
  s.putQueue q { x with resumeList := x.resumeList.filter stays }

/-- The core's weaver claims from the queue that arbitration gives it. -/
def State.claimNext (s : State) (core : Nat) : State :=
  let (x, s) := s.arbitrate core
  match x with
  | none => s
  | some q =>
    match s.claimable q (s.desc q) with
    | none => s
    | some l =>
      match s.launchLoc l with
      | none => s
      | some loc =>
        let r := s.recAt loc
        if !s.fits (launchFamily l.queue l.seq) core (rNeed r) then s
        else
          let (first, n, s) := s.claim l loc (rBatch r)
          let s := match first with
            | some t => { s with claims := mPut s.claims core ⟨q, l.seq, t, t + n⟩ }.served core q
            | none => s
          s.tidyResume q

/-- WORKGROUP_CREATE (R278, R283): a weaver builds the next rank it was granted once its core can hold the
workgroup; with none left it makes its next claim, after the retirements it still owes (R285). -/
def execWorkgroupCreate (core : Nat) (s : State) : Host.Outcome State Fault Refusal :=
  if !s.weaverUp core then .next s
  else match mFind s.claims core with
    | some c =>
      match s.launch? c.queue c.seq with
      | none => .next { s with claims := mDel s.claims core }
      | some l =>
        match s.launchLoc l with
        | none => .next s
        | some loc =>
          let r := s.recAt loc
          if !(rState r == 1 || rState r == 2) || !s.ctxValid (rCtx r) ||
              !s.fits (launchFamily c.queue c.seq) core (rNeed r) then .next s
          else
            let s1 := s.buildRank l r core c.next
            .next { s1 with claims := if c.next + 1 < c.last then mPut s1.claims core { c with next := c.next + 1 }
                                      else mDel s1.claims core }
    | none => if !(mGet [] s.retired core).isEmpty then .next s else .next (s.claimNext core)

/-- Place ranks `t` on, one after another, each on the first core of a list that can hold it; none when one does not fit. -/
def State.placeAll (s : State) (l : LaunchSt) (r : BitVec 2048) (cores : List Nat) : Nat → Nat → Option State
  | _, 0 => some s
  | t, n + 1 =>
    match cores.find? fun c => s.fits (launchFamily l.queue l.seq) c (rNeed r) with
    | none => none
    | some c => (s.buildRank l r c t).placeAll l r cores (t + 1) n

/-- The cooperative launch that a queue would place next is Running with ranks still to be granted (R283, R378). -/
def State.coopWaits (s : State) (q : Nat) (d : BitVec 512) : Bool :=
  let seq := match (s.queueOf q).resumeList with | n :: _ => n | [] => dHead d
  !(s.queueOf q).closed && s.ctxValid (dCtx d) &&
    (match s.launch? q seq with
     | some l => l.coop && s.launchState l == 1 &&
        (match s.launchLoc l with | some a => decide (rTicket (s.recAt a) < l.total) | none => false)
     | none => false)

/-- COOP_LAUNCH_PLACE (R283, R291): when every workgroup can be made resident at once, every remaining rank is
granted and placed, and HEAD advances; the dies of the partition wake first (R380). -/
def execCoopLaunchPlace (core q : Nat) (s : State) : Host.Outcome State Fault Refusal :=
  let d := s.desc q
  let x := s.queueOf q
  let seq := match x.resumeList with | n :: _ => n | [] => dHead d
  if !s.weaverUp core || !s.inPart (dPart d) core || x.closed || dQuantum d == 0 then .next s
  else if (s.partCores (dPart d)).any fun c => !s.awake (dieOf c) then
    .next ((s.partCores (dPart d)).foldl (fun s c => s.stir (dieOf c)) s)
  else match s.launch? q seq with
    | none => .next s
    | some l =>
      match s.launchLoc l with
      | none => .next s
      | some loc =>
        let r := s.recAt loc
        if !l.coop || rState r != 1 || decide (l.total ≤ rTicket r) || !s.ctxValid (rCtx r) || s.savedOf q seq then .next s
        else match s.placeAll l r (s.partCores (dPart d)) (rTicket r) (l.total - rTicket r) with
          | none => .next s
          | some s1 => .next (((s1.putTicket loc l.total).passHead q seq).tidyResume q)

/-! ### Retirement (R286) -/

/-- A rank of a launch is granted and not built, or its workgroup has not retired. -/
def State.claimedOf (s : State) (l : LaunchSt) : Bool :=
  (s.claims.any fun c => c.2.queue == l.queue && c.2.seq == l.seq) ||
    s.wgs.any fun g => match g.origin with | .launch q n _ => q == l.queue && n == l.seq | _ => false

/-- Every claimed workgroup of a draining launch has retired: it is Preempted (R292). -/
def State.drained (s : State) (l : LaunchSt) (loc : Nat) : State :=
  let r := s.recAt loc
  if rState r = 2 ∧ !s.claimedOf l then ((s.putNext loc (rTicket r)).putState loc 3).settled l.queue l.seq else s

/-- WORKGROUP_RETIRE (R286, R290): the weaver adds 1 to DONE for the first ended workgroup of its retirement
list and charges its queue; the add that completes DONE retires the launch. -/
def execWorkgroupRetire (core : Nat) (s : State) : Host.Outcome State Fault Refusal :=
  match (mGet [] s.retired core).head? with
  | none => .next s
  | some n =>
    match s.wg? n with
    | none => .next s
    | some g =>
      match g.origin with
      | .launch q seq _ =>
        match s.launch? q seq with
        | none => .next (s.unlist core n)
        | some l =>
          match s.launchLoc l, s.weaverUp core, s.popReport core n with
          | some loc, true, some (s1, ev) =>
            if !s.weaverReady core loc (stampJoin g.stamp ev) then .next (s.stirHomes [loc])
            else
            let s2 := s1.unlist core n
            let done := rDone (s2.recAt loc) + 1
            let st := stampJoin (stampJoin g.stamp ev) (s2.stampAt (loc + 60) core)
            let s3 := s2.putDone loc done
            let (st', s4) := s3.weaverRel core g.ctx (loc + 60) st true
            let debt := (dDeficit (s4.desc q) - ((g.charge + 63) / 64 : Nat)) % 2 ^ 32
            let s5 := s4.putDesc q 16 debt.toNat
            .next (if done = l.total then s5.retireLaunch l loc core st' else s5.drained l loc)
          | _, _, _ => .next s
      | _ => .next s

/-! ### Submission (R281) -/

/-- A write to the submission window is dropped and counted: in minimal mode whatever the queue (R281, R375, log 60). -/
def State.dropSubmission (s : State) (q : Nat) (d : BitVec 512) : State :=
  if dValid d || (s.boot == .minimal && decide (s.descAt q + 64 ≤ Config.hbmBytes)) then s.putDesc q 36 ((field d 319 288 + 1) % 2 ^ 32) else s

/-- SUBMISSION_WRITE (R281, R375, R382): a write of 256 aligned bytes appends a record and tells the partition's
lowest core; any other, or one that finds the ring full or minimal mode, is dropped. -/
def execSubmissionWrite (off n : Nat) (data : BitVec 2048) (s : State) : Host.Outcome State Fault Refusal :=
  let q := off / 4096
  let d := s.desc q
  if 256 ≤ q ∨ s.boot = .off then .next s
  else if n ≠ 256 ∨ off % 256 ≠ 0 ∨ !dValid d ∨ dSize d ≤ (dTail d + 2 ^ 32 - dLow d) % 2 ^ 32 ∨ s.boot = .minimal then
    .next (s.dropSubmission q d)
  else match s.recLoc (dCtx d) (dSlot d (dTail d)) .w with
    | none => .next (s.dropSubmission q d)
    | some l =>
      let i := dTail d
      let s := ((s.rouse l).writeNat l 256 data.toNat).putDesc q 24 ((i + 1) % 2 ^ 32)
      let s := (s.partCores (dPart d)).foldl (fun s c => s.stir (dieOf c)) s
      .next (match (s.partCores (dPart d)).head? with
        | some c => s.postEv c (evData (dSlot d i) i 0x07 (dCtx d)) 4 []
        | none => s)

end Sys2Proof.Machine
end

