-- ==== Sys2Proof/Machine/Group.lean ====
section
/-!
DEFINITION. Sys2Proof/Machine/Group.lean: the end of a wale (R147, R279, R286) and the regrouping of a
workgroup's threads (R155, R271, R272).
-/
namespace Sys2Proof.Machine

/-! ### WALE_END (R147) -/

/-- Every flag of a wale is clear, and its queued and near accesses are performed. -/
def State.accessesDone (s : State) (w : Wale) : Bool :=
  w.flags.isEmpty && (s.openIds w.id fun _ => true).isEmpty && !(s.near.any fun o => o.wale == w.id)

/-- Its matrix queue is empty, and no copy but a forming one holds a slice of it (log 62). -/
def State.enginesDone (s : State) (w : Wale) : Bool :=
  w.mq.isEmpty && !(s.wgs.any fun g => g.copies.any fun c => c.st != .forming && c.slices.any fun x => x.wale == w.id)

/-- The conditions of R147 and R279 for the end of a wale. -/
def State.canEnd (s : State) (w : Wale) : Bool :=
  w.kind == .wale && w.life == .resident && w.live == 0 && !w.entry && s.accessesDone w && s.enginesDone w &&
    s.streamsDone w && s.waleRelReady w .dev

/-- The workgroup's record in the event of its end: launch or continuation. -/
def Origin.record : Origin → Nat
  | .launch _ _ a => a
  | .task a _ => a
  | .spawned => 0

/-- The last wale of a workgroup has ended: the core posts kind 0x02 and lists it for its weaver; a spawned
workgroup leaves nothing (R286, R382). -/
def State.groupEnd (s : State) (g : Workgroup) : State :=
  match g.origin with
  | .spawned => { s with wgs := s.wgs.filter fun x => x.id != g.id }
  | o =>
    let s := s.postEv g.core (evData o.record g.group 0x02 g.ctx) (dieOf g.core) g.stamp
    { s with retired := mSet [] s.retired g.core (mGet [] s.retired g.core ++ [g.id]) }

/-- A wale and its streams are gone. -/
def State.dropWale (s : State) (id : Nat) : State :=
  { s with wales := s.wales.filter fun x => x.id != id && !(x.parent == id && x.kind != .wale && x.kind != .weaver) }

/-- WALE_END (R147, R240, R286): the end is a `.dev` release of everything the wale did; its slot and
fast-file slots are free, and its workgroup ends with its last wale. -/
def execWaleEnd (id : Nat) (s : State) : Host.Outcome State Fault Refusal :=
  match s.wale? id with
  | none => .next s
  | some w =>
    if !s.canEnd w then .next s
    else
      let (i, s1) := s.waleRelease w .dev
      let s2 := (s1.dropWale id).onWg w.wg fun g =>
        { g with charge := g.charge + (s.clk - w.born), stamp := stampJoin g.stamp i.stamp }
      match s2.wg? w.wg with
      | none => .next s2
      | some g => .next (if s2.wales.any fun x => x.kind == .wale && x.wg == g.id then s2 else s2.groupEnd g)

/-! ### RGRP (R155) -/

/-- The wales of a workgroup that take part in a regrouping: those with live threads, by WINDEX. -/
def State.members (s : State) (wg : Nat) : List Wale :=
  let l := s.wales.filter fun w => w.kind == .wale && w.wg == wg && w.live != 0
  (List.range 64).flatMap fun n => l.filter fun w => w.windex == n

/-- The registers that RGRP moves: the key and the listed run. -/
def rgrpRegs (a b n : Nat) : List Nat := a :: (List.range n).map (b + ·)

/-- The operands that a wale waits with at its RGRP. -/
def Wale.atRgrp (w : Wale) : Option (Nat × Nat × Nat) := match w.latch with | some (.rgrp a b n) => some (a, b, n) | _ => none

/-- A cause traps every member at its RGRP (R155). -/
def State.trapAll (s : State) (l : List Wale) (c : Cause) : State :=
  l.foldl (fun s w => s.takeTrap ((s.wale? w.id).getD w) { cause := c, lanes := w.exm }) s

/-- The checks of the collective once every member has issued: tags first, then operands (R155). -/
def rgrpBad (l : List Wale) (a b n : Nat) (clk : Nat) : Option Cause :=
  let keyBad := l.any fun w => match w.atRgrp with | some (a, _, _) => w.tagAt a clk != .n32 | none => true
  let differ := ((List.range n).map (b + ·)).any fun r => !((l.map fun w => w.tagAt r clk).eraseDups.length ≤ 1)
  if keyBad || differ then some .fmtMismatch
  else if l.any fun w => w.atRgrp != some (a, b, n) then some .illegalField
  else none

/-- The checks of the collective by the operands of its lowest WINDEX (log 130). -/
def rgrpCheck (l : List Wale) (clk : Nat) : Option Cause :=
  (l.head?.bind Wale.atRgrp).bind fun p => rgrpBad l p.1 p.2.1 p.2.2 clk

/-- RGRP (R155, R271): the wale parks until the unit forms the new wales; with the last member the collective is checked. -/
def execRgrp (f : RgrpForm) (s : State) : Host.Outcome State Fault Refusal :=
  s.withCur fun w =>
    let regs := rgrpRegs f.a f.b f.n
    if w.kind != .wale then s.raise w .illegalField 0
    else if w.atRgrp.isSome then .next (s.hold w .parked false)
    else if !w.ownMasks.isEmpty || !w.streams.isEmpty then s.raise w .stackOvf 0
    else if !w.ownMelds.isEmpty then s.raise w .meldIllegal w.exm
    else if regs.any fun r => !w.inSet r then s.raise w .wsetMiss w.exm
    else match s.stallShort w (regs.map (Use.mk .v)) with
      | some d => s.raise w .stallShort w.exm d
      | none =>
        let s1 := s.hold { w with latch := some (.rgrp f.a f.b f.n) } .parked false
        let l := s1.members w.wg
        if l.any fun x => x.atRgrp.isNone then .next s1
        else match rgrpCheck l s.clk with
          | some c => .next (s1.trapAll l c)
          | none => .next s1

/-! ### RGRP_FORM (R155, R271, R272) -/

/-- An active thread of a member with its key, its member's index, and the thread. -/
structure Mover where
  key : Nat
  k : Nat
  t : Nat
  deriving DecidableEq, Repr

/-- Insert behind every mover whose key is not above. -/
def Mover.insert (x : Mover) : List Mover → List Mover
  | [] => [x]
  | y :: r => if x.key < y.key then x :: y :: r else y :: x.insert r

/-- Order by key; movers of one key keep their order, which is by WINDEX and thread (R155). -/
def sortMovers (l : List Mover) : List Mover := l.foldl (fun acc x => x.insert acc) []

/-- Fill new wales: another at each change of key and after 32 threads (R155). -/
def fillWales (l : List Mover) : List (List Mover) :=
  (l.foldl (fun (acc : List (List Mover)) x =>
    match acc with
    | (y :: g) :: r => if y.key = x.key ∧ g.length < 31 then (x :: y :: g) :: r else [x] :: acc
    | _ => [x] :: acc) []).reverse.map List.reverse

/-- The movers of the members, in order of WINDEX and thread. -/
def moversOf (l : List Wale) (a clk : Nat) : List Mover :=
  (l.zip (List.range l.length)).flatMap fun (w, k) =>
    (threads.filter fun t => w.exm.getLsbD t).map fun t => ⟨(w.vAt a t clk).toNat, k, t⟩

/-- A member has met the conditions of R155 and R271: its flags are clear, its store queue has drained, and its queue
operations are over. -/
def State.rgrpReady (s : State) (w : Wale) : Bool :=
  w.atRgrp.isSome && w.life == .resident && w.flags.isEmpty && (s.openIds w.id fun q => q.writes).isEmpty && w.mq.isEmpty &&
    !(s.wgs.any fun g => g.copies.any fun c => !c.rejected && c.slices.any fun x => x.wale == w.id) &&
    !(s.banks.any fun b => b.wale == some w.id)

/-- The new wale that a list of movers fills, in a slot (R155, R271). -/
def formWale (l : List Wale) (g : List Mover) (id slot windex clk : Nat) (regs : List Nat) (stamp : List Nat) (acq : Nat) :
    Option Wale :=
  match g with
  | [] => none
  | x :: _ =>
    (l[x.k]?).map fun w =>
      let m := firstThreads g.length
      let n := w.advance clk 1
      let v := regs.foldl (fun v r =>
        (g.zip (List.range g.length)).foldl (fun v p =>
          match l[p.1.k]? with
          | some y => mSet 0 v (r * 32 + p.2) (y.vAt r p.1.t clk)
          | none => v) v) []
      { newWale id .wale w.core slot w.wg windex w.ctx w.budget n.pc clk m with
        v := v, tags := regs.foldl (fun t r => mSet .raw t r (w.tagAt r clk)) [], s := w.scalars clk, seeds := w.seeds
        clause := n.clause, yielded := n.yielded, interval := w.interval, intervalAddr := w.intervalAddr
        staging := .waiting, stageReq := clk, encPos := n.encPos, issueNo := n.issueNo, stamp := stamp, acqClk := acq }

/-- What the regrouping unit does next for a workgroup (R155, R271). -/
inductive RgrpNext where
  | wait
  /-- a check of the collective, or of the number of new wales, fails -/
  | bad (c : Cause)
  /-- no source has an active thread -/
  | dissolve
  /-- the conditions hold: the new wales exist from this clk -/
  | ready (clk : Nat)
  /-- the sources become the new wales -/
  | form
  deriving DecidableEq, Repr

/-- The movers of a regrouping, by new wale. -/
def rgrpGroups (l : List Wale) (a clk : Nat) : List (List Mover) := fillWales (sortMovers (moversOf l a clk))

/-- The core has slots and registers for `m` wales in the place of the members (R271). -/
def State.rgrpRoom (s : State) (g : Workgroup) (l : List Wale) (m : Nat) : Bool :=
  decide (m ≤ l.length + (s.freeSlots g.core).length) && decide (m * g.budget ≤ s.freeMain g.core + l.length * g.budget)

/-- What happens next to a workgroup whose live wales all wait at an RGRP: the collective is checked once the last
has issued, the time runs from the clk at which the conditions hold, and the sources wait for room (R155, R271). -/
def State.rgrpNext (s : State) (g : Workgroup) : RgrpNext :=
  let l := s.members g.id
  match l.head?.bind Wale.atRgrp with
  | none => .wait
  | some (a, _, n) =>
    if l.any fun w => w.atRgrp.isNone then .wait
    else match rgrpCheck l s.clk with
      | some c => .bad c
      | none =>
        if l.any fun w => !s.rgrpReady w then .wait
        else
          let m := (rgrpGroups l a s.clk).length
          if m = 0 then .dissolve
          else if 16 < m then .bad .idxRange
          else match g.regroup with
            | none => .ready (s.clk + 16 + 4 * (n + 1) * l.length)
            | some t => if t ≤ s.clk && s.rgrpRoom g l m then .form else .wait

/-- The sources of a regrouping are dissolved and the new wales exist (R271, R272). -/
def State.regroup (s : State) (g : Workgroup) (l : List Wale) (a b n : Nat) : State :=
  let l := l.map Wale.settleAll
  let groups := rgrpGroups l a s.clk
  let m := groups.length
  let ids := l.map Wale.id
  let own := (List.range 64).filter fun k => l.any fun w => w.slot == k
  let slots := own ++ s.freeSlots g.core
  let stamp := l.foldl (fun st w => stampJoin st w.stamp) []
  let acq := l.foldl (fun k w => max k w.acqClk) 0
  let base := s.nextId
  let new := (groups.zip (List.range m)).filterMap fun p =>
    formWale l p.1 (base + p.2) (slots.getD p.2 0) p.2 s.clk (rgrpRegs a b n) stamp acq
  let heir (k : Nat) : Nat :=
    base + ((groups.zip (List.range m)).findSome? fun p => if p.1.any fun x => x.k == k then some p.2 else none).getD 0
  let srcs := l.zip (List.range l.length)
  let new := new.map fun w => { w with pend := (srcs.filter fun p => heir p.2 == w.id).flatMap fun p => p.1.pend }
  let g1 := { g with wcount := m, charge := l.foldl (fun c w => c + (s.clk - w.born)) g.charge, regroup := none }
  let s1 := { s.putWg g1 with
    nextId := base + m
    wales := (s.wales.filter fun w => !ids.contains w.id) ++ new }
  srcs.foldl (fun s p =>
    (s.locks.filter fun k => k.2.owner == p.1.id).foldl (fun s k =>
      { (s.lockWord k.1 (lockToken (heir p.2))) with locks := mPut s.locks k.1 { k.2 with owner := heir p.2 } }) s) s1

/-- The sources of a regrouping end as if every thread had exited (R155). -/
def State.dissolve (s : State) (l : List Wale) : State :=
  let ids := l.map Wale.id
  { s with wales := s.wales.map fun w =>
      if ids.contains w.id then { w with live := 0, exm := 0, latch := none, held := none } else w }

/-- RGRP_FORM (R155, R271, R272): the regrouping unit takes its next step for a workgroup. -/
def execRgrpForm (wg : Nat) (s : State) : Host.Outcome State Fault Refusal :=
  match s.wg? wg with
  | none => .next s
  | some g =>
    let l := s.members wg
    match s.rgrpNext g with
    | .wait => .next s
    | .bad c => .next ((s.putWg { g with regroup := none }).trapAll l c)
    | .dissolve => .next (s.dissolve l)
    | .ready t => .next (s.putWg { g with regroup := some t })
    | .form =>
      match l.head?.bind Wale.atRgrp with
      | some (a, b, n) => .next (s.regroup g l a b n)
      | none => .next s

end Sys2Proof.Machine
end

