-- ==== Sys2Proof/Machine/Preempt.lean ====
section
/-!
DEFINITION. Sys2Proof/Machine/Preempt.lean: pre-emption and resumption (R292, R293), hard stops (R262,
R294 to R296), migration (R297), partitions (R298), context records (R299), weaver restarts (R285) and the
split of the common store (R231).
-/
namespace Sys2Proof.Machine

/-! ### Ordering a hard stop (R262, R296) -/

/-- The time that a wale has waited does not count the clk from `t0` on, while it was stopped (R261, R296). -/
def Wale.awaited (w : Wale) (t0 clk : Nat) : Wale :=
  { w with held := w.held.map fun h => { h with since := h.since + (clk - t0) } }

/-- A wale or stream stops at the instruction boundary where it stands: an uncommitted instruction is squashed. One
that was being restored has stood still since `t0`. -/
def Wale.toStop (w : Wale) (t0 clk : Nat) : Wale :=
  let w := if w.life == .restoring then w.awaited t0 clk else w
  { w with life := .stopping, latch := match w.latch with | some (.walk _ _) | some (.pageWalk _) | some (.walked _) => none | l => l }

/-- HARD STOP of the workgroups that `p` picks: their wales and streams halt (R296). -/
def State.stopGroups (s : State) (p : Workgroup → Bool) : State :=
  let ids := (s.wgs.filter fun g => p g && !g.saved).map Workgroup.id
  let since (w : Wale) : Nat := match s.wg? w.wg with | some g => g.stopAt | none => 0
  { s with
    wgs := s.wgs.map fun g => if ids.contains g.id then { g with stopAt := s.clk, regroup := none } else g
    wales := s.wales.map fun w =>
      if ids.contains w.wg && w.kind != .weaver && (w.life == .resident || w.life == .restoring) then w.toStop (since w) s.clk else w }

/-- The workgroups that share a window, or the workgroup alone (R154). -/
def State.sharers (s : State) (g : Workgroup) : List Workgroup :=
  match g.window with
  | none => [g]
  | some _ => s.wgs.filter fun x => x.family == g.family && x.core == g.core && x.window == g.window

/-! ### PREEMPT and RESUME (R292, R293) -/

/-- The queues that a PREEMPT or RESUME word names; none of a word that is ignored. -/
def State.named (s : State) (v : W64) : List Nat :=
  match field v 63 62 with
  | 1 => [field v 7 0]
  | 2 => (List.range 256).filter fun q => dValid (s.desc q) && dCtx (s.desc q) == field v 6 0
  | _ => []

/-- A launch is suspended: NEXT takes TICKET, and its workgroups are hard-stopped (R292). -/
def State.suspend (s : State) (l : LaunchSt) (loc : Nat) : State :=
  let s := (s.putNext loc (rTicket (s.recAt loc))).putState loc 4
  (s.stopGroups fun g => g.family == launchFamily l.queue l.seq).settled l.queue l.seq

/-- One Running launch is pre-empted: it drains, or is hard-stopped whole when cooperative (R292). -/
def State.preemptOne (s : State) (l : LaunchSt) : State :=
  match s.launchLoc l with
  | none => s
  | some loc =>
    let s := { s with preempting := s.preempting ++ [(l.queue, l.seq)], predone := false }
    if l.coop then s.suspend l loc
    else
      let mark (x : LaunchSt) : LaunchSt := if x.queue == l.queue && x.seq == l.seq then { x with drainAt := s.clk } else x
      ({ s with launches := s.launches.map mark }.putState loc 2).drained l loc

/-- PREEMPT (R293): dispatch of the named queues stops, and their Running records drain. A word of SCOPE 00
or 11 is ignored. -/
def execPreempt (v : W64) (s : State) : Host.Outcome State Fault Refusal :=
  if field v 63 62 = 0 ∨ field v 63 62 = 3 then .next s
  else
    let qs := s.named v
    let s1 := qs.foldl (fun s q => s.putQueue q { s.queueOf q with closed := true }) s
    let running := s1.launches.filter fun l => qs.contains l.queue && s1.launchState l == 1
    .next (running.foldl State.preemptOne { s1 with preempting := [], predone := true })

/-- Insert a SEQ into a resume list in SEQ order (R293). -/
def insertSeq (n : Nat) : List Nat → List Nat
  | [] => [n]
  | m :: r => if n < m then n :: m :: r else if n = m then m :: r else m :: insertSeq n r

/-- One launch resumes: TICKET takes NEXT, and it joins its queue's resume list (R292, R293). -/
def State.resumeOne (s : State) (l : LaunchSt) : State :=
  match s.launchLoc l with
  | none => s
  | some loc =>
    let st := rState (s.recAt loc)
    if st = 3 ∨ st = 4 then
      let s := (s.putTicket loc (rNext (s.recAt loc))).putState loc 1
      let x := s.queueOf l.queue
      s.putQueue l.queue { x with resumeList := insertSeq l.seq x.resumeList }
    else s

/-- HEAD passes the records at it that retired while it could not move (R293). -/
def State.passDone (s : State) (q : Nat) : Nat → State
  | 0 => s
  | n + 1 =>
    match s.headRec (s.desc q) with
    | some (_, r) => if rState r = 5 then (s.passHead q (dHead (s.desc q))).passDone q n else s
    | none => s

/-- RESUME (R293): dispatch reopens, and the Preempted and Suspended records of the named queues resume. -/
def execResume (v : W64) (s : State) : Host.Outcome State Fault Refusal :=
  let qs := s.named v
  let s1 := qs.foldl (fun s q =>
    (s.putQueue q { s.queueOf q with closed := false }).passDone q (dSize (s.desc q))) s
  let s2 := (s1.launches.filter fun l => qs.contains l.queue).foldl State.resumeOne s1
  .next (qs.foldl State.tidyResume s2)

/-- The clk of one µs. -/
def clkPerUs : Nat := 600

/-- WORKGROUP_DRAIN_LIMIT (R292, R294): a launch of the queue that has drained for its context's limit is suspended. -/
def execWorkgroupDrainLimit (q : Nat) (s : State) : Host.Outcome State Fault Refusal :=
  let rec' := s.ctxRec (dCtx (s.desc q))
  let us := if field rec' 15 0 = 0 then 200 else field rec' 15 0
  let late := s.launches.filter fun l => l.queue == q && s.launchState l == 2 && decide (l.drainAt + us * clkPerUs ≤ s.clk)
  .next (late.foldl (fun s l => match s.launchLoc l with | some loc => s.suspend l loc | none => s) s)

/-! ### Saving (R295, R296) -/

/-- The source and destination of a copy share a byte or a tile word (R294). -/
def State.copyOverlaps (s : State) (g : Workgroup) (c : Copy) : Bool :=
  let ps := s.copyPairs g c
  let span (e : CopyEnd) : Option (Nat × Nat) :=
    match e with
    | .at' (.ok l) n => some (l, if n = 0 ∨ n = 9 then 1 else n)
    | .tile k => some (2 ^ 70 + k, if s.copyWide g c then 2 else 1)
    | _ => none
  let ds := ps.filterMap fun p => span p.1
  let ss := ps.filterMap fun p => span p.2
  ds.any fun d => ss.any fun x => rangesMeet d.1 d.2 x.1 x.2

/-- COPY_DRAIN_LIMIT (R262, R294): when the copy limit of a hard stop expires, a running copy whose ends are
disjoint is squashed, to be replayed whole. -/
def execCopyDrainLimit (wg cq : Nat) (s : State) : Host.Outcome State Fault Refusal :=
  match s.wg? wg with
  | none => .next s
  | some g =>
    match g.runningCopy cq with
    | none => .next s
    | some c =>
      let us := if field (s.ctxRec g.ctx) 31 16 = 0 then 50 else field (s.ctxRec g.ctx) 31 16
      if !s.groupStops wg || decide (s.clk < g.stopAt + us * clkPerUs) || s.copyOverlaps g c then .next s
      else .next (s.putWg (g.putCopy { c with st := .ready, moves := [] }))

/-- What a stopping wale still waits for is done (R296, R313). -/
def State.canSave (s : State) (w : Wale) : Bool :=
  w.kind == .wale && w.life == .stopping && !w.entry && (s.openIds w.id fun _ => true).isEmpty &&
    !(s.near.any fun o => o.wale == w.id) && !(s.arrays.any fun p => p.2.wale == w.id) &&
    !(s.wgs.any fun g => g.id == w.wg && g.copies.any fun c => c.st == .running) &&
    !(s.images.any fun i => i.wg == w.wg) && !s.flushHeld (clusterOf w.core)

/-- The bytes of a workgroup's window. -/
def State.windowBytes (s : State) (g : Workgroup) : List Byte :=
  match g.window with
  | some w => s.bytesAt (locSpad g.core w.off) w.size
  | none => []

/-- HARD_STOP_SAVE (R295, R296): the state of a drained wale is saved and its slots are free; its writes have
reached their home slices (R240). Its workgroup is saved with its last wale. -/
def execHardStopSave (id : Nat) (s : State) : Host.Outcome State Fault Refusal :=
  match s.wale? id with
  | none => .next s
  | some w =>
    if !s.canSave w then .next s
    else
      let s1 := (s.flushCluster (clusterOf w.core)).supersedeAll w (w.settleClk s.clk)
      let s2 := { s1 with reqs := s1.reqs.filter fun q => q.wale != id }
      let mq := match s1.wale? id with | some x => x.mq | none => w.mq
      let w1 := { w.settleAll with
        mq := mq, life := .saved, staging := .none, readySince := none, aged := none
        area := if w.trap.isSome then s.bytesAt (saveArea w.core w.slot) 1152 else [] }
      let s3 := s2.putWale w1
      let halt (x : Wale) : Wale :=
        if x.parent == id && x.life == .stopping && x.kind != .wale then { x with life := .saved } else x
      let s4 := { s3 with wales := s3.wales.map halt }
      let s5 := s4.onWg w.wg fun g => { g with charge := g.charge + (s.clk - w.born) }
      match s5.wg? w.wg with
      | none => .next s5
      | some g =>
        if s5.wales.any fun x => x.wg == g.id && x.kind == .wale && x.life != .saved then .next s5
        else .next (s5.putWg { g with saved := true, footprint := s5.windowBytes g })

/-! ### Restoring (R295 to R297) -/

/-- Parked waits on barrier words of a window that has moved follow it (R183, R297). -/
def moveBarw (a b n : Nat) (w : Wale) : Wale :=
  match w.latch with
  | some (.barw l p k) => if a ≤ l ∧ l < a + n then { w with latch := some (.barw (l - a + b) p k) } else w
  | _ => w

/-- The saved window is written to its new place. -/
def State.restoreWindow (s : State) (g : Workgroup) (core : Nat) (win : Option Window) : State :=
  match win, g.window with
  | some w, some old =>
    let s := (s.openWindow core w).writeLoc (locSpad core w.off) g.footprint
    { s with wales := s.wales.map (moveBarw (locSpad g.core old.off) (locSpad core w.off) w.size) }
  | _, _ => s

/-- A saved wale takes a slot of a core: its interval is staged again, and it waits for the die's clock (R295, R296). -/
def State.restoreWale (s : State) (w : Wale) (core slot : Nat) : State :=
  let st := match w.interval with | some _ => Staging.waiting | none => .none
  let s := if w.trap.isSome then s.writeLoc (saveArea core slot) w.area else s
  let s := s.putWale { w with
    core := core, slot := slot, life := .restoring, staging := st, stageReq := s.clk, nextIssue := s.clk, born := s.clk
    acqClk := s.clk, area := [] }
  let follow (x : Wale) : Wale :=
    if x.parent == w.id && x.life == .saved && x.kind != .wale then { x with core := core, slot := slot, life := .restoring } else x
  { s with wales := s.wales.map follow }

/-- A saved workgroup is placed on a core: window, slots, tiles and barriers come back with it. -/
def State.restoreGroup (s : State) (g : Workgroup) (core : Nat) (win : Option Window) : State :=
  let s := match g.moveTo with
    | some _ => { s with forwards := s.forwards ++ [(⟨g.core, g.id, g.window.map Window.slot, core, s.clk + 4096⟩ : Forward)] }
    | none => s
  let ws := s.wales.filter fun w => w.wg == g.id && w.kind == .wale
  let slots := s.freeSlots core
  let s := (ws.zip slots).foldl (fun s p => s.restoreWale ((s.wale? p.1.id).getD p.1) core p.2) s
  s.putWg { g with core := core, window := win, saved := false, footprint := [], moveTo := none }

/-- What a set of workgroups that share a window needs. -/
def State.setNeed (s : State) (gs : List Workgroup) : Need :=
  let ws := s.wales.filter fun w => gs.any fun g => g.id == w.wg
  { wales := (ws.filter fun w => w.kind == .wale).length
    budget := (gs.map Workgroup.budget).foldl max 32
    window := match gs with | g :: _ => (match g.window with | some w => w.size | none => 0) | [] => 0
    bars := gs.foldl (fun n g => n + g.bars) 0, tiles := gs.foldl (fun n g => n + g.tiles) 0
    streamM := ws.any fun w => w.kind == .streamM, streamC := ws.any fun w => w.kind == .streamC }

/-- A set that shares a window is restored on a core, when the core can hold it whole. -/
def State.restoreSet (s : State) (gs : List Workgroup) (core : Nat) : Option State :=
  match gs with
  | [] => some s
  | g :: _ =>
    let n := s.setNeed gs
    if !s.fits g.family core n then none
    else
      let win := if n.window = 0 then none else s.placeWindow g.family core n.window
      let s := s.restoreWindow g core win
      some (gs.foldl (fun s g => s.restoreGroup g core win) s)

/-- The queue and SEQ of a workgroup's launch, if it belongs to one that has not retired. -/
def State.launchOfGroup (s : State) (g : Workgroup) : Option LaunchSt :=
  s.launches.find? fun l => launchFamily l.queue l.seq == g.family

/-- Whether a weaver may restore a workgroup on a core now (R292, R293, R297, R298). -/
def State.mayRestore (s : State) (g : Workgroup) (core : Nat) : Bool :=
  s.weaverUp core && s.ctxValid g.ctx && (match g.moveTo with | some c => c == core | none => true) &&
    match s.launchOfGroup g with
    | some l =>
      let x := s.queueOf l.queue
      let st := s.launchState l
      s.inPart (dPart (s.desc l.queue)) core && (st == 1 || st == 2 || (l.coop && st == 4 && !x.closed)) &&
        (!x.resumeList.contains l.seq || x.resumeList.head? == some l.seq)
    | none => (s.partOf core).isSome && (g.part.isNone || s.partOf core == g.part)

/-- A partition write's migration is over when no workgroup that runs or may run stands outside its partition (R298). -/
def State.settlePart (s : State) : State :=
  let out (g : Workgroup) : Bool :=
    match s.launchOfGroup g with
    | some l => !s.inPart (dPart (s.desc l.queue)) g.core && (s.holds g || (g.saved && decide (s.launchState l ≤ 2)))
    | none => (match g.part with | some p => !s.inPart p g.core | none => false) && (s.holds g || g.saved)
  if s.reg 0x3C00 == 1 && !(s.wgs.any out) then s.setReg 0x3C00 0 else s

/-- The saved workgroups of a cooperative launch, placed one set after another. -/
def State.restoreAll (s : State) (cores : List Nat) : List Workgroup → Option State
  | [] => some s
  | g :: r =>
    match cores.findSome? fun c => s.restoreSet [g] c with
    | some t => t.restoreAll cores r
    | none => none

/-- WALE_RESTORE (R295, R296): a weaver places a saved workgroup on its core, whole; a cooperative launch is
restored whole over its partition's cores. -/
def execWaleRestore (core wg : Nat) (s : State) : Host.Outcome State Fault Refusal :=
  match s.wg? wg with
  | none => .next s
  | some g =>
    if !g.saved || !s.mayRestore g core then .next s
    else if g.coop then
      match s.launchOfGroup g with
      | none => .next s
      | some l =>
        let gs := s.wgs.filter fun x => x.family == g.family
        let idle := gs.filter Workgroup.saved
        if gs.any fun x => !x.saved && s.wales.any fun w => w.wg == x.id && w.life == .stopping then .next s
        else match s.restoreAll (s.partCores (dPart (s.desc l.queue))) idle, s.launchLoc l with
          | some t, some loc => .next (((t.putState loc 1).tidyResume l.queue).settlePart)
          | _, _ => .next s
    else
      let gs := s.sharers g
      if gs.any fun x => !x.saved then .next s
      else match s.restoreSet gs core with
        | none => .next s
        | some t =>
          let t := match s.launchOfGroup g with | some l => t.tidyResume l.queue | none => t
          .next t.settlePart

/-- A stopped wale or stream is resident again: its age counts from this clk (R18, R296), and the time it stood still
does not count to its wait (R261). -/
def Wale.revive (w : Wale) (t0 clk : Nat) : Wale :=
  let w := w.awaited t0 clk
  { w with life := .resident, born := clk, nextIssue := max w.nextIssue clk }

/-- The clause header at the recorded position is read again, as TRET reads it (R258): it may have changed under R78. -/
def State.rereadClause (s : State) (w : Wale) : State :=
  match w.clause with
  | none => s
  | some p =>
    match s.codeWord w p.addr 3 with
    | .ok x =>
      (match decodeWord x none with
       | .ok (.clauseHeader h) => s.putWale { w with clause := if p.slot > h.len then none else some { p with hdr := h } }
       | _ => s.takeTrap { w with insn0 := 0, insn1 := 0, insnPc := w.pc } { cause := .illegalHdr, lanes := w.exm })
    | .error (some c) => s.takeTrap { w with insn0 := 0, insn1 := 0, insnPc := w.pc } { cause := c, lanes := w.exm }
    | .error none => { s with absentHit := true }

/-- The program of a wale that was restored, or of one of its streams. -/
def Wale.restoredBy (x : Wale) (id : Nat) : Bool := x.id == id || (x.parent == id && x.life == .restoring && x.kind != .wale)

/-- A wale and its streams, stopped at `t0`, are resident; reading their code takes free choices (R78). -/
def State.revived (s : State) (id t0 : Nat) : State :=
  { s with wales := s.wales.map fun x => if x.restoredBy id then x.revive t0 s.clk else x, free := s.free + 4 }

/-- WALE_RESTORE_READY (R258, R295, R296): the wale is resident once the applied clock of its die has reached its stamp. -/
def execWaleRestoreReady (id : Nat) (s : State) : Host.Outcome State Fault Refusal :=
  match s.wale? id with
  | none => .next s
  | some w =>
    if w.life != .restoring || w.kind != .wale || !stampLe w.stamp (s.applied (dieOf w.core)) then .next s
    else
      let t0 := match s.wg? w.wg with | some g => g.stopAt | none => s.clk
      let back := s.wales.filter fun x => x.restoredBy id
      fin ((back.map fun x => x.revive t0 s.clk).foldl State.rereadClause (s.revived id t0))

/-- WORKGROUP_MIGRATE (R297): a hard stop of one workgroup, and of those that share its window, which is then
restored on the core named. -/
def execWorkgroupMigrate (wg core : Nat) (s : State) : Host.Outcome State Fault Refusal :=
  match s.wg? wg with
  | none => .next s
  | some g =>
    let gs := s.sharers g
    let ids := gs.map Workgroup.id
    let still := s.wales.all fun w => !ids.contains w.wg || w.kind != .wale || w.life == .resident
    if g.coop || core == g.core || !s.holds g || !still || !s.mayRestore { g with moveTo := none } core ||
        !s.fits g.family core (s.setNeed gs) then .next s
    else
      let s1 := s.stopGroups fun x => ids.contains x.id
      let send (x : Workgroup) : Workgroup := if ids.contains x.id then { x with moveTo := some core } else x
      .next { s1 with wgs := s1.wgs.map send }

/-- FORWARDING_EXPIRE (R297): an entry lapses 4,096 clk after the move. -/
def execForwardingExpire (i : Nat) (s : State) : Host.Outcome State Fault Refusal :=
  match s.forwards[i]? with
  | some f => if f.expires ≤ s.clk then .next { s with forwards := s.forwards.eraseIdx i } else .next s
  | none => .next s

/-! ### Partitions (R298) -/

/-- The work on cores that leave is hard-stopped; a cooperative launch stops whole and waits Suspended (R297, R298). -/
def State.leaveCores (s : State) (gone : Nat → Bool) : State :=
  let coops := s.launches.filter fun l => l.coop && s.launchState l == 1 &&
    (s.wgs.any fun g => g.family == launchFamily l.queue l.seq && gone g.core && s.holds g)
  let s1 := coops.foldl (fun s l => match s.launchLoc l with | some loc => s.putState loc 4 | none => s) s
  s1.stopGroups fun g => gone g.core || coops.any fun l => launchFamily l.queue l.seq == g.family

/-- The ids of a PART word that name cores marked absent (R298, R360). -/
def State.absentWord (s : State) (w : Nat) : W64 :=
  (List.range 64).foldl (fun n b => if s.absent.contains (64 * w + b) then n ||| BitVec.ofNat 64 (2 ^ b) else n) 0

/-- PART (R298): a write while a migration runs is ignored, one that would put a core in two partitions is
refused with PARTST 2, and cores that leave are cleared of their work. -/
def execPartWrite (p w : Nat) (v : W64) (s : State) : Host.Outcome State Fault Refusal :=
  let off := 0x3800 + 64 * p + 8 * w
  let v := if w = 4 then v &&& 0xFFFFFFFF else v
  if 16 ≤ p ∨ 5 ≤ w ∨ s.reg 0x3C00 = 1 then .next s
  else if (List.range 16).any fun k => k != p && s.reg (0x3800 + 64 * k + 8 * w) &&& v &&& ~~~(s.absentWord w) != 0 then .next (s.setReg 0x3C00 2)
  else
    let old := s.reg off
    let gone (c : Nat) : Bool := decide (c / 64 = w) && old.getLsbD (c % 64) && !v.getLsbD (c % 64)
    let s1 := ((s.setReg off v).setReg 0x3C00 1).leaveCores gone
    .next s1.settlePart

/-! ### CSSPLIT (R230, R231) -/

/-- A context has a resident wale or running engine work on a die. -/
def State.dieBusy (s : State) (d : Nat) : Bool :=
  (s.wales.any fun w => w.kind == .wale && w.life != .saved && dieOf w.core == d) ||
  (s.wgs.any fun g => dieOf g.core == d && g.copies.any fun c => c.st == .running) ||
  (s.banks.any fun b => b.die == d) || (s.images.any fun i => i.lane == d) ||
  (s.reqs.any fun q => q.die == d) || (s.arrays.any fun p => dieOf p.1 == d)

/-- CSSPLIT (R231): 13 to 15 and a busy die leave the register as it was; frames that the split removes lose their contents. -/
def execCssplit (d : Nat) (v : W64) (s : State) : Host.Outcome State Fault Refusal :=
  let n := field v 3 0
  if 4 ≤ d ∨ 12 < n ∨ s.dieBusy d then .next s
  else
    let s1 := if s.flushAllHeld then s else s.flushAll
    let old := s1.expl d
    let lo := locCommon (d * 2 ^ 27 + n * Config.splitStep)
    let hi := locCommon (d * 2 ^ 27 + old * Config.splitStep)
    let s2 := s1.setReg (0x3C80 + 8 * d) (BitVec.ofNat 64 n)
    .next (if old ≤ n then s2
      else { s2 with
        mem := mDelRange s2.mem lo hi
        pageEpoch := (List.range ((hi - lo) / 4096)).foldl (fun m i =>
          mSet 0 m (lo / 4096 + i) (mGet 0 m (lo / 4096 + i) + 1)) s2.pageEpoch })

/-! ### WVRESET (R285) -/

/-- WVRESET: the weaver starts again at the firmware entry, with zero scalars and no trap state; its event queue, claim register,
retirement list and wales are kept. A malformed write is ignored. -/
def execWvreset (v : W64) (s : State) : Host.Outcome State Fault Refusal :=
  let c := field v 8 0
  if !v.getLsbD 63 || field v 62 9 != 0 || decide (287 < c) then .next s
  else .next <| { s with
    weaverStopped := s.weaverStopped.filter (· != c)
    wvPend := mDel s.wvPend c }.startWeaver c

/-! ### CTXREC (R299) -/

/-- A CONTEXT ENDS (R180, R221, log 64): its wales, workgroups and engine work are gone, its locks are free, and its layout
table and scale rings read as zero. -/
def State.endCtx (s : State) (c : Nat) : State :=
  let s := s.quiet c
  let ids := (s.wales.filter fun w => w.ctx == c && w.kind == .wale).map Wale.id
  let mine := s.locks.filter fun p => p.2.ctx == c
  let s := mine.foldl (fun s p => { (s.lockWord p.1 0) with locks := mDel s.locks p.1 }) s
  { s with
    locks := s.locks.map fun p => (p.1, { p.2 with fifo := p.2.fifo.filter fun i => !ids.contains i })
    layPend := s.layPend.filter fun p => p.ctx != c
    wales := s.wales.filter fun w => w.kind == .weaver || w.ctx != c
    wgs := s.wgs.filter fun g => g.ctx != c
    ctxStopped := s.ctxStopped.filter (· != c)
    layouts := mDelRange s.layouts (1024 * c) (1024 * c + 1024)
    rings := mDelRange s.rings (64 * c) (64 * c + 64) }

/-- CTXREC (R299): the context's record is read anew. A stopped context, or one whose record is no longer
valid, ends (log 64). -/
def execCtxrec (c : Nat) (v : W64) (s : State) : Host.Outcome State Fault Refusal :=
  if 128 ≤ c then .next s
  else
    let a := v.toNat
    let r : BitVec 512 := if a + 64 ≤ Config.hbmBytes then BitVec.ofNat 512 (s.natAt (locHbm a) 64) else 0
    let s1 := { (s.setReg (0x3400 + 8 * c) v) with ctxRecs := mSet 0 s.ctxRecs c r }
    .next (if s.ctxStopped.contains c || !r.getLsbD 32 then s1.endCtx c else s1)

end Sys2Proof.Machine
end

