-- ==== Sys2Proof/Machine/Slew.lean ====
section
/-!
DEFINITION. Sys2Proof/Machine/Slew.lean: the slew engine (R345 to R353).
-/
namespace Sys2Proof.Machine

/-! ### The plan (R341, R342, R348) -/

/-- The meet of two boxes given as (first, size) in each dimension. -/
def boxMeet (a b : List (Nat × Nat)) : List (Nat × Nat) :=
  (a.zip b).map fun p =>
    let lo := max p.1.1 p.2.1
    (lo, min (p.1.1 + p.1.2) (p.2.1 + p.2.2) - lo)

/-- The distinct source blocks with the ranks that hold them, lowest rank first. -/
def blocksOf (r : LRec) : List (List (Nat × Nat) × List Nat) :=
  (List.range (shCount (lShard r))).foldl (fun acc k =>
    let b := shBox r k
    if acc.any fun p => p.1 == b then acc.map fun p => if p.1 == b then (p.1, p.2 ++ [k]) else p
    else acc ++ [(b, [k])]) []

/-- Canonical order of transfers: destination origin, then the lowest rank (R348). -/
def Transfer.before (a b : Transfer) : Bool := lexLt a.dst b.dst || (a.dst == b.dst && decide (a.rank < b.rank))

/-- Insert a transfer in canonical order. -/
def insertTransfer (x : Transfer) : List Transfer → List Transfer
  | [] => [x]
  | y :: r => if x.before y then x :: y :: r else y :: insertTransfer x r

/-- The plan of package `p` (R348). -/
def planOf (dst src : LRec) (p : Nat) : List Transfer :=
  match shRank (lShard dst) p with
  | none => []
  | some rank =>
    let d := shBox dst rank
    let ts := (blocksOf src).filterMap fun (b, ranks) =>
      let m := boxMeet d b
      if m.any fun x => x.2 == 0 then none
      else some
        { rank := ranks.getD 0 0, replicas := ranks.map (shBase (lShard src) + ·)
          src := (m.zip b).map fun x => x.1.1 - x.2.1, dst := (m.zip d).map fun x => x.1.1 - x.2.1, ext := m.map Prod.snd }
    ts.foldl (fun acc t => insertTransfer t acc) []

/-- PHASH (R348). -/
def planHash (dst src : LRec) (p : Nat) : W32 :=
  crc32c (leBytes 128 dst.toNat ++ leBytes 128 src.toNat ++ leBytes 4 p)

/-! ### The progress record (R351) -/

/-- The state code (R353). -/
def SlewSt.code : SlewSt → Nat
  | .idle => 0 | .planning => 1 | .pulling => 2 | .switching => 3 | .doneS => 4 | .halted => 5

/-- The progress record that the engine's state gives. -/
def Slew.record (x : Slew) : Nat :=
  x.st.code + x.phash.toNat * 2 ^ 32 + x.cursor % 2 ^ 32 * 2 ^ 64 + x.done % 2 ^ 32 * 2 ^ 96 + x.fail % 2 ^ 32 * 2 ^ 128 +
    x.plan.length % 2 ^ 32 * 2 ^ 160 + x.hpkg % 2 ^ 14 * 2 ^ 194 + x.halt % 2 ^ 16 * 2 ^ 208

/-- The location of an engine record of a context, on any page that grants the access (R347, R351). -/
def State.engRecLoc (s : State) (ctx va : Nat) (p : Perm) : Option Nat :=
  match s.xlate ctx none p va with
  | .ok l => some l
  | _ => none

/-- Write the progress record with one write at its home slice (R350). -/
def State.putProgress (s : State) : State :=
  match s.engRecLoc s.slew.ctx s.slew.prec .w with
  | some l => (s.writeNat l 64 s.slew.record).putRels l 64 []
  | none => s

/-- The home of the progress record performs the run's accesses of it (R246, R347, R350). -/
def State.progressReady (s : State) : Bool :=
  match s.engRecLoc s.slew.ctx s.slew.prec .w with
  | some l => s.engReady l 0 s.slew.stamp
  | none => true

/-- Write only HALT and STATE Halted into the progress record at `prec` (R347, R351). -/
def State.haltOnly (s : State) (ctx prec halt : Nat) : State :=
  match s.engRecLoc ctx prec .w with
  | some l => ((s.writeNat l 4 (s.natAt l 4 / 16 * 16 + 5)).writeNat (l + 26) 2 halt).putRels l 64 []
  | none => s

/-- The run ends: kind 0x05 is posted to CCORE (R350). -/
def State.slewPost (s : State) : State :=
  let x := s.slew
  s.postEv x.ccore (evData x.block (x.st.code + x.halt * 2 ^ 16) 0x05 x.ctx) 4 x.stamp

/-- A run that has come to its end writes its record and posts its completion, once the record's home takes the write and
CCORE's queue has space (R287, R350, R353); a failed resume check writes HALT and STATE alone (R351). -/
def State.slewFinish (s : State) : State :=
  match s.slew.ending with
  | none => s
  | some (st, halt) =>
    if s.evFull s.slew.ccore || !s.progressReady then s
    else
      let t := { s with slew := { s.slew with st := st, halt := halt, ending := none, stalled := false } }
      (if halt = 4 then t.haltOnly t.slew.ctx t.slew.prec 4 else t.putProgress).slewPost

/-- The run comes to its end (R353). -/
def State.slewEnd (s : State) (st : SlewSt) (halt : Nat) : State :=
  { s with slew := { s.slew with ending := some (st, halt), choosing := false } }.slewFinish

/-- The engine halts with a reason: record, then completion (R353). -/
def State.slewHalt (s : State) (halt : Nat) : State :=
  { s with slew := { s.slew with hpkg := s.slew.current } }.slewEnd .halted halt

/-- A run goes on: it is in a state, and has not come to its end. -/
def Slew.goes (x : Slew) (st : SlewSt) : Bool := x.st == st && x.ending.isNone

/-! ### Choosing a replica (R349, R352) -/

/-- Where the hop table's byte of a package lies (R349). -/
def State.hopLoc (s : State) (p : Nat) : Option Nat :=
  s.engRecLoc s.slew.ctx (addr52 ((s.reg 0x5000).toNat + p)) .r

/-- The hop count to a package from the table at SLEWHOPS; one that cannot be read counts as unreachable. -/
def State.slewHops (s : State) (p : Nat) : Nat :=
  if p = Config.packageNo then 0
  else match s.hopLoc p with
    | some l => (s.byteAt l).toNat
    | none => 255

/-- The hop table can be read for these packages (R246, R347). -/
def State.hopsReady (s : State) (l : List Nat) : Bool :=
  l.all fun p => match s.hopLoc p with | some a => s.engReady a 0 s.slew.stamp | none => true

/-- The replica with the fewest hops, and among those the lowest number. -/
def State.bestReplica (s : State) (l : List Nat) : Option (Nat × Nat) :=
  l.foldl (fun b p =>
    let h := s.slewHops p
    match b with
    | none => some (h, p)
    | some (k, q) => if h < k ∨ (h = k ∧ p < q) then some (h, p) else b) none

/-- The link over which the engine reaches a package is down: the package is unreachable (R333, R352). -/
def State.slewCut (s : State) (p : Nat) : Bool :=
  p != Config.packageNo && (match mFind s.links (Config.slewPort p) with | some l => l.down | none => false)

/-- The transfer at CURSOR. -/
def Slew.transfer (x : Slew) : Option Transfer := x.plan[x.cursor]?

/-- The engine chooses a replica for the transfer at CURSOR and pulls, or halts when none remains (R352, R353). It reads the
hop table once its home has applied what the run depends on (R347). -/
def State.slewChoose (s : State) : State :=
  match s.slew.transfer with
  | none => s
  | some t =>
    let open' := t.replicas.filter fun p => !s.slew.unreachable.contains p
    if !s.hopsReady open' then { s with slew := { s.slew with choosing := true } }
    else match s.bestReplica open' with
    | some (h, p) =>
      { s with slew := { s.slew with
          st := .pulling, current := p, dead := decide (h = 255) || s.slewCut p, stalled := false, choosing := false } }
    | none => s.slewHalt (if t.replicas.all s.slew.lastXlate.contains then 3 else 1)

/-- An ending run finishes when it can; one that is to choose, as while Switching, chooses (R353). -/
def State.slewClk (s : State) : State :=
  let s := s.slewFinish
  if s.slew.ending.isNone && (s.slew.choosing || s.slew.st == .switching) then s.slewChoose else s

/-! ### SLEW.START and SLEW.QUERY (R345, R347) -/

/-- A reason to refuse a readable command block, but for PREC (R347). -/
def State.slewRefuses (s : State) (blk : BitVec 512) (va : Nat) : Bool :=
  let ctx := field blk 54 48
  let d := s.layout ctx (field blk 47 38)
  let r := s.layout ctx (field blk 37 28)
  let here (x : LRec) := lSpan x
  field blk 511 116 != 0 || field blk 25 0 != 0 || va % 64 != 0 || decide (1 < field blk 27 26) ||
    decide (287 < field blk 63 55) || !s.ctxValid ctx ||
    !lValid d || !lValid r || !shOn (lShard d) || !shOn (lShard r) || lRank d != lRank r || lFmt d != lFmt r ||
    ((List.range 6).any fun j => lExt d j != lExt r j) ||
    (!outsideMesh d && !outsideMesh r &&
      decide ((here d).1 ≤ (here r).2) && decide ((here r).1 ≤ (here d).2))

/-- What SLEW.START reads and may write: the block of the issuer's context, and the progress record that it names (R347). -/
def State.slewLocs (s : State) (bctx va : Nat) : List Nat :=
  match s.engRecLoc bctx va .r with
  | none => []
  | some l =>
    let blk : BitVec 512 := BitVec.ofNat 512 (s.natAt l 64)
    l :: (match s.engRecLoc (field blk 54 48) (field blk 115 64) .w with | some p => [p] | none => [])

/-- SLEW.START of a context performed, its release made with `stamp`: the result word and the state it leaves (R347). -/
def State.slewStart (s : State) (bctx va : Nat) (stamp : List Nat) : Nat × State :=
  let busy := s.slew.st == .planning || s.slew.st == .pulling || s.slew.st == .switching
  if busy then (1, s)
  else match s.engRecLoc bctx va .r with
    | none => (2, s)
    | some l =>
      let blk : BitVec 512 := BitVec.ofNat 512 (s.natAt l 64)
      let ctx := field blk 54 48
      let prec := field blk 115 64
      if s.slewRefuses blk va || prec % 64 != 0 || (s.engRecLoc ctx prec .w).isNone then (2, s.haltOnly ctx prec 5)
      else
        (0, { s with
          slew := { Slew.reset with
            st := .planning, block := va, prec := prec, ccore := field blk 63 55, ctx := ctx, mode := field blk 27 26
            dstRec := s.layout ctx (field blk 47 38), srcRec := s.layout ctx (field blk 37 28), stamp := stamp, since := s.clk } })

/-- The four words of SLEW.QUERY: zeros in Idle (R345). -/
def State.slewSnapshot (s : State) : List W32 :=
  let x := s.slew
  if x.st = .idle then [0, 0, 0, 0]
  else [BitVec.ofNat 32 x.st.code, BitVec.ofNat 32 x.done, BitVec.ofNat 32 x.fail, x.phash]

/-! ### The events of R353 -/

/-- The clk by which Planning ends: 2 µs plus 20 ns per transfer (R11, R348). -/
def Slew.planBy (x : Slew) : Nat := x.since + 1200 + 12 * (planOf x.dstRec x.srcRec Config.packageNo).length

/-- SLEW_PLAN_COMPLETE (R348, R351, R353): Planning ends once the progress record can be accessed. -/
def execSlewPlanComplete (s : State) : Host.Outcome State Fault Refusal :=
  let x := s.slew
  if !x.goes .planning || !s.progressReady then .next s
  else
    let plan := planOf x.dstRec x.srcRec Config.packageNo
    let hash := planHash x.dstRec x.srcRec Config.packageNo
    let y := { x with plan := plan, phash := hash }
    let rec' := match s.engRecLoc x.ctx x.prec .r with | some l => s.natAt l 64 | none => 0
    let r : BitVec 512 := BitVec.ofNat 512 rec'
    let ok := field r 63 32 = hash.toNat ∧ field r 191 160 = plan.length ∧ field r 95 64 ≤ plan.length
    if x.mode = 1 ∧ ¬ ok then .next ({ s with slew := y }.slewEnd .halted 4)
    else
      let z := if x.mode = 1 then { y with cursor := field r 95 64, done := field r 127 96, fail := field r 159 128 } else y
      if z.cursor = plan.length then .next ({ s with slew := z }.slewEnd .doneS 0)
      else .next ({ s with slew := { z with st := .pulling } }.putProgress).slewChoose

/-- The two ends of each element of a transfer: destination and source addresses, and the element size (0 and 9
for the low and high q4 nibble of the destination). -/
def Slew.elements (x : Slew) (t : Transfer) : List (Nat × Nat × Bool) :=
  (boxOffsets (t.ext.map fun n => (0, n))).map fun o =>
    let at' (b : List Nat) : List Int := (List.range o.length).map fun j => ((b.getD j 0 + o.getD j 0 : Nat) : Int)
    let hi (r : LRec) (c : List Int) : Bool := lFmt r = .q4 && decide (lLin r c % 2 ≠ 0)
    ((lAddr x.dstRec (at' t.dst)).toNat, (lAddr x.srcRec (at' t.src)).toNat * 2 + (if hi x.srcRec (at' t.src) then 1 else 0),
      hi x.dstRec (at' t.dst))

/-- Where the engine reads a source address: its own package through the context, a peer's by its address. -/
def State.slewSrc (s : State) (va : Nat) : Xl :=
  if s.slew.current = Config.packageNo then s.xlate s.slew.ctx (some 0) .r va else .ok (locPeer s.slew.current va)

/-- The home of a source on this package has applied what the run depends on (R246, R350). -/
def State.slewSrcHeld (s : State) (va : Nat) : Bool :=
  match s.slewSrc va with | .ok l => !s.engReady l 0 s.slew.stamp | _ => false

/-- The destination location of an address. -/
def State.slewDst (s : State) (va : Nat) : Xl := s.xlate s.slew.ctx (some 0) .w va

/-- The first destination address of the transfer at hand that does not translate (R259). -/
def State.slewMiss (s : State) : Option Nat :=
  match s.slew.transfer with
  | none => none
  | some t => (s.slew.elements t).findSome? fun e => match s.slewDst e.1 with | .bad _ => some e.1 | _ => none

/-- Write one element of a transfer, read as it stands. -/
def State.slewMove (s : State) (e : Nat × Nat × Bool) : State :=
  match s.slewDst e.1, s.slewSrc (e.2.1 / 2) with
  | .ok d, .ok l =>
    if lFmt s.slew.dstRec = .q4 then
      let v := (s.byteAt l).toNat / (if e.2.1 % 2 = 1 then 16 else 1) % 16
      let old := (s.byteAt d).toNat
      (s.writeNat d 1 (if e.2.2 then old % 16 + 16 * v else old / 16 * 16 + v)).putRels d 1 []
    else
      let n := elemSize (lFmt s.slew.dstRec)
      (s.writeLoc d (s.bytesAt l n)).putRels d n []
  | _, _ => s

/-- An end of an element may be accessed: its home has applied what the run depends on, and is awake (R246, R350, R380). -/
def State.slewElemReady (s : State) (e : Nat × Nat × Bool) : Bool :=
  (match s.slewDst e.1 with | .ok d => s.engReady d 0 s.slew.stamp | _ => true) && !s.slewSrcHeld (e.2.1 / 2)

/-- The first end of an element of a transfer that meets an uncorrectable word: what that leaves (R357). -/
def State.slewSpoiled (s : State) (es : List (Nat × Nat × Bool)) : Option State :=
  if s.badWords.isEmpty then none
  else
    let n := max 1 (elemSize (lFmt s.slew.dstRec))
    es.findSome? fun e =>
      let a (va : Nat) : ErrAt := { ctx := s.slew.ctx, core := 0x1FF, slot := 127, va := va }
      let src := match s.slewSrc (e.2.1 / 2) with | .ok l => s.spoiled l n false (a (e.2.1 / 2)) | _ => none
      match src, s.slewDst e.1 with
      | some t, _ => some t
      | none, .ok l => s.spoiled l n true (a e.1)
      | none, _ => none

/-- SLEW_TRANSFER_ACK (R350, R353): every element of the transfer is performed, and the progress record moves on; the
transfer of a stopped context is abandoned instead (R352). -/
def execSlewTransferAck (s : State) : Host.Outcome State Fault Refusal :=
  match s.slew.goes .pulling && !s.slew.choosing, s.slew.transfer with
  | true, some t =>
    let es := s.slew.elements t
    let bad := es.any fun e =>
      (match s.slewDst e.1 with | .bad _ => true | _ => false) || (match s.slewSrc (e.2.1 / 2) with | .bad _ => true | _ => false)
    let absent := es.any fun e => s.slewDst e.1 == .absent || s.slewSrc (e.2.1 / 2) == .absent
    let held := !s.progressReady || es.any fun e => !s.slewElemReady e
    if absent then fin { s with absentHit := true }
    else if bad || held || s.slew.dead || s.slew.stalled || !s.ctxValid s.slew.ctx then .next s
    else match s.slewSpoiled es with
    | some u => .next u
    | none =>
      let s1 := es.foldl State.slewMove s
      let x : Slew := { s1.slew with cursor := s1.slew.cursor + 1, done := s1.slew.done + 1 }
      if x.cursor = x.plan.length then .next ({ s1 with slew := x }.slewEnd .doneS 0)
      else .next ({ s1 with slew := x }.putProgress).slewChoose
  | _, _ => .next s

/-- The source of the transfer at hand fails to translate on this package. -/
def State.slewSrcBad (s : State) (t : Transfer) : Bool :=
  (s.slew.elements t).any fun e => match s.slewSrc (e.2.1 / 2) with | .bad _ => true | _ => false

/-- SLEW_TRANSFER_FAIL (R352, R353): the replica is unreachable, or returned XLATE or ACCESS. FAIL rises, the
package is not chosen again in this run, and the engine is Switching; it waits for its progress record. -/
def execSlewTransferFail (unreachable : Bool) (s : State) : Host.Outcome State Fault Refusal :=
  match s.slew.goes .pulling && !s.slew.choosing && s.progressReady, s.slew.transfer with
  | true, some t =>
    let own := s.slew.current == Config.packageNo
    if (own && (unreachable || !s.slewSrcBad t)) || (s.slew.dead && !unreachable) then .next s
    else
      let x := s.slew
      .next ({ s with slew := { x with
        st := .switching, fail := x.fail + 1, unreachable := x.unreachable ++ [x.current]
        lastXlate := if unreachable then x.lastXlate else x.lastXlate ++ [x.current] } }.putProgress)
  | _, _ => .next s

/-- SLEW_CTX_STOPPED (R352, R353): the context of the run has stopped: the transfer is abandoned with any of its
elements written (log 6), and the engine halts with 6. -/
def execSlewCtxStopped (s : State) : Host.Outcome State Fault Refusal :=
  let x := s.slew
  if !(x.goes .pulling || x.goes .switching) || s.ctxValid x.ctx then .next s
  else
    let es := match x.goes .pulling && !x.choosing, x.transfer with | true, some t => (x.elements t).filter s.slewElemReady | _, _ => []
    let n := s.free
    let s1 := (es.zip (List.range es.length)).foldl (fun s p =>
      if Config.freeChoice (n + p.2) 2 % 2 = 1 then s.slewMove p.1 else s) s
    .next ({ s1 with free := n + es.length }.slewHalt 6)

/-- The device locations that the run accesses next: their homes wake (R380). -/
def State.slewWants (s : State) : List Nat :=
  let x := s.slew
  let prec := (s.engRecLoc x.ctx x.prec .w).toList
  let hops := match x.transfer with
    | some t => if x.choosing || x.st == .switching then t.replicas.filterMap s.hopLoc else []
    | none => []
  let ends := match x.goes .pulling && !x.choosing, x.transfer with
    | true, some t => (x.elements t).flatMap fun e =>
        (match s.slewDst e.1 with | .ok l => [l] | _ => []) ++ (match s.slewSrc (e.2.1 / 2) with | .ok l => [l] | _ => [])
    | _, _ => []
  if x.st == .planning || x.st == .pulling || x.st == .switching then prec ++ hops ++ ends else []

end Sys2Proof.Machine
end

