-- ==== Sys2Proof/Machine/Ckpt.lean ====
section
/-!
DEFINITION. Sys2Proof/Machine/Ckpt.lean: checkpoints (R361 to R365).
-/
namespace Sys2Proof.Machine

/-! ### The block and its targets (R361, R362) -/

/-- HBM granules, and all granules. -/
def hbmGranules : Nat := 9437184
/-- The manifest's bits. -/
def allGranules : Nat := 9443328

/-- The value of register ID (R329). -/
def idReg : Nat := 0x530900A2

/-- Engine work of some context runs, or a wale is resident (R363). -/
def State.anyWork (s : State) : Bool :=
  (s.wales.any fun w => w.kind == .wale && w.life != .saved) || !s.reqs.isEmpty || !s.banks.isEmpty || !s.images.isEmpty ||
    !s.arrays.isEmpty || (s.wgs.any fun g => g.copies.any fun c => c.st == .running) ||
    s.slew.st == .planning || s.slew.st == .pulling || s.slew.st == .switching

/-- The location of a granule; none of one in a die's cache part. -/
def State.granuleLoc (s : State) (g : Nat) : Option Nat :=
  if g < hbmGranules then some (locHbm (65536 * g))
  else
    let k := g - hbmGranules
    if k % 1536 < 128 * s.expl (k / 1536) then some (locCommon (k / 1536 * 2 ^ 27 + 65536 * (k % 1536))) else none

/-- CKPT performed: the result word and the state it leaves (R363). A full or incremental run begins to read: the dirty bits of
its granules are cleared (R364). -/
def State.ckptStart (s : State) (bctx va : Nat) : Nat × State :=
  match s.engRecLoc bctx va .r with
  | none => (2, s)
  | some l =>
    let b : BitVec 512 := BitVec.ofNat 512 (s.natAt l 64)
    if va % 64 != 0 || field b 411 329 != 0 || field b 328 320 == 0 || field b 267 256 != 0 || field b 239 2 != 0 ||
        field b 319 268 % 64 != 0 || decide (287 < field b 255 247) || field b 1 0 == 3 || !s.ctxValid (field b 246 240) ||
        s.anyWork then (2, s)
    else if s.ckpt.isSome then (1, s)
    else
      let was := if field b 1 0 = 2 then [] else s.dirtyGranules.filter fun g => (s.granuleLoc g).isSome
      let c : Ckpt :=
        { block := va, bctx := bctx, mode := field b 1 0, sel := field b 328 320, ttab := field b 319 268
          ccore := field b 255 247, ctx := field b 246 240, bad := [], was := was, ending := none }
      (0, { s with ckpt := some c, dirtyGranules := s.dirtyGranules.filter fun g => !was.contains g })

/-- A target: none for the space-5 target, else the peer package and the Brynzen port that reaches it; and its address. -/
structure Target where
  pkg : Option (Nat × Nat)
  va : Nat
  deriving DecidableEq, Repr

/-- The enabled targets, in entry order; none when the table cannot be read, when entry 0 has a PORT or PKG, or when another
names no Brynzen port (R362, log 75). -/
def State.targets (s : State) (c : Ckpt) : Option (List Target) :=
  ((List.range 9).filter fun i => c.sel.testBit i).mapM fun i =>
    match s.xlate c.ctx none .r (addr52 (c.ttab + 16 * i)) with
    | .ok l =>
      let e : BitVec 128 := BitVec.ofNat 128 (s.natAt l 16)
      if (i = 0 ∧ field e 71 52 ≠ 0) ∨ 36 ≤ field e 71 66 then none
      else some ⟨if i = 0 then none else some (field e 65 52, field e 71 66), field e 51 0⟩
    | _ => none

/-- The link that a target is reached over is down (R333, R362). -/
def State.targetDown (s : State) (t : Target) : Bool :=
  match t.pkg with
  | some (_, port) => (match mFind s.links port with | some l => l.down | none => false)
  | none => false

/-- Where byte `a` of a target's area lies. -/
def State.targetLoc (s : State) (c : Ckpt) (t : Target) (p : Perm) (a : Nat) : Option Nat :=
  match t.pkg with
  | some (n, _) => some (locPeer n (addr52 (t.va + a)))
  | none => (match s.xlate c.ctx (some 2) p (addr52 (t.va + a)) with | .ok l => some l | _ => none)

/-- Write bytes at offset `a` of a target, page by page; none when it fails. -/
def State.putTarget (s : State) (c : Ckpt) (t : Target) (a : Nat) (bs : List Byte) : Option State :=
  let first := 65536 - (t.va + a) % 65536
  let parts := [(a, bs.take first), (a + first, bs.drop first)]
  parts.foldl (fun s? p =>
    match s? with
    | none => none
    | some s =>
      if p.2.isEmpty then some s
      else (s.targetLoc c t .w p.1).map fun l => s.writeLoc l p.2) (some s)

/-- Read `n` bytes at offset `a` of a target; none when it fails. -/
def State.getTarget (s : State) (c : Ckpt) (t : Target) (a n : Nat) : Option (List Byte) :=
  let first := min n (65536 - (t.va + a) % 65536)
  match s.targetLoc c t .r a, s.targetLoc c t .r (a + first) with
  | some l, some m => some (s.bytesAt l first ++ s.bytesAt m (n - first))
  | some l, none => if first = n then some (s.bytesAt l n) else none
  | none, _ => none

/-! ### Granules (R361, R364) -/

/-- A granule was written since the run began, and the run reads it after the last of the writes: a free choice (log 6). -/
def State.readLate (s : State) (g : Nat) : Bool := s.dirtyGranules.contains g && Config.freeChoice (s.free + g) 2 % 2 == 1

/-- The granules that a run reads, in order: all of them, or those whose bit was set as it began or is set as it comes to
them (R364). -/
def State.granules (s : State) (c : Ckpt) : List Nat :=
  (List.range allGranules).filter fun g =>
    (s.granuleLoc g).isSome && (c.mode == 0 || c.was.contains g || s.readLate g)

/-- The dirty bits after a run has read these granules: a write since it began sets its granule's bit again, unless the run
came to it later (R364, R365). -/
def State.stillDirty (s : State) (gs : List Nat) : List Nat :=
  s.dirtyGranules.filter fun g => !(gs.contains g && s.readLate g)

/-- The granules that hold an uncorrectable word (R363). -/
def State.badGranules (s : State) : List Nat := (s.badWords.filterMap fun b => granule b.1).eraseDups

/-- The position of a granule in its target: the written granules below it of the same residue (R362). -/
def granulePos (written : List Nat) (n g : Nat) : Nat := (written.filter fun k => decide (k < g) && k % n == g % n).length

/-- The manifest bytes of a set of granules. -/
def manifest (written : List Nat) : List Byte :=
  (List.range (allGranules / 8)).map fun i =>
    BitVec.ofNat 8 ((List.range 8).foldl (fun b k => if written.contains (8 * i + k) then b + 2 ^ k else b) 0)

/-- The header of a target (R362). -/
def ckptHeader (n mode : Nat) : List Byte := leBytes 64 (idReg + n * 2 ^ 32 + mode * 2 ^ 36)

/-- Write the image to the targets; none when one fails. -/
def State.writeImage (s : State) (c : Ckpt) (ts : List Target) (written : List Nat) : Option State :=
  let n := ts.length
  let heads := ts.foldl (fun (s? : Option State) t => s?.bind fun s =>
    (s.putTarget c t 0 (ckptHeader n c.mode)).bind fun s =>
      (List.range 19).foldl (fun s? i => s?.bind fun s =>
        s.putTarget c t (64 + 65536 * i) (((manifest written).drop (65536 * i)).take 65536)) (some s)) (some s)
  written.foldl (fun s? g => s?.bind fun s =>
    match ts[g % n]?, s.granuleLoc g with
    | some t, some l => s.putTarget c t (0x130000 + 65536 * granulePos written n g) (s.bytesAt l 65536)
    | _, _ => none) heads

/-- The granules that a manifest lists. -/
def listed (m : List Byte) : List Nat :=
  (List.range allGranules).filter fun g => (m.getD (g / 8) 0).getLsbD (g % 8)

/-- Read the manifest of a target, in pieces. -/
def State.readManifest (s : State) (c : Ckpt) (t : Target) : Option (List Byte) :=
  (List.range 19).foldl (fun acc i => acc.bind fun m =>
    (s.getTarget c t (64 + 65536 * i) (min 65536 (allGranules / 8 - 65536 * i))).map (m ++ ·)) (some [])

/-! ### The end of a run (R363) -/

/-- The run ends: the device fields of the block, and the completion record. -/
def State.ckptDone (s : State) (c : Ckpt) (status grans : Nat) : State :=
  let s := match s.engRecLoc c.bctx c.block .w with
    | some l =>
      let s := (s.writeNat (l + 56) 8 (65536 * grans)).writeNat (l + 52) 4 grans
      s.writeNat (l + 51) 1 ((s.byteAt (l + 51)).toNat % 16 + 16 * status)
    | none => s
  ({ s with ckpt := none }).postEv c.ccore (evData c.block status 0x06 c.ctx) 4 []

/-- A run that is over writes its block and posts its completion, once the block's home takes the write and CCORE's queue has
space (R287, R363). -/
def State.ckptFinish (s : State) : State :=
  match s.ckpt with
  | none => s
  | some c =>
    match c.ending with
    | none => s
    | some (status, grans) =>
      let ready := match s.engRecLoc c.bctx c.block .w with | some l => s.engReady l 0 [] | none => true
      if s.evFull c.ccore || !ready then s else s.ckptDone c status grans

/-- The run is over. -/
def State.ckptOver (s : State) (c : Ckpt) (status grans : Nat) : State :=
  { s with ckpt := some { c with ending := some (status, grans) } }.ckptFinish

/-- A target fails: STATUS 1, and the bits of the granules read, `gs` and those cleared at the start, are set again (R363,
R364). -/
def State.ckptFail (s : State) (c : Ckpt) (gs : List Nat) : State :=
  { s with dirtyGranules := (gs ++ c.was ++ s.dirtyGranules).eraseDups }.ckptOver c 1 0

/-- Restore writes each listed granule back, but for those in a cache part, and clears its dirty bit (R362, R364). -/
def State.restoreImage (s : State) (c : Ckpt) (ts : List Target) : State :=
  let n := ts.length
  match ts with
  | [] => s.ckptFail c []
  | t0 :: _ =>
    match s.getTarget c t0 0 64, s.readManifest c t0 with
    | some h, some m =>
      let x := leNat h
      if x % 2 ^ 32 ≠ idReg ∨ x / 2 ^ 32 % 16 ≠ n then s.ckptOver c 3 0
      else
        let gs := listed m
        let put := gs.filter fun g => (s.granuleLoc g).isSome
        let out := put.foldl (fun (s? : Option State) g => s?.bind fun s =>
          match ts[g % n]?, s.granuleLoc g with
          | some t, some l =>
            (s.getTarget c t (0x130000 + 65536 * granulePos gs n g) 65536).map fun bs => s.writeLoc l bs
          | _, _ => some s) (some s)
        match out with
        | some s1 => ({ s1 with dirtyGranules := s1.dirtyGranules.filter fun g => !put.contains g }).ckptOver c 0 put.length
        | none => s.ckptFail c []
    | _, _ => s.ckptFail c []

/-- A record of kind 0x15 for the first uncorrectable word of each granule that the run leaves out and no record has named
(R358, R363). -/
def State.nameBad (s : State) (c : Ckpt) (gs : List Nat) : State :=
  (gs.filter fun g => s.badGranules.contains g && !c.bad.contains g).foldl (fun (s : State) g =>
    match s.badWords.find? fun b => granule b.1 == some g with
    | some b =>
      let pa := if b.1 < locCommon 0 then b.1 else b.1 - locCommon 0
      (s.countUncorr (homeDie b.1 0) (structOf b.1)).pushFault ⟨mkRecord 0x15 0 (structOf b.1) 0x1FF 127 0 pa s.clk, none, true⟩
    | none => s) s

/-- CHECKPOINT_END (R361 to R364): the run, every die awake (R380), has read its granules and writes the image; a target that fails, or whose link is
down, ends it with STATUS 1 and the bits of what it read set. -/
def execCheckpointEnd (s : State) : Host.Outcome State Fault Refusal :=
  match s.ckpt with
  | none => .next s
  | some c =>
    if c.ending.isSome || s.flushAllHeld || !((List.range 4).all s.awake) then .next s
    else match s.targets c with
    | none => .next (s.ckptFail c [])
    | some ts =>
      if ts.any s.targetDown then .next (s.ckptFail c [])
      else if c.mode = 2 then .next (s.flushAll.restoreImage c ts)
      else
        let s := s.flushAll
        let gs := s.granules c
        let written := gs.filter fun g => !(c.bad.contains g || s.badGranules.contains g)
        let left := s.stillDirty gs
        let s := { s.nameBad c gs with free := s.free + allGranules }
        match s.writeImage c ts written with
        | none => .next (s.ckptFail c gs)
        | some s1 =>
          .next ({ s1 with dirtyGranules := left ++ s1.dirtyGranules.filter fun g => !s.dirtyGranules.contains g }.ckptOver c
            (if written.length = gs.length then 0 else 2) written.length)

/-- CHECKPOINT_TARGET_FAIL (R363): an enabled target fails, and the run stops with STATUS 1. -/
def execCheckpointTargetFail (i : Nat) (s : State) : Host.Outcome State Fault Refusal :=
  match s.ckpt with
  | none => .next s
  | some c => if c.sel.testBit i && decide (i < 9) && c.ending.isNone then .next (s.ckptFail c []) else .next s

/-- The device locations that a running checkpoint accesses: the dies that hold its granules wake (R380). -/
def State.ckptWants (s : State) : List Nat :=
  match s.ckpt with
  | none => []
  | some c =>
    (match s.engRecLoc c.bctx c.block .w with | some l => [l] | none => []) ++
      (List.range 4).map fun d => locHbm (144 * 2 ^ 30 * d)

end Sys2Proof.Machine
end

