-- ==== Sys2Proof/Machine/Weaver.lean ====
section
/-!
DEFINITION. Sys2Proof/Machine/Weaver.lean: the weaver's own operations (R158, R283, R304, R345, R363).
-/
namespace Sys2Proof.Machine

/-! ### Issue (R158) -/

/-- A weaver operation: privileged; `flagless` says that its selected flag is 15, a check of decoding (R63,
R77); `go` makes its effect at issue. -/
def State.wvOp (s : State) (f : WvForm) (flagless : Wale → Bool) (uses : List Nat)
    (go : Wale → Host.Outcome State Fault Refusal) : Host.Outcome State Fault Refusal :=
  s.withCur fun w =>
    if !w.privileged then s.raise w .priv (w.active f.face)
    else if w.kind != .weaver && w.kind != .wale then s.raise w .illegalField 0
    else if flagless w then s.raise w .illegalMod (w.active f.face)
    else if !w.faceOk f.face then s.raise w .meldIllegal (w.active f.face)
    else if f.face != .both && w.active f.face == 0 then .next (s.issued w 0)
    else match s.stallShort w (uses.map (Use.mk .s)) with
      | some d => s.raise w .stallShort (w.active f.face) d
      | none => go w

/-- EVPOP (R158, R244, R287): the oldest record of the core's event queue, acquired at `.dev`; zeros when it is empty. -/
def execEvpop (f : WvForm) (s : State) : Host.Outcome State Fault Refusal :=
  s.wvOp f (fun _ => false) [] fun w =>
    let out (w : Wale) (x : Nat) : List InFlight :=
      (List.range 4).map fun j => scFlight w (f.d + j) (BitVec.ofNat 32 (x / 2 ^ (32 * j))) s.clk 4
    match mGet [] s.events w.core with
    | [] => .next (s.issueWith w (out w 0) 1 0)
    | e :: r =>
      let w1 := { w with stamp := stampJoin w.stamp e.stamp, acqClk := s.clk }
      .next ({ s with events := mSet [] s.events w.core r }.issueWith w1 (out w1 e.data.toNat) 1 0)

/-- A long-latency weaver operation: it waits for a flag it can raise and for the core's earlier one (R32, R158). -/
def State.wvLong (s : State) (f : WvForm) (op na : Nat) : Host.Outcome State Fault Refusal :=
  s.wvOp f (fun w => (w.flagSel f.fsel).isNone) ((List.range na).map (f.a + ·)) fun w =>
    let flag := w.flagSel f.fsel
    if !w.canRaise flag || (mFind s.wvPend w.core).isSome then .next (s.hold w .flagWait false)
    else
      let at0 := if op = 6 then f.a + 1 else f.a
      let p : WvPend :=
        { op := op, ctx := w.ctx, d := f.d, a0 := if na = 0 then 0 else BitVec.ofNat 64 (w.s64At at0 s.clk), b := f.b
          s0 := w.sAt f.a s.clk, flag := flag, owner := w.id, no := w.issueNo, dead := [], issued := s.clk }
      .next ({ s with wvPend := mPut s.wvPend w.core p }.issued (w.raise flag) 0)

/-- TKCLAIM (R283). -/
def execTkclaim (f : WvForm) (s : State) : Host.Outcome State Fault Refusal := s.wvLong f 5 2
/-- SYMWALK (R304). -/
def execSymwalk (f : WvForm) (s : State) : Host.Outcome State Fault Refusal := s.wvLong f 6 3
/-- SLEW.START (R345, R347). -/
def execSlewStart (f : WvForm) (s : State) : Host.Outcome State Fault Refusal := s.wvLong f 7 2
/-- SLEW.QUERY (R345). -/
def execSlewQuery (f : WvForm) (s : State) : Host.Outcome State Fault Refusal := s.wvLong f 8 0
/-- CKPT (R363). -/
def execCkpt (f : WvForm) (s : State) : Host.Outcome State Fault Refusal := s.wvLong f 9 2

/-! ### Completion -/

/-- TKCLAIM at the record's home slice: the words S[d] and S[d+1]; the result is held in the core's claim
register (R283, R285). With no rank granted the first word is a free value (log 8). -/
def State.doClaim (s : State) (core ctx va b : Nat) : List W32 × State :=
  let none' (s : State) : List W32 × State := ([Config.freeWord s.free, 0], { s with free := s.free + 1 })
  match s.launchOf ctx va .w with
  | none => none' s
  | some l =>
    match s.launchLoc l with
    | none => none' s
    | some loc =>
      match s.claim l loc b with
      | (some t, n, s1) =>
        ([BitVec.ofNat 32 t, BitVec.ofNat 32 n], ({ s1 with claims := mPut s1.claims core ⟨l.queue, l.seq, t, t + n⟩ }).tidyResume l.queue)
      | (none, _, s1) => none' s1

/-- Coordinates 0 to 3 and mask of a rank's representative under a symmetry word and extents (R158, R304). -/
def symWords (sym : W32) (grid : List Nat) (rank : Nat) : List W32 :=
  if launchTotal sym grid ≤ rank then [0xFFFFFFFF, 0xFFFFFFFF, 0xFFFFFFFF, 0xFFFFFFFF, 0]
  else
    let unrank (r : Nat) : List Nat := (grid.foldl (fun (p : List Nat × Nat) e => (p.1 ++ [p.2 % e], p.2 / e)) ([], r)).1
    let c := if sym = 0 then unrank rank else (symReps sym grid).getD rank []
    (List.range 4).map (fun j => BitVec.ofNat 32 (c.getD j 0)) ++ [if sym = 0 then 0 else symMask sym grid c]

/-- The symmetry and extents that SYMWALK maps by: those fixed at a launch's start (R305), else those of the
record that the address names; none when it cannot be read, or when a weaver would refuse its symmetry. -/
def State.symOfRec (s : State) (ctx va : Nat) : Option (W32 × List Nat) :=
  match s.launchOf ctx va .r with
  | some l => some (l.sym, l.grid)
  | none =>
    (s.recLoc ctx va .r).bind fun a =>
      let r := s.recAt a
      (s.gridAtStart r).bind fun g => if rSym r != 0 && symBad (rSym r) g then none else some (rSym r, g)

/-- SYMWALK (R158, R304); without a mapping its results are free values (log 8). -/
def State.doSymwalk (s : State) (ctx va rank : Nat) : List W32 × State :=
  match s.symOfRec ctx va with
  | some (sym, g) => (symWords sym g rank, s)
  | none => ((List.range 5).map fun j => Config.freeWord (s.free + j), { s with free := s.free + 5 })

/-- The result scalars of a weaver operation, but for those that a later instruction has written (R30). -/
def Wale.landScalars (w : Wale) (p : WvPend) (ws : List W32) : Wale :=
  (ws.zip (List.range ws.length)).foldl (fun (w : Wale) (x : W32 × Nat) =>
    let r := p.d + x.2
    if p.dead.contains r then w else { w with s := mSet 0 w.s r x.1, inflight := w.older .s r p.no 1 }) w

/-- The device locations that a pending operation accesses (R158). -/
def State.wvLocs (s : State) (p : WvPend) : List Nat :=
  let va := addr52 p.a0.toNat
  match p.op with
  | 5 => (match (s.launchOf p.ctx va .w).bind s.launchLoc with | some l => [l] | none => [])
  | 6 => (s.recLoc p.ctx va .r).toList
  | 7 => s.slewLocs p.ctx va
  | 8 => []
  | _ => (s.engRecLoc p.ctx va .r).toList

/-- SLEW.START's release as its wale makes it: a `.dev` release of its earlier accesses (R239, R347). -/
def State.slewRelease (s : State) (p : WvPend) : List Nat × State :=
  match s.wale? p.owner with
  | some w => let (i, t) := s.waleRelease { w with issueNo := p.no } .dev; (i.stamp, t)
  | none => ([], s)

/-- Whether a pending operation may be performed: the homes of what it accesses are awake and have applied what its wale
carries, and SLEW.START's release may be made, with what it releases (R239, R246, R347, R380). -/
def State.wvReady (s : State) (core : Nat) (p : WvPend) : Bool :=
  match s.wale? p.owner with
  | none => true
  | some w =>
    if p.op = 7 then
      let (stamp, t) := s.slewRelease p
      s.waleRelReady { w with issueNo := p.no } .dev && (s.wvLocs p).all fun l => t.engReady l core stamp
    else (s.wvLocs p).all fun l => s.engReady l core w.stamp

/-- SLEW.START performed: its release, then the start (R347). -/
def State.doSlewStart (s : State) (va : Nat) (p : WvPend) : Nat × State :=
  let (stamp, t) := s.slewRelease p
  t.slewStart p.ctx va stamp

/-- A pending operation is performed: its results are readable, and its flag falls. -/
def State.wvPerform (s : State) (core : Nat) (p : WvPend) : State :=
  let s := { s with wvPend := mDel s.wvPend core }
  let va := addr52 p.a0.toNat
  let (ws, s1) : List W32 × State := match p.op with
    | 5 => s.doClaim core p.ctx va p.b
    | 6 => s.doSymwalk p.ctx va p.s0.toNat
    | 7 => let (r, t) := s.doSlewStart va p; ([BitVec.ofNat 32 r], t)
    | 8 => (s.slewSnapshot, s)
    | _ => let (r, t) := s.ckptStart p.ctx va; ([BitVec.ofNat 32 r], t)
  s1.onWale p.owner fun w => (w.landScalars p ws).lower p.flag

/-- WEAVER_OPERATION_COMPLETE (R158): the core's long-latency operation is performed, once it may be. -/
def execWeaverOperationComplete (core : Nat) (s : State) : Host.Outcome State Fault Refusal :=
  match mFind s.wvPend core with
  | none => .next s
  | some p => .next (if s.wvReady core p then s.wvPerform core p else s.stirHomes (s.wvLocs p))

/-- The clk after its issue by which an operation completes: SYMWALK 96, SLEW.START and SLEW.QUERY 2 µs (R11, R305, R345); the
others have none. -/
def WvPend.bound (p : WvPend) : Option Nat :=
  match p.op with | 6 => some 96 | 7 | 8 => some 1200 | _ => none

/-- Operations that have reached their bound complete, once they may; the homes of what each accesses wake (R305, R345, R347,
R380). -/
def State.wvClk (s : State) : State :=
  s.wvPend.foldl (fun (s : State) p =>
    match p.2.bound with
    | some n => if p.2.issued + n ≤ s.clk ∧ s.wvReady p.1 p.2 then s.wvPerform p.1 p.2 else s.stirHomes (s.wvLocs p.2)
    | none => s.stirHomes (s.wvLocs p.2)) s

end Sys2Proof.Machine
end

