-- ==== Sys2Proof/Machine/Fault.lean ====
section
/-!
DEFINITION. Sys2Proof/Machine/Fault.lean: invalidation (R337, R338), translation faults of engines and their
answers (R259, R339, R384), and the fault ring (R340).
-/
namespace Sys2Proof.Machine

/-! ### Invalidation (R338) -/

/-- The lock word that a wale's LOCKQ or UNLOCKQ has on its way to the home slice, or queues at (R180): location and address. -/
def Wale.lockPlace (w : Wale) : Option (Nat × Nat) :=
  match w.latch with
  | some (.lock l va) | some (.lockReq l va _) => some (l, va)
  | _ => none
/-- Its address. -/
def Wale.lockVa (w : Wale) : Option Nat := w.lockPlace.map Prod.snd

/-- A request of a context that has used a translation of the range and is not performed. -/
def Req.usesRange (q : Req) (c lo n : Nat) : Bool :=
  q.ctx == c && q.open' && q.space != 2 && q.space != 3 &&
    q.elems.any fun e => !e.done && !e.zero && rangesMeet e.va e.size lo n

/-- The accesses that an invalidation waits for: requests of the range, LOCKQs queued at a lock word of it, and running
copies of the context. -/
def State.usersOf (s : State) (c lo n : Nat) : List Nat :=
  (s.reqs.filter fun q => q.usesRange c lo n).map Req.id ++
    ((s.wales.filter fun w => w.ctx == c && (match w.lockVa with | some va => rangesMeet va 4 lo n | none => false)).map Wale.id) ++
    (s.wgs.filter fun g => g.ctx == c).flatMap fun g => (g.copies.filter fun x => x.st == .running).map Copy.id

/-- No store that used a removed entry is performed again (R234, R338). -/
def State.stopRepeats (s : State) (c lo n : Nat) : State :=
  let f (q : Req) : Req :=
    if q.ctx == c && q.kind == .store then
      { q with elems := q.elems.map fun e => if e.done && rangesMeet e.va e.size lo n then { e with dead := true } else e }
    else q
  { s with reqs := (s.reqs.map f).filter fun q => !(q.finished && q.elems.all Elem.dead) }

/-- TLBINV (R329, R338): every cached entry of the context and range is removed; INVDONE reads 1 again
once the accesses that used one are over. -/
def execTlbinv (v : W64) (s : State) : Host.Outcome State Fault Refusal :=
  let c := field v 63 57
  let lo := 2 * field v 56 6
  let n := 2 ^ field v 5 0
  let old := s.inval.getD []
  .next { s.stopRepeats c lo n with
    tlbs := s.tlbs.filter fun e => !(e.ctx == c && rangesMeet e.page e.size lo n)
    inval := some (old ++ s.usersOf c lo n) }

/-- An access that an invalidation waits for is neither performed nor abandoned. -/
def State.stillUsing (s : State) (id : Nat) : Bool :=
  (s.reqs.any fun q => q.id == id && q.open') ||
    (s.wales.any fun w => w.id == id && w.lockVa.isSome) || s.wgs.any fun g => g.copies.any fun c => c.id == id && c.st == .running

/-- INVALIDATION_DONE (R338): INVDONE reads 1 once every access that used a removed entry is over. -/
def execInvalidationDone (s : State) : Host.Outcome State Fault Refusal :=
  match s.inval with
  | none => .next s
  | some ids => if ids.any s.stillUsing then .next s else .next { s with inval := none }

/-! ### What an engine access misses (R259, R339) -/

/-- A translation fault of an engine: context, engine number, write, core id or base die, address. -/
structure Miss where
  ctx : Nat
  engine : Nat
  wr : Bool
  core : Nat
  va : Nat
  /-- the layout handle of the access; a row of a bank program and a plan's transfer have none -/
  handle : Option Nat
  deriving DecidableEq, Repr

/-- The first word of a fold log that an append cannot reach: its address, and whether it is written. -/
def State.foldMiss (s : State) (die ctx : Nat) (log : LRec) (ws : List Nat) : Option (Nat × Bool) :=
  ws.findSome? fun (n : Nat) =>
    let va := (lAddr log [(n : Int)]).toNat
    match s.logWord die ctx log .w n, s.logWord die ctx log .r n with
    | .bad _, _ => some (va, true)
    | _, .bad _ => some (va, false)
    | _, _ => none

/-- Images ahead of one in its workgroup, or a stalled image of its lane, hold it back (R312, R384). -/
def State.imageHeld (s : State) (i : Image) : Bool :=
  (s.images.any fun x => x.lane == i.lane && x.stalled) ||
    (s.images.find? fun x => x.wg == i.wg).any fun x => x.id != i.id

/-- Where an image is written. -/
def State.imageLoc (s : State) (i : Image) : Xl := s.xlateDie i.lane i.ctx (spaceTgt i.space) .w i.va

/-- The translation fault that an engine meets where it stands, if it does. -/
def State.engMiss (s : State) (a : EngAcc) : Option Miss :=
  match a with
  | .copy wg cq =>
    (s.wg? wg).bind fun g => (g.nextCopy cq).bind fun c =>
      if !s.copyReady c || g.saved || s.groupStops wg then none
      else (s.copyFault g c).map fun p => ⟨g.ctx, 0, p.2, g.core, addr52 p.1, some (if p.2 then c.hd else c.hs)⟩
  | .matrix id =>
    (s.wale? id).bind fun w => (s.wg? w.wg).bind fun g =>
      match w.mq with
      | [] => none
      | m :: _ =>
        if !s.mqGo w g m then none
        else match m.kind with
          | .mstore => (s.mstoreFault w g m).map fun va => ⟨w.ctx, 1, true, w.core, addr52 va, some m.ha⟩
          | .stfold =>
            let log := m.rec' 0
            (s.foldMiss (dieOf w.core) w.ctx log (m.foldNeeds (s.logGet (dieOf w.core) w.ctx log 4))).map fun p => ⟨w.ctx, 1, p.2, w.core, addr52 p.1, some (field (s.layout w.ctx m.ha) 883 874)⟩
          | _ => none
  | .bank id =>
    (s.bank? id).bind fun b =>
      if b.st != .running then none else (s.bankMiss b).map fun p => ⟨b.ctx, 2, p.2, b.engineId, p.1, none⟩
  | .slew =>
    if s.slew.st != .pulling || s.slew.stalled then none
    else s.slewMiss.map fun va => ⟨s.slew.ctx, 3, true, 0x1FF, addr52 va, none⟩
  | .image id =>
    (s.images.find? fun i => i.id == id).bind fun i =>
      if i.stalled || s.imageHeld i then none
      else match s.imageLoc i with
        | .bad _ => some ⟨i.ctx, 4, true, match s.wale? i.wale with | some w => w.core | none => 0x1FF, addr52 i.va, some i.handle⟩
        | _ => none

/-- The record of a translation fault (R339, R358). -/
def Miss.record (m : Miss) (clk : Nat) : BitVec 512 :=
  withHandle (mkRecord 0x01 m.ctx 0 m.core 127 (m.engine + (if m.wr then 8 else 0)) m.va clk) m.handle

/-! ### Stalling, retrying and refusing -/

/-- Set whether the head of a matrix queue is stalled. -/
def Wale.stallHead (w : Wale) (b : Bool) : Wale :=
  match w.mq with
  | m :: r => { w with mq := { m with stalled := b } :: r }
  | [] => w

/-- The running or stalled program with an id changes state. -/
def State.setBank (s : State) (id : Nat) (st : BankSt) : State :=
  { s with banks := s.banks.map fun b => if b.id == id then { b with st := st } else b }

/-- The stalled copy of a queue. -/
def Workgroup.stalledCopy (g : Workgroup) (cq : Nat) : Option Copy := g.copies.find? fun c => c.cq == cq && c.st == .stalled

/-- Only the queue or program that made the access stalls (R259). An MSTORE has begun: its ring step is made, and its tile is
latched, so that other wales' operations on the tile go on (R195, R199). -/
def State.stallEng (s : State) (a : EngAcc) : State :=
  match a with
  | .copy wg cq =>
    (match (s.wg? wg).bind fun g => g.nextCopy cq with
     | some c => s.onWg wg fun g =>
         let r := s.copyRecs g c
         g.putCopy { c with st := .stalled, recs := [r.1, r.2] }
     | none => s)
  | .matrix id =>
    (match s.wale? id, (s.wale? id).bind fun w => s.wg? w.wg with
     | some w, some g =>
       (match w.mq with
        | m :: _ =>
          let s := if m.kind = .mstore then
            (s.mstoreStep w g m).2.onHead id fun o => { o with vals := m.tileBits g } else s
          s.onWale id fun w => w.stallHead true
        | [] => s)
     | _, _ => s)
  | .bank id => s.setBank id .stalled
  | .slew => { s with slew := { s.slew with stalled := true } }
  | .image id => { s with images := s.images.map fun i => if i.id == id then { i with stalled := true } else i }

/-- ENGINE_TRANSLATION_FAULT (R259, R339): the access stalls its queue or program, and a record of kind 0x01 is written. -/
def execEngineTranslationFault (a : EngAcc) (s : State) : Host.Outcome State Fault Refusal :=
  match s.engMiss a with
  | none => .next s
  | some m => .next ((s.stallEng a).pushFault ⟨m.record s.clk, some a, false⟩)

/-- A retry takes the access up again; a bank program whose base row is mapped by now has its unit (R209, R339). -/
def State.retryEng (s : State) (a : EngAcc) : State :=
  match a with
  | .copy wg cq =>
    (match (s.wg? wg).bind fun g => g.stalledCopy cq with
     | some c => s.onWg wg fun g => g.putCopy { c with st := .ready }
     | none => s)
  | .matrix id => s.onWale id fun w => w.stallHead false
  | .bank id => (match s.bank? id with | some b => if b.st == .stalled then s.putBank (s.settleUnit { b with st := .running } (72 * b.die)) else s | none => s)
  | .slew => { s with slew := { s.slew with stalled := false } }
  | .image id => { s with images := s.images.map fun i => if i.id == id then { i with stalled := false } else i }

/-- An STFOLD that is refused may have made its reservation and written any of its words (R199): free choices (log 6). A slot
it has reserved is never passed. -/
def State.foldAbandon (s : State) (w : Wale) (g : Workgroup) (m : MOp) : State :=
  let log := m.rec' 0
  let nent := s.logGet (dieOf w.core) w.ctx log 4
  let n := s.free
  let words (s : State) (seq : Nat) : State :=
    let base := 64 + 16448 * (seq % max 1 nent)
    let ws := foldEntry g w.core m seq
    (ws.zip (List.range ws.length)).foldl (fun s p =>
      if Config.freeChoice (n + 1 + p.2) 2 % 2 = 1 then s.logPut w.ctx w.core log (base + p.2) p.1 else s) s
  let s1 := match m.resv with
    | some seq => if m.next = 0 then words s seq else s
    | none =>
      let seq := s.logGet (dieOf w.core) w.ctx log 3
      let open' := (s.foldMiss (dieOf w.core) w.ctx log [1, 2, 3, 4]).isNone && nent != 0 &&
        (seq + 2 ^ 32 - s.logGet (dieOf w.core) w.ctx log 1) % 2 ^ 32 != nent
      if open' && Config.freeChoice n 2 % 2 == 1 then words (s.logPut w.ctx w.core log 3 ((seq + 1) % 2 ^ 32)) seq else s
  { s1 with free := n + 16449 }.abandonMq w.id

/-- A refusal abandons the access (R199, R204, R213, R339, R352, R384). -/
def State.refuseEng (s : State) (a : EngAcc) : State :=
  match a with
  | .copy wg cq =>
    (match s.wg? wg with
     | some g => (match g.stalledCopy cq with | some c => s.refuseCopy g c | none => s)
     | none => s)
  | .matrix id =>
    (match s.wale? id with
     | none => s
     | some w =>
       match w.mq, s.wg? w.wg with
       | m :: _, some g =>
         if !m.stalled then s else if m.kind = .mstore then s.mstoreAbandon w g m else s.foldAbandon w g m
       | _, _ => s)
  | .bank id => (match s.bank? id with | some b => if b.st == .stalled then s.faultBank b else s | none => s)
  | .slew => if s.slew.stalled && s.slew.st == .pulling then s.slewHalt 2 else s
  | .image id =>
    (match s.images.find? fun i => i.id == id with
     | some i =>
       if i.stalled then
         { s with images := s.images.filter fun x => x.id != id }.pendOn i.wale ⟨.engineFault, 4, i.insn, none⟩
       else s
     | none => s)

/-! ### The fault ring (R340) -/

/-- A retry re-walks its access: no cached leaf of the page serves it (R337, R339). -/
def State.dropLeaf (s : State) (ctx va : Nat) : State :=
  { s with tlbs := s.tlbs.filter fun e => !(e.ctx == ctx && decide (e.page ≤ va) && decide (va < e.page + e.size)) }

/-- Answer the record at position `n` of those not consumed, when it is an unanswered translation fault. -/
def State.answerAt (s : State) (n : Nat) (refuse : Bool) : State :=
  match s.faultRing[n]? with
  | none => s
  | some r =>
    match r.acc with
    | none => s
    | some a =>
      if r.answered then s
      else
        let s := { s with faultRing := setNth s.faultRing n { r with answered := true } }
        if refuse then s.refuseEng a else (s.dropLeaf (field r.data 503 497) (field r.data 255 204)).retryEng a

/-- A write of FAULTRES (R329): the record of a slot is answered. -/
def State.faultRes (s : State) (v : W64) : State :=
  s.answerAt ((field v 7 0 + 256 - s.faultHead % 256) % 256) (v.getLsbD 8)

/-- FAULT_RETRY (R339): FAULTRES with bit 8 clear. -/
def execFaultRetry (v : W64) (s : State) : Host.Outcome State Fault Refusal := fin (s.faultRes v)
/-- FAULT_REFUSE (R339, R384): FAULTRES with bit 8 set. -/
def execFaultRefuse (v : W64) (s : State) : Host.Outcome State Fault Refusal := fin (s.faultRes v)

/-- FAULTHEAD (R340): the records passed are consumed, and an unanswered translation fault among them is
refused. A value that would pass FAULTTAIL changes nothing. -/
def execFaultHead (v : W64) (s : State) : Host.Outcome State Fault Refusal :=
  let k := (field v 31 0 + 2 ^ 32 - s.faultHead % 2 ^ 32) % 2 ^ 32
  if s.faultTail < s.faultHead + k then .next s
  else
    let s := (List.range k).foldl (fun s n => s.answerAt n true) s
    fin { s with faultHead := s.faultHead + k, faultRing := s.faultRing.drop k }

/-- FAULTQ (R340): the ring stands at the new address, and both counters start at 0. -/
def execFaultQ (v : W64) (s : State) : Host.Outcome State Fault Refusal :=
  .next { (s.setReg 0x3100 v) with faultHead := 0, faultTail := 0, faultRing := [] }

/-- The record with the clk at which it is written (R358). -/
def FaultRec.writtenAt (r : FaultRec) (clk : Nat) : FaultRec := { r with data := setField r.data 191 128 clk }

/-- A held record can be written: a slot is free (R340). -/
def State.faultSpace (s : State) : Bool := !s.faultHeld.isEmpty && decide (s.faultTail - s.faultHead < 256)

/-- FAULT_RECORD_WRITE (R340, R358): the oldest held record is written once a slot is free, its TIME that of the writing. -/
def execFaultRecordWrite (s : State) : Host.Outcome State Fault Refusal :=
  match s.faultHeld with
  | [] => .next s
  | r :: rest =>
    if s.faultTail - s.faultHead ≥ 256 then .next s
    else
      let t := { s with faultHeld := [] }.pushFault (r.writtenAt s.clk)
      .next { t with faultHeld := rest }

end Sys2Proof.Machine
end

