-- ==== Sys2Proof/Machine/Host.lean ====
section
/-!
DEFINITION. Sys2Proof/Machine/Host.lean: the debugger (R371, R372), spare cores (R360), the BAR 0 registers
(R329, R354), host and peer accesses (R226, R330, R331, R380), and the retry links (R332 to R334).
-/
namespace Sys2Proof.Machine

/-! ### Addresses that span pages -/

/-- The pieces of `n` bytes from an address that lie in one 64 KiB page each: address and length. -/
def pieces : Nat → Nat → Nat → List (Nat × Nat)
  | 0, _, _ => []
  | _, _, 0 => []
  | k + 1, a, n =>
    let m := min n (65536 - a % 65536)
    (addr52 a, m) :: pieces k (a + m) (n - m)

/-- The pieces of a range. -/
def piecesOf (a n : Nat) : List (Nat × Nat) := pieces (n / 65536 + 2) a n

/-- A write at its home slices by an agent outside the dies (R246, R330). -/
def State.homeWrite (s : State) (l : Nat) (bs : List Byte) : State := (s.writeLoc l bs).putRels l bs.length []

/-! ### The debugger (R371, R372) -/

/-- The wale that DBGWALE and a DBGCMD word name (R367, R372). -/
def State.dbgTarget (s : State) (v : W64) : Option Wale :=
  let n := s.reg dbgWale
  s.wales.find? fun w => w.kind == .wale && w.ctx == field v 6 0 && w.windex == field v 11 8 &&
    s.nameOf w == (field n 31 0, field n 63 32)

/-- The wale is in trap entry (R251): its handler's first interval is not yet staged. -/
def Wale.entering (w : Wale) (clk : Nat) : Bool :=
  w.entry || (w.trapping && (match w.staging with | .done => false | .until k => decide (clk < k) | .none => w.interval.isSome | .waiting => true))

/-- DBG_STOP (R371, R372): the wale stops at an instruction boundary; a stop requested during trap entry lands after it, DBGST
reading 1, busy, until then. -/
def execDbgStop (v : W64) (s : State) : Host.Outcome State Fault Refusal :=
  match s.dbgTarget v with
  | none => .next (s.dbgDone 3)
  | some w =>
    if w.dbg then .next (s.dbgDone 2)
    else if w.entering s.clk then .next ((s.putWale { w with stopReq := true }).dbgDone 1)
    else fin ((s.debugStop w 0x03).dbgDone 2)

/-- The kind word of the mask stack (R140). -/
def kindWord (l : List MaskLevel) : Nat :=
  (l.reverse.zip (List.range 16)).foldl (fun n p =>
    n + (match p.1.kind with | .ifK => 0 | .elseK => 1 | .loopK => 2 | .callK => 3) * 4 ^ p.2) 0

/-- A meld entry with the fields of R149. -/
def meldBits (e : MeldEntry) : Nat :=
  e.saved.toNat * 2 ^ 72 + e.fb.toNat * 2 ^ 40 + e.fa.toNat * 2 ^ 8 + e.sd % 32 * 8 + e.qn % 8

/-- The dump of a stopped wale (R372): its earlier fixed-latency results are in. -/
def Wale.dump (w : Wale) : List Byte :=
  let w := w.settleAll
  let words (n : Nat) (f : Nat → Nat) : List Byte := (List.range n).flatMap fun i => leBytes 4 (f i)
  let levels := w.masks.reverse
  let melds := w.melds.reverse
  leBytes 8 (addr52 w.pc) ++ leBytes 4 w.exm.toNat ++ leBytes 4 w.live.toNat ++
    ((List.range 12).flatMap fun k => leBytes 1 (w.flag k)) ++
    leBytes 4 (kindWord w.masks) ++ leBytes 4 w.masks.length ++ leBytes 4 w.melds.length ++
    leBytes 8 (clauseWord w.clause w.pc) ++ leBytes 16 0 ++
    words 16 (fun i => match levels[i]? with | some l => l.mask.toNat | none => 0) ++
    ((List.range 3).flatMap fun i => leBytes 16 (match melds[i]? with | some e => meldBits e | none => 0)) ++ leBytes 16 0 ++
    words 8 (fun q => (mGet 0 w.q q).toNat) ++ words 8 (fun l => (mGet 0 w.seeds l).toNat) ++
    words 64 (fun n => (mGet 0 w.s n).toNat) ++
    ((List.range 8).flatMap fun x => threads.flatMap fun t => leBytes 1 (mGet 0 w.x (x * 32 + t)).toNat) ++
    ((List.range 128).flatMap fun i =>
      leBytes 1 ((mGet Ty.raw w.tags (2 * i)).code + 16 * (mGet Ty.raw w.tags (2 * i + 1)).code)) ++ leBytes 128 0 ++
    words (32 * w.budget) (fun i => (mGet 0 w.v i).toNat)

/-- Write bytes at a context's address, page by page; a piece whose page cannot be written is left out. -/
def State.putVirtual (s : State) (ctx : Nat) (tgt : Option Nat) (va : Nat) (bs : List Byte) : State :=
  ((piecesOf va bs.length).foldl (fun (p : State × List Byte) x =>
    let now := p.2.take x.2
    (match p.1.xlate ctx tgt .w x.1 with
     | .ok l => p.1.homeWrite l now
     | .bad _ => p.1
     | .absent => { p.1 with absentHit := true }, p.2.drop x.2)) (s, bs)).1

/-- DBG_DUMP (R372): the state of a stopped wale is written at DBGBUF. -/
def execDbgDump (v : W64) (s : State) : Host.Outcome State Fault Refusal :=
  match s.dbgTarget v with
  | none => .next (s.dbgDone 3)
  | some w =>
    if !w.dbg then .next (s.dbgDone 4)
    else fin ((s.putVirtual w.ctx none (field (s.reg dbgBuf) 51 0 / 64 * 64) w.dump).dbgDone 2)

/-- DBG_RESUME (R372): the wale goes on, its first instruction whatever the breakpoints. -/
def execDbgResume (v : W64) (s : State) : Host.Outcome State Fault Refusal :=
  match s.dbgTarget v with
  | none => .next (s.dbgDone 3)
  | some w =>
    if !w.dbg then .next (s.dbgDone 4)
    else .next ((s.putWale { w with dbg := false, resume := true, held := none, nextIssue := max w.nextIssue s.clk }).dbgDone 2)

/-- BREAKPOINT_STOP (R371): a wale about to issue an instruction at an enabled breakpoint stops before it. -/
def execBreakpointStop (id : Nat) (s : State) : Host.Outcome State Fault Refusal :=
  match s.wale? id with
  | none => .next s
  | some w => if s.eligible w && s.breaks w then fin (s.debugStop w 0x02) else .next s

/-- A write of DBGCMD (R372); OP 0 starts no command. -/
def State.dbgCommand (s : State) (v : W64) : Host.Outcome State Fault Refusal :=
  let s := s.setReg (mgmt 4 0x8008) v
  match field v 13 12 with
  | 1 => execDbgStop v s
  | 2 => execDbgDump v s
  | 3 => execDbgResume v s
  | _ => .next s

/-! ### Leaves of the attestation key (R377) and spares (R360) -/

/-- Take one leaf of the attestation key, reserving the next block when none is left; none when the key is exhausted. -/
def State.takeLeaf (s : State) : Option State :=
  if 0 < s.leavesLeft then some { s with leavesLeft := s.leavesLeft - 1 }
  else if s.nextBlk < 2 ^ 20 then some { s with nextBlk := s.nextBlk + 1, leavesLeft := 1023 }
  else none

/-- The built core that serves a core id (R360): 80 stands for none. -/
def PartRec.built (p : PartRec) (c : Nat) : Nat := mGet (c % Config.coresPerDie) p.cores c

/-- The first unused spare of a die: above every built core that an id of the die maps to (R360); none when all 80 are used. -/
def PartRec.spare (p : PartRec) (d : Nat) : Option Nat :=
  let used := (List.range Config.coresPerDie).foldl (fun n i =>
    let b := p.built (Config.coresPerDie * d + i)
    if b < 80 then max n (b + 1) else n) Config.coresPerDie
  if used < 80 then some used else none

/-- The bytes of a part record in flash. -/
def PartRec.bytes (p : PartRec) : List Byte := Config.partBytes p.cores p.repair p.trims

/-- A message is signed with a leaf of the attestation key (R377): the leaf's number, the signature, and the leaf used up; none
when the key is exhausted. -/
def State.signLeaf (s : State) (message : List Byte) : Option (Nat × HssSig × State) :=
  s.takeLeaf.map fun t =>
    let leaf := 1024 * (t.nextBlk - 1) + (1023 - t.leavesLeft)
    (leaf, { levels := keyLevels, bytes := Config.leafSignature leaf message }, t)

/-- SPAREREQ (R360, R377): the core is removed and its work leaves it. The new part record, signed with a leaf of the device's
key, maps the id to an unused spare of its die, and the register reads 0. With no spare, or no leaf to sign with, it reads 1,
and the id is marked absent from the next boot on (log 84). -/
def execSparereq (v : W64) (s : State) : Host.Outcome State Fault Refusal :=
  let c := v.toNat
  if !s.corePresent c then .next s
  else
    let s1 : State := { (s.leaveCores (· == c)) with absent := c :: s.absent }
    let part (n : Nat) : PartRec := { s1.part with cores := mPut s1.part.cores c n }
    let none' : State := { (s1.setReg (mgmt 4 0x9000) 1) with lost := c :: s1.lost }
    .next (match s1.part.spare (dieOf c) with
      | none => none'
      | some n => match s1.signLeaf (part n).bytes with
        | none => none'
        | some (_, sig, t) => { (t.setReg (mgmt 4 0x9000) 0) with part := part n, partSig := sig })

/-! ### Flash and the boot's registers (R374 to R376) -/

/-- FBCLR (R375): a write of 1 sets BOOTCNT to 0 in flash. -/
def execFbclr (v : W64) (s : State) : Host.Outcome State Fault Refusal :=
  if v = 1 ∧ (s.boot = .minimal ∨ s.boot = .bringUp ∨ s.boot = .running) then .next { s with bootCnt := 0 } else .next s

/-- BOOTOK (R374): the firmware writes 1 in Bring-up, and the package runs. -/
def execBootOk (v : W64) (s : State) : Host.Outcome State Fault Refusal :=
  if v = 1 ∧ s.boot = .bringUp then .next { s with boot := .running, bootCnt := 0 } else .next s

/-! ### BAR 0 (R329, R354) -/

/-- Whether an offset of an observation block names a counter (R370). -/
def isCounter (off : Nat) : Bool :=
  let o := off % 0x100
  decide (off < Config.obsBase + 0x1000 * Config.numCores) && o % 8 == 0 && decide (o < 0xF8) && !(decide (0xE0 ≤ o) && decide (o < 0xE8))

/-- The value that a read of a BAR 0 register gives (R329, R354, R370, R376): an offset that names none reads as zero. -/
def State.regRead (s : State) (off : Nat) : W64 :=
  if off = 0 then BitVec.ofNat 64 idReg
  else if off = 0x3008 then (if s.inval.isNone then 1 else 0)
  else if off = 0x3110 then BitVec.ofNat 64 (s.faultHead % 2 ^ 32)
  else if off = 0x3118 then BitVec.ofNat 64 (s.faultTail % 2 ^ 32)
  else if off = 0x3210 then (if s.predone then 1 else 0)
  else if off = mgmt 4 0xA000 then
    s.report + BitVec.ofNat 64 (s.bootCnt * 16 + if s.boot = .minimal then 1 else 0)
  else if Config.obsBase ≤ off then
    if isCounter off then mGet 0 s.obs off + (if off % 0x100 = 0 ∨ off % 0x100 = 0x88 then BitVec.ofNat 64 s.clk else 0) else 0
  else s.reg off

/-- An offset is that of element `n` below `count` of an array of registers. -/
def inArray (off base stride count : Nat) : Option Nat :=
  if base ≤ off ∧ (off - base) % stride = 0 ∧ (off - base) / stride < count then some ((off - base) / stride) else none

/-- Writes of the management blocks (R354, R359, R367, R372): device fields are not written. -/
def State.mgmtWrite (s : State) (off : Nat) (v : W64) : Host.Outcome State Fault Refusal :=
  let d := (off - Config.mgmtBase) / Config.mgmtStride
  let o := (off - Config.mgmtBase) % Config.mgmtStride
  if 5 ≤ d ∨ o % 8 ≠ 0 then .next s
  else if 16 ≤ o ∧ o < 176 ∨ o = 0x1000 ∨ o = 0x1010 then .next (s.setReg off v)
  else if o = 0x1008 then .next (if 8 ≤ v.toNat ∧ v.toNat ≤ 24 then s.setReg off v else s)
  else if d ≠ 4 then .next s
  else if (inArray o 0x2000 8 128).isSome then .next (s.setReg off (v &&& 3))
  else if (inArray o 0x3000 8 512).isSome then .next (s.setReg off (BitVec.ofNat 64 (field v 51 3 * 8 + field v 0 0)))
  else if o = 0x8000 ∨ o = 0x8010 then .next (s.setReg off v)
  else if o = 0x8008 then s.dbgCommand v
  else if o = 0x9000 then execSparereq v s
  else if o = 0xA008 then execFbclr v s
  else if o = 0xA010 then execBootOk v s
  else .next s

/-- REGISTER_WRITE (R5, R329, R354): system software writes a BAR 0 register; reads-only and unlisted ones ignore it, and a
package that is off takes no access (R374). -/
def execRegisterWrite (off : Nat) (v : W64) (s : State) : Host.Outcome State Fault Refusal :=
  if s.boot = .off then .next s
  else if Config.obsBase ≤ off then
    .next (if isCounter off then
      { s with obs := mSet 0 s.obs off (v - (if off % 0x100 = 0 ∨ off % 0x100 = 0x88 then BitVec.ofNat 64 s.clk else 0)) }
      else s)
  else if Config.mgmtBase ≤ off then s.mgmtWrite off v
  else if (inArray off 0x100 16 256).isSome || (inArray off 0x2000 8 128).isSome || off == 0x4000 || off == 0x5000 then
    .next (s.setReg off v)
  else if off = 0x3000 then execTlbinv v s
  else if off = 0x3100 then execFaultQ v s
  else if off = 0x3108 then fin (s.faultRes v)
  else if off = 0x3110 then execFaultHead v s
  else if off = 0x3200 then execPreempt v s
  else if off = 0x3208 then execResume v s
  else if off = 0x3D00 then execWvreset v s
  else match inArray off 0x3400 8 128, inArray off 0x3800 8 128, inArray off 0x3C80 8 4 with
    | some c, _, _ => execCtxrec c v s
    | _, some n, _ => if n % 8 < 5 then execPartWrite (n / 8) (n % 8) v s else .next s
    | _, _, some d => execCssplit d v s
    | _, _, _ => .next s

/-! ### Host accesses (R328, R330, R375, R380) -/

/-- The context of WBASE. -/
def State.hostCtx (s : State) : Nat := field (s.reg 0x4000) 63 57
/-- The address that an offset of BAR 4 shows. -/
def State.hostVa (s : State) (off : Nat) : Nat := addr52 (field (s.reg 0x4000) 51 0 + off)
/-- In minimal mode BAR 4 shows only HBM (R375). -/
def State.hostTgt (s : State) : Option Nat := if s.boot = .minimal then some 0 else none

/-- The dies that home a range wake. -/
def State.rouseRange (s : State) (ctx : Nat) (p : Perm) (va n : Nat) : State :=
  (piecesOf va n).foldl (fun s x => match s.xlate ctx none p x.1 with | .ok l => s.rouse l | _ => s) s

/-- HOST_BAR4_WRITE (R328, R330, R331): a posted write through the view of WBASE; bytes of a page that cannot be
written are dropped (log 70). -/
def execHostBar4Write (off : Nat) (data : List Byte) (s : State) : Host.Outcome State Fault Refusal :=
  if 2 ^ 40 < off + data.length ∨ s.boot = .off then .next s
  else
    let va := s.hostVa off
    fin ((s.rouseRange s.hostCtx .w va data.length).putVirtual s.hostCtx s.hostTgt va data)

/-- The bytes at a context's address, page by page; those of a page that cannot be read are free values (log 70). -/
def State.getVirtual (s : State) (ctx : Nat) (tgt : Option Nat) (va n : Nat) : List Byte :=
  (piecesOf va n).flatMap fun x =>
    match s.xlate ctx tgt .r x.1 with
    | .ok l => s.bytesAt l x.2
    | _ => (List.range x.2).map fun i => (Config.freeWord (s.free + (x.1 + 2 ^ 52 - addr52 va) % 2 ^ 52 + i)).truncate 8

/-- HOST_BAR4_READ (R330): every earlier posted write has been performed, so the read gives memory as it stands. -/
def execHostBar4Read (off n : Nat) (s : State) : Host.Outcome State Fault Refusal :=
  if 2 ^ 40 < off + n ∨ s.boot = .off then .next s
  else
    let va := s.hostVa off
    let absent := (piecesOf va n).any fun x => s.xlate s.hostCtx s.hostTgt .r x.1 == .absent
    let s := s.rouseRange s.hostCtx .r va n
    fin { s with hostRead := s.getVirtual s.hostCtx s.hostTgt va n, free := s.free + n, absentHit := s.absentHit || absent }

/-! ### Accesses of peer packages (R226, R331) -/

/-- The valid context that carries a job. -/
def State.jobCtx (s : State) (job : Nat) : Option Nat :=
  if job = 0 then none else (List.range 128).find? fun c => s.ctxExists c && s.job c == job

/-- Where a peer's access goes, with every permission it needs; none when it fails, and the failure returns to the peer. -/
def State.peerLoc (s : State) (ctx : Nat) (ps : List Perm) (va : Nat) : Xl :=
  match s.walk ctx va with
  | none => .bad .xlate
  | some l => if ps.all l.grants then s.place l va else .bad .access

/-- The answer to a peer's access: what was read, or the cause of a failure (R226, R336). -/
def State.answerPeer (s : State) (bs : List Byte) (f : Option Cause) : State := { s with hostRead := bs, peerFail := f }

/-- An atomic of a peer at its home: the old word is the answer. -/
def State.peerAtomic (s : State) (ctx va : Nat) (f : W32 → W32) : State :=
  match s.peerLoc ctx [.r, .w] va with
  | .ok l =>
    if locDevice l then
      let old : W32 := BitVec.ofNat 32 (s.natAt l 4)
      let infos := mGet [] s.rels l
      let s := (s.rouse l).homeWrite l (leBytes 4 (f old).toNat)
      { s with rels := mSet [] s.rels l infos }.answerPeer (leBytes 4 old.toNat) none
    else s.answerPeer [] (some .access)
  | .bad c => s.answerPeer [] (some c)
  | .absent => { s with absentHit := true }

/-- The first of a list of places that fails: its cause. -/
def Xl.firstBad (l : List Xl) : Option Cause := l.findSome? fun x => match x with | .bad c => some c | _ => none

/-- PEER_ACCESS (R226): translated and performed at its home in the context whose JOB it carries, under stamp entry 4; a
failure is answered with its cause (R336). -/
def execPeerAccess (job va : Nat) (op : PeerOp) (s : State) : Host.Outcome State Fault Refusal :=
  match s.jobCtx job with
  | none => .next (s.answerPeer [] (some .access))
  | some c =>
    match op with
    | .read n =>
      let xs := (piecesOf va n).map fun x => s.peerLoc c [.r] x.1
      if xs.contains .absent then fin { s with absentHit := true }
      else match Xl.firstBad xs with
        | some f => .next (s.answerPeer [] (some f))
        | none => .next ((s.rouseRange c .r va n).answerPeer (s.getVirtual c none va n) none)
    | .write bs =>
      let xs := (piecesOf va bs.length).map fun x => s.peerLoc c [.w] x.1
      if xs.contains .absent then fin { s with absentHit := true }
      else match Xl.firstBad xs with
        | some f => .next (s.answerPeer [] (some f))
        | none => .next (((s.rouseRange c .w va bs.length).putVirtual c none va bs).answerPeer [] none)
    | .swap cmp v => fin (s.peerAtomic c (addr52 va) fun old =>
        match cmp with | some x => if old = x then v else old | none => v)
    | .add v => fin (s.peerAtomic c (addr52 va) (· + v))

/-- The PCI Express Relaxed Ordering bit that a space-5 access of the device carries (R330). -/
def Req.relaxed (q : Req) : Bool := q.space == 5 && q.acls == .wk

/-! ### Retry links (R332 to R334) -/

/-- A link before its first flit. -/
def Link.fresh : Link := { expect := 0, acked := 0, replays := 0, down := false }
/-- A port's link. -/
def State.link (s : State) (port : Nat) : Link := (mFind s.links port).getD Link.fresh
/-- Change a port's link. -/
def State.putLink (s : State) (port : Nat) (l : Link) : State := { s with links := mSet Link.fresh s.links port l }

/-- The pairs of compute dies that a link joins (R9): ports 36 to 41, in this order (log 125). -/
def diePairs : List (Nat × Nat) := [(0, 1), (0, 2), (0, 3), (1, 2), (1, 3), (2, 3)]

/-- The dies that a port joins (R9): a Brynzen port its die and the fabric; ports 36 to 41 two compute dies, ports 42 to 45
compute die 0 to 3 and the I/O die, numbered 4 here (log 125). -/
def portDies (port : Nat) : Nat × Nat :=
  if port < 36 then (port / 9, 5)
  else if port < 42 then diePairs.getD (port - 36) (0, 1)
  else (port - 42, 4)

/-- The structure code of a port and the die that counts for it (R355, R359): Brynzen for 0 to 35, on its die; die-to-die above,
on the lower die of the pair. The links of the compute dies to the I/O die keep the rules of R333 too and count as structure 9
on the I/O die (log 87). -/
def portStruct (port : Nat) : Nat × Nat :=
  if port < 36 then (8, port / 9) else if port < 42 then (9, (portDies port).1) else (9, 4)

/-- The peer has received every flit before `seq` in order. -/
def Link.ackTo (l : Link) (seq : Nat) : Link :=
  if seq % 4096 = l.acked then l else { l with acked := seq % 4096, replays := 0 }

/-- The CRC of a flit: CRC-32C over the header's bytes but those of the field, then the data beats (R332, log 126). -/
def flitCrc (hdr : BitVec 512) (data : List (BitVec 512)) : Nat :=
  let h := leBytes 64 hdr.toNat
  (crc32c (h.take 12 ++ h.drop 16 ++ data.flatMap fun b => leBytes 64 b.toNat)).toNat

/-- A flit's CRC is right and its beats are as many as it says; `intact` is false where its bits were changed on the way. -/
def flitGood (hdr : BitVec 512) (data : List (BitVec 512)) (intact : Bool) : Bool :=
  let n := field hdr 57 55
  intact && field hdr 127 96 == flitCrc hdr data && decide (n ≤ 4) && data.length == n

/-- FLIT_RECEIVE (R332, R333): a flit with the right CRC, a legal beat count and the expected SEQ is accepted; any
other is discarded, and a NAK names the expected SEQ. -/
def execFlitReceive (port : Nat) (hdr : BitVec 512) (data : List (BitVec 512)) (crcOk : Bool) (s : State) :
    Host.Outcome State Fault Refusal :=
  let l := s.link port
  if l.down then .next s
  else if !flitGood hdr data crcOk || field hdr 54 43 != l.expect then .next (s.putLink port { l with nak := some l.expect })
  else .next (s.putLink port ({ l with expect := (l.expect + 1) % 4096, nak := none }.ackTo (field hdr 42 31 + 1)))

/-- NAK_RECEIVE (R333, R355): the sender replays from the SEQ named, which the peer has received up to. -/
def execNakReceive (port seq : Nat) (s : State) : Host.Outcome State Fault Refusal :=
  let l := (s.link port).ackTo seq
  if l.down then .next s
  else
    let (st, d) := portStruct port
    .next ((s.putLink port { l with replays := l.replays + 1 }).countCorr d st)

/-- An access of an agent of die `d` to a location passes over a port (R9, R232): a space-6 one leaves by Brynzen
port 9d, a host one goes over the die's link to the I/O die, and one homed on another die goes over the link of the two. -/
def crosses (port d space l : Nat) : Bool :=
  if port < 36 then space == 6 && 9 * d == port
  else if port < 42 then locDevice l && (portDies port == (d, homeDie l d) || portDies port == (homeDie l d, d))
  else space == 5 && portDies port == (d, 4)

/-- What a containment record says of an access of a workgroup's engine. -/
def Workgroup.errAt (g : Workgroup) (va : Nat) (h : Option Nat) : ErrAt := { ctx := g.ctx, core := g.core, slot := 127, va := va, handle := h }

/-- The queued accesses outstanding over a port, prefetches and locks among them (R169, R180, R333). -/
def State.reqsOver (s : State) (port : Nat) : List ErrAt :=
  (s.reqs.filterMap fun q =>
    (if q.open' then q.elems.find? fun e => !e.done && !e.zero && crosses port q.die q.space e.loc else none).map (s.errAt q)) ++
  s.wales.filterMap fun w =>
    match w.lockPlace with
    | some (l, va) => if crosses port (dieOf w.core) 0 l then some { ctx := w.ctx, core := w.core, slot := w.slot, va := va } else none
    | none => none

/-- A running copy has an access outstanding over a port: the first of them (R224, R333, R334). -/
def State.copyOver (s : State) (port : Nat) (g : Workgroup) (c : Copy) : Option ErrAt :=
  let r := s.copyRecs g c
  ((s.copyCoords g c).zip (s.copyPairs g c)).findSome? fun x =>
    let goes (r : LRec) (e : CopyEnd) : Bool := match e with
      | .at' (.ok l) _ => crosses port (dieOf g.core) (lSpace r) l
      | _ => false
    if goes r.1 x.2.1 then some (g.errAt (lAddr r.1 x.1.1).toNat (some c.hd))
    else if goes r.2 x.2.2 then some (g.errAt (lAddr r.2 x.1.2).toNat (some c.hs))
    else none

/-- A running checkpoint writes to a target over a port, space-5 targets over the I/O die's own attachment (R333, R362). -/
def State.ckptOver? (s : State) (port : Nat) : Option ErrAt :=
  s.ckpt.bind fun c => ((s.targets c).getD []).findSome? fun t =>
    match t.pkg with
    | some (_, p) => if p = port then some { ctx := c.ctx, core := 0x1FF, slot := 127, va := addr52 t.va } else none
    | none => none

/-- The accesses outstanding over a port (R226, R232, R333, R334). -/
def State.overPort (s : State) (port : Nat) : List ErrAt :=
  let copies := s.wgs.flatMap fun g => (g.copies.filter fun c => c.st == .running).filterMap (s.copyOver port g)
  let images := s.images.filterMap fun i => match s.imageLoc i with
    | .ok l =>
      if crosses port i.lane i.space l then
        some { ctx := i.ctx, core := (match s.wale? i.wale with | some w => w.core | none => 0x1FF)
               slot := 127, va := i.va, handle := some i.handle }
      else none
    | _ => none
  s.reqsOver port ++ copies ++ images ++ (s.ckptOver? port).toList

/-- A link goes down (R333, R355): every context with an access outstanding over it stops with a record of kind 0x12, and a
package that the slew engine reaches over it is unreachable. -/
def State.downLink (s : State) (port : Nat) : State :=
  let l := s.link port
  let (st, d) := portStruct port
  let s1 := if l.down then s else (s.putLink port { l with down := true }).countUncorr d st
  let s2 : State :=
    if s1.slew.st == .pulling && s1.slewCut s1.slew.current then { s1 with slew := { s1.slew with dead := true } } else s1
  (s.overPort port).foldl (fun s x =>
    s.stopCtx x.ctx (withHandle (mkRecord 0x12 x.ctx st x.core x.slot (port % 64) x.va s.clk) x.handle)) s2

/-- LINK_DOWN (R333): after 32 replays without progress the link is down. -/
def execLinkDown (port : Nat) (s : State) : Host.Outcome State Fault Refusal :=
  let l := s.link port
  if !l.down && decide (l.replays < 32) then .next s else .next (s.downLink port)

/-- Links that have made 32 replays go down, and an access that comes over one that is down stops its context (R333). -/
def State.linkClk (s : State) : State :=
  (s.links.filter fun p => p.2.down || decide (32 ≤ p.2.replays)).foldl (fun s p => s.downLink p.1) s

end Sys2Proof.Machine
end

