-- ==== Sys2Proof/Machine/Sha.lean ====
section
/-!
DEFINITION. Sys2Proof/Machine/Sha.lean: SHA-256, which R373 and R377 name, as FIPS 180-4 gives it (log 85).
-/
namespace Sys2Proof.Machine

/-- The largest number whose `k`-th power is at most `n`, below 2^40. -/
def rootOf (k n : Nat) : Nat :=
  (List.range 40).reverse.foldl (fun r b => if (r + 2 ^ b) ^ k ≤ n then r + 2 ^ b else r) 0

/-- The first 64 primes. -/
def shaPrimes : List Nat := (List.range 312).filter fun n => decide (2 ≤ n) && (List.range n).all fun d => d < 2 || n % d != 0

/-- The first 32 bits of the fractional part of the `k`-th root of a prime. -/
def rootFrac (k p : Nat) : W32 := BitVec.ofNat 32 (rootOf k (p * 2 ^ (32 * k)))

/-- The round constants. -/
def shaK : List W32 := shaPrimes.map (rootFrac 3)
/-- The initial hash value. -/
def shaInit : List W32 := (shaPrimes.take 8).map (rootFrac 2)

/-- The padded message. -/
def shaPad (m : List Byte) : List Byte :=
  let n := m.length
  m ++ [0x80] ++ List.replicate ((119 - n % 64) % 64) 0 ++ (leBytes 8 (8 * n)).reverse

/-- Word `i` of a block, big-endian. -/
def beWord (b : List Byte) (i : Nat) : W32 := BitVec.ofNat 32 (leNat (((b.drop (4 * i)).take 4).reverse))

/-- The message schedule of a block. -/
def shaSchedule (b : List Byte) : List W32 :=
  (List.range 48).foldl (fun w i =>
    let g (k : Nat) : W32 := w.getD (i + k) 0
    let s0 := (g 1).rotateRight 7 ^^^ (g 1).rotateRight 18 ^^^ (g 1 >>> 3)
    let s1 := (g 14).rotateRight 17 ^^^ (g 14).rotateRight 19 ^^^ (g 14 >>> 10)
    w ++ [g 0 + s0 + g 9 + s1]) ((List.range 16).map (beWord b))

/-- One round on the working variables a to h. -/
def shaRound (v : List W32) (k w : W32) : List W32 :=
  let g (i : Nat) : W32 := v.getD i 0
  let s1 := (g 4).rotateRight 6 ^^^ (g 4).rotateRight 11 ^^^ (g 4).rotateRight 25
  let ch := (g 4 &&& g 5) ^^^ (~~~(g 4) &&& g 6)
  let t1 := g 7 + s1 + ch + k + w
  let s0 := (g 0).rotateRight 2 ^^^ (g 0).rotateRight 13 ^^^ (g 0).rotateRight 22
  let maj := (g 0 &&& g 1) ^^^ (g 0 &&& g 2) ^^^ (g 1 &&& g 2)
  [t1 + (s0 + maj), g 0, g 1, g 2, g 3 + t1, g 4, g 5, g 6]

/-- One block into the hash value. -/
def shaBlock (h : List W32) (b : List Byte) : List W32 :=
  let v := (shaK.zip (shaSchedule b)).foldl (fun v p => shaRound v p.1 p.2) h
  (h.zip v).map fun p => p.1 + p.2

/-- SHA-256. -/
def sha256 (m : List Byte) : List Byte :=
  let p := shaPad m
  let h := (List.range (p.length / 64)).foldl (fun h i => shaBlock h ((p.drop (64 * i)).take 64)) shaInit
  h.flatMap fun w => (leBytes 4 w.toNat).reverse

end Sys2Proof.Machine
end

