-- ==== Sys2Proof/Machine/Power.lean ====
section
/-!
DEFINITION. Sys2Proof/Machine/Power.lean: boot (R373 to R376), attestation (R377), the power states of dies
(R378 to R380) and the thermal trip (R381).
-/
namespace Sys2Proof.Machine

/-! ### Boot (R374) -/

/-- The package after power is lost or a reset: everything but flash and what lies outside the package is as at
reset, and the contents of memory are undefined. -/
def State.coldStart (s : State) : State :=
  { State.reset with
    clk := s.clk, coreReset := s.clk, agenda := s.agenda, free := s.free, nextId := s.nextId
    mem := s.mem.filter fun p => decide (2 ^ 56 ≤ p.1)
    powerEpoch := s.powerEpoch + 1, bootCnt := s.bootCnt, nextBlk := s.nextBlk, report := s.report
    part := s.part, partSig := s.partSig, lost := s.lost, firmware := s.firmware }

/-- The report with a REASON and STAGE (R376). -/
def reportWord (reason stage fwver : Nat) : W64 :=
  BitVec.ofNat 64 (reason % 256 * 2 ^ 40 + stage % 256 * 2 ^ 32 + fwver % 2 ^ 16 * 2 ^ 16)

/-- REASON, STAGE and FWVER of a report. -/
def repReason (r : W64) : Nat := field r 47 40
/-- STAGE. -/
def repStage (r : W64) : Nat := field r 39 32
/-- FWVER. -/
def repFwver (r : W64) : Nat := field r 31 16

/-- A signature has 1 or 2 levels with the typecodes of R373. -/
def sigAdmitted (g : HssSig) : Bool :=
  decide (1 ≤ g.levels.length) && decide (g.levels.length ≤ 2) && g.levels.all fun l => l.1 != .other && l.2 != .other

/-- REASON of a signature over signed bytes against public key `key` of R373: 2 for a parameter set that is not admitted, also
when it would verify, 1 when it does not verify, else 0. It is made over SHA-256 of the bytes. -/
def signFault (key : Nat) (signed : List Byte) (g : HssSig) : Nat :=
  if !sigAdmitted g then 2 else if Config.hssValid key (sha256 signed) g.bytes then 0 else 1

/-- A part record maps the ids of each die to built cores of its 80, no two to one (R360). -/
def PartRec.valid (p : PartRec) : Bool :=
  (List.range 4).all fun d =>
    let used := ((List.range Config.coresPerDie).map fun i => p.built (Config.coresPerDie * d + i)).filter (· != 80)
    (used.all fun b => decide (b < 80)) && used.eraseDups.length == used.length

/-- What the boot ROM finds as it verifies the part record against the device's own key, then the firmware against Zawald's:
REASON and STAGE of the first failure (R373, R376). -/
def State.bootFault (s : State) : Option (Nat × Nat) :=
  let p := signFault 0 s.part.bytes s.partSig
  let f := signFault 1 s.firmware.body s.firmware.sig
  if p ≠ 0 then some (p, 1)
  else if !s.part.valid then some (4, 1)
  else if f ≠ 0 then some (f, 2)
  else if Config.headerBad s.firmware.body then some (3, 2)
  else if Config.selfTestFails s.firmware.body s.clk then some (5, 2)
  else none

/-- POWER_GOOD (R373, R374, R377): power is good, or a warm reset is made; `written` is the firmware image, with its signature, that came
through the flash write window since (R375). A boot attempt counts itself, and boots into minimal mode when it is the fourth without
success; a check that fails writes REASON and STAGE and makes a warm reset, and otherwise the attempt enters Bring-up with the
part record applied. -/
def execPowerGood (written : Option (List Byte)) (levels : List (LmsCode × OtsCode)) (sig : List Byte) (s : State) : Host.Outcome State Fault Refusal :=
  if s.boot ≠ .reset then .next s
  else
    let s := match written with | some b => { s with firmware := { body := b, sig := { levels := levels, bytes := sig } } } | none => s
    let s := { s with bootCnt := min (s.bootCnt + 1) 15 }
    let old := s.report
    let fwver := Config.imageVersion s.firmware.body
    if 3 < s.bootCnt then .next { s with boot := .minimal, report := reportWord (repReason old) (repStage old) (repFwver old) }
    else match s.bootFault with
      | some (reason, stage) =>
        .next { s.coldStart with report := reportWord reason stage (if stage = 1 then repFwver old else fwver) }
      | none =>
        let reason := if 2 ^ 20 ≤ s.nextBlk then 8 else repReason old
        .next { s with
          boot := .bringUp, bootAt := s.clk, absent := s.lost ++ (List.range Config.numCores).filter fun c => s.part.built c == 80
          report := reportWord reason (repStage old) fwver }

/-- 10 s in clk (R11, R374). -/
def bootLimit : Nat := 6000000000

/-- BOOTOK_TIMEOUT (R374): 10 s in Bring-up without BOOTOK end the attempt with REASON 6. -/
def execBootOkTimeout (s : State) : Host.Outcome State Fault Refusal :=
  if s.boot ≠ .bringUp ∨ s.clk < s.bootAt + bootLimit then .next s
  else .next { s.coldStart with report := reportWord 6 3 (repFwver s.report) }

/-- POWER_LOSS (R377): flash survives, and the rest of the package does not. -/
def execPowerLoss (s : State) : Host.Outcome State Fault Refusal := .next s.coldStart

/-- THERMAL_TRIP (R374, R381): every context stops without saving, and the package stays off until power is cycled. -/
def execThermalTrip (s : State) : Host.Outcome State Fault Refusal :=
  if s.boot = .reset ∨ s.boot = .off then .next s
  else .next { s.coldStart with boot := .off, report := reportWord 7 (repStage s.report) (repFwver s.report) }

/-- What an attestation signs (R377): the requester's nonce, ID, and the SHA-256 of the firmware image and of the part record. -/
def State.attestMessage (s : State) (nonce : BitVec 256) : List Byte :=
  leBytes 32 nonce.toNat ++ leBytes 4 idReg ++ sha256 s.firmware.body ++ sha256 s.part.bytes

/-- ATTESTATION_SIGN (R377): the firmware signs with a leaf of a block that it has reserved; with no block left it refuses. -/
def execAttestationSign (nonce : BitVec 256) (s : State) : Host.Outcome State Fault Refusal :=
  if s.boot = .running ∨ s.boot = .bringUp then
    .next (match s.signLeaf (s.attestMessage nonce) with
      | some (leaf, sig, t) => { t with attested := some ⟨leaf, s.attestMessage nonce, sig⟩ }
      | none => s)
  else .next s

/-! ### Power states (R378, R379) -/

/-- The cores of a die. -/
def dieCores (d : Nat) : List Nat := (List.range Config.coresPerDie).map (Config.coresPerDie * d + ·)

/-- A valid queue's partition holds a core of a die. -/
def State.queueOnDie (s : State) (d : Nat) (x : BitVec 512) : Bool := dValid x && (dieCores d).any (s.inPart (dPart x))

/-- A die is idle (R378): no resident wale or engine work, no record to start or claim, no event, no continuation record. -/
def State.dieIdle (s : State) (d : Nat) : Bool :=
  !s.dieBusy d && (mGet [] s.dieTasks d).isEmpty && (mGet [] s.bankTasks d).isEmpty &&
    ((dieCores d).all fun c => (mGet [] s.events c).isEmpty && (mGet [] s.coreTasks c).isEmpty &&
      (mGet [] s.retired c).isEmpty && (mFind s.claims c).isNone && (mFind s.wvPend c).isNone) &&
    !(s.evHeld.any fun p => dieOf p.1 == d) &&
    s.ckpt.isNone &&
    !((List.range 256).any fun q => let x := s.desc q; s.queueOnDie d x && (s.qWork q x || s.coopWaits q x))

/-- The tolerance of a die in µs: the smallest LTOL of its queues; none is unlimited (R379). -/
def State.dieTol (s : State) (d : Nat) : Option Nat :=
  (List.range 256).foldl (fun (m : Option Nat) q =>
    let x := s.desc q
    if s.queueOnDie d x then some (match m with | some k => min k (dLtol x) | none => dLtol x) else m) none

/-- A die's tolerance allows a state (R379); C4 asks every valid queue. -/
def State.tolerates (s : State) (d : Nat) (p : PState) : Bool :=
  if p = .c4 then (List.range 256).all fun q => let x := s.desc q; !dValid x || decide (25000 ≤ dLtol x)
  else match s.dieTol d with | some k => decide (p.wakeClk ≤ k * clkPerUs) | none => true

/-- The state that a die descends to next (R379). -/
def PState.below : PState → Option PState
  | .p0 => some .c1 | .c1 => some .c2 | .c2 => some .c3 | _ => none

/-- Undefine the bytes of a range of locations, whole pages of it. -/
def State.loseRange (s : State) (lo hi : Nat) : State :=
  let ks := (List.range (hi / 4096 - lo / 4096)).map fun i => lo / 4096 + i
  { s with
    mem := mDelRange s.mem lo hi
    pageEpoch := mPutRange s.pageEpoch (lo / 4096) (ks.map fun k => mGet 0 s.pageEpoch k + 1) }

/-- What a die loses on entering a state (R378): scratchpads in C2, every SRAM but the explicit common store in C3.
Every write homed on it has been performed there. -/
def State.enterState (s : State) (d : Nat) (p : PState) : State :=
  let s := { s with power := mSet .p0 s.power d p }
  let mine (core : Nat) : Bool := dieOf core == d
  match p with
  | .p0 | .c1 => s
  | _ =>
    let s := s.flushAll.loseRange (locSpad (Config.coresPerDie * d) 0) (locSpad (Config.coresPerDie * (d + 1)) 0)
    if p = .c2 then s
    else { s with
      wales := s.wales.filter fun w => !(w.kind == .weaver && mine w.core)
      clean := s.clean.filter fun c => c.cluster / 9 != d
      tlbs := s.tlbs.filter fun e => !(e.unit == 1000 + d || (decide (e.unit < 1000) && mine e.unit)) }

/-- A die has been idle for the wake time of its next state, its tolerance allows it (R379), and before C2 every write homed on
it can be performed there (R213, R378). -/
def State.canDescend (s : State) (d : Nat) : Bool :=
  match (mGet .p0 s.power d).below, mFind s.idleSince d with
  | some p, some t =>
    decide (d < 4) && decide (t + p.wakeClk ≤ s.clk) && s.dieIdle d && (mFind s.wakeAt d).isNone &&
      s.tolerates d p && (p == .c1 || !s.flushAllHeld)
  | _, _ => false

/-- Every die is in C3 and idle, and every valid queue tolerates C4 (R379). -/
def State.canSleep (s : State) : Bool :=
  ((List.range 4).all fun k => mGet .p0 s.power k == .c3 && s.dieIdle k && (mFind s.wakeAt k).isNone) &&
    s.tolerates 0 .c4 && !s.flushAllHeld

/-- POWER_STATE_DESCEND (R379): a die that has been idle long enough for its tolerance goes one state deeper; 4 stands
for the package, which enters C4 from C3 on every die. -/
def execPowerStateDescend (d : Nat) (s : State) : Host.Outcome State Fault Refusal :=
  if d = 4 then
    if s.canSleep then .next ((List.range 4).foldl (fun s k => s.enterState k .c4) s) else .next s
  else if s.canDescend d then
    (match (mGet .p0 s.power d).below with
     | some p => .next (s.enterState d p)
     | none => .next s)
  else .next s

/-- DIE_WAKE (R380): a die at which work has arrived is in P0 again. -/
def execDieWake (d : Nat) (s : State) : Host.Outcome State Fault Refusal :=
  if (mFind s.wakeAt d).isSome then .next (s.wake d) else .next s

/-- The places that the accesses of a wale's matrix queue's head go to (R195, R321). -/
def State.matrixWants (s : State) (w : Wale) : List Nat :=
  match w.mq, s.wg? w.wg with
  | m :: _, some g =>
    match m.kind with
    | .mstore => (s.mstorePlan w g m).filterMap fun e => match e.loc with | .ok l => some l | _ => none
    | .stfold =>
      let log := m.rec' 0
      (m.foldNeeds (s.logGet (dieOf w.core) w.ctx log 4)).filterMap fun n =>
        match s.logWord (dieOf w.core) w.ctx log .w n with | .ok l => some l | _ => none
    | _ => []
  | _, _ => []

/-- The device places that requests, locks and engines are about to access: their homes wake (R380). -/
def State.wanted (s : State) : List Nat :=
  let reqs := (s.reqs.filter Req.open').flatMap fun q => (q.elems.filter fun e => !e.done && !e.zero).map Elem.loc
  let locks := s.wales.filterMap fun w => w.lockPlace.map Prod.fst
  let copies := s.wgs.flatMap fun g => (g.copies.filter fun c => c.st == .ready || c.st == .running).flatMap fun c =>
    ((s.copyPairs g c).flatMap pairLocs).filterMap fun l => match l with | .ok a => some a | _ => none
  let images := s.images.filterMap fun i => match s.imageLoc i with | .ok l => some l | _ => none
  (reqs ++ locks ++ copies ++ s.wales.flatMap s.matrixWants ++ images ++ s.slewWants ++ s.ckptWants).filter locDevice

/-- A die wakes by its wake time for what is homed on it (R380), and where a lowered LTOL no longer allows its state (R379,
log 82). -/
def State.powerClk (s : State) : State :=
  if s.power.isEmpty then s
  else
    let homes := (s.wanted.map fun l => homeDie l 0) ++ s.banks.map BankCall.die
    let s := (List.range 4).foldl (fun s d =>
      if homes.contains d || !s.tolerates d (mGet .p0 s.power d) then s.stir d else s) s
    (s.wakeAt.filter fun p => decide (p.2 ≤ s.clk)).foldl (fun s p => s.wake p.1) s

/-- Since when each die has been idle, once weavers run (R375, R379). -/
def State.idleClk (s : State) : State :=
  if !s.weaversRun then s
  else (List.range 4).foldl (fun (s : State) d =>
    if s.dieIdle d then (if (mFind s.idleSince d).isSome then s else { s with idleSince := mPut s.idleSince d s.clk })
    else { s with idleSince := mDel s.idleSince d }) s

end Sys2Proof.Machine
end

