-- ==== Sys2Proof/Machine/Events.lean ====
section
/-!
DEFINITION. Sys2Proof/Machine/Events.lean: soft errors (R356, R357), the rim's image writes (R309 to R314) and
the merge of the fold log (R322).
-/
namespace Sys2Proof.Machine

/-! ### Errors (R355 to R358) -/

/-- FAST_FILE_PARITY_ERROR (R356): the register is staged again from the main file in 3 clk, and the wale is charged
"staging"; the reading instruction issues afterwards. -/
def execFastFileParityError (id r : Nat) (s : State) : Host.Outcome State Fault Refusal :=
  match s.wale? id with
  | none => .next s
  | some w =>
    let staged := match w.staging with | .done => true | .until k => decide (k ≤ s.clk) | _ => false
    if w.kind != .wale || w.life != .resident || !staged || !w.inSet r then .next s
    else .next ((s.putWale { w with staging := .until (s.clk + 3) }).countCorr (dieOf w.core) 3)

/-- The block that counts an error (R359): the die of the structure that holds the word, which is the home of an address in HBM or
the common store, and else that of the core id or base die. -/
def State.errDie (s : State) (ctx strct core va : Nat) : Nat :=
  let own := if core < 0x120 then dieOf core else if core < 0x12C then (core - 0x120) / 3 else 4
  if strct = 1 ∨ strct = 6 then
    match s.xlate ctx none .r va with
    | .ok l => if locDevice l then homeDie l 0 else own
    | _ => own
  else own

/-- An uncorrectable error is repaired by fetching the line again (R355): in a cluster-cache line without a byte that is not
yet written back; in a line of the common store's cache part, which serves HBM, when it holds no write not yet in HBM: a
free choice (log 127). -/
def State.refetches (s : State) (ctx strct core va : Nat) : Bool :=
  match strct, s.xlate ctx none .r va with
  | 7, .ok l => decide (core < Config.numCores) && !s.dirtyAny (clusterOf core) (l / 128 * 128) 128
  | 6, .ok l => decide (l < locCommon 0) && Config.freeChoice s.free 2 == 0
  | _, _ => false

/-- The access of a wale that an error event names: its coordinates, those of the lowest thread, and its layout handle (R358).
A near access is named by its offset in the scratchpad. -/
def State.accessAt (s : State) (ctx core slot va : Nat) : Option (List Int × Nat) :=
  match s.wales.find? fun w => w.kind == .wale && w.ctx == ctx && w.core == core && w.slot == slot with
  | none => none
  | some w =>
    let q := s.reqs.findSome? fun q =>
      if q.wale == w.id && q.open' then
        (q.elems.find? fun e => !e.zero && decide (e.va ≤ va) && decide (va < e.va + e.size)).map fun e => (e.cs, q.handle)
      else none
    match q with
    | some x => some x
    | none => (s.near.find? fun o => o.wale == w.id && decide (o.loc ≤ locSpad core va) && decide (locSpad core va < o.loc + o.size)).map
        fun o => (o.cs, o.handle)

/-- The ECC word that holds a location of HBM or the common store, with its size (R355). -/
def eccWord (l : Nat) : Nat × Nat := if l < locCommon 0 then (l / 64 * 64, 64) else (l / 8 * 8, 8)

/-- The words with an uncorrectable error, `l`'s among them. -/
def State.addBad (s : State) (l : Nat) : State :=
  if s.badWords.contains (eccWord l) then s else { s with badWords := eccWord l :: s.badWords }

/-- UNCORRECTABLE_ERROR (R355, R357, R358): a line that can be fetched again is, and counts as corrected. Otherwise the error is
counted, and its context stops with a record of kind 0x10, or 0x14 while the wale named is being saved; the word of HBM or the
common store stays bad. BODY holds the access's coordinates, or register, thread and row, which the event gives, in the
register file and tile memory. -/
def execUncorrectableError (ctx strct core slot : Nat) (place : ErrPlace) (s : State) : Host.Outcome State Fault Refusal :=
  let va := place.va
  let die := s.errDie ctx strct core va
  if s.refetches ctx strct core va then
    let line := match s.xlate ctx none .r va with | .ok l => l / 128 | _ => 0
    let t := s.countCorr die strct
    .next { t with
      free := s.free + 1
      clean := if strct = 7 then t.clean.filter fun c => !(c.cluster == clusterOf core && c.line == line) else t.clean }
  else
    let acc := s.accessAt ctx core slot va
    let body := if strct = 2 ∨ strct = 5 then place.at' else match acc with | some (cs, _) => coordWords cs | none => []
    let s := if strct = 1 ∨ strct = 6 then
      (match s.xlate ctx none .r va with | .ok l => if locDevice l then s.addBad l else s | _ => s) else s
    .next (s.uncorrectable strct die { ctx := ctx, core := core, slot := slot, va := va, body := body, handle := acc.map Prod.snd })

/-- An error is corrected in place and counted on the die of its structure (R355, R359). -/
def State.corrected (s : State) (strct d : Nat) : State :=
  if strct ∈ [1, 2, 4, 5, 6, 7] ∧ d < 5 then s.countCorr d strct else s

/-- PCI Express makes a replay, which CORR(10) counts, or its link fails, which UNCORR(10) counts (R355). -/
def State.pcieError (s : State) (failed : Bool) : State := if failed then s.countUncorr 4 10 else s.countCorr 4 10

/-- The granule of a physical address of a structure: HBM, or the common store (R355, R361). -/
def scrubGranule (strct pa : Nat) : Option Nat :=
  if strct = 1 then granule (locHbm pa) else if strct = 6 then granule (locCommon pa) else none

/-- SCRUB_ERROR (R357, R363): an error found without a consumer writes a record of kind 0x15 and stops nothing; the word stays bad,
so that the next read meets the error again, and a running checkpoint leaves its granule out. -/
def execScrubError (strct pa : Nat) (s : State) : Host.Outcome State Fault Refusal :=
  let die := if strct = 1 then pa / (48 * 2 ^ 30) / 3 else if strct = 6 then pa / 2 ^ 27 else 4
  let s := s.countUncorr (min die 4) strct
  let s := if strct = 1 then s.addBad (locHbm pa) else if strct = 6 then s.addBad (locCommon pa) else s
  let s := match s.ckpt, scrubGranule strct pa with
    | some c, some g => { s with ckpt := some { c with bad := g :: c.bad } }
    | _, _ => s
  .next (s.pushFault ⟨mkRecord 0x15 0 strct 0x1FF 127 0 pa s.clk, none, true⟩)

/-! ### The rim (R309 to R314) -/

/-- The bytes of a line that any cluster holds reach its home, before an image that is ordered after them. -/
def State.flushLines (s : State) (l n : Nat) : State :=
  (List.range 36).foldl (fun s c => (s.flushLine c l).flushLine c (l + n - 1)) s

/-- The bytes that an image writes: one, of which a q4 code keeps the other half. -/
def Image.bytes (i : Image) : Nat := if i.size = 0 ∨ i.size = 9 then 1 else i.size

/-- What an image writes over the byte that stands there. -/
def Image.over (i : Image) (old : Nat) : Nat :=
  let v := i.val.toNat
  match i.size with
  | 0 => old / 16 * 16 + v % 16
  | 9 => v % 16 * 16 + old % 16
  | _ => v

/-- IMAGE_PERFORM (R310, R312, R314): an image is performed whole at its home slice, in the order of its
workgroup's primaries; a translation that fails keeps it in its lane. -/
def execImagePerform (id : Nat) (s : State) : Host.Outcome State Fault Refusal :=
  match s.images.find? fun i => i.id == id with
  | none => .next s
  | some i =>
    if i.stalled || s.imageHeld i then .next s
    else match s.imageLoc i with
      | .absent => fin { s with absentHit := true }
      | .bad _ => .next s
      | .ok l =>
        if !s.homeReady l 0 i.stamp then .next s
        else match s.spoiled l i.bytes true
            { ctx := i.ctx, core := (match s.wale? i.wale with | some w => w.core | none => 0x1FF), slot := 127, va := i.va
              handle := some i.handle } with
        | some t => .next t
        | none =>
          let n := i.bytes
          let s1 := (s.flushLines l n).homeWrite l (leBytes n (i.over (s.flushLines l n |>.natAt l 1)))
          -- what a cluster holds of the line is older than the image
          let s2 := (List.range 36).foldl (fun s c => (s.dropClean c l).dropClean c (l + n - 1)) s1
          .next ({ s2 with images := s2.images.filter fun x => x.id != id }.fillDie i.lane i.ctx i.va)

/-! ### The merge of a fold log (R320 to R322) -/

/-- The die of a log, whose stack engines merge it (R322). -/
def State.logDie (s : State) (ctx : Nat) (log : LRec) : Nat :=
  match s.xlate ctx (some 0) .r (lAddr log [1]).toNat with | .ok l => homeDie l 0 | _ => 0

/-- An entry of a step: its header and its slot. -/
structure FoldEnt where
  c0 : Nat
  c1 : Nat
  keym : Nat
  keyc : Nat
  seq : Nat
  hnd : Nat
  slot : Nat
  deriving DecidableEq, Repr

/-- The entry in a slot of a log (R321). -/
def State.foldEnt (s : State) (ctx : Nat) (log : LRec) (slot : Nat) : FoldEnt :=
  let w (i : Nat) : Nat := s.logGet (s.logDie ctx log) ctx log (64 + 16448 * slot + i)
  { c0 := w 0, c1 := w 1, keym := w 2, keyc := w 3, seq := w 4, hnd := w 5 % 1024, slot := slot }

/-- Entries fold in the order of (KEYM, KEYC, SEQ) (R322). -/
def FoldEnt.before (a b : FoldEnt) : Bool :=
  decide (a.keym < b.keym) || (a.keym == b.keym && (decide (a.keyc < b.keyc) || (a.keyc == b.keyc && decide (a.seq ≤ b.seq))))

/-- Insert an entry in order. -/
def foldInsert (e : FoldEnt) : List FoldEnt → List FoldEnt
  | [] => [e]
  | x :: r => if e.before x then e :: x :: r else x :: foldInsert e r

/-- The entries of a step in folding order. -/
def foldSort (l : List FoldEnt) : List FoldEnt := l.foldl (fun a e => foldInsert e a) []

/-- Where element (i, j) of an entry's tile lies in the gradient layout; none for one that zero mode drops. -/
def State.foldDest (s : State) (die ctx : Nat) (e : FoldEnt) (i j : Nat) : Option EngLoc :=
  let g := s.layout ctx e.hnd
  match fitCoords g [((e.c0 + j : Nat) : Int), ((e.c1 + i : Nat) : Int)] with
  | .ok cs =>
    let va := (lAddr g cs).toNat
    (match EngLoc.ofXl (s.xlateDie die ctx (some 0) .w va), EngLoc.ofXl (s.xlateDie die ctx (some 0) .r va) with
     | .ok l, .ok _ => some (.ok l)
     | .ok _, e => some e
     | e, _ => some e)
  | _ => none

/-- Every element of a tile, row by row. -/
def tileIdx : List (Nat × Nat) := (List.range 128).flatMap fun i => (List.range 128).map fun j => (i, j)

/-- One entry is folded into the gradient: it replaces, or adds with one rounding, NaNs canonical (R41, R322). -/
def State.foldOne (s : State) (ctx : Nat) (log : LRec) (e : FoldEnt) (replace : Bool) : State :=
  tileIdx.foldl (fun s p =>
    match s.foldDest (s.logDie ctx log) ctx e p.1 p.2 with
    | some (.ok l) =>
      let x := s.logGet (s.logDie ctx log) ctx log (64 + 16448 * e.slot + 64 + 128 * p.1 + p.2)
      s.homeWrite l (leBytes 4 (if replace then x else f32Add (s.natAt l 4) x))
    | _ => s) s

/-- The entries of a step, in order: under ACC 0 a tile's first replaces it. -/
def State.foldStep (s : State) (ctx : Nat) (log : LRec) (acc : Bool) : List (Nat × Nat) → List FoldEnt → State
  | _, [] => s
  | seen, e :: r =>
    let first := !seen.contains (e.c0, e.c1)
    (s.foldOne ctx log e (first && !acc)).foldStep ctx log acc ((e.c0, e.c1) :: seen) r

/-- FOLD_MERGE (R320, R322): once a step's entries are published, the merge acquires them, folds them, adds EXPECT
to HEAD and decrements its continuation records. -/
def execFoldMerge (ctx h : Nat) (s : State) : Host.Outcome State Fault Refusal :=
  let log := s.layout ctx h
  if !lValid log || lRank log != 1 || lFmt log != .n32 || lSpace log != 0 || !s.ctxValid ctx ||
      (s.foldMiss (s.logDie ctx log) ctx log [0, 1, 2, 3, 4, 5, 6, 7, 8]).isSome then .next s
  else
    let die := s.logDie ctx log
    let w (i : Nat) : Nat := s.logGet die ctx log i
    let n := w 5
    let nent := w 4
    let head := w 1
    if n = 0 ∨ nent = 0 ∨ (w 2 + 2 ^ 32 - head) % 2 ^ 32 < n then .next s
    else
      let es := foldSort ((List.range n).map fun k => s.foldEnt ctx log ((head + k) % 2 ^ 32 % nent))
      let locs := es.flatMap fun e => tileIdx.filterMap fun p => s.foldDest die ctx e p.1 p.2
      let home := match s.logWord die ctx log .w 1 with | .ok l => l | _ => 0
      let tail := match s.logWord die ctx log .r 2 with | .ok l => l | _ => 0
      let core := Config.coresPerDie * homeDie home 0
      let st := s.stampAt tail core
      let first := w 6 / 4096 + 2 ^ 20 * w 7
      let cnt := if first = 0 then 0 else w 8 / 16 % 65536
      let recs := (List.range cnt).map fun i => addr52 (first + 64 * i)
      if locs.contains .absent then fin { s with absentHit := true }
      else if s.sectorSplit || (locs.any fun l => match l with | .ok a => !s.homeReady a core st | _ => true) ||
          !(recs.all fun a => s.joinReady ctx a core st) then
        .next (s.stirHomes (locs.filterMap fun l => match l with | .ok a => some a | _ => none) |> recs.foldl fun s a => s.joinStir ctx a)
      else match (if s.badWords.isEmpty then none else locs.findSome? fun l => match l with
          | .ok a => s.spoiled a 4 true { ctx := ctx, core := 0x120 + stackOf home, slot := 127, va := 0, handle := some h }
          | _ => none) with
      | some t => .next t
      | none =>
        let acc := w 0 % 2 == 1
        let s1 := (s.foldStep ctx log acc [] es).homeWrite home (leBytes 4 ((head + n) % 2 ^ 32))
        .next (recs.foldl (fun s a => s.joinDec ctx a core st) s1)

end Sys2Proof.Machine
end

