-- ==== Sys2Proof/Machine/Lane.lean ====
section
/-!
DEFINITION. Sys2Proof/Machine/Lane.lean: lane exchange and cross-thread operations (R133 to R136).
-/
namespace Sys2Proof.Machine

/-! ### Vector lane operations (R133, R134) -/

/-- A lane exchange: thread t receives the element of the thread that `f` picks from B's value. -/
def laneOp (ty : Ty) (bTags : List Ty) (f : Nat → W64 → Nat) (bad : W64 → Bool) : VOp :=
  { lat := 12, occ := 4, tag := ty, outs := if ty == .f64 then 2 else 1
    tags := fun _ r => if r == 1 then [ty] else bTags
    wide := fun _ r => ty == .f64 && r == 1
    rd := fun _ _ => some .n32, lane := some f
    fn := fun _ _ seed a b _ =>
      { vals := resWords ty a, cause := if bad b then some .idxRange else none, seed := seed } }

/-- XCHG.BFLY (R134). -/
def execXchgBfly (g : G) (s : State) : Host.Outcome State Fault Refusal :=
  s.vector g (laneOp g.ty [] (fun t b => (t ^^^ b.toNat) % 32) fun _ => false)
/-- SHFL (R134). -/
def execShfl (g : G) (s : State) : Host.Outcome State Fault Refusal :=
  s.vector g (laneOp g.ty [.i32, .n32] (fun _ b => b.toNat % 32) fun _ => false)
/-- BCAST (R134): a scalar thread number above 31 is IDX_RANGE at commit. -/
def execBcast (g : G) (s : State) : Host.Outcome State Fault Refusal :=
  s.vector g (laneOp g.ty [] (fun _ b => b.toNat % 32) fun b => decide (31 < b.toNat))

/-! ### BALLOT and VOTE (R135) -/

/-- The predicate number of a source. -/
def predOf (src : Src) : Nat := match src with | .pred q => q | _ => 0

/-- The bits of a predicate at a clk, every thread. -/
def Wale.qBits (w : Wale) (q clk : Nat) : Mask := maskOf fun t => w.qAt q t clk

/-- A scalar made from the predicate bits and the active set; written even when the set is empty. -/
def State.ballotLike (s : State) (g : G) (f : Mask → Mask → W32) : Host.Outcome State Fault Refusal :=
  s.withCur fun w =>
    let q := predOf g.fa.a
    if w.kind != .wale then s.raise w .illegalField 0
    else if !w.faceOk g.face then s.raise w .meldIllegal (w.active g.face)
    else match s.stallShort w [⟨.q, q⟩] with
      | some d => s.raise w .stallShort (w.active g.face) d
      | none =>
        let v := f (w.qBits q s.clk) (w.active g.face)
        .next (s.issueWith w [scFlight w (match g.fa.d with | .sc n => n | _ => 0) v s.clk 4] 1 0)

/-- BALLOT (R135). -/
def execBallot (g : G) (s : State) : Host.Outcome State Fault Refusal := s.ballotLike g (· &&& ·)

/-- The result of VOTE by mode (R135). -/
def voteVal (mode : Nat) (q m : Mask) : W32 :=
  match mode with
  | 0 => boolWord (q &&& m == m)
  | 1 => boolWord (q &&& m != 0)
  | 2 => BitVec.ofNat 32 (Mask.count (q &&& m))
  | _ => boolWord (q &&& m == m || q &&& m == 0)

/-- VOTE (R135). -/
def execVote (g : G) (s : State) : Host.Outcome State Fault Refusal :=
  s.ballotLike g (voteVal (match g.fa.b with | .lit n => n | _ => 0))

/-! ### Wale reductions (R136) -/

/-- One node of the tree: its value, the threads beneath it, and whether it combined two. -/
structure Node where
  val : W32
  under : Mask
  deriving DecidableEq, Repr

/-- The outcome of the tree so far: exceptions raised at any node, and the threads beneath the
nodes that raised an enabled one. -/
structure TreeExc where
  exc : Nat := 0
  lanes : Mask := 0
  deriving DecidableEq, Repr

/-- Combine neighbours of one level (R136). -/
def treeLevel (f : W32 → W32 → W32 × Nat) (en : Nat) : List (Option Node) → TreeExc →
    List (Option Node) × TreeExc
  | a :: b :: r, x =>
    let (n, x) := match a, b with
      | some p, some q =>
        let (v, e) := f p.val q.val
        let u := p.under ||| q.under
        (some ⟨v, u⟩, { exc := x.exc ||| e, lanes := if e &&& en != 0 then x.lanes ||| u else x.lanes : TreeExc })
      | some p, none => (some p, x)
      | none, q => (q, x)
    let (l, y) := treeLevel f en r x
    (n :: l, y)
  | l, x => (l, x)

/-- The five levels. -/
def treeFold (f : W32 → W32 → W32 × Nat) (en : Nat) : Nat → List (Option Node) → TreeExc →
    List (Option Node) × TreeExc
  | 0, l, x => (l, x)
  | k + 1, l, x => let (l, x) := treeLevel f en l x; treeFold f en k l x

/-- The shape of a reduction for the checks at issue: its source's tag. -/
def redOp (ty : Ty) : VOp :=
  { lat := 16, tag := ty, file := .s, tags := sameTag ty, fn := fun _ _ seed _ _ _ => { vals := [], seed := seed } }

/-- The tree over the active threads of an instruction issued at `c`: the root's value, finished by `root`, and
the exceptions on the way (R136). -/
def Wale.tree (w : Wale) (g : G) (en c : Nat) (ident : W32) (f : W32 → W32 → W32 × Nat) (root : W32 → W32 × Nat) :
    W32 × TreeExc :=
  let m := w.active g.face
  let leaf (t : Nat) : Option Node :=
    if m.getLsbD t then some ⟨(w.srcAt g.ty g.fa.a false t c (c + t / 8)).truncate 32, maskOf (· == t)⟩ else none
  let (l, x) := treeFold f en 5 (threads.map leaf) {}
  let (v, e) := root (match l with | some n :: _ => n.val | _ => ident)
  (v, { exc := x.exc ||| e, lanes := if e &&& en != 0 then x.lanes ||| m else x.lanes })

/-- A WALE REDUCTION (R136): the tree over active threads, the identity without one; `root`
finishes the root's value when its one contribution reached it uncombined. -/
def State.reduce (s : State) (g : G) (ident : W32) (f : W32 → W32 → W32 × Nat)
    (root : W32 → W32 × Nat) : Host.Outcome State Fault Refusal :=
  s.withCur fun w =>
    match s.vecCheck w g (redOp g.ty) with
    | some r => .next (s.takeTrap w r)
    | none =>
      let d := match g.fa.d with | .sc n => n | _ => 0
      let c := s.clk
      if w.active g.face == 0 then .next (s.issueWith w [scFlight w d ident c 16] 1 0)
      else
        let (v, x) := w.tree g (s.enables w) c ident f root
        if x.lanes != 0 then
          .next ((s.holdPipe w (c + 4)).takeTrap w
            { cause := .fpExc, lanes := x.lanes, detail := x.exc, t0 := c + 4 })
        else .next (s.issueWith w [scFlight w d v c 16] 4 0)

/-- A reduction without exceptions. -/
def State.reduceInt (s : State) (g : G) (ident : W32) (f : W32 → W32 → W32) :
    Host.Outcome State Fault Refusal :=
  s.reduce g ident (fun a b => (f a b, 0)) fun v => (v, 0)

/-- f32 addition at a node (R136). -/
def sumF32 (a b : W32) : W32 × Nat :=
  let (v, x) := (fmt32.decode a.toNat).add .rn (fmt32.decode b.toNat)
  let r := fmt32.write {} x v
  (BitVec.ofNat 32 r.bits, r.exc)

/-- A NaN root becomes canonical; a signalling one that nothing combined raises invalid (R41, R136). -/
def rootF32 (sum : Bool) (v : W32) : W32 × Nat :=
  let d := fmt32.decode v.toNat
  if d.isNan then (BitVec.ofNat 32 fmt32.nanBits, if sum then sigExc [d] else 0) else (v, 0)

/-- MIN or MAX on f32 images (R121), without exceptions (R137). -/
def minmaxF32 (larger : Bool) (a b : W32) : W32 × Nat :=
  let (v, _) := (fmt32.decode a.toNat).minmax larger false (fmt32.decode b.toNat)
  (BitVec.ofNat 32 (fmt32.write {} 0 v).bits, 0)

/-- WSUM (R136). -/
def execWsum (g : G) (s : State) : Host.Outcome State Fault Refusal :=
  if g.ty == .f32 then s.reduce g 0 sumF32 (rootF32 true) else s.reduceInt g 0 (· + ·)

/-- The smaller or larger of two images by a type. -/
def minmaxInt (larger : Bool) (ty : Ty) (a b : W32) : W32 :=
  let lt := if ty == .i32 then a.slt b else a.ult b
  if lt != larger then a else b

/-- WMIN (R136). -/
def execWmin (g : G) (s : State) : Host.Outcome State Fault Refusal :=
  if g.ty == .f32 then s.reduce g 0x7F800000 (minmaxF32 false) (rootF32 false)
  else s.reduceInt g (BitVec.ofInt 32 g.ty.maxVal) (minmaxInt false g.ty)
/-- WMAX (R136). -/
def execWmax (g : G) (s : State) : Host.Outcome State Fault Refusal :=
  if g.ty == .f32 then s.reduce g 0xFF800000 (minmaxF32 true) (rootF32 false)
  else s.reduceInt g (BitVec.ofInt 32 g.ty.minVal) (minmaxInt true g.ty)
/-- WAND (R136). -/
def execWand (g : G) (s : State) : Host.Outcome State Fault Refusal := s.reduceInt g 0xFFFFFFFF (· &&& ·)
/-- WOR (R136). -/
def execWor (g : G) (s : State) : Host.Outcome State Fault Refusal := s.reduceInt g 0 (· ||| ·)

end Sys2Proof.Machine
end

