-- ==== Sys2Proof/Machine/Dispatch.lean ====
section
/-!
DEFINITION. Sys2Proof/Machine/Dispatch.lean: one arm per constructor of Instr.
-/
namespace Sys2Proof.Machine

/-- The step of each row of the opcode table. -/
def exec (i : Instr) (s : State) : Host.Outcome State Fault Refusal :=
  match i with
  | .intervalHeader h => Sys2Proof.Machine.execIntervalHeader h s
  | .stagingGrant core pipe => Sys2Proof.Machine.execStagingGrant core pipe s
  | .clauseHeader h => Sys2Proof.Machine.execClauseHeader h s
  | .illegalWord w => Sys2Proof.Machine.execIllegalWord w s
  | .addInt g => Sys2Proof.Machine.execAddInt g s
  | .subInt g => Sys2Proof.Machine.execSubInt g s
  | .mulInt g => Sys2Proof.Machine.execMulInt g s
  | .mulhi g => Sys2Proof.Machine.execMulhi g s
  | .mad g => Sys2Proof.Machine.execMad g s
  | .div g => Sys2Proof.Machine.execDiv g s
  | .rem g => Sys2Proof.Machine.execRem g s
  | .absInt g => Sys2Proof.Machine.execAbsInt g s
  | .negInt g => Sys2Proof.Machine.execNegInt g s
  | .minInt g => Sys2Proof.Machine.execMinInt g s
  | .maxInt g => Sys2Proof.Machine.execMaxInt g s
  | .and g => Sys2Proof.Machine.execAnd g s
  | .or g => Sys2Proof.Machine.execOr g s
  | .xor g => Sys2Proof.Machine.execXor g s
  | .not g => Sys2Proof.Machine.execNot g s
  | .shl g => Sys2Proof.Machine.execShl g s
  | .shr g => Sys2Proof.Machine.execShr g s
  | .sar g => Sys2Proof.Machine.execSar g s
  | .rot g => Sys2Proof.Machine.execRot g s
  | .popc g => Sys2Proof.Machine.execPopc g s
  | .clz g => Sys2Proof.Machine.execClz g s
  | .brev g => Sys2Proof.Machine.execBrev g s
  | .bfx g => Sys2Proof.Machine.execBfx g s
  | .bfi g => Sys2Proof.Machine.execBfi g s
  | .add64 g => Sys2Proof.Machine.execAdd64 g s
  | .sub64 g => Sys2Proof.Machine.execSub64 g s
  | .mulw g => Sys2Proof.Machine.execMulw g s
  | .cmpInt g => Sys2Proof.Machine.execCmpInt g s
  | .pand g => Sys2Proof.Machine.execPand g s
  | .por g => Sys2Proof.Machine.execPor g s
  | .pxor g => Sys2Proof.Machine.execPxor g s
  | .pnot g => Sys2Proof.Machine.execPnot g s
  | .sel g => Sys2Proof.Machine.execSel g s
  | .mov g => Sys2Proof.Machine.execMov g s
  | .moviVector g => Sys2Proof.Machine.execMoviVector g s
  | .moviScalar g => Sys2Proof.Machine.execMoviScalar g s
  | .movsv g => Sys2Proof.Machine.execMovsv g s
  | .movvs g => Sys2Proof.Machine.execMovvs g s
  | .sadd g => Sys2Proof.Machine.execSadd g s
  | .ssub g => Sys2Proof.Machine.execSsub g s
  | .smul g => Sys2Proof.Machine.execSmul g s
  | .sand g => Sys2Proof.Machine.execSand g s
  | .sor g => Sys2Proof.Machine.execSor g s
  | .sxor g => Sys2Proof.Machine.execSxor g s
  | .sshl g => Sys2Proof.Machine.execSshl g s
  | .sshr g => Sys2Proof.Machine.execSshr g s
  | .scmp g => Sys2Proof.Machine.execScmp g s
  | .smin g => Sys2Proof.Machine.execSmin g s
  | .smax g => Sys2Proof.Machine.execSmax g s
  | .smov g => Sys2Proof.Machine.execSmov g s
  | .xmov g => Sys2Proof.Machine.execXmov g s
  | .xadd g => Sys2Proof.Machine.execXadd g s
  | .xget g => Sys2Proof.Machine.execXget g s
  | .srd g => Sys2Proof.Machine.execSrd g s
  | .srds g => Sys2Proof.Machine.execSrds g s
  | .exmrd g => Sys2Proof.Machine.execExmrd g s
  | .exmwr g => Sys2Proof.Machine.execExmwr g s
  | .tagset g => Sys2Proof.Machine.execTagset g s
  | .tagget g => Sys2Proof.Machine.execTagget g s
  | .clmull w => Sys2Proof.Machine.execClmull w s
  | .clmulh w => Sys2Proof.Machine.execClmulh w s
  | .addFlt g => Sys2Proof.Machine.execAddFlt g s
  | .subFlt g => Sys2Proof.Machine.execSubFlt g s
  | .mulFlt g => Sys2Proof.Machine.execMulFlt g s
  | .fma g => Sys2Proof.Machine.execFma g s
  | .minFlt g => Sys2Proof.Machine.execMinFlt g s
  | .maxFlt g => Sys2Proof.Machine.execMaxFlt g s
  | .minnm g => Sys2Proof.Machine.execMinnm g s
  | .maxnm g => Sys2Proof.Machine.execMaxnm g s
  | .absFlt g => Sys2Proof.Machine.execAbsFlt g s
  | .negFlt g => Sys2Proof.Machine.execNegFlt g s
  | .cpysgn g => Sys2Proof.Machine.execCpysgn g s
  | .cmpFlt g => Sys2Proof.Machine.execCmpFlt g s
  | .classFlt g => Sys2Proof.Machine.execClassFlt g s
  | .rcp g => Sys2Proof.Machine.execRcp g s
  | .sqrt g => Sys2Proof.Machine.execSqrt g s
  | .rsq g => Sys2Proof.Machine.execRsq g s
  | .rint g => Sys2Proof.Machine.execRint g s
  | .fract g => Sys2Proof.Machine.execFract g s
  | .expins g => Sys2Proof.Machine.execExpins g s
  | .expext g => Sys2Proof.Machine.execExpext g s
  | .fexp2f g => Sys2Proof.Machine.execFexp2f g s
  | .flog2f g => Sys2Proof.Machine.execFlog2f g s
  | .cvt g => Sys2Proof.Machine.execCvt g s
  | .pack2 g => Sys2Proof.Machine.execPack2 g s
  | .unpk2 g => Sys2Proof.Machine.execUnpk2 g s
  | .q4pack g => Sys2Proof.Machine.execQ4pack g s
  | .q4unpk g => Sys2Proof.Machine.execQ4unpk g s
  | .xchgBfly g => Sys2Proof.Machine.execXchgBfly g s
  | .shfl g => Sys2Proof.Machine.execShfl g s
  | .bcast g => Sys2Proof.Machine.execBcast g s
  | .ballot g => Sys2Proof.Machine.execBallot g s
  | .vote g => Sys2Proof.Machine.execVote g s
  | .wsum g => Sys2Proof.Machine.execWsum g s
  | .wmin g => Sys2Proof.Machine.execWmin g s
  | .wmax g => Sys2Proof.Machine.execWmax g s
  | .wand g => Sys2Proof.Machine.execWand g s
  | .wor g => Sys2Proof.Machine.execWor g s
  | .ifOp g => Sys2Proof.Machine.execIfOp g s
  | .elseOp g => Sys2Proof.Machine.execElseOp g s
  | .endif g => Sys2Proof.Machine.execEndif g s
  | .loop g => Sys2Proof.Machine.execLoop g s
  | .endloop g => Sys2Proof.Machine.execEndloop g s
  | .breakOp g => Sys2Proof.Machine.execBreakOp g s
  | .cont g => Sys2Proof.Machine.execCont g s
  | .jmp g => Sys2Proof.Machine.execJmp g s
  | .jmpz g => Sys2Proof.Machine.execJmpz g s
  | .jmpnz g => Sys2Proof.Machine.execJmpnz g s
  | .call c => Sys2Proof.Machine.execCall c s
  | .ret g => Sys2Proof.Machine.execRet g s
  | .exit g => Sys2Proof.Machine.execExit g s
  | .nop g => Sys2Proof.Machine.execNop g s
  | .yield g => Sys2Proof.Machine.execYield g s
  | .meld g => Sys2Proof.Machine.execMeld g s
  | .endmeld g => Sys2Proof.Machine.execEndmeld g s
  | .spawn f => Sys2Proof.Machine.execSpawn f s
  | .rgrp f => Sys2Proof.Machine.execRgrp f s
  | .rgrpForm wg => Sys2Proof.Machine.execRgrpForm wg s
  | .trap g => Sys2Proof.Machine.execTrap g s
  | .bkpt g => Sys2Proof.Machine.execBkpt g s
  | .tret g => Sys2Proof.Machine.execTret g s
  | .tretSkip g => Sys2Proof.Machine.execTretSkip g s
  | .evpop f => Sys2Proof.Machine.execEvpop f s
  | .tkclaim f => Sys2Proof.Machine.execTkclaim f s
  | .symwalk f => Sys2Proof.Machine.execSymwalk f s
  | .slewStart f => Sys2Proof.Machine.execSlewStart f s
  | .slewQuery f => Sys2Proof.Machine.execSlewQuery f s
  | .ckpt f => Sys2Proof.Machine.execCkpt f s
  | .ld m => Sys2Proof.Machine.execLd m s
  | .st m => Sys2Proof.Machine.execSt m s
  | .gather m => Sys2Proof.Machine.execGather m s
  | .scatter m => Sys2Proof.Machine.execScatter m s
  | .layset f => Sys2Proof.Machine.execLayset f s
  | .layget f => Sys2Proof.Machine.execLayget f s
  | .ldq m => Sys2Proof.Machine.execLdq m s
  | .stq m => Sys2Proof.Machine.execStq m s
  | .gatherq m => Sys2Proof.Machine.execGatherq m s
  | .scatterq m => Sys2Proof.Machine.execScatterq m s
  | .pref m => Sys2Proof.Machine.execPref m s
  | .queuedLoadComplete e m p => Sys2Proof.Machine.execQueuedLoadComplete e m p s
  | .queuedStorePerformed e m p => Sys2Proof.Machine.execQueuedStorePerformed e m p s
  | .prefAccepted e => Sys2Proof.Machine.execPrefAccepted e s
  | .atomAdd m => Sys2Proof.Machine.execAtomAdd m s
  | .atomMin m => Sys2Proof.Machine.execAtomMin m s
  | .atomMax m => Sys2Proof.Machine.execAtomMax m s
  | .atomAnd m => Sys2Proof.Machine.execAtomAnd m s
  | .atomOr m => Sys2Proof.Machine.execAtomOr m s
  | .atomXor m => Sys2Proof.Machine.execAtomXor m s
  | .atomXchg m => Sys2Proof.Machine.execAtomXchg m s
  | .atomCas m => Sys2Proof.Machine.execAtomCas m s
  | .atomIncw m => Sys2Proof.Machine.execAtomIncw m s
  | .atomFaddb m => Sys2Proof.Machine.execAtomFaddb m s
  | .atomFadd m => Sys2Proof.Machine.execAtomFadd m s
  | .atomFmax m => Sys2Proof.Machine.execAtomFmax m s
  | .redAdd m => Sys2Proof.Machine.execRedAdd m s
  | .redFadd m => Sys2Proof.Machine.execRedFadd m s
  | .redFmax m => Sys2Proof.Machine.execRedFmax m s
  | .atomicPerform e => Sys2Proof.Machine.execAtomicPerform e s
  | .fence f => Sys2Proof.Machine.execFence f s
  | .qfence f => Sys2Proof.Machine.execQfence f s
  | .lockq m => Sys2Proof.Machine.execLockq m s
  | .unlockq m => Sys2Proof.Machine.execUnlockq m s
  | .barSync f => Sys2Proof.Machine.execBarSync f s
  | .barArrive f => Sys2Proof.Machine.execBarArrive f s
  | .barWait f => Sys2Proof.Machine.execBarWait f s
  | .barwArv m => Sys2Proof.Machine.execBarwArv m s
  | .barwWait m => Sys2Proof.Machine.execBarwWait m s
  | .mma f => Sys2Proof.Machine.execMma f s
  | .mmaz f => Sys2Proof.Machine.execMmaz f s
  | .mcommit face => Sys2Proof.Machine.execMcommit face s
  | .mwait f => Sys2Proof.Machine.execMwait f s
  | .mread f => Sys2Proof.Machine.execMread f s
  | .mwrite f => Sys2Proof.Machine.execMwrite f s
  | .mzero f => Sys2Proof.Machine.execMzero f s
  | .mstore f => Sys2Proof.Machine.execMstore f s
  | .stfold f => Sys2Proof.Machine.execStfold f s
  | .arrayServe core => Sys2Proof.Machine.execArrayServe core s
  | .mmaComplete core => Sys2Proof.Machine.execMmaComplete core s
  | .matrixOpPerformed w => Sys2Proof.Machine.execMatrixOpPerformed w s
  | .matrixOpAbandon w => Sys2Proof.Machine.execMatrixOpAbandon w s
  | .foldLogAppend w => Sys2Proof.Machine.execFoldLogAppend w s
  | .copySlice f => Sys2Proof.Machine.execCopySlice f s
  | .cseal face => Sys2Proof.Machine.execCseal face s
  | .cwait f => Sys2Proof.Machine.execCwait f s
  | .copyStart wg cq => Sys2Proof.Machine.execCopyStart wg cq s
  | .copyFinish wg cq => Sys2Proof.Machine.execCopyFinish wg cq s
  | .copyAbandon wg cq => Sys2Proof.Machine.execCopyAbandon wg cq s
  | .forkM face off => Sys2Proof.Machine.execForkM face off s
  | .forkC face off => Sys2Proof.Machine.execForkC face off s
  | .rdv face => Sys2Proof.Machine.execRdv face s
  | .streamFault st => Sys2Proof.Machine.execStreamFault st s
  | .bcall f => Sys2Proof.Machine.execBcall f s
  | .bankCallStart w => Sys2Proof.Machine.execBankCallStart w s
  | .bankInsnLimit b => Sys2Proof.Machine.execBankInsnLimit b s
  | .bend => Sys2Proof.Machine.execBend s
  | .bld d r => Sys2Proof.Machine.execBld d r s
  | .bst a r => Sys2Proof.Machine.execBst a r s
  | .badd d a b => Sys2Proof.Machine.execBadd d a b s
  | .bsub d a b => Sys2Proof.Machine.execBsub d a b s
  | .bmul d a b => Sys2Proof.Machine.execBmul d a b s
  | .bfma d a b c => Sys2Proof.Machine.execBfma d a b c s
  | .bmin d a b => Sys2Proof.Machine.execBmin d a b s
  | .bmax d a b => Sys2Proof.Machine.execBmax d a b s
  | .brsq d a => Sys2Proof.Machine.execBrsq d a s
  | .bscl d a j => Sys2Proof.Machine.execBscl d a j s
  | .bspl d j => Sys2Proof.Machine.execBspl d j s
  | .bcvt d a b mode => Sys2Proof.Machine.execBcvt d a b mode s
  | .biadd d a b => Sys2Proof.Machine.execBiadd d a b s
  | .bloop j => Sys2Proof.Machine.execBloop j s
  | .bnext => Sys2Proof.Machine.execBnext s
  | .bsig j => Sys2Proof.Machine.execBsig j s
  | .trapEntry w => Sys2Proof.Machine.execTrapEntry w s
  | .watchdog w => Sys2Proof.Machine.execWatchdog w s
  | .waleEnd w => Sys2Proof.Machine.execWaleEnd w s
  | .waleAged w => Sys2Proof.Machine.execWaleAged w s
  | .fastFileParityError w r => Sys2Proof.Machine.execFastFileParityError w r s
  | .translationWalkDone w => Sys2Proof.Machine.execTranslationWalkDone w s
  | .engineTranslationFault a => Sys2Proof.Machine.execEngineTranslationFault a s
  | .faultRetry v => Sys2Proof.Machine.execFaultRetry v s
  | .faultRefuse v => Sys2Proof.Machine.execFaultRefuse v s
  | .faultHead v => Sys2Proof.Machine.execFaultHead v s
  | .faultQ v => Sys2Proof.Machine.execFaultQ v s
  | .faultRecordWrite => Sys2Proof.Machine.execFaultRecordWrite s
  | .uncorrectableError ctx strct core slot place => Sys2Proof.Machine.execUncorrectableError ctx strct core slot place s
  | .scrubError strct pa => Sys2Proof.Machine.execScrubError strct pa s
  | .submissionWrite off n data => Sys2Proof.Machine.execSubmissionWrite off n data s
  | .launchRefuse core q => Sys2Proof.Machine.execLaunchRefuse core q s
  | .launchStart core q => Sys2Proof.Machine.execLaunchStart core q s
  | .coopLaunchPlace core q => Sys2Proof.Machine.execCoopLaunchPlace core q s
  | .workgroupCreate core => Sys2Proof.Machine.execWorkgroupCreate core s
  | .workgroupRetire core => Sys2Proof.Machine.execWorkgroupRetire core s
  | .taskPop r => Sys2Proof.Machine.execTaskPop r s
  | .joinDecrement core => Sys2Proof.Machine.execJoinDecrement core s
  | .preempt v => Sys2Proof.Machine.execPreempt v s
  | .resume v => Sys2Proof.Machine.execResume v s
  | .workgroupDrainLimit q => Sys2Proof.Machine.execWorkgroupDrainLimit q s
  | .copyDrainLimit wg cq => Sys2Proof.Machine.execCopyDrainLimit wg cq s
  | .hardStopSave w => Sys2Proof.Machine.execHardStopSave w s
  | .waleRestore core wg => Sys2Proof.Machine.execWaleRestore core wg s
  | .waleRestoreReady w => Sys2Proof.Machine.execWaleRestoreReady w s
  | .workgroupMigrate wg core => Sys2Proof.Machine.execWorkgroupMigrate wg core s
  | .forwardingExpire k => Sys2Proof.Machine.execForwardingExpire k s
  | .partWrite p w v => Sys2Proof.Machine.execPartWrite p w v s
  | .cssplit d v => Sys2Proof.Machine.execCssplit d v s
  | .wvreset v => Sys2Proof.Machine.execWvreset v s
  | .ctxrec c v => Sys2Proof.Machine.execCtxrec c v s
  | .tlbinv v => Sys2Proof.Machine.execTlbinv v s
  | .invalidationDone => Sys2Proof.Machine.execInvalidationDone s
  | .sparereq v => Sys2Proof.Machine.execSparereq v s
  | .dbgStop v => Sys2Proof.Machine.execDbgStop v s
  | .dbgDump v => Sys2Proof.Machine.execDbgDump v s
  | .dbgResume v => Sys2Proof.Machine.execDbgResume v s
  | .breakpointStop w => Sys2Proof.Machine.execBreakpointStop w s
  | .registerWrite off v => Sys2Proof.Machine.execRegisterWrite off v s
  | .hostBar4Write off data => Sys2Proof.Machine.execHostBar4Write off data s
  | .hostBar4Read off n => Sys2Proof.Machine.execHostBar4Read off n s
  | .peerAccess job va op => Sys2Proof.Machine.execPeerAccess job va op s
  | .flitReceive port hdr data crcOk => Sys2Proof.Machine.execFlitReceive port hdr data crcOk s
  | .nakReceive port seq => Sys2Proof.Machine.execNakReceive port seq s
  | .linkDown port => Sys2Proof.Machine.execLinkDown port s
  | .slewPlanComplete => Sys2Proof.Machine.execSlewPlanComplete s
  | .slewTransferAck => Sys2Proof.Machine.execSlewTransferAck s
  | .slewTransferFail unreachable => Sys2Proof.Machine.execSlewTransferFail unreachable s
  | .slewCtxStopped => Sys2Proof.Machine.execSlewCtxStopped s
  | .checkpointEnd => Sys2Proof.Machine.execCheckpointEnd s
  | .checkpointTargetFail leaf => Sys2Proof.Machine.execCheckpointTargetFail leaf s
  | .foldMerge ctx h => Sys2Proof.Machine.execFoldMerge ctx h s
  | .imagePerform id => Sys2Proof.Machine.execImagePerform id s
  | .psiakDropReport blk => Sys2Proof.Machine.execPsiakDropReport blk s
  | .powerGood written levels sig => Sys2Proof.Machine.execPowerGood written levels sig s
  | .bootOk v => Sys2Proof.Machine.execBootOk v s
  | .bootOkTimeout => Sys2Proof.Machine.execBootOkTimeout s
  | .fbclr v => Sys2Proof.Machine.execFbclr v s
  | .thermalTrip => Sys2Proof.Machine.execThermalTrip s
  | .attestationSign nonce => Sys2Proof.Machine.execAttestationSign nonce s
  | .powerStateDescend d => Sys2Proof.Machine.execPowerStateDescend d s
  | .dieWake d => Sys2Proof.Machine.execDieWake d s
  | .powerLoss => Sys2Proof.Machine.execPowerLoss s
  | .clusterCacheWriteBack cluster line => Sys2Proof.Machine.execClusterCacheWriteBack cluster line s
  | .weaverOperationComplete core => Sys2Proof.Machine.execWeaverOperationComplete core s

end Sys2Proof.Machine
end

