-- ==== Sys2Proof/Machine/Tick.lean ====
section
/-!
DEFINITION. Sys2Proof/Machine/Tick.lean: the turns of the agenda, the events that the clock determines, and the parts of a clk
that need no meaning of an instruction (R14, R18).
-/
namespace Sys2Proof.Machine

/-! ### Accounting (R291, R370) -/

/-- The power controller withholds issue and array starts (R381). -/
def State.withholds (s : State) : Bool := decide (s.clk < s.withheld)

/-- The code of a reason (R370). -/
def Reason.code : Reason → Nat
  | .noneResident => 0 | .flagWait => 1 | .staging => 2 | .barrier => 3 | .queueLock => 4 | .loadQFull => 5
  | .storeQFull => 6 | .matrixQFull => 7 | .trap => 8 | .parked => 9 | .stallCount => 10

/-- The reason that a resident wale which is not ready is charged (R370): "trap" from the trap to the handler's first
issue (R251). -/
def Wale.reasonAt (w : Wale) (clk : Nat) : Reason :=
  let staged := match w.staging with | .done => true | .until k => decide (k ≤ clk) | .none => w.interval.isNone | .waiting => false
  if w.entry || w.trapping then .trap
  else if w.dbg || w.life != .resident then .parked
  else if !staged then .staging
  else match w.held with
    | some h => h.reason
    | none => .stallCount

/-- The oldest wale of a list: the earliest resident, then the lower slot (R18). -/
def oldestWale (l : List Wale) : Option Wale :=
  l.foldl (fun b w => match b with
    | none => some w
    | some x => if w.born < x.born || (w.born == x.born && decide (w.slot < x.slot)) then some w else b) none

/-- A wale or a weaver that a pipe issues from. -/
def Wale.bound (w : Wale) : Bool := (w.kind == .wale && w.life != .saved) || w.kind == .weaver

/-- The pipes that have a wale or a weaver, or hold beats. -/
def State.livePipes (s : State) : List Nat :=
  (((s.wales.filter Wale.bound).map fun w => pipeOf w.core w.slot) ++
    (s.pipes.filter fun p => decide (s.clk < p.2)).map Prod.fst).eraseDups

/-! ### One clk -/

/-- A wale whose staging is complete at `clk` has its interval staged (R21). -/
def Wale.stagedAt (w : Wale) (clk : Nat) : Wale :=
  match w.staging with
  | .until k => if k ≤ clk then { w with staging := .done } else w
  | _ => w

/-- The fixed-latency results that are readable reach their registers (R28, R30). -/
def State.settleClk' (s : State) : State :=
  let s := s.wales.foldl (fun s w => if w.inflight.isEmpty then s else s.supersedeAll w s.clk) s
  let f (w : Wale) : Wale := (if w.inflight.isEmpty then w else w.settle s.clk).stagedAt s.clk
  { s with wales := s.wales.map f }

/-- What may be performed of a request now is performed at its home, and a request that has nothing left is complete. -/
def State.forceReq (s : State) (q : Req) : State :=
  match s.reqs.find? fun r => r.id == q.id with
  | none => s
  | some r =>
    if !r.open' then s
    else match r.kind with
      | .load | .store => s.performMask r 0xFFFFFFFF .home
      | .atomic op => if r.elems.all Elem.done then (s.landAtomic r (op == 9)).finishReq r.id else s.atomicStep r op
      | .red op => if r.elems.all Elem.done then s.finishReq r.id else s.atomicStep r op
      | .pref => s

/-- A write that has been held for 100 µs since its commit is performed at its home, and before it what its wale's own order
puts first (R240, log 96). -/
def State.overdueClk (s : State) : State :=
  (s.reqs.filter fun q => q.open' && q.writes && decide (q.at' + Config.clk100us ≤ s.clk)).foldl (fun (s : State) q =>
    (s.before q ++ [q]).foldl State.forceReq s) s

/-! ### Events that the clock determines -/

/-- A trap entry whose handler may be staged (R251). -/
def State.dueEntry (s : State) : Option Instr :=
  (s.wales.find? fun w => w.entry && decide (w.nextIssue ≤ s.clk) && s.ctxValid w.ctx &&
    (w.life == .resident || w.life == .stopping)).map fun w => .trapEntry w.id

/-- A staging request that can be granted (R21). -/
def State.dueStaging (s : State) : Option Instr :=
  (s.wales.find? fun w => w.kind == .wale && w.staging == .waiting &&
    (match s.stagingNext w.core (w.slot % 16) with | some x => s.canStage x | none => false)).map fun w =>
      .stagingGrant w.core (w.slot % 16)

/-- An array that completes, or that can take its next MMA (R187, R190). -/
def State.dueArray (s : State) : Option Instr :=
  match s.arrays.find? fun p => decide (p.2.done ≤ s.clk) with
  | some p => some (.mmaComplete p.1)
  | none =>
    (s.wales.find? fun w => !w.mq.isEmpty && (mFind s.arrays w.core).isNone && (s.nextMma w.core).isSome).map fun w => .arrayServe w.core

/-- A wale that has been ready for 64 clk (R291). -/
def State.dueAged (s : State) : Option Instr :=
  (s.wales.find? fun w => w.aged.isNone && (match w.readySince with | some t => decide (t + 64 ≤ s.clk) | none => false)).map
    fun w => .waleAged w.id

/-- A wale that has waited for its context's limit (R261). -/
def State.dueWatchdog (s : State) : Option Instr :=
  (s.wales.find? fun w => w.kind == .wale && w.life == .resident && s.ctxValid w.ctx && s.wdog w.ctx != 0 &&
    (match w.held with | some h => h.watched && decide (h.since + s.wdog w.ctx * 65536 ≤ s.clk) | none => false)).map
    fun w => .watchdog w.id

/-- A workgroup whose regrouping goes on (R155, R271). -/
def State.dueRgrp (s : State) : Option Instr :=
  (s.wgs.find? fun g => s.rgrpNext g != .wait).map fun g => .rgrpForm g.id

/-- A forwarding entry that has lapsed (R297). -/
def State.dueForward (s : State) : Option Instr :=
  ((s.forwards.zip (List.range s.forwards.length)).find? fun p => decide (p.1.expires ≤ s.clk)).map fun p =>
    .forwardingExpire p.2

/-- A die that has been idle long enough, or the package with every die in C3 (R379). -/
def State.dueDescend (s : State) : Option Instr :=
  if s.idleSince.isEmpty then none
  else match (List.range 4).find? s.canDescend with
    | some d => some (.powerStateDescend d)
    | none => if s.canSleep then some (.powerStateDescend 4) else none

/-- The end of Planning by its limit, and the halt of a run whose context has stopped (R348, R352). -/
def State.dueSlew (s : State) : Option Instr :=
  match s.slew.st with
  | .planning =>
    if s.slew.ending.isNone && s.progressReady && s.slew.since + 1200 ≤ s.clk && s.slew.planBy ≤ s.clk then some .slewPlanComplete else none
  | .pulling | .switching => if s.ctxValid s.slew.ctx || s.slew.ending.isSome then none else some .slewCtxStopped
  | _ => none

/-- A held fault record that has a slot (R340). -/
def State.dueFault (s : State) : Option Instr := if s.faultSpace then some .faultRecordWrite else none

/-- 10 s in Bring-up without BOOTOK (R374). -/
def State.dueBoot (s : State) : Option Instr :=
  if s.boot = .bringUp ∧ s.bootAt + bootLimit ≤ s.clk then some .bootOkTimeout else none

/-- The next event that the clock determines. -/
def State.internal (s : State) : Option Instr :=
  [s.dueEntry, s.dueStaging, s.dueArray, s.dueAged, s.dueWatchdog, s.dueRgrp, s.dueForward, s.dueSlew, s.dueFault,
    s.dueBoot, s.dueDescend].findSome? id

/-! ### The turns of the agenda -/

/-- The weaver of a core starts, once the boot has released it (R19, R285, R374); one that has started, or stopped (R256), does not. -/
def State.weaverTurn (s : State) (core : Nat) : State :=
  if !s.weaversRun || !s.corePresent core || s.weaverStopped.contains core || s.wales.any fun w => w.kind == .weaver && w.core == core then s
  else s.startWeaver core

/-- The next word of an engine stream (R207). -/
def State.streamTurn (s : State) (id : Nat) : Fetched :=
  match s.wale? id with
  | none => .stop (.next s)
  | some w =>
    if !(w.kind == .streamM || w.kind == .streamC) || w.atRdv || w.life != .resident || s.clk < w.nextIssue || s.withholds ||
        !s.ctxValid w.ctx then .stop (.next s)
    else s.fetch w

/-- A turn brings an instruction or event to be carried out. -/
def State.turn (s : State) (t : Turn) : Fetched :=
  match t with
  | .event i => .run s i
  | .bank id => s.bankFetch id
  | .stream id => s.streamTurn id
  | .weaver core => .stop (.next (s.weaverTurn core))
  | .withhold n => .stop (.next { s with withheld := max s.withheld (s.clk + n) })
  | .corrected strct d => .stop (.next (s.corrected strct d))
  | .pcie failed => .stop (.next (s.pcieError failed))

/-- A bank program holds a row that an access to a range goes to (R213). -/
def State.rangeHeld (s : State) (ctx va n : Nat) : Bool :=
  (piecesOf va n).any fun x =>
    match s.xlate ctx none .r x.1 with
    | .ok l => (List.range (x.2 / 32 + 1)).any fun i => s.bankHeld (l + min (32 * i) (x.2 - 1)) none
    | _ => false

/-- An access from outside: of the host, of a peer or to the submission window; and whether rows that it reaches are a bank
program's (R213). -/
def State.outside (s : State) (i : Instr) : Bool × Bool :=
  match i with
  | .hostBar4Write off data => (true, s.rangeHeld s.hostCtx (s.hostVa off) data.length)
  | .hostBar4Read off n => (true, s.rangeHeld s.hostCtx (s.hostVa off) n)
  | .peerAccess job va op =>
    (true, match s.jobCtx job with
      | some c => s.rangeHeld c va (match op with | .read n => n | .write bs => bs.length | _ => 4)
      | none => false)
  | .submissionWrite off _ _ =>
    let d := s.desc (off / 4096)
    (true, match s.recLoc (dCtx d) (dSlot d (dTail d)) .w with | some l => s.bankHeld l none | none => false)
  | _ => (false, false)

/-- An access from outside waits while a bank program holds its rows, and behind an earlier one that waits (R213, R330). -/
def State.turnWaits (s : State) (behind : Bool) (t : Turn) : Bool :=
  match t with
  | .event i => let (out, held) := s.outside i; out && (behind || held)
  | _ => false

/-- The first entry of an agenda that is due and does not wait, and the rest. -/
def State.dueFrom (s : State) (behind : Bool) : List Due → Option (Turn × List Due)
  | [] => none
  | d :: r =>
    if s.clk < d.clk then none
    else if s.turnWaits behind d.turn then (s.dueFrom true r).map fun x => (x.1, d :: x.2)
    else some (d.turn, r)

/-- The agenda's next turn, when one is due. -/
def State.due (s : State) : Option (Turn × State) := (s.dueFrom false s.agenda).map fun x => (x.1, { s with agenda := x.2 })

/-! ### Placing a word (for the host's reading of the decoder) -/

/-- The page tables of `placed`: one GiB of HBM at address 0, with every permission (R336). -/
def placedTables (m : List Host.Cell) : List Host.Cell :=
  mPutRange (mPutRange m 0x1000 (leBytes 8 0x2001)) 0x2000 (leBytes 8 0x1F)

/-- The clause that a placed word issues under: one slot, no wait, set flags f0 and f1. -/
def placedClause : ClausePos := ⟨0xFFF8, { wait := 0, setA := 0, setB := 1, len := 0, stalls := List.replicate 8 0, yield := false }, 0⟩

/-- The interval of a placed word: v0 to v30. -/
def placedInterval : IntervalHdr := { r0 := ⟨0, 31⟩, r1 := ⟨0, 0⟩, r2 := ⟨0, 0⟩, r3 := ⟨0, 0⟩, wsel := 0, wen := false }

/-- Context 1 is valid, its tables are those of `placed`, and it has no breakpoint; nothing else is at work. -/
def State.placed (s : State) (code : List Byte) : State :=
  { s with
    agenda := [], pipes := [], arrays := [], forwards := [], idleSince := [], ctxStopped := [], withheld := 0
    slew := Slew.reset, faultHeld := [], bootAt := s.clk, power := [], badWords := []
    ctxRecs := mSet 0 s.ctxRecs 1 (BitVec.ofNat 512 (2 ^ 32))
    regs := (List.range 4).foldl (fun m n => mSet 0 m (mgmt 4 (0x3020 + 8 * n)) 0) (mSet 0 s.regs 0x2008 0x1000)
    mem := mPutRange (placedTables s.mem) 0x10000 code
    wales := [], wgs := [], banks := [] }

/-- One wale stands before the placed word, its interval staged; `hdr` says that a header is due. -/
def State.placedWale (s : State) (code : List Byte) (hdr : Bool) : State :=
  let s1 := s.placed code
  let w := newWale s.nextId .wale 0 0 (s.nextId + 1) 0 1 256 0x10000 s.clk 0xFFFFFFFF
  let g := { newGroup (s.nextId + 1) 0 .spawned 0 1 256 s.clk with tiles := 8, bars := 16 }
  { s1 with
    nextId := s.nextId + 2, wgs := [g]
    wales := [{ w with clause := if hdr then none else some placedClause, interval := some placedInterval, staging := .done }] }

/-- A running bank program stands before the placed word. -/
def State.placedBank (s : State) (code : List Byte) : State :=
  let s1 := s.placed code
  let b : BankCall :=
    { id := s.nextId, wale := none, ctx := 1, base := 0x20000, prog := 0x10000, pc := 0x10000, w := [], args := [0, 0, 0, 0]
      lc := 0, limit := 0, loopStart := none, skipping := false, count := 0, flag := none, st := .running, space := 0, parent := 0
      recVa := 0, die := 0, unit := none, touched := false, pure := true, after := [], issued := s.clk, insn := 0, stamp := [] }
  { s1 with nextId := s.nextId + 1, banks := [b], agenda := [⟨0, .bank s.nextId⟩] }

/-- The weaver of core 0 stands before the placed words, under a clause (R76), the boot over (R374). -/
def State.placedWeaver (s : State) (code : List Byte) : State :=
  let s1 := s.placed code
  let w := newWale s.nextId .weaver 0 64 0 0 1 32 0x10000 s.clk 1
  { s1 with
    nextId := s.nextId + 1, weaverStopped := [], absent := [], boot := .running, wales := [{ w with clause := some placedClause }] }

/-- Whether a word is one of the weaver's own operations (R76). -/
def weaverWord (x : W64) : Bool := wordClass x == 12 && decide (4 ≤ x.toNat / 2 ^ 54 % 64) && decide (x.toNat / 2 ^ 54 % 64 ≤ 9)

/-- An instruction's bits stand where the next step fetches (numbered as the opcode table numbers them). -/
def State.placeWord (s : State) (nbits w : Nat) : State :=
  if nbits ≤ 32 then s.placedBank (leBytes 8 w)
  else
    let x := BitVec.ofNat 64 w
    if weaverWord x then s.placedWeaver (leBytes 16 w)
    else s.placedWale (leBytes 16 w) (decide (wordClass x ≤ 1))

end Sys2Proof.Machine
end

