-- ==== Sys2Proof/Machine/Ready.lean ====
section
/-!
DEFINITION. Sys2Proof/Machine/Ready.lean: which programs are ready (R18, R291, R370), the observation counters, the passing of
one clk, and what a step does next.
-/
namespace Sys2Proof.Machine

/-! ### Ready (R18, R291, R370) -/

/-- What the next word of an eligible program is held for, if it does not issue now: the word tried on the state as it stands. -/
def State.heldNow (s : State) (w : Wale) : Option Held :=
  match (match s.fetch w with | .run t i => exec i t | .stop o => o) with
  | .next t =>
    if mGet 0 t.pipes (pipeOf w.core w.slot) != mGet 0 s.pipes (pipeOf w.core w.slot) then none
    else (t.wale? w.id).bind Wale.held
  | _ => none

/-- Ready: eligible apart from the pipe, not held at its instruction, and issue is not withheld (R18, R291, R381). -/
def State.ready (s : State) (w : Wale) : Bool := s.eligible w && !s.withholds && (s.heldNow w).isNone

/-- The reason that a pipe without a ready program is charged (R370, R381): its oldest resident wale's, and while the power
controller withholds issue "parked", unless the wale is in a trap. -/
def State.pipeReason (s : State) (ws : List Wale) : Reason :=
  match oldestWale (ws.filter fun w => w.kind == .wale) with
  | none => .noneResident
  | some w =>
    let r := match (if s.eligible w then s.heldNow w else none) with | some h => h.reason | none => w.reasonAt s.clk
    if s.withholds && r != .trap then .parked else r

/-- The counters of one pipe for the clk that ends (R370): HIST counts the weaver on pipe 15 too. HIST(0) and REASON(0)
count by themselves. -/
def State.obsPipe (s : State) (key : Nat) : State :=
  let core := key / 16
  let at' (o : Nat) : Nat := obsAt core (key % 16) o
  let ws := s.wales.filter fun w => w.bound && pipeOf w.core w.slot == key
  let n := (ws.filter s.ready).length + (if mFind s.issuedAt key == some s.clk then 1 else 0)
  let busy := decide (s.clk < mGet 0 s.pipes key)
  let s := if busy then s.addObs (at' 0xF0) 1 else s
  let s := if n = 0 then s else (s.addObs (at' (8 * n)) 1).addObs (at' 0) (2 ^ 64 - 1)
  let r := (s.pipeReason ws).code
  if n = 0 ∧ !busy then
    if r = 0 then s else (s.addObs (at' (0x88 + 8 * r)) 1).addObs (at' 0x88) (2 ^ 64 - 1)
  else s.addObs (at' 0x88) (2 ^ 64 - 1)

/-- The observation counters move on by one clk (R370). -/
def State.obsClk (s : State) : State := s.livePipes.foldl State.obsPipe s

/-- How long each wale has been ready (R291). -/
def State.readyClk (s : State) : State :=
  let f (w : Wale) : Wale :=
    { w with readySince := if w.kind == .wale && s.ready w then some (w.readySince.getD s.clk) else none }
  { s with wales := s.wales.map f }

/-! ### One clk, and what comes next -/

/-- ONE CLK PASSES: the counters count it, near accesses are performed, results settle, and queues that wait for
time move on. -/
def State.tick (s : State) : State :=
  let s := s.obsClk.readyClk.candClk
  let s := { s with clk := s.clk + 1 }
  s.bankClk.layClk.settleClk'.overdueClk.cacheClk.fenceClk.evClk.contClk.settlePart.linkClk.wvClk.slewClk.ckptFinish.powerClk.idleClk

/-- WHAT COMES NEXT: the agenda's turn, the clock's event, the wale or weaver that issues, or one clk. -/
def State.nextUp (s : State) : Fetched :=
  match s.due with
  | some (t, s') => s'.turn t
  | none =>
    match s.internal with
    | some i => .run s i
    | none =>
      match s.selected with
      | some (w, t) => t.fetch w
      | none => .stop (fin s.tick)

end Sys2Proof.Machine
end

