-- ==== Sys2Proof/Machine/Step.lean ====
section
/-!
DEFINITION. Sys2Proof/Machine/Step.lean: one step of the machine.
-/
namespace Sys2Proof.Machine

/-- One step: what comes next is carried out. -/
def step (s : State) : Host.Outcome State Fault Refusal :=
  match s.nextUp with
  | .stop o => o
  | .run t i => exec i t

/-- The instruction whose bits are `w` stands where the next step fetches. -/
def State.withFetchWord (s : State) (nbits w : Nat) : State := s.placeWord nbits w

end Sys2Proof.Machine
end

