-- ==== Sys2Proof/Safety.lean ====
section
/-!
DEFINITION. Sys2Proof/Safety.lean: the canonical form of a state, and what counts as a run and as a safe run.
-/
namespace Sys2Proof.Machine

/-- The keys of every sparse map of a wale rise strictly. -/
def Wale.canonical (w : Wale) : Bool :=
  mSorted w.v && mSorted w.tags && mSorted w.s && mSorted w.q && mSorted w.x && mSorted w.seeds && mSorted w.flags &&
    mSorted w.barArrivals

/-- The keys of every sparse map of a workgroup rise strictly. -/
def Workgroup.canonical (g : Workgroup) : Bool := mSorted g.barriers && mSorted g.tileTags && mSorted g.tile

/-- The keys of the machine's maps of memory, locks and caches rise strictly. -/
def State.memMaps (s : State) : Bool :=
  Memory.wf s.mem && mSorted s.pageEpoch && mSorted s.locks && mSorted s.rels && mSorted s.dirty && mSorted s.layouts &&
    mSorted s.rings && mSorted s.oldWords

/-- The keys of the machine's maps of registers, events and units rise strictly. -/
def State.unitMaps (s : State) : Bool :=
  mSorted s.pipes && mSorted s.issuedAt && mSorted s.obs && mSorted s.regs && mSorted s.events && mSorted s.ctxRecs &&
    mSorted s.queueSt && mSorted s.claims && mSorted s.wvPend && mSorted s.retired && mSorted s.lastServed &&
    mSorted s.coreTasks && mSorted s.dieTasks && mSorted s.bankTasks && mSorted s.arrays && mSorted s.links &&
    mSorted s.part.cores && mSorted s.power && mSorted s.idleSince && mSorted s.wakeAt && mSorted s.psDropped && mSorted s.wvIssues

/-- THE CANONICAL FORM OF A STATE: every map is sorted by its keys, and no key stands in it twice. -/
def State.canonical (s : State) : Bool :=
  s.memMaps && s.unitMaps && s.wales.all Wale.canonical && s.wgs.all Workgroup.canonical &&
    s.banks.all fun b => mSorted b.w

/-- A run of `k` steps that meets no fault and no refusal. -/
def SafeRun (s : State) : Nat → State → Prop
  | 0, t => s = t
  | k + 1, t => ∃ u, step s = .next u ∧ SafeRun u k t

/-- The machine stops with a fault from `s` after some steps. -/
def Stops (s : State) : Prop := ∃ k t r, SafeRun s k t ∧ step t = .fault r

end Sys2Proof.Machine
end

