-- ==== Sys2Proof/Certificates/Slice0/Obligations.lean ====
section
/-!
DEFINITION. Sys2Proof/Certificates/Slice0/Obligations.lean: what the provers are asked to prove of the model.

`Sys2Proof.Claims` holds the words the statements use: readiness conditions on the state and the
operands, tables of instructions of one shape, and frames.
-/
namespace Sys2Proof.Claims
open Sys2Proof.Machine

/-- A step's outcome. -/
abbrev Out := Host.Outcome State Fault Refusal

/-- `w` is the wale whose instruction is at hand. -/
def AtHand (s : State) (w : Wale) : Prop := s.wale? s.cur = some w

/-! ### Vector operations -/

/-- A vector operation may execute: the checks of R99 pass, some thread is active, and no beat
raises a trap (R33, R46). -/
def VecReady (s : State) (w : Wale) (g : G) (op : VOp) : Prop :=
  AtHand s w ∧ s.vecCheck w g op = none ∧ w.active g.face ≠ 0 ∧
    commitTrap (op.runAll w g s.clk).1 (s.enables w) (s.clk + op.occ) = none

/-- The state after a vector operation has executed. -/
def vecDone (s : State) (w : Wale) (g : G) (op : VOp) : State :=
  s.issueWith { w with seeds := (op.runAll w g s.clk).2 } (op.flights w g (op.runAll w g s.clk).1 s.clk) op.occ 0

/-- The exact integer operations of R102 with two or three operands. -/
def arithTable (g : G) : List (Instr × (Int → Int → Int → Int)) :=
  [(.addInt g, fun a b _ => a + b), (.subInt g, fun a b _ => a - b), (.mulInt g, fun a b _ => a * b),
   (.mulhi g, fun a b _ => a * b / 2 ^ 32), (.mad g, fun a b c => a * b + c), (.absInt g, fun a _ _ => a.natAbs),
   (.negInt g, fun a _ _ => -a), (.minInt g, fun a b _ => min a b), (.maxInt g, fun a b _ => max a b)]

/-- The bitwise operations of R104. -/
def logicTable (g : G) : List (Instr × (W32 → W32 → W32)) :=
  [(.and g, fun a b => a &&& b), (.or g, fun a b => a ||| b), (.xor g, fun a b => a ^^^ b), (.not g, fun a _ => ~~~a)]

/-- The vector operations of class 0010 with the operation that each performs. -/
def intOps (g : G) : List (Instr × VOp) :=
  ((arithTable g).map fun p => (p.1, arithOp g.ty p.2)) ++
  ((logicTable g).map fun p => (p.1, logicOp g.ty p.2)) ++
  [(.div g, divOp g.ty Int.tdiv), (.rem g, divOp g.ty Int.tmod),
   (.shl g, shiftOp g.ty shlN), (.shr g, shiftOp g.ty shrN), (.sar g, shiftOp g.ty sarN),
   (.rot g, imgOp g.ty (countTag g.ty [2]) fun _ a b _ => a.rotateLeft (b.toNat % 32)),
   (.popc g, imgOp g.ty (sameTag g.ty) fun _ a _ _ => BitVec.ofNat 32 (popc32 a)),
   (.clz g, imgOp g.ty (sameTag g.ty) fun _ a _ _ => BitVec.ofNat 32 (clz32 a)),
   (.brev g, imgOp g.ty (sameTag g.ty) fun _ a _ _ => brev32 a),
   (.bfx g, imgOp g.ty (countTag g.ty [2, 3]) fun _ a b c => bfx32 g.ty.signed a b c),
   (.bfi g, imgOp g.ty (countTag g.ty [3]) fun _ a b c => bfi32 a b c),
   (.add64 g, op64 g.ty (· + ·)), (.sub64 g, op64 g.ty (· - ·)), (.mulw g, mulwOp g.ty), (.cmpInt g, cmpIntOp g.ty),
   (.pand g, predOp (· && ·)), (.por g, predOp (· || ·)), (.pxor g, predOp (· != ·)), (.pnot g, predOp fun a _ => !a),
   (.sel g, copyOp g.ty fun a b q => if q != 0 then a else b), (.mov g, copyOp g.ty fun a _ _ => a),
   (.moviVector g, copyOp g.ty fun _ b _ => b), (.movsv g, copyOp g.ty fun a _ _ => a),
   (.xmov g, idxOp g.ty fun a _ => a), (.xadd g, idxOp g.ty fun a b => a + b), (.xget g, xgetOp)]

/-- The vector operations of class 0011. -/
def fltOps (g : G) : List (Instr × VOp) :=
  [(.addFlt g, fltVOp g.ty (binF FVal.add)), (.subFlt g, fltVOp g.ty (binF fun m a b => a.add m b.neg)),
   (.mulFlt g, fltVOp g.ty (binF fun _ a b => a.mul b)), (.fma g, fltVOp g.ty fmaF),
   (.minFlt g, fltVOp g.ty (binF fun _ a b => a.minmax false false b)),
   (.maxFlt g, fltVOp g.ty (binF fun _ a b => a.minmax true false b)),
   (.minnm g, fltVOp g.ty (binF fun _ a b => a.minmax false true b)),
   (.maxnm g, fltVOp g.ty (binF fun _ a b => a.minmax true true b)),
   (.absFlt g, fltVOp g.ty (unF fun a => (a.abs, sigExc [a]))), (.negFlt g, fltVOp g.ty (unF fun a => (a.neg, sigExc [a]))),
   (.cpysgn g, fltVOp g.ty cpysgnF),
   (.cmpFlt g, fltPred g.ty fun m a b => fcond m.cond ((fmtOf g.ty).decode a) ((fmtOf g.ty).decode b)),
   (.classFlt g, fltPred g.ty fun m a _ => (classHolds (fmtOf g.ty) m.cond a, 0)),
   (.rcp g, transOp g.ty (unF rcpVal)), (.sqrt g, transOp g.ty (unF sqrtF)), (.rsq g, transOp g.ty (unF rsqVal)),
   (.rint g, fltVOp g.ty rintF), (.fract g, fltVOp g.ty fractF), (.expins g, expinsOp g.ty), (.expext g, expextOp g.ty),
   (.fexp2f g, transOp g.ty fexp2fF), (.flog2f g, transOp g.ty flog2fF)]

/-- The vector operations of classes 0100 and 0101 that R99's checks and one beat sequence describe whole. -/
def moveOps (g : G) : List (Instr × VOp) :=
  [(.cvt g, cvtOp g), (.pack2 g, pack2Op g.ty), (.unpk2 g, unpk2Op g.ty), (.q4unpk g, q4unpkOp g.ty),
   (.xchgBfly g, laneOp g.ty [] (fun t b => (t ^^^ b.toNat) % 32) fun _ => false),
   (.shfl g, laneOp g.ty [.i32, .n32] (fun _ b => b.toNat % 32) fun _ => false),
   (.bcast g, laneOp g.ty [] (fun _ b => b.toNat % 32) fun b => decide (31 < b.toNat))]

/-- Every vector operation but SRD and Q4PACK, whose meanings have more to them. -/
def vectorOps (g : G) : List (Instr × VOp) := intOps g ++ fltOps g ++ moveOps g

/-- What an instruction of a wale without memory, queue or control effect leaves as it was: every byte of memory,
the BAR 0 registers, context records, workgroups, queues, engines and every other wale. -/
def OnlyWale (s t : State) : Prop :=
  (∀ l, t.byteAt l = s.byteAt l) ∧ t.mem = s.mem ∧ t.regs = s.regs ∧ t.ctxRecs = s.ctxRecs ∧ t.wgs = s.wgs ∧
  t.reqs = s.reqs ∧ t.near = s.near ∧ t.layouts = s.layouts ∧ t.locks = s.locks ∧ t.events = s.events ∧
  t.faultRing = s.faultRing ∧ t.faultTail = s.faultTail ∧ t.faultHead = s.faultHead ∧ t.banks = s.banks ∧
  t.images = s.images ∧ t.clk = s.clk ∧ t.ctxStopped = s.ctxStopped ∧
  (t.wales.filter fun x => x.id != s.cur) = s.wales.filter fun x => x.id != s.cur

/-- What an instruction leaves of its wale that only control, traps and queues change. -/
def SameControl (w v : Wale) : Prop :=
  v.exm = w.exm ∧ v.live = w.live ∧ v.masks = w.masks ∧ v.melds = w.melds ∧ v.trap = w.trap ∧ v.flags = w.flags ∧
  v.interval = w.interval ∧ v.staging = w.staging ∧ v.mq = w.mq ∧ v.pend = w.pend ∧ v.streams = w.streams

/-- The registers of a wale as stored, its pending results and its seeds. -/
def SameRegs (w v : Wale) : Prop :=
  v.v = w.v ∧ v.tags = w.tags ∧ v.s = w.s ∧ v.q = w.q ∧ v.x = w.x ∧ v.inflight = w.inflight ∧ v.seeds = w.seeds

/-- The wale has moved past the instruction at hand: the next word, and the next issue no earlier than the stall
count and `bound` clk later (R29, R139). -/
def Advanced (s : State) (w v : Wale) (bound : Nat) : Prop :=
  v.pc = addr52 (w.pc + w.insnBytes) ∧ v.nextIssue = s.clk + max (max w.stall bound) 1 ∧ v.issueNo = w.issueNo + 1

/-- The instruction at hand goes to a next state in which its wale satisfies `P`. -/
def Goes (i : Instr) (s : State) (P : State → Wale → Prop) : Prop :=
  ∃ t v, exec i s = .next t ∧ t.wale? s.cur = some v ∧ P t v

/-! ### Scalar operations -/

/-- A scalar operation may execute on its wale: its FACE is legal, its active set when it has a face is not empty, and
in strict mode what it reads is old enough (R70, R98, R31). -/
def ScalarReady (s : State) (w : Wale) (face : Face) (uses : List Use) : Prop :=
  AtHand s w ∧ w.faceOk face = true ∧ (face = .both ∨ w.active face ≠ 0) ∧ s.stallShort w uses = none

/-- The scalar operations of R111 and R112 with the function each computes. -/
def scalarOps (g : G) : List (Instr × (W32 → W32 → W32)) :=
  let val (x : W32) : Int := (elems g.ty x).getD 0 0
  [(.moviScalar g, fun _ b => b), (.sadd g, scExact g (· + ·)), (.ssub g, scExact g (· - ·)), (.smul g, scExact g (· * ·)),
   (.sand g, (· &&& ·)), (.sor g, (· ||| ·)), (.sxor g, (· ^^^ ·)),
   (.sshl g, fun a b => if b.toNat ≥ 32 then 0 else a <<< b.toNat),
   (.sshr g, fun a b => if g.ty = .i32 then a.sshiftRight (min b.toNat 32) else if b.toNat ≥ 32 then 0 else a >>> b.toNat),
   (.scmp g, fun a b => if condHolds g.fa.mods.cond (val a) (val b) then 1 else 0),
   (.smin g, scExact g min), (.smax g, scExact g max), (.smov g, fun a _ => a)]

/-! ### Control -/

/-- A control operation may execute: a wale's, with a legal FACE and nothing too early in strict mode (R70, R31). -/
def ControlReady (s : State) (w : Wale) (face : Face) (uses : List Use) : Prop :=
  AtHand s w ∧ w.kind = .wale ∧ w.faceOk face = true ∧ s.stallShort w uses = none

end Sys2Proof.Claims

section
open Sys2Proof Sys2Proof.Machine Sys2Proof.Claims

/-! ### Decoding -/

/-- DECODE AND ENCODE AGREE: every well-formed instruction of the code form decodes from its words to itself. -/
def Obligations.DecodeEncodeInverse : Prop :=
  ∀ (i : Instr) (w : W64) (r : List W64), i.wf = true → encode i = some (w :: r) → decodeWord w r.head? = .ok i

/-- Every word that the decoder accepts gives a well-formed instruction, and the words of its encoding are the word
and, when it is paired, its extension (for a defined operation, whose bits all count). -/
def Sys2Proof.Claims.DecodedIsWellFormed : Prop :=
  ∀ (x : W64) (ext : Option W64) (i : Instr), decodeWord x ext = .ok i →
    i.wf = true ∧ ((∀ w, i ≠ .illegalWord w ∧ i ≠ .clmull w ∧ i ≠ .clmulh w) →
      encode i = some (if pairedWord x then x :: ext.toList else [x]))

/-- The same for the 32-bit words of bank programs: encode and decode are inverse to each other. -/
def Sys2Proof.Claims.BankDecodeEncodeInverse : Prop :=
  (∀ (i : Instr) (x : W32), i.wf = true → encodeBank i = some x → decodeBank x = some i) ∧
  (∀ (i : Instr) (x : W32), decodeBank x = some i → i.wf = true ∧ encodeBank i = some x)

/-- DECODING GIVES WELL-FORMED INSTRUCTIONS, whose encodings are the words they came from, in code and in bank programs (R57, R211). -/
def Obligations.DecodingIsWellFormed : Prop := DecodedIsWellFormed ∧ BankDecodeEncodeInverse

/-- Words written out in the spec decode to the instructions they stand for. -/
def Obligations.SpecWordsDecode : Prop :=
  decodeWord 0x210C007040506020 none = .ok (.mad ⟨.i16, .both, ⟨.vec 7, .vec 4, .vec 5, .vec 6, { sat := true }⟩, none⟩) ∧
  decodeWord 0x26D8101090000000 none = .ok (.cmpInt ⟨.n32, .both, ⟨.pred 1, .vec 9, .imm 0, .none, {}⟩, none⟩) ∧
  decodeWord 0x2A5890202000000F none = .ok (.sand ⟨.n32, .both, ⟨.sc 2, .sc 2, .imm 15, .none, {}⟩, none⟩) ∧
  decodeWord 0x5024005040100000 none = .ok (.xchgBfly ⟨.f32, .both, ⟨.vec 5, .vec 4, .lit 1, .none, {}⟩, none⟩) ∧
  decodeWord 0x2CC0002010000000 none = .ok (.srds ⟨.raw, .both, ⟨.sc 2, .lit 1, .lit 0, .none, {}⟩, none⟩)

/-! ### Vector operations -/

/-- EVERY VECTOR OPERATION COMPLETES: when the checks of R99 pass, some thread is active and no beat traps, each vector
operation of classes 0010 to 0101 goes to the state in which its results are pending and its pipe is held for O clk. -/
def Sys2Proof.Claims.VectorOperationsComplete : Prop :=
  ∀ (g : G) (s : State) (w : Wale), ∀ p ∈ vectorOps g, VecReady s w g p.2 → exec p.1 s = .next (vecDone s w g p.2)

/-- A vector operation with an empty active set issues no beats and holds its pipe for one issue clk (R17); one
whose checks fail traps with the first that fails (R99); one of whose beats faults traps at commit with no result (R33). -/
def Sys2Proof.Claims.VectorOperationsStop : Prop :=
  ∀ (g : G) (s : State) (w : Wale), ∀ p ∈ vectorOps g, AtHand s w →
    (∀ r, s.vecCheck w g p.2 = some r → exec p.1 s = .next (s.takeTrap w r)) ∧
    (s.vecCheck w g p.2 = none → w.active g.face = 0 → exec p.1 s = .next (s.issued w 0)) ∧
    (∀ r, s.vecCheck w g p.2 = none → w.active g.face ≠ 0 →
      commitTrap (p.2.runAll w g s.clk).1 (s.enables w) (s.clk + p.2.occ) = some r →
      exec p.1 s = .next ((s.holdPipe w (s.clk + p.2.occ)).takeTrap w r))

/-- VECTOR OPERATIONS: where each completes, and where it idles or traps (R16, R17, R33, R99). -/
def Obligations.VectorOperations : Prop := VectorOperationsComplete ∧ VectorOperationsStop

/-- THE RESULT OF A VECTOR OPERATION IS READ BACK: element t of each destination register reads, from clk
p + L − O + 4 + k·(t div 8) on, as the word that the operation yields for thread t (R28). -/
def Sys2Proof.Claims.VectorResultsReadBack : Prop :=
  ∀ (g : G) (s : State) (w : Wale) (op : VOp) (t j r clk : Nat), AtHand s w → t < 32 → j < op.outs →
    (w.active g.face).getLsbD t = true → w.dstReg (w.opnds g t).d t s.clk = some r →
    s.clk + op.lat - op.occ + 4 + op.occ / 4 * (t / 8) ≤ clk →
    ∃ v, (vecDone s w g op).wale? s.cur = some v ∧
      (op.file = .v → v.vAt (r + j) t clk = resWord (op.runAll w g s.clk).1 t j) ∧
      (op.file = .q → v.qAt (r + j) t clk = (resWord (op.runAll w g s.clk).1 t j != 0)) ∧
      (op.file = .x → v.xAt (r + j) t clk = (resWord (op.runAll w g s.clk).1 t j).toNat % 256)

/-- THE FRAME OF A VECTOR OPERATION: memory, the other wales and every other part of the machine stay; scalars, flags,
masks and stacks stay; an element reads as before when its thread is inactive or its register is no destination of
its thread, or while it is read before its clk (R28, R33); a tag reads as before unless its register is written. -/
def Sys2Proof.Claims.VectorFrame : Prop :=
  ∀ (g : G) (s : State) (w : Wale) (op : VOp), AtHand s w → op.file ≠ .s → op.file ≠ .tag →
    OnlyWale s (vecDone s w g op) ∧
    ∃ v, (vecDone s w g op).wale? s.cur = some v ∧ SameControl w v ∧ Advanced s w v 0 ∧
      v.v = w.v ∧ v.s = w.s ∧ v.q = w.q ∧ v.x = w.x ∧ v.tags = w.tags ∧
      (∀ n clk, v.sAt n clk = w.sAt n clk) ∧
      (∀ r t clk, ((w.active g.face).getLsbD t = true → op.file = .v →
          ∀ b j, w.dstReg (w.opnds g t).d t s.clk = some b → j < op.outs → r = b + j →
            clk < s.clk + op.lat - op.occ + 4 + op.occ / 4 * (t / 8)) → v.vAt r t clk = w.vAt r t clk) ∧
      (∀ r clk, (op.file = .v → ∀ t b j, (w.active g.face).getLsbD t = true →
          w.dstReg (w.opnds g t).d t s.clk = some b → j < op.outs → r ≠ b + j) → v.tagAt r clk = w.tagAt r clk) ∧
      (op.file ≠ .q → ∀ q t clk, v.qAt q t clk = w.qAt q t clk) ∧
      (op.file ≠ .x → ∀ x t clk, v.xAt x t clk = w.xAt x t clk)

/-- A write sets the destination's tag to the type of the result, for instructions issued from clk p + O on (R25, R100). -/
def Sys2Proof.Claims.VectorResultTag : Prop :=
  ∀ (g : G) (s : State) (w : Wale) (op : VOp) (t j r clk : Nat), AtHand s w → t < 32 → j < op.outs → op.file = .v →
    (w.active g.face).getLsbD t = true → w.dstReg (w.opnds g t).d t s.clk = some r → s.clk + op.occ ≤ clk →
    ∃ v, (vecDone s w g op).wale? s.cur = some v ∧ v.tagAt (r + j) clk = op.tag

/-- THE RESULTS OF VECTOR OPERATIONS: their elements, their tags, and their frame (R25, R28, R33, R100). -/
def Obligations.VectorResults : Prop := VectorResultsReadBack ∧ VectorFrame ∧ VectorResultTag

/-- The elements of an integer result (R97, R102): each is the exact value reduced modulo 2^w and read in the range of
TYPE, or with `.sat` the nearest value of the range; the register holds a valid image of TYPE (R35). -/
def Sys2Proof.Claims.IntegerArithmeticValue : Prop :=
  ∀ (ty : Ty) (sat : Bool) (f : Int → Int → Int → Int) (a b c : W32) (e : Nat), ty ∈ tysIntP →
    e < (if ty = .i16x2 then 2 else 1) →
    let x := f ((elems ty a).getD e 0) ((elems ty b).getD e 0) ((elems ty c).getD e 0)
    let r := mapElems ty sat f a b c
    let y := (elems ty r).getD e 0
    validImage ty r = true ∧ ty.minVal ≤ y ∧ y ≤ ty.maxVal ∧
    (sat = true → y = max ty.minVal (min ty.maxVal x)) ∧ (sat = false → (y - x) % 2 ^ ty.width = 0)

/-- DIV truncates toward zero and REM yields a − b × q; b = 0 in any active thread raises INT_DIV0 (R103). -/
def Sys2Proof.Claims.DivisionValue : Prop :=
  ∀ (ty : Ty) (o : Opnds) (t : Nat) (sd a b c : W64), ty ∈ tys32 →
    let x := val0 ty a
    let y := val0 ty b
    let q := (divOp ty Int.tdiv).fn o t (sd.truncate 32) a b c
    let r := (divOp ty Int.tmod).fn o t (sd.truncate 32) a b c
    (q.cause = some .intDiv0 ↔ y = 0) ∧ (r.cause = some .intDiv0 ↔ y = 0) ∧ (y ≠ 0 → q.cause = none ∧ r.cause = none) ∧
    (y ≠ 0 → o.mods.sat = false → ∃ k : Int, q.vals = [BitVec.ofInt 32 k] ∧ r.vals = [BitVec.ofInt 32 (x - y * k)] ∧
      (x - y * k).natAbs < y.natAbs ∧ (x - y * k = 0 ∨ (0 < x - y * k ↔ 0 < x)))

/-- SHL, SHR and SAR on a w-bit pattern by any count: bit i of the result is the bit n below it, the bit n above it,
or the top bit where there is none (R104). -/
def Sys2Proof.Claims.ShiftBits : Prop :=
  ∀ (w a n i : Nat), 0 < w → a < 2 ^ w → i < w →
    (shlN w a n).testBit i = (decide (n ≤ i) && a.testBit (i - n)) ∧
    (shrN w a n).testBit i = (decide (i + n < w) && a.testBit (i + n)) ∧
    (sarN w a n).testBit i = (if i + n < w then a.testBit (i + n) else a.testBit (w - 1)) ∧
    shlN w a n < 2 ^ w ∧ shrN w a n < 2 ^ w ∧ sarN w a n < 2 ^ w

/-- POPC, CLZ AND BREV (R105): their forms carry TYPE RAW, i32 or n32 and no immediate; each active thread's element becomes the number of 1
bits (0 to 32), the number of 0 bits above the highest 1 bit (32 for zero), or the image with bit i moved to bit 31 − i; the
result tag is TYPE. -/
def Obligations.BitCounts : Prop :=
  (∀ v : W32, popc32 v = ((List.range 32).filter fun k => v.getLsbD k).length ∧ popc32 v ≤ 32 ∧
    (clz32 v = 32 ↔ v = 0) ∧ (v ≠ 0 → v.getLsbD (31 - clz32 v) = true) ∧
    ∀ i < 32, (v.getLsbD i = true → clz32 v ≤ 31 - i) ∧ (brev32 v).getLsbD i = v.getLsbD (31 - i)) ∧
  (∀ g : G, ∀ i ∈ [Instr.popc g, .clz g, .brev g], i.wf = true →
    (g.ty = .raw ∨ g.ty = .i32 ∨ g.ty = .n32) ∧ g.fa.b = .none ∧ g.fa.c = .none) ∧
  ∀ (g : G) (s : State) (w : Wale) (t r clk : Nat),
    ∀ p ∈ [(Instr.popc g, fun a : W32 => BitVec.ofNat 32 (popc32 a)), (.clz g, fun a => BitVec.ofNat 32 (clz32 a)), (.brev g, brev32)],
      VecReady s w g (imgOp g.ty (sameTag g.ty) fun _ a _ _ => p.2 a) → g.fb = none → g.fa.d = .vec r → t < 32 →
      (w.active g.face).getLsbD t = true → s.clk + 8 + t / 8 ≤ clk → Goes p.1 s fun _ v =>
        v.vAt r t clk = p.2 ((w.srcAt g.ty g.fa.a false t s.clk (s.clk + t / 8)).truncate 32) ∧ v.tagAt r clk = g.ty

/-- BFX extracts bits e − 1 to b of a, extended by the signedness, and BFI replaces bits e − 1 to offset of a by the low
bits of b, where e = min(offset + width, 32); a zero width or an offset past bit 31 gives 0 and a (R106). -/
def Sys2Proof.Claims.BitFields : Prop :=
  ∀ (sg : Bool) (a b c : W32) (i : Nat), i < 32 →
    (let e := min (b.toNat + c.toNat) 32
     (bfx32 sg a b c).getLsbD i =
      if c = 0 ∨ 32 ≤ b.toNat then false
      else if b.toNat + i < e then a.getLsbD (b.toNat + i) else (sg && a.getLsbD (e - 1))) ∧
    (let off := c.toNat % 256
     let e := min (off + c.toNat / 256 % 256) 32
     (bfi32 a b c).getLsbD i = if off ≤ i ∧ i < e then b.getLsbD (i - off) else a.getLsbD i)

/-- THE BITS OF SHIFTS AND BIT FIELDS (R104, R106). -/
def Obligations.ShiftAndFieldBits : Prop := ShiftBits ∧ BitFields

/-- The 64-bit operations: ADD64 and SUB64 wrap modulo 2^64 or clamp to the 64-bit range under `.sat`, and MULW gives the
exact product of two 32-bit values (R107). -/
def Sys2Proof.Claims.WideIntegerValue : Prop :=
  ∀ (ty : Ty) (sat : Bool) (f : Int → Int → Int) (a b : W64), ty ∈ tys32 →
    let val (x : W64) : Int := if ty = .i32 then x.toInt else x.toNat
    let x := f (val a) (val b)
    let y := val (wide64 ty sat f a b)
    (sat = false → (y - x) % 2 ^ 64 = 0) ∧
    (sat = true → y = if ty = .i32 then max (-2 ^ 63) (min (2 ^ 63 - 1) x) else max 0 (min (2 ^ 64 - 1) x)) ∧
    val (BitVec.ofInt 64 (val0 ty a * val0 ty b)) = val0 ty a * val0 ty b

/-- THE VALUES OF INTEGER ARITHMETIC (R35, R97, R102, R103, R107). -/
def Obligations.IntegerValues : Prop := IntegerArithmeticValue ∧ DivisionValue ∧ WideIntegerValue

/-! ### Scalar operations -/

/-- SCALAR OPERATIONS COMPLETE with their result: each scalar operation of R111 and R112 goes on, S[d] reads as its
result from 4 clk after issue (R101), and nothing else that it could touch changes. -/
def Sys2Proof.Claims.ScalarOperationsComplete : Prop :=
  ∀ (g : G) (s : State) (w : Wale) (n : Nat), ∀ p ∈ scalarOps g,
    ScalarReady s w g.face (scUsesOf g.fa.a ++ scUsesOf g.fa.b) → g.fa.d = .sc n →
    Goes p.1 s fun t v =>
      (∀ clk, s.clk + 4 ≤ clk → v.sAt n clk = p.2 (w.uniSrc g.ty g.fa.a s.clk) (w.uniSrc g.ty g.fa.b s.clk)) ∧
      (∀ clk, clk < s.clk + 4 → v.sAt n clk = w.sAt n clk) ∧ (∀ m clk, m ≠ n → v.sAt m clk = w.sAt m clk) ∧
      (∀ r th clk, v.vAt r th clk = w.vAt r th clk) ∧ (∀ r clk, v.tagAt r clk = w.tagAt r clk) ∧
      (∀ q th clk, v.qAt q th clk = w.qAt q th clk) ∧ SameControl w v ∧ Advanced s w v 0 ∧ OnlyWale s t

/-- A scalar operation with a FACE whose set is empty has no effect and costs one issue clk (R98); outside a melded
region a FACE other than 00 is MELD_ILLEGAL (R70). -/
def Sys2Proof.Claims.ScalarOperationsIdle : Prop :=
  ∀ (g : G) (s : State) (w : Wale), AtHand s w →
    ∀ i ∈ (scalarOps g).map Prod.fst ++ [.exmrd g, .tagset g, .tagget g, .movvs g],
    (w.faceOk g.face = false → exec i s = s.raise w .meldIllegal (w.active g.face)) ∧
    (w.faceOk g.face = true → g.face ≠ .both → w.active g.face = 0 → exec i s = .next (s.issued w 0))

/-- SCALAR OPERATIONS: where each completes, and where it idles or traps (R70, R98, R101, R111, R112). -/
def Obligations.ScalarOperations : Prop := ScalarOperationsComplete ∧ ScalarOperationsIdle

/-- MOVVS, SRDS, EXMRD and TAGGET write a scalar that reads, from 4 clk after issue on, as the element of the thread
named, the special register's word, EXM, and the tag's code, each as it stands at the issue clk (R111, R114 to R116). -/
def Sys2Proof.Claims.ScalarReadsComplete : Prop :=
  ∀ (g : G) (s : State) (w : Wale) (n r : Nat), ScalarReady s w g.face [] → g.fa.d = .sc n →
    let reads (i : Instr) (x : W32) : Prop := Goes i s fun t v =>
      (∀ clk, s.clk + 4 ≤ clk → v.sAt n clk = x) ∧ (∀ m clk, m ≠ n → v.sAt m clk = w.sAt m clk) ∧
      (∀ q th clk, v.vAt q th clk = w.vAt q th clk) ∧ SameControl w v ∧ OnlyWale s t
    reads (.exmrd g) w.exm ∧
    (∀ c k, g.fa.a = .lit c → g.fa.b = .lit k → (0x10 ≤ c → w.trap.isSome = true) →
      reads (.srds g) (s.srWord w c k 0)) ∧
    (w.kind = .wale → w.inSet r = true → g.fa.a = .vec r → reads (.tagget g) (BitVec.ofNat 32 (w.tagAt r s.clk).code)) ∧
    (let u := (w.uniSrc .raw g.fa.b s.clk).toNat
     s.stallShort w (Use.mk .v r :: scUsesOf g.fa.b) = none → w.kind = .wale → w.inSet r = true → g.fa.a = .vec r → u ≤ 31 →
      (g.fa.mods.any = true ∨ w.tagAt r s.clk = g.ty) → reads (.movvs g) (w.vAt r u s.clk))

/-- EXMWR sets EXM to S[a] AND live, so it revives no thread; inside a melded region it is MELD_ILLEGAL (R115). TAGSET
sets the tag of V[d] (of both halves for f64) and leaves every element (R116). -/
def Sys2Proof.Claims.MaskAndTagWrites : Prop :=
  ∀ (g : G) (s : State) (w : Wale), AtHand s w →
    (w.region = none → g.face = .both → s.stallShort w (scUsesOf g.fa.a) = none →
      Goes (.exmwr g) s fun t v => v.exm = w.uniSrc .raw g.fa.a s.clk &&& w.live ∧ v.live = w.live ∧ v.masks = w.masks ∧
        v.melds = w.melds ∧ SameRegs w v ∧ Advanced s w v 4 ∧ OnlyWale s t) ∧
    (w.region.isSome = true → exec (.exmwr g) s = s.raise w .meldIllegal (w.active g.face)) ∧
    (∀ r, ScalarReady s w g.face [] → w.kind = .wale → g.fa.d = .vec r → w.inSet r = true →
      (g.ty = .f64 → w.inSet (r + 1) = true) →
      Goes (.tagset g) s fun t v =>
        (∀ clk, s.clk + 1 ≤ clk → v.tagAt r clk = g.ty ∧ (g.ty = .f64 → v.tagAt (r + 1) clk = g.ty)) ∧
        (∀ q clk, q ≠ r → (q ≠ r + 1 ∨ g.ty ≠ .f64) → v.tagAt q clk = w.tagAt q clk) ∧
        (∀ q th clk, v.vAt q th clk = w.vAt q th clk) ∧ (∀ m clk, v.sAt m clk = w.sAt m clk) ∧
        SameControl w v ∧ OnlyWale s t)

/-- MOVVS, SRDS, EXMRD, TAGGET, EXMWR AND TAGSET (R111, R114 to R116). -/
def Obligations.ScalarReadsAndWrites : Prop := ScalarReadsComplete ∧ MaskAndTagWrites

/-- SRD completes in a handler or for a register that is always readable, and outside a handler a trap register is PRIV
for SRD and SRDS (R114). -/
def Sys2Proof.Claims.SpecialRegisterReads : Prop :=
  ∀ (g : G) (s : State) (w : Wale) (c : Nat), g.fa.a = .lit c → AtHand s w →
    ((0x10 ≤ c → w.trap.isSome = true) → VecReady s w g (s.srdOp w) → exec (.srd g) s = .next (vecDone s w g (s.srdOp w))) ∧
    (0x10 ≤ c → w.trap = none →
      exec (.srd g) s = s.raise w .priv (w.active g.face) ∧ exec (.srds g) s = s.raise w .priv (w.active g.face))

/-- What SRD and SRDS read (R14, R15, R114, R253): sr.lane is the thread's own number, sr.die the core's die, and the
trap registers the words of the frame that the trap left. -/
def Sys2Proof.Claims.SpecialRegisterValues : Prop :=
  ∀ (s : State) (w : Wale) (t k : Nat) (f : TrapFrame), t < 32 →
    (s.srWord w 0 0 t).toNat = t ∧ s.srWord w 3 0 t = BitVec.ofNat 32 w.core ∧
    s.srWord w 4 0 t = BitVec.ofNat 32 (w.core / 72) ∧
    (w.trap = some f → s.srWord w 0x10 0 t = f.tcause ∧ s.srWord w 0x13 0 t = f.tlanes ∧ s.srWord w 0x14 0 t = f.texm ∧
      s.srWord w 0x15 0 t = f.tmeld ∧ s.srWord w 0x11 0 t = BitVec.ofNat 32 f.tpc ∧
      s.srWord w 0x11 1 t = BitVec.ofNat 32 (f.tpc / 2 ^ 32) ∧
      (k < 4 → s.srWord w 0x12 k t = (if k < 2 then f.tinsn0 else f.tinsn1).extractLsb' (32 * (k % 2)) 32))

/-- THE SPECIAL REGISTERS (R14, R15, R114, R253). -/
def Obligations.SpecialRegisters : Prop := SpecialRegisterReads ∧ SpecialRegisterValues

/-- BALLOT and VOTE write their scalar whether or not a thread is active: BALLOT the predicate bits of the active set,
VOTE all, any, count or uniform by its mode; with an empty set they write 0, and 1, 0, 0 and 1 (R135). -/
def Sys2Proof.Claims.BallotAndVote : Prop :=
  ∀ (g : G) (s : State) (w : Wale) (n q : Nat), AtHand s w → w.kind = .wale → w.faceOk g.face = true →
    s.stallShort w [⟨.q, q⟩] = none → g.fa.d = .sc n → g.fa.a = .pred q →
    let on (t : Nat) : Bool := (w.active g.face).getLsbD t
    let yes (t : Nat) : Bool := w.qAt q t s.clk
    let gives (i : Instr) (x : W32) : Prop := Goes i s fun t v =>
      (∀ clk, s.clk + 4 ≤ clk → v.sAt n clk = x) ∧ (∀ k clk, k ≠ n → v.sAt k clk = w.sAt k clk) ∧
      SameControl w v ∧ Advanced s w v 0 ∧ OnlyWale s t
    (∃ x : W32, (∀ t, t < 32 → x.getLsbD t = (on t && yes t)) ∧ gives (.ballot g) x) ∧
    (g.fa.b = .lit 0 → gives (.vote g) (if (List.range 32).all fun t => !on t || yes t then 1 else 0)) ∧
    (g.fa.b = .lit 1 → gives (.vote g) (if (List.range 32).any fun t => on t && yes t then 1 else 0)) ∧
    (g.fa.b = .lit 2 → gives (.vote g) (BitVec.ofNat 32 ((List.range 32).countP fun t => on t && yes t))) ∧
    (g.fa.b = .lit 3 → gives (.vote g)
      (if ((List.range 32).all fun t => !on t || yes t) || ((List.range 32).all fun t => !on t || !yes t) then 1 else 0))

/-- The reductions of class 0101 with the identity that each writes for an empty active set (R136). -/
def Sys2Proof.Claims.reduceTable (g : G) : List (Instr × W32) :=
  [(.wsum g, 0), (.wmin g, if g.ty = .f32 then 0x7F800000 else BitVec.ofInt 32 g.ty.maxVal),
   (.wmax g, if g.ty = .f32 then 0xFF800000 else BitVec.ofInt 32 g.ty.minVal), (.wand g, 0xFFFFFFFF), (.wor g, 0)]

/-- The integer reductions with the function that each folds over the active threads (R136). -/
def Sys2Proof.Claims.reduceInts (g : G) : List (Instr × (W32 → W32 → W32)) :=
  [(.wsum g, fun a b => a + b), (.wmin g, fun a b => if g.ty = .i32 then (if a.slt b then a else b) else (if a.ult b then a else b)),
   (.wmax g, fun a b => if g.ty = .i32 then (if a.slt b then b else a) else (if a.ult b then b else a)),
   (.wand g, fun a b => a &&& b), (.wor g, fun a b => a ||| b)]

/-- The f32 reductions with their identity, the function of each node and what finishes the root (R136). -/
def Sys2Proof.Claims.reduceFloats (g : G) : List (Instr × W32 × (W32 → W32 → W32 × Nat) × (W32 → W32 × Nat)) :=
  [(.wsum g, 0, sumF32, rootF32 true), (.wmin g, 0x7F800000, minmaxF32 false, rootF32 false),
   (.wmax g, 0xFF800000, minmaxF32 true, rootF32 false)]

/-- THE WALE REDUCTIONS COMPLETE: with an empty active set the scalar is the identity; the integer operations give the
fold over the active threads' elements, each read in its beat; the f32 operations give the root of their tree, or
raise FP_EXC at commit when a node raises an enabled exception; the scalar is readable from p + 16 (R136). -/
def Sys2Proof.Claims.WaleReductions : Prop :=
  ∀ (g : G) (s : State) (w : Wale) (n : Nat), AtHand s w → s.vecCheck w g (redOp g.ty) = none → g.fa.d = .sc n →
    let m := w.active g.face
    let gives (i : Instr) (x : W32) : Prop := Goes i s fun t v =>
      (∀ clk, s.clk + 16 ≤ clk → v.sAt n clk = x) ∧ (∀ k clk, k ≠ n → v.sAt k clk = w.sAt k clk) ∧
      SameControl w v ∧ Advanced s w v 0 ∧ OnlyWale s t
    (∀ p ∈ reduceTable g, m = 0 → gives p.1 p.2) ∧
    (∀ p ∈ reduceInts g, g.ty ≠ .f32 → ∀ t0, t0 < 32 → m.getLsbD t0 = true → (∀ t < t0, m.getLsbD t = false) →
      let el (t : Nat) : W32 := (w.srcAt g.ty g.fa.a false t s.clk (s.clk + t / 8)).truncate 32
      gives p.1 (((List.range 32).filter fun t => decide (t0 < t) && m.getLsbD t).foldl (fun x t => p.2 x (el t)) (el t0))) ∧
    (∀ p ∈ reduceFloats g, g.ty = .f32 → m ≠ 0 →
      let r := w.tree g (s.enables w) s.clk p.2.1 p.2.2.1 p.2.2.2
      (r.2.lanes = 0 → gives p.1 r.1) ∧
      (r.2.lanes ≠ 0 → exec p.1 s = .next ((s.holdPipe w (s.clk + 4)).takeTrap w
        { cause := .fpExc, lanes := r.2.lanes, detail := r.2.exc, t0 := s.clk + 4 })))

/-- Q4PACK completes: with its checks passed, no block of a face partly active and no beat trapping, each active thread's codes
and scale byte are read back from its registers, as its block gives them; a block partly active is FMT_PARTIAL, and a beat that
raises traps, both at commit; without an active thread it costs one issue clk (R17, R131). -/
def Sys2Proof.Claims.Q4packCompletes : Prop :=
  ∀ (g : G) (s : State) (w : Wale), AtHand s w → s.q4Check w g = none →
    let m := w.active g.face
    let mixed := mixedBlocks (w.faces g)
    let rs := (w.q4Beats g s.clk).1
    (m = 0 → exec (.q4pack g) s = .next (s.issued w 0)) ∧
    (m ≠ 0 → mixed ≠ 0 → exec (.q4pack g) s = .next ((s.holdPipe w (s.clk + 4)).takeTrap w
      { cause := .fmtPartial, lanes := mixed, t0 := s.clk + 4 })) ∧
    (m ≠ 0 → mixed = 0 → ∀ r, commitTrap rs (s.enables w) (s.clk + 4) = some r →
      exec (.q4pack g) s = .next ((s.holdPipe w (s.clk + 4)).takeTrap w r)) ∧
    (m ≠ 0 → mixed = 0 → commitTrap rs (s.enables w) (s.clk + 4) = none →
      Goes (.q4pack g) s fun t v => OnlyWale s t ∧ SameControl w v ∧ Advanced s w v 0 ∧
        ∀ th r b, th < 32 → m.getLsbD th = true → w.dstReg (w.opnds g th).d th s.clk = some r →
          w.q4Scale (w.opnds g th) th s.clk = some b → ∀ clk, s.clk + 8 + th / 8 ≤ clk →
            v.vAt b th clk = resWord rs th 1 ∧ v.tagAt b clk = .n8 ∧ (r ≠ b → v.vAt r th clk = resWord rs th 0) ∧
            ((∀ u < 32, m.getLsbD u = true → w.q4Scale (w.opnds g u) u s.clk ≠ some r) → v.tagAt r clk = .q4)) ∧
    (mixed = 0 → ∀ p ∈ w.faces g, ∀ th < 32, p.2.getLsbD th = true → p.1.mods.rm ≠ .rs →
      ∃ x ∈ (w.q4Block p.1 ((List.range 4).map (th / 4 * 4 + ·)) s.clk w.seeds).1,
        x.1 = th ∧ resWord rs th 0 = x.2.1 ∧ resWord rs th 1 = x.2.2.1)

/-- OPERATIONS OVER A WHOLE WALE (R131, R135, R136). -/
def Obligations.BallotsReductionsAndPacking : Prop := BallotAndVote ∧ WaleReductions ∧ Q4packCompletes

/-! ### Control -/

/-- IF, ELSE and ENDIF (R141): IF pushes EXM and keeps the threads whose predicate, read in each thread's beat, is 1;
ELSE turns the level into ELSE with EXM := MASK AND live AND NOT EXM; ENDIF restores MASK AND live and pops. -/
def Sys2Proof.Claims.IfElseEndif : Prop :=
  ∀ (g : G) (s : State) (w : Wale) (q : Nat),
    (g.fa.a = .pred q → ControlReady s w g.face (predUse q w.exm) → w.masks.length < 16 →
      Goes (.ifOp g) s fun t v => v.masks = ⟨.ifK, w.exm⟩ :: w.masks ∧
        (∀ th < 32, v.exm.getLsbD th = (w.exm.getLsbD th && w.qAt q th (s.clk + th / 8))) ∧
        v.live = w.live ∧ v.melds = w.melds ∧ SameRegs w v ∧ Advanced s w v (if w.exm = 0 then 1 else 4) ∧ OnlyWale s t) ∧
    (∀ m r, ControlReady s w g.face [] → w.crossesRegion = false → w.ownMasks = ⟨.ifK, m⟩ :: r →
      Goes (.elseOp g) s fun t v => v.masks = ⟨.elseK, m⟩ :: w.masks.tail ∧ v.exm = m &&& w.live &&& ~~~w.exm ∧
        v.live = w.live ∧ v.melds = w.melds ∧ SameRegs w v ∧ Advanced s w v 1 ∧ OnlyWale s t) ∧
    (∀ k m r, ControlReady s w g.face [] → w.crossesRegion = false → w.ownMasks = ⟨k, m⟩ :: r → (k = .ifK ∨ k = .elseK) →
      Goes (.endif g) s fun t v => v.masks = w.masks.tail ∧ v.exm = m &&& w.live ∧
        v.live = w.live ∧ v.melds = w.melds ∧ SameRegs w v ∧ Advanced s w v 1 ∧ OnlyWale s t)

/-- LOOP, BREAK and CONT (R142): LOOP pushes the pair M, BRK and keeps its face set; BREAK and CONT take the threads whose
predicate is 1, by the face of each, out of EXM and of the levels above the innermost pair, and BREAK adds them to that pair's BRK. -/
def Sys2Proof.Claims.LoopBreakCont : Prop :=
  ∀ (g : G) (s : State) (w : Wale),
    (ControlReady s w g.face [] → (w.region = none ∨ g.face ≠ .both) → w.masks.length + 2 ≤ 16 →
      Goes (.loop g) s fun t v =>
        v.masks = ⟨.loopK, w.exm &&& ~~~w.loopFaces g.face⟩ :: ⟨.loopK, w.exm⟩ :: w.masks ∧
        v.exm = w.exm &&& w.loopFaces g.face ∧ v.live = w.live ∧ v.melds = w.melds ∧ SameRegs w v ∧
        Advanced s w v 1 ∧ OnlyWale s t) ∧
    (∀ q above brk rest, g.fa.a = .pred q → g.fb = none → ControlReady s w g.face [⟨.q, q⟩] → w.melds = [] → w.trap = none →
      w.masks = above ++ ⟨.loopK, brk⟩ :: rest → (∀ l ∈ above, l.kind = .ifK ∨ l.kind = .elseK) →
      ∃ r : Mask, (∀ th < 32, r.getLsbD th = ((w.active g.face).getLsbD th && w.qAt q th (s.clk + th / 8))) ∧
        (Goes (.breakOp g) s fun t v =>
          v.masks = above.map (fun l => { l with mask := l.mask &&& ~~~r }) ++ ⟨.loopK, brk ||| r⟩ :: rest ∧
          v.exm = w.exm &&& ~~~r ∧ v.live = w.live ∧ SameRegs w v ∧
          Advanced s w v (if w.active g.face = 0 then 1 else 4) ∧ OnlyWale s t) ∧
        (Goes (.cont g) s fun t v =>
          v.masks = above.map (fun l => { l with mask := l.mask &&& ~~~r }) ++ ⟨.loopK, brk⟩ :: rest ∧
          v.exm = w.exm &&& ~~~r ∧ v.live = w.live ∧ SameRegs w v ∧
          Advanced s w v (if w.active g.face = 0 then 1 else 4) ∧ OnlyWale s t)) ∧
    (∀ k, ControlReady s w g.face ((w.faces g).flatMap fun p => predUse (Opnds.predA p.1) p.2) →
      loopAbove w.ownMasks = some k → (∀ e r, w.ownMelds = e :: r → e.sd + k + 1 ≤ w.masks.length) →
      ∃ r : Mask, (∀ th < 32, r.getLsbD th =
          (w.faces g).any fun p => p.2.getLsbD th && w.qAt (Opnds.predA p.1) th (s.clk + th / 8)) ∧
        let gone (i : Instr) (brk : Bool) : Prop := Goes i s fun t v =>
          v.masks = leaveLoop w.masks k r brk ∧ v.exm = w.exm &&& ~~~r ∧ v.live = w.live ∧ v.melds = w.melds ∧ SameRegs w v ∧
          Advanced s w v (if w.active g.face = 0 then 1 else 4) ∧ OnlyWale s t
        gone (.breakOp g) true ∧ gone (.cont g) false)

/-- THE STRUCTURED CONTROL OPERATIONS (R141, R142). -/
def Obligations.StructuredControl : Prop := IfElseEndif ∧ LoopBreakCont

/-- The levels above the innermost LOOP pair, CALL level or bottom are those of IF blocks. -/
def Sys2Proof.Claims.NoLoop (l : List MaskLevel) : Prop :=
  ∃ above rest, l = above ++ rest ∧ (∀ x ∈ above, x.kind = .ifK ∨ x.kind = .elseK) ∧ (rest = [] ∨ ∃ m r, rest = ⟨.callK, m⟩ :: r)

/-- A mask-stack operation that meets a full stack, too few levels or another kind of level traps with STACK_OVF and sr.tlanes zero
(R143): IF and CALL at depth 16, LOOP above depth 14, MELD at depth 3, ELSE on another level than IF, ENDIF on another than IF and
ELSE, ENDLOOP on another than a LOOP pair, RET on another than CALL, and BREAK and CONT whose search meets a CALL level or the bottom. -/
def Obligations.StackOverflow : Prop :=
  ∀ (g : G) (s : State) (w : Wale) (q : Nat),
    let ovf : Out := s.raise w .stackOvf 0
    (g.fa.a = .pred q → ControlReady s w g.face [⟨.q, q⟩] → 16 ≤ w.masks.length → exec (.ifOp g) s = ovf) ∧
    (ControlReady s w g.face [] → (w.region = none ∨ g.face ≠ .both) → 14 < w.masks.length → exec (.loop g) s = ovf) ∧
    (g.fa.a = .pred q → ControlReady s w g.face [⟨.q, q⟩] → 3 ≤ w.melds.length → exec (.meld g) s = ovf) ∧
    (ControlReady s w g.face [] → w.crossesRegion = false →
      ((∀ m r, w.ownMasks ≠ ⟨.ifK, m⟩ :: r) → exec (.elseOp g) s = ovf) ∧
      ((∀ m r, w.ownMasks ≠ ⟨.ifK, m⟩ :: r ∧ w.ownMasks ≠ ⟨.elseK, m⟩ :: r) → exec (.endif g) s = ovf) ∧
      ((∀ b m r, w.ownMasks ≠ ⟨.loopK, b⟩ :: ⟨.loopK, m⟩ :: r) → exec (.endloop g) s = ovf)) ∧
    (∀ p, ControlReady s w g.face [] → s.retPlan w = .ok p → w.ownMelds = [] → (∀ m r, w.ownMasks ≠ ⟨.callK, m⟩ :: r) →
      exec (.ret g) s = ovf) ∧
    (ControlReady s w g.face ((w.faces g).flatMap fun p => predUse (Opnds.predA p.1) p.2) → NoLoop w.ownMasks →
      exec (.breakOp g) s = ovf ∧ exec (.cont g) s = ovf) ∧
    ∀ c : CallForm, AtHand s w → w.kind = .wale → w.faceOk c.face = true → 16 ≤ w.masks.length →
      let full (fs : List CallFace) (exm : Mask) (off : BitVec 28) : Prop :=
        s.targetTrap w (w.relTarget off) true exm = none → (∀ x ∈ fs, ∀ r ∈ callRegs c.n x, w.inSet r = true) →
        (∀ b, c.fb = some b → ∀ i < c.n, w.tagAt (c.fa.a + i) s.clk = w.tagAt (b.a + i) s.clk) → exec (.call c) s = ovf
      (c.fb = none → w.active c.face ≠ 0 → full [c.fa] (w.active c.face) c.fa.off) ∧
      (∀ fb, c.fb = some fb → (w.latch = some (.faceB w.insnPc) → full [fb] (w.active .faceB) fb.off) ∧
        (w.latch ≠ some (.faceB w.insnPc) → (c.fa.off = fb.off → full [c.fa, fb] w.exm c.fa.off) ∧
          (c.fa.off ≠ fb.off → full [c.fa] (w.exm &&& w.active .faceA) c.fa.off)))

/-- Whether a transfer to `target` passes the checks of R59: an 8-byte boundary and a header there. -/
def Sys2Proof.Claims.TargetOk (s : State) (w : Wale) (target : Nat) (interval : Bool) : Prop :=
  s.targetTrap w target interval (w.active .both) = none

/-- The wale continues at `target` in no clause, no earlier than `bound` clk on (R59, R139). -/
def Sys2Proof.Claims.Jumped (s : State) (w v : Wale) (bound target : Nat) : Prop :=
  v.pc = addr52 target ∧ v.clause = none ∧ v.nextIssue = s.clk + max (max w.stall bound) 1

/-- JMP, JMPZ, JMPNZ and ENDLOOP (R142, R144): the jumps ignore EXM and leave both stacks unchanged, in a wale, the weaver and a
stream; ENDLOOP goes back with M AND NOT BRK AND live while a thread is left, and otherwise restores M AND live and pops the
pair. A target that is misaligned or no header traps (R59). -/
def Sys2Proof.Claims.Jumps : Prop :=
  ∀ (g : G) (s : State) (w : Wale) (off : BitVec 28), AtHand s w → w.faceOk g.face = true → g.fa.b = .imm off →
    let target := (((w.insnPc : Int) + 8 * off.toInt) % 2 ^ 52).toNat
    let same (v : Wale) : Prop := v.exm = w.exm ∧ v.live = w.live ∧ v.masks = w.masks ∧ v.melds = w.melds ∧ SameRegs w v
    let goes (i : Instr) : Prop := Goes i s fun t v => Jumped s w v 4 target ∧ same v ∧ OnlyWale s t
    let stays (i : Instr) : Prop := Goes i s fun t v => Advanced s w v 1 ∧ same v ∧ OnlyWale s t
    (TargetOk s w target false → goes (.jmp g)) ∧
    (∀ r, s.targetTrap w target false (w.active g.face) = some r → exec (.jmp g) s = .next (s.takeTrap w r)) ∧
    (∀ n, g.fa.a = .sc n → s.stallShort w [⟨.s, n⟩] = none →
      (w.sAt n s.clk ≠ 0 → stays (.jmpz g)) ∧ (w.sAt n s.clk = 0 → stays (.jmpnz g)) ∧
      (TargetOk s w target false → (w.sAt n s.clk = 0 → goes (.jmpz g)) ∧ (w.sAt n s.clk ≠ 0 → goes (.jmpnz g)))) ∧
    (∀ m brk r, w.kind = .wale → w.crossesRegion = false → w.ownMasks = ⟨.loopK, brk⟩ :: ⟨.loopK, m⟩ :: r →
      let c := m &&& ~~~brk &&& w.live
      (c ≠ 0 → TargetOk s w target false → Goes (.endloop g) s fun t v =>
        v.exm = c ∧ v.masks = w.masks ∧ v.live = w.live ∧ v.melds = w.melds ∧ SameRegs w v ∧ Jumped s w v 4 target ∧ OnlyWale s t) ∧
      (c ≠ 0 → ∀ x, s.targetTrap w target false (w.active .both) = some x → exec (.endloop g) s = .next (s.takeTrap w x)) ∧
      (c = 0 → Goes (.endloop g) s fun t v =>
        v.exm = m &&& w.live ∧ v.masks = w.masks.tail.tail ∧ v.live = w.live ∧ v.melds = w.melds ∧ SameRegs w v ∧
        Advanced s w v 1 ∧ OnlyWale s t))

/-- The checks of CALL pass for the faces `fs` that take part and their threads (R59, R70, R145, R31). -/
def Sys2Proof.Claims.CallReady (s : State) (w : Wale) (c : CallForm) (fs : List (CallFace × Mask)) (exm : Mask) (target : Nat) : Prop :=
  AtHand s w ∧ w.kind = .wale ∧ w.faceOk c.face = true ∧ s.targetTrap w target true exm = none ∧ w.masks.length < 16 ∧
  (∀ p ∈ fs, ∀ i < c.n, w.inSet (p.1.d + i) = true ∧ w.inSet (p.1.a + i) = true) ∧
  (∀ b, c.fb = some b → ∀ i < c.n, w.tagAt (c.fa.a + i) s.clk = w.tagAt (b.a + i) s.clk) ∧
  s.stallShort w (fs.flatMap fun p => if p.2 == 0 then [] else (List.range c.n).map fun i => Use.mk .v (p.1.a + i)) = none

/-- What a CALL for the faces `fs` leaves (R145): the arguments arrive in the callee's registers, s60 to s63 hold the return
address with the phase bit and the caller's interval header, q7 tells face A's threads of a region, one CALL level is
pushed, and the callee's interval header is reached. -/
def Sys2Proof.Claims.Called (s : State) (w : Wale) (c : CallForm) (fs : List (CallFace × Mask)) (exm : Mask)
    (ret phase target : Nat) (t : State) (v : Wale) : Prop :=
  Jumped s w v (4 + 4 * c.n) target ∧ v.exm = exm ∧ v.live = w.live ∧ v.masks = ⟨.callK, w.exm⟩ :: w.masks ∧
  v.melds = w.melds ∧ OnlyWale s t ∧
  (∀ clk, s.clk + 4 ≤ clk → (v.sAt 60 clk).toNat = ret % 2 ^ 32 / 2 * 2 + phase ∧ v.sAt 61 clk = BitVec.ofNat 32 (ret / 2 ^ 32) ∧
    (v.sAt 62 clk).toNat = w.intervalAddr % 2 ^ 32 ∧ v.sAt 63 clk = BitVec.ofNat 32 (w.intervalAddr / 2 ^ 32)) ∧
  (∀ p ∈ fs, ∀ i < c.n, ∀ clk, s.clk + 4 * c.n + 4 ≤ clk →
    (∀ th < 32, p.2.getLsbD th = true → v.vAt (p.1.d + i) th clk = w.vAt (p.1.a + i) th (s.clk + th / 8)) ∧
    (p.2 ≠ 0 → (∀ q ∈ fs, ∀ j < c.n, q.1.d + j = p.1.d + i → j = i) → v.tagAt (p.1.d + i) clk = w.tagAt (p.1.a + i) s.clk)) ∧
  (∀ e, w.region = some e → ∀ th < 32, exm.getLsbD th = true → ∀ clk, s.clk + 1 + th / 8 ≤ clk → v.qAt 7 th clk = e.fa.getLsbD th)

/-- CALL completes (R145, R146): with one operand set for its active set, without effect when that is empty, its target checked
all the same (R77); with a face pair of
one target for both faces at once, and of two targets for face A first, its return address naming the word itself with
phase bit 1; and for face B alone when RET has asked for it. -/
def Sys2Proof.Claims.CallCompletes : Prop :=
  ∀ (c : CallForm) (s : State) (w : Wale),
    let next := w.insnPc + w.insnBytes
    let m := w.active c.face
    let calls (fs : List (CallFace × Mask)) (exm : Mask) (ret phase : Nat) (off : BitVec 28) : Prop :=
      CallReady s w c fs exm (w.relTarget off) → Goes (.call c) s (Called s w c fs exm ret phase (w.relTarget off))
    (c.fb = none → m ≠ 0 → calls [(c.fa, m)] m next 0 c.fa.off) ∧
    (AtHand s w → w.kind = .wale → c.fb = none → m = 0 →
      (∀ x, s.targetTrap w (w.relTarget c.fa.off) true m = some x → exec (.call c) s = .next (s.takeTrap w x)) ∧
      (s.targetTrap w (w.relTarget c.fa.off) true m = none → w.faceOk c.face = true → exec (.call c) s = .next (s.issued w 1))) ∧
    ∀ fb, c.fb = some fb →
      let ma := w.exm &&& w.active .faceA
      let mb := maskOf fun t => w.exm.getLsbD t && w.usesB t
      (w.latch = some (.faceB w.insnPc) → calls [(fb, w.active .faceB)] (w.active .faceB) next 0 fb.off) ∧
      (w.latch ≠ some (.faceB w.insnPc) → c.fa.off = fb.off → calls [(c.fa, ma), (fb, mb)] w.exm next 0 c.fa.off) ∧
      (w.latch ≠ some (.faceB w.insnPc) → c.fa.off ≠ fb.off → calls [(c.fa, ma)] ma w.insnPc 1 c.fa.off)

/-- RET (R146, R153) restores MASK AND live, pops the CALL level, stages again the interval whose header s62 and s63 name, and
continues at the address in s60 and s61; with the phase bit 1 it runs the CALL there for face B while the region has
threads of it, and goes past that CALL otherwise. -/
def Sys2Proof.Claims.RetCompletes : Prop :=
  ∀ (g : G) (s : State) (w : Wale) (h : IntervalHdr),
    (∀ m rest ivl ret phase, ControlReady s w g.face ([60, 61, 62, 63].map (Use.mk .s)) →
      w.ownMasks = ⟨.callK, m⟩ :: rest →
      (∀ e r k, w.ownMelds = e :: r → callIndex w.ownMasks = some k → e.sd ≤ k + (w.masks.length - w.ownMasks.length)) →
      s.retPlan w = .ok (h, ivl, ret, phase) →
      Goes (.ret g) s fun t v =>
        v.exm = m &&& w.live ∧ v.live = w.live ∧ v.masks = w.masks.tail ∧ v.melds = w.melds ∧ v.interval = some h ∧
        v.staging = (if intervalCount h = 0 then .done else .waiting) ∧ v.intervalAddr = ivl ∧ SameRegs w v ∧ OnlyWale s t ∧
        let b := match Wale.region { w with exm := m &&& w.live, masks := w.masks.tail } with
          | some e => m &&& w.live &&& e.fb
          | none => 0
        if phase = 1 ∧ b ≠ 0 then Jumped s w v 4 (ret - phase) ∧ v.latch = some (.faceB (ret - phase))
        else Jumped s w v 4 (if phase = 0 then ret else ret - phase + 16) ∧ v.latch = none) ∧
    (let ret := addr52 (w.s64At 60 s.clk)
     let ivl := addr52 (w.s64At 62 s.clk)
     ivl % 8 = 0 → s.intervalAt w ivl 2 = .ok h →
      (ret % 8 = 0 → TargetOk s w ret false → s.retPlan w = .ok (h, ivl, ret, 0)) ∧
      (ret % 8 = 1 → s.retPlan w = .ok (h, ivl, ret, 1)))

/-- EXIT removes its active set from live and from EXM and revives no thread (R147); NOP has no effect but to take an
issue clk; YIELD ranks the wale's next issue below the others (R148). -/
def Sys2Proof.Claims.ExitNopYield : Prop :=
  ∀ (g : G) (s : State) (w : Wale), AtHand s w → w.faceOk g.face = true →
    (w.kind = .wale → Goes (.exit g) s fun t v =>
      v.live = w.live &&& ~~~w.active g.face ∧ v.exm = w.exm &&& ~~~w.active g.face ∧ v.masks = w.masks ∧ v.melds = w.melds ∧
      SameRegs w v ∧ Advanced s w v 1 ∧ OnlyWale s t) ∧
    (Goes (.nop g) s fun t v => SameControl w v ∧ SameRegs w v ∧ Advanced s w v 1 ∧ OnlyWale s t) ∧
    (Goes (.yield g) s fun t v => v.yielded = true ∧ SameControl w v ∧ SameRegs w v ∧ Advanced s w v 1 ∧ OnlyWale s t)

/-- JUMPS, CALLS AND THE PLAIN CONTROL OPERATIONS (R142, R144 to R148). -/
def Obligations.JumpsAndCalls : Prop := Jumps ∧ CallCompletes ∧ RetCompletes ∧ ExitNopYield

/-- MELD splits its active set into the threads whose predicate is 1 and those whose predicate is 0, saves EXM, the mask
depth and the predicate's number, and narrows EXM to its set; ENDMELD restores SAVED AND live and pops (R150). -/
def Obligations.MeldAndEndmeld : Prop :=
  ∀ (g : G) (s : State) (w : Wale) (q : Nat),
    (g.fa.a = .pred q → ControlReady s w g.face (predUse q (w.active g.face)) → w.melds.length < 3 →
      Goes (.meld g) s fun t v => ∃ e, v.melds = e :: w.melds ∧ e.saved = w.exm ∧ e.sd = w.masks.length ∧ e.qn = q ∧
        (∀ th < 32, e.fa.getLsbD th = ((w.active g.face).getLsbD th && w.qAt q th (s.clk + th / 8))) ∧
        (∀ th < 32, e.fb.getLsbD th = ((w.active g.face).getLsbD th && !w.qAt q th (s.clk + th / 8))) ∧
        v.exm = w.active g.face ∧ v.live = w.live ∧ v.masks = w.masks ∧ SameRegs w v ∧
        Advanced s w v (if w.active g.face = 0 then 1 else 4) ∧ OnlyWale s t) ∧
    (∀ e r, ControlReady s w g.face [] → w.ownMelds = e :: r → w.masks.length = e.sd →
      Goes (.endmeld g) s fun t v => v.melds = w.melds.tail ∧ v.exm = e.saved &&& w.live ∧ v.live = w.live ∧
        v.masks = w.masks ∧ SameRegs w v ∧ Advanced s w v 1 ∧ OnlyWale s t) ∧
    (∀ e r, ControlReady s w g.face [] → (w.ownMelds = [] ∨ w.ownMelds = e :: r ∧ w.masks.length ≠ e.sd) →
      exec (.endmeld g) s = s.raise w .meldIllegal w.exm)

/-! ### Traps -/

/-- TAKING A TRAP (R251, R253): the frame names the cause, DETAIL, the instruction's address and words, the threads and
EXM; EXM becomes live, both stacks stay, the program counter takes the context's handler address no earlier than 12 clk
on; s56 to s63 stand in the save area at 0xEE000 + 0x480 × slot of the core's scratchpad, and no byte outside it changes. -/
def Obligations.TakingATrap : Prop :=
  ∀ (s : State) (w : Wale) (r : TrapReq), s.canonical = true → s.wale? w.id = some w → w.kind = .wale → w.trap = none →
    s.handler w.ctx ≠ 0 →
    let t := s.takeTrap w r
    let area := locSpad w.core (0xEE000 + 0x480 * w.slot)
    (∃ v f, t.wale? w.id = some v ∧ v.trap = some f ∧ v.exm = w.live ∧ v.live = w.live ∧ v.masks = w.masks ∧
      v.melds = w.melds ∧ v.flags = w.flags ∧ v.pc = s.handler w.ctx ∧ v.clause = none ∧ v.interval = none ∧
      s.clk + 12 ≤ v.nextIssue ∧
      (∀ e ∈ w.inflight, e.readable ≤ v.nextIssue) ∧
      f.tcause.toNat % 256 = r.cause.code ∧ f.tcause.toNat / 2 ^ 16 = r.detail % 256 ∧ f.tpc = w.insnPc ∧
      f.tinsn0 = w.insn0 ∧ f.tlanes = r.lanes ∧ f.texm = w.exm ∧ f.maskDepth = w.masks.length ∧
      f.meldDepth = w.melds.length) ∧
    (∀ n < 8, t.natAt (area + 0x400 + 4 * n) 4 = (mGet 0 w.settleAll.s (56 + n)).toNat) ∧
    (∀ l, l < area ∨ area + 0x480 ≤ l → t.byteAt l = s.byteAt l) ∧
    t.regs = s.regs ∧ t.ctxRecs = s.ctxRecs ∧ t.ctxStopped = s.ctxStopped ∧ t.faultRing = s.faultRing ∧ t.clk = s.clk ∧
    (t.wales.filter fun x => x.id != w.id).length = (s.wales.filter fun x => x.id != w.id).length

/-- DOUBLE TRAPS (R256): a trap in a handler, or with a handler address of zero, stops the context and every wale in it, and posts one
containment record of kind 0x11 that names the wale, both causes and both sr.tpc values; a fault of the weaver stops the core's weaver,
which takes nothing more while its core's wales run on; a stream that traps ends (R208). -/
def Obligations.DoubleTrap : Prop :=
  ∀ (s : State) (w : Wale) (r : TrapReq),
    (w.kind = .wale → (w.trap.isSome = true ∨ s.handler w.ctx = 0) → w.ctx < 128 → s.ctxStopped.contains w.ctx = false →
      let t := s.takeTrap w r
      t.ctxStopped = w.ctx :: s.ctxStopped ∧ t.ctxValid w.ctx = false ∧ (∀ x ∈ t.wales, x.ctx = w.ctx → x.kind ≠ .weaver → t.eligible x = false) ∧
      (s.faultTail - s.faultHead < 256 → s.faultHeld = [] → ∃ d : BitVec 512,
        t.faultRing = s.faultRing ++ [⟨d, none, true⟩] ∧ t.faultTail = s.faultTail + 1 ∧
        field d 511 504 = 0x11 ∧ field d 503 497 = w.ctx % 128 ∧ field d 480 472 = w.core % 512 ∧
        field d 471 465 = w.slot % 128 ∧
        (w.trap = none → field d 439 432 = r.cause.code ∧ field d 379 328 = addr52 w.insnPc) ∧
        ∀ f, w.trap = some f → field d 439 432 = f.tcause.toNat % 256 ∧ field d 379 328 = addr52 f.tpc ∧
          field d 447 440 = r.cause.code ∧ field d 431 380 = addr52 w.insnPc)) ∧
    (w.kind = .weaver → ∃ t, s.takeTrap w r = t ∧ t.weaverUp w.core = false ∧ t.wales = s.wales ∧ t.wgs = s.wgs ∧
      t.ctxStopped = s.ctxStopped) ∧
    ((w.kind = .streamM ∨ w.kind = .streamC) → (s.takeTrap w r).wale? w.id = none ∧
      ∀ p, s.wale? w.parent = some p → w.parent ≠ w.id → ∃ v, (s.takeTrap w r).wale? w.parent = some v ∧
        v.pend = p.pend ++ [⟨.engineFault, 2, w.insn0, none⟩])

/-- TRAP n with an active thread traps with cause TRAP and DETAIL n, and without one has no effect but one issue clk; BKPT, which has
no operands, traps with BREAK whatever EXM holds where the context's breakpoint enable is set, and acts as NOP where it is not; for
both sr.tpc names the operation itself (R156). -/
def Obligations.TrapAndBreakpoint : Prop :=
  ∀ (g : G) (s : State) (w : Wale), AtHand s w → w.faceOk g.face = true →
    let enters (i : Instr) (code : Nat) (detail : Nat → Prop) : Prop := w.kind = .wale → w.trap = none → s.handler w.ctx ≠ 0 →
      Goes i s fun _ v => ∃ f, v.trap = some f ∧ v.pc = s.handler w.ctx ∧ v.exm = w.live ∧ f.tpc = w.insnPc ∧ f.texm = w.exm ∧
        f.tcause.toNat % 256 = code ∧ detail (f.tcause.toNat / 2 ^ 16)
    (∀ n, g.fa.b = .lit n → w.active g.face ≠ 0 → exec (.trap g) s =
      .next (s.takeTrap w { cause := .trap, lanes := w.active g.face, detail := n, t0 := s.clk }) ∧
      enters (.trap g) 0x17 fun d => d = n % 256) ∧
    (w.active g.face = 0 → Goes (.trap g) s fun t v => SameControl w v ∧ SameRegs w v ∧ Advanced s w v 1 ∧ OnlyWale s t) ∧
    (s.bken w.ctx = true → exec (.bkpt g) s = .next (s.takeTrap w { cause := .brk, lanes := 0, t0 := s.clk }) ∧
      enters (.bkpt g) 0x18 fun _ => True) ∧
    (s.bken w.ctx = false → Goes (.bkpt g) s (fun t v => SameControl w v ∧ SameRegs w v ∧ Advanced s w v 1 ∧ OnlyWale s t) ∧
      exec (.bkpt g) s = exec (.nop g) s)

/-- An OP that its class does not list, a word of classes 1101 and 1111, CLMULL and CLMULH trap with ILLEGAL_OP (R74, R75). -/
def Obligations.IllegalOperations : Prop :=
  ∀ (x : W64) (s : State) (w : Wale), AtHand s w →
    ∀ i ∈ [Instr.illegalWord x, .clmull x, .clmulh x], exec i s =
      .next (s.takeTrap w { cause := .illegalOp, lanes := w.wordLanes x, t0 := s.clk })

/-- TRET and TRET.SKIP (R157, R257): EXM becomes sr.texm AND live, s56 to s63 come back from the save area, the handler is
left, the interrupted interval is requested again, and the wale resumes at sr.tpc or after that instruction's slot. -/
def Sys2Proof.Claims.TrapReturn : Prop :=
  ∀ (g : G) (s : State) (w : Wale) (f : TrapFrame) (h : Option IntervalHdr), s.canonical = true → AtHand s w → w.trap = some f →
    w.masks.length = f.maskDepth → w.melds.length = f.meldDepth → w.settleClk s.clk ≤ s.clk → s.intervalBack w f = .ok h →
    let area := saveArea w.core w.slot
    let back (t : State) (v : Wale) : Prop :=
      v.trap = none ∧ v.exm = f.texm &&& w.live ∧ v.live = w.live ∧ v.masks = w.masks ∧ v.melds = w.melds ∧
      (∀ n < 8, mGet 0 v.s (56 + n) = BitVec.ofNat 32 (s.natAt (area + 0x400 + 4 * n) 4)) ∧
      (∀ i, h = some i → v.interval = h ∧ v.staging = if intervalCount i = 0 then .done else .waiting) ∧
      (h = none → v.interval = none) ∧
      (∀ l, t.byteAt l = s.byteAt l) ∧ t.regs = s.regs ∧ t.ctxStopped = s.ctxStopped
    (∀ r, s.resumeAt w f false = .ok r → Goes (.tret g) s fun t v => v.pc = f.tpc ∧ v.clause = r.clause ∧ back t v) ∧
    (∀ r, f.onHdr = false → s.resumeAt w f true = .ok r → Goes (.tretSkip g) s fun t v =>
      v.pc = addr52 (f.tpc + if wordPaired f.tinsn0 then 16 else 8) ∧ v.clause = r.clause ∧ back t v)

/-- Outside a handler TRET and TRET.SKIP trap with PRIV; in one whose stacks are not at their entry depths they trap with
STACK_OVF; and TRET.SKIP in the handler of a header's trap is ILLEGAL_HDR, whatever the depths (R157, R250). -/
def Sys2Proof.Claims.TrapReturnRefused : Prop :=
  ∀ (g : G) (s : State) (w : Wale), AtHand s w → ∀ i ∈ [Instr.tret g, .tretSkip g],
    (w.trap = none → exec i s = s.raise w .priv w.exm) ∧
    (∀ f, w.trap = some f → (i = .tretSkip g → f.onHdr = false) → (w.masks.length ≠ f.maskDepth ∨ w.melds.length ≠ f.meldDepth) →
      exec i s = s.raise w .stackOvf 0) ∧
    (∀ f, w.trap = some f → f.onHdr = true → exec (.tretSkip g) s = s.raise w .illegalHdr w.exm)

/-- LEAVING A HANDLER (R157, R257). -/
def Obligations.TrapReturns : Prop := TrapReturn ∧ TrapReturnRefused

/-! ### Headers, staging and ageing -/

/-- An interval header requests its working set and is passed, one whose ranges are all empty staged at once (R21, R61); past the
budget it is ILLEGAL_HDR, and in a stream or the weaver with any register (R207). A clause header
starts its clause once no flag of its wait mask is set, and until then the wale waits (R32, R63). -/
def Sys2Proof.Claims.HeadersComplete : Prop :=
  ∀ (s : State) (w : Wale), AtHand s w →
    (∀ h : IntervalHdr, w.kind = .wale → w.rangesOk h = true → Goes (.intervalHeader h) s fun t v =>
      v.interval = some h ∧ v.intervalAddr = w.pc ∧ v.staging = (if intervalCount h = 0 then .done else .waiting) ∧
      v.clause = none ∧ v.pc = addr52 (w.pc + 8) ∧
      v.exm = w.exm ∧ v.live = w.live ∧ v.masks = w.masks ∧ v.melds = w.melds ∧ SameRegs w v ∧ OnlyWale s t) ∧
    (∀ h : IntervalHdr, w.kind ≠ .wale → intervalCount h = 0 → Goes (.intervalHeader h) s fun t v =>
      v.interval = some h ∧ v.staging = .done ∧ v.clause = none ∧ v.pc = addr52 (w.pc + 8) ∧ v.exm = w.exm ∧ v.live = w.live ∧
      SameRegs w v ∧ OnlyWale s t) ∧
    (∀ h : IntervalHdr, w.kind ≠ .wale → intervalCount h ≠ 0 → exec (.intervalHeader h) s =
      .next (s.takeTrap w { cause := .illegalHdr, lanes := w.exm, hdr := true })) ∧
    (∀ h : IntervalHdr, w.kind = .wale → w.rangesOk h = false → exec (.intervalHeader h) s =
      .next (s.takeTrap w { cause := .illegalHdr, lanes := w.exm, hdr := true })) ∧
    (∀ h : ClauseHdr, (∀ k < 12, h.wait.testBit k = true → w.flag k = 0) → Goes (.clauseHeader h) s fun t v =>
      v.clause = some ⟨w.pc, h, 0⟩ ∧ v.pc = addr52 (w.pc + 8) ∧ SameControl w v ∧ SameRegs w v ∧ OnlyWale s t) ∧
    (∀ (h : ClauseHdr) (k : Nat), k < 12 → h.wait.testBit k = true → w.flag k ≠ 0 → Goes (.clauseHeader h) s fun t v =>
      v.pc = w.pc ∧ v.clause = w.clause ∧ v.nextIssue = s.clk + 1 ∧ SameControl w v ∧ SameRegs w v ∧ OnlyWale s t)

/-- STAGING_GRANT stages the oldest waiting request of a pipe when its fast-file slots suffice, after 2 clk for each range
that is not empty and 1 for each register (R20, R21). TRAP_ENTRY stages the handler's interval header, and
WALE_AGED marks a wale that has been ready for 64 clk (R251, R291). -/
def Sys2Proof.Claims.StagingAndEntry : Prop :=
  ∀ (s : State) (w : Wale),
    (∀ core pipe, s.wale? w.id = some w → s.stagingNext core pipe = some w → s.canStage w = true →
      ∃ t v, exec (.stagingGrant core pipe) s = .next t ∧ t.wale? w.id = some v ∧ t.mem = s.mem ∧
        (∀ h, w.interval = some h → v.staging = .until (s.clk +
          (h.ranges.map fun r => (if r.count = 0 then 0 else 2) + r.count).sum)) ∧ SameRegs w v) ∧
    (∀ h, s.wale? w.id = some w → w.entry = true → w.nextIssue ≤ s.clk →
      s.intervalAt { w with entry := false, insnPc := w.pc } w.pc 1 = .ok h →
      ∃ t v, exec (.trapEntry w.id) s = .next t ∧ t.wale? w.id = some v ∧ v.interval = some h ∧
        v.staging = (if intervalCount h = 0 then .done else .waiting) ∧ v.entry = false ∧ v.pc = addr52 (w.pc + 8) ∧ v.exm = w.exm ∧ v.trap = w.trap ∧ SameRegs w v ∧ t.mem = s.mem) ∧
    (∀ c, s.wale? w.id = some w → w.readySince = some c → c + 64 ≤ s.clk → w.aged = none →
      ∃ t v, exec (.waleAged w.id) s = .next t ∧ t.wale? w.id = some v ∧ v.aged = some s.clk ∧ SameRegs w v ∧ t.mem = s.mem)

/-- HEADERS, STAGING, TRAP ENTRY AND AGEING (R20, R21, R32, R63, R251, R291). -/
def Obligations.HeadersAndStaging : Prop := HeadersComplete ∧ StagingAndEntry

/-! ### Spawning, regrouping and the weaver -/

/-- The continuation record that SPAWN.q of a wale in workgroup `g` makes for an entry address, a frame handle and a coordinate:
a core task of its own core with the spawner's setup words, no parent and a join counter of 0 (R154, R288, R289). -/
def Sys2Proof.Claims.SpawnRecord (s : State) (w : Wale) (g : Workgroup) (entry h n : Nat) (r : BitVec 512) : Prop :=
  field r 51 0 = addr52 entry ∧ field r 73 64 = h % 1024 ∧ field r 127 96 = n % 2 ^ 32 ∧ field r 159 128 = 0 ∧
  field r 166 160 = w.ctx % 128 ∧ field r 180 173 = s.windowSize w / 4096 % 256 ∧
  (w.budget ∈ [32, 64, 128, 256] → 32 * 2 ^ field r 172 171 = w.budget) ∧ field r 189 181 = w.core % 512 ∧ field r 191 190 = 0 ∧
  field r 243 192 = 0 ∧ field r 287 256 = (mGet 0 w.nextSeeds 0 ^^^ 0xA5A5A5A5).toNat ∧ field r 319 288 = g.fpen.toNat ∧
  field r 351 320 = g.group % 2 ^ 32 ∧ field r 383 352 = g.launch % 2 ^ 32 ∧ field r 511 384 = 0

/-- SPAWN (R154): with a free context the lowest free slot is written to S[d], the seeds advance, and a new wale stands
there as a workgroup of its own with the arguments in s0 to s7, all threads live and no tile or barrier; without a free
context S[d] receives 0xFFFFFFFF and nothing is created, or with `.q`, once the wale's earlier accesses are performed (log 131), the
eight scalars stand in the frame and the task's record after it, the record joins the core's queue, and S[d] receives 0xFFFFFFFE. -/
def Sys2Proof.Claims.SpawnCompletes : Prop :=
  ∀ (f : SpawnForm) (s : State) (w : Wale) (g : Workgroup), AtHand s w → w.kind = .wale → s.wg? w.wg = some g →
    s.stallShort w (([f.a, f.a + 1] ++ (List.range 8).map (f.b + ·) ++
      (match f.c with | some c => [c, c + 1] | none => [])).map (Use.mk .s)) = none →
    s.cur < s.nextId → (∀ x ∈ s.wales, x.id < s.nextId) →
    (∀ slot, s.spawnSlot w = some slot → ∃ t v n, exec (.spawn f) s = .next t ∧ t.wale? s.cur = some v ∧ n ∈ t.wales ∧
      (∀ clk, s.clk + 8 ≤ clk → v.sAt f.d clk = BitVec.ofNat 32 slot) ∧ (∀ l, t.byteAt l = s.byteAt l) ∧
      n.core = w.core ∧ n.slot = slot ∧ n.ctx = w.ctx ∧ n.budget = w.budget ∧ n.pc = addr52 (w.s64At f.a s.clk) ∧
      n.live = 0xFFFFFFFF ∧ n.exm = 0xFFFFFFFF ∧ (∀ j < 8, mGet 0 n.s j = w.sAt (f.b + j) s.clk) ∧
      ∃ k ∈ t.wgs, k.id = n.wg ∧ k.group = g.group ∧ k.tiles = 0 ∧ k.bars = 0) ∧
    (s.spawnSlot w = none → f.c = none → Goes (.spawn f) s fun t v =>
      (∀ clk, s.clk + 8 ≤ clk → v.sAt f.d clk = 0xFFFFFFFF) ∧ v.seeds = w.seeds ∧ SameControl w v ∧ OnlyWale s t) ∧
    (∀ c ls va, s.spawnSlot w = none → f.c = some c →
      s.spawnFrame w ((w.sAt c s.clk).toNat % 1024) (w.sAt (c + 1) s.clk).toNat = .ok (ls, va) →
      (s.waleRelReady w .dev = false → Goes (.spawn f) s fun t v =>
        v.pc = w.pc ∧ v.nextIssue = s.clk + 1 ∧ SameControl w v ∧ SameRegs w v ∧ OnlyWale s t) ∧
      (s.canonical = true → s.absentHit = false → w.core < 0x1FF → s.waleRelReady w .dev = true → Goes (.spawn f) s fun t v =>
        (∀ clk, s.clk + 8 ≤ clk → v.sAt f.d clk = 0xFFFFFFFE) ∧ v.seeds = w.nextSeeds ∧ SameControl w v ∧ Advanced s w v 0 ∧
        t.coreTasks = qPush s.coreTasks w.core (taskEntry w.ctx va) ∧ t.wgs = s.wgs ∧
        ((ls.Pairwise fun a b => a + 4 ≤ b ∨ b + 4 ≤ a) →
          (∀ j < 8, ∀ l, ls[j]? = some l → t.natAt l 4 = (w.sAt (f.b + j) s.clk).toNat) ∧
          ∃ r, SpawnRecord s w g (w.s64At f.a s.clk) (w.sAt c s.clk).toNat (w.sAt (c + 1) s.clk).toNat r ∧
            ∀ j < 16, ∀ l, ls[8 + j]? = some l → t.natAt l 4 = field r (32 * j + 31) (32 * j))))

/-- RGRP parks its wale with its operands until the unit forms the new wales, and keeps everything else (R155, R271). -/
def Sys2Proof.Claims.RgrpParks : Prop :=
  ∀ (f : RgrpForm) (s : State) (w : Wale), AtHand s w → w.kind = .wale → w.atRgrp = none → w.ownMasks = [] → w.streams = [] →
    w.ownMelds = [] → (∀ r ∈ rgrpRegs f.a f.b f.n, w.inSet r = true) →
    s.stallShort w ((rgrpRegs f.a f.b f.n).map (Use.mk .v)) = none →
    (let l := (s.hold { w with latch := some (.rgrp f.a f.b f.n) } .parked false).members w.wg
     (∃ x ∈ l, x.atRgrp = none) ∨ rgrpCheck l s.clk = none) →
    Goes (.rgrp f) s fun t v => v.atRgrp = some (f.a, f.b, f.n) ∧ v.pc = w.pc ∧ v.nextIssue = s.clk + 1 ∧
      SameControl w v ∧ SameRegs w v ∧ OnlyWale s t

/-- RGRP_FORM with every member at its RGRP, the operands and tags agreeing, checked by those of the lowest WINDEX (R155, R271, log 130): a number of new wales above 16 traps
every member; without an active thread the members' threads end; otherwise the new wales exist 16 + 4·(n + 1) clk for each
member after the conditions hold and once there is room: the members dissolve, and wales of the workgroup hold exactly
their active threads, at most 32 of one key in each. -/
def Sys2Proof.Claims.RgrpForms : Prop :=
  ∀ (s : State) (wg : Nat) (g : Workgroup) (w0 : Wale) (r : List Wale) (a b n : Nat), s.members wg = w0 :: r →
    s.wg? wg = some g → w0.atRgrp = some (a, b, n) → rgrpBad (w0 :: r) a b n s.clk = none →
    (∀ w ∈ w0 :: r, s.rgrpReady w = true) → (∀ x ∈ s.wales, x.id < s.nextId) →
    let groups := rgrpGroups (w0 :: r) a s.clk
    (groups = [] → ∃ t, exec (.rgrpForm wg) s = .next t ∧ t.mem = s.mem ∧
      ∀ w ∈ w0 :: r, ∃ v, t.wale? w.id = some v ∧ v.live = 0 ∧ v.exm = 0) ∧
    (16 < groups.length → exec (.rgrpForm wg) s = .next ((s.putWg { g with regroup := none }).trapAll (w0 :: r) .idxRange)) ∧
    (groups ≠ [] → groups.length ≤ 16 → g.regroup = none →
      exec (.rgrpForm wg) s = .next (s.putWg { g with regroup := some (s.clk + 16 + 4 * (n + 1) * (w0 :: r).length) })) ∧
    (∀ at', groups ≠ [] → groups.length ≤ 16 → g.regroup = some at' → at' ≤ s.clk →
      s.rgrpRoom g (w0 :: r) groups.length = true →
      ∃ t, exec (.rgrpForm wg) s = .next t ∧ (∀ w ∈ w0 :: r, t.wale? w.id = none) ∧
        (∃ k, t.wg? wg = some k ∧ k.wcount = groups.length ∧ k.regroup = none) ∧
        (∀ q ∈ groups, q.length ≤ 32 ∧ ∀ x ∈ q, ∀ y ∈ q, x.key = y.key) ∧
        (groups.map List.length).sum = ((w0 :: r).map fun w => Mask.count w.exm).sum ∧
        (∀ i < groups.length, ∃ v ∈ t.wales, v.id = s.nextId + i ∧ v.windex = i ∧ v.wg = wg ∧
          Mask.count v.live = (groups.getD i []).length ∧ v.exm = v.live))

/-- SPAWN AND RGRP (R154, R155, R271). -/
def Obligations.SpawnAndRegroup : Prop := SpawnCompletes ∧ RgrpParks ∧ RgrpForms

/-- A weaver operation may execute: in the weaver or a wale's handler, with a legal FACE whose set is not empty, and nothing that
it reads too early in strict mode (R31, R70, R76, R158). -/
def Sys2Proof.Claims.WeaverReady (s : State) (w : Wale) (f : WvForm) (uses : List Nat) : Prop :=
  AtHand s w ∧ w.privileged = true ∧ (w.kind = .weaver ∨ w.kind = .wale) ∧ w.faceOk f.face = true ∧
    (f.face = .both ∨ w.active f.face ≠ 0) ∧ s.stallShort w (uses.map (Use.mk .s)) = none

/-- EVPOP removes the oldest record of the core's event queue and gives its four words, zeros when it is empty (R158). -/
def Sys2Proof.Claims.EvpopCompletes : Prop :=
  ∀ (f : WvForm) (s : State) (w : Wale), WeaverReady s w f [] →
    (mGet [] s.events w.core = [] → Goes (.evpop f) s fun t v =>
      (∀ j < 4, ∀ clk, s.clk + 4 ≤ clk → v.sAt (f.d + j) clk = 0) ∧ SameControl w v ∧ t.events = s.events ∧ t.mem = s.mem) ∧
    (∀ e r, mGet [] s.events w.core = e :: r → Goes (.evpop f) s fun t v =>
      (∀ j < 4, ∀ clk, s.clk + 4 ≤ clk → v.sAt (f.d + j) clk = e.data.extractLsb' (32 * j) 32) ∧ SameControl w v ∧
      t.events = mSet [] s.events w.core r ∧ v.acqClk = s.clk ∧ v.stamp = stampJoin w.stamp e.stamp ∧ t.mem = s.mem)

/-- The long-latency weaver operations with their op number and the scalars they read (R158). -/
def Sys2Proof.Claims.weaverOps (f : WvForm) : List (Instr × Nat × Nat) :=
  [(.tkclaim f, 5, 2), (.symwalk f, 6, 3), (.slewStart f, 7, 2), (.slewQuery f, 8, 0), (.ckpt f, 9, 2)]

/-- Each long-latency weaver operation is submitted with its operands latched and its flag raised, and waits while its flag is full
or the core's earlier one is pending (the latter the model's choice, log 137); a selected flag of 15 is ILLEGAL_MOD; outside the weaver and a handler each is PRIV
(R32, R63, R76, R158). -/
def Sys2Proof.Claims.WeaverOperationsSubmit : Prop :=
  ∀ (f : WvForm) (s : State) (w : Wale), ∀ p ∈ weaverOps f,
    (∀ k, WeaverReady s w f ((List.range p.2.2).map (f.a + ·)) → w.flagSel f.fsel = some k →
      (w.flag k < 63 → mFind s.wvPend w.core = none →
        Goes p.1 s fun t v => v.flag k = w.flag k + 1 ∧ Advanced s w v 0 ∧ t.mem = s.mem ∧ t.events = s.events ∧
          ∃ q, t.wvPend = mPut s.wvPend w.core q ∧ q.op = p.2.1 ∧ q.d = f.d ∧ q.b = f.b ∧ q.flag = some k ∧ q.owner = w.id ∧
            (p.2.2 = 2 → q.a0 = BitVec.ofNat 64 (w.s64At f.a s.clk)) ∧
            (p.2.2 = 3 → q.s0 = w.sAt f.a s.clk ∧ q.a0 = BitVec.ofNat 64 (w.s64At (f.a + 1) s.clk))) ∧
      ((63 ≤ w.flag k ∨ (mFind s.wvPend w.core).isSome = true) → exec p.1 s = .next (s.hold w .flagWait false))) ∧
    (AtHand s w → w.privileged = true → (w.kind = .weaver ∨ w.kind = .wale) → w.flagSel f.fsel = none →
      exec p.1 s = s.raise w .illegalMod (w.active f.face)) ∧
    (AtHand s w → w.privileged = false →
      exec p.1 s = s.raise w .priv (w.active f.face) ∧ exec (.evpop f) s = s.raise w .priv (w.active f.face))

/-- The completion of a weaver operation writes its results, but for scalars that a later instruction has written (R30), and
lowers its flag; SLEW.QUERY gives the engine's state code, the transfers done, the failures and the plan hash; SLEW.START waits
until its `.dev` release may be made (the model's reading, log 129), and gives 1, busy, while the engine runs; an operation waits for
the homes of what it accesses (R246, R380); SYMWALK gives the coordinates and mask of the rank
by the launch's mapping (R32, R158, R304, R305, R345, R347). -/
def Sys2Proof.Claims.WeaverOperationCompletes : Prop :=
  ∀ (core : Nat) (s : State) (p : WvPend), s.canonical = true → mFind s.wvPend core = some p →
    (∃ t, exec (.weaverOperationComplete core) s = .next t) ∧
    (∀ w k, s.wale? p.owner = some w → p.flag = some k →
      let ends (n : Nat) (ws : List W32) : Prop :=
        ∃ t v, exec (.weaverOperationComplete core) s = .next t ∧ t.wale? p.owner = some v ∧ v.flag k = w.flag k - 1 ∧
          t.wvPend = mDel s.wvPend core ∧ t.mem = s.mem ∧
          (∀ j < n, p.d + j ∉ p.dead → mGet 0 v.s (p.d + j) = ws.getD j 0) ∧
          (∀ r, (r < p.d ∨ p.d + n ≤ r ∨ r ∈ p.dead) → mGet 0 v.s r = mGet 0 w.s r)
      (p.op = 8 → ends 4 s.slewSnapshot) ∧
      (s.wvReady core p = false → exec (.weaverOperationComplete core) s = .next (s.stirHomes (s.wvLocs p))) ∧
      (p.op = 7 → s.wvReady core p = true → (s.slew.st = .planning ∨ s.slew.st = .pulling ∨ s.slew.st = .switching) →
        ∃ t v, exec (.weaverOperationComplete core) s = .next t ∧ t.wale? p.owner = some v ∧ v.flag k = w.flag k - 1 ∧
          t.wvPend = mDel s.wvPend core ∧ t.slew = s.slew ∧ (p.d ∉ p.dead → mGet 0 v.s p.d = 1)) ∧
      (∀ sym grid, p.op = 6 → s.wvReady core p = true → s.symOfRec p.ctx (addr52 p.a0.toNat) = some (sym, grid) → ends 5 (symWords sym grid p.s0.toNat)))

/-- THE WEAVER'S OPERATIONS (R32, R158, R345). -/
def Obligations.WeaverOperations : Prop := EvpopCompletes ∧ WeaverOperationsSubmit ∧ WeaverOperationCompletes

/-! ### Near memory and the layout table -/

/-- The near instructions with what the checks of R162 know of each (R166, R168). -/
def Sys2Proof.Claims.nearTable (m : MForm) : List (Instr × MemOp) :=
  [(.ld m, { spaces := [2, 3], load := true }), (.st m, { spaces := [2, 3], store := true }),
   (.gather m, { spaces := [2, 3], load := true, gather := true }), (.scatter m, { spaces := [2, 3], store := true, gather := true })]

/-- The faces of a near access with the elements that its beats place in their windows. -/
def Sys2Proof.Claims.nearPlaced (s : State) (w : Wale) (op : MemOp) (l : List MCtx) : List (MCtx × List (Nat × EPlan)) :=
  l.map fun x => (x, (w.facePlan op x s.clk).map fun p => misPlan (s.nearPlace w x p))

/-- The accesses that a near instruction makes at its banks, thread by thread. -/
def Sys2Proof.Claims.nearList (s : State) (w : Wale) (m : MForm) (op : MemOp) (l : List MCtx) : List NearOp :=
  let ops := (nearPlaced s w op l).flatMap fun p => nearOps w p.1 op.store (m.acls == .vol) (planElems p.2) s.clk
  threads.flatMap fun t => ops.filter fun o => o.t == t

/-- Earlier accesses hold a near access back at its issue: a fence before a store, an open `.vol` access of one of its threads
(R173, R248), and, by the model's reading, an open acquire (R167, R239, log 119). -/
def Sys2Proof.Claims.NearHeld (s : State) (w : Wale) (m : MForm) (op : MemOp) : Prop :=
  (op.store = true ∧ s.fenceHolds w = true) ∨ s.acquireOpen w = true ∨ (m.acls = .vol ∧ s.volOpen w (w.active m.face) = true)

/-- A near access may execute: the checks of R162 pass, no beat raises a trap, and nothing earlier holds it back. -/
def Sys2Proof.Claims.NearReady (s : State) (w : Wale) (m : MForm) (op : MemOp) (l : List MCtx) : Prop :=
  AtHand s w ∧ s.memCheck w m op = .go l ∧ ¬ NearHeld s w m op ∧
    beatTrap ((nearPlaced s w op l).flatMap Prod.snd) (s.clk + 4) = none ∧ s.bankHolds w (nearList s w m op l) = false

/-- LD, ST, GATHER and SCATTER go on; each element of an active thread is accessed at the clk of R167 (stores at
p + 8 or p + 12 + 2h, loads at p + 12 or p + 16 + 2h, a beat later for each 8 threads), and at the issue clk itself no
byte of memory and no register changes. A near load's tag is the layout's format from 4 clk on (R166, R167). -/
def Sys2Proof.Claims.NearAccessesComplete : Prop :=
  ∀ (m : MForm) (s : State) (w : Wale) (l : List MCtx), ∀ p ∈ nearTable m, NearReady s w m p.2 l →
    Goes p.1 s fun t v =>
      Advanced s w v 0 ∧ SameControl w v ∧ v.v = w.v ∧ v.s = w.s ∧ v.q = w.q ∧ v.x = w.x ∧ v.tags = w.tags ∧
      t.mem = s.mem ∧ t.regs = s.regs ∧ t.layouts = s.layouts ∧ t.reqs = s.reqs ∧ t.wgs = s.wgs ∧
      (p.2.store = true → v.inflight = w.inflight) ∧
      (∃ ops, t.near = s.near ++ ops ∧
        (∀ o ∈ ops, o.wale = w.id ∧ o.no = w.issueNo ∧ o.wr = p.2.store ∧ o.t < 32 ∧
          ∃ x ∈ l, x.m.getLsbD o.t = true ∧ o.fmt = lFmt x.r ∧
            o.at' = s.clk + o.t / 8 + (match p.2.store, decide (lSpace x.r = 3) with
              | true, false => 8 | true, true => 12 + 2 * hops w.core (lPeer x.r)
              | false, false => 12 | false, true => 16 + 2 * hops w.core (lPeer x.r))) ∧
        (∀ x ∈ nearPlaced s w p.2 l, ∀ e ∈ planElems x.2, e.zero = false →
          ∃ o ∈ ops, o.loc = e.loc ∧ o.size = e.size ∧ o.val = e.val ∧ o.t = e.t ∧ o.reg = x.1.f.d + e.j)) ∧
      (p.2.load = true → ∀ x, l = [x] → ∀ r ∈ dataRegs p.2 x.f x.r, ∀ clk, s.clk + 4 ≤ clk → v.tagAt r clk = lFmt x.r)

/-- A near access waits while earlier accesses hold it back (an open acquire by the model's reading of R167 and R239, log 119), costs one issue clk without an active thread, and traps on the checks of
R162; its beats that raise a trap take it, the threads listed those that raised the cause (R162, R249). -/
def Sys2Proof.Claims.NearAccessesTrap : Prop :=
  ∀ (m : MForm) (s : State) (w : Wale) (l : List MCtx) (r : TrapReq), ∀ p ∈ nearTable m, AtHand s w →
    (s.memCheck w m p.2 = .trap r → exec p.1 s = .next (s.takeTrap w r)) ∧
    (s.memCheck w m p.2 = .empty → exec p.1 s = .next (s.issued w 0)) ∧
    (s.memCheck w m p.2 = .go l → NearHeld s w m p.2 → exec p.1 s = .next (s.hold w .flagWait false)) ∧
    (s.memCheck w m p.2 = .go l → ¬ NearHeld s w m p.2 →
      beatTrap ((nearPlaced s w p.2 l).flatMap Prod.snd) (s.clk + 4) = some r →
      exec p.1 s = .next ((s.holdPipe w (s.clk + 4)).takeTrap w r) ∧
        (∃ th, th < 32 ∧ r.lanes.getLsbD th = true) ∧
        ∀ th < 32, r.lanes.getLsbD th = true ↔ (th, EPlan.bad r.cause) ∈ (nearPlaced s w p.2 l).flatMap Prod.snd)

/-- AT ITS CLK (R167): a near store's bytes stand at its location, little-endian, and no other byte changes; a near
load's element takes the image of what stood there, reads before writes within one clk. -/
def Sys2Proof.Claims.NearAccessesPerformed : Prop :=
  ∀ (s : State) (o : NearOp), s.canonical = true → o.at' ≤ s.clk → o.arv = none →
    (s.near = [o] → o.wr = true → o.size ≤ 8 →
      s.bankClk.natAt o.loc o.size = o.val.toNat % 2 ^ (8 * o.size) ∧ s.bankClk.near = [] ∧
      (∀ l, l < o.loc ∨ o.loc + o.size ≤ l → s.bankClk.byteAt l = s.byteAt l)) ∧
    (∀ (w : Wale) (e : InFlight), s.near = [o] → o.wr = false → s.wale? o.wale = some w → w.trap = none → e ∈ w.inflight →
      e.file = .v → e.no = o.no → e.reg = o.reg → e.mask.getLsbD o.t = true → e.filled = false → o.t < e.vals.length →
      s.bankClk.mem = s.mem ∧ ∃ v, s.bankClk.wale? o.wale = some v ∧ ∃ d ∈ v.inflight, d.file = .v ∧ d.reg = e.reg ∧
        d.no = e.no ∧ d.filled = true ∧ d.vals.getD o.t 0 = memImage o.fmt (s.natAt o.loc o.size)) ∧
    (∀ (w : Wale) (e : InFlight) (o2 : NearOp), s.near = [o, o2] → o.wr = true → o2.wr = false → o2.arv = none → o2.at' ≤ s.clk →
      o.loc = o2.loc → o.size = o2.size → s.wale? o2.wale = some w → w.trap = none → e ∈ w.inflight → e.file = .v →
      e.no = o2.no → e.reg = o2.reg → e.mask.getLsbD o2.t = true → e.filled = false → o2.t < e.vals.length →
      ∃ v, s.bankClk.wale? o2.wale = some v ∧ ∃ d ∈ v.inflight, d.reg = e.reg ∧ d.filled = true ∧
        d.vals.getD o2.t 0 = memImage o2.fmt (s.natAt o2.loc o2.size))

/-- NEAR ACCESSES, FROM THEIR CHECKS TO THEIR BYTES (R159 to R169). -/
def Obligations.NearAccesses : Prop := NearAccessesComplete ∧ NearAccessesTrap ∧ NearAccessesPerformed

/-- LAYSET commits one entry of its context's table, the record in V[v], for 4 clk after its issue; at that clk the entry is
written, in the table at LTAB too (R299, log 95), and every other stays; LAYGET gives thread t word t of the entry, as n32 (R164, R220). A handle past 1,023 is
LAYOUT_BAD, also with an empty active set and before WSET_MISS (the model's order, log 36). -/
def Obligations.LayoutTable : Prop :=
  (∀ (f : LayForm) (s : State) (w : Wale), AtHand s w → w.faceOk f.face = true →
    (∀ h, w.kind = .wale → w.layHandle f.handle s.clk = some h → w.inSet f.v = true → w.active f.face ≠ 0 →
      s.recordBad w.ctx w.core (w.recordOf f.v s.clk) = false →
      s.spanOutside w.ctx (w.recordOf f.v s.clk) (s.windowSize w) (s.tilesOf w) = false →
      s.stallShort w (⟨.v, f.v⟩ :: uniUses f.handle) = none →
      Goes (.layset f) s fun t v =>
        t.layPend = s.layPend ++ [⟨s.clk + 4, w.ctx, h, w.recordOf f.v s.clk⟩] ∧ t.layouts = s.layouts ∧
        t.mem = s.mem ∧ t.regs = s.regs ∧ t.near = s.near ∧ t.reqs = s.reqs ∧ t.wgs = s.wgs ∧ Advanced s w v 0 ∧
        SameControl w v ∧ SameRegs w v) ∧
    (∀ h, w.layHandle f.handle s.clk = some h →
      let o : Opnds := { d := .vec f.v, a := .none, b := (match f.handle with | .sc n => .sc n | .lit n => .lit n), c := .none, mods := {} }
      let g : G := { ty := .n32, face := f.face, fa := o, fb := none }
      VecReady s w g (laygetOp (s.layout w.ctx h)) →
      exec (.layget f) s = .next (vecDone s w g (laygetOp (s.layout w.ctx h))) ∧
      ∀ md th sd a b c, ((laygetOp (s.layout w.ctx h)).fn md th sd a b c).vals =
        [BitVec.ofNat 32 (field (s.layout w.ctx h) (32 * th + 31) (32 * th))]) ∧
    (w.layHandle f.handle s.clk = none → w.kind = .wale →
      exec (.layset f) s = s.raise w .layoutBad 0 ∧ exec (.layget f) s = s.raise w .layoutBad 0)) ∧
  ∀ (s : State) (p : LayPend), s.canonical = true → s.layPend = [p] → p.h < 1024 →
    (p.at' ≤ s.clk → s.layClk.layout p.ctx p.h = setField p.rec' 856 856 0 ∧ s.layClk.layPend = [] ∧
      (let a := s.ltab p.ctx + 128 * p.h
       a + 128 ≤ Config.hbmBytes → s.layClk.natAt (locHbm a) 128 = (setField p.rec' 856 856 0).toNat ∧
        ∀ l, l < locHbm a ∨ locHbm a + 128 ≤ l → s.layClk.byteAt l = s.byteAt l) ∧
      (∀ c n, (c ≠ p.ctx ∨ n ≠ p.h) → n < 1024 → s.layClk.layout c n = s.layout c n)) ∧
    (s.clk < p.at' → s.layClk = s)

/-! ### Queued memory, atomics and reductions -/

/-- What the checks of R162 know of an atomic or a reduction (R176). -/
def Sys2Proof.Claims.atomOp (kind : ReqKind) (fmts : List Ty) (two : Bool) : MemOp :=
  { spaces := [0, 1, 2, 3, 5, 6], fmtOk := fun t => decide (t ∈ fmts), load := kind.isLoad, store := true, two := two, noImage := true, disp := kind != .atomic 9 }

/-- The atomics and reductions of R176 with their operation number, formats and second operand. -/
def Sys2Proof.Claims.atomicTable (m : MForm) : List (Instr × ReqKind × MemOp) :=
  ([(Instr.atomAdd m, ReqKind.atomic 0, [Ty.i32, .n32], false), (.atomMin m, .atomic 1, [.i32, .n32], false),
    (.atomMax m, .atomic 2, [.i32, .n32], false), (.atomAnd m, .atomic 3, [.raw, .i32, .n32], false),
    (.atomOr m, .atomic 4, [.raw, .i32, .n32], false), (.atomXor m, .atomic 5, [.raw, .i32, .n32], false),
    (.atomXchg m, .atomic 6, tys32Bit, false), (.atomCas m, .atomic 7, tys32Bit, true), (.atomIncw m, .atomic 8, [.n32], false),
    (.atomFaddb m, .atomic 9, [.n32], true), (.atomFadd m, .atomic 10, [.f32], false), (.atomFmax m, .atomic 11, [.f32], false),
    (.redAdd m, .red 12, [.i32, .n32], false), (.redFadd m, .red 13, [.f32], false), (.redFmax m, .red 14, [.f32], false)] :
    List (Instr × ReqKind × List Ty × Bool)).map fun p => (p.1, p.2.1, atomOp p.2.1 p.2.2.1 p.2.2.2)

/-- The queued loads and stores of R169, the atomics and the reductions. -/
def Sys2Proof.Claims.queuedTable (m : MForm) : List (Instr × ReqKind × MemOp) :=
  [(.ldq m, .load, { spaces := [0, 1, 5, 6], load := true }),
   (.stq m, .store, { spaces := [0, 1, 5, 6], store := true, image := true }),
   (.gatherq m, .load, { spaces := [0, 1, 5, 6], load := true, gather := true }),
   (.scatterq m, .store, { spaces := [0, 1, 5, 6], store := true, gather := true, image := true })] ++ atomicTable m

/-- A queued instruction has its flag, a free queue entry and room in its flags, and the checks of R162 pass (R32, R63, R170). -/
def Sys2Proof.Claims.QueuedReady (s : State) (w : Wale) (m : MForm) (kind : ReqKind) (op : MemOp) (l : List MCtx) : Prop :=
  AtHand s w ∧ w.kind = .wale ∧ w.faceOk m.face = true ∧ s.entries w kind.isLoad < 16 ∧
    (kind.isLoad = true → kind ≠ .pref → ∀ f ∈ m.fa :: m.fb.toList, (w.flagSel f.fsel).isSome = true) ∧
    w.canRaiseAll (w.mFlags m) = true ∧ s.memCheck w m op = .go l

/-- The faces of a queued access with the elements that their beats find; scratchpad elements stand in their windows. -/
def Sys2Proof.Claims.queuedPlans (s : State) (w : Wale) (op : MemOp) (l : List MCtx) : List (MCtx × List (Nat × EPlan)) :=
  l.map fun x => (x, (w.facePlan op x s.clk).map fun p => if decide (2 ≤ lSpace x.r ∧ lSpace x.r ≤ 3) then s.nearPlace w x p else p)

/-- The requests of a queued access, one a face. -/
def Sys2Proof.Claims.queuedReqs (s : State) (w : Wale) (m : MForm) (kind : ReqKind) (op : MemOp) (l : List MCtx) : List Req :=
  (queuedPlans s w op l).map fun p => s.mkReq w m op p.1 kind (planElems p.2)

/-- A QUEUED ACCESS IS COMMITTED: LDQ, STQ, GATHERQ, SCATTERQ, every atomic and every reduction, when its translations are
cached and permitted, enters one request a face in its queue and goes on; its flag rises, and no byte of memory
changes before it is performed (R32, R162, R169, R170, R176). -/
def Sys2Proof.Claims.QueuedAccessesComplete : Prop :=
  ∀ (m : MForm) (s : State) (w : Wale) (l : List MCtx), ∀ p ∈ queuedTable m, QueuedReady s w m p.2.1 p.2.2 l →
    beatTrap ((queuedPlans s w p.2.2 l).flatMap Prod.snd) (s.clk + 4) = none →
    (∀ q ∈ queuedReqs s w m p.2.1 p.2.2 l, ∀ e ∈ q.elems, e.zero = false →
      e.mis = false ∧ ∃ a, s.transElem q e = .done (.ok a)) →
    Goes p.1 s fun t v =>
      Advanced s w v 0 ∧ v.exm = w.exm ∧ v.live = w.live ∧ v.masks = w.masks ∧ v.melds = w.melds ∧ v.trap = w.trap ∧
      v.v = w.v ∧ v.s = w.s ∧ v.q = w.q ∧ v.x = w.x ∧ v.tags = w.tags ∧ t.mem = s.mem ∧ t.near = s.near ∧ t.layouts = s.layouts ∧
      (∀ k, v.flag k = w.flag k + ((queuedReqs s w m p.2.1 p.2.2 l).filter fun q => q.flag == some k).length) ∧
      (∃ new, t.reqs = s.reqs ++ new ∧ new.length = l.length ∧
        ∀ q ∈ new, q.kind = p.2.1 ∧ q.wale = w.id ∧ q.core = w.core ∧ q.ctx = w.ctx ∧ q.finished = false ∧ q.no = w.issueNo ∧
          q.acls = m.acls ∧ ∃ x ∈ l, q.space = lSpace x.r ∧ q.fmt = lFmt x.r ∧ q.reg = x.f.d ∧ q.scope = x.f.scope ∧
            q.flag = w.flagSel x.f.fsel ∧
            ∀ e ∈ q.elems, e.t < 32 ∧ x.m.getLsbD e.t = true ∧ e.dead = false ∧ (p.2.2.store = true →
              e.val = BitVec.ofNat 64 (regBits (lFmt x.r) (w.vAt (q.reg + e.j) e.t (s.clk + e.t / 8)))))

/-- A PREF enters its request with the elements whose addresses translate, each at its place, and goes on, whatever its addresses
are (R169, R170). -/
def Sys2Proof.Claims.PrefCompletes : Prop :=
  ∀ (m : MForm) (s : State) (w : Wale) (l : List MCtx), QueuedReady s w m .pref { spaces := [0, 1, 5, 6] } l →
    Goes (.pref m) s fun t v => Advanced s w v 0 ∧ SameRegs w v ∧ v.exm = w.exm ∧ t.mem = s.mem ∧ t.near = s.near ∧
      ∃ new, t.reqs = s.reqs ++ new ∧ new.length = l.length ∧ ∀ q ∈ new, q.kind = .pref ∧ q.wale = w.id ∧ q.core = w.core ∧ q.ctx = w.ctx ∧
        ∀ e ∈ q.elems, e.zero = false ∧ (q.space ≠ 6 → s.xlateAt w.core w.ctx (spaceTgt q.space) .r e.va = .ok e.loc)

/-- WHERE QUEUED ACCESSES WAIT AND TRAP: without a flag a load is ILLEGAL_MOD; with its queue full, or a flag that cannot rise, the
wale waits at the instruction; with a translation not cached it parks with its requests, and TRANSLATION_WALK_DONE commits them
or takes the trap that the walk finds; a cached translation that fails traps at commit (R18, R32, R63, R162, R170). -/
def Sys2Proof.Claims.QueuedAccessesWait : Prop :=
  ∀ (m : MForm) (s : State) (w : Wale), ∀ p ∈ queuedTable m, AtHand s w → w.kind = .wale →
    (p.2.1.isLoad = true → w.flagSel m.fa.fsel = none → exec p.1 s = s.raise w .illegalMod (w.active m.face)) ∧
    (w.faceOk m.face = true → w.active m.face ≠ 0 → (p.2.1.isLoad = true → ∀ f ∈ m.fa :: m.fb.toList, (w.flagSel f.fsel).isSome = true) →
      (16 ≤ s.entries w p.2.1.isLoad ∨ w.canRaiseAll (w.mFlags m) = false) →
      Goes p.1 s fun t v => v.pc = w.pc ∧ v.nextIssue = s.clk + 1 ∧ SameControl w v ∧ SameRegs w v ∧ OnlyWale s t) ∧
    (∀ l, QueuedReady s w m p.2.1 p.2.2 l → beatTrap ((queuedPlans s w p.2.2 l).flatMap Prod.snd) (s.clk + 4) = none →
      (∃ q ∈ queuedReqs s w m p.2.1 p.2.2 l, ∃ e ∈ q.elems, e.zero = false ∧ s.transElem q e = .miss) →
      Goes p.1 s fun t v => v.latch = some (.walk (queuedReqs s w m p.2.1 p.2.2 l) s.clk) ∧ v.pc = w.pc ∧
        SameControl w v ∧ SameRegs w v ∧ t.mem = s.mem ∧ t.reqs = s.reqs) ∧
    (∀ l r, QueuedReady s w m p.2.1 p.2.2 l → beatTrap ((queuedPlans s w p.2.2 l).flatMap Prod.snd) (s.clk + 4) = none →
      (∀ q ∈ queuedReqs s w m p.2.1 p.2.2 l, ∀ e ∈ q.elems, e.zero = false → ∃ x, x ≠ .absent ∧ s.transElem q e = .done x) →
      transTrap ((queuedReqs s w m p.2.1 p.2.2 l).flatMap s.transAll) (s.clk + 4) = some r →
      exec p.1 s = .next ((s.holdPipe w (s.clk + 4)).takeTrap { w with latch := none } r))

/-- QUEUED ACCESSES ENTER THEIR QUEUES, OR WAIT (R162, R170 to R176). -/
def Obligations.QueuedAccessesIssue : Prop := QueuedAccessesComplete ∧ PrefCompletes ∧ QueuedAccessesWait

/-- TRANSLATION_WALK_DONE commits the parked requests of a wale, or takes their trap; a wale parked before a wale-uniform access makes
that access again, with its core's caches filled by the walk (R162, R337). -/
def Sys2Proof.Claims.TranslationWalkDone : Prop :=
  (∀ (s : State) (w : Wale) (va : Nat), s.wale? w.id = some w → w.latch = some (.pageWalk va) →
    ∃ t v, exec (.translationWalkDone w.id) s = .next t ∧ t.wale? w.id = some v ∧ v.latch = some (.walked va) ∧ v.pc = w.pc ∧
      SameControl w v ∧ SameRegs w v ∧ t.mem = s.mem ∧ (∀ l, s.leafAt w.core w.ctx va = some l → t.cachedLeaf w.core w.ctx va ≠ none)) ∧
  ∀ (s : State) (w : Wale) (qs : List Req) (issue : Nat), s.wale? w.id = some w → w.latch = some (.walk qs issue) →
    let f := qs.foldl State.fillReq s
    (qs.any fun q => (f.transAll q).any fun e => e.2 == .absent) = false →
    (transTrap (qs.flatMap f.transAll) (issue + 4) = none → ∃ t v, exec (.translationWalkDone w.id) s = .next t ∧
      t.wale? w.id = some v ∧ v.latch = none ∧ v.held = none ∧ v.pc = addr52 (w.pc + w.insnBytes) ∧ v.v = w.v ∧ v.exm = w.exm ∧
      t.mem = s.mem ∧ ∃ new, t.reqs = s.reqs ++ new ∧ new.map Req.kind = qs.map Req.kind ∧ new.map Req.no = qs.map Req.no) ∧
    (∀ r, transTrap (qs.flatMap f.transAll) (issue + 4) = some r →
      exec (.translationWalkDone w.id) s = .next (f.takeTrap { w with latch := none, held := none } r))

/-- A queue with the one request `q` of one undone element `e`, nothing that orders it, and its way to the cluster unit and back
behind it: a state in which it is performed at once. -/
def Sys2Proof.Claims.Alone (s : State) (w : Wale) (q : Req) (e : Elem) : Prop :=
  s.canonical = true ∧ s.absentHit = false ∧ s.reqs = [q] ∧ q.elems = [e] ∧ s.wale? q.wale = some w ∧ w.mq = [] ∧ w.stamp = [] ∧
    s.near = [] ∧ s.images = [] ∧ s.dirty = [] ∧ s.clean = [] ∧ s.pendApplied = [] ∧
    s.banks = [] ∧ q.at' + 12 ≤ s.clk ∧
    q.finished = false ∧ q.after = [] ∧ q.rel = none ∧ q.acq = none ∧ q.rsp = false ∧ q.imgs = [] ∧ q.fenceWide = none ∧
    e.old = none ∧ e.done = false ∧ e.zero = false ∧ e.dead = false ∧ e.t < 32 ∧ s.awake (homeDie e.loc (dieOf q.core)) = true

/-- A QUEUED LOAD IS PERFORMED at home: its element's image lands in its register, its flag falls and its entry is freed;
memory keeps every byte (R32, R161, R169, R170). -/
def Sys2Proof.Claims.QueuedLoadPerformed : Prop :=
  ∀ (s : State) (w : Wale) (q : Req) (e : Elem) (m : Mask), Alone s w q e → q.kind = .load → w.trap = none →
    m.getLsbD e.t = true →
    s.badWords = [] → ∃ t v, exec (.queuedLoadComplete q.id m .home) s = .next t ∧ t.wale? q.wale = some v ∧ t.reqs = [] ∧
      mGet 0 v.v ((q.reg + e.j) * 32 + e.t) = memImage (if q.fmt = .f64 then .raw else q.fmt) (s.natAt e.loc e.size) ∧
      (∀ n, n ≠ (q.reg + e.j) * 32 + e.t → mGet 0 v.v n = mGet 0 w.v n) ∧
      (∀ k, q.flag = some k → v.flag k = w.flag k - 1) ∧ v.s = w.s ∧ v.q = w.q ∧ v.exm = w.exm ∧ v.pc = w.pc ∧
      (∀ l, t.byteAt l = s.byteAt l)

/-- A QUEUED STORE IS PERFORMED at home: its bytes stand there, little-endian; no other byte changes; its flag falls and its
entry is freed (R4, R32, R169, R170). -/
def Sys2Proof.Claims.QueuedStorePerformed : Prop :=
  ∀ (s : State) (w : Wale) (q : Req) (e : Elem) (m : Mask), Alone s w q e → q.kind = .store → e.size ≤ 8 →
    m.getLsbD e.t = true → s.badWords = [] →
    ∃ t v, exec (.queuedStorePerformed q.id m .home) s = .next t ∧ t.wale? q.wale = some v ∧
      t.natAt e.loc e.size = e.val.toNat % 2 ^ (8 * e.size) ∧
      (∀ l, l < e.loc ∨ e.loc + e.size ≤ l → t.byteAt l = s.byteAt l) ∧ (∀ x ∈ t.reqs, x.finished = true) ∧
      (∀ k, q.flag = some k → v.flag k = w.flag k - 1) ∧ v.v = w.v ∧ v.s = w.s ∧ v.exm = w.exm ∧ v.pc = w.pc

/-- AN ATOMIC IS PERFORMED AT ITS LEVEL: at its home slice or its scratchpad bank the element takes its new value in memory; at the
cluster unit the new value stands in the cluster's cache and memory keeps its bytes; at the Brynzen port of `.sys` it takes two steps,
the first of which only reads (the model's reading, log 41). The old value is kept for the register, and a returning atomic then
completes with it, or with zero where zero mode dropped the element (R160, R176, R178, R233). -/
def Sys2Proof.Claims.AtomicPerformed : Prop :=
  ∀ (s : State) (w : Wale) (q : Req) (e : Elem) (n : Nat), Alone s w q e → s.badWords = [] → e.size = 4 →
    (q.kind = .atomic n ∨ q.kind = .red n) →
    let old := s.natAt e.loc 4
    let new := (atomNew n q.fmt old e.val.toNat e.val2.toNat).1 % 2 ^ 32
    let kept (t : State) : Prop := ∃ d, t.reqs = [{ q with elems := [d] }] ∧ d.done = true ∧ d.val = BitVec.ofNat 64 old ∧ d.t = e.t ∧ d.j = e.j
    (q.atPort e.loc = true → ∃ t, exec (.atomicPerform q.id) s = .next t ∧
      t.reqs = [{ q with elems := [{ e with old := some (BitVec.ofNat 32 old) }] }] ∧ ∀ l, t.byteAt l = s.byteAt l) ∧
    (q.atPort e.loc = false → q.atCluster e.loc = false → ∃ t, exec (.atomicPerform q.id) s = .next t ∧ t.natAt e.loc 4 = new ∧
      (∀ l, l < e.loc ∨ e.loc + 4 ≤ l → t.byteAt l = s.byteAt l) ∧ kept t) ∧
    (q.atCluster e.loc = true → ∃ t, exec (.atomicPerform q.id) s = .next t ∧ (∀ l, t.byteAt l = s.byteAt l) ∧ kept t ∧
      ∀ i < 4, ∃ b, mFind t.dirty (cacheKey (clusterOf q.core) (e.loc + i)) = some b ∧ b.v.toNat = new / 256 ^ i % 256) ∧
    ((q.space = 2 ∨ q.space = 3) → locDevice e.loc = false → q.atPort e.loc = false ∧ q.atCluster e.loc = false) ∧
    (q.space ≤ 1 → locDevice e.loc = true → (q.atCluster e.loc = true ↔ scHome q.scope = false) ∧ (q.atPort e.loc = true ↔ q.scope = .sys)) ∧
    (∀ d : Elem, q.kind = .atomic n → d.done = true → d.dead = false → d.t < 32 → w.trap = none → q.predDead.getLsbD d.t = false →
      let u := { s with reqs := [{ q with elems := [d] }] }
      ∃ t v, exec (.queuedLoadComplete q.id 0 .home) u = .next t ∧ t.wale? q.wale = some v ∧ t.reqs = [] ∧
        mGet 0 v.v ((q.reg + d.j) * 32 + d.t) = (if d.zero then 0 else d.val.truncate 32) ∧ (∀ k, q.flag = some k → v.flag k = w.flag k - 1) ∧ t.mem = s.mem ∧
        (n = 9 → d.zero = false → (mGet 0 v.q q.pred).getLsbD d.t = (d.val2 != 0)))

/-- THE NEW VALUE OF AN ATOMIC (R176, R177): wrapping sums, minima and maxima signed by the format, the bitwise operations,
exchange, compare and exchange, the two bounded operations, and the f32 sum, rounded to nearest even with subnormals kept, and
maximum, that of the operand which is a number when the other is a NaN. -/
def Sys2Proof.Claims.AtomicValues : Prop :=
  ∀ (ty : Ty) (o v b : W32),
    let r (n : Nat) : W32 := BitVec.ofNat 32 (atomNew n ty o.toNat v.toNat b.toNat).1
    r 0 = o + v ∧ r 12 = o + v ∧
    (ty = .i32 → (r 1).toInt = min o.toInt v.toInt ∧ (r 2).toInt = max o.toInt v.toInt) ∧
    (ty = .n32 → (r 1).toNat = min o.toNat v.toNat ∧ (r 2).toNat = max o.toNat v.toNat) ∧
    r 3 = o &&& v ∧ r 4 = o ||| v ∧ r 5 = o ^^^ v ∧ r 6 = v ∧ (o = b → r 7 = v) ∧ (o ≠ b → r 7 = o) ∧
    (v.toNat ≤ o.toNat → r 8 = 0) ∧ (o.toNat < v.toNat → r 8 = o + 1) ∧
    (o.toNat + v.toNat ≤ b.toNat → r 9 = o + v ∧ (atomNew 9 ty o.toNat v.toNat b.toNat).2 = 1) ∧
    (b.toNat < o.toNat + v.toNat → r 9 = o ∧ (atomNew 9 ty o.toNat v.toNat b.toNat).2 = 0) ∧
    (let wr (p : FVal × Nat) : W32 := BitVec.ofNat 32 (fmt32.write { mode := .rn, ftz := false, g := 0 } p.2 p.1).bits
     let sum := wr ((fmt32.decode o.toNat).add .rn (fmt32.decode v.toNat))
     let top := wr ((fmt32.decode o.toNat).minmax true true (fmt32.decode v.toNat))
     r 10 = sum ∧ r 13 = sum ∧ r 11 = top ∧ r 14 = top)

/-- ATOMICS: their values, and their indivisible performance at their level (R176 to R178). -/
def Obligations.Atomics : Prop := AtomicPerformed ∧ AtomicValues

/-- PREF_ACCEPTED frees a prefetch's entry and lowers its flag (R169); CLUSTER_CACHE_WRITE_BACK writes a line's bytes home and leaves
every other byte of memory and every other line of a cluster cache (R240). -/
def Sys2Proof.Claims.PrefetchAndWriteBack : Prop :=
  ∀ (s : State) (w : Wale) (q : Req), s.canonical = true →
    (s.reqs.find? (fun x => x.id == q.id) = some q → q.kind = .pref → q.at' + 6 ≤ s.clk → s.wale? q.wale = some w →
      ∃ t v, exec (.prefAccepted q.id) s = .next t ∧ t.reqs = s.reqs.filter (fun x => x.id != q.id) ∧
        t.wale? q.wale = some v ∧ (∀ k, q.flag = some k → v.flag k = w.flag k - 1) ∧ t.mem = s.mem) ∧
    (∀ cluster line, s.bankHeld (line * 128) none = false → ∃ t, exec (.clusterCacheWriteBack cluster line) s = .next t ∧
      (∀ l b, l / 128 = line → mFind s.dirty (cacheKey cluster l) = some b → t.byteAt l = b.v) ∧
      (∀ l, l / 128 = line → mFind t.dirty (cacheKey cluster l) = none) ∧
      (∀ l, (l / 128 ≠ line ∨ mFind s.dirty (cacheKey cluster l) = none) → t.byteAt l = s.byteAt l) ∧
      (∀ l, l / 128 ≠ line → mFind t.dirty (cacheKey cluster l) = mFind s.dirty (cacheKey cluster l)))

/-- QUEUED ACCESSES ARE PERFORMED (R162, R171, R229, R233, R240). -/
def Obligations.QueuedAccessesPerformed : Prop := TranslationWalkDone ∧ QueuedLoadPerformed ∧ QueuedStorePerformed ∧ PrefetchAndWriteBack

/-! ### Fences, locks and barriers -/

/-- What an acquire leaves as it was beside its wale's stamp: memory and everything else, but for the reads that later loads may
share and the images that its workgroup's releases wait for (R239, R312). -/
def Sys2Proof.Claims.OnlyAcquire (s t : State) : Prop :=
  (∀ l, t.byteAt l = s.byteAt l) ∧ t.mem = s.mem ∧ t.regs = s.regs ∧ t.ctxRecs = s.ctxRecs ∧ t.near = s.near ∧
  t.layouts = s.layouts ∧ t.locks = s.locks ∧ t.events = s.events ∧ t.faultRing = s.faultRing ∧ t.banks = s.banks ∧
  t.images = s.images ∧ t.clk = s.clk ∧ t.ctxStopped = s.ctxStopped ∧
  (t.wales.filter fun x => x.id != s.cur) = (s.wales.filter fun x => x.id != s.cur) ∧
  (let quiet (q : Req) : Req := { q with elems := q.elems.map fun e => { e with read := none } }
   t.reqs.map quiet = s.reqs.map quiet) ∧
  (let quiet (g : Workgroup) : Workgroup := { g with imgWait := [] }
   t.wgs.map quiet = s.wgs.map quiet)

/-- FENCE orders and does not stall for `.rel`; for `.acq` it waits while an earlier load is pending, and then the releases
that the wale's loads have read are acquired; annotation 00 is ILLEGAL_MOD. It acts whatever EXM holds (R173, R238). -/
def Sys2Proof.Claims.FenceCompletes : Prop :=
  ∀ (f : FenceForm) (s : State) (w : Wale), AtHand s w → w.kind = .wale → w.faceOk f.face = true →
    (f.ann = .none → exec (.fence f) s = s.raise w .illegalMod (w.active f.face)) ∧
    (f.ann = .rel → Goes (.fence f) s fun t v =>
      (∀ q ∈ s.reqs, q.wale = w.id → q.finished = false → q.kind ≠ .pref → q.id ∈ v.fenceRel) ∧ v.fenceNo = w.issueNo ∧
      (∃ sc, v.fenceScope = some sc ∧ f.scope.code ≤ sc.code) ∧ v.stamp = w.stamp ∧
      (scHome f.scope = true → v.fenceWide = some w.issueNo ∧
        ∃ x ∈ t.wideFences, x.cluster = clusterOf w.core ∧ x.clk = s.clk + 4 ∧ x.id ∈ v.fenceRel) ∧
      Advanced s w v 0 ∧ SameControl w v ∧ SameRegs w v ∧ OnlyWale s t) ∧
    ((f.ann = .acq ∨ f.ann = .ar) → s.loadsDone w = false → Goes (.fence f) s fun t v =>
      v.pc = w.pc ∧ v.nextIssue = s.clk + 1 ∧ SameControl w v ∧ SameRegs w v ∧ OnlyWale s t) ∧
    ((f.ann = .acq ∨ f.ann = .ar) → s.loadsDone w = true → Goes (.fence f) s fun t v =>
      (∀ i ∈ w.seen, i.syncs f.scope w.core w.wg w.ctx false = true → stampLe i.stamp v.stamp = true) ∧
      stampLe w.stamp v.stamp = true ∧ (f.ann = .ar → v.fenceNo = w.issueNo) ∧
      Advanced s w v 0 ∧ SameControl w v ∧ SameRegs w v ∧ OnlyAcquire s t)

/-- QFENCE does not hold the wale's issue; it records the operations outstanding on the queues named, of the forking wale in an
engine stream, and at `.die` or wider an ordering point that waits for its cluster's earlier bytes; a later access of a queue
named waits until all of them have been performed (R174, R208). -/
def Sys2Proof.Claims.QfenceCompletes : Prop :=
  ∀ (f : QfenceForm) (s : State) (w : Wale), AtHand s w → w.faceOk f.face = true →
    (w.kind = .wale → Goes (.qfence f) s fun t v => ∃ x, v.qfences.getLast? = some x ∧ x.mask = f.mask ∧
      (∀ q ∈ s.reqs, q.wale = w.id → q.finished = false → f.mask.getLsbD (if q.kind.isLoad then 0 else 1) = true → q.id ∈ x.ids) ∧
      (∀ o ∈ w.mq, f.mask.getLsbD 2 = true → o.id ∈ x.ids) ∧
      (∀ b ∈ s.banks, b.wale = some w.id → f.mask.getLsbD 4 = true → b.id ∈ x.ids) ∧
      (scHome f.scope = true → ∃ y ∈ t.wideFences, y.cluster = clusterOf w.core ∧ y.clk = s.clk + 4 ∧ y.id ∈ x.ids) ∧
      Advanced s w v 0 ∧ SameControl w v ∧ SameRegs w v ∧ OnlyWale s t) ∧
    (∀ p, (w.kind = .streamM ∨ w.kind = .streamC) → s.wale? w.parent = some p → w.parent ≠ w.id →
      ∃ t v u x, exec (.qfence f) s = .next t ∧ t.wale? s.cur = some v ∧ Advanced s w v 0 ∧ SameRegs w v ∧
        t.wale? w.parent = some u ∧ u.qfences.getLast? = some x ∧ x.mask = f.mask ∧ (∀ o ∈ p.mq, f.mask.getLsbD 2 = true → o.id ∈ x.ids) ∧
        SameRegs p u ∧ SameControl p u ∧ t.mem = s.mem) ∧
    (∀ x m op c k es, x ∈ w.qfences → x.mask.getLsbD (if k.isLoad then 0 else 1) = true →
      ∀ i ∈ x.ids, i ∈ (s.mkReq w m op c k es).after) ∧
    (∀ (q : Req) (is : List Nat) (j : Nat) (p : Place), s.reqs.find? (fun x => x.id == q.id) = some q → j ∈ q.after →
      s.pendingId j = true → s.perform q.id is p = s)

/-- FENCE AND QFENCE (R173, R174, R239). -/
def Obligations.Fences : Prop := FenceCompletes ∧ QfenceCompletes

/-- What LOCKQ and UNLOCKQ ask of the access. -/
def Sys2Proof.Claims.lockOp : MemOp := { spaces := [0, 1], fmtOk := (· == .n32), noImage := true }

/-- The wale waits at its instruction and tries again at the next clk, or at clk `n`: nothing else changes but what `t` may. -/
def Sys2Proof.Claims.WaitsAt (w v : Wale) (n : Nat) (l : Option Latch) : Prop :=
  v.pc = w.pc ∧ v.nextIssue = n ∧ v.latch = l ∧ SameControl w v ∧ SameRegs w v

/-- LOCKQ sends its request, which reaches the home slice 6 clk later (R227). There it takes a free lock, whose word becomes non-zero,
or joins the queue of one held by another; the owner's own second LOCKQ is LOCK_ERROR, unless its place stands from before a WATCHDOG
trap; the wale goes on when the acknowledgement, 6 clk later, finds it the owner (R179, R180, R261). -/
def Sys2Proof.Claims.LockqCompletes : Prop :=
  ∀ (m : MForm) (s : State) (w : Wale) (va l : Nat), s.canonical = true → AtHand s w →
    let goes (P : State → Wale → Prop) : Prop := Goes (.lockq m) s P
    ((∀ a b, w.latch ≠ some (.lock a b)) → (∀ a b k, w.latch ≠ some (.lockReq a b k)) →
      (∃ x, s.uniAccess w m lockOp = .at' x va (some l)) →
      goes fun t v => WaitsAt w v (s.clk + 1) (some (.lockReq l va (s.clk + 6))) ∧ OnlyWale s t) ∧
    (∀ k, w.latch = some (.lockReq l va k) →
      (s.clk < k → goes fun t v => WaitsAt w v (s.clk + 1) w.latch ∧ OnlyWale s t) ∧
      (k ≤ s.clk →
        (mFind s.locks l = none → s.lockCount (homeDie l 0) < 4096 → s.homeReady l w.core w.stamp = true →
          goes fun t v => WaitsAt w v (s.clk + 6) (some (.lock l va)) ∧ mFind t.locks l = some ⟨w.id, [], w.ctx⟩ ∧
            t.natAt l 4 ≠ 0 ∧ t.natAt l 4 = lockToken w.id ∧ (∀ a, a < l ∨ l + 4 ≤ a → t.byteAt a = s.byteAt a) ∧
            ∀ k, k ≠ l → mFind t.locks k = mFind s.locks k) ∧
        (mFind s.locks l = none → (4096 ≤ s.lockCount (homeDie l 0) ∨ s.homeReady l w.core w.stamp = false) →
          goes fun t v => WaitsAt w v (s.clk + 1) w.latch ∧ OnlyWale s t) ∧
        (∀ k, mFind s.locks l = some k → k.owner ≠ w.id → goes fun t v =>
          WaitsAt w v (s.clk + 1) (some (.lock l va)) ∧ t.mem = s.mem ∧
          mFind t.locks l = some { k with fifo := if k.fifo.contains w.id then k.fifo else k.fifo ++ [w.id] }) ∧
        (∀ k, mFind s.locks l = some k → k.owner = w.id → (w.retrying = false → exec (.lockq m) s = s.raise w .lockError 0) ∧
          (w.retrying = true → goes fun t v => WaitsAt w v (s.clk + 6) (some (.lock l va)) ∧ t.locks = s.locks ∧ t.mem = s.mem)))) ∧
    (w.latch = some (.lock l va) →
      ((mFind s.locks l).map Lock.owner = some w.id →
        goes fun t v => t.locks = s.locks ∧ t.mem = s.mem ∧ SameControl w v ∧ SameRegs w v ∧ Advanced s w v 0) ∧
      ((mFind s.locks l).map Lock.owner ≠ some w.id → goes fun t v => WaitsAt w v (s.clk + 1) w.latch ∧ OnlyWale s t))

/-- UNLOCKQ sends its request as LOCKQ does. At the home slice, once the wale's earlier accesses are performed, the owner's frees the
lock and clears its word, or passes it to the head of its queue with that wale's token; any other wale's, or one of a free lock, is
LOCK_ERROR; the wale goes on 6 clk later (R179, R180, R227). -/
def Sys2Proof.Claims.UnlockqCompletes : Prop :=
  ∀ (m : MForm) (s : State) (w : Wale) (va l : Nat), s.canonical = true → AtHand s w →
    ((∀ a, w.latch ≠ some (.unlock a)) → (∀ a b k, w.latch ≠ some (.lockReq a b k)) →
      (∃ x, s.uniAccess w m lockOp = .at' x va (some l)) →
      Goes (.unlockq m) s fun t v => WaitsAt w v (s.clk + 1) (some (.lockReq l va (s.clk + 6))) ∧ OnlyWale s t) ∧
    (∀ k, w.latch = some (.lockReq l va k) →
      (s.clk < k → Goes (.unlockq m) s fun t v => WaitsAt w v (s.clk + 1) w.latch ∧ OnlyWale s t) ∧
      (k ≤ s.clk →
        ((∀ k, mFind s.locks l = some k → k.owner ≠ w.id) → exec (.unlockq m) s = s.raise w .lockError 0) ∧
        (∀ k, mFind s.locks l = some k → k.owner = w.id →
          (s.waleRelReady w .dev = true → s.homeReady l w.core w.stamp = true → Goes (.unlockq m) s fun t v =>
            WaitsAt w v (s.clk + 6) (some (.unlock l)) ∧
            (k.fifo = [] → mFind t.locks l = none ∧ t.natAt l 4 = 0) ∧
            (∀ h r, k.fifo = h :: r → (∃ c, mFind t.locks l = some ⟨h, r, c⟩) ∧ t.natAt l 4 = lockToken h ∧ t.natAt l 4 ≠ 0) ∧
            (∀ k, k ≠ l → mFind t.locks k = mFind s.locks k)) ∧
          ((s.waleRelReady w .dev = false ∨ s.homeReady l w.core w.stamp = false) →
            Goes (.unlockq m) s fun t v => WaitsAt w v (s.clk + 1) w.latch ∧ OnlyWale s t)))) ∧
    (∀ a, w.latch = some (.unlock a) →
      Goes (.unlockq m) s fun t v => SameControl w v ∧ SameRegs w v ∧ Advanced s w v 0 ∧ OnlyWale s t)

/-- What BARW.ARV and BARW.WAIT ask of the access. -/
def Sys2Proof.Claims.barwOp : MemOp := { spaces := [2, 3], fmtOk := (· == .n32) }

/-- LOCKQ, UNLOCKQ, BARW.ARV and BARW.WAIT act once when EXM is non-zero and not at all when it is zero; a lock out of extent
under zero mode is no lock (the model's choice, log 111); a translation that is not cached parks the wale; their traps are
those of the checks (R152, R162, R179, R183). -/
def Sys2Proof.Claims.UniformAccessesIdleOrTrap : Prop :=
  ∀ (m : MForm) (s : State) (w : Wale), AtHand s w → (∀ a b, w.latch ≠ some (.lock a b)) →
    (∀ a b k, w.latch ≠ some (.lockReq a b k)) → (∀ a, w.latch ≠ some (.unlock a)) →
    (∀ i ∈ [Instr.lockq m, .unlockq m], (s.uniAccess w m lockOp = .empty → exec i s = .next (s.issued w 0)) ∧
      (∀ x va, s.uniAccess w m lockOp = .at' x va none → exec i s = .next (s.issued w 0)) ∧
      (∀ va, s.uniAccess w m lockOp = .miss va → exec i s = .next (s.parkWalk w va)) ∧
      (∀ r, s.uniAccess w m lockOp = .trap r → exec i s = .next (s.takeTrap w r))) ∧
    (∀ i ∈ [Instr.barwArv m, .barwWait m],
      (s.uniAccess w m barwOp = .empty → exec i s = .next (s.issued w 0)) ∧
      (∀ r, s.uniAccess w m barwOp = .trap r → exec i s = .next (s.takeTrap w r)))

/-- QUEUE LOCKS AND THE CHECKS OF WALE-UNIFORM ACCESSES (R152, R178 to R180). -/
def Obligations.Locks : Prop := LockqCompletes ∧ UnlockqCompletes ∧ UniformAccessesIdleOrTrap

/-- A barrier operation passes its checks (R181). -/
def Sys2Proof.Claims.BarReady (s : State) (w : Wale) (g : Workgroup) (f : BarForm) (uses : List Use) : Prop :=
  AtHand s w ∧ w.kind = .wale ∧ w.faceOk f.face = true ∧ w.active f.face ≠ 0 ∧ s.wg? w.wg = some g ∧ f.bar < g.bars ∧
    s.stallShort w uses = none

/-- The count of a barrier operation is legal, and its arrival may be made: the wale's earlier accesses are performed at group
scope, with checksums on its results are readable, and the checksum's record finds installed memory (R181, R366). -/
def Sys2Proof.Claims.ArriveReady (s : State) (w : Wale) (f : BarForm) : Prop :=
  1 ≤ w.uniVal f.count s.clk ∧ w.uniVal f.count s.clk ≤ 64 ∧ s.arriveReady w = true ∧ (s.logArrival w f.bar).absentHit = false

/-- THE NAMED BARRIER (R181, R182): an arrival that does not complete its phase is counted and sets the wale's pending bit; the
arrival that completes it empties the barrier, clears every pending bit of the workgroup, and makes each waiting wale eligible
4 clk later. BAR.ARRIVE goes on, BAR.SYNC waits until the phase completes. Memory changes only by a checksum's record (R366). -/
def Sys2Proof.Claims.BarrierArrivals : Prop :=
  ∀ (f : BarForm) (s : State) (w : Wale) (g : Workgroup), s.canonical = true → BarReady s w g f (uniUses f.count) → ArriveReady s w f →
    let n := w.uniVal f.count s.clk
    let a := match mFind g.barriers f.bar with | some b => b.arrived + 1 | none => 1
    let keeps (t : State) : Prop := t.mem = (s.logArrival w f.bar).mem ∧ ((s.ctrace w.ctx).getLsbD 0 = false → t.mem = s.mem)
    (∀ b, mFind g.barriers f.bar = some b → b.count = n) →
    (a ≠ n →
      (Goes (.barArrive f) s fun t v => v.barPend.contains f.bar = true ∧ Advanced s w v 0 ∧ SameControl w v ∧ SameRegs w v ∧
        keeps t ∧ ∃ k, t.wg? w.wg = some k ∧ k.barriers = mPut g.barriers f.bar ⟨n, a⟩) ∧
      (w.arrived f.bar = false →
        Goes (.barSync f) s fun t v => v.barPend.contains f.bar = true ∧ v.latch = some (.arrived f.bar) ∧ v.pc = w.pc ∧
          v.nextIssue = s.clk + 1 ∧ SameControl w v ∧ SameRegs w v ∧ keeps t ∧
          ∃ k, t.wg? w.wg = some k ∧ k.barriers = mPut g.barriers f.bar ⟨n, a⟩)) ∧
    (a = n → ∀ i ∈ [Instr.barArrive f, .barSync f], (i = .barSync f → w.arrived f.bar = false) → Goes i s fun t v =>
      Advanced s w v 0 ∧ SameControl w v ∧ SameRegs w v ∧ keeps t ∧
      (∃ k, t.wg? w.wg = some k ∧ mFind k.barriers f.bar = none) ∧
      (∀ y ∈ t.wales, y.wg = w.wg → y.barPend.contains f.bar = false) ∧
      (∀ y z h, y ≠ w.id → s.wale? y = some z → z.wg = w.wg → z.barPend.contains f.bar = true → z.held = some h → h.reason = .barrier →
        ∃ u, t.wale? y = some u ∧ u.nextIssue = s.clk + 4 ∧ u.pc = z.pc))

/-- A count other than the open phase's, a count outside 1 to 64 and a barrier beyond the grant trap; an arrival that may not be made
yet waits at the instruction; BAR.WAIT, and a BAR.SYNC whose arrival stands, wait while the pending bit is set and go on when it
is clear; with EXM zero none of the three does anything (R152, R181, R182, R261). -/
def Sys2Proof.Claims.BarrierWaitsAndTraps : Prop :=
  ∀ (f : BarForm) (s : State) (w : Wale) (g : Workgroup),
    (∀ i ∈ [Instr.barArrive f, .barSync f], (i = .barSync f → w.arrived f.bar = false) →
      (BarReady s w g f (uniUses f.count) → ArriveReady s w f → ∀ b, mFind g.barriers f.bar = some b →
        b.count ≠ w.uniVal f.count s.clk → exec i s = s.raise w .barrierCount 0) ∧
      (BarReady s w g f [] → (w.uniVal f.count s.clk = 0 ∨ 64 < w.uniVal f.count s.clk) → exec i s = s.raise w .barrierCount 0) ∧
      (BarReady s w g f (uniUses f.count) → 1 ≤ w.uniVal f.count s.clk → w.uniVal f.count s.clk ≤ 64 → s.arriveReady w = false →
        Goes i s fun t v => v.pc = w.pc ∧ v.nextIssue = s.clk + 1 ∧ SameControl w v ∧ SameRegs w v ∧ OnlyWale s t)) ∧
    (AtHand s w → w.kind = .wale → w.faceOk f.face = true → w.active f.face ≠ 0 → s.wg? w.wg = some g → g.bars ≤ f.bar →
      ∀ i ∈ [Instr.barArrive f, .barSync f, .barWait f], exec i s = s.raise w .access 0) ∧
    (AtHand s w → w.kind = .wale → w.faceOk f.face = true → w.active f.face = 0 →
      ∀ i ∈ [Instr.barArrive f, .barSync f, .barWait f], exec i s = .next (s.issued w 0)) ∧
    (BarReady s w g f [] → ∀ i ∈ [Instr.barWait f, .barSync f], (i = .barSync f → w.arrived f.bar = true) →
      (w.barPend.contains f.bar = true → Goes i s fun t v =>
        v.pc = w.pc ∧ v.nextIssue = s.clk + 1 ∧ SameControl w v ∧ SameRegs w v ∧ OnlyWale s t) ∧
      (w.barPend.contains f.bar = false → Goes i s fun t v =>
        Advanced s w v 0 ∧ SameControl w v ∧ SameRegs w v ∧ OnlyAcquire s t))

/-- NAMED BARRIERS (R181, R182). -/
def Obligations.Barriers : Prop := BarrierArrivals ∧ BarrierWaitsAndTraps

/-- THE BARRIER WORD (R183): an arrival with S[d] = c goes to its bank, which performs it as it would read the word for a load, 12 clk
after its issue in the own scratchpad and 16 + 2h in a peer's, and S[d+1] is readable 24 or 32 + 4h clk after the issue. A count out
of range, or another than the word's, is BARRIER_COUNT. It waits while a fence or the wale's earlier accesses hold it back; that it
waits for arrivals with another count on their way is the model's choice (log 32), as is that a word out of extent under zero mode is
no word (log 111). -/
def Sys2Proof.Claims.BarrierWordArrivals : Prop :=
  ∀ (m : MForm) (s : State) (w : Wale) (x : MCtx) (va : Nat) (loc : Option Nat), s.canonical = true → AtHand s w →
    s.uniAccess w m barwOp = .at' x va loc →
    let c := (w.sAt m.fa.d s.clk).toNat
    let far := lSpace x.r = 3
    let at' := s.clk + if far then 16 + 2 * hops w.core (lPeer x.r) else 12
    let lat := if far then 32 + 4 * hops w.core (lPeer x.r) else 24
    let waits : Prop := Goes (.barwArv m) s fun t v => WaitsAt w v (s.clk + 1) w.latch ∧ OnlyWale s t
    ((c = 0 ∨ 32767 < c) → exec (.barwArv m) s = s.raise w .barrierCount 0) ∧
    (1 ≤ c → c ≤ 32767 → s.stallShort w [⟨.s, m.fa.d⟩] = none →
      ((s.fenceHolds w = true ∨ s.barwHeld w at' = true) → waits) ∧
      (s.fenceHolds w = false → s.barwHeld w at' = false →
        (loc = none → Goes (.barwArv m) s fun t v =>
          (∀ clk, s.clk + lat ≤ clk → v.sAt (m.fa.d + 1) clk = 0) ∧ Advanced s w v 0 ∧ SameControl w v ∧ OnlyWale s t) ∧
        (∀ l, loc = some l →
          let count := s.natAt l 4 / 2 ^ 16 % 2 ^ 15
          ((∃ o ∈ s.near, o.loc = l ∧ o.arv ≠ none ∧ o.arv ≠ some c) → waits) ∧
          ((∀ o ∈ s.near, o.loc = l → o.arv = none ∨ o.arv = some c) →
            (count ≠ 0 → count ≠ c → exec (.barwArv m) s = s.raise w .barrierCount 0) ∧
            (count = 0 ∨ count = c → Goes (.barwArv m) s fun t v =>
              (∃ o, t.near = s.near ++ [o] ∧ o.wale = w.id ∧ o.at' = at' ∧ o.loc = l ∧ o.arv = some c ∧ o.wr = false ∧ o.reg = m.fa.d + 1 ∧
                ∃ e, v.inflight = w.inflight ++ [e] ∧ e.takes .s o = true ∧ e.readable = s.clk + lat) ∧
              t.mem = s.mem ∧ (∀ n clk, n ≠ m.fa.d + 1 → v.sAt n clk = w.sAt n clk) ∧ Advanced s w v 0 ∧ SameControl w v)))))

/-- AT ITS CLK an arrival latches its count, counts, and with the last clears both and inverts PHASE; the word as it stood before
reaches its scalar, and no byte but the word's four changes (R183). -/
def Sys2Proof.Claims.BarrierWordPerformed : Prop :=
  ∀ (s : State) (o : NearOp) (w : Wale) (e : InFlight) (c : Nat), s.canonical = true → s.near = [o] → o.at' ≤ s.clk → o.wr = false →
    o.arv = some c → 1 ≤ c → c ≤ 32767 → s.wale? o.wale = some w → w.trap = none → e ∈ w.inflight → e.takes .s o = true →
    let old := s.natAt o.loc 4
    let phase := old / 2 ^ 31
    let count := old / 2 ^ 16 % 2 ^ 15
    let arrived := (old % 2 ^ 16 + 1) % 2 ^ 16
    (count = 0 ∨ count = c) →
      s.bankClk.natAt o.loc 4 = (if arrived = c then (1 - phase) * 2 ^ 31 else phase * 2 ^ 31 + c * 2 ^ 16 + arrived) ∧
      (∀ a, a < o.loc ∨ o.loc + 4 ≤ a → s.bankClk.byteAt a = s.byteAt a) ∧ s.bankClk.near = [] ∧
      ∃ v, s.bankClk.wale? o.wale = some v ∧ { e with vals := [BitVec.ofNat 32 old], filled := true } ∈ v.inflight ∧ v.s = w.s

/-- BARW.WAIT goes on where the word's PHASE differs from bit 31 of S[d], and parks where they are equal until the phase changes;
WATCHDOG traps a wale that has been held at one waiting instruction for its context's limit (R183, R261). -/
def Sys2Proof.Claims.BarrierWordWaits : Prop :=
  ∀ (m : MForm) (s : State) (w : Wale),
    (∀ x va loc, AtHand s w → s.uniAccess w m barwOp = .at' x va loc → s.stallShort w [⟨.s, m.fa.d⟩] = none →
      let phase := decide ((match loc with | some l => s.natAt l 4 | none => 0) / 2 ^ 31 = 1)
      let waits (P : Option Latch → Prop) : Prop := Goes (.barwWait m) s fun t v =>
        v.pc = w.pc ∧ v.nextIssue = s.clk + 1 ∧ P v.latch ∧ SameControl w v ∧ SameRegs w v ∧ OnlyWale s t
      (s.acquireOpen w = true → waits fun l => l = w.latch) ∧
      (s.acquireOpen w = false →
        ((∀ a p o, w.latch ≠ some (.barw a p o)) →
          (phase ≠ (w.sAt m.fa.d s.clk).getLsbD 31 → exec (.barwWait m) s = .next (s.issued w 0)) ∧
          (phase = (w.sAt m.fa.d s.clk).getLsbD 31 → waits fun l => l = some (.barw (loc.getD 0) phase none))) ∧
        (∀ a p, w.latch = some (.barw a p none) →
          waits fun l => l = if phase = p then w.latch else some (.barw a p (some (s.clk + barwWake w.core x.r)))) ∧
        (∀ a p k, w.latch = some (.barw a p (some k)) → (k ≤ s.clk → exec (.barwWait m) s = .next (s.issued w 0)) ∧
          (s.clk < k → waits fun l => l = w.latch)))) ∧
    (∀ h, s.wale? w.id = some w → w.kind = .wale → w.life = .resident → w.held = some h → h.watched = true →
      s.wdog w.ctx ≠ 0 → h.since + s.wdog w.ctx * 65536 ≤ s.clk → w.trap = none → s.handler w.ctx ≠ 0 →
      ∃ t v f, exec (.watchdog w.id) s = .next t ∧ t.wale? w.id = some v ∧ v.trap = some f ∧ f.tcause.toNat % 256 = 0x19 ∧
        f.tpc = w.insnPc ∧ f.tlanes = 0 ∧ v.exm = w.live ∧ v.pc = s.handler w.ctx ∧
        ((∃ b, w.latch = some (.arrived b)) ∨ (∃ l va, w.latch = some (.lock l va)) →
          f.tcause.toNat / 2 ^ 16 = 1 ∧ v.retryPc = some w.insnPc))

/-- BARRIER WORDS AND THE WATCHDOG (R183, R184, R261). -/
def Obligations.BarrierWords : Prop := BarrierWordArrivals ∧ BarrierWordPerformed ∧ BarrierWordWaits

/-! ### The matrix queue and the array -/

/-- A matrix-queue operation passes what R185 and R187 ask before its own checks: `o` is the wale whose queue it uses. -/
def Sys2Proof.Claims.MqReady (s : State) (w o : Wale) (g : Workgroup) (face : Face) (kinds : List WaleKind) (flag : Option Nat)
    (uses : List Use) : Prop :=
  AtHand s w ∧ s.wale? (State.ownerId w) = some o ∧ w.kind ∈ kinds ∧ w.faceOk face = true ∧ w.active face ≠ 0 ∧
    s.wg? w.wg = some g ∧ o.mq.length < 16 ∧ o.canRaise flag = true ∧ o.discarding = false ∧ s.stallShort w uses = none

/-- The operation joins its queue at the end, in the open group, as `P` says; its flag rises; the accumulator takes the tag named;
no tile element, register or byte of memory changes. -/
def Sys2Proof.Claims.MatrixEnters (i : Instr) (s : State) (w o : Wale) (g : Workgroup) (tag : Option (Nat × Ty)) (flag : Option Nat)
    (P : MOp → Prop) : Prop :=
  ∃ t v u m, exec i s = .next t ∧ t.wale? s.cur = some v ∧ t.wale? o.id = some u ∧ u.mq = o.mq ++ [m] ∧ P m ∧
    m.issued = s.clk ∧ m.grp = o.mgOpen ∧ m.no = w.issueNo ∧ m.after = o.fenced 2 ∧ m.flag = flag ∧ m.insn = w.insn0 ∧
    (∀ k, flag = some k → u.flag k = o.flag k + 1) ∧ Advanced s w v 0 ∧ v.exm = w.exm ∧ v.v = w.v ∧ v.s = w.s ∧ v.q = w.q ∧
    t.mem = s.mem ∧ t.reqs = s.reqs ∧ t.regs = s.regs ∧ t.layouts = s.layouts ∧
    ∃ k, t.wg? w.wg = some k ∧ k.tile = g.tile ∧ k.copies = g.copies ∧ k.barriers = g.barriers ∧
      ∀ n, k.tileTag n = match tag with
        | some (a, ty) => if n = a ∨ (ty = .f64 ∧ n = a + 1) then ty else g.tileTag n
        | none => g.tileTag n

/-- MMA and MMAZ enter the matrix queue with their operands as read at issue and set the accumulator's tag (R188 to R190). -/
def Sys2Proof.Claims.MmaIssues : Prop :=
  ∀ (f : MmaForm) (s : State) (w o : Wale) (g : Workgroup), s.canonical = true →
    MqReady s w o g f.face [.wale, .streamM] none ([f.sk, f.sm, f.sn].map (Use.mk .s)) →
    let sc (n : Nat) := (w.sAt n s.clk).toNat
    let a := s.layout w.ctx f.ha
    let b := s.layout w.ctx f.hb
    let kk := 32 * (f.kc + 1)
    (f.ch = true → o.lastCopy.isSome = true) → g.granted (accTy f.ty) f.acc = true →
    s.mmaLayBad w f.ty a = false → s.mmaLayBad w f.ty b = false →
    boxFault a [sc f.sk, sc f.sm] [kk, 128] = false → boxFault b [sc f.sk, sc f.sn] [kk, 128] = false →
    (f.ty = .q4 → sc f.sk % 32 = 0) →
    ∀ p ∈ [(Instr.mma f, MKind.mma), (.mmaz f, .mmaz)], (p.2 = .mma → g.tagged (accTy f.ty) f.acc = true) →
      MatrixEnters p.1 s w o g (some (f.acc, accTy f.ty)) none fun m =>
        m.kind = p.2 ∧ m.ty = f.ty ∧ m.acc = f.acc ∧ m.rec' 0 = a ∧ m.rec' 1 = b ∧ m.o0 = sc f.sk ∧ m.o1 = sc f.sm ∧
        m.o2 = sc f.sn ∧ m.kk = kk ∧ m.chain = if f.ch then o.lastCopy else none

/-- MZERO, MREAD and MWRITE enter the matrix queue: MREAD tags its run and counts on its flag, MWRITE latches the active threads'
values of its beats (R193, R194). -/
def Sys2Proof.Claims.TileOperationsIssue : Prop :=
  ∀ (s : State) (w o : Wale) (g : Workgroup), s.canonical = true →
    (∀ f : MzeroForm, MqReady s w o g f.face [.wale, .streamM] none [] → g.granted f.ty f.acc = true →
      MatrixEnters (.mzero f) s w o g (some (f.acc, f.ty)) none fun m => m.kind = .mzero ∧ m.ty = f.ty ∧ m.acc = f.acc) ∧
    (∀ (f : MrwForm) (k : Nat), MqReady s w o g f.face [.wale] (some k) (uniUses f.row) → w.flagSel f.fsel = some k →
      (∀ r ∈ mrwRun f, w.inSet r = true ∧ w.partialBad r (w.active f.face) f.ty s.clk = false) → g.granted f.ty f.acc = true →
      g.tagged f.ty f.acc = true → w.uniVal f.row s.clk ≤ 127 →
      MatrixEnters (.mread f) s w o g none (some k) fun m => m.kind = .mread ∧ m.ty = f.ty ∧ m.acc = f.acc ∧ m.reg = f.d ∧
        m.row = w.uniVal f.row s.clk ∧ m.standing = (mrwRun f).map fun _ => w.active f.face) ∧
    (∀ (f : MrwForm), MqReady s w o g f.face [.wale] (w.flagSel f.fsel) (uniUses f.row ++ (mrwRun f).map (Use.mk .v)) →
      (∀ r ∈ mrwRun f, w.inSet r = true ∧ w.tagAt r s.clk = f.ty) → g.granted f.ty f.acc = true →
      (∀ k, (k = f.acc ∨ (f.ty = .f64 ∧ k = f.acc + 1)) → g.tileTag k = .raw ∨ g.tileTag k = f.ty) → w.uniVal f.row s.clk ≤ 127 →
      MatrixEnters (.mwrite f) s w o g (some (f.acc, f.ty)) (w.flagSel f.fsel) fun m => m.kind = .mwrite ∧ m.ty = f.ty ∧
        m.acc = f.acc ∧ m.row = w.uniVal f.row s.clk ∧ m.mask = w.active f.face ∧
        (f.ty ≠ .f64 → ∀ t < 32, ∀ j < 4, (m.vals.getD (4 * t + j) 0).toNat = (w.vAt (f.d + j) t (s.clk + t / 8)).toNat))

/-- MSTORE and STFOLD enter the matrix queue with their layout, box and key as read at issue; they change no tag (R195, R196). -/
def Sys2Proof.Claims.StoresFromTilesIssue : Prop :=
  ∀ (s : State) (w o : Wale) (g : Workgroup), s.canonical = true →
    (∀ f : MstoreForm, MqReady s w o g f.face [.wale, .streamM] none (handleUses f.handle ++ [f.sc0, f.sc1].map (Use.mk .s)) →
      let r := s.handleRec w f.handle
      let tag := g.tileTag f.acc
      (tag = .f64 → f.acc % 2 = 0) → (f.nosat = true → lFmt r = .e4m3 ∨ lFmt r = .e5m2) → g.granted (accTy tag) f.acc = true →
      lValid r = true → lRank r = 2 → lSpace r ≤ 3 → tag ≠ .raw → lFmt r ∈ mstoreFmts tag → outsideMesh r = false →
      (lSpace r = 3 → peerOk w.core r = true) → (imaged r g.sym = true → imageMisfit r g.sym g.grids = false) →
      g.tagged (accTy tag) f.acc = true → boxFault r [(w.sAt f.sc0 s.clk).toNat, (w.sAt f.sc1 s.clk).toNat] [128, 128] = false →
      MatrixEnters (.mstore f) s w o g none none fun m => m.kind = .mstore ∧ m.ty = accTy tag ∧ m.acc = f.acc ∧ m.rec' 0 = r ∧
        m.o0 = (w.sAt f.sc0 s.clk).toNat ∧ m.o1 = (w.sAt f.sc1 s.clk).toNat ∧ m.rm = f.rm ∧ m.nosat = f.nosat) ∧
    (∀ f : StfoldForm, MqReady s w o g f.face [.wale, .streamM] none (handleUses f.handle ++ [f.sc0, f.sc1, f.sb].map (Use.mk .s)) →
      let r := s.handleRec w f.handle
      let log := s.layout w.ctx (field r 883 874)
      g.granted .f32 f.acc = true → lValid r = true → lRank r = 2 → lSpace r = 0 → lFmt r = .f32 → r.getLsbD 884 = true →
      s.foldLogOk w.core w.ctx log = true → lExt r 0 % 128 = 0 → lExt r 1 % 128 = 0 → outsideMesh r = false → imaged r g.sym = false →
      g.tileTag f.acc = .f32 → (w.sAt f.sc0 s.clk).toNat % 128 = 0 → (w.sAt f.sc1 s.clk).toNat % 128 = 0 →
      MatrixEnters (.stfold f) s w o g none none fun m => m.kind = .stfold ∧ m.acc = f.acc ∧ m.rec' 0 = log ∧
        m.o0 = (w.sAt f.sc0 s.clk).toNat ∧ m.o1 = (w.sAt f.sc1 s.clk).toNat ∧ m.key = w.sAt f.sb s.clk)

/-- A full matrix queue holds the wale, before any check of the operation (the model's order, log 54); an ungranted accumulator is
ACCESS in every operation, once the checks of decoding and of the working set pass; and an empty active set has no effect (R185 to
R187). -/
def Sys2Proof.Claims.MatrixIssueWaits : Prop :=
  ∀ (f : MmaForm) (h : MzeroForm) (r : MrwForm) (a : MstoreForm) (b : StfoldForm) (s : State) (w : Wale) (g : Workgroup),
    AtHand s w → w.kind = .wale → s.wg? w.wg = some g →
    ∀ p ∈ [(Instr.mma f, f.face), (.mmaz f, f.face), (.mzero h, h.face), (.mread r, r.face), (.mwrite r, r.face), (.mstore a, a.face),
      (.stfold b, b.face)], w.faceOk p.2 = true →
      (w.active p.2 = 0 → exec p.1 s = .next (s.issued w 0)) ∧
      (w.active p.2 ≠ 0 → 16 ≤ w.mq.length → Goes p.1 s fun t v =>
        v.pc = w.pc ∧ v.nextIssue = s.clk + 1 ∧ v.mq = w.mq ∧ SameControl w v ∧ SameRegs w v ∧ OnlyWale s t) ∧
      (w.active p.2 ≠ 0 → w.mq.length < 16 →
        let refused (i : Instr) (ty : Ty) (acc : Nat) : Prop := p.1 = i → g.granted ty acc = false → exec i s = s.raise w .access 0
        ((f.ch = true → w.lastCopy.isSome = true) → refused (.mma f) (accTy f.ty) f.acc ∧ refused (.mmaz f) (accTy f.ty) f.acc) ∧
        refused (.mzero h) h.ty h.acc ∧
        (w.canRaise (w.flagSel r.fsel) = true → (∀ x ∈ mrwRun r, w.inSet x = true) →
          ((w.flagSel r.fsel).isSome = true → refused (.mread r) r.ty r.acc) ∧ refused (.mwrite r) r.ty r.acc) ∧
        (let tag := g.tileTag a.acc
         (tag = .f64 → a.acc % 2 = 0) → (a.nosat = true → lFmt (s.handleRec w a.handle) ∈ [.e4m3, .e5m2]) →
          refused (.mstore a) (accTy tag) a.acc) ∧
        refused (.stfold b) .f32 b.acc)

/-- MATRIX OPERATIONS JOIN THEIR QUEUE, OR WAIT (R185, R187 to R198). -/
def Obligations.MatrixOperationsIssue : Prop := MmaIssues ∧ TileOperationsIssue ∧ StoresFromTilesIssue ∧ MatrixIssueWaits

/-- MCOMMIT seals the open group unless eight are outstanding; MWAIT waits until at most n are, and outside a handler traps with
ENGINE_FAULT for an abandonment not yet delivered, which it delivers once (R197 to R199). -/
def Obligations.GroupsAndWaits : Prop :=
  ∀ (face : Face) (f : WaitForm) (s : State) (w : Wale), AtHand s w → w.kind = .wale → w.faceOk face = true → w.active face ≠ 0 →
    f.face = face →
    (w.groupsOut < 8 → Goes (.mcommit face) s fun t v => v.mgOpen = w.mgOpen + 1 ∧ v.mq = w.mq ∧
      Advanced s w v 0 ∧ SameControl w v ∧ SameRegs w v ∧ OnlyWale s t) ∧
    (8 ≤ w.groupsOut → Goes (.mcommit face) s fun t v => v.mgOpen = w.mgOpen ∧ v.pc = w.pc ∧ SameControl w v ∧ SameRegs w v ∧ OnlyWale s t) ∧
    (w.trap.isSome = true ∨ w.mwaitFault = none →
      (w.groupsOut ≤ f.n → Goes (.mwait f) s fun t v => Advanced s w v 0 ∧ SameControl w v ∧ SameRegs w v ∧ OnlyAcquire s t) ∧
      (f.n < w.groupsOut → Goes (.mwait f) s fun t v =>
        v.pc = w.pc ∧ v.nextIssue = s.clk + 1 ∧ SameControl w v ∧ SameRegs w v ∧ OnlyWale s t)) ∧
    (∀ p, w.trap = none → w.mwaitFault = some p → exec (.mwait f) s =
      .next (s.takeTrap { w with pend := w.pend.erase p } { cause := .engineFault, detail := p.detail, tinsn1 := some p.insn }))

/-- ARRAY_SERVE takes, for an idle array, the MMA of a resident wale that became a candidate first, a tie to the lower slot, where
no other wale's operation is at work on its tile (log 47); an MMA becomes a candidate no earlier than 24 clk after its issue (log 48;
both the model's reading); it completes
K × 16,384 / r clk later. Without a candidate nothing happens (R187, R190). -/
def Sys2Proof.Claims.ArrayServes : Prop :=
  ∀ (core : Nat) (s : State), mFind s.arrays core = none →
    (s.nextMma core = none → exec (.arrayServe core) s = .next s) ∧
    (∀ w m r, s.nextMma core = some w → w.mq = m :: r →
      (∃ t, exec (.arrayServe core) s = .next t ∧ mFind t.arrays core = some ⟨w.id, m.id, s.clk + m.kk * 16384 / macRate m.ty⟩ ∧
        t.wales = s.wales ∧ t.wgs = s.wgs ∧ t.mem = s.mem) ∧
      w.core = core ∧ w.life = .resident ∧ s.tileHeld w m = false ∧
      ∃ d, s.candAt w = some d ∧ (m.candAt = some d ∨ (m.candAt = none ∧ d = s.clk ∧ m.issued + 24 ≤ s.clk)) ∧
        ∀ x ∈ s.wales, ∀ y q c, x.core = core → x.kind = .wale → x.life = .resident → x.mq = y :: q → s.tileHeld x y = false →
          s.candAt x = some c → d < c ∨ (d = c ∧ w.slot ≤ x.slot))

/-- MMA_COMPLETE (R190): in one step, as the model performs every operation on a tile (log 47), every element of the accumulator becomes the accumulation of its K products onto the old element, or onto
+0 for MMAZ; no other tile element changes, and the entry leaves its queue. -/
def Sys2Proof.Claims.MmaResult : Prop :=
  ∀ (core : Nat) (s : State) (a : ArrayBusy) (w : Wale) (m : MOp) (r : List MOp) (g k : Workgroup), s.canonical = true →
    mFind s.arrays core = some a → a.done ≤ s.clk → s.wale? a.wale = some w → w.mq = m :: r → m.id = a.op → s.wg? w.wg = some g →
    s.mmaResult g core m = some k →
    let bits := if m.ty = .f64 then 64 else 32
    (∃ t v, exec (.mmaComplete core) s = .next t ∧ t.wale? w.id = some v ∧ v.mq = r ∧ t.wg? w.wg = some k ∧
      mFind t.arrays core = none ∧ t.mem = s.mem) ∧
    (∀ i < 128, ∀ j < 128, ∃ as bs, s.operandRow g core (m.rec' 0) (m.rec' 2) m.o0 (m.o1 + i) m.kk = some as ∧
      s.operandRow g core (m.rec' 1) (m.rec' 3) m.o0 (m.o2 + j) m.kk = some bs ∧
      k.accAt (accTy m.ty) m.acc (128 * i + j) =
        mmaElem m.ty m.kk (if m.kind = .mmaz then 0 else g.accAt (accTy m.ty) m.acc (128 * i + j)) as bs % 2 ^ bits) ∧
    (∀ n, n < tileKey m.acc 0 ∨ tileKey m.acc 0 + 16384 * (bits / 32) ≤ n → mGet 0 k.tile n = mGet 0 g.tile n)

/-- MATRIX_OP_PERFORMED (R193, R194), each in one step (log 47): MZERO clears every element of its tile (both of a pair), MWRITE writes the four columns of each
active thread in its row, MREAD copies them to the registers of its run; each leaves its queue and lowers its flag. -/
def Sys2Proof.Claims.TileOperationsPerformed : Prop :=
  ∀ (s : State) (w : Wale) (m : MOp) (r : List MOp) (g : Workgroup), s.canonical = true → s.wale? w.id = some w → w.mq = m :: r →
    s.wg? w.wg = some g → s.mqGo w g m = true →
    let per := if m.ty = .f64 then 2 else 1
    (m.kind = .mzero → ∃ t v k, exec (.matrixOpPerformed w.id) s = .next t ∧ t.wale? w.id = some v ∧ v.mq = r ∧ t.wg? w.wg = some k ∧
      t.mem = s.mem ∧ ∀ n, mGet 0 k.tile n =
        if tileKey m.acc 0 ≤ n ∧ n < tileKey m.acc 0 + 16384 * per then 0 else mGet 0 g.tile n) ∧
    (m.kind = .mwrite → ∃ t v k, exec (.matrixOpPerformed w.id) s = .next t ∧ t.wale? w.id = some v ∧ v.mq = r ∧
      t.wg? w.wg = some k ∧ t.mem = s.mem ∧ (∀ f, m.flag = some f → v.flag f = w.flag f - 1) ∧
      (∀ th < 32, ∀ j < 4, m.mask.getLsbD th = true →
        k.accAt m.ty m.acc (128 * m.row + 4 * th + j) = (m.vals.getD (4 * th + j) 0).toNat % 2 ^ (32 * per)) ∧
      (∀ n, (∀ th < 32, m.mask.getLsbD th = true → n < tileKey m.acc (per * (128 * m.row + 4 * th)) ∨
        tileKey m.acc (per * (128 * m.row + 4 * th)) + 4 * per ≤ n) → mGet 0 k.tile n = mGet 0 g.tile n)) ∧
    (m.kind = .mread → w.trap = none → ∃ t v, exec (.matrixOpPerformed w.id) s = .next t ∧ t.wale? w.id = some v ∧
      v.mq.map MOp.id = r.map MOp.id ∧ t.mem = s.mem ∧ t.wgs = s.wgs ∧ (∀ f, m.flag = some f → v.flag f = w.flag f - 1) ∧
      (∀ i < m.standing.length, ∀ th < 32, mGet 0 v.v ((m.reg + i) * 32 + th) =
        if (m.standing.getD i 0).getLsbD th then g.tileW m.acc (per * (128 * m.row + 4 * th + i / per) + i % per)
        else mGet 0 w.v ((m.reg + i) * 32 + th)))

/-- An MSTORE in its turn, the elements that it has left to write reached, with no image and no scale ring named, leaves in each
element that no other overlaps the tile's value rounded to the layout's format, and leaves its queue (R51, R195). -/
def Sys2Proof.Claims.MstorePerformed : Prop :=
  ∀ (s : State) (w : Wale) (m : MOp) (r : List MOp) (g : Workgroup), s.canonical = true → s.absentHit = false → s.wale? w.id = some w →
    w.mq = m :: r → s.wg? w.wg = some g → s.mqGo w g m = true → s.badWords = [] → m.kind = .mstore → m.resv = none → (m.rec' 0).getLsbD 863 = false →
    let size := elemSize (lFmt (m.rec' 0))
    let plan := (s.mstorePlan w g m).drop m.next
    (∀ e ∈ plan, e.imgs = [] ∧ ∃ l, e.loc = .ok l ∧ s.engReady l w.core w.stamp = true) →
    ∃ t v, exec (.matrixOpPerformed w.id) s = .next t ∧ t.wale? w.id = some v ∧ v.mq = r ∧ t.wgs = s.wgs ∧
      ∀ e ∈ plan, ∀ l, e.loc = .ok l → (∀ d ∈ plan, ∀ k, d.n ≠ e.n → d.loc = .ok k → k + size ≤ l ∨ l + size ≤ k) →
        t.natAt l size = (toFloat (lFmt (m.rec' 0)) { rm := m.rm, nosat := m.nosat } 0 ((m.tileVals g).getD e.n (.num false 0 0))).bits %
          2 ^ (8 * size)

/-- MATRIX_OP_ABANDON discards a wale's queue when its head's chained copy was rejected or abandoned, and leaves ENGINE_FAULT pending
(R192, R198, R199). -/
def Sys2Proof.Claims.MatrixEnds : Prop :=
  ∀ (s : State) (w : Wale) (m : MOp) (r : List MOp) (g : Workgroup), s.wale? w.id = some w → w.mq = m :: r → s.wg? w.wg = some g →
    ∀ c, m.chain = some c → g.chainBad c = true → ∃ t v, exec (.matrixOpAbandon w.id) s = .next t ∧ t.wale? w.id = some v ∧ v.mq = [] ∧
      v.pend = w.pend ++ [⟨.engineFault, 0, m.insn, none⟩] ∧ v.v = w.v ∧ v.pc = w.pc ∧ t.mem = s.mem ∧ t.wgs = s.wgs

/-- FOLD_LOG_APPEND, in three steps, where a log whose word NENT is 0 holds it back as a full one does (both the model's reading,
log 50): it reserves the next sequence number in word RESERVE, or waits while the log is full; it writes
the words of its entry in that slot; and it leaves its queue once TAIL has passed the slot (R196, R321). -/
def Sys2Proof.Claims.FoldAppends : Prop :=
  ∀ (s : State) (w : Wale) (m : MOp) (r : List MOp) (g : Workgroup), s.canonical = true → s.absentHit = false → s.wale? w.id = some w →
    w.mq = m :: r → s.wg? w.wg = some g → m.kind = .stfold → s.mqGo w g m = true → s.badWords = [] →
    let die := dieOf w.core
    let log := m.rec' 0
    let word (n : Nat) := s.logGet die w.ctx log n
    let reached (ws : List Nat) : Prop := s.foldFault die w.ctx log ws = none ∧ s.foldReady w log ws = true
    let goes (P : State → Wale → Prop) : Prop := ∃ t v, exec (.foldLogAppend w.id) s = .next t ∧ t.wale? w.id = some v ∧ P t v ∧
      t.wgs = s.wgs ∧ v.v = w.v ∧ v.pc = w.pc
    (m.resv = none → reached [1, 2, 3, 4] →
      ((word 4 = 0 ∨ (word 3 + 2 ^ 32 - word 1) % 2 ^ 32 = word 4) → exec (.foldLogAppend w.id) s = .next s) ∧
      (word 4 ≠ 0 → (word 3 + 2 ^ 32 - word 1) % 2 ^ 32 ≠ word 4 → goes fun t v => v.mq = { m with resv := some (word 3) } :: r ∧
        ∀ l, s.logWord die w.ctx log .w 3 = .ok l → t.natAt l 4 = (word 3 + 1) % 2 ^ 32)) ∧
    (∀ seq, m.resv = some seq → m.next = 0 → reached (foldWords (max 1 (word 4)) seq) → goes fun t v =>
      (v.mq = { m with next := 1 } :: r ∨ v.mq = r) ∧
      ∀ p ∈ s.foldCells w g m (max 1 (word 4)) seq, (∀ l, s.logWord die w.ctx log .w 2 = .ok l → l + 4 ≤ p.1 ∨ p.1 + 4 ≤ l) →
        (∀ q ∈ s.foldCells w g m (max 1 (word 4)) seq, q ≠ p → q.1 + 4 ≤ p.1 ∨ p.1 + 4 ≤ q.1) → t.natAt p.1 4 = p.2 % 2 ^ 32) ∧
    (∀ seq l, m.resv = some seq → m.next ≠ 0 → reached [2] → s.logWord die w.ctx log .w 2 = .ok l →
      (s.foldSlots.find? fun x => x.log == l && x.seq == s.natAt l 4) = none →
      let passed := (s.natAt l 4 + 2 ^ 32 - seq) % 2 ^ 32
      ((0 < passed ∧ passed < 2 ^ 31) → goes fun t v => v.mq = r ∧ t.mem = s.mem) ∧
      (¬(0 < passed ∧ passed < 2 ^ 31) → exec (.foldLogAppend w.id) s = .next s))

/-- MATRIX OPERATIONS ARE PERFORMED (R187, R190 to R199, R321). -/
def Obligations.MatrixOperationsPerformed : Prop := ArrayServes ∧ MmaResult ∧ TileOperationsPerformed ∧ MstorePerformed ∧
  MatrixEnds ∧ FoldAppends

/-! ### Copies and engine streams -/

/-- An engine operation passes what R185 asks before its own checks: `o` is the wale whose queues it uses. -/
def Sys2Proof.Claims.EngReady (s : State) (w o : Wale) (g : Workgroup) (face : Face) (kinds : List WaleKind) : Prop :=
  AtHand s w ∧ s.wale? (State.ownerId w) = some o ∧ w.kind ∈ kinds ∧ w.faceOk face = true ∧ w.active face ≠ 0 ∧ s.wg? w.wg = some g

/-- A COPY.SLICE passes the checks made at its issue (R185, R201), and the slots it needs are free. -/
def Sys2Proof.Claims.SliceReady (f : CopyForm) (s : State) (w o : Wale) (g : Workgroup) (x : Slice) : Prop :=
  let rd := s.layout w.ctx f.hd
  let rs := s.layout w.ctx f.hs
  EngReady s w o g f.face [.wale, .streamC] ∧ f.sd + lRank rd ≤ 64 ∧ f.ss + lRank rs ≤ 64 ∧ s.copyLayBad w rd rs = false ∧
    w.uniVal f.i s.clk ≤ f.nm1 ∧ g.slicesOf o.id < 16 ∧
    s.stallShort w (uniUses f.i ++ ((List.range (lRank rd)).flatMap fun j => [f.sd + j, f.ss + j]).map (Use.mk .s)) = none ∧
    x = { i := w.uniVal f.i s.clk, wale := o.id, batch := o.batOpen, dst := w.originRun f.sd (lRank rd) s.clk,
          src := w.originRun f.ss (lRank rs) s.clk, insn := w.insn0 }

/-- COPY.SLICE joins the oldest forming copy of its queue that lacks its slice, or founds one; the last slice makes the copy ready;
no element moves yet. A slice that fails its checks on arrival rejects the copy, with COPY_RANGE pending for every wale of the
workgroup (R201 to R203, R206). -/
def Sys2Proof.Claims.CopySliceCompletes : Prop :=
  ∀ (f : CopyForm) (s : State) (w o : Wale) (g : Workgroup) (x : Slice), SliceReady f s w o g x →
    let rd := s.layout w.ctx f.hd
    let rs := s.layout w.ctx f.hs
    let bad := sliceBad rd rs x.dst x.src x.i (f.nm1 + 1) (s.windowSize w) g.tiles
    let goes (P : State → Workgroup → Prop) : Prop := ∃ t v u k, exec (.copySlice f) s = .next t ∧ t.wale? s.cur = some v ∧
      t.wale? o.id = some u ∧ t.wg? w.wg = some k ∧ Advanced s w v 0 ∧ v.v = w.v ∧ v.s = w.s ∧ v.exm = w.exm ∧ u.lastCopy.isSome = true ∧
      t.mem = s.mem ∧ k.tile = g.tile ∧ P t k
    (((g.forming f.cq).find? fun c => !(c.slices.any fun y => y.i == x.i)) = none → (g.forming f.cq).length < 4 →
      (bad = false → goes fun _ k => ∃ c ∈ k.copies, c.slices = [x] ∧ c.cq = f.cq ∧ c.n = f.nm1 + 1 ∧ c.hd = f.hd ∧ c.hs = f.hs ∧
        c.rejected = false ∧ c.st = if f.nm1 = 0 then .ready else .forming) ∧
      (bad = true → goes fun t _ => ∀ y z, s.wale? y = some z → z.wg = w.wg → z.kind = .wale →
        ∃ u, t.wale? y = some u ∧ u.pend = z.pend ++ [⟨.copyRange, 0, w.insn0, none⟩])) ∧
    (∀ c, ((g.forming f.cq).find? fun c => !(c.slices.any fun y => y.i == x.i)) = some c → c.n = f.nm1 + 1 → c.hd = f.hd → c.hs = f.hs →
      c.rejected = false → bad = false → goes fun _ k => ∃ d ∈ k.copies, d.id = c.id ∧ d.slices = c.slices ++ [x] ∧
        d.st = if c.slices.length + 1 = c.n then .ready else .forming)

/-- CSEAL seals the open batch unless eight are outstanding; CWAIT waits until at most n are, and outside a handler first takes a
pending COPY_RANGE, else an abandoned copy's ENGINE_FAULT (R205). -/
def Sys2Proof.Claims.BatchesAndWaits : Prop :=
  ∀ (face : Face) (f : WaitForm) (s : State) (w : Wale) (g : Workgroup), EngReady s w w g face [.wale] → f.face = face →
    (s.batchesOut w < 8 → Goes (.cseal face) s fun t v => v.batOpen = w.batOpen + 1 ∧
      Advanced s w v 0 ∧ SameControl w v ∧ SameRegs w v ∧ OnlyWale s t) ∧
    (8 ≤ s.batchesOut w → Goes (.cseal face) s fun t v => v.batOpen = w.batOpen ∧ v.pc = w.pc ∧ SameControl w v ∧ SameRegs w v ∧ OnlyWale s t) ∧
    (w.trap.isSome = true ∨ w.cwaitFault = none →
      (s.batchesOut w ≤ f.n → Goes (.cwait f) s fun t v => Advanced s w v 0 ∧ SameControl w v ∧ SameRegs w v ∧ OnlyAcquire s t) ∧
      (f.n < s.batchesOut w → Goes (.cwait f) s fun t v =>
        v.pc = w.pc ∧ v.nextIssue = s.clk + 1 ∧ SameControl w v ∧ SameRegs w v ∧ OnlyWale s t)) ∧
    (∀ p, w.trap = none → w.cwaitFault = some p → exec (.cwait f) s =
      .next (s.takeTrap { w with pend := w.pend.erase p } { cause := p.cause, detail := p.detail, tinsn1 := some p.insn }))

/-- COPY_START begins the next ready copy of a queue with every source element as it stands and its records as they stand, and writes
nothing yet; once a hard stop has reached its workgroup it starts none. COPY_FINISH has written every element and frees the copy, no
earlier than 4 clk after its start and once the homes of its writes take them (R213, R227, R246); that a copy reads all at the one and
writes all at the other is the model's reading (log 47). Where its window is gone, by the model's reading (log 49) COPY_FINISH, as
COPY_ABANDON does, ends it with ENGINE_FAULT pending for every wale of its workgroup (R165, R202, R204,
R206, R262). -/
def Sys2Proof.Claims.CopiesRun : Prop :=
  ∀ (s : State) (g : Workgroup) (c : Copy) (cq : Nat), s.canonical = true → s.wg? g.id = some g →
    (g.nextCopy cq = some c → s.copyReady c = true → g.saved = false → s.groupStops g.id = false → s.badWords = [] →
      (∀ l ∈ (s.copyPairs g c).flatMap pairLocs, ∃ a, l = .ok a ∧ s.engReady a g.core (s.copyStamp c) = true) →
      ∃ t k, exec (.copyStart g.id cq) s = .next t ∧ t.wg? g.id = some k ∧ t.mem = s.mem ∧ k.tile = g.tile ∧ t.wales = s.wales ∧
        ∃ d ∈ k.copies, d.id = c.id ∧ d.st = .running ∧ d.recs = [(s.copyRecs g c).1, (s.copyRecs g c).2] ∧
          d.moves = s.copyMoves g (s.copyWide g c) (s.copyPairs g c)) ∧
    (s.groupStops g.id = true → exec (.copyStart g.id cq) s = .next s) ∧
    (g.runningCopy cq = some c → s.copyUnheld g c = false → s.copyEnds g c = false → exec (.copyFinish g.id cq) s = .next s) ∧
    (g.runningCopy cq = some c → s.copyUnheld g c = false → s.absentHit = false → s.copyEnds g c = true → s.badWords = [] →
      let ms := s.copyWrites g c
      let goes (P : State → Workgroup → Prop) : Prop := ∃ t k, exec (.copyFinish g.id cq) s = .next t ∧ t.wg? g.id = some k ∧
        (∀ d ∈ k.copies, d.id ≠ c.id) ∧ t.wales = s.wales ∧ P t k
      (s.dirty = [] → (∀ m ∈ ms, 1 ≤ m.size ∧ m.size ≤ 8) →
        (ms.Pairwise fun a b => a.loc + a.size ≤ b.loc ∨ b.loc + b.size ≤ a.loc) → goes fun t k => k.tile = g.tile ∧
          (∀ m ∈ ms, t.natAt m.loc m.size = m.val.toNat % 2 ^ (8 * m.size)) ∧
          (∀ l, (∀ m ∈ ms, l < m.loc ∨ m.loc + m.size ≤ l) → t.byteAt l = s.byteAt l)) ∧
      (s.dirty = [] → (∀ m ∈ ms, m.size = 0 ∨ m.size = 9) → (ms.Pairwise fun a b => a.loc ≠ b.loc ∨ a.size ≠ b.size) →
        goes fun t k => k.tile = g.tile ∧
          (∀ m ∈ ms, t.natAt m.loc 1 / (if m.size = 0 then 1 else 16) % 16 = m.val.toNat % 16) ∧
          (∀ l, (∀ m ∈ ms, l ≠ m.loc) → t.byteAt l = s.byteAt l)) ∧
      ((∀ m ∈ ms, m.size = 10) → (ms.Pairwise fun a b => a.loc ≠ b.loc) → goes fun t k => t.mem = s.mem ∧
        (∀ m ∈ ms, mGet 0 k.tile m.loc = m.val.truncate 32) ∧ ∀ n, (∀ m ∈ ms, m.loc ≠ n) → mGet 0 k.tile n = mGet 0 g.tile n)) ∧
    (g.runningCopy cq = some c → s.copyUnheld g c = true → exec (.copyFinish g.id cq) s = exec (.copyAbandon g.id cq) s ∧
      ∃ t k, exec (.copyAbandon g.id cq) s = .next t ∧ t.wg? g.id = some k ∧ (∀ d ∈ k.copies, d.id ≠ c.id) ∧
        k.badCopies.contains c.id = true ∧ ∀ y z, s.wale? y = some z → z.wg = g.id → z.kind = .wale →
          ∃ u, t.wale? y = some u ∧ ∃ p, u.pend = z.pend ++ [p] ∧ p.cause = .engineFault ∧ p.detail = 1)

/-- COPIES (R201 to R206). -/
def Obligations.Copies : Prop := CopySliceCompletes ∧ BatchesAndWaits ∧ CopiesRun

/-- FORK.M and FORK.C start a stream at their target with the wale's scalars as they stand; a second unjoined stream on one sequencer
is STACK_OVF, and a full sequencer holds the wale (R207). -/
def Sys2Proof.Claims.ForksComplete : Prop :=
  ∀ (face : Face) (off : BitVec 28) (s : State) (w : Wale) (g : Workgroup), EngReady s w w g face [.wale] →
    ∀ p ∈ [(Instr.forkM face off, WaleKind.streamM), (.forkC face off, .streamC)],
      ((∃ q ∈ w.streams, q.2 = p.2) → exec p.1 s = s.raise w .stackOvf 0) ∧
      ((∀ q ∈ w.streams, q.2 ≠ p.2) → 8 ≤ s.seqCount w.core p.2 → Goes p.1 s fun t v =>
        v.pc = w.pc ∧ v.nextIssue = s.clk + 1 ∧ SameControl w v ∧ SameRegs w v ∧ OnlyWale s t) ∧
      ((∀ q ∈ w.streams, q.2 ≠ p.2) → s.seqCount w.core p.2 < 8 → Goes p.1 s fun t v =>
        Advanced s w v 0 ∧ SameRegs w v ∧ v.exm = w.exm ∧ t.mem = s.mem ∧ t.reqs = s.reqs ∧ v.streams = w.streams ++ [(s.nextId, p.2)] ∧
        ∃ n ∈ t.wales, n.id = s.nextId ∧ n.kind = p.2 ∧ n.parent = w.id ∧ n.core = w.core ∧ n.pc = addr52 (w.relTarget off) ∧
          ∀ j < 64, mGet 0 n.s j = w.sAt j s.clk)

/-- RDV stops a stream; a wale goes on once every stream of its has stopped, waits until then while those that have stopped end, and
takes the ENGINE_FAULT of one that faulted. STREAM_FAULT ends a stream whose next word may not be fetched (R207, R208). -/
def Sys2Proof.Claims.RendezvousCompletes : Prop :=
  ∀ (face : Face) (s : State) (w : Wale),
    (∀ o g, EngReady s w o g face [.streamM, .streamC] → Goes (.rdv face) s fun t v =>
      v.atRdv = true ∧ v.pc = w.pc ∧ SameRegs w v ∧ t.mem = s.mem) ∧
    (∀ g, EngReady s w w g face [.wale] →
      (s.streamsDone w = false → (∀ p ∈ w.streams, p.1 ≠ w.id) → Goes (.rdv face) s fun t v =>
        v.pc = w.pc ∧ v.streams = w.streams ∧ SameControl w v ∧ SameRegs w v ∧ t.mem = s.mem ∧ t.wgs = s.wgs ∧ t.reqs = s.reqs ∧
        (t.wales.filter fun x => x.id != s.cur) =
          s.wales.filter fun x => x.id != s.cur && !(x.atRdv && w.streams.any fun p => p.1 == x.id)) ∧
      (s.streamsDone w = true → w.rdvFault = none → (∀ p ∈ w.streams, p.1 ≠ w.id) → Goes (.rdv face) s fun t v =>
        v.streams = [] ∧ Advanced s w v 0 ∧ SameRegs w v ∧ v.exm = w.exm ∧ t.mem = s.mem ∧ ∀ p ∈ w.streams, t.wale? p.1 = none) ∧
      (∀ p, s.streamsDone w = true → w.rdvFault = some p → exec (.rdv face) s =
        .next (s.takeTrap { w with pend := w.pend.erase p } { cause := .engineFault, detail := 2, tinsn1 := some p.insn }))) ∧
    (∀ c, s.wale? w.id = some w → (w.kind = .streamM ∨ w.kind = .streamC) → w.atRdv = false →
      ({ s with cur := w.id } : State).codeWord w w.pc 0 = .error (some c) →
      ∃ t, exec (.streamFault w.id) s = .next t ∧ t.wale? w.id = none ∧ t.mem = s.mem ∧
        ∀ p, s.wale? w.parent = some p → p.id ≠ w.id → ∃ u, t.wale? p.id = some u ∧ u.pend = p.pend ++ [⟨.engineFault, 2, 0, none⟩])

/-- ENGINE STREAMS (R207, R208). -/
def Obligations.Streams : Prop := ForksComplete ∧ RendezvousCompletes

/-! ### Bank calls and bank programs -/

/-- BCALL joins the wale's queue of calls with its row's base, its program and arguments as read at issue, and its flag rises; a
program begins when none of the wale's calls runs, however many run on its unit (the latter the model's choice, log 133), on the unit
that its layout's space and its base row name; one that would pass 2^20 instructions faults (R209, R213). -/
def Sys2Proof.Claims.BankCalls : Prop :=
  ∀ (f : BcallForm) (s : State) (w : Wale) (g : Workgroup),
    (let r := s.layout w.ctx f.handle
     let cs : List Int := (List.range (lRank r)).map fun j => ((w.sAt (f.sc + j) s.clk).toNat : Int)
     EngReady s w w g f.face [.wale] →
     (8 ≤ (s.banks.filter fun b => b.wale == some w.id).length → Goes (.bcall f) s fun t v =>
       v.pc = w.pc ∧ v.nextIssue = s.clk + 1 ∧ SameControl w v ∧ SameRegs w v ∧ OnlyWale s t) ∧
     ((s.banks.filter fun b => b.wale == some w.id).length < 8 → w.canRaise (w.flagSel f.fsel) = true → f.sc + lRank r ≤ 64 →
       s.bankLayBad w r = false → coordsOut r cs = false →
       s.stallShort w (((List.range (lRank r)).map (f.sc + ·) ++ [f.sp, f.sp + 1] ++ (List.range 4).map (f.sa + ·)).map (Use.mk .s)) = none →
       Goes (.bcall f) s fun t v =>
         Advanced s w v 0 ∧ SameRegs w v ∧ v.exm = w.exm ∧ t.mem = s.mem ∧ t.reqs = s.reqs ∧
         (∀ k, w.flagSel f.fsel = some k → v.flag k = w.flag k + 1) ∧
         ∃ b, t.banks = s.banks ++ [b] ∧ b.wale = some w.id ∧ b.ctx = w.ctx ∧ b.base = (lAddr r cs).toNat / 32 * 32 ∧
           b.pc = addr52 (w.s64At f.sp s.clk) ∧ b.st = .queued ∧ b.count = 0 ∧ b.flag = w.flagSel f.fsel ∧
           ∀ j < 4, b.arg j = w.sAt (f.sa + j) s.clk)) ∧
    (∀ b, s.banks.find? (fun x => x.wale == some w.id) = some b → b.st = .queued → b.after.any s.pendingId = false → s.sectorSplit = false →
      ∃ t c, exec (.bankCallStart w.id) s = .next t ∧ c ∈ t.banks ∧ c.id = b.id ∧ c.st = .running ∧ c.pc = b.pc ∧ t.mem = s.mem ∧
        t.wales = s.wales ∧ (b.unit = none → ∀ l, s.rowLoc b.ctx b.base = some l →
          c.unit = some (if b.space = 0 ∧ l < 2 ^ 52 then stackOf l else bankOf l))) ∧
    (∀ b, s.bank? b.id = some b → b.wale = some w.id → s.wale? w.id = some w → b.st = .running → 2 ^ 20 ≤ b.count →
      ∃ t v, exec (.bankInsnLimit b.id) s = .next t ∧ t.bank? b.id = none ∧ t.wale? w.id = some v ∧
        v.pend = w.pend ++ [⟨.engineFault, 3, b.insn, b.flag⟩] ∧ t.mem = s.mem)

/-- The bank operations on eight lanes with what lane `i` of their destination becomes (R212). -/
def Sys2Proof.Claims.bankLaneOps (d a b c j : Nat) : List (Instr × (BankCall → Nat → Nat)) :=
  [(.badd d a b, fun x i => f32Add (rowLane (x.row a) i) (rowLane (x.row b) i)),
   (.bsub d a b, fun x i => f32Op (fun p q => FVal.add .rn p q.neg) (rowLane (x.row a) i) (rowLane (x.row b) i)),
   (.bmul d a b, fun x i => f32Op FVal.mul (rowLane (x.row a) i) (rowLane (x.row b) i)),
   (.bfma d a b c, fun x i => f32Write (FVal.fma .rn (fmt32.decode (rowLane (x.row a) i)) (fmt32.decode (rowLane (x.row b) i))
      (fmt32.decode (rowLane (x.row c) i)))),
   (.bmin d a b, fun x i => f32Min (rowLane (x.row a) i) (rowLane (x.row b) i)),
   (.bmax d a b, fun x i => f32Max (rowLane (x.row a) i) (rowLane (x.row b) i)),
   (.brsq d a, fun x i => f32Write (rsqVal (fmt32.decode (rowLane (x.row a) i)))),
   (.bscl d a j, fun x i => f32Op FVal.mul (rowLane (x.row a) i) (x.arg j).toNat),
   (.bspl d j, fun x _ => (x.arg j).toNat),
   (.bcvt d a b 0, fun x i => widenBf (rowHalf (x.row a) i)),
   (.bcvt d a b 1, fun x i => widenBf (rowHalf (x.row a) (8 + i))),
   (.bcvt d a b 2, fun x i => narrowBf (rowLane (if i < 4 then x.row a else x.row b) (2 * (i % 4))) +
      2 ^ 16 * narrowBf (rowLane (if i < 4 then x.row a else x.row b) (2 * (i % 4) + 1))),
   (.biadd d a b, fun x i => rowLane (x.row a) i + rowLane (x.row b) i)]

/-- A program goes on with its next word: its other row registers, its loop and its arguments stand. -/
def Sys2Proof.Claims.BankGoes (s t : State) (b c : BankCall) : Prop :=
  t.bank? b.id = some c ∧ c.pc = addr52 (b.pc + 4) ∧ c.count = b.count + 1 ∧ c.lc = b.lc ∧ c.args = b.args ∧ c.st = b.st ∧
    c.loopStart = b.loopStart ∧ t.wales = s.wales ∧ t.wgs = s.wgs ∧ t.reqs = s.reqs

/-- THE LANE OPERATIONS OF BANK PROGRAMS: each lane of the destination row becomes its result, 32 bits wide; no other row register and
no byte of memory changes (R210, R212). -/
def Sys2Proof.Claims.BankLaneOperations : Prop :=
  ∀ (d a b c j : Nat) (s : State) (x : BankCall), s.canonical = true → s.bank? s.curBank = some x →
    (∀ p ∈ bankLaneOps d a b c j, ∃ t y, exec p.1 s = .next t ∧ BankGoes s t x y ∧ t.mem = s.mem ∧
      (∀ i < 8, rowLane (y.row d) i = p.2 x i % 2 ^ 32) ∧ ∀ n, n ≠ d → y.row n = x.row n) ∧
    (exec (.bcvt d a b 3) s = .next (s.faultBank x))

/-- BLD reads a row whole and BST writes one whole, at base + 32 × OFF (plus LC with X), once the row's home has applied what the
program's stamp names and no other program stands on the rows of that bank; until then, and while its page is not mapped, it waits,
and wakes the row's home. A page that may not be accessed, or lies on the bus, faults the program; a row that meets an uncorrectable
word stops the context and the program does nothing (R210, R212, R213, R246, R357, R380). -/
def Sys2Proof.Claims.BankRows : Prop :=
  ∀ (n : Nat) (r : RowRef) (s : State) (x : BankCall), s.canonical = true → s.bank? s.curBank = some x →
    let free (l : Nat) : Bool := s.homeApplied l (72 * x.die) x.stamp && !s.bankHeld l (some x.id)
    x.rowVa r = (((x.base : Int) + 32 * (r.off.toInt + if r.x then (x.lc : Int) else 0)) % 2 ^ 52).toNat ∧
    (∀ l, s.rowAt x r .r = .ok l → free l = true → s.badWord l 32 false = none → ∃ t y, exec (.bld n r) s = .next t ∧ BankGoes s t x y ∧
      t.mem = s.mem ∧ (y.row n).toNat = s.natAt l 32 ∧ ∀ k, k ≠ n → y.row k = x.row k) ∧
    (∀ l, s.rowAt x r .w = .ok l → free l = true → s.badWord l 32 true = none → ∃ t y, exec (.bst n r) s = .next t ∧ BankGoes s t x y ∧
      t.natAt l 32 = (x.row n).toNat ∧ (∀ a, a < l ∨ l + 32 ≤ a → t.byteAt a = s.byteAt a) ∧ ∀ k, y.row k = x.row k) ∧
    ∀ p ∈ [(Instr.bld n r, Perm.r), (.bst n r, .w)],
      (s.rowAt x r p.2 = .bad → exec p.1 s = .next (s.faultBank x)) ∧ (s.rowAt x r p.2 = .miss → exec p.1 s = .next s) ∧
      (∀ l, s.rowAt x r p.2 = .ok l → free l = false → exec p.1 s = .next (s.stir (homeDie l x.die))) ∧
      (∀ l b, s.rowAt x r p.2 = .ok l → free l = true → s.badWord l 32 (p.2 == .w) = some b → exec p.1 s =
        .next (s.uncorrectable (structOf b) (homeDie b 0) { ctx := x.ctx, core := x.engineId, slot := 127, va := x.rowVa r }))

/-- BLOOP starts a loop of its argument's count, or skips to the next BNEXT when it is zero; BNEXT counts and goes back while LC is below
the limit; a loop in a loop and a BNEXT outside one fault. BSIG posts a record of kind 0x04 to its core, and waits while the queue
there is full. BEND ends the program
and lowers its flag (R209, R212, R213). -/
def Sys2Proof.Claims.BankControl : Prop :=
  ∀ (j : Nat) (s : State) (x : BankCall), s.bank? s.curBank = some x →
    (x.loopStart.isSome = true → exec (.bloop j) s = .next (s.faultBank x)) ∧
    (x.loopStart = none → ∃ t y, exec (.bloop j) s = .next t ∧ t.bank? x.id = some y ∧ y.pc = addr52 (x.pc + 4) ∧ y.lc = 0 ∧
      y.limit = (x.arg j).toNat ∧ y.w = x.w ∧ t.mem = s.mem ∧
      (if x.arg j = 0 then y.skipping = true ∧ y.loopStart = none else y.loopStart = some (addr52 (x.pc + 4)))) ∧
    (x.loopStart = none → exec .bnext s = .next (s.faultBank x)) ∧
    (∀ a, x.loopStart = some a → ∃ t y, exec .bnext s = .next t ∧ t.bank? x.id = some y ∧ y.lc = x.lc + 1 ∧ y.w = x.w ∧ t.mem = s.mem ∧
      (if x.lc + 1 < x.limit then y.pc = a ∧ y.loopStart = some a else y.pc = addr52 (x.pc + 4) ∧ y.loopStart = none)) ∧
    (s.corePresent (x.arg j).toNat = false → exec (.bsig j) s = .next (s.faultBank x)) ∧
    (s.corePresent (x.arg j).toNat = true → s.evFull (x.arg j).toNat = true → exec (.bsig j) s = .next s) ∧
    (s.corePresent (x.arg j).toNat = true → s.evFull (x.arg j).toNat = false →
      ∃ t y, exec (.bsig j) s = .next t ∧ BankGoes s t x y ∧ t.mem = s.mem ∧ y.w = x.w ∧
        ∃ e, mGet [] t.events (x.arg j).toNat = mGet [] s.events (x.arg j).toNat ++ [e] ∧
          e.data = evData x.base (x.arg j).toNat 0x04 x.ctx) ∧
    (∀ w, x.wale = some w.id → s.wale? w.id = some w → s.canonical = true → ∃ t v, exec .bend s = .next t ∧ t.bank? x.id = none ∧
      t.wale? w.id = some v ∧ (∀ k, x.flag = some k → v.flag k = w.flag k - 1) ∧ v.v = w.v ∧ v.pc = w.pc ∧ t.mem = s.mem)

/-- BANK CALLS AND BANK PROGRAMS (R209 to R213). -/
def Obligations.BankPrograms : Prop := BankCalls ∧ BankLaneOperations ∧ BankRows ∧ BankControl

/-! ### Translation faults of engines, the fault ring and errors -/

/-- A translation fault of an engine writes a record of kind 0x01 with its context, core id and address to the ring, and stalls
only the queue or program that made the access (R259, R339, R340). -/
def Sys2Proof.Claims.EngineFaultsStall : Prop :=
  ∀ (a : EngAcc) (s : State) (m : Miss), s.engMiss a = some m → s.faultTail - s.faultHead < 256 → s.faultHeld = [] →
    ∃ t r, exec (.engineTranslationFault a) s = .next t ∧ t.faultRing = s.faultRing ++ [r] ∧ t.faultTail = s.faultTail + 1 ∧
      (∀ h, m.handle = some h → field r.data 491 481 = 2 ^ 10 + h % 2 ^ 10) ∧
      r.acc = some a ∧ r.answered = false ∧ field r.data 511 504 = 1 ∧ field r.data 503 497 = m.ctx % 128 ∧
      field r.data 480 472 = m.core % 512 ∧ field r.data 255 204 = m.va % 2 ^ 52 ∧ t.ctxStopped = s.ctxStopped ∧ t.clk = s.clk ∧
      (∀ id, a = .bank id → ∃ b, t.bank? id = some b ∧ b.st = .stalled) ∧ (∀ b ∈ s.banks, a ≠ .bank b.id → b ∈ t.banks)

/-- The answer to a stalled bank program's fault (R213, R339): a retry lets the program go on, and a refusal ends it, its fault then
pending on its wale. -/
def Sys2Proof.Claims.FaultAnswers : Prop :=
  ∀ (v : W64) (s : State) (r : FaultRec) (b : BankCall),
    let n := (field v 7 0 + 256 - s.faultHead % 256) % 256
    s.faultRing[n]? = some r → r.acc = some (.bank b.id) → r.answered = false → s.absentHit = false → s.bank? b.id = some b →
    b.st = .stalled →
    (v.getLsbD 8 = false → ∃ t c, exec (.faultRetry v) s = .next t ∧ t.bank? b.id = some c ∧ c.st = .running ∧ c.pc = b.pc ∧
      t.faultRing[n]? = some { r with answered := true } ∧ t.mem = s.mem ∧ t.wales = s.wales) ∧
    (v.getLsbD 8 = true → ∀ w, b.wale = some w.id → s.wale? w.id = some w → ∃ t u, exec (.faultRefuse v) s = .next t ∧
      t.bank? b.id = none ∧ t.wale? w.id = some u ∧ u.pend = w.pend ++ [⟨.engineFault, 3, b.insn, b.flag⟩] ∧
      t.faultRing[n]? = some { r with answered := true } ∧ t.mem = s.mem)

/-- FAULTHEAD consumes the records passed, and one that would pass FAULTTAIL changes nothing; a write of FAULTQ places the ring, starts
both counters at 0 and drops the old records (that a FAULTHEAD past FAULTTAIL does nothing, and what a write of FAULTQ drops, are the
model's reading, log 81); a record held while the ring was full is written at its slot once there is space, with the clk of the writing as its
TIME, and vector 256 is raised (R340, R358). -/
def Sys2Proof.Claims.FaultRing : Prop :=
  ∀ (v : W64) (s : State),
    (let k := (field v 31 0 + 2 ^ 32 - s.faultHead % 2 ^ 32) % 2 ^ 32
     (s.faultTail < s.faultHead + k → exec (.faultHead v) s = .next s) ∧
     (s.faultHead + k ≤ s.faultTail → (∀ n < k, ∀ r, s.faultRing[n]? = some r → r.acc = none ∨ r.answered = true) →
       s.absentHit = false → ∃ t, exec (.faultHead v) s = .next t ∧ t.faultHead = s.faultHead + k ∧
         t.faultHead % 2 ^ 32 = field v 31 0 ∧ t.faultTail = s.faultTail ∧ t.faultRing = s.faultRing.drop k ∧ t.mem = s.mem ∧
         t.wales = s.wales)) ∧
    (s.canonical = true → ∃ t, exec (.faultQ v) s = .next t ∧ t.reg 0x3100 = v ∧ t.faultHead = 0 ∧ t.faultTail = 0 ∧
      t.faultRing = [] ∧ t.mem = s.mem ∧ t.wales = s.wales) ∧
    (∀ r rest, s.faultHeld = r :: rest → (256 ≤ s.faultTail - s.faultHead → exec .faultRecordWrite s = .next s) ∧
      (s.faultTail - s.faultHead < 256 → ∃ t q, exec .faultRecordWrite s = .next t ∧ t.faultRing = s.faultRing ++ [q] ∧
        q.acc = r.acc ∧ q.answered = r.answered ∧ field q.data 191 128 = s.clk % 2 ^ 64 ∧
        field q.data 127 0 = field r.data 127 0 ∧ field q.data 511 192 = field r.data 511 192 ∧ t.faultTail = s.faultTail + 1 ∧ t.faultHeld = rest ∧ t.msix.contains 256 = true ∧ t.wales = s.wales ∧
        (let a := (s.reg 0x3100).toNat + 64 * (s.faultTail % 256)
         a + 64 ≤ Config.hbmBytes → t.natAt a 64 = q.data.toNat)))

/-- What an engine's translation fault does, its answers, and the fault ring. -/
def Obligations.FaultsOfEngines : Prop := EngineFaultsStall ∧ FaultAnswers ∧ FaultRing

/-- A parity error of the fast file stages its register again in 3 clk and is counted; an uncorrectable error is counted on the die of
its structure and stops its context with one record of kind 0x10, whose BODY holds the coordinates of the access or, in the register
file and tile memory, the register, thread and row, and the word of HBM or the common store stays bad; but a cluster-cache line with
nothing to write back, which counts as corrected (the model's reading, log 127), or a line of the common store's cache part that can
be, is fetched again and counted as corrected; an error that a scrub finds stops nothing, its word stays bad, and a running checkpoint
leaves its granule out; a load that meets a bad word stops its context and writes nothing (R355 to R359). -/
def Sys2Proof.Claims.SoftErrors : Prop :=
  ∀ (s : State),
    (∀ w r, s.canonical = true → s.wale? w.id = some w → w.kind = .wale → w.life = .resident → w.staging = .done → w.inSet r = true → ∃ t v,
      exec (.fastFileParityError w.id r) s = .next t ∧ t.wale? w.id = some v ∧ v.staging = .until (s.clk + 3) ∧ SameRegs w v ∧
        v.pc = w.pc ∧ v.exm = w.exm ∧ t.mem = s.mem ∧ t.ctxStopped = s.ctxStopped ∧
        (s.reg (mgmt (dieOf w.core) 48) ≠ 0xFFFFFFFFFFFFFFFF →
          t.reg (mgmt (dieOf w.core) 48) = s.reg (mgmt (dieOf w.core) 48) + 1)) ∧
    (∀ ctx strct core slot va at', s.canonical = true → s.refetches ctx strct core va = true → (strct = 6 ∨ strct = 7) ∧
      let n := mgmt (s.errDie ctx strct core va) (16 * strct)
      ∃ t, exec (.uncorrectableError ctx strct core slot ⟨va, at'⟩) s = .next t ∧ t.ctxStopped = s.ctxStopped ∧ t.faultRing = s.faultRing ∧
        t.wales = s.wales ∧ t.mem = s.mem ∧ t.reqs = s.reqs ∧ t.badWords = s.badWords ∧
        (s.reg n ≠ 0xFFFFFFFFFFFFFFFF → t.reg n = s.reg n + 1) ∧
        ∀ l, strct = 7 → s.xlate ctx none .r va = .ok l → ∀ c ∈ t.clean, c.cluster = clusterOf core → c.line ≠ l / 128) ∧
    (∀ ctx strct core slot va at', s.refetches ctx strct core va = false → s.ctxStopped.contains ctx = false →
      (∀ w ∈ s.wales, w.ctx = ctx → w.core = core → w.slot = slot → w.life ≠ .stopping) →
      s.faultTail - s.faultHead < 256 → s.faultHeld = [] →
      ∃ t r, exec (.uncorrectableError ctx strct core slot ⟨va, at'⟩) s = .next t ∧ t.ctxStopped = ctx :: s.ctxStopped ∧
        t.faultRing = s.faultRing ++ [r] ∧ field r.data 511 504 = 0x10 ∧ field r.data 503 497 = ctx % 128 ∧
        field r.data 496 492 = strct % 32 ∧ field r.data 480 472 = core % 512 ∧ field r.data 471 465 = slot % 128 ∧
        field r.data 255 204 = va % 2 ^ 52 ∧ field r.data 191 128 = s.clk % 2 ^ 64 ∧
        (∀ j < 6, (strct = 2 ∨ strct = 5) → field r.data (287 + 32 * j) (256 + 32 * j) = at'.getD j 0 % 2 ^ 32) ∧
        (∀ cs h, s.accessAt ctx core slot va = some (cs, h) → field r.data 491 481 = 2 ^ 10 + h % 2 ^ 10 ∧
          ∀ j < 6, strct ≠ 2 → strct ≠ 5 → field r.data (287 + 32 * j) (256 + 32 * j) = (coordWords cs).getD j 0 % 2 ^ 32) ∧
        (∀ l, (strct = 1 ∨ strct = 6) → s.xlate ctx none .r va = .ok l → locDevice l = true → eccWord l ∈ t.badWords) ∧
        (∀ q ∈ t.reqs, q.ctx ≠ ctx) ∧ (∀ q ∈ s.reqs, q.ctx ≠ ctx → q ∈ t.reqs) ∧ (∀ b ∈ t.banks, b.ctx ≠ ctx)) ∧
    (∀ strct pa, s.faultTail - s.faultHead < 256 → s.faultHeld = [] → ∃ t r, exec (.scrubError strct pa) s = .next t ∧
      t.ctxStopped = s.ctxStopped ∧ t.wales = s.wales ∧ t.reqs = s.reqs ∧ t.banks = s.banks ∧ t.faultRing = s.faultRing ++ [r] ∧
      field r.data 511 504 = 0x15 ∧ (strct = 1 → eccWord (locHbm pa) ∈ t.badWords) ∧ (strct = 6 → eccWord (locCommon pa) ∈ t.badWords) ∧
      ∀ c g, s.ckpt = some c → scrubGranule strct pa = some g → t.ckpt = some { c with bad := g :: c.bad }) ∧
    (∀ w q e m b, Alone s w q e → q.kind = .load → m.getLsbD e.t = true → s.badWord e.loc e.size false = some b →
      s.ctxStopped.contains q.ctx = false → ∃ t, exec (.queuedLoadComplete q.id m .home) s = .next t ∧
        t.ctxStopped = q.ctx :: s.ctxStopped ∧ t.reqs = [] ∧ ∀ v, t.wale? q.wale = some v → v.v = w.v)

/-- TLBINV removes the cached entries of its context and range and clears INVDONE, which reads 1 again once no access still uses one of
them (R329, R338). -/
def Sys2Proof.Claims.Invalidation : Prop :=
  ∀ (v : W64) (s : State),
    (∃ t, exec (.tlbinv v) s = .next t ∧ t.regRead 0x3008 = 0 ∧ t.mem = s.mem ∧ t.wales = s.wales ∧
      (∀ e ∈ t.tlbs, e ∈ s.tlbs ∧ (e.ctx ≠ field v 63 57 ∨ rangesMeet e.page e.size (2 * field v 56 6) (2 ^ field v 5 0) = false)) ∧
      (∀ e ∈ s.tlbs, e.ctx ≠ field v 63 57 → e ∈ t.tlbs)) ∧
    (∀ l, s.inval = some l → (l.any s.stillUsing = true → exec .invalidationDone s = .next s) ∧
      (l.any s.stillUsing = false → ∃ t, exec .invalidationDone s = .next t ∧ t.regRead 0x3008 = 1 ∧ t.tlbs = s.tlbs ∧ t.mem = s.mem))

/-- A flit with a good CRC, which leaves out its own field (the model's reading, log 126), a legal beat count and the expected SEQ is accepted; any other is discarded, and a NAK that names the
expected SEQ is sent; a NAK received counts a corrected error and a replay; after 32 replays without progress the link is down, and every context with an access over it stops (R332, R333). -/
def Sys2Proof.Claims.RetryLinks : Prop :=
  ∀ (port : Nat) (s : State), s.canonical = true → (s.link port).down = false →
    (∀ (h : BitVec 512) (l : List (BitVec 512)), field h 57 55 ≤ 4 → l.length = field h 57 55 → field h 127 96 = flitCrc h l →
      field h 54 43 = (s.link port).expect →
      ∃ t, exec (.flitReceive port h l true) s = .next t ∧ (t.link port).expect = ((s.link port).expect + 1) % 4096 ∧
        (t.link port).acked % 4096 = (field h 42 31 + 1) % 4096 ∧ (t.link port).nak = none ∧ (∀ p, p ≠ port → t.link p = s.link p) ∧
        t.mem = s.mem) ∧
    (∀ (h : BitVec 512) (l : List (BitVec 512)) (ok : Bool), (ok = false ∨ 4 < field h 57 55 ∨ l.length ≠ field h 57 55 ∨
      field h 127 96 ≠ flitCrc h l ∨ field h 54 43 ≠ (s.link port).expect) → ∃ t, exec (.flitReceive port h l ok) s = .next t ∧
        t.link port = { s.link port with nak := some (s.link port).expect } ∧ (∀ p, p ≠ port → t.link p = s.link p) ∧ t.mem = s.mem) ∧
    (∀ n, ∃ t, exec (.nakReceive port n) s = .next t ∧
      (t.link port).replays = (if n % 4096 = (s.link port).acked then (s.link port).replays else 0) + 1 ∧
      (t.link port).down = false ∧ (t.link port).expect = (s.link port).expect ∧ t.mem = s.mem) ∧
    ((s.link port).replays < 32 → exec (.linkDown port) s = .next s) ∧
    (32 ≤ (s.link port).replays → ∃ t, exec (.linkDown port) s = .next t ∧ (t.link port).down = true ∧
      (∀ x ∈ s.overPort port, t.ctxStopped.contains x.ctx = true) ∧ (∀ c ∈ s.ctxStopped, t.ctxStopped.contains c = true))

/-- Invalidation and the retry links. -/
def Sys2Proof.Claims.InvalidationAndLinks : Prop := Invalidation ∧ RetryLinks

/-- SOFT ERRORS, INVALIDATION AND THE RETRY LINKS (R329, R332, R333, R338, R355 to R358). -/
def Obligations.ErrorsAndLinks : Prop := SoftErrors ∧ InvalidationAndLinks

/-! ### Wales and launches from start to end -/

/-- A wale whose threads have ended, with its flags clear and its accesses, engine work and streams done, ends: it is gone, its time is
charged, and with the last wale of a launch's or task's workgroup a record of kind 0x02 goes to the core, whose retirement list takes the
workgroup; a spawned workgroup leaves nothing (R147, R286, R290, R382). -/
def Sys2Proof.Claims.WaleEnds : Prop :=
  ∀ (s : State) (w : Wale), s.wale? w.id = some w → s.canEnd w = true →
    ∃ t, exec (.waleEnd w.id) s = .next t ∧ t.wale? w.id = none ∧
      (∀ i x, s.wale? i = some x → x.kind = .wale → i ≠ w.id → t.wale? i = some x) ∧
      ∀ g, s.wg? w.wg = some g →
        ((∃ x ∈ s.wales, x.kind = .wale ∧ x.wg = g.id ∧ x.id ≠ w.id) → ∃ k, t.wg? g.id = some k ∧
          k.charge = g.charge + (s.clk - w.born) ∧ k.wcount = g.wcount ∧ t.events = s.events ∧ t.retired = s.retired) ∧
        ((∀ x ∈ s.wales, x.kind = .wale → x.wg = g.id → x.id = w.id) →
          (g.origin = .spawned → t.wg? g.id = none ∧ t.retired = s.retired ∧ t.events = s.events) ∧
          (g.origin ≠ .spawned → mGet [] t.retired g.core = mGet [] s.retired g.core ++ [g.id] ∧
            ((mGet [] s.events g.core).length < 64 → s.evHeld = [] → ∃ e,
              mGet [] t.events g.core = mGet [] s.events g.core ++ [e] ∧
              e.data = evData g.origin.record g.group 0x02 g.ctx)))

/-- A weaver retires the first workgroup of its list, once the record's home has applied what it carries (R246): DONE rises by 1 and the
queue's DEFICIT falls by the workgroup's clk over 64, rounded up; the add that completes DONE writes STATE Retired and posts kind 0x01 to
CCORE. A task's end decrements its PARENT's counter, and at 0 the record joins its queue (R286, R289, R290). The weaver has acquired what
its event queue told it; no other wale changes (R244). -/
def Sys2Proof.Claims.Retirement : Prop :=
  ∀ (core n : Nat) (rest ev : List Nat) (s s1 : State), s.canonical = true → mGet [] s.retired core = n :: rest →
    s.weaverUp core = true → s.contHeld = [] → s.popReport core n = some (s1, ev) →
    (∀ i x, s.wale? i = some x → x.kind ≠ .weaver → s1.wale? i = some x) ∧
    (∀ g q seq a l loc, s.wg? n = some g → g.origin = .launch q seq a → s.launch? q seq = some l → s.launchLoc l = some loc →
      s.descAt q + 64 ≤ Config.hbmBytes → (loc + 256 ≤ s.descAt q ∨ s.descAt q + 64 ≤ loc) →
      s.weaverReady core loc (stampJoin g.stamp ev) = true →
      let r := s.recAt loc
      (rDone r + 1 ≠ l.total → ∃ t, exec (.workgroupRetire core) s = .next t ∧ t.natAt (loc + 60) 4 = (rDone r + 1) % 2 ^ 32 ∧
        (t.natAt (s.descAt q + 16) 4 : Int) = (dDeficit (s.desc q) - ((g.charge + 63) / 64 : Nat)) % 2 ^ 32 ∧
        t.wg? n = none ∧ mGet [] t.retired core = rest ∧ t.launch? q seq = some l ∧ t.wales = s1.wales) ∧
      (rDone r + 1 = l.total → field r 563 512 = 0 → ∃ t, exec (.workgroupRetire core) s = .next t ∧ t.natAt loc 4 / 2 ^ 28 = 5 ∧
        t.natAt (loc + 60) 4 = (rDone r + 1) % 2 ^ 32 ∧ t.launch? q seq = none ∧ t.wg? n = none ∧ mGet [] t.retired core = rest ∧ t.wales = s1.wales ∧
        ((mGet [] s.events (rCcore r)).length < 64 → s.evHeld = [] →
          ∃ e ∈ mGet [] t.events (rCcore r), e.data = evData l.recVa l.seq 0x01 (rCtx r)))) ∧
    (∀ ctx p l, s.taskParent n = some (ctx, p) → p ≠ 0 → s.recLoc ctx p .w = some l →
      s.weaverReady core l (match s.wg? n with | some g => stampJoin g.stamp ev | none => ev) = true → ∃ t,
      exec (.joinDecrement core) s = .next t ∧ t.natAt (l + 16) 4 = (s.natAt (l + 16) 4 + (2 ^ 32 - 1)) % 2 ^ 32 ∧
      mGet [] t.retired core = rest ∧ t.wg? n = none ∧ t.wales = s1.wales ∧ (∀ a, a < l + 16 ∨ l + 20 ≤ a → t.byteAt a = s.byteAt a) ∧
      (s.natAt (l + 16) 4 = 1 → field (s.contAt l) 191 190 = 0 →
        field (s.contAt l) 189 181 ≠ 0x1FF → mGet [] t.coreTasks (field (s.contAt l) 189 181) =
          mGet [] s.coreTasks (field (s.contAt l) 189 181) ++ [taskEntry ctx p]))

/-- The end of wales, workgroups, launches and tasks. -/
def Obligations.EndsAndRetirement : Prop := WaleEnds ∧ Retirement

/-- A record lies clear of a queue's descriptor. -/
def Sys2Proof.Claims.Clear (s : State) (q l : Nat) : Prop :=
  s.descAt q + 64 ≤ Config.hbmBytes ∧ (l + 256 ≤ s.descAt q ∨ s.descAt q + 64 ≤ l)

/-- SUBMISSION (R281): 256 aligned bytes become the record at TAIL, and TAIL rises by 1; the partition's lowest core is told. Any other
write, of another size, off a boundary of 256 bytes, to a full ring or to a ring whose slot no page maps, changes nothing but DROP, which counts
it; so does every write in minimal mode (R375). That a write to an invalid queue outside minimal mode does nothing, and that one in minimal mode
counts in the descriptor of its queue whether or not VALID is set, is the model's reading (log 60). A package that is off takes no write. -/
def Sys2Proof.Claims.Submission : Prop :=
  ∀ (q k n : Nat) (data : BitVec 2048) (s : State), s.canonical = true → q < 256 →
    let d := s.desc q
    let full := dSize d ≤ (dTail d + 2 ^ 32 - dLow d) % 2 ^ 32
    (s.boot = .off → ∀ off, exec (.submissionWrite off n data) s = .next s) ∧
    (∀ l, k < 16 → dValid d = true → ¬ full → s.boot ≠ .minimal → s.boot ≠ .off → s.recLoc (dCtx d) (dSlot d (dTail d)) .w = some l → Clear s q l →
      ∃ t, exec (.submissionWrite (4096 * q + 256 * k) 256 data) s = .next t ∧ t.natAt l 256 = data.toNat ∧
        t.natAt (s.descAt q + 24) 4 = (dTail d + 1) % 2 ^ 32 ∧ t.wales = s.wales ∧
        (∀ a, (a < l ∨ l + 256 ≤ a) → (a < s.descAt q + 24 ∨ s.descAt q + 28 ≤ a) → t.byteAt a = s.byteAt a) ∧
        ∀ c, (s.partCores (dPart d)).head? = some c → (mGet [] s.events c).length < 64 → s.evHeld = [] → ∃ e,
          mGet [] t.events c = mGet [] s.events c ++ [e] ∧ e.data = evData (dSlot d (dTail d)) (dTail d) 0x07 (dCtx d)) ∧
    (k < 4096 → s.boot ≠ .off →
      ((s.boot = .minimal ∧ s.descAt q + 64 ≤ Config.hbmBytes) ∨
        (dValid d = true ∧ (n ≠ 256 ∨ k % 256 ≠ 0 ∨ full ∨ s.recLoc (dCtx d) (dSlot d (dTail d)) .w = none))) →
      ∃ t, exec (.submissionWrite (4096 * q + k) n data) s = .next t ∧
        t.natAt (s.descAt q + 36) 4 = (field d 319 288 + 1) % 2 ^ 32 ∧ t.wales = s.wales ∧ t.events = s.events ∧
        ∀ a, a < s.descAt q + 36 ∨ s.descAt q + 40 ≤ a → t.byteAt a = s.byteAt a) ∧
    (dValid d = false → s.boot ≠ .minimal → k < 4096 → exec (.submissionWrite (4096 * q + k) n data) s = .next s)

/-- A weaver with a free slot is given queue `q` by arbitration, with the state `s1` that the round leaves (R284, R290): no record to be
resumed comes first (R293), and the homes of the descriptor and of the record answer what the weaver carries (R246). -/
def Sys2Proof.Claims.Served (s : State) (core q : Nat) (s1 : State) : Prop :=
  s.weaverUp core = true ∧ s.freeSlots core ≠ [] ∧ s.ctxStopped.contains (dCtx (s.desc q)) = false ∧ (s.queueOf q).resumeList = [] ∧
    (∀ l ∈ s.queueLocs q, s.weaverReady core l (s.weaverStamp core) = true) ∧ s.contHeld = [] ∧ s.arbitrate core = (some q, s1) ∧
    Memory.wf s1.mem = true

/-- The record at HEAD is refused with STATE Refused, its SEQ and one of its reasons, HEAD passes it, and a record of kind 0x08 goes to
CCORE; or it starts with STATE Running, its SEQ, TICKET at NEXT, its layout list loaded (`s2`), and the launch is under way with its grid and
total as fixed at the start (R277, R280, R283, R284, R292). No record at HEAD starts while one of the resume list comes first (R293). -/
def Sys2Proof.Claims.RefusalAndStart : Prop :=
  (∀ (core q : Nat) (s : State), (s.queueOf q).resumeList ≠ [] → exec (.launchStart core q) s = .next s ∧
    exec (.launchRefuse core q) s = .next s) ∧
  ∀ (core q l : Nat) (r : BitVec 2048) (s s1 : State), Served s core q s1 → s1.headRec (s1.desc q) = some (l, r) → Clear s1 q l →
    let d := s1.desc q
    (s1.reasons core q d r ≠ [] → ∃ t, exec (.launchRefuse core q) s = .next t ∧ t.natAt l 4 / 2 ^ 28 = 6 ∧ t.natAt (l + 8) 4 = dHead d ∧
      (∃ a ∈ s1.reasons core q d r, t.natAt (l + 96) 4 = a) ∧ t.natAt (s1.descAt q + 20) 4 = (dHead d + 1) % 2 ^ 32 ∧
      t.wales = s.wales ∧ t.wgs = s.wgs ∧ t.launches = s.launches ∧
      (rCcore r ≤ 287 → (mGet [] s.events (rCcore r)).length < 64 → s.evHeld = [] → ∃ e,
        mGet [] t.events (rCcore r) = mGet [] s.events (rCcore r) ++ [e] ∧
        e.data = evData (dSlot d (dHead d)) (dHead d) 0x08 (dCtx d))) ∧
    (∀ gs s2, rState r = 0 → startable d r = true → s1.reasons core q d r = [] → s1.ckpt = none → s1.gridsAtStart r = some gs →
      let g := gs.take (field r 40 39 + 1)
      s1.loaded core r = some s2 → launchTotal (rSym r) g ≠ 0 → ∃ t x, exec (.launchStart core q) s = .next t ∧
        t.natAt l 4 / 2 ^ 28 = 1 ∧ t.natAt (l + 8) 4 = dHead d ∧ t.natAt (l + 52) 4 = rNext r ∧ t.launches = s.launches ++ [x] ∧
        x.queue = q ∧ x.seq = dHead d ∧ x.grid = g ∧ x.grids = gs ∧ x.sym = rSym r ∧ x.total = launchTotal (rSym r) g ∧ x.started = s1.rewrites ∧
        x.coop = r.getLsbD 16 ∧ t.layouts = s2.layouts ∧ t.wales = s.wales ∧ (∀ a, a < l ∨ l + 56 ≤ a → t.byteAt a = s2.byteAt a))

/-- A weaver builds the next rank that it was granted: a workgroup with the record's needs, and its wales at ENTRY with their threads
live, their arguments in s0 to s7 and the core's lowest free slots (R13, R278, R279, R283). -/
def Sys2Proof.Claims.WorkgroupsAreBuilt : Prop :=
  ∀ (core loc : Nat) (c : Claim) (l : LaunchSt) (s : State), s.canonical = true → s.weaverUp core = true → mFind s.claims core = some c →
    s.launch? c.queue c.seq = some l → s.launchLoc l = some loc →
    let r := s.recAt loc
    (rState r = 1 ∨ rState r = 2) → s.ctxValid (rCtx r) = true → s.fits (launchFamily c.queue c.seq) core (rNeed r) = true →
    ∃ t, exec (.workgroupCreate core) s = .next t ∧
      mFind t.claims core = (if c.next + 1 < c.last then some { c with next := c.next + 1 } else none) ∧
      (∃ g ∈ t.wgs, g.id = s.nextId ∧ g.core = core ∧ g.ctx = rCtx r ∧ g.wcount = rWales r ∧ g.budget = rBudget r ∧ g.tiles = field r 3 0 ∧
        g.bars = field r 11 4 ∧ (l.sym = 0 → g.group = c.next) ∧ g.sym = l.sym ∧ g.grid = l.grid ∧
        (field r 63 56 = 0 ↔ g.window = none)) ∧
      ∀ i < rWales r, ∃ v ∈ t.wales, v.kind = .wale ∧ v.wg = s.nextId ∧ v.windex = i ∧ v.core = core ∧ (s.freeSlots core)[i]? = some v.slot ∧
        v.ctx = rCtx r ∧ v.budget = rBudget r ∧ v.pc = field r 179 128 ∧ v.exm = v.live ∧ v.masks = [] ∧ v.melds = [] ∧ v.trap = none ∧
        (∀ k < 32, v.live.getLsbD k = decide (k < if i + 1 = rWales r ∧ field r 21 17 ≠ 0 then field r 21 17 else 32)) ∧
        ∀ j < 8, mGet 0 v.s j = BitVec.ofNat 32 (field r (1823 + 32 * j) (1792 + 32 * j))

/-- A cooperative launch is placed whole or not at all: TICKET becomes its total, and each remaining rank has a workgroup (R283, R291). The dies
of its partition are awake first (R380). -/
def Sys2Proof.Claims.CooperativePlacement : Prop :=
  ∀ (core q loc : Nat) (l : LaunchSt) (s : State), s.weaverUp core = true → s.inPart (dPart (s.desc q)) core = true →
    (s.queueOf q).closed = false → dQuantum (s.desc q) ≠ 0 →
    ((∃ c ∈ s.partCores (dPart (s.desc q)), s.awake (dieOf c) = false) → ∃ t, exec (.coopLaunchPlace core q) s = .next t ∧ t.mem = s.mem ∧
      t.wales = s.wales ∧ t.wgs = s.wgs) ∧
    ((∀ c ∈ s.partCores (dPart (s.desc q)), s.awake (dieOf c) = true) → (s.queueOf q).resumeList = [] → s.launch? q (dHead (s.desc q)) = some l → s.launchLoc l = some loc →
    l.coop = true → Clear s q loc →
    let r := s.recAt loc
    rState r = 1 → rTicket r < l.total → l.total < 2 ^ 32 → s.ctxValid (rCtx r) = true → s.savedOf q (dHead (s.desc q)) = false →
    let x := s.placeAll l r (s.partCores (dPart (s.desc q))) (rTicket r) (l.total - rTicket r)
    (x = none → exec (.coopLaunchPlace core q) s = .next s) ∧
    (∀ s1, x = some s1 → ∃ t, exec (.coopLaunchPlace core q) s = .next t ∧ t.natAt (loc + 52) 4 = l.total ∧
      t.wgs.length = s.wgs.length + (l.total - rTicket r) ∧ t.wgs = s1.wgs ∧ t.wales = s1.wales))

/-- Submission, refusal, start, and the creation of workgroups. -/
def Obligations.LaunchesFromSubmissionToCreation : Prop :=
  Submission ∧ RefusalAndStart ∧ WorkgroupsAreBuilt ∧ CooperativePlacement

/-- A weaver takes the oldest record of its core's task queue and starts it as a workgroup of one wale with the frame's words in s0 to s7,
or declines one whose setup words break the limits with a record of kind 0x08, for which it waits while its event queue is full (R287); an
idle bank-tier unit starts its die's oldest as a program (R289). The weaver has acquired what released the record, and no other wale changes;
the record and the frame are read at homes that have applied it (R246). -/
def Obligations.TasksStart : Prop :=
  ∀ (s : State) (c e l : Nat) (rest : List Nat) (r : BitVec 512), s.canonical = true → s.entryRec e = some (l, r) →
    (s.weaverUp c = true → mGet [] s.coreTasks c = e :: rest →
      s.taskReady c l r (stampJoin (s.weaverStamp c) (s.stampAt (taskKey e) c)) = true →
      (bargBad (field r 319 288) = false → s.ctxValid (field r 166 160) = true → s.fits (taskFamily s.nextId) c (taskNeed r) = true →
        ∃ t v, exec (.taskPop (.core c)) s = .next t ∧ mGet [] t.coreTasks c = rest ∧ v ∈ t.wales ∧ v.kind = .wale ∧ v.core = c ∧
          v.wg = s.nextId ∧ v.windex = 0 ∧ v.pc = field r 51 0 ∧ v.ctx = field r 166 160 ∧ v.budget = 32 * 2 ^ field r 172 171 ∧
          v.live = 0xFFFFFFFF ∧ v.exm = 0xFFFFFFFF ∧
          (let y := s.layout (field r 166 160) (field r 73 64)
           ∀ a j k, frameVa y (field r 127 96) = some a → j < 8 →
             (∀ i < 4, s.frameLoc (field r 166 160) y (a + 4 * j + i) = some (k + i)) →
             mGet 0 v.s j = BitVec.ofNat 32 (s.natAt k 4)) ∧
          ∃ g ∈ t.wgs, g.id = s.nextId ∧ g.core = c ∧ g.group = field r 351 320 ∧ g.launch = field r 383 352) ∧
      (bargBad (field r 319 288) = true → s.evFull c = true → exec (.taskPop (.core c)) s = .next s) ∧
      (bargBad (field r 319 288) = true → s.evFull c = false → field r 243 192 = 0 → ∃ t, exec (.taskPop (.core c)) s = .next t ∧
        mGet [] t.coreTasks c = rest ∧ t.mem = s.mem ∧ (∀ i x, s.wale? i = some x → x.kind ≠ .weaver → t.wale? i = some x) ∧
        ∃ x, mGet [] t.events c = mGet [] s.events c ++ [x] ∧ x.data = evData (e % 2 ^ 52) 0xFFFFFFFF 0x08 (field r 166 160))) ∧
    (mGet [] s.bankTasks c = e :: rest → s.ctxValid (field r 166 160) = true →
      s.unitIdle ((s.taskRow r).bind fun b => s.bankUnit (field r 166 160) b (s.taskSpace r)) = true → s.sectorSplit = false →
      s.weaverReady (72 * c) l (s.stampAt (taskKey e) (72 * c)) = true →
      (let y := s.layout (field r 166 160) (field r 73 64)
       lValid y = true → lRank y = 1 → (lSpace y = 0 ∨ lSpace y = 1) → coordsOut y [(field r 127 96 : Int)] = false →
       ∃ t b, exec (.taskPop (.bankUnit c)) s = .next t ∧ mGet [] t.bankTasks c = rest ∧ t.banks = s.banks ++ [b] ∧ b.st = .running ∧
         b.wale = none ∧ b.pc = field r 51 0 ∧ b.base = (lAddr y [(field r 127 96 : Int)]).toNat / 32 * 32 ∧
         b.die = s.bankDie (field r 166 160) b.base (72 * c) ∧ b.unit = s.bankUnit (field r 166 160) b.base (s.taskSpace r) ∧ t.mem = s.mem ∧
         (∀ j < 4, b.arg j = BitVec.ofNat 32 (field r (287 + 32 * j) (256 + 32 * j)))))

/-! ### Pre-emption, saving and restoring -/

/-- The wales and streams of a workgroup stop at their instruction boundaries (R296). -/
def Sys2Proof.Claims.Stopping (s t : State) (g : Workgroup) : Prop :=
  ∀ i x, s.wale? i = some x → x.wg = g.id → x.kind ≠ .weaver → x.life = .resident → ∃ y, t.wale? i = some y ∧ y.life = .stopping ∧
    SameRegs x y ∧ y.pc = x.pc ∧ y.exm = x.exm

/-- The queues that a PREEMPT or RESUME word acts on: of SCOPE 1 the queue it names, of SCOPE 2 the valid queues of its context (R293). -/
def Sys2Proof.Claims.inScope (s : State) (v : W64) (q : Nat) : Bool :=
  (field v 63 62 == 1 && q == field v 7 0) ||
    (field v 63 62 == 2 && decide (q < 256) && dValid (s.desc q) && dCtx (s.desc q) == field v 6 0)

/-- PREEMPT closes the queue it names, or those of the context it names; a Running record drains, or is Preempted at once with NEXT at TICKET
when every claimed workgroup has retired, and a cooperative one is Suspended and hard-stopped whole; SCOPE 0 and 3 are ignored (R292, R293). -/
def Sys2Proof.Claims.Preempts : Prop :=
  ∀ (v : W64) (s : State), s.canonical = true →
    let running := s.launches.filter fun l => inScope s v l.queue && s.launchState l == 1
    ((field v 63 62 = 0 ∨ field v 63 62 = 3) → exec (.preempt v) s = .next s) ∧
    ((field v 63 62 = 1 ∨ field v 63 62 = 2) → ∃ t, exec (.preempt v) s = .next t ∧
      (∀ q, inScope s v q = true → (t.queueOf q).closed = true ∧ (t.queueOf q).resumeList = (s.queueOf q).resumeList) ∧
      (∀ q, inScope s v q = false → t.queueOf q = s.queueOf q) ∧
      (running = [] → t.predone = true ∧ t.mem = s.mem ∧ t.wales = s.wales) ∧
      ∀ l loc, running = [l] → s.launchLoc l = some loc →
        let r := s.recAt loc
        (l.coop = false → s.claimedOf l = true → t.natAt loc 4 / 2 ^ 28 = 2 ∧ t.predone = false ∧ t.wales = s.wales) ∧
        (l.coop = false → s.claimedOf l = false → t.natAt loc 4 / 2 ^ 28 = 3 ∧ t.natAt (loc + 56) 4 = rTicket r ∧ t.predone = true ∧
          t.wales = s.wales) ∧
        (l.coop = true → t.natAt loc 4 / 2 ^ 28 = 4 ∧ t.natAt (loc + 56) 4 = rTicket r ∧ t.predone = true ∧
          ∀ g ∈ s.wgs, g.family = launchFamily l.queue l.seq → g.saved = false → Stopping s t g))

/-- RESUME reopens the queue it names, or those of the context it names; a Preempted or Suspended record runs again with TICKET at NEXT, on its
queue's resume list while it still has workgroups to restore or ranks to claim; a launch that drains beyond its context's limit is Suspended
(R292 to R294). -/
def Sys2Proof.Claims.Resumes : Prop :=
  ∀ (v : W64) (s : State), s.canonical = true →
    ((field v 63 62 = 0 ∨ field v 63 62 = 3) → exec (.resume v) s = .next s) ∧
    ((field v 63 62 = 1 ∨ field v 63 62 = 2) → ∃ t, exec (.resume v) s = .next t ∧
      (∀ q, inScope s v q = true → (t.queueOf q).closed = false) ∧ (∀ q, inScope s v q = false → t.queueOf q = s.queueOf q) ∧
      t.wales = s.wales ∧
      ∀ l loc, (s.launches.filter fun x => inScope s v x.queue) = [l] → s.launchLoc l = some loc →
        (∀ q, inScope s v q = true → ∀ x, s.headRec (s.desc q) = some x → rState x.2 ≠ 5) →
        (rState (s.recAt loc) = 3 ∨ rState (s.recAt loc) = 4) →
        t.natAt loc 4 / 2 ^ 28 = 1 ∧ t.natAt (loc + 52) 4 = rNext (s.recAt loc) ∧
        ((s.savedOf l.queue l.seq = true ∨ (t.launchLoc l = some loc ∧ rNext (s.recAt loc) < l.total)) →
          l.seq ∈ (t.queueOf l.queue).resumeList)) ∧
    (∀ p, let x := s.ctxRec (dCtx (s.desc p))
      let us := if field x 15 0 = 0 then 200 else field x 15 0
      let late := s.launches.filter fun l => l.queue == p && s.launchState l == 2 && decide (l.drainAt + 600 * us ≤ s.clk)
      (late = [] → exec (.workgroupDrainLimit p) s = .next s) ∧
      (∀ l loc, late = [l] → s.launchLoc l = some loc → ∃ t, exec (.workgroupDrainLimit p) s = .next t ∧
        t.natAt loc 4 / 2 ^ 28 = 4 ∧ t.natAt (loc + 56) 4 = rTicket (s.recAt loc) ∧
        ∀ g ∈ s.wgs, g.family = launchFamily l.queue l.seq → g.saved = false → Stopping s t g))

/-- Pre-emption and resumption. -/
def Obligations.PreemptionAndResumption : Prop := Preempts ∧ Resumes

/-- A running copy of a stopping workgroup whose ends share no byte is squashed when the copy limit of its context expires, to be replayed
whole (R262, R294). -/
def Sys2Proof.Claims.CopiesSquash : Prop :=
  ∀ (s : State) (g : Workgroup) (c : Copy) (cq : Nat), s.wg? g.id = some g → g.runningCopy cq = some c →
    let us := if field (s.ctxRec g.ctx) 31 16 = 0 then 50 else field (s.ctxRec g.ctx) 31 16
    (s.clk < g.stopAt + 600 * us → exec (.copyDrainLimit g.id cq) s = .next s) ∧
    (g.stopAt + 600 * us ≤ s.clk → (∃ w ∈ s.wales, w.wg = g.id ∧ w.life = .stopping) → s.copyOverlaps g c = false →
      ∃ t k d, exec (.copyDrainLimit g.id cq) s = .next t ∧ t.wg? g.id = some k ∧ d ∈ k.copies ∧ d.id = c.id ∧ d.st = .ready ∧
        d.slices = c.slices ∧ d.moves = [] ∧ t.mem = s.mem ∧ t.wales = s.wales)

/-- A drained wale that stops is saved with its registers, stacks, flags and place, and holds its core no longer; with its last wale the
workgroup is saved, its window's bytes with it (R295, R296). -/
def Sys2Proof.Claims.Saves : Prop :=
  ∀ (s : State) (w : Wale), s.wale? w.id = some w → s.canSave w = true →
    ∃ t v, exec (.hardStopSave w.id) s = .next t ∧ t.wale? w.id = some v ∧ v.life = .saved ∧ v.pc = w.pc ∧ v.clause = w.clause ∧
      v.interval = w.interval ∧ v.exm = w.exm ∧ v.live = w.live ∧ v.masks = w.masks ∧ v.melds = w.melds ∧ v.flags = w.flags ∧
      v.trap = w.trap ∧ v.v = w.settleAll.v ∧ v.s = w.settleAll.s ∧ v.q = w.settleAll.q ∧ v.x = w.settleAll.x ∧
      v.tags = w.settleAll.tags ∧ v.seeds = w.seeds ∧ (∀ x ∈ t.onCore w.core, x.id ≠ w.id) ∧
      ∀ g, s.wg? w.wg = some g → (∀ x ∈ s.wales, x.wg = g.id → x.kind = .wale → x.id = w.id ∨ x.life = .saved) →
        ∃ k, t.wg? g.id = some k ∧ k.saved = true ∧ k.window = g.window ∧ k.core = g.core ∧ k.footprint = t.windowBytes k ∧
          (g.window = none → k.footprint = []) ∧ (∀ win, g.window = some win → k.footprint = t.bytesAt (locSpad g.core win.off) win.size) ∧
          (s.dirty = [] → t.mem = s.mem)

/-- A saved workgroup is restored whole on a core that can hold it, its window's bytes in a window there and its intervals staged again; its
wales are resident once their die's applied clock has reached their stamps, with the header of an open clause read again (R18, R258, R295, R296). -/
def Sys2Proof.Claims.Restores : Prop :=
  ∀ (s : State),
    (∀ g core, s.wg? g.id = some g → g.saved = true → g.coop = false → s.sharers g = [g] → s.mayRestore g core = true →
      s.fits g.family core (s.setNeed [g]) = true → ∃ t k, exec (.waleRestore core g.id) s = .next t ∧ t.wg? g.id = some k ∧
        k.core = core ∧ k.saved = false ∧ k.moveTo = none ∧ k.barriers = g.barriers ∧ k.tile = g.tile ∧ k.footprint = [] ∧
        (g.window = none → k.window = none) ∧
        (∀ old, g.window = some old → old.size ≠ 0 → Memory.wf s.mem = true → ∃ win, s.placeWindow g.family core old.size = some win ∧
          k.window = some win ∧ (win.off + g.footprint.length ≤ 238 * 4096 → ∀ j < g.footprint.length,
            t.byteAt (locSpad core win.off + j) = g.footprint.getD j 0)) ∧
        ∀ i x, s.wale? i = some x → x.wg = g.id → x.kind = .wale → ∃ y, t.wale? i = some y ∧ y.core = core ∧
          y.slot ∈ s.freeSlots core ∧ y.life = .restoring ∧ (x.interval.isSome = true → y.staging = .waiting) ∧ y.pc = x.pc ∧ y.v = x.v ∧
          y.s = x.s ∧ y.exm = x.exm ∧ y.live = x.live ∧ y.masks = x.masks ∧ y.clause = x.clause) ∧
    (∀ w, s.wale? w.id = some w → w.kind = .wale → w.life = .restoring →
      (stampLe w.stamp (s.applied (dieOf w.core)) = false → exec (.waleRestoreReady w.id) s = .next s) ∧
      (stampLe w.stamp (s.applied (dieOf w.core)) = true → s.absentHit = false →
        (∀ x ∈ s.wales, x.restoredBy w.id = true → x = w) →
        let t0 := match s.wg? w.wg with | some g => g.stopAt | none => s.clk
        let goes (P : Wale → Prop) : Prop := ∃ t v, exec (.waleRestoreReady w.id) s = .next t ∧ t.wale? w.id = some v ∧
          v.life = .resident ∧ v.born = s.clk ∧ v.pc = w.pc ∧ SameRegs w v ∧ SameControl w v ∧ t.mem = s.mem ∧ P v
        (w.clause = none → goes fun v => v.clause = none) ∧
        (∀ p x h, w.clause = some p → (s.revived w.id t0).codeWord (w.revive t0 s.clk) p.addr 3 = .ok x →
          decodeWord x none = .ok (.clauseHeader h) → goes fun v => v.clause = if h.len < p.slot then none else some { p with hdr := h })))

/-- A migration hard-stops a workgroup and sends it to the core named; a forwarding entry lapses 4,096 clk after the move (R297). -/
def Sys2Proof.Claims.Migrates : Prop :=
  ∀ (s : State) (g : Workgroup) (core : Nat), s.wg? g.id = some g →
    (g.coop = false → core ≠ g.core → s.holds g = true → g.saved = false →
      (∀ x ∈ s.wales, x.wg ∈ (s.sharers g).map Workgroup.id → x.kind = .wale → x.life = .resident) →
      s.mayRestore { g with moveTo := none } core = true → s.fits g.family core (s.setNeed (s.sharers g)) = true →
      ∃ t k, exec (.workgroupMigrate g.id core) s = .next t ∧ t.wg? g.id = some k ∧ k.moveTo = some core ∧ k.core = g.core ∧
        Stopping s t g ∧ t.mem = s.mem) ∧
    (∀ i f, s.forwards[i]? = some f → (s.clk < f.expires → exec (.forwardingExpire i) s = .next s) ∧
      (f.expires ≤ s.clk → ∃ t, exec (.forwardingExpire i) s = .next t ∧ t.forwards = s.forwards.eraseIdx i ∧ t.wales = s.wales))

/-- Hard stops: what they save and restore. -/
def Obligations.SavingAndRestoring : Prop := CopiesSquash ∧ Saves ∧ Restores ∧ Migrates

/-! ### Partitions, contexts, the debugger, and accesses from outside -/

/-- PART is ignored while a migration runs, refused with PARTST 2 when a core that is present would be in two partitions, and otherwise takes the mask,
the work of cores that leave being hard-stopped; PARTST reads 0 once nothing is left to move (R298). -/
def Sys2Proof.Claims.PartitionWrites : Prop :=
  ∀ (p w : Nat) (v : W64) (s : State), s.canonical = true → p < 16 → w < 5 →
    let off := 0x3800 + 64 * p + 8 * w
    let x := if w = 4 then v &&& 0xFFFFFFFF else v
    (s.reg 0x3C00 = 1 → exec (.partWrite p w v) s = .next s) ∧
    (s.reg 0x3C00 ≠ 1 → (∃ k < 16, k ≠ p ∧ s.reg (0x3800 + 64 * k + 8 * w) &&& x &&& ~~~(s.absentWord w) ≠ 0) → ∃ t, exec (.partWrite p w v) s = .next t ∧
      t.reg 0x3C00 = 2 ∧ t.reg off = s.reg off ∧ t.wales = s.wales ∧ t.mem = s.mem) ∧
    (s.reg 0x3C00 ≠ 1 → (∀ k < 16, k ≠ p → s.reg (0x3800 + 64 * k + 8 * w) &&& x &&& ~~~(s.absentWord w) = 0) → ∃ t, exec (.partWrite p w v) s = .next t ∧
      t.reg off = x ∧ (s.wgs = [] → t.reg 0x3C00 = 0 ∧ t.mem = s.mem) ∧
      ∀ g ∈ s.wgs, g.saved = false → g.core / 64 = w → (s.reg off).getLsbD (g.core % 64) = true → x.getLsbD (g.core % 64) = false →
        Stopping s t g)

/-- CSSPLIT takes a split of at most 12 on a die that is not busy, and only the bytes that it takes from the explicit part change (R231). -/
def Sys2Proof.Claims.SplitWrites : Prop :=
  ∀ (d : Nat) (v : W64) (s : State), s.canonical = true → d < 4 →
    ((12 < field v 3 0 ∨ s.dieBusy d = true) → exec (.cssplit d v) s = .next s) ∧
    (field v 3 0 ≤ 12 → s.dieBusy d = false → ∃ t, exec (.cssplit d v) s = .next t ∧ t.expl d = field v 3 0 ∧
      (s.dirty = [] → ∀ l, l < locCommon (d * 2 ^ 27 + field v 3 0 * 2 ^ 23) ∨ locCommon (d * 2 ^ 27 + s.expl d * 2 ^ 23) ≤ l →
        t.byteAt l = s.byteAt l))

/-- WVRESET starts a core's weaver again at the firmware entry, in minimal mode at that of the ROM (R375), with zero scalars and no trap, whether or not it had stopped: its event
queue, claim register and retirement list and every wale stand (R285). A malformed write is ignored. -/
def Sys2Proof.Claims.WeaverRestarts : Prop :=
  ∀ (v : W64) (s : State), s.canonical = true →
    (v.getLsbD 63 = true → field v 62 9 = 0 → field v 8 0 < 288 → ∃ t w, exec (.wvreset v) s = .next t ∧
      t.weaverStopped.contains (field v 8 0) = false ∧ w ∈ t.wales ∧ w.kind = .weaver ∧ w.core = field v 8 0 ∧ w.life = .resident ∧
      w.pc = addr52 (if s.boot = .minimal then Config.romEntry (field v 8 0) else Config.firmwareEntry (field v 8 0)) ∧ w.trap = none ∧ (∀ j < 64, mGet 0 w.s j = 0) ∧
      (∀ x ∈ t.wales, x.kind = .weaver → x.core = field v 8 0 → x = w) ∧
      (∀ x ∈ s.wales, x.kind ≠ .weaver ∨ x.core ≠ field v 8 0 → x ∈ t.wales) ∧
      mFind t.wvPend (field v 8 0) = none ∧ t.events = s.events ∧ t.claims = s.claims ∧ t.retired = s.retired ∧ t.mem = s.mem) ∧
    ((v.getLsbD 63 = false ∨ field v 62 9 ≠ 0 ∨ 287 < field v 8 0) → exec (.wvreset v) s = .next s)

/-- CTXREC reads the record at its address anew (R299). A context whose record is no longer valid is gone with its wales, workgroups,
layouts and scale rings (the model's reading: log 64). -/
def Sys2Proof.Claims.ContextRecords : Prop :=
  ∀ (c : Nat) (v : W64) (s : State), s.canonical = true → c < 128 → v.toNat + 64 ≤ Config.hbmBytes → ∃ t, exec (.ctxrec c v) s = .next t ∧
    t.reg (0x3400 + 8 * c) = v ∧ (t.ctxRec c).toNat = s.natAt (locHbm v.toNat) 64 ∧ (∀ k, k ≠ c → t.ctxRec k = s.ctxRec k) ∧
    (s.ctxStopped.contains c = false → s.natAt (locHbm v.toNat) 64 / 2 ^ 32 % 2 = 1 → t.wales = s.wales ∧ t.wgs = s.wgs ∧ t.mem = s.mem) ∧
    ((s.ctxStopped.contains c = true ∨ s.natAt (locHbm v.toNat) 64 / 2 ^ 32 % 2 = 0) →
      (∀ w ∈ t.wales, w.kind ≠ .weaver → w.ctx ≠ c) ∧ (∀ g ∈ t.wgs, g.ctx ≠ c) ∧ (∀ q ∈ t.reqs, q.ctx ≠ c) ∧
      t.ctxStopped.contains c = false ∧ (∀ h < 1024, t.layout c h = 0) ∧ ∀ n < 64, t.ring c n = List.replicate 16 0)

/-- SPAREREQ removes a core at once. While its die has an unused spare and a leaf of the key is left, the part record maps the id to the spare,
signed anew, and SPARECODE is 0; else SPARECODE is 1, and the id is among those marked absent at the next boot (R360, R377, log 84). -/
def Sys2Proof.Claims.SparesServe : Prop :=
  ∀ (v : W64) (s : State), s.canonical = true → s.corePresent v.toNat = true → ∃ t, exec (.sparereq v) s = .next t ∧
    t.corePresent v.toNat = false ∧
    (∀ g ∈ s.wgs, g.saved = false → g.core = v.toNat → Stopping s t g) ∧
    ((s.part.spare (dieOf v.toNat) = none ∨ (s.leavesLeft = 0 ∧ 2 ^ 20 ≤ s.nextBlk)) →
      t.reg (mgmt 4 0x9000) = 1 ∧ v.toNat ∈ t.lost ∧ t.part = s.part ∧ t.leavesLeft = s.leavesLeft ∧ t.nextBlk = s.nextBlk) ∧
    (∀ n, s.part.spare (dieOf v.toNat) = some n → (0 < s.leavesLeft ∨ s.nextBlk < 2 ^ 20) →
      t.reg (mgmt 4 0x9000) = 0 ∧ t.part.built v.toNat = n ∧ (∀ c, c ≠ v.toNat → t.part.built c = s.part.built c) ∧
      t.part.repair = s.part.repair ∧ t.part.trims = s.part.trims ∧ t.lost = s.lost ∧
      (0 < s.leavesLeft → t.leavesLeft = s.leavesLeft - 1 ∧ t.nextBlk = s.nextBlk) ∧
      (s.leavesLeft = 0 → t.leavesLeft = 1023 ∧ t.nextBlk = s.nextBlk + 1))

/-- The registers of partitions, contexts, weavers and spares. -/
def Obligations.ManagementWrites : Prop := PartitionWrites ∧ SplitWrites ∧ WeaverRestarts ∧ ContextRecords ∧ SparesServe

/-- The debugger's commands: STOP stops the wale named at its instruction boundary, or once its trap entry is over, DBGST reading 1 until then; DUMP writes a stopped wale's state at DBGBUF, RESUME lets it go on past a
breakpoint; DBGST reads 2 when done, 3 when no wale has the name, and 4 when it is not stopped; a breakpoint stops a wale before its
instruction (R371, R372). -/
def Obligations.DebuggerCommands : Prop :=
  ∀ (v : W64) (s : State), s.canonical = true → s.absentHit = false →
    (∀ i ∈ [Instr.dbgStop v, .dbgDump v, .dbgResume v], s.dbgTarget v = none → ∃ t, exec i s = .next t ∧ t.reg dbgSt = 3 ∧
      t.wales = s.wales ∧ t.mem = s.mem) ∧
    (∀ w, s.dbgTarget v = some w → s.wale? w.id = some w →
      (w.dbg = false → (∀ i ∈ [Instr.dbgDump v, .dbgResume v], ∃ t, exec i s = .next t ∧ t.reg dbgSt = 4 ∧ t.wales = s.wales ∧
        t.mem = s.mem)) ∧
      (w.dbg = true → ∃ t, exec (.dbgStop v) s = .next t ∧ t.reg dbgSt = 2 ∧ t.wales = s.wales ∧ t.mem = s.mem) ∧
      (w.dbg = false → w.entering s.clk = true → ∃ t u, exec (.dbgStop v) s = .next t ∧ t.reg dbgSt = 1 ∧ t.wale? w.id = some u ∧
        u.dbg = false ∧ u.stopReq = true ∧ u.pc = w.pc ∧ SameRegs w u ∧ SameControl w u ∧ t.mem = s.mem) ∧
      (w.dbg = false → w.entering s.clk = false → (s.ctrace w.ctx).getLsbD 1 = false → ∃ t u, exec (.dbgStop v) s = .next t ∧ t.reg dbgSt = 2 ∧
        t.wale? w.id = some u ∧ u.dbg = true ∧ u.pc = w.pc ∧ SameRegs w u ∧ SameControl w u ∧ (∀ a b, u.latch ≠ some (.walk a b)) ∧
        t.mem = s.mem) ∧
      (w.dbg = true → ∃ t u, exec (.dbgResume v) s = .next t ∧ t.reg dbgSt = 2 ∧ t.wale? w.id = some u ∧ u.dbg = false ∧
        u.resume = true ∧ u.pc = w.pc ∧ SameRegs w u ∧ SameControl w u ∧ t.mem = s.mem) ∧
      (w.dbg = true → ∀ l,
        let a := field (s.reg dbgBuf) 51 0 / 64 * 64
        a % 65536 + w.dump.length ≤ 65536 → s.xlate w.ctx none .w a = .ok l → ∃ t, exec (.dbgDump v) s = .next t ∧
          t.bytesAt l w.dump.length = w.dump ∧ t.reg dbgSt = 2 ∧ t.wales = s.wales ∧
          ∀ b, b < l ∨ l + w.dump.length ≤ b → t.byteAt b = s.byteAt b)) ∧
    (∀ w, w.stopReq = true → (s.ctrace w.ctx).getLsbD 1 = false → s.wale? w.id = some w → ∃ t u, s.fetch w = .stop (.next t) ∧
      t.reg dbgSt = 2 ∧ t.wale? w.id = some u ∧ u.dbg = true ∧ u.pc = w.pc ∧ SameRegs w u ∧ SameControl w u ∧ t.mem = s.mem) ∧
    (∀ w, s.wale? w.id = some w → (s.eligible w && s.breaks w) = false → exec (.breakpointStop w.id) s = .next s) ∧
    (∀ w, s.wale? w.id = some w → s.eligible w = true → s.breaks w = true → (s.ctrace w.ctx).getLsbD 1 = false → ∃ t u,
      exec (.breakpointStop w.id) s = .next t ∧ t.wale? w.id = some u ∧ u.dbg = true ∧ u.pc = w.pc ∧ SameRegs w u ∧ t.mem = s.mem)

/-- Registers of R329: CTXROOT, QDESC, WBASE and SLEWHOPS hold what is written; a write of a command register carries out its operation;
read-only registers ignore writes, ID reads 0x530900A2, an offset past the last observation block reads as zero, and a package that is off takes
no write (R374). -/
def Sys2Proof.Claims.RegisterWrites : Prop :=
  ∀ (v : W64) (s : State), s.canonical = true →
    (s.boot = .off → ∀ off, exec (.registerWrite off v) s = .next s) ∧
    (∀ off, Config.obsBase + 0x1000 * 288 ≤ off → s.regRead off = 0) ∧ (s.boot ≠ .off →
    (∀ off, ((∃ q < 256, off = 0x100 + 16 * q) ∨ (∃ c < 128, off = 0x2000 + 8 * c) ∨ off = 0x4000 ∨ off = 0x5000) → ∃ t,
      exec (.registerWrite off v) s = .next t ∧ t.regRead off = v ∧ (∀ o, o ≠ off → t.reg o = s.reg o) ∧ t.mem = s.mem ∧
        t.wales = s.wales) ∧
    (∀ p ∈ [(0x3000, Instr.tlbinv v), (0x3100, .faultQ v), (0x3110, .faultHead v), (0x3200, .preempt v), (0x3208, .resume v),
      (0x3D00, .wvreset v), (0x3108, .faultRetry v), (0x3108, .faultRefuse v)], exec (.registerWrite p.1 v) s = exec p.2 s) ∧
    (∀ c < 128, exec (.registerWrite (0x3400 + 8 * c) v) s = exec (.ctxrec c v) s) ∧
    (∀ p < 16, ∀ w < 5, exec (.registerWrite (0x3800 + 64 * p + 8 * w) v) s = exec (.partWrite p w v) s) ∧
    (∀ d < 4, exec (.registerWrite (0x3C80 + 8 * d) v) s = exec (.cssplit d v) s) ∧
    (∀ off ∈ [0, 0x3008, 0x3118, 0x3210, 0x3C00], exec (.registerWrite off v) s = .next s) ∧ s.regRead 0 = 0x530900A2)

/-- A BAR 4 access within one page goes to the memory that WBASE's context maps there: a write leaves its bytes and no others, and a read
gives them (R328, R330). -/
def Sys2Proof.Claims.HostAccesses : Prop :=
  ∀ (off n l : Nat) (bs : List Byte) (s : State), s.canonical = true → s.absentHit = false → s.boot ≠ .minimal → s.boot ≠ .off →
    let va := s.hostVa off
    (off + bs.length ≤ 2 ^ 40 → bs ≠ [] → va % 65536 + bs.length ≤ 65536 → s.xlate s.hostCtx none .w va = .ok l →
      ∃ t, exec (.hostBar4Write off bs) s = .next t ∧ t.bytesAt l bs.length = bs ∧ t.wales = s.wales ∧ t.regs = s.regs ∧
        ∀ a, a < l ∨ l + bs.length ≤ a → t.byteAt a = s.byteAt a) ∧
    (off + n ≤ 2 ^ 40 → 0 < n → va % 65536 + n ≤ 65536 → s.xlate s.hostCtx none .r va = .ok l →
      ∃ t, exec (.hostBar4Read off n) s = .next t ∧ t.hostRead = s.bytesAt l n ∧ t.mem = s.mem ∧ t.wales = s.wales)

/-- A peer's access is translated in the context that carries its JOB and performed at its home: a read gives the bytes, a write leaves
them, and an add or swap gives the old word; without such a context, and where the page fails, nothing changes but the answer, which
is the cause, ACCESS without such a context (R226, R336). -/
def Sys2Proof.Claims.PeerAccesses : Prop :=
  ∀ (job va n l c : Nat) (bs : List Byte) (x y : W32) (s : State), s.canonical = true → s.absentHit = false →
    (s.jobCtx job = none → ∀ op, ∃ t, exec (.peerAccess job va op) s = .next t ∧ t.hostRead = [] ∧ t.peerFail = some .access ∧ t.mem = s.mem) ∧
    (s.jobCtx job = some c → va < 2 ^ 52 →
      (0 < n → va % 65536 + n ≤ 65536 → s.xlate c none .r va = .ok l →
        ∃ t, exec (.peerAccess job va (.read n)) s = .next t ∧ t.hostRead = s.bytesAt l n ∧ t.peerFail = none ∧ t.mem = s.mem ∧ t.wales = s.wales) ∧
      (∀ f, 0 < n → va % 65536 + n ≤ 65536 → s.peerLoc c [.r] va = .bad f →
        ∃ t, exec (.peerAccess job va (.read n)) s = .next t ∧ t.hostRead = [] ∧ t.peerFail = some f ∧ t.mem = s.mem) ∧
      (bs ≠ [] → va % 65536 + bs.length ≤ 65536 → s.xlate c none .w va = .ok l →
        ∃ t, exec (.peerAccess job va (.write bs)) s = .next t ∧ t.bytesAt l bs.length = bs ∧ t.wales = s.wales ∧
          ∀ a, a < l ∨ l + bs.length ≤ a → t.byteAt a = s.byteAt a) ∧
      (s.peerLoc c [.r, .w] va = .ok l → locDevice l = true →
        (∃ t, exec (.peerAccess job va (.add x)) s = .next t ∧ leNat t.hostRead = s.natAt l 4 ∧
          t.natAt l 4 = (s.natAt l 4 + x.toNat) % 2 ^ 32 ∧ ∀ a, a < l ∨ l + 4 ≤ a → t.byteAt a = s.byteAt a) ∧
        (∃ t, exec (.peerAccess job va (.swap none x)) s = .next t ∧ leNat t.hostRead = s.natAt l 4 ∧ t.natAt l 4 = x.toNat) ∧
        (∃ t, exec (.peerAccess job va (.swap (some y) x)) s = .next t ∧ leNat t.hostRead = s.natAt l 4 ∧
          t.natAt l 4 = if s.natAt l 4 = y.toNat then x.toNat else s.natAt l 4)))

/-- BAR 0 writes, BAR 4 accesses and accesses of peer packages. -/
def Obligations.AccessesFromOutside : Prop := RegisterWrites ∧ HostAccesses ∧ PeerAccesses

/-! ### Resharding, checkpoints and the rim -/

/-- The engine plans its transfers, writes its progress record at every state it keeps, and pulls from a replica of the first once the hop table
can be read; a run with none ends, when CCORE's event queue has space for its record (R287, R348 to R353). -/
def Sys2Proof.Claims.SlewPlans : Prop :=
  ∀ (s : State), s.canonical = true →
    let x := s.slew
    let plan := planOf x.dstRec x.srcRec Config.packageNo
    ((x.st ≠ .planning ∨ s.progressReady = false) → exec .slewPlanComplete s = .next s) ∧
    (x.st = .planning → x.ending = none → s.progressReady = true → x.mode = 0 → x.cursor = 0 → ∃ t, exec .slewPlanComplete s = .next t ∧
      t.slew.plan = plan ∧ t.slew.phash = planHash x.dstRec x.srcRec Config.packageNo ∧ t.slew.cursor = 0 ∧ t.wales = s.wales ∧
      (∀ l, s.engRecLoc x.ctx x.prec .w = some l → t.slew.st ≠ .halted → t.slew.ending = none → t.natAt l 64 = t.slew.record) ∧
      (plan = [] → s.evFull x.ccore = false → t.slew.st = .doneS ∧ t.slew.ending = none) ∧
      (plan = [] → s.evFull x.ccore = true → t.slew.st = .planning ∧ t.slew.ending = some (.doneS, 0)) ∧
      (∀ a r, plan = a :: r → (∃ p ∈ a.replicas, x.unreachable.contains p = false) → t.slew.st = .pulling ∧
        (t.slew.choosing = false → t.slew.current ∈ a.replicas ∧ x.unreachable.contains t.slew.current = false)))

/-- One element of a transfer is moved whole to its destination, and nothing else changes (R350). -/
def Sys2Proof.Claims.SlewMoves : Prop :=
  ∀ (s : State) (e : Nat × Nat × Bool) (d l : Nat), s.canonical = true → s.slewDst e.1 = .ok d → s.slewSrc (e.2.1 / 2) = .ok l →
    let n := elemSize (lFmt s.slew.dstRec)
    (lFmt s.slew.dstRec ≠ .q4 → (s.slewMove e).bytesAt d n = s.bytesAt l n ∧
      ∀ a, a < d ∨ d + n ≤ a → (s.slewMove e).byteAt a = s.byteAt a) ∧
    (lFmt s.slew.dstRec = .q4 →
      let v := (s.byteAt l).toNat / (if e.2.1 % 2 = 1 then 16 else 1) % 16
      let y := ((s.slewMove e).byteAt d).toNat
      (e.2.2 = true → y / 16 = v ∧ y % 16 = (s.byteAt d).toNat % 16) ∧ (e.2.2 = false → y % 16 = v ∧ y / 16 = (s.byteAt d).toNat / 16) ∧
      ∀ a, a ≠ d → (s.slewMove e).byteAt a = s.byteAt a)

/-- An acknowledged transfer counts as done, and the last ends the run; a failed one counts as failed, its package is not chosen again, and
the engine switches; a stopped context ends it Halted with reason 6, and its transfer is not acknowledged (R352, R353). The engine waits while the
home of its progress record does not answer, and its end for CCORE's event queue (R246, R287). -/
def Sys2Proof.Claims.SlewTransfers : Prop :=
  ∀ (s : State) (a : Transfer), s.slew.st = .pulling → s.slew.ending = none → s.slew.choosing = false → s.slew.transfer = some a →
    s.absentHit = false → s.badWords = [] →
    let x := s.slew
    ((∀ e ∈ x.elements a, ∃ d l, s.slewDst e.1 = .ok d ∧ s.slewSrc (e.2.1 / 2) = .ok l ∧ s.engReady d 0 x.stamp = true ∧
        s.engReady l 0 x.stamp = true) →
      ((s.ctxValid x.ctx = false ∨ s.progressReady = false) → exec .slewTransferAck s = .next s) ∧
      (s.ctxValid x.ctx = true → s.progressReady = true → x.dead = false → x.stalled = false → ∃ t, exec .slewTransferAck s = .next t ∧
        t.slew.cursor = x.cursor + 1 ∧ t.slew.done = x.done + 1 ∧ t.slew.fail = x.fail ∧ t.wales = s.wales ∧
        (x.cursor + 1 = x.plan.length → (t.slew.st = .doneS ∧ t.slew.ending = none) ∨ t.slew.ending = some (.doneS, 0)) ∧
        (x.cursor + 1 < x.plan.length → t.slew.st = .pulling ∨ t.slew.st = .halted))) ∧
    (∀ u, s.progressReady = false → exec (.slewTransferFail u) s = .next s) ∧
    (∀ u, s.progressReady = true → x.current ≠ Config.packageNo → (u = true ∨ x.dead = false) → ∃ t, exec (.slewTransferFail u) s = .next t ∧
      t.slew.st = .switching ∧ t.slew.fail = x.fail + 1 ∧ t.slew.unreachable = x.unreachable ++ [x.current] ∧
      t.slew.cursor = x.cursor ∧ t.slew.done = x.done ∧ t.wales = s.wales) ∧
    (s.ctxValid x.ctx = true → exec .slewCtxStopped s = .next s) ∧
    (s.ctxValid x.ctx = false → ∃ t, exec .slewCtxStopped s = .next t ∧
      ((t.slew.st = .halted ∧ t.slew.halt = 6 ∧ t.slew.ending = none) ∨ t.slew.ending = some (.halted, 6)) ∧
      t.slew.cursor = x.cursor ∧ t.slew.done = x.done ∧ t.wales = s.wales)

/-- The slew engine. -/
def Obligations.SlewEngine : Prop := SlewPlans ∧ SlewMoves ∧ SlewTransfers

/-- A checkpoint run, every die awake, ends with its image written: STATUS 0, or 2 when granules with an uncorrectable word were left out, with
GRANS, BYTES and a record of kind 0x06; a target that fails, whose link is down, or that the table does not give, ends it with STATUS 1, and the
dirty bits of what it read are set again; restore writes back the granules of the manifest, and a header that is not the package's gives STATUS 3
(R361 to R364). That GRANS and BYTES are 0 after STATUS 1 and 3, that BYTES is 65,536 x GRANS, and that the run acts at its end, when its block's home
and CCORE's event queue take what it writes, is the model's reading (log 75). -/
def Obligations.CheckpointsEnd : Prop :=
  ∀ (s : State) (c : Ckpt), s.canonical = true → s.ckpt = some c → c.ending = none →
    let told (t : State) (status grans : Nat) : Prop := t.ckpt = none ∧
      (∃ e, mGet [] t.events c.ccore = mGet [] s.events c.ccore ++ [e] ∧ e.data = evData c.block status 0x06 c.ctx) ∧
      ∀ l, s.engRecLoc c.bctx c.block .w = some l → (t.byteAt (l + 51)).toNat / 16 = status ∧
        t.natAt (l + 52) 4 = grans % 2 ^ 32 ∧ t.natAt (l + 56) 8 = 65536 * grans % 2 ^ 64
    let ready (u : State) : Prop := s.evFull c.ccore = false ∧ u.engRecLoc c.bctx c.block .w = s.engRecLoc c.bctx c.block .w ∧
      ∀ l, s.engRecLoc c.bctx c.block .w = some l → u.engReady l 0 [] = true
    let failed (t : State) : Prop := (∀ g ∈ c.was, g ∈ t.dirtyGranules) ∧ (ready s → told t 1 0)
    let awake : Prop := ∀ d < 4, s.awake d = true
    let f := s.flushAll
    (∀ i < 9, c.sel.testBit i = false → exec (.checkpointTargetFail i) s = .next s) ∧
    (∀ i < 9, c.sel.testBit i = true → ∃ t, exec (.checkpointTargetFail i) s = .next t ∧ t.wales = s.wales ∧ failed t ∧
      (s.evFull c.ccore = true → t.ckpt = some { c with ending := some (1, 0) })) ∧
    ((¬ awake ∨ s.flushAllHeld = true) → exec .checkpointEnd s = .next s) ∧
    (awake → s.flushAllHeld = false → (s.targets c = none ∨ ∃ ts, s.targets c = some ts ∧ ts.any s.targetDown = true) →
      ∃ t, exec .checkpointEnd s = .next t ∧ t.wales = s.wales ∧ failed t) ∧
    (∀ ts s1, awake → s.flushAllHeld = false → s.targets c = some ts → ts.any s.targetDown = false → c.mode ≠ 2 →
      let gs := f.granules c
      let written := gs.filter fun g => !(c.bad.contains g || f.badGranules.contains g)
      let u : State := { f.nameBad c gs with free := f.free + allGranules }
      let st := if ∃ g ∈ gs, g ∈ c.bad ∨ g ∈ f.badGranules then 2 else 0
      (u.writeImage c ts written = some s1 → ∃ t, exec .checkpointEnd s = .next t ∧ t.wales = s.wales ∧
        (ready s1 → told t st written.length)) ∧
      (u.writeImage c ts written = none → ∃ t, exec .checkpointEnd s = .next t ∧ t.wales = s.wales ∧ (∀ g ∈ gs, g ∈ t.dirtyGranules) ∧
        (ready u → told t 1 0))) ∧
    (∀ ts tg h m, awake → s.flushAllHeld = false → s.targets c = some ts → ts.any s.targetDown = false → c.mode = 2 →
      ts.head? = some tg → f.getTarget c tg 0 64 = some h → f.readManifest c tg = some m →
      ((leNat h % 2 ^ 32 ≠ idReg ∨ leNat h / 2 ^ 32 % 16 ≠ ts.length) → ∃ t, exec .checkpointEnd s = .next t ∧ t.wales = s.wales ∧
        (ready f → told t 3 0)) ∧
      (∀ g l bs tg', leNat h % 2 ^ 32 = idReg → leNat h / 2 ^ 32 % 16 = ts.length → listed m = [g] → ts[g % ts.length]? = some tg' →
        f.granuleLoc g = some l → f.getTarget c tg' 0x130000 65536 = some bs → ∃ t, exec .checkpointEnd s = .next t ∧ t.wales = s.wales ∧
          (ready (f.writeLoc l bs) → told t 0 1) ∧
          ∀ a < bs.length, (∀ b, s.engRecLoc c.bctx c.block .w = some b → l + a < b ∨ b + 64 ≤ l + a) →
            (f.writeLoc l bs).engRecLoc c.bctx c.block .w = s.engRecLoc c.bctx c.block .w → t.byteAt (l + a) = bs.getD a 0))

/-- An image is performed at its home in the order of its workgroup's primaries, and leaves its lane (R310, R312, R314). -/
def Sys2Proof.Claims.ImagesPerform : Prop :=
  ∀ (s : State) (i : Image) (l : Nat), s.canonical = true → (s.images.find? fun x => x.id == i.id) = some i →
    ((i.stalled = true ∨ s.imageHeld i = true) → exec (.imagePerform i.id) s = .next s) ∧
    (i.stalled = false → s.imageHeld i = false → s.imageLoc i = .ok l →
      (s.homeReady l 0 i.stamp = false → exec (.imagePerform i.id) s = .next s) ∧
      (s.homeReady l 0 i.stamp = true → s.badWords = [] → ∃ t, exec (.imagePerform i.id) s = .next t ∧
        (i.size ≠ 0 → i.size ≠ 9 → t.natAt l i.size = i.val.toNat % 2 ^ (8 * i.size)) ∧
        (s.dirty = [] → i.size = 0 → t.natAt l 1 = s.natAt l 1 / 16 * 16 + i.val.toNat % 16) ∧
        (s.dirty = [] → i.size = 9 → t.natAt l 1 = i.val.toNat % 16 * 16 + s.natAt l 1 % 16) ∧
        t.images = (s.images.filter fun x => x.id != i.id) ∧ t.wales = s.wales ∧
        (s.dirty = [] → ∀ a, a < l ∨ l + i.bytes ≤ a → t.byteAt a = s.byteAt a)))

/-- A merge waits until its step's entries are published, folds them in the order of (KEYM, KEYC, SEQ), and adds EXPECT to HEAD (R320, R322). -/
def Sys2Proof.Claims.FoldLogsMerge : Prop :=
  (∀ l : List FoldEnt, (foldSort l).Pairwise (fun a b => a.before b = true) ∧ (foldSort l).Perm l) ∧
  ∀ (ctx h home tail : Nat) (s : State), s.ctxValid ctx = true →
    let log := s.layout ctx h
    let die := s.logDie ctx log
    let w (i : Nat) : Nat := s.logGet die ctx log i
    let es := foldSort ((List.range (w 5)).map fun k => s.foldEnt ctx log ((w 1 + k) % 2 ^ 32 % w 4))
    lValid log = true → lRank log = 1 → lFmt log = .n32 → lSpace log = 0 → s.foldMiss die ctx log [0, 1, 2, 3, 4, 5, 6, 7, 8] = none →
    s.logWord die ctx log .w 1 = .ok home → s.logWord die ctx log .r 2 = .ok tail →
    ((w 2 + 2 ^ 32 - w 1) % 2 ^ 32 < w 5 → exec (.foldMerge ctx h) s = .next s) ∧
    (w 5 ≠ 0 → w 4 ≠ 0 → w 5 ≤ (w 2 + 2 ^ 32 - w 1) % 2 ^ 32 → w 6 / 4096 = 0 → w 7 = 0 → s.sectorSplit = false → s.badWords = [] →
      (∀ e ∈ es, ∀ p ∈ tileIdx, ∀ x, s.foldDest die ctx e p.1 p.2 = some x → ∃ a, x = .ok a ∧
        s.homeReady a (Config.coresPerDie * homeDie home 0) (s.stampAt tail (Config.coresPerDie * homeDie home 0)) = true) →
      ∃ t, exec (.foldMerge ctx h) s = .next t ∧ t.natAt home 4 = (w 1 + w 5) % 2 ^ 32 ∧ t.wales = s.wales ∧
        t.mem = ((s.foldStep ctx log (decide (w 0 % 2 = 1)) [] es).writeNat home 4 ((w 1 + w 5) % 2 ^ 32)).mem)

/-- When a trace ring has space again, one record of kind 0x06 reports how many were dropped (R368). -/
def Sys2Proof.Claims.DropReports : Prop :=
  ∀ (d l : Nat) (s : State), s.canonical = true → s.absentHit = false →
    let n := mGet 0 s.psDropped d
    let base := s.reg (mgmt d 0x1000)
    let tail := (s.reg (mgmt d 0x1018)).toNat
    ((n = 0 ∨ s.psLen d ≤ s.psUsed d) → exec (.psiakDropReport d) s = .next s) ∧
    (n ≠ 0 → s.psUsed d < s.psLen d → tail + 1 < 2 ^ 64 →
      s.xlate (field base 63 57) none .w (addr52 (field base 51 0 + 32 * (tail % s.psLen d))) = .ok l → ∃ t,
        exec (.psiakDropReport d) s = .next t ∧ mGet 0 t.psDropped d = 0 ∧ (t.reg (mgmt d 0x1018)).toNat = tail + 1 ∧
        t.natAt l 32 / 2 ^ 248 = 0x06 ∧ t.natAt l 32 / 2 ^ 64 % 2 ^ 32 = n % 2 ^ 32 ∧ t.wales = s.wales)

/-- Images, the merge of fold logs, and the report of dropped trace records. -/
def Obligations.ImagesMergesAndReports : Prop := ImagesPerform ∧ FoldLogsMerge ∧ DropReports

/-! ### Boot and power -/

/-- The boot: each attempt counts itself, and the fourth without success is minimal mode. The part record is verified before the firmware, each
signature by its typecodes and then against its key; a check that fails is reported with its REASON and STAGE and is a warm reset; an attempt that
passes applies the part record. BOOTOK in Bring-up runs the package and clears the count, and 10 s without it end the attempt; FBCLR clears the
count (R360, R373 to R376). What a part record must hold to be valid, and when the firmware in flash is the one written, is the model's reading
(logs 83, 84). -/
def Sys2Proof.Claims.Boots : Prop :=
  ∀ (written : Option (List Byte)) (levels : List (LmsCode × OtsCode)) (sig : List Byte) (v : W64) (s : State), s.canonical = true →
    let fw : SignedImage := match written with | some b => ⟨b, ⟨levels, sig⟩⟩ | none => s.firmware
    let p := signFault 0 s.part.bytes s.partSig
    let g := signFault 1 fw.body fw.sig
    (s.boot ≠ .reset → exec (.powerGood written levels sig) s = .next s) ∧
    (s.boot = .reset → ∃ t, exec (.powerGood written levels sig) s = .next t ∧ t.bootCnt = min (s.bootCnt + 1) 15 ∧ t.firmware = fw ∧
      t.part = s.part ∧ t.lost = s.lost ∧ t.nextBlk = s.nextBlk ∧
      (3 ≤ s.bootCnt → t.boot = .minimal ∧ t.wales = s.wales ∧ t.mem = s.mem ∧ repReason t.report = repReason s.report) ∧
      (∀ reason stage, s.bootCnt < 3 →
        ((p ≠ 0 ∧ reason = p ∧ stage = 1) ∨ (p = 0 ∧ s.part.valid = false ∧ reason = 4 ∧ stage = 1) ∨
          (p = 0 ∧ s.part.valid = true ∧ ((g ≠ 0 ∧ reason = g ∧ stage = 2) ∨
            (g = 0 ∧ Config.headerBad fw.body = true ∧ reason = 3 ∧ stage = 2) ∨
            (g = 0 ∧ Config.headerBad fw.body = false ∧ Config.selfTestFails fw.body s.clk = true ∧ reason = 5 ∧ stage = 2)))) →
        t.boot = .reset ∧ repReason t.report = reason ∧ repStage t.report = stage ∧ t.wales = [] ∧ t.wgs = [] ∧ t.ctxRecs = []) ∧
      (s.bootCnt < 3 → p = 0 → s.part.valid = true → g = 0 → Config.headerBad fw.body = false → Config.selfTestFails fw.body s.clk = false →
        t.boot = .bringUp ∧ t.bootAt = s.clk ∧ repFwver t.report = Config.imageVersion fw.body % 2 ^ 16 ∧ t.wales = s.wales ∧ t.mem = s.mem ∧
        (2 ^ 20 ≤ s.nextBlk → repReason t.report = 8) ∧
        ∀ c < 288, t.absent.contains c = (s.lost.contains c || s.part.built c == 80))) ∧
    (∀ key bs x, (sigAdmitted x = false → signFault key bs x = 2) ∧
      (sigAdmitted x = true → Config.hssValid key (sha256 bs) x.bytes = false → signFault key bs x = 1) ∧
      (sigAdmitted x = true → Config.hssValid key (sha256 bs) x.bytes = true → signFault key bs x = 0)) ∧
    (s.boot = .bringUp → ∃ t, exec (.bootOk 1) s = .next t ∧ t.boot = .running ∧ t.bootCnt = 0 ∧ t.mem = s.mem) ∧
    ((v ≠ 1 ∨ s.boot ≠ .bringUp) → exec (.bootOk v) s = .next s) ∧
    (s.boot = .bringUp → s.clk < s.bootAt + 6000000000 → exec .bootOkTimeout s = .next s) ∧
    (s.boot = .bringUp → s.bootAt + 6000000000 ≤ s.clk → ∃ t, exec .bootOkTimeout s = .next t ∧ t.boot = .reset ∧ t.wales = [] ∧
      t.bootCnt = s.bootCnt ∧ repReason t.report = 6 ∧ repStage t.report = 3) ∧
    ((s.boot = .minimal ∨ s.boot = .bringUp ∨ s.boot = .running) → ∃ t, exec (.fbclr 1) s = .next t ∧ t.bootCnt = 0 ∧ t.boot = s.boot ∧
      t.mem = s.mem)

/-- Power: losing it keeps flash and what lies outside the package, and nothing else; a thermal trip stops every context and leaves the
package off with REASON 7 (that both leave the rest as at reset, with memory undefined, is the model's reading, log 83); an attestation signs the
nonce, ID and the SHA-256 of firmware and part record with a leaf of a block that is reserved before, and none is left past the key's end (R374,
R377, R381). -/
def Sys2Proof.Claims.PowerGoes : Prop :=
  ∀ (nonce : BitVec 256) (s : State),
    (∃ t, exec .powerLoss s = .next t ∧ t.boot = .reset ∧ t.wales = [] ∧ t.wgs = [] ∧ t.ctxRecs = [] ∧ t.regs = State.reset.regs ∧
      t.bootCnt = s.bootCnt ∧ t.nextBlk = s.nextBlk ∧ t.part = s.part ∧ t.partSig = s.partSig ∧ t.lost = s.lost ∧ t.firmware = s.firmware ∧
      t.leavesLeft = 0 ∧ (∀ l < 2 ^ 56, mFind t.mem l = none)) ∧
    ((s.boot ≠ .reset ∧ s.boot ≠ .off) → ∃ t, exec .thermalTrip s = .next t ∧ t.boot = .off ∧ t.wales = [] ∧ t.ctxRecs = [] ∧
      t.bootCnt = s.bootCnt ∧ t.part = s.part ∧ repReason t.report = 7) ∧
    ((s.boot = .running ∨ s.boot = .bringUp) →
      let signed (t : State) : Prop := ∃ a, t.attested = some a ∧
        a.message = leBytes 32 nonce.toNat ++ leBytes 4 0x530900A2 ++ sha256 s.firmware.body ++ sha256 s.part.bytes ∧
        a.leaf = 1024 * (t.nextBlk - 1) + (1023 - t.leavesLeft)
      (0 < s.leavesLeft → ∃ t, exec (.attestationSign nonce) s = .next t ∧ t.leavesLeft = s.leavesLeft - 1 ∧
        t.nextBlk = s.nextBlk ∧ signed t) ∧
      (s.leavesLeft = 0 → s.nextBlk < 2 ^ 20 → ∃ t, exec (.attestationSign nonce) s = .next t ∧ t.leavesLeft = 1023 ∧
        t.nextBlk = s.nextBlk + 1 ∧ signed t) ∧
      (s.leavesLeft = 0 → 2 ^ 20 ≤ s.nextBlk → exec (.attestationSign nonce) s = .next s))

/-- The power states: a die that has been idle for the wake time of the state below, within its queues' tolerance, goes one state deeper, and
with every die in C3 the package enters C4; work that arrives wakes a die,
and from C4 the whole package (R378 to R380). -/
def Sys2Proof.Claims.DiesSleepAndWake : Prop :=
  ∀ (d : Nat) (s : State), s.canonical = true →
    (d ≠ 4 → s.canDescend d = false → exec (.powerStateDescend d) s = .next s) ∧
    (∀ p, d < 4 → s.canDescend d = true → (mGet .p0 s.power d).below = some p → ∃ t, exec (.powerStateDescend d) s = .next t ∧
      mGet .p0 t.power d = p ∧ (∀ k, k ≠ d → mGet .p0 t.power k = mGet .p0 s.power k) ∧ (p = .c1 → t.mem = s.mem ∧ t.wales = s.wales)) ∧
    (s.canSleep = true → ∃ t, exec (.powerStateDescend 4) s = .next t ∧ ∀ k < 4, mGet .p0 t.power k = .c4) ∧
    (mFind s.wakeAt d = none → exec (.dieWake d) s = .next s) ∧
    ((mFind s.wakeAt d).isSome = true → ∃ t, exec (.dieWake d) s = .next t ∧ t.awake d = true ∧ mFind t.wakeAt d = none ∧
      (mGet .p0 s.power d = .c4 → ∀ k, t.awake k = true) ∧ (∀ k, s.awake k = true → t.awake k = true) ∧ t.mem = s.mem ∧ t.wales = s.wales)

/-- While the power controller withholds issue, no wale, weaver or engine stream issues and no array takes an MMA; a turn of it withholds for
whole clk, which is the model's reading (log 128), and changes nothing else (R381). -/
def Sys2Proof.Claims.IssueWithheld : Prop :=
  ∀ (s : State),
    (s.clk < s.withheld → s.selected = none ∧ ∀ core, s.nextMma core = none ∧ exec (.arrayServe core) s = .next s) ∧
    (s.clk < s.withheld → ∀ id, s.streamTurn id = .stop (.next s)) ∧
    ∀ c n r, s.agenda = ⟨c, .withhold n⟩ :: r → c ≤ s.clk →
      ∃ t, step s = .next t ∧ s.clk + n ≤ t.withheld ∧ s.withheld ≤ t.withheld ∧ t.clk = s.clk ∧ t.agenda = r ∧ t.wales = s.wales ∧
        t.mem = s.mem ∧ t.arrays = s.arrays

/-- Boot, power loss, the power states, and the power limit. -/
def Obligations.BootAndPower : Prop := Boots ∧ PowerGoes ∧ DiesSleepAndWake ∧ IssueWithheld

/-! ### The step, memory and the invariants -/

/-- The state at which a fetched instruction is carried out: its wale is at hand with the instruction's words and address, and the
caches hold the page that they were fetched from. -/
def Sys2Proof.Claims.fetched (s : State) (w : Wale) (x y : W64) : State :=
  (({ s with cur := w.id, free := s.free + 4 } : State).fillVa w.core w.ctx (addr52 w.pc)).putWale
    { w with insn0 := x, insn1 := y, insnPc := w.pc }

/-- What a word needs beside its decoding to be carried out: its place, the wale's kind, and no fault of a bank program owed there. -/
def Sys2Proof.Claims.Runs (w : Wale) (x : W64) (i : Instr) : Prop :=
  w.misplaced x = false ∧ kindAllows w.kind i = true ∧ (w.headerDue = true ∨ w.decodeFails x i = true ∨ w.bankFault = none)

/-- A STEP RUNS THE DECODED INSTRUCTION. When no turn and no event of the clock is due, the wale that issues runs what the word at its
program counter decodes to, an event of the agenda is carried out when it is due, a bank program runs the word at its pc, an engine stream
in its turn runs its word, and when nothing else is to do one clk passes (R18, R57, R58, R207, R210). An access from outside waits while a
bank program holds its rows, and behind one that waits (R213, R330). -/
def Obligations.StepRunsDecoded : Prop :=
  ∀ (s : State),
    (∀ t i, s.nextUp = .run t i → step s = exec i t) ∧
    (s.due = none → s.internal = none → ∀ w u, s.selected = some (w, u) →
      let a : State := { u with cur := w.id }
      w.stopReq = false → a.breaks w = false → ∀ x, a.codeWord w w.pc 0 = .ok x →
        (∀ i, (w.headerDue = true ∨ wordPaired x = false) → decodeWord x none = .ok i → Runs w x i → step s = exec i (fetched u w x 0)) ∧
        (∀ y i, w.headerDue = false → wordPaired x = true → a.codeWord w (addr52 (w.pc + 8)) 3 = .ok y → decodeWord x (some y) = .ok i →
          Runs w x i → step s = exec i (fetched u w x y))) ∧
    (∀ c i, s.agenda = [⟨c, .event i⟩] → s.outside i = (true, true) → s.due = none) ∧
    (∀ c i r, s.agenda = ⟨c, .event i⟩ :: r → c ≤ s.clk → s.outside i ≠ (true, true) → step s = exec i { s with agenda := r }) ∧
    (∀ c r w x i, s.agenda = ⟨c, .stream w.id⟩ :: r → c ≤ s.clk → s.wale? w.id = some w → (w.kind = .streamM ∨ w.kind = .streamC) →
      w.atRdv = false → w.life = .resident → w.nextIssue ≤ s.clk → s.ctxValid w.ctx = true → w.stopReq = false → s.withholds = false →
      let u : State := { s with agenda := r }
      ({ u with cur := w.id } : State).codeWord w w.pc 0 = .ok x → (w.headerDue = true ∨ wordPaired x = false) →
      decodeWord x none = .ok i → Runs w x i → step s = exec i (fetched u w x 0)) ∧
    (∀ c r b l i, s.agenda = ⟨c, .bank b.id⟩ :: r → c ≤ s.clk → s.bank? b.id = some b → b.st = .running → b.count < 2 ^ 20 → b.pc % 4 = 0 →
      b.skipping = false →
      let u : State := { s with agenda := r }
      u.xlateDie b.die b.ctx none .x b.pc = .ok l → decodeBank (BitVec.ofNat 32 (s.natAt l 4)) = some i →
      step s = exec i (({ u with curBank := b.id } : State).fillDie b.die b.ctx b.pc)) ∧
    (s.due = none → s.internal = none → s.selected = none → step s = fin s.tick)

/-- A write of `n` bytes is read back little-endian, leaves every other byte as it was, and keeps the memory's canonical form (R4). -/
def Obligations.MemoryReadsBack : Prop :=
  ∀ (l n x : Nat) (s : State), Memory.wf s.mem = true →
    let t := s.writeNat l n x
    t.natAt l n = x % 2 ^ (8 * n) ∧ (∀ i < n, (t.byteAt (l + i)).toNat = x / 256 ^ i % 256) ∧
    (∀ a, a < l ∨ l + n ≤ a → t.byteAt a = s.byteAt a) ∧ Memory.wf t.mem = true ∧ t.wales = s.wales ∧ t.regs = s.regs ∧ t.clk = s.clk

/-- The state after reset is canonical and holds what the spec gives: no wale, context, launch, record or translation exists, every
core belongs to partition 0, PREDONE reads 1, INVDONE reads 1, the boot stands in Reset and memory lists nothing (R293, R298, R329, R374).
That FAULTHEAD and FAULTTAIL read 0 is the model's choice (log 3). -/
def Obligations.ResetIsCanonical : Prop :=
  State.reset.canonical = true ∧ State.reset.wales = [] ∧ State.reset.wgs = [] ∧ State.reset.mem = [] ∧
    (∀ c, State.reset.ctxExists c = false) ∧ (∀ c < 288, State.reset.partOf c = some 0) ∧ State.reset.regRead 0x3210 = 1 ∧
    State.reset.regRead 0x3008 = 1 ∧ State.reset.regRead 0x3C00 = 0 ∧ State.reset.regRead 0x3110 = 0 ∧ State.reset.regRead 0x3118 = 0 ∧
    State.reset.boot = .reset ∧ State.reset.slew.st = .idle ∧ State.reset.ckpt = none ∧
    (∀ w ∈ State.reset.wales, w.id < State.reset.nextId)

/-- EVERY STEP KEEPS MEMORY IN ITS CANONICAL FORM: addresses rise strictly. -/
def Obligations.StepKeepsMemoryForm : Prop :=
  ∀ s t : State, Memory.wf s.mem = true → step s = .next t → Memory.wf t.mem = true

/-- EVERY STEP KEEPS THE CANONICAL FORM of every map of the state. -/
def Obligations.StepKeepsCanonical : Prop :=
  ∀ s t : State, s.canonical = true → step s = .next t → t.canonical = true

/-- EVERY STEP KEEPS SERIAL NUMBERS FRESH: the serial of every wale, weaver and stream lies below the next that a creation takes. -/
def Obligations.StepKeepsSerialsFresh : Prop :=
  ∀ s t : State, (∀ w ∈ s.wales, w.id < s.nextId) → step s = .next t → ∀ w ∈ t.wales, w.id < t.nextId

end
end

