-- ==== Sys2Proof/Laws/Map.lean ====
section
/-!
SUPPORT. Sys2Proof/Laws/Map.lean: what the operations of sparse maps do, and that each keeps the canonical form.
-/
namespace Sys2Proof.Machine

variable {α : Type}

/-! ### The canonical form -/

/-- The canonical form as a relation between all pairs. -/
theorem mSorted_iff (m : List (Nat × α)) : mSorted m = true ↔ m.Pairwise fun p q => p.1 < q.1 := by
  induction m with
  | nil => simp [mSorted]
  | cons p r ih =>
    cases r with
    | nil => simp [mSorted]
    | cons q r =>
      have key : mSorted (p :: q :: r) = (decide (p.1 < q.1) && mSorted (q :: r)) := rfl
      rw [key, Bool.and_eq_true, decide_eq_true_eq, ih, List.pairwise_cons (a := p)]
      constructor
      · rintro ⟨h, hr⟩
        refine ⟨fun x hx => ?_, hr⟩
        rcases List.mem_cons.1 hx with rfl | hx
        · exact h
        · exact h.trans ((List.pairwise_cons.1 hr).1 x hx)
      · rintro ⟨h, hr⟩
        exact ⟨h q (by simp), hr⟩

/-- Removing pairs keeps the canonical form. -/
theorem mSorted_filter {m : List (Nat × α)} (f : Nat × α → Bool) (h : mSorted m = true) : mSorted (m.filter f) = true :=
  (mSorted_iff _).2 (((mSorted_iff _).1 h).filter f)

/-- The keys of `mPut` are the old ones and the new one. -/
theorem mem_mPut {m : List (Nat × α)} {n : Nat} {x : α} {p : Nat × α} (h : p ∈ mPut m n x) : p = (n, x) ∨ p ∈ m := by
  induction m with
  | nil => simpa [mPut] using h
  | cons q r ih =>
    obtain ⟨k, v⟩ := q
    simp only [mPut] at h
    split at h
    · simpa using h
    · split at h
      · rcases List.mem_cons.1 h with h | h
        · exact .inl h
        · exact .inr (List.mem_cons_of_mem _ h)
      · rcases List.mem_cons.1 h with rfl | h
        · exact .inr (by simp)
        · rcases ih h with h | h
          · exact .inl h
          · exact .inr (List.mem_cons_of_mem _ h)

/-- `mPut` keeps the canonical form. -/
theorem mSorted_mPut {m : List (Nat × α)} (n : Nat) (x : α) (h : mSorted m = true) : mSorted (mPut m n x) = true := by
  rw [mSorted_iff] at *
  induction m with
  | nil => simp [mPut]
  | cons q r ih =>
    obtain ⟨k, v⟩ := q
    obtain ⟨h1, h2⟩ := List.pairwise_cons.1 h
    simp only [mPut]
    split
    · rename_i hk
      refine List.pairwise_cons.2 ⟨fun p hp => ?_, h⟩
      rcases List.mem_cons.1 hp with rfl | hp
      · exact hk
      · exact Nat.lt_trans hk (h1 p hp)
    · split
      · rename_i hk
        subst hk
        exact List.pairwise_cons.2 ⟨fun p hp => h1 p hp, h2⟩
      · rename_i a b
        refine List.pairwise_cons.2 ⟨fun p hp => ?_, ih h2⟩
        rcases mem_mPut hp with rfl | hp
        · simp; omega
        · exact h1 p hp

/-- The pairs of `mDel` are among the old ones. -/
theorem mem_mDel {m : List (Nat × α)} {n : Nat} {p : Nat × α} (h : p ∈ mDel m n) : p ∈ m := by
  induction m with
  | nil => simp [mDel] at h
  | cons q r ih =>
    obtain ⟨k, v⟩ := q
    simp only [mDel] at h
    split at h
    · exact List.mem_cons_of_mem _ h
    · rcases List.mem_cons.1 h with rfl | h
      · simp
      · exact List.mem_cons_of_mem _ (ih h)

/-- `mDel` keeps the canonical form. -/
theorem mSorted_mDel {m : List (Nat × α)} (n : Nat) (h : mSorted m = true) : mSorted (mDel m n) = true := by
  rw [mSorted_iff] at *
  induction m with
  | nil => simp [mDel]
  | cons q r ih =>
    obtain ⟨k, v⟩ := q
    obtain ⟨h1, h2⟩ := List.pairwise_cons.1 h
    simp only [mDel]
    split
    · exact h2
    · exact List.pairwise_cons.2 ⟨fun p hp => h1 p (mem_mDel hp), ih h2⟩

/-- `mSet` keeps the canonical form. -/
theorem mSorted_mSet [DecidableEq α] {m : NMap α} (d : α) (n : Nat) (x : α) (h : mSorted m = true) :
    mSorted (mSet d m n x) = true := by
  unfold mSet
  split
  · exact mSorted_mDel n h
  · exact mSorted_mPut n x h

/-- `mDelRange` keeps the canonical form. -/
theorem mSorted_mDelRange {m : List (Nat × α)} (lo hi : Nat) (h : mSorted m = true) : mSorted (mDelRange m lo hi) = true :=
  mSorted_filter _ h

/-- A fold of steps that keep the canonical form keeps it. -/
theorem mSorted_foldl {β : Type} (f : List (Nat × α) → β → List (Nat × α))
    (hf : ∀ m b, mSorted m = true → mSorted (f m b) = true) (l : List β) :
    ∀ m, mSorted m = true → mSorted (l.foldl f m) = true := by
  induction l with
  | nil => intro m h; exact h
  | cons b r ih => intro m h; exact ih _ (hf m b h)

/-- The keys of `mCells` are consecutive. -/
theorem mem_mCells {xs : List α} {a : Nat} {p : Nat × α} (h : p ∈ mCells a xs) : a ≤ p.1 ∧ p.1 < a + xs.length := by
  induction xs generalizing a with
  | nil => simp [mCells] at h
  | cons x r ih =>
    rcases List.mem_cons.1 h with rfl | h
    · simp
    · have := ih h
      simp only [List.length_cons]
      omega

/-- `mCells` is canonical. -/
theorem pairwise_mCells (xs : List α) : ∀ a, (mCells a xs).Pairwise fun p q => p.1 < q.1 := by
  induction xs with
  | nil => intro a; simp [mCells]
  | cons x r ih =>
    intro a
    refine List.pairwise_cons.2 ⟨fun p hp => ?_, ih (a + 1)⟩
    have := (mem_mCells hp).1
    simp
    omega

/-- `mPutRange` keeps the canonical form. -/
theorem mSorted_mPutRange {m : List (Nat × α)} (a : Nat) (xs : List α) (h : mSorted m = true) :
    mSorted (mPutRange m a xs) = true := by
  rw [mSorted_iff] at *
  refine List.pairwise_append.2 ⟨List.pairwise_append.2 ⟨h.filter _, pairwise_mCells xs a, ?_⟩, h.filter _, ?_⟩
  · intro p hp q hq
    have := (mem_mCells hq).1
    simp at hp
    omega
  · intro p hp q hq
    simp at hq
    rcases List.mem_append.1 hp with hp | hp
    · simp at hp; omega
    · have := (mem_mCells hp).2; omega

/-! ### Reading back -/

@[simp] theorem mFind_nil (n : Nat) : mFind ([] : List (Nat × α)) n = none := rfl

@[simp] theorem mGet_nil (d : α) (n : Nat) : mGet d [] n = d := rfl

/-- The value put is found. -/
@[simp] theorem mFind_mPut_self (m : List (Nat × α)) (n : Nat) (x : α) : mFind (mPut m n x) n = some x := by
  induction m with
  | nil => simp [mPut, mFind]
  | cons q r ih =>
    obtain ⟨k, v⟩ := q
    simp only [mPut]
    split
    · simp [mFind]
    · split
      · simp [mFind]
      · rename_i a b
        simp [mFind, a, b, ih]

/-- Another key is found as before. -/
theorem mFind_mPut_ne {m : List (Nat × α)} {n k : Nat} (x : α) (h : k ≠ n) : mFind (mPut m n x) k = mFind m k := by
  induction m with
  | nil => simp only [mPut, mFind]; split <;> simp [h]
  | cons q r ih =>
    obtain ⟨a, v⟩ := q
    simp only [mPut]
    split
    · rename_i ha
      simp only [mFind]
      split
      · rename_i hk
        rw [if_pos (show k < a by omega)]
      · rfl
    · split
      · rename_i hna
        subst hna
        simp [mFind, h]
      · simp only [mFind, ih]

/-- A key that lies below every key is not listed. -/
theorem mFind_of_lt {m : List (Nat × α)} {n : Nat} (h : ∀ p ∈ m, n < p.1) : mFind m n = none := by
  cases m with
  | nil => rfl
  | cons q r =>
    obtain ⟨k, v⟩ := q
    have := h (k, v) (by simp)
    simp only [mFind, if_pos this]

/-- The key deleted is not listed. -/
theorem mFind_mDel_self {m : List (Nat × α)} (n : Nat) (h : mSorted m = true) : mFind (mDel m n) n = none := by
  rw [mSorted_iff] at h
  induction m with
  | nil => rfl
  | cons q r ih =>
    obtain ⟨k, v⟩ := q
    obtain ⟨h1, h2⟩ := List.pairwise_cons.1 h
    simp only [mDel]
    split
    · rename_i hk
      subst hk
      exact mFind_of_lt h1
    · rename_i hk
      simp only [mFind, if_neg hk, ih h2]
      split <;> rfl

/-- Another key is found as before the deletion. -/
theorem mFind_mDel_ne {m : List (Nat × α)} {n k : Nat} (h : mSorted m = true) (hk : k ≠ n) :
    mFind (mDel m n) k = mFind m k := by
  rw [mSorted_iff] at h
  induction m with
  | nil => rfl
  | cons q r ih =>
    obtain ⟨a, v⟩ := q
    obtain ⟨h1, h2⟩ := List.pairwise_cons.1 h
    simp only [mDel]
    split
    · rename_i ha
      subst ha
      simp only [mFind, if_neg hk]
      split
      · rename_i hlt
        exact mFind_of_lt fun p hp => Nat.lt_trans hlt (h1 p hp)
      · rfl
    · simp only [mFind, ih h2]

/-- The value set is read back. -/
theorem mGet_mSet_self [DecidableEq α] (d : α) {m : NMap α} (n : Nat) (x : α) (h : mSorted m = true) :
    mGet d (mSet d m n x) n = x := by
  unfold mGet mSet
  split
  · rename_i hx
    rw [mFind_mDel_self n h, hx]
    rfl
  · rw [mFind_mPut_self]
    rfl

/-- Another key is read as before. -/
theorem mGet_mSet_ne [DecidableEq α] (d : α) {m : NMap α} {n k : Nat} (x : α) (h : mSorted m = true) (hk : k ≠ n) :
    mGet d (mSet d m n x) k = mGet d m k := by
  unfold mGet mSet
  split
  · rw [mFind_mDel_ne h hk]
  · rw [mFind_mPut_ne x hk]

/-- A value that is not the default is read back from any map. -/
theorem mGet_mSet_self_of_ne [DecidableEq α] (d : α) (m : NMap α) (n : Nat) {x : α} (hx : x ≠ d) :
    mGet d (mSet d m n x) n = x := by
  simp [mGet, mSet, hx]

/-- In a list of two parts whose first holds only smaller keys, the key is looked up in the second. -/
theorem mFind_append_of_lt {l r : List (Nat × α)} {n : Nat} (h : ∀ p ∈ l, p.1 < n) : mFind (l ++ r) n = mFind r n := by
  induction l with
  | nil => rfl
  | cons q l ih =>
    obtain ⟨k, v⟩ := q
    have hk : k < n := h (k, v) (by simp)
    have ih := ih fun p hp => h p (List.mem_cons_of_mem _ hp)
    simp only [List.cons_append, mFind, if_neg (Nat.not_lt.2 hk.le), if_neg (Nat.ne_of_gt hk), ih]

/-- The keys of a run of cells are found. -/
theorem mFind_mCells_append (xs : List α) (r : List (Nat × α)) : ∀ (a i : Nat), i < xs.length →
    mFind (mCells a xs ++ r) (a + i) = xs[i]? := by
  induction xs with
  | nil => intro a i h; simp at h
  | cons x l ih =>
    intro a i h
    cases i with
    | zero => simp [mCells, mFind]
    | succ i =>
      have := ih (a + 1) i (by simpa using h)
      rw [show a + 1 + i = a + (i + 1) by omega] at this
      simp only [mCells, List.cons_append, mFind]
      rw [if_neg (by omega), if_neg (by omega), this]
      simp

/-- The values of a range are read back. -/
theorem mFind_mPutRange_in (m : List (Nat × α)) (a : Nat) (xs : List α) {i : Nat} (h : i < xs.length) :
    mFind (mPutRange m a xs) (a + i) = xs[i]? := by
  unfold mPutRange
  rw [List.append_assoc, mFind_append_of_lt, mFind_mCells_append _ _ _ _ h]
  intro p hp
  simp at hp
  omega

/-- Filtering pairs whose keys are not `n` keeps what is found at `n` in a canonical map. -/
theorem mFind_filter {m : List (Nat × α)} (f : Nat × α → Bool) {n : Nat} (h : mSorted m = true)
    (hf : ∀ v, f (n, v) = true) : mFind (m.filter f) n = mFind m n := by
  rw [mSorted_iff] at h
  induction m with
  | nil => rfl
  | cons q r ih =>
    obtain ⟨k, v⟩ := q
    obtain ⟨h1, h2⟩ := List.pairwise_cons.1 h
    by_cases hk : f (k, v) = true
    · rw [List.filter_cons_of_pos hk]
      simp only [mFind, ih h2]
    · rw [List.filter_cons_of_neg hk, ih h2]
      simp only [mFind]
      split
      · rename_i hlt
        exact mFind_of_lt fun p hp => Nat.lt_trans hlt (h1 p hp)
      · rw [if_neg]
        rintro rfl
        exact hk (hf v)

/-- A pair beyond a canonical map's other pairs: the first part decides for small keys. -/
theorem mFind_append_of_gt {l r : List (Nat × α)} {n : Nat} (h : ∀ p ∈ r, n < p.1) : mFind (l ++ r) n = mFind l n := by
  induction l with
  | nil => exact mFind_of_lt h
  | cons q l ih =>
    obtain ⟨k, v⟩ := q
    simp only [List.cons_append, mFind, ih]

/-- Keys outside a range are found as before. -/
theorem mFind_mPutRange_out {m : List (Nat × α)} (a : Nat) (xs : List α) {n : Nat} (h : mSorted m = true)
    (hn : n < a ∨ a + xs.length ≤ n) : mFind (mPutRange m a xs) n = mFind m n := by
  unfold mPutRange
  rcases hn with hn | hn
  · rw [mFind_append_of_gt, mFind_append_of_gt, mFind_filter _ h]
    · intro v; simp [hn]
    · intro p hp; exact Nat.lt_of_lt_of_le hn (mem_mCells hp).1
    · intro p hp; simp at hp; omega
  · rw [mFind_append_of_lt, mFind_filter _ h]
    · intro v; simp [hn]
    · intro p hp
      rcases List.mem_append.1 hp with hp | hp
      · simp at hp; omega
      · have := (mem_mCells hp).2; omega

/-- Keys outside a deleted range are found as before. -/
theorem mFind_mDelRange_out {m : List (Nat × α)} {lo hi n : Nat} (h : mSorted m = true) (hn : n < lo ∨ hi ≤ n) :
    mFind (mDelRange m lo hi) n = mFind m n :=
  mFind_filter _ h fun _ => by simpa using hn

/-! ### Bytes -/

@[simp] theorem length_leBytes (n x : Nat) : (leBytes n x).length = n := by
  induction n generalizing x with
  | zero => rfl
  | succ n ih => simp [leBytes, ih]

/-- The little-endian number of a number's bytes is the number, cut to their width. -/
theorem leNat_leBytes (n x : Nat) : leNat (leBytes n x) = x % 2 ^ (8 * n) := by
  induction n generalizing x with
  | zero => simp [leBytes, leNat, Nat.mod_one]
  | succ n ih =>
    simp only [leBytes, leNat, ih, BitVec.toNat_ofNat]
    rw [show 8 * (n + 1) = 8 + 8 * n by omega, Nat.pow_add, Nat.mod_mul]
    simp

/-- Every number of `n` bytes is below 2^(8n). -/
theorem leNat_lt (bs : List Byte) : leNat bs < 2 ^ (8 * bs.length) := by
  induction bs with
  | nil => simp [leNat]
  | cons b r ih =>
    have := b.isLt
    simp only [leNat, List.length_cons]
    rw [show 8 * (r.length + 1) = 8 + 8 * r.length by omega, Nat.pow_add]
    omega

end Sys2Proof.Machine
end

