-- ==== Sys2Proof/Laws/State.lean ====
section
/-!
SUPPORT. Sys2Proof/Laws/State.lean: for each update of the state, one lemma for each field that it leaves.

A later proof reads a field of an updated state by `simp` and unfolds no update.
-/
namespace Sys2Proof.Machine

/-! ### putWale -/

@[simp] theorem State.putWale_clk (s : State) (w : Wale) : (s.putWale w).clk = s.clk := rfl
@[simp] theorem State.putWale_coreReset (s : State) (w : Wale) : (s.putWale w).coreReset = s.coreReset := rfl
@[simp] theorem State.putWale_agenda (s : State) (w : Wale) : (s.putWale w).agenda = s.agenda := rfl
@[simp] theorem State.putWale_free (s : State) (w : Wale) : (s.putWale w).free = s.free := rfl
@[simp] theorem State.putWale_nextId (s : State) (w : Wale) : (s.putWale w).nextId = s.nextId := rfl
@[simp] theorem State.putWale_cur (s : State) (w : Wale) : (s.putWale w).cur = s.cur := rfl
@[simp] theorem State.putWale_curBank (s : State) (w : Wale) : (s.putWale w).curBank = s.curBank := rfl
@[simp] theorem State.putWale_wgs (s : State) (w : Wale) : (s.putWale w).wgs = s.wgs := rfl
@[simp] theorem State.putWale_pipes (s : State) (w : Wale) : (s.putWale w).pipes = s.pipes := rfl
@[simp] theorem State.putWale_issuedAt (s : State) (w : Wale) : (s.putWale w).issuedAt = s.issuedAt := rfl
@[simp] theorem State.putWale_obs (s : State) (w : Wale) : (s.putWale w).obs = s.obs := rfl
@[simp] theorem State.putWale_mem (s : State) (w : Wale) : (s.putWale w).mem = s.mem := rfl
@[simp] theorem State.putWale_powerEpoch (s : State) (w : Wale) : (s.putWale w).powerEpoch = s.powerEpoch := rfl
@[simp] theorem State.putWale_pageEpoch (s : State) (w : Wale) : (s.putWale w).pageEpoch = s.pageEpoch := rfl
@[simp] theorem State.putWale_near (s : State) (w : Wale) : (s.putWale w).near = s.near := rfl
@[simp] theorem State.putWale_reqs (s : State) (w : Wale) : (s.putWale w).reqs = s.reqs := rfl
@[simp] theorem State.putWale_locks (s : State) (w : Wale) : (s.putWale w).locks = s.locks := rfl
@[simp] theorem State.putWale_rels (s : State) (w : Wale) : (s.putWale w).rels = s.rels := rfl
@[simp] theorem State.putWale_dirty (s : State) (w : Wale) : (s.putWale w).dirty = s.dirty := rfl
@[simp] theorem State.putWale_clean (s : State) (w : Wale) : (s.putWale w).clean = s.clean := rfl
@[simp] theorem State.putWale_relCount (s : State) (w : Wale) : (s.putWale w).relCount = s.relCount := rfl
@[simp] theorem State.putWale_pendApplied (s : State) (w : Wale) : (s.putWale w).pendApplied = s.pendApplied := rfl
@[simp] theorem State.putWale_wideFences (s : State) (w : Wale) : (s.putWale w).wideFences = s.wideFences := rfl
@[simp] theorem State.putWale_layPend (s : State) (w : Wale) : (s.putWale w).layPend = s.layPend := rfl
@[simp] theorem State.putWale_foldSlots (s : State) (w : Wale) : (s.putWale w).foldSlots = s.foldSlots := rfl
@[simp] theorem State.putWale_layouts (s : State) (w : Wale) : (s.putWale w).layouts = s.layouts := rfl
@[simp] theorem State.putWale_rings (s : State) (w : Wale) : (s.putWale w).rings = s.rings := rfl
@[simp] theorem State.putWale_tlbs (s : State) (w : Wale) : (s.putWale w).tlbs = s.tlbs := rfl
@[simp] theorem State.putWale_inval (s : State) (w : Wale) : (s.putWale w).inval = s.inval := rfl
@[simp] theorem State.putWale_regs (s : State) (w : Wale) : (s.putWale w).regs = s.regs := rfl
@[simp] theorem State.putWale_faultTail (s : State) (w : Wale) : (s.putWale w).faultTail = s.faultTail := rfl
@[simp] theorem State.putWale_faultHead (s : State) (w : Wale) : (s.putWale w).faultHead = s.faultHead := rfl
@[simp] theorem State.putWale_faultRing (s : State) (w : Wale) : (s.putWale w).faultRing = s.faultRing := rfl
@[simp] theorem State.putWale_faultHeld (s : State) (w : Wale) : (s.putWale w).faultHeld = s.faultHeld := rfl
@[simp] theorem State.putWale_events (s : State) (w : Wale) : (s.putWale w).events = s.events := rfl
@[simp] theorem State.putWale_evHeld (s : State) (w : Wale) : (s.putWale w).evHeld = s.evHeld := rfl
@[simp] theorem State.putWale_contHeld (s : State) (w : Wale) : (s.putWale w).contHeld = s.contHeld := rfl
@[simp] theorem State.putWale_ctxRecs (s : State) (w : Wale) : (s.putWale w).ctxRecs = s.ctxRecs := rfl
@[simp] theorem State.putWale_ctxStopped (s : State) (w : Wale) : (s.putWale w).ctxStopped = s.ctxStopped := rfl
@[simp] theorem State.putWale_weaverStopped (s : State) (w : Wale) : (s.putWale w).weaverStopped = s.weaverStopped := rfl
@[simp] theorem State.putWale_queueSt (s : State) (w : Wale) : (s.putWale w).queueSt = s.queueSt := rfl
@[simp] theorem State.putWale_launches (s : State) (w : Wale) : (s.putWale w).launches = s.launches := rfl
@[simp] theorem State.putWale_claims (s : State) (w : Wale) : (s.putWale w).claims = s.claims := rfl
@[simp] theorem State.putWale_wvPend (s : State) (w : Wale) : (s.putWale w).wvPend = s.wvPend := rfl
@[simp] theorem State.putWale_retired (s : State) (w : Wale) : (s.putWale w).retired = s.retired := rfl
@[simp] theorem State.putWale_lastServed (s : State) (w : Wale) : (s.putWale w).lastServed = s.lastServed := rfl
@[simp] theorem State.putWale_coreTasks (s : State) (w : Wale) : (s.putWale w).coreTasks = s.coreTasks := rfl
@[simp] theorem State.putWale_dieTasks (s : State) (w : Wale) : (s.putWale w).dieTasks = s.dieTasks := rfl
@[simp] theorem State.putWale_bankTasks (s : State) (w : Wale) : (s.putWale w).bankTasks = s.bankTasks := rfl
@[simp] theorem State.putWale_arrays (s : State) (w : Wale) : (s.putWale w).arrays = s.arrays := rfl
@[simp] theorem State.putWale_banks (s : State) (w : Wale) : (s.putWale w).banks = s.banks := rfl
@[simp] theorem State.putWale_images (s : State) (w : Wale) : (s.putWale w).images = s.images := rfl
@[simp] theorem State.putWale_forwards (s : State) (w : Wale) : (s.putWale w).forwards = s.forwards := rfl
@[simp] theorem State.putWale_dirtyGranules (s : State) (w : Wale) : (s.putWale w).dirtyGranules = s.dirtyGranules := rfl
@[simp] theorem State.putWale_slew (s : State) (w : Wale) : (s.putWale w).slew = s.slew := rfl
@[simp] theorem State.putWale_ckpt (s : State) (w : Wale) : (s.putWale w).ckpt = s.ckpt := rfl
@[simp] theorem State.putWale_links (s : State) (w : Wale) : (s.putWale w).links = s.links := rfl
@[simp] theorem State.putWale_msix (s : State) (w : Wale) : (s.putWale w).msix = s.msix := rfl
@[simp] theorem State.putWale_hostRead (s : State) (w : Wale) : (s.putWale w).hostRead = s.hostRead := rfl
@[simp] theorem State.putWale_peerFail (s : State) (w : Wale) : (s.putWale w).peerFail = s.peerFail := rfl
@[simp] theorem State.putWale_predone (s : State) (w : Wale) : (s.putWale w).predone = s.predone := rfl
@[simp] theorem State.putWale_preempting (s : State) (w : Wale) : (s.putWale w).preempting = s.preempting := rfl
@[simp] theorem State.putWale_boot (s : State) (w : Wale) : (s.putWale w).boot = s.boot := rfl
@[simp] theorem State.putWale_bootCnt (s : State) (w : Wale) : (s.putWale w).bootCnt = s.bootCnt := rfl
@[simp] theorem State.putWale_nextBlk (s : State) (w : Wale) : (s.putWale w).nextBlk = s.nextBlk := rfl
@[simp] theorem State.putWale_report (s : State) (w : Wale) : (s.putWale w).report = s.report := rfl
@[simp] theorem State.putWale_leavesLeft (s : State) (w : Wale) : (s.putWale w).leavesLeft = s.leavesLeft := rfl
@[simp] theorem State.putWale_bootAt (s : State) (w : Wale) : (s.putWale w).bootAt = s.bootAt := rfl
@[simp] theorem State.putWale_withheld (s : State) (w : Wale) : (s.putWale w).withheld = s.withheld := rfl
@[simp] theorem State.putWale_part (s : State) (w : Wale) : (s.putWale w).part = s.part := rfl
@[simp] theorem State.putWale_partSig (s : State) (w : Wale) : (s.putWale w).partSig = s.partSig := rfl
@[simp] theorem State.putWale_lost (s : State) (w : Wale) : (s.putWale w).lost = s.lost := rfl
@[simp] theorem State.putWale_firmware (s : State) (w : Wale) : (s.putWale w).firmware = s.firmware := rfl
@[simp] theorem State.putWale_attested (s : State) (w : Wale) : (s.putWale w).attested = s.attested := rfl
@[simp] theorem State.putWale_badWords (s : State) (w : Wale) : (s.putWale w).badWords = s.badWords := rfl
@[simp] theorem State.putWale_absent (s : State) (w : Wale) : (s.putWale w).absent = s.absent := rfl
@[simp] theorem State.putWale_power (s : State) (w : Wale) : (s.putWale w).power = s.power := rfl
@[simp] theorem State.putWale_idleSince (s : State) (w : Wale) : (s.putWale w).idleSince = s.idleSince := rfl
@[simp] theorem State.putWale_wakeAt (s : State) (w : Wale) : (s.putWale w).wakeAt = s.wakeAt := rfl
@[simp] theorem State.putWale_psDropped (s : State) (w : Wale) : (s.putWale w).psDropped = s.psDropped := rfl
@[simp] theorem State.putWale_oldWords (s : State) (w : Wale) : (s.putWale w).oldWords = s.oldWords := rfl
@[simp] theorem State.putWale_rewrites (s : State) (w : Wale) : (s.putWale w).rewrites = s.rewrites := rfl
@[simp] theorem State.putWale_wvIssues (s : State) (w : Wale) : (s.putWale w).wvIssues = s.wvIssues := rfl
@[simp] theorem State.putWale_absentHit (s : State) (w : Wale) : (s.putWale w).absentHit = s.absentHit := rfl

/-! ### onWale -/

@[simp] theorem State.onWale_clk (s : State) (id : Nat) (f : Wale → Wale) : (s.onWale id f).clk = s.clk := rfl
@[simp] theorem State.onWale_coreReset (s : State) (id : Nat) (f : Wale → Wale) : (s.onWale id f).coreReset = s.coreReset := rfl
@[simp] theorem State.onWale_agenda (s : State) (id : Nat) (f : Wale → Wale) : (s.onWale id f).agenda = s.agenda := rfl
@[simp] theorem State.onWale_free (s : State) (id : Nat) (f : Wale → Wale) : (s.onWale id f).free = s.free := rfl
@[simp] theorem State.onWale_nextId (s : State) (id : Nat) (f : Wale → Wale) : (s.onWale id f).nextId = s.nextId := rfl
@[simp] theorem State.onWale_cur (s : State) (id : Nat) (f : Wale → Wale) : (s.onWale id f).cur = s.cur := rfl
@[simp] theorem State.onWale_curBank (s : State) (id : Nat) (f : Wale → Wale) : (s.onWale id f).curBank = s.curBank := rfl
@[simp] theorem State.onWale_wgs (s : State) (id : Nat) (f : Wale → Wale) : (s.onWale id f).wgs = s.wgs := rfl
@[simp] theorem State.onWale_pipes (s : State) (id : Nat) (f : Wale → Wale) : (s.onWale id f).pipes = s.pipes := rfl
@[simp] theorem State.onWale_issuedAt (s : State) (id : Nat) (f : Wale → Wale) : (s.onWale id f).issuedAt = s.issuedAt := rfl
@[simp] theorem State.onWale_obs (s : State) (id : Nat) (f : Wale → Wale) : (s.onWale id f).obs = s.obs := rfl
@[simp] theorem State.onWale_mem (s : State) (id : Nat) (f : Wale → Wale) : (s.onWale id f).mem = s.mem := rfl
@[simp] theorem State.onWale_powerEpoch (s : State) (id : Nat) (f : Wale → Wale) : (s.onWale id f).powerEpoch = s.powerEpoch := rfl
@[simp] theorem State.onWale_pageEpoch (s : State) (id : Nat) (f : Wale → Wale) : (s.onWale id f).pageEpoch = s.pageEpoch := rfl
@[simp] theorem State.onWale_near (s : State) (id : Nat) (f : Wale → Wale) : (s.onWale id f).near = s.near := rfl
@[simp] theorem State.onWale_reqs (s : State) (id : Nat) (f : Wale → Wale) : (s.onWale id f).reqs = s.reqs := rfl
@[simp] theorem State.onWale_locks (s : State) (id : Nat) (f : Wale → Wale) : (s.onWale id f).locks = s.locks := rfl
@[simp] theorem State.onWale_rels (s : State) (id : Nat) (f : Wale → Wale) : (s.onWale id f).rels = s.rels := rfl
@[simp] theorem State.onWale_dirty (s : State) (id : Nat) (f : Wale → Wale) : (s.onWale id f).dirty = s.dirty := rfl
@[simp] theorem State.onWale_clean (s : State) (id : Nat) (f : Wale → Wale) : (s.onWale id f).clean = s.clean := rfl
@[simp] theorem State.onWale_relCount (s : State) (id : Nat) (f : Wale → Wale) : (s.onWale id f).relCount = s.relCount := rfl
@[simp] theorem State.onWale_pendApplied (s : State) (id : Nat) (f : Wale → Wale) : (s.onWale id f).pendApplied = s.pendApplied := rfl
@[simp] theorem State.onWale_wideFences (s : State) (id : Nat) (f : Wale → Wale) : (s.onWale id f).wideFences = s.wideFences := rfl
@[simp] theorem State.onWale_layPend (s : State) (id : Nat) (f : Wale → Wale) : (s.onWale id f).layPend = s.layPend := rfl
@[simp] theorem State.onWale_foldSlots (s : State) (id : Nat) (f : Wale → Wale) : (s.onWale id f).foldSlots = s.foldSlots := rfl
@[simp] theorem State.onWale_layouts (s : State) (id : Nat) (f : Wale → Wale) : (s.onWale id f).layouts = s.layouts := rfl
@[simp] theorem State.onWale_rings (s : State) (id : Nat) (f : Wale → Wale) : (s.onWale id f).rings = s.rings := rfl
@[simp] theorem State.onWale_tlbs (s : State) (id : Nat) (f : Wale → Wale) : (s.onWale id f).tlbs = s.tlbs := rfl
@[simp] theorem State.onWale_inval (s : State) (id : Nat) (f : Wale → Wale) : (s.onWale id f).inval = s.inval := rfl
@[simp] theorem State.onWale_regs (s : State) (id : Nat) (f : Wale → Wale) : (s.onWale id f).regs = s.regs := rfl
@[simp] theorem State.onWale_faultTail (s : State) (id : Nat) (f : Wale → Wale) : (s.onWale id f).faultTail = s.faultTail := rfl
@[simp] theorem State.onWale_faultHead (s : State) (id : Nat) (f : Wale → Wale) : (s.onWale id f).faultHead = s.faultHead := rfl
@[simp] theorem State.onWale_faultRing (s : State) (id : Nat) (f : Wale → Wale) : (s.onWale id f).faultRing = s.faultRing := rfl
@[simp] theorem State.onWale_faultHeld (s : State) (id : Nat) (f : Wale → Wale) : (s.onWale id f).faultHeld = s.faultHeld := rfl
@[simp] theorem State.onWale_events (s : State) (id : Nat) (f : Wale → Wale) : (s.onWale id f).events = s.events := rfl
@[simp] theorem State.onWale_evHeld (s : State) (id : Nat) (f : Wale → Wale) : (s.onWale id f).evHeld = s.evHeld := rfl
@[simp] theorem State.onWale_contHeld (s : State) (id : Nat) (f : Wale → Wale) : (s.onWale id f).contHeld = s.contHeld := rfl
@[simp] theorem State.onWale_ctxRecs (s : State) (id : Nat) (f : Wale → Wale) : (s.onWale id f).ctxRecs = s.ctxRecs := rfl
@[simp] theorem State.onWale_ctxStopped (s : State) (id : Nat) (f : Wale → Wale) : (s.onWale id f).ctxStopped = s.ctxStopped := rfl
@[simp] theorem State.onWale_weaverStopped (s : State) (id : Nat) (f : Wale → Wale) : (s.onWale id f).weaverStopped = s.weaverStopped := rfl
@[simp] theorem State.onWale_queueSt (s : State) (id : Nat) (f : Wale → Wale) : (s.onWale id f).queueSt = s.queueSt := rfl
@[simp] theorem State.onWale_launches (s : State) (id : Nat) (f : Wale → Wale) : (s.onWale id f).launches = s.launches := rfl
@[simp] theorem State.onWale_claims (s : State) (id : Nat) (f : Wale → Wale) : (s.onWale id f).claims = s.claims := rfl
@[simp] theorem State.onWale_wvPend (s : State) (id : Nat) (f : Wale → Wale) : (s.onWale id f).wvPend = s.wvPend := rfl
@[simp] theorem State.onWale_retired (s : State) (id : Nat) (f : Wale → Wale) : (s.onWale id f).retired = s.retired := rfl
@[simp] theorem State.onWale_lastServed (s : State) (id : Nat) (f : Wale → Wale) : (s.onWale id f).lastServed = s.lastServed := rfl
@[simp] theorem State.onWale_coreTasks (s : State) (id : Nat) (f : Wale → Wale) : (s.onWale id f).coreTasks = s.coreTasks := rfl
@[simp] theorem State.onWale_dieTasks (s : State) (id : Nat) (f : Wale → Wale) : (s.onWale id f).dieTasks = s.dieTasks := rfl
@[simp] theorem State.onWale_bankTasks (s : State) (id : Nat) (f : Wale → Wale) : (s.onWale id f).bankTasks = s.bankTasks := rfl
@[simp] theorem State.onWale_arrays (s : State) (id : Nat) (f : Wale → Wale) : (s.onWale id f).arrays = s.arrays := rfl
@[simp] theorem State.onWale_banks (s : State) (id : Nat) (f : Wale → Wale) : (s.onWale id f).banks = s.banks := rfl
@[simp] theorem State.onWale_images (s : State) (id : Nat) (f : Wale → Wale) : (s.onWale id f).images = s.images := rfl
@[simp] theorem State.onWale_forwards (s : State) (id : Nat) (f : Wale → Wale) : (s.onWale id f).forwards = s.forwards := rfl
@[simp] theorem State.onWale_dirtyGranules (s : State) (id : Nat) (f : Wale → Wale) : (s.onWale id f).dirtyGranules = s.dirtyGranules := rfl
@[simp] theorem State.onWale_slew (s : State) (id : Nat) (f : Wale → Wale) : (s.onWale id f).slew = s.slew := rfl
@[simp] theorem State.onWale_ckpt (s : State) (id : Nat) (f : Wale → Wale) : (s.onWale id f).ckpt = s.ckpt := rfl
@[simp] theorem State.onWale_links (s : State) (id : Nat) (f : Wale → Wale) : (s.onWale id f).links = s.links := rfl
@[simp] theorem State.onWale_msix (s : State) (id : Nat) (f : Wale → Wale) : (s.onWale id f).msix = s.msix := rfl
@[simp] theorem State.onWale_hostRead (s : State) (id : Nat) (f : Wale → Wale) : (s.onWale id f).hostRead = s.hostRead := rfl
@[simp] theorem State.onWale_peerFail (s : State) (id : Nat) (f : Wale → Wale) : (s.onWale id f).peerFail = s.peerFail := rfl
@[simp] theorem State.onWale_predone (s : State) (id : Nat) (f : Wale → Wale) : (s.onWale id f).predone = s.predone := rfl
@[simp] theorem State.onWale_preempting (s : State) (id : Nat) (f : Wale → Wale) : (s.onWale id f).preempting = s.preempting := rfl
@[simp] theorem State.onWale_boot (s : State) (id : Nat) (f : Wale → Wale) : (s.onWale id f).boot = s.boot := rfl
@[simp] theorem State.onWale_bootCnt (s : State) (id : Nat) (f : Wale → Wale) : (s.onWale id f).bootCnt = s.bootCnt := rfl
@[simp] theorem State.onWale_nextBlk (s : State) (id : Nat) (f : Wale → Wale) : (s.onWale id f).nextBlk = s.nextBlk := rfl
@[simp] theorem State.onWale_report (s : State) (id : Nat) (f : Wale → Wale) : (s.onWale id f).report = s.report := rfl
@[simp] theorem State.onWale_leavesLeft (s : State) (id : Nat) (f : Wale → Wale) : (s.onWale id f).leavesLeft = s.leavesLeft := rfl
@[simp] theorem State.onWale_bootAt (s : State) (id : Nat) (f : Wale → Wale) : (s.onWale id f).bootAt = s.bootAt := rfl
@[simp] theorem State.onWale_withheld (s : State) (id : Nat) (f : Wale → Wale) : (s.onWale id f).withheld = s.withheld := rfl
@[simp] theorem State.onWale_part (s : State) (id : Nat) (f : Wale → Wale) : (s.onWale id f).part = s.part := rfl
@[simp] theorem State.onWale_partSig (s : State) (id : Nat) (f : Wale → Wale) : (s.onWale id f).partSig = s.partSig := rfl
@[simp] theorem State.onWale_lost (s : State) (id : Nat) (f : Wale → Wale) : (s.onWale id f).lost = s.lost := rfl
@[simp] theorem State.onWale_firmware (s : State) (id : Nat) (f : Wale → Wale) : (s.onWale id f).firmware = s.firmware := rfl
@[simp] theorem State.onWale_attested (s : State) (id : Nat) (f : Wale → Wale) : (s.onWale id f).attested = s.attested := rfl
@[simp] theorem State.onWale_badWords (s : State) (id : Nat) (f : Wale → Wale) : (s.onWale id f).badWords = s.badWords := rfl
@[simp] theorem State.onWale_absent (s : State) (id : Nat) (f : Wale → Wale) : (s.onWale id f).absent = s.absent := rfl
@[simp] theorem State.onWale_power (s : State) (id : Nat) (f : Wale → Wale) : (s.onWale id f).power = s.power := rfl
@[simp] theorem State.onWale_idleSince (s : State) (id : Nat) (f : Wale → Wale) : (s.onWale id f).idleSince = s.idleSince := rfl
@[simp] theorem State.onWale_wakeAt (s : State) (id : Nat) (f : Wale → Wale) : (s.onWale id f).wakeAt = s.wakeAt := rfl
@[simp] theorem State.onWale_psDropped (s : State) (id : Nat) (f : Wale → Wale) : (s.onWale id f).psDropped = s.psDropped := rfl
@[simp] theorem State.onWale_oldWords (s : State) (id : Nat) (f : Wale → Wale) : (s.onWale id f).oldWords = s.oldWords := rfl
@[simp] theorem State.onWale_rewrites (s : State) (id : Nat) (f : Wale → Wale) : (s.onWale id f).rewrites = s.rewrites := rfl
@[simp] theorem State.onWale_wvIssues (s : State) (id : Nat) (f : Wale → Wale) : (s.onWale id f).wvIssues = s.wvIssues := rfl
@[simp] theorem State.onWale_absentHit (s : State) (id : Nat) (f : Wale → Wale) : (s.onWale id f).absentHit = s.absentHit := rfl

/-! ### putWg -/

@[simp] theorem State.putWg_clk (s : State) (g : Workgroup) : (s.putWg g).clk = s.clk := rfl
@[simp] theorem State.putWg_coreReset (s : State) (g : Workgroup) : (s.putWg g).coreReset = s.coreReset := rfl
@[simp] theorem State.putWg_agenda (s : State) (g : Workgroup) : (s.putWg g).agenda = s.agenda := rfl
@[simp] theorem State.putWg_free (s : State) (g : Workgroup) : (s.putWg g).free = s.free := rfl
@[simp] theorem State.putWg_nextId (s : State) (g : Workgroup) : (s.putWg g).nextId = s.nextId := rfl
@[simp] theorem State.putWg_cur (s : State) (g : Workgroup) : (s.putWg g).cur = s.cur := rfl
@[simp] theorem State.putWg_curBank (s : State) (g : Workgroup) : (s.putWg g).curBank = s.curBank := rfl
@[simp] theorem State.putWg_wales (s : State) (g : Workgroup) : (s.putWg g).wales = s.wales := rfl
@[simp] theorem State.putWg_pipes (s : State) (g : Workgroup) : (s.putWg g).pipes = s.pipes := rfl
@[simp] theorem State.putWg_issuedAt (s : State) (g : Workgroup) : (s.putWg g).issuedAt = s.issuedAt := rfl
@[simp] theorem State.putWg_obs (s : State) (g : Workgroup) : (s.putWg g).obs = s.obs := rfl
@[simp] theorem State.putWg_mem (s : State) (g : Workgroup) : (s.putWg g).mem = s.mem := rfl
@[simp] theorem State.putWg_powerEpoch (s : State) (g : Workgroup) : (s.putWg g).powerEpoch = s.powerEpoch := rfl
@[simp] theorem State.putWg_pageEpoch (s : State) (g : Workgroup) : (s.putWg g).pageEpoch = s.pageEpoch := rfl
@[simp] theorem State.putWg_near (s : State) (g : Workgroup) : (s.putWg g).near = s.near := rfl
@[simp] theorem State.putWg_reqs (s : State) (g : Workgroup) : (s.putWg g).reqs = s.reqs := rfl
@[simp] theorem State.putWg_locks (s : State) (g : Workgroup) : (s.putWg g).locks = s.locks := rfl
@[simp] theorem State.putWg_rels (s : State) (g : Workgroup) : (s.putWg g).rels = s.rels := rfl
@[simp] theorem State.putWg_dirty (s : State) (g : Workgroup) : (s.putWg g).dirty = s.dirty := rfl
@[simp] theorem State.putWg_clean (s : State) (g : Workgroup) : (s.putWg g).clean = s.clean := rfl
@[simp] theorem State.putWg_relCount (s : State) (g : Workgroup) : (s.putWg g).relCount = s.relCount := rfl
@[simp] theorem State.putWg_pendApplied (s : State) (g : Workgroup) : (s.putWg g).pendApplied = s.pendApplied := rfl
@[simp] theorem State.putWg_wideFences (s : State) (g : Workgroup) : (s.putWg g).wideFences = s.wideFences := rfl
@[simp] theorem State.putWg_layPend (s : State) (g : Workgroup) : (s.putWg g).layPend = s.layPend := rfl
@[simp] theorem State.putWg_foldSlots (s : State) (g : Workgroup) : (s.putWg g).foldSlots = s.foldSlots := rfl
@[simp] theorem State.putWg_layouts (s : State) (g : Workgroup) : (s.putWg g).layouts = s.layouts := rfl
@[simp] theorem State.putWg_rings (s : State) (g : Workgroup) : (s.putWg g).rings = s.rings := rfl
@[simp] theorem State.putWg_tlbs (s : State) (g : Workgroup) : (s.putWg g).tlbs = s.tlbs := rfl
@[simp] theorem State.putWg_inval (s : State) (g : Workgroup) : (s.putWg g).inval = s.inval := rfl
@[simp] theorem State.putWg_regs (s : State) (g : Workgroup) : (s.putWg g).regs = s.regs := rfl
@[simp] theorem State.putWg_faultTail (s : State) (g : Workgroup) : (s.putWg g).faultTail = s.faultTail := rfl
@[simp] theorem State.putWg_faultHead (s : State) (g : Workgroup) : (s.putWg g).faultHead = s.faultHead := rfl
@[simp] theorem State.putWg_faultRing (s : State) (g : Workgroup) : (s.putWg g).faultRing = s.faultRing := rfl
@[simp] theorem State.putWg_faultHeld (s : State) (g : Workgroup) : (s.putWg g).faultHeld = s.faultHeld := rfl
@[simp] theorem State.putWg_events (s : State) (g : Workgroup) : (s.putWg g).events = s.events := rfl
@[simp] theorem State.putWg_evHeld (s : State) (g : Workgroup) : (s.putWg g).evHeld = s.evHeld := rfl
@[simp] theorem State.putWg_contHeld (s : State) (g : Workgroup) : (s.putWg g).contHeld = s.contHeld := rfl
@[simp] theorem State.putWg_ctxRecs (s : State) (g : Workgroup) : (s.putWg g).ctxRecs = s.ctxRecs := rfl
@[simp] theorem State.putWg_ctxStopped (s : State) (g : Workgroup) : (s.putWg g).ctxStopped = s.ctxStopped := rfl
@[simp] theorem State.putWg_weaverStopped (s : State) (g : Workgroup) : (s.putWg g).weaverStopped = s.weaverStopped := rfl
@[simp] theorem State.putWg_queueSt (s : State) (g : Workgroup) : (s.putWg g).queueSt = s.queueSt := rfl
@[simp] theorem State.putWg_launches (s : State) (g : Workgroup) : (s.putWg g).launches = s.launches := rfl
@[simp] theorem State.putWg_claims (s : State) (g : Workgroup) : (s.putWg g).claims = s.claims := rfl
@[simp] theorem State.putWg_wvPend (s : State) (g : Workgroup) : (s.putWg g).wvPend = s.wvPend := rfl
@[simp] theorem State.putWg_retired (s : State) (g : Workgroup) : (s.putWg g).retired = s.retired := rfl
@[simp] theorem State.putWg_lastServed (s : State) (g : Workgroup) : (s.putWg g).lastServed = s.lastServed := rfl
@[simp] theorem State.putWg_coreTasks (s : State) (g : Workgroup) : (s.putWg g).coreTasks = s.coreTasks := rfl
@[simp] theorem State.putWg_dieTasks (s : State) (g : Workgroup) : (s.putWg g).dieTasks = s.dieTasks := rfl
@[simp] theorem State.putWg_bankTasks (s : State) (g : Workgroup) : (s.putWg g).bankTasks = s.bankTasks := rfl
@[simp] theorem State.putWg_arrays (s : State) (g : Workgroup) : (s.putWg g).arrays = s.arrays := rfl
@[simp] theorem State.putWg_banks (s : State) (g : Workgroup) : (s.putWg g).banks = s.banks := rfl
@[simp] theorem State.putWg_images (s : State) (g : Workgroup) : (s.putWg g).images = s.images := rfl
@[simp] theorem State.putWg_forwards (s : State) (g : Workgroup) : (s.putWg g).forwards = s.forwards := rfl
@[simp] theorem State.putWg_dirtyGranules (s : State) (g : Workgroup) : (s.putWg g).dirtyGranules = s.dirtyGranules := rfl
@[simp] theorem State.putWg_slew (s : State) (g : Workgroup) : (s.putWg g).slew = s.slew := rfl
@[simp] theorem State.putWg_ckpt (s : State) (g : Workgroup) : (s.putWg g).ckpt = s.ckpt := rfl
@[simp] theorem State.putWg_links (s : State) (g : Workgroup) : (s.putWg g).links = s.links := rfl
@[simp] theorem State.putWg_msix (s : State) (g : Workgroup) : (s.putWg g).msix = s.msix := rfl
@[simp] theorem State.putWg_hostRead (s : State) (g : Workgroup) : (s.putWg g).hostRead = s.hostRead := rfl
@[simp] theorem State.putWg_peerFail (s : State) (g : Workgroup) : (s.putWg g).peerFail = s.peerFail := rfl
@[simp] theorem State.putWg_predone (s : State) (g : Workgroup) : (s.putWg g).predone = s.predone := rfl
@[simp] theorem State.putWg_preempting (s : State) (g : Workgroup) : (s.putWg g).preempting = s.preempting := rfl
@[simp] theorem State.putWg_boot (s : State) (g : Workgroup) : (s.putWg g).boot = s.boot := rfl
@[simp] theorem State.putWg_bootCnt (s : State) (g : Workgroup) : (s.putWg g).bootCnt = s.bootCnt := rfl
@[simp] theorem State.putWg_nextBlk (s : State) (g : Workgroup) : (s.putWg g).nextBlk = s.nextBlk := rfl
@[simp] theorem State.putWg_report (s : State) (g : Workgroup) : (s.putWg g).report = s.report := rfl
@[simp] theorem State.putWg_leavesLeft (s : State) (g : Workgroup) : (s.putWg g).leavesLeft = s.leavesLeft := rfl
@[simp] theorem State.putWg_bootAt (s : State) (g : Workgroup) : (s.putWg g).bootAt = s.bootAt := rfl
@[simp] theorem State.putWg_withheld (s : State) (g : Workgroup) : (s.putWg g).withheld = s.withheld := rfl
@[simp] theorem State.putWg_part (s : State) (g : Workgroup) : (s.putWg g).part = s.part := rfl
@[simp] theorem State.putWg_partSig (s : State) (g : Workgroup) : (s.putWg g).partSig = s.partSig := rfl
@[simp] theorem State.putWg_lost (s : State) (g : Workgroup) : (s.putWg g).lost = s.lost := rfl
@[simp] theorem State.putWg_firmware (s : State) (g : Workgroup) : (s.putWg g).firmware = s.firmware := rfl
@[simp] theorem State.putWg_attested (s : State) (g : Workgroup) : (s.putWg g).attested = s.attested := rfl
@[simp] theorem State.putWg_badWords (s : State) (g : Workgroup) : (s.putWg g).badWords = s.badWords := rfl
@[simp] theorem State.putWg_absent (s : State) (g : Workgroup) : (s.putWg g).absent = s.absent := rfl
@[simp] theorem State.putWg_power (s : State) (g : Workgroup) : (s.putWg g).power = s.power := rfl
@[simp] theorem State.putWg_idleSince (s : State) (g : Workgroup) : (s.putWg g).idleSince = s.idleSince := rfl
@[simp] theorem State.putWg_wakeAt (s : State) (g : Workgroup) : (s.putWg g).wakeAt = s.wakeAt := rfl
@[simp] theorem State.putWg_psDropped (s : State) (g : Workgroup) : (s.putWg g).psDropped = s.psDropped := rfl
@[simp] theorem State.putWg_oldWords (s : State) (g : Workgroup) : (s.putWg g).oldWords = s.oldWords := rfl
@[simp] theorem State.putWg_rewrites (s : State) (g : Workgroup) : (s.putWg g).rewrites = s.rewrites := rfl
@[simp] theorem State.putWg_wvIssues (s : State) (g : Workgroup) : (s.putWg g).wvIssues = s.wvIssues := rfl
@[simp] theorem State.putWg_absentHit (s : State) (g : Workgroup) : (s.putWg g).absentHit = s.absentHit := rfl

/-! ### onWg -/

@[simp] theorem State.onWg_clk (s : State) (id : Nat) (f : Workgroup → Workgroup) : (s.onWg id f).clk = s.clk := rfl
@[simp] theorem State.onWg_coreReset (s : State) (id : Nat) (f : Workgroup → Workgroup) : (s.onWg id f).coreReset = s.coreReset := rfl
@[simp] theorem State.onWg_agenda (s : State) (id : Nat) (f : Workgroup → Workgroup) : (s.onWg id f).agenda = s.agenda := rfl
@[simp] theorem State.onWg_free (s : State) (id : Nat) (f : Workgroup → Workgroup) : (s.onWg id f).free = s.free := rfl
@[simp] theorem State.onWg_nextId (s : State) (id : Nat) (f : Workgroup → Workgroup) : (s.onWg id f).nextId = s.nextId := rfl
@[simp] theorem State.onWg_cur (s : State) (id : Nat) (f : Workgroup → Workgroup) : (s.onWg id f).cur = s.cur := rfl
@[simp] theorem State.onWg_curBank (s : State) (id : Nat) (f : Workgroup → Workgroup) : (s.onWg id f).curBank = s.curBank := rfl
@[simp] theorem State.onWg_wales (s : State) (id : Nat) (f : Workgroup → Workgroup) : (s.onWg id f).wales = s.wales := rfl
@[simp] theorem State.onWg_pipes (s : State) (id : Nat) (f : Workgroup → Workgroup) : (s.onWg id f).pipes = s.pipes := rfl
@[simp] theorem State.onWg_issuedAt (s : State) (id : Nat) (f : Workgroup → Workgroup) : (s.onWg id f).issuedAt = s.issuedAt := rfl
@[simp] theorem State.onWg_obs (s : State) (id : Nat) (f : Workgroup → Workgroup) : (s.onWg id f).obs = s.obs := rfl
@[simp] theorem State.onWg_mem (s : State) (id : Nat) (f : Workgroup → Workgroup) : (s.onWg id f).mem = s.mem := rfl
@[simp] theorem State.onWg_powerEpoch (s : State) (id : Nat) (f : Workgroup → Workgroup) : (s.onWg id f).powerEpoch = s.powerEpoch := rfl
@[simp] theorem State.onWg_pageEpoch (s : State) (id : Nat) (f : Workgroup → Workgroup) : (s.onWg id f).pageEpoch = s.pageEpoch := rfl
@[simp] theorem State.onWg_near (s : State) (id : Nat) (f : Workgroup → Workgroup) : (s.onWg id f).near = s.near := rfl
@[simp] theorem State.onWg_reqs (s : State) (id : Nat) (f : Workgroup → Workgroup) : (s.onWg id f).reqs = s.reqs := rfl
@[simp] theorem State.onWg_locks (s : State) (id : Nat) (f : Workgroup → Workgroup) : (s.onWg id f).locks = s.locks := rfl
@[simp] theorem State.onWg_rels (s : State) (id : Nat) (f : Workgroup → Workgroup) : (s.onWg id f).rels = s.rels := rfl
@[simp] theorem State.onWg_dirty (s : State) (id : Nat) (f : Workgroup → Workgroup) : (s.onWg id f).dirty = s.dirty := rfl
@[simp] theorem State.onWg_clean (s : State) (id : Nat) (f : Workgroup → Workgroup) : (s.onWg id f).clean = s.clean := rfl
@[simp] theorem State.onWg_relCount (s : State) (id : Nat) (f : Workgroup → Workgroup) : (s.onWg id f).relCount = s.relCount := rfl
@[simp] theorem State.onWg_pendApplied (s : State) (id : Nat) (f : Workgroup → Workgroup) : (s.onWg id f).pendApplied = s.pendApplied := rfl
@[simp] theorem State.onWg_wideFences (s : State) (id : Nat) (f : Workgroup → Workgroup) : (s.onWg id f).wideFences = s.wideFences := rfl
@[simp] theorem State.onWg_layPend (s : State) (id : Nat) (f : Workgroup → Workgroup) : (s.onWg id f).layPend = s.layPend := rfl
@[simp] theorem State.onWg_foldSlots (s : State) (id : Nat) (f : Workgroup → Workgroup) : (s.onWg id f).foldSlots = s.foldSlots := rfl
@[simp] theorem State.onWg_layouts (s : State) (id : Nat) (f : Workgroup → Workgroup) : (s.onWg id f).layouts = s.layouts := rfl
@[simp] theorem State.onWg_rings (s : State) (id : Nat) (f : Workgroup → Workgroup) : (s.onWg id f).rings = s.rings := rfl
@[simp] theorem State.onWg_tlbs (s : State) (id : Nat) (f : Workgroup → Workgroup) : (s.onWg id f).tlbs = s.tlbs := rfl
@[simp] theorem State.onWg_inval (s : State) (id : Nat) (f : Workgroup → Workgroup) : (s.onWg id f).inval = s.inval := rfl
@[simp] theorem State.onWg_regs (s : State) (id : Nat) (f : Workgroup → Workgroup) : (s.onWg id f).regs = s.regs := rfl
@[simp] theorem State.onWg_faultTail (s : State) (id : Nat) (f : Workgroup → Workgroup) : (s.onWg id f).faultTail = s.faultTail := rfl
@[simp] theorem State.onWg_faultHead (s : State) (id : Nat) (f : Workgroup → Workgroup) : (s.onWg id f).faultHead = s.faultHead := rfl
@[simp] theorem State.onWg_faultRing (s : State) (id : Nat) (f : Workgroup → Workgroup) : (s.onWg id f).faultRing = s.faultRing := rfl
@[simp] theorem State.onWg_faultHeld (s : State) (id : Nat) (f : Workgroup → Workgroup) : (s.onWg id f).faultHeld = s.faultHeld := rfl
@[simp] theorem State.onWg_events (s : State) (id : Nat) (f : Workgroup → Workgroup) : (s.onWg id f).events = s.events := rfl
@[simp] theorem State.onWg_evHeld (s : State) (id : Nat) (f : Workgroup → Workgroup) : (s.onWg id f).evHeld = s.evHeld := rfl
@[simp] theorem State.onWg_contHeld (s : State) (id : Nat) (f : Workgroup → Workgroup) : (s.onWg id f).contHeld = s.contHeld := rfl
@[simp] theorem State.onWg_ctxRecs (s : State) (id : Nat) (f : Workgroup → Workgroup) : (s.onWg id f).ctxRecs = s.ctxRecs := rfl
@[simp] theorem State.onWg_ctxStopped (s : State) (id : Nat) (f : Workgroup → Workgroup) : (s.onWg id f).ctxStopped = s.ctxStopped := rfl
@[simp] theorem State.onWg_weaverStopped (s : State) (id : Nat) (f : Workgroup → Workgroup) : (s.onWg id f).weaverStopped = s.weaverStopped := rfl
@[simp] theorem State.onWg_queueSt (s : State) (id : Nat) (f : Workgroup → Workgroup) : (s.onWg id f).queueSt = s.queueSt := rfl
@[simp] theorem State.onWg_launches (s : State) (id : Nat) (f : Workgroup → Workgroup) : (s.onWg id f).launches = s.launches := rfl
@[simp] theorem State.onWg_claims (s : State) (id : Nat) (f : Workgroup → Workgroup) : (s.onWg id f).claims = s.claims := rfl
@[simp] theorem State.onWg_wvPend (s : State) (id : Nat) (f : Workgroup → Workgroup) : (s.onWg id f).wvPend = s.wvPend := rfl
@[simp] theorem State.onWg_retired (s : State) (id : Nat) (f : Workgroup → Workgroup) : (s.onWg id f).retired = s.retired := rfl
@[simp] theorem State.onWg_lastServed (s : State) (id : Nat) (f : Workgroup → Workgroup) : (s.onWg id f).lastServed = s.lastServed := rfl
@[simp] theorem State.onWg_coreTasks (s : State) (id : Nat) (f : Workgroup → Workgroup) : (s.onWg id f).coreTasks = s.coreTasks := rfl
@[simp] theorem State.onWg_dieTasks (s : State) (id : Nat) (f : Workgroup → Workgroup) : (s.onWg id f).dieTasks = s.dieTasks := rfl
@[simp] theorem State.onWg_bankTasks (s : State) (id : Nat) (f : Workgroup → Workgroup) : (s.onWg id f).bankTasks = s.bankTasks := rfl
@[simp] theorem State.onWg_arrays (s : State) (id : Nat) (f : Workgroup → Workgroup) : (s.onWg id f).arrays = s.arrays := rfl
@[simp] theorem State.onWg_banks (s : State) (id : Nat) (f : Workgroup → Workgroup) : (s.onWg id f).banks = s.banks := rfl
@[simp] theorem State.onWg_images (s : State) (id : Nat) (f : Workgroup → Workgroup) : (s.onWg id f).images = s.images := rfl
@[simp] theorem State.onWg_forwards (s : State) (id : Nat) (f : Workgroup → Workgroup) : (s.onWg id f).forwards = s.forwards := rfl
@[simp] theorem State.onWg_dirtyGranules (s : State) (id : Nat) (f : Workgroup → Workgroup) : (s.onWg id f).dirtyGranules = s.dirtyGranules := rfl
@[simp] theorem State.onWg_slew (s : State) (id : Nat) (f : Workgroup → Workgroup) : (s.onWg id f).slew = s.slew := rfl
@[simp] theorem State.onWg_ckpt (s : State) (id : Nat) (f : Workgroup → Workgroup) : (s.onWg id f).ckpt = s.ckpt := rfl
@[simp] theorem State.onWg_links (s : State) (id : Nat) (f : Workgroup → Workgroup) : (s.onWg id f).links = s.links := rfl
@[simp] theorem State.onWg_msix (s : State) (id : Nat) (f : Workgroup → Workgroup) : (s.onWg id f).msix = s.msix := rfl
@[simp] theorem State.onWg_hostRead (s : State) (id : Nat) (f : Workgroup → Workgroup) : (s.onWg id f).hostRead = s.hostRead := rfl
@[simp] theorem State.onWg_peerFail (s : State) (id : Nat) (f : Workgroup → Workgroup) : (s.onWg id f).peerFail = s.peerFail := rfl
@[simp] theorem State.onWg_predone (s : State) (id : Nat) (f : Workgroup → Workgroup) : (s.onWg id f).predone = s.predone := rfl
@[simp] theorem State.onWg_preempting (s : State) (id : Nat) (f : Workgroup → Workgroup) : (s.onWg id f).preempting = s.preempting := rfl
@[simp] theorem State.onWg_boot (s : State) (id : Nat) (f : Workgroup → Workgroup) : (s.onWg id f).boot = s.boot := rfl
@[simp] theorem State.onWg_bootCnt (s : State) (id : Nat) (f : Workgroup → Workgroup) : (s.onWg id f).bootCnt = s.bootCnt := rfl
@[simp] theorem State.onWg_nextBlk (s : State) (id : Nat) (f : Workgroup → Workgroup) : (s.onWg id f).nextBlk = s.nextBlk := rfl
@[simp] theorem State.onWg_report (s : State) (id : Nat) (f : Workgroup → Workgroup) : (s.onWg id f).report = s.report := rfl
@[simp] theorem State.onWg_leavesLeft (s : State) (id : Nat) (f : Workgroup → Workgroup) : (s.onWg id f).leavesLeft = s.leavesLeft := rfl
@[simp] theorem State.onWg_bootAt (s : State) (id : Nat) (f : Workgroup → Workgroup) : (s.onWg id f).bootAt = s.bootAt := rfl
@[simp] theorem State.onWg_withheld (s : State) (id : Nat) (f : Workgroup → Workgroup) : (s.onWg id f).withheld = s.withheld := rfl
@[simp] theorem State.onWg_part (s : State) (id : Nat) (f : Workgroup → Workgroup) : (s.onWg id f).part = s.part := rfl
@[simp] theorem State.onWg_partSig (s : State) (id : Nat) (f : Workgroup → Workgroup) : (s.onWg id f).partSig = s.partSig := rfl
@[simp] theorem State.onWg_lost (s : State) (id : Nat) (f : Workgroup → Workgroup) : (s.onWg id f).lost = s.lost := rfl
@[simp] theorem State.onWg_firmware (s : State) (id : Nat) (f : Workgroup → Workgroup) : (s.onWg id f).firmware = s.firmware := rfl
@[simp] theorem State.onWg_attested (s : State) (id : Nat) (f : Workgroup → Workgroup) : (s.onWg id f).attested = s.attested := rfl
@[simp] theorem State.onWg_badWords (s : State) (id : Nat) (f : Workgroup → Workgroup) : (s.onWg id f).badWords = s.badWords := rfl
@[simp] theorem State.onWg_absent (s : State) (id : Nat) (f : Workgroup → Workgroup) : (s.onWg id f).absent = s.absent := rfl
@[simp] theorem State.onWg_power (s : State) (id : Nat) (f : Workgroup → Workgroup) : (s.onWg id f).power = s.power := rfl
@[simp] theorem State.onWg_idleSince (s : State) (id : Nat) (f : Workgroup → Workgroup) : (s.onWg id f).idleSince = s.idleSince := rfl
@[simp] theorem State.onWg_wakeAt (s : State) (id : Nat) (f : Workgroup → Workgroup) : (s.onWg id f).wakeAt = s.wakeAt := rfl
@[simp] theorem State.onWg_psDropped (s : State) (id : Nat) (f : Workgroup → Workgroup) : (s.onWg id f).psDropped = s.psDropped := rfl
@[simp] theorem State.onWg_oldWords (s : State) (id : Nat) (f : Workgroup → Workgroup) : (s.onWg id f).oldWords = s.oldWords := rfl
@[simp] theorem State.onWg_rewrites (s : State) (id : Nat) (f : Workgroup → Workgroup) : (s.onWg id f).rewrites = s.rewrites := rfl
@[simp] theorem State.onWg_wvIssues (s : State) (id : Nat) (f : Workgroup → Workgroup) : (s.onWg id f).wvIssues = s.wvIssues := rfl
@[simp] theorem State.onWg_absentHit (s : State) (id : Nat) (f : Workgroup → Workgroup) : (s.onWg id f).absentHit = s.absentHit := rfl

/-! ### putBank -/

@[simp] theorem State.putBank_clk (s : State) (b : BankCall) : (s.putBank b).clk = s.clk := rfl
@[simp] theorem State.putBank_coreReset (s : State) (b : BankCall) : (s.putBank b).coreReset = s.coreReset := rfl
@[simp] theorem State.putBank_agenda (s : State) (b : BankCall) : (s.putBank b).agenda = s.agenda := rfl
@[simp] theorem State.putBank_free (s : State) (b : BankCall) : (s.putBank b).free = s.free := rfl
@[simp] theorem State.putBank_nextId (s : State) (b : BankCall) : (s.putBank b).nextId = s.nextId := rfl
@[simp] theorem State.putBank_cur (s : State) (b : BankCall) : (s.putBank b).cur = s.cur := rfl
@[simp] theorem State.putBank_curBank (s : State) (b : BankCall) : (s.putBank b).curBank = s.curBank := rfl
@[simp] theorem State.putBank_wales (s : State) (b : BankCall) : (s.putBank b).wales = s.wales := rfl
@[simp] theorem State.putBank_wgs (s : State) (b : BankCall) : (s.putBank b).wgs = s.wgs := rfl
@[simp] theorem State.putBank_pipes (s : State) (b : BankCall) : (s.putBank b).pipes = s.pipes := rfl
@[simp] theorem State.putBank_issuedAt (s : State) (b : BankCall) : (s.putBank b).issuedAt = s.issuedAt := rfl
@[simp] theorem State.putBank_obs (s : State) (b : BankCall) : (s.putBank b).obs = s.obs := rfl
@[simp] theorem State.putBank_mem (s : State) (b : BankCall) : (s.putBank b).mem = s.mem := rfl
@[simp] theorem State.putBank_powerEpoch (s : State) (b : BankCall) : (s.putBank b).powerEpoch = s.powerEpoch := rfl
@[simp] theorem State.putBank_pageEpoch (s : State) (b : BankCall) : (s.putBank b).pageEpoch = s.pageEpoch := rfl
@[simp] theorem State.putBank_near (s : State) (b : BankCall) : (s.putBank b).near = s.near := rfl
@[simp] theorem State.putBank_reqs (s : State) (b : BankCall) : (s.putBank b).reqs = s.reqs := rfl
@[simp] theorem State.putBank_locks (s : State) (b : BankCall) : (s.putBank b).locks = s.locks := rfl
@[simp] theorem State.putBank_rels (s : State) (b : BankCall) : (s.putBank b).rels = s.rels := rfl
@[simp] theorem State.putBank_dirty (s : State) (b : BankCall) : (s.putBank b).dirty = s.dirty := rfl
@[simp] theorem State.putBank_clean (s : State) (b : BankCall) : (s.putBank b).clean = s.clean := rfl
@[simp] theorem State.putBank_relCount (s : State) (b : BankCall) : (s.putBank b).relCount = s.relCount := rfl
@[simp] theorem State.putBank_pendApplied (s : State) (b : BankCall) : (s.putBank b).pendApplied = s.pendApplied := rfl
@[simp] theorem State.putBank_wideFences (s : State) (b : BankCall) : (s.putBank b).wideFences = s.wideFences := rfl
@[simp] theorem State.putBank_layPend (s : State) (b : BankCall) : (s.putBank b).layPend = s.layPend := rfl
@[simp] theorem State.putBank_foldSlots (s : State) (b : BankCall) : (s.putBank b).foldSlots = s.foldSlots := rfl
@[simp] theorem State.putBank_layouts (s : State) (b : BankCall) : (s.putBank b).layouts = s.layouts := rfl
@[simp] theorem State.putBank_rings (s : State) (b : BankCall) : (s.putBank b).rings = s.rings := rfl
@[simp] theorem State.putBank_tlbs (s : State) (b : BankCall) : (s.putBank b).tlbs = s.tlbs := rfl
@[simp] theorem State.putBank_inval (s : State) (b : BankCall) : (s.putBank b).inval = s.inval := rfl
@[simp] theorem State.putBank_regs (s : State) (b : BankCall) : (s.putBank b).regs = s.regs := rfl
@[simp] theorem State.putBank_faultTail (s : State) (b : BankCall) : (s.putBank b).faultTail = s.faultTail := rfl
@[simp] theorem State.putBank_faultHead (s : State) (b : BankCall) : (s.putBank b).faultHead = s.faultHead := rfl
@[simp] theorem State.putBank_faultRing (s : State) (b : BankCall) : (s.putBank b).faultRing = s.faultRing := rfl
@[simp] theorem State.putBank_faultHeld (s : State) (b : BankCall) : (s.putBank b).faultHeld = s.faultHeld := rfl
@[simp] theorem State.putBank_events (s : State) (b : BankCall) : (s.putBank b).events = s.events := rfl
@[simp] theorem State.putBank_evHeld (s : State) (b : BankCall) : (s.putBank b).evHeld = s.evHeld := rfl
@[simp] theorem State.putBank_contHeld (s : State) (b : BankCall) : (s.putBank b).contHeld = s.contHeld := rfl
@[simp] theorem State.putBank_ctxRecs (s : State) (b : BankCall) : (s.putBank b).ctxRecs = s.ctxRecs := rfl
@[simp] theorem State.putBank_ctxStopped (s : State) (b : BankCall) : (s.putBank b).ctxStopped = s.ctxStopped := rfl
@[simp] theorem State.putBank_weaverStopped (s : State) (b : BankCall) : (s.putBank b).weaverStopped = s.weaverStopped := rfl
@[simp] theorem State.putBank_queueSt (s : State) (b : BankCall) : (s.putBank b).queueSt = s.queueSt := rfl
@[simp] theorem State.putBank_launches (s : State) (b : BankCall) : (s.putBank b).launches = s.launches := rfl
@[simp] theorem State.putBank_claims (s : State) (b : BankCall) : (s.putBank b).claims = s.claims := rfl
@[simp] theorem State.putBank_wvPend (s : State) (b : BankCall) : (s.putBank b).wvPend = s.wvPend := rfl
@[simp] theorem State.putBank_retired (s : State) (b : BankCall) : (s.putBank b).retired = s.retired := rfl
@[simp] theorem State.putBank_lastServed (s : State) (b : BankCall) : (s.putBank b).lastServed = s.lastServed := rfl
@[simp] theorem State.putBank_coreTasks (s : State) (b : BankCall) : (s.putBank b).coreTasks = s.coreTasks := rfl
@[simp] theorem State.putBank_dieTasks (s : State) (b : BankCall) : (s.putBank b).dieTasks = s.dieTasks := rfl
@[simp] theorem State.putBank_bankTasks (s : State) (b : BankCall) : (s.putBank b).bankTasks = s.bankTasks := rfl
@[simp] theorem State.putBank_arrays (s : State) (b : BankCall) : (s.putBank b).arrays = s.arrays := rfl
@[simp] theorem State.putBank_images (s : State) (b : BankCall) : (s.putBank b).images = s.images := rfl
@[simp] theorem State.putBank_forwards (s : State) (b : BankCall) : (s.putBank b).forwards = s.forwards := rfl
@[simp] theorem State.putBank_dirtyGranules (s : State) (b : BankCall) : (s.putBank b).dirtyGranules = s.dirtyGranules := rfl
@[simp] theorem State.putBank_slew (s : State) (b : BankCall) : (s.putBank b).slew = s.slew := rfl
@[simp] theorem State.putBank_ckpt (s : State) (b : BankCall) : (s.putBank b).ckpt = s.ckpt := rfl
@[simp] theorem State.putBank_links (s : State) (b : BankCall) : (s.putBank b).links = s.links := rfl
@[simp] theorem State.putBank_msix (s : State) (b : BankCall) : (s.putBank b).msix = s.msix := rfl
@[simp] theorem State.putBank_hostRead (s : State) (b : BankCall) : (s.putBank b).hostRead = s.hostRead := rfl
@[simp] theorem State.putBank_peerFail (s : State) (b : BankCall) : (s.putBank b).peerFail = s.peerFail := rfl
@[simp] theorem State.putBank_predone (s : State) (b : BankCall) : (s.putBank b).predone = s.predone := rfl
@[simp] theorem State.putBank_preempting (s : State) (b : BankCall) : (s.putBank b).preempting = s.preempting := rfl
@[simp] theorem State.putBank_boot (s : State) (b : BankCall) : (s.putBank b).boot = s.boot := rfl
@[simp] theorem State.putBank_bootCnt (s : State) (b : BankCall) : (s.putBank b).bootCnt = s.bootCnt := rfl
@[simp] theorem State.putBank_nextBlk (s : State) (b : BankCall) : (s.putBank b).nextBlk = s.nextBlk := rfl
@[simp] theorem State.putBank_report (s : State) (b : BankCall) : (s.putBank b).report = s.report := rfl
@[simp] theorem State.putBank_leavesLeft (s : State) (b : BankCall) : (s.putBank b).leavesLeft = s.leavesLeft := rfl
@[simp] theorem State.putBank_bootAt (s : State) (b : BankCall) : (s.putBank b).bootAt = s.bootAt := rfl
@[simp] theorem State.putBank_withheld (s : State) (b : BankCall) : (s.putBank b).withheld = s.withheld := rfl
@[simp] theorem State.putBank_part (s : State) (b : BankCall) : (s.putBank b).part = s.part := rfl
@[simp] theorem State.putBank_partSig (s : State) (b : BankCall) : (s.putBank b).partSig = s.partSig := rfl
@[simp] theorem State.putBank_lost (s : State) (b : BankCall) : (s.putBank b).lost = s.lost := rfl
@[simp] theorem State.putBank_firmware (s : State) (b : BankCall) : (s.putBank b).firmware = s.firmware := rfl
@[simp] theorem State.putBank_attested (s : State) (b : BankCall) : (s.putBank b).attested = s.attested := rfl
@[simp] theorem State.putBank_badWords (s : State) (b : BankCall) : (s.putBank b).badWords = s.badWords := rfl
@[simp] theorem State.putBank_absent (s : State) (b : BankCall) : (s.putBank b).absent = s.absent := rfl
@[simp] theorem State.putBank_power (s : State) (b : BankCall) : (s.putBank b).power = s.power := rfl
@[simp] theorem State.putBank_idleSince (s : State) (b : BankCall) : (s.putBank b).idleSince = s.idleSince := rfl
@[simp] theorem State.putBank_wakeAt (s : State) (b : BankCall) : (s.putBank b).wakeAt = s.wakeAt := rfl
@[simp] theorem State.putBank_psDropped (s : State) (b : BankCall) : (s.putBank b).psDropped = s.psDropped := rfl
@[simp] theorem State.putBank_oldWords (s : State) (b : BankCall) : (s.putBank b).oldWords = s.oldWords := rfl
@[simp] theorem State.putBank_rewrites (s : State) (b : BankCall) : (s.putBank b).rewrites = s.rewrites := rfl
@[simp] theorem State.putBank_wvIssues (s : State) (b : BankCall) : (s.putBank b).wvIssues = s.wvIssues := rfl
@[simp] theorem State.putBank_absentHit (s : State) (b : BankCall) : (s.putBank b).absentHit = s.absentHit := rfl

/-! ### setReg -/

@[simp] theorem State.setReg_clk (s : State) (off : Nat) (v : W64) : (s.setReg off v).clk = s.clk := rfl
@[simp] theorem State.setReg_coreReset (s : State) (off : Nat) (v : W64) : (s.setReg off v).coreReset = s.coreReset := rfl
@[simp] theorem State.setReg_agenda (s : State) (off : Nat) (v : W64) : (s.setReg off v).agenda = s.agenda := rfl
@[simp] theorem State.setReg_free (s : State) (off : Nat) (v : W64) : (s.setReg off v).free = s.free := rfl
@[simp] theorem State.setReg_nextId (s : State) (off : Nat) (v : W64) : (s.setReg off v).nextId = s.nextId := rfl
@[simp] theorem State.setReg_cur (s : State) (off : Nat) (v : W64) : (s.setReg off v).cur = s.cur := rfl
@[simp] theorem State.setReg_curBank (s : State) (off : Nat) (v : W64) : (s.setReg off v).curBank = s.curBank := rfl
@[simp] theorem State.setReg_wales (s : State) (off : Nat) (v : W64) : (s.setReg off v).wales = s.wales := rfl
@[simp] theorem State.setReg_wgs (s : State) (off : Nat) (v : W64) : (s.setReg off v).wgs = s.wgs := rfl
@[simp] theorem State.setReg_pipes (s : State) (off : Nat) (v : W64) : (s.setReg off v).pipes = s.pipes := rfl
@[simp] theorem State.setReg_issuedAt (s : State) (off : Nat) (v : W64) : (s.setReg off v).issuedAt = s.issuedAt := rfl
@[simp] theorem State.setReg_obs (s : State) (off : Nat) (v : W64) : (s.setReg off v).obs = s.obs := rfl
@[simp] theorem State.setReg_mem (s : State) (off : Nat) (v : W64) : (s.setReg off v).mem = s.mem := rfl
@[simp] theorem State.setReg_powerEpoch (s : State) (off : Nat) (v : W64) : (s.setReg off v).powerEpoch = s.powerEpoch := rfl
@[simp] theorem State.setReg_pageEpoch (s : State) (off : Nat) (v : W64) : (s.setReg off v).pageEpoch = s.pageEpoch := rfl
@[simp] theorem State.setReg_near (s : State) (off : Nat) (v : W64) : (s.setReg off v).near = s.near := rfl
@[simp] theorem State.setReg_reqs (s : State) (off : Nat) (v : W64) : (s.setReg off v).reqs = s.reqs := rfl
@[simp] theorem State.setReg_locks (s : State) (off : Nat) (v : W64) : (s.setReg off v).locks = s.locks := rfl
@[simp] theorem State.setReg_rels (s : State) (off : Nat) (v : W64) : (s.setReg off v).rels = s.rels := rfl
@[simp] theorem State.setReg_dirty (s : State) (off : Nat) (v : W64) : (s.setReg off v).dirty = s.dirty := rfl
@[simp] theorem State.setReg_clean (s : State) (off : Nat) (v : W64) : (s.setReg off v).clean = s.clean := rfl
@[simp] theorem State.setReg_relCount (s : State) (off : Nat) (v : W64) : (s.setReg off v).relCount = s.relCount := rfl
@[simp] theorem State.setReg_pendApplied (s : State) (off : Nat) (v : W64) : (s.setReg off v).pendApplied = s.pendApplied := rfl
@[simp] theorem State.setReg_wideFences (s : State) (off : Nat) (v : W64) : (s.setReg off v).wideFences = s.wideFences := rfl
@[simp] theorem State.setReg_layPend (s : State) (off : Nat) (v : W64) : (s.setReg off v).layPend = s.layPend := rfl
@[simp] theorem State.setReg_foldSlots (s : State) (off : Nat) (v : W64) : (s.setReg off v).foldSlots = s.foldSlots := rfl
@[simp] theorem State.setReg_layouts (s : State) (off : Nat) (v : W64) : (s.setReg off v).layouts = s.layouts := rfl
@[simp] theorem State.setReg_rings (s : State) (off : Nat) (v : W64) : (s.setReg off v).rings = s.rings := rfl
@[simp] theorem State.setReg_tlbs (s : State) (off : Nat) (v : W64) : (s.setReg off v).tlbs = s.tlbs := rfl
@[simp] theorem State.setReg_inval (s : State) (off : Nat) (v : W64) : (s.setReg off v).inval = s.inval := rfl
@[simp] theorem State.setReg_faultTail (s : State) (off : Nat) (v : W64) : (s.setReg off v).faultTail = s.faultTail := rfl
@[simp] theorem State.setReg_faultHead (s : State) (off : Nat) (v : W64) : (s.setReg off v).faultHead = s.faultHead := rfl
@[simp] theorem State.setReg_faultRing (s : State) (off : Nat) (v : W64) : (s.setReg off v).faultRing = s.faultRing := rfl
@[simp] theorem State.setReg_faultHeld (s : State) (off : Nat) (v : W64) : (s.setReg off v).faultHeld = s.faultHeld := rfl
@[simp] theorem State.setReg_events (s : State) (off : Nat) (v : W64) : (s.setReg off v).events = s.events := rfl
@[simp] theorem State.setReg_evHeld (s : State) (off : Nat) (v : W64) : (s.setReg off v).evHeld = s.evHeld := rfl
@[simp] theorem State.setReg_contHeld (s : State) (off : Nat) (v : W64) : (s.setReg off v).contHeld = s.contHeld := rfl
@[simp] theorem State.setReg_ctxRecs (s : State) (off : Nat) (v : W64) : (s.setReg off v).ctxRecs = s.ctxRecs := rfl
@[simp] theorem State.setReg_ctxStopped (s : State) (off : Nat) (v : W64) : (s.setReg off v).ctxStopped = s.ctxStopped := rfl
@[simp] theorem State.setReg_weaverStopped (s : State) (off : Nat) (v : W64) : (s.setReg off v).weaverStopped = s.weaverStopped := rfl
@[simp] theorem State.setReg_queueSt (s : State) (off : Nat) (v : W64) : (s.setReg off v).queueSt = s.queueSt := rfl
@[simp] theorem State.setReg_launches (s : State) (off : Nat) (v : W64) : (s.setReg off v).launches = s.launches := rfl
@[simp] theorem State.setReg_claims (s : State) (off : Nat) (v : W64) : (s.setReg off v).claims = s.claims := rfl
@[simp] theorem State.setReg_wvPend (s : State) (off : Nat) (v : W64) : (s.setReg off v).wvPend = s.wvPend := rfl
@[simp] theorem State.setReg_retired (s : State) (off : Nat) (v : W64) : (s.setReg off v).retired = s.retired := rfl
@[simp] theorem State.setReg_lastServed (s : State) (off : Nat) (v : W64) : (s.setReg off v).lastServed = s.lastServed := rfl
@[simp] theorem State.setReg_coreTasks (s : State) (off : Nat) (v : W64) : (s.setReg off v).coreTasks = s.coreTasks := rfl
@[simp] theorem State.setReg_dieTasks (s : State) (off : Nat) (v : W64) : (s.setReg off v).dieTasks = s.dieTasks := rfl
@[simp] theorem State.setReg_bankTasks (s : State) (off : Nat) (v : W64) : (s.setReg off v).bankTasks = s.bankTasks := rfl
@[simp] theorem State.setReg_arrays (s : State) (off : Nat) (v : W64) : (s.setReg off v).arrays = s.arrays := rfl
@[simp] theorem State.setReg_banks (s : State) (off : Nat) (v : W64) : (s.setReg off v).banks = s.banks := rfl
@[simp] theorem State.setReg_images (s : State) (off : Nat) (v : W64) : (s.setReg off v).images = s.images := rfl
@[simp] theorem State.setReg_forwards (s : State) (off : Nat) (v : W64) : (s.setReg off v).forwards = s.forwards := rfl
@[simp] theorem State.setReg_dirtyGranules (s : State) (off : Nat) (v : W64) : (s.setReg off v).dirtyGranules = s.dirtyGranules := rfl
@[simp] theorem State.setReg_slew (s : State) (off : Nat) (v : W64) : (s.setReg off v).slew = s.slew := rfl
@[simp] theorem State.setReg_ckpt (s : State) (off : Nat) (v : W64) : (s.setReg off v).ckpt = s.ckpt := rfl
@[simp] theorem State.setReg_links (s : State) (off : Nat) (v : W64) : (s.setReg off v).links = s.links := rfl
@[simp] theorem State.setReg_msix (s : State) (off : Nat) (v : W64) : (s.setReg off v).msix = s.msix := rfl
@[simp] theorem State.setReg_hostRead (s : State) (off : Nat) (v : W64) : (s.setReg off v).hostRead = s.hostRead := rfl
@[simp] theorem State.setReg_peerFail (s : State) (off : Nat) (v : W64) : (s.setReg off v).peerFail = s.peerFail := rfl
@[simp] theorem State.setReg_predone (s : State) (off : Nat) (v : W64) : (s.setReg off v).predone = s.predone := rfl
@[simp] theorem State.setReg_preempting (s : State) (off : Nat) (v : W64) : (s.setReg off v).preempting = s.preempting := rfl
@[simp] theorem State.setReg_boot (s : State) (off : Nat) (v : W64) : (s.setReg off v).boot = s.boot := rfl
@[simp] theorem State.setReg_bootCnt (s : State) (off : Nat) (v : W64) : (s.setReg off v).bootCnt = s.bootCnt := rfl
@[simp] theorem State.setReg_nextBlk (s : State) (off : Nat) (v : W64) : (s.setReg off v).nextBlk = s.nextBlk := rfl
@[simp] theorem State.setReg_report (s : State) (off : Nat) (v : W64) : (s.setReg off v).report = s.report := rfl
@[simp] theorem State.setReg_leavesLeft (s : State) (off : Nat) (v : W64) : (s.setReg off v).leavesLeft = s.leavesLeft := rfl
@[simp] theorem State.setReg_bootAt (s : State) (off : Nat) (v : W64) : (s.setReg off v).bootAt = s.bootAt := rfl
@[simp] theorem State.setReg_withheld (s : State) (off : Nat) (v : W64) : (s.setReg off v).withheld = s.withheld := rfl
@[simp] theorem State.setReg_part (s : State) (off : Nat) (v : W64) : (s.setReg off v).part = s.part := rfl
@[simp] theorem State.setReg_partSig (s : State) (off : Nat) (v : W64) : (s.setReg off v).partSig = s.partSig := rfl
@[simp] theorem State.setReg_lost (s : State) (off : Nat) (v : W64) : (s.setReg off v).lost = s.lost := rfl
@[simp] theorem State.setReg_firmware (s : State) (off : Nat) (v : W64) : (s.setReg off v).firmware = s.firmware := rfl
@[simp] theorem State.setReg_attested (s : State) (off : Nat) (v : W64) : (s.setReg off v).attested = s.attested := rfl
@[simp] theorem State.setReg_badWords (s : State) (off : Nat) (v : W64) : (s.setReg off v).badWords = s.badWords := rfl
@[simp] theorem State.setReg_absent (s : State) (off : Nat) (v : W64) : (s.setReg off v).absent = s.absent := rfl
@[simp] theorem State.setReg_power (s : State) (off : Nat) (v : W64) : (s.setReg off v).power = s.power := rfl
@[simp] theorem State.setReg_idleSince (s : State) (off : Nat) (v : W64) : (s.setReg off v).idleSince = s.idleSince := rfl
@[simp] theorem State.setReg_wakeAt (s : State) (off : Nat) (v : W64) : (s.setReg off v).wakeAt = s.wakeAt := rfl
@[simp] theorem State.setReg_psDropped (s : State) (off : Nat) (v : W64) : (s.setReg off v).psDropped = s.psDropped := rfl
@[simp] theorem State.setReg_oldWords (s : State) (off : Nat) (v : W64) : (s.setReg off v).oldWords = s.oldWords := rfl
@[simp] theorem State.setReg_rewrites (s : State) (off : Nat) (v : W64) : (s.setReg off v).rewrites = s.rewrites := rfl
@[simp] theorem State.setReg_wvIssues (s : State) (off : Nat) (v : W64) : (s.setReg off v).wvIssues = s.wvIssues := rfl
@[simp] theorem State.setReg_absentHit (s : State) (off : Nat) (v : W64) : (s.setReg off v).absentHit = s.absentHit := rfl

/-! ### addObs -/

@[simp] theorem State.addObs_clk (s : State) (off n : Nat) : (s.addObs off n).clk = s.clk := rfl
@[simp] theorem State.addObs_coreReset (s : State) (off n : Nat) : (s.addObs off n).coreReset = s.coreReset := rfl
@[simp] theorem State.addObs_agenda (s : State) (off n : Nat) : (s.addObs off n).agenda = s.agenda := rfl
@[simp] theorem State.addObs_free (s : State) (off n : Nat) : (s.addObs off n).free = s.free := rfl
@[simp] theorem State.addObs_nextId (s : State) (off n : Nat) : (s.addObs off n).nextId = s.nextId := rfl
@[simp] theorem State.addObs_cur (s : State) (off n : Nat) : (s.addObs off n).cur = s.cur := rfl
@[simp] theorem State.addObs_curBank (s : State) (off n : Nat) : (s.addObs off n).curBank = s.curBank := rfl
@[simp] theorem State.addObs_wales (s : State) (off n : Nat) : (s.addObs off n).wales = s.wales := rfl
@[simp] theorem State.addObs_wgs (s : State) (off n : Nat) : (s.addObs off n).wgs = s.wgs := rfl
@[simp] theorem State.addObs_pipes (s : State) (off n : Nat) : (s.addObs off n).pipes = s.pipes := rfl
@[simp] theorem State.addObs_issuedAt (s : State) (off n : Nat) : (s.addObs off n).issuedAt = s.issuedAt := rfl
@[simp] theorem State.addObs_mem (s : State) (off n : Nat) : (s.addObs off n).mem = s.mem := rfl
@[simp] theorem State.addObs_powerEpoch (s : State) (off n : Nat) : (s.addObs off n).powerEpoch = s.powerEpoch := rfl
@[simp] theorem State.addObs_pageEpoch (s : State) (off n : Nat) : (s.addObs off n).pageEpoch = s.pageEpoch := rfl
@[simp] theorem State.addObs_near (s : State) (off n : Nat) : (s.addObs off n).near = s.near := rfl
@[simp] theorem State.addObs_reqs (s : State) (off n : Nat) : (s.addObs off n).reqs = s.reqs := rfl
@[simp] theorem State.addObs_locks (s : State) (off n : Nat) : (s.addObs off n).locks = s.locks := rfl
@[simp] theorem State.addObs_rels (s : State) (off n : Nat) : (s.addObs off n).rels = s.rels := rfl
@[simp] theorem State.addObs_dirty (s : State) (off n : Nat) : (s.addObs off n).dirty = s.dirty := rfl
@[simp] theorem State.addObs_clean (s : State) (off n : Nat) : (s.addObs off n).clean = s.clean := rfl
@[simp] theorem State.addObs_relCount (s : State) (off n : Nat) : (s.addObs off n).relCount = s.relCount := rfl
@[simp] theorem State.addObs_pendApplied (s : State) (off n : Nat) : (s.addObs off n).pendApplied = s.pendApplied := rfl
@[simp] theorem State.addObs_wideFences (s : State) (off n : Nat) : (s.addObs off n).wideFences = s.wideFences := rfl
@[simp] theorem State.addObs_layPend (s : State) (off n : Nat) : (s.addObs off n).layPend = s.layPend := rfl
@[simp] theorem State.addObs_foldSlots (s : State) (off n : Nat) : (s.addObs off n).foldSlots = s.foldSlots := rfl
@[simp] theorem State.addObs_layouts (s : State) (off n : Nat) : (s.addObs off n).layouts = s.layouts := rfl
@[simp] theorem State.addObs_rings (s : State) (off n : Nat) : (s.addObs off n).rings = s.rings := rfl
@[simp] theorem State.addObs_tlbs (s : State) (off n : Nat) : (s.addObs off n).tlbs = s.tlbs := rfl
@[simp] theorem State.addObs_inval (s : State) (off n : Nat) : (s.addObs off n).inval = s.inval := rfl
@[simp] theorem State.addObs_regs (s : State) (off n : Nat) : (s.addObs off n).regs = s.regs := rfl
@[simp] theorem State.addObs_faultTail (s : State) (off n : Nat) : (s.addObs off n).faultTail = s.faultTail := rfl
@[simp] theorem State.addObs_faultHead (s : State) (off n : Nat) : (s.addObs off n).faultHead = s.faultHead := rfl
@[simp] theorem State.addObs_faultRing (s : State) (off n : Nat) : (s.addObs off n).faultRing = s.faultRing := rfl
@[simp] theorem State.addObs_faultHeld (s : State) (off n : Nat) : (s.addObs off n).faultHeld = s.faultHeld := rfl
@[simp] theorem State.addObs_events (s : State) (off n : Nat) : (s.addObs off n).events = s.events := rfl
@[simp] theorem State.addObs_evHeld (s : State) (off n : Nat) : (s.addObs off n).evHeld = s.evHeld := rfl
@[simp] theorem State.addObs_contHeld (s : State) (off n : Nat) : (s.addObs off n).contHeld = s.contHeld := rfl
@[simp] theorem State.addObs_ctxRecs (s : State) (off n : Nat) : (s.addObs off n).ctxRecs = s.ctxRecs := rfl
@[simp] theorem State.addObs_ctxStopped (s : State) (off n : Nat) : (s.addObs off n).ctxStopped = s.ctxStopped := rfl
@[simp] theorem State.addObs_weaverStopped (s : State) (off n : Nat) : (s.addObs off n).weaverStopped = s.weaverStopped := rfl
@[simp] theorem State.addObs_queueSt (s : State) (off n : Nat) : (s.addObs off n).queueSt = s.queueSt := rfl
@[simp] theorem State.addObs_launches (s : State) (off n : Nat) : (s.addObs off n).launches = s.launches := rfl
@[simp] theorem State.addObs_claims (s : State) (off n : Nat) : (s.addObs off n).claims = s.claims := rfl
@[simp] theorem State.addObs_wvPend (s : State) (off n : Nat) : (s.addObs off n).wvPend = s.wvPend := rfl
@[simp] theorem State.addObs_retired (s : State) (off n : Nat) : (s.addObs off n).retired = s.retired := rfl
@[simp] theorem State.addObs_lastServed (s : State) (off n : Nat) : (s.addObs off n).lastServed = s.lastServed := rfl
@[simp] theorem State.addObs_coreTasks (s : State) (off n : Nat) : (s.addObs off n).coreTasks = s.coreTasks := rfl
@[simp] theorem State.addObs_dieTasks (s : State) (off n : Nat) : (s.addObs off n).dieTasks = s.dieTasks := rfl
@[simp] theorem State.addObs_bankTasks (s : State) (off n : Nat) : (s.addObs off n).bankTasks = s.bankTasks := rfl
@[simp] theorem State.addObs_arrays (s : State) (off n : Nat) : (s.addObs off n).arrays = s.arrays := rfl
@[simp] theorem State.addObs_banks (s : State) (off n : Nat) : (s.addObs off n).banks = s.banks := rfl
@[simp] theorem State.addObs_images (s : State) (off n : Nat) : (s.addObs off n).images = s.images := rfl
@[simp] theorem State.addObs_forwards (s : State) (off n : Nat) : (s.addObs off n).forwards = s.forwards := rfl
@[simp] theorem State.addObs_dirtyGranules (s : State) (off n : Nat) : (s.addObs off n).dirtyGranules = s.dirtyGranules := rfl
@[simp] theorem State.addObs_slew (s : State) (off n : Nat) : (s.addObs off n).slew = s.slew := rfl
@[simp] theorem State.addObs_ckpt (s : State) (off n : Nat) : (s.addObs off n).ckpt = s.ckpt := rfl
@[simp] theorem State.addObs_links (s : State) (off n : Nat) : (s.addObs off n).links = s.links := rfl
@[simp] theorem State.addObs_msix (s : State) (off n : Nat) : (s.addObs off n).msix = s.msix := rfl
@[simp] theorem State.addObs_hostRead (s : State) (off n : Nat) : (s.addObs off n).hostRead = s.hostRead := rfl
@[simp] theorem State.addObs_peerFail (s : State) (off n : Nat) : (s.addObs off n).peerFail = s.peerFail := rfl
@[simp] theorem State.addObs_predone (s : State) (off n : Nat) : (s.addObs off n).predone = s.predone := rfl
@[simp] theorem State.addObs_preempting (s : State) (off n : Nat) : (s.addObs off n).preempting = s.preempting := rfl
@[simp] theorem State.addObs_boot (s : State) (off n : Nat) : (s.addObs off n).boot = s.boot := rfl
@[simp] theorem State.addObs_bootCnt (s : State) (off n : Nat) : (s.addObs off n).bootCnt = s.bootCnt := rfl
@[simp] theorem State.addObs_nextBlk (s : State) (off n : Nat) : (s.addObs off n).nextBlk = s.nextBlk := rfl
@[simp] theorem State.addObs_report (s : State) (off n : Nat) : (s.addObs off n).report = s.report := rfl
@[simp] theorem State.addObs_leavesLeft (s : State) (off n : Nat) : (s.addObs off n).leavesLeft = s.leavesLeft := rfl
@[simp] theorem State.addObs_bootAt (s : State) (off n : Nat) : (s.addObs off n).bootAt = s.bootAt := rfl
@[simp] theorem State.addObs_withheld (s : State) (off n : Nat) : (s.addObs off n).withheld = s.withheld := rfl
@[simp] theorem State.addObs_part (s : State) (off n : Nat) : (s.addObs off n).part = s.part := rfl
@[simp] theorem State.addObs_partSig (s : State) (off n : Nat) : (s.addObs off n).partSig = s.partSig := rfl
@[simp] theorem State.addObs_lost (s : State) (off n : Nat) : (s.addObs off n).lost = s.lost := rfl
@[simp] theorem State.addObs_firmware (s : State) (off n : Nat) : (s.addObs off n).firmware = s.firmware := rfl
@[simp] theorem State.addObs_attested (s : State) (off n : Nat) : (s.addObs off n).attested = s.attested := rfl
@[simp] theorem State.addObs_badWords (s : State) (off n : Nat) : (s.addObs off n).badWords = s.badWords := rfl
@[simp] theorem State.addObs_absent (s : State) (off n : Nat) : (s.addObs off n).absent = s.absent := rfl
@[simp] theorem State.addObs_power (s : State) (off n : Nat) : (s.addObs off n).power = s.power := rfl
@[simp] theorem State.addObs_idleSince (s : State) (off n : Nat) : (s.addObs off n).idleSince = s.idleSince := rfl
@[simp] theorem State.addObs_wakeAt (s : State) (off n : Nat) : (s.addObs off n).wakeAt = s.wakeAt := rfl
@[simp] theorem State.addObs_psDropped (s : State) (off n : Nat) : (s.addObs off n).psDropped = s.psDropped := rfl
@[simp] theorem State.addObs_oldWords (s : State) (off n : Nat) : (s.addObs off n).oldWords = s.oldWords := rfl
@[simp] theorem State.addObs_rewrites (s : State) (off n : Nat) : (s.addObs off n).rewrites = s.rewrites := rfl
@[simp] theorem State.addObs_wvIssues (s : State) (off n : Nat) : (s.addObs off n).wvIssues = s.wvIssues := rfl
@[simp] theorem State.addObs_absentHit (s : State) (off n : Nat) : (s.addObs off n).absentHit = s.absentHit := rfl

/-! ### putRels -/

@[simp] theorem State.putRels_clk (s : State) (k n : Nat) (l : List RelInfo) : (s.putRels k n l).clk = s.clk := rfl
@[simp] theorem State.putRels_coreReset (s : State) (k n : Nat) (l : List RelInfo) : (s.putRels k n l).coreReset = s.coreReset := rfl
@[simp] theorem State.putRels_agenda (s : State) (k n : Nat) (l : List RelInfo) : (s.putRels k n l).agenda = s.agenda := rfl
@[simp] theorem State.putRels_free (s : State) (k n : Nat) (l : List RelInfo) : (s.putRels k n l).free = s.free := rfl
@[simp] theorem State.putRels_nextId (s : State) (k n : Nat) (l : List RelInfo) : (s.putRels k n l).nextId = s.nextId := rfl
@[simp] theorem State.putRels_cur (s : State) (k n : Nat) (l : List RelInfo) : (s.putRels k n l).cur = s.cur := rfl
@[simp] theorem State.putRels_curBank (s : State) (k n : Nat) (l : List RelInfo) : (s.putRels k n l).curBank = s.curBank := rfl
@[simp] theorem State.putRels_wales (s : State) (k n : Nat) (l : List RelInfo) : (s.putRels k n l).wales = s.wales := rfl
@[simp] theorem State.putRels_wgs (s : State) (k n : Nat) (l : List RelInfo) : (s.putRels k n l).wgs = s.wgs := rfl
@[simp] theorem State.putRels_pipes (s : State) (k n : Nat) (l : List RelInfo) : (s.putRels k n l).pipes = s.pipes := rfl
@[simp] theorem State.putRels_issuedAt (s : State) (k n : Nat) (l : List RelInfo) : (s.putRels k n l).issuedAt = s.issuedAt := rfl
@[simp] theorem State.putRels_obs (s : State) (k n : Nat) (l : List RelInfo) : (s.putRels k n l).obs = s.obs := rfl
@[simp] theorem State.putRels_mem (s : State) (k n : Nat) (l : List RelInfo) : (s.putRels k n l).mem = s.mem := rfl
@[simp] theorem State.putRels_powerEpoch (s : State) (k n : Nat) (l : List RelInfo) : (s.putRels k n l).powerEpoch = s.powerEpoch := rfl
@[simp] theorem State.putRels_pageEpoch (s : State) (k n : Nat) (l : List RelInfo) : (s.putRels k n l).pageEpoch = s.pageEpoch := rfl
@[simp] theorem State.putRels_near (s : State) (k n : Nat) (l : List RelInfo) : (s.putRels k n l).near = s.near := rfl
@[simp] theorem State.putRels_reqs (s : State) (k n : Nat) (l : List RelInfo) : (s.putRels k n l).reqs = s.reqs := rfl
@[simp] theorem State.putRels_locks (s : State) (k n : Nat) (l : List RelInfo) : (s.putRels k n l).locks = s.locks := rfl
@[simp] theorem State.putRels_dirty (s : State) (k n : Nat) (l : List RelInfo) : (s.putRels k n l).dirty = s.dirty := rfl
@[simp] theorem State.putRels_clean (s : State) (k n : Nat) (l : List RelInfo) : (s.putRels k n l).clean = s.clean := rfl
@[simp] theorem State.putRels_relCount (s : State) (k n : Nat) (l : List RelInfo) : (s.putRels k n l).relCount = s.relCount := rfl
@[simp] theorem State.putRels_pendApplied (s : State) (k n : Nat) (l : List RelInfo) : (s.putRels k n l).pendApplied = s.pendApplied := rfl
@[simp] theorem State.putRels_wideFences (s : State) (k n : Nat) (l : List RelInfo) : (s.putRels k n l).wideFences = s.wideFences := rfl
@[simp] theorem State.putRels_layPend (s : State) (k n : Nat) (l : List RelInfo) : (s.putRels k n l).layPend = s.layPend := rfl
@[simp] theorem State.putRels_foldSlots (s : State) (k n : Nat) (l : List RelInfo) : (s.putRels k n l).foldSlots = s.foldSlots := rfl
@[simp] theorem State.putRels_layouts (s : State) (k n : Nat) (l : List RelInfo) : (s.putRels k n l).layouts = s.layouts := rfl
@[simp] theorem State.putRels_rings (s : State) (k n : Nat) (l : List RelInfo) : (s.putRels k n l).rings = s.rings := rfl
@[simp] theorem State.putRels_tlbs (s : State) (k n : Nat) (l : List RelInfo) : (s.putRels k n l).tlbs = s.tlbs := rfl
@[simp] theorem State.putRels_inval (s : State) (k n : Nat) (l : List RelInfo) : (s.putRels k n l).inval = s.inval := rfl
@[simp] theorem State.putRels_regs (s : State) (k n : Nat) (l : List RelInfo) : (s.putRels k n l).regs = s.regs := rfl
@[simp] theorem State.putRels_faultTail (s : State) (k n : Nat) (l : List RelInfo) : (s.putRels k n l).faultTail = s.faultTail := rfl
@[simp] theorem State.putRels_faultHead (s : State) (k n : Nat) (l : List RelInfo) : (s.putRels k n l).faultHead = s.faultHead := rfl
@[simp] theorem State.putRels_faultRing (s : State) (k n : Nat) (l : List RelInfo) : (s.putRels k n l).faultRing = s.faultRing := rfl
@[simp] theorem State.putRels_faultHeld (s : State) (k n : Nat) (l : List RelInfo) : (s.putRels k n l).faultHeld = s.faultHeld := rfl
@[simp] theorem State.putRels_events (s : State) (k n : Nat) (l : List RelInfo) : (s.putRels k n l).events = s.events := rfl
@[simp] theorem State.putRels_evHeld (s : State) (k n : Nat) (l : List RelInfo) : (s.putRels k n l).evHeld = s.evHeld := rfl
@[simp] theorem State.putRels_contHeld (s : State) (k n : Nat) (l : List RelInfo) : (s.putRels k n l).contHeld = s.contHeld := rfl
@[simp] theorem State.putRels_ctxRecs (s : State) (k n : Nat) (l : List RelInfo) : (s.putRels k n l).ctxRecs = s.ctxRecs := rfl
@[simp] theorem State.putRels_ctxStopped (s : State) (k n : Nat) (l : List RelInfo) : (s.putRels k n l).ctxStopped = s.ctxStopped := rfl
@[simp] theorem State.putRels_weaverStopped (s : State) (k n : Nat) (l : List RelInfo) : (s.putRels k n l).weaverStopped = s.weaverStopped := rfl
@[simp] theorem State.putRels_queueSt (s : State) (k n : Nat) (l : List RelInfo) : (s.putRels k n l).queueSt = s.queueSt := rfl
@[simp] theorem State.putRels_launches (s : State) (k n : Nat) (l : List RelInfo) : (s.putRels k n l).launches = s.launches := rfl
@[simp] theorem State.putRels_claims (s : State) (k n : Nat) (l : List RelInfo) : (s.putRels k n l).claims = s.claims := rfl
@[simp] theorem State.putRels_wvPend (s : State) (k n : Nat) (l : List RelInfo) : (s.putRels k n l).wvPend = s.wvPend := rfl
@[simp] theorem State.putRels_retired (s : State) (k n : Nat) (l : List RelInfo) : (s.putRels k n l).retired = s.retired := rfl
@[simp] theorem State.putRels_lastServed (s : State) (k n : Nat) (l : List RelInfo) : (s.putRels k n l).lastServed = s.lastServed := rfl
@[simp] theorem State.putRels_coreTasks (s : State) (k n : Nat) (l : List RelInfo) : (s.putRels k n l).coreTasks = s.coreTasks := rfl
@[simp] theorem State.putRels_dieTasks (s : State) (k n : Nat) (l : List RelInfo) : (s.putRels k n l).dieTasks = s.dieTasks := rfl
@[simp] theorem State.putRels_bankTasks (s : State) (k n : Nat) (l : List RelInfo) : (s.putRels k n l).bankTasks = s.bankTasks := rfl
@[simp] theorem State.putRels_arrays (s : State) (k n : Nat) (l : List RelInfo) : (s.putRels k n l).arrays = s.arrays := rfl
@[simp] theorem State.putRels_banks (s : State) (k n : Nat) (l : List RelInfo) : (s.putRels k n l).banks = s.banks := rfl
@[simp] theorem State.putRels_images (s : State) (k n : Nat) (l : List RelInfo) : (s.putRels k n l).images = s.images := rfl
@[simp] theorem State.putRels_forwards (s : State) (k n : Nat) (l : List RelInfo) : (s.putRels k n l).forwards = s.forwards := rfl
@[simp] theorem State.putRels_dirtyGranules (s : State) (k n : Nat) (l : List RelInfo) : (s.putRels k n l).dirtyGranules = s.dirtyGranules := rfl
@[simp] theorem State.putRels_slew (s : State) (k n : Nat) (l : List RelInfo) : (s.putRels k n l).slew = s.slew := rfl
@[simp] theorem State.putRels_ckpt (s : State) (k n : Nat) (l : List RelInfo) : (s.putRels k n l).ckpt = s.ckpt := rfl
@[simp] theorem State.putRels_links (s : State) (k n : Nat) (l : List RelInfo) : (s.putRels k n l).links = s.links := rfl
@[simp] theorem State.putRels_msix (s : State) (k n : Nat) (l : List RelInfo) : (s.putRels k n l).msix = s.msix := rfl
@[simp] theorem State.putRels_hostRead (s : State) (k n : Nat) (l : List RelInfo) : (s.putRels k n l).hostRead = s.hostRead := rfl
@[simp] theorem State.putRels_peerFail (s : State) (k n : Nat) (l : List RelInfo) : (s.putRels k n l).peerFail = s.peerFail := rfl
@[simp] theorem State.putRels_predone (s : State) (k n : Nat) (l : List RelInfo) : (s.putRels k n l).predone = s.predone := rfl
@[simp] theorem State.putRels_preempting (s : State) (k n : Nat) (l : List RelInfo) : (s.putRels k n l).preempting = s.preempting := rfl
@[simp] theorem State.putRels_boot (s : State) (k n : Nat) (l : List RelInfo) : (s.putRels k n l).boot = s.boot := rfl
@[simp] theorem State.putRels_bootCnt (s : State) (k n : Nat) (l : List RelInfo) : (s.putRels k n l).bootCnt = s.bootCnt := rfl
@[simp] theorem State.putRels_nextBlk (s : State) (k n : Nat) (l : List RelInfo) : (s.putRels k n l).nextBlk = s.nextBlk := rfl
@[simp] theorem State.putRels_report (s : State) (k n : Nat) (l : List RelInfo) : (s.putRels k n l).report = s.report := rfl
@[simp] theorem State.putRels_leavesLeft (s : State) (k n : Nat) (l : List RelInfo) : (s.putRels k n l).leavesLeft = s.leavesLeft := rfl
@[simp] theorem State.putRels_bootAt (s : State) (k n : Nat) (l : List RelInfo) : (s.putRels k n l).bootAt = s.bootAt := rfl
@[simp] theorem State.putRels_withheld (s : State) (k n : Nat) (l : List RelInfo) : (s.putRels k n l).withheld = s.withheld := rfl
@[simp] theorem State.putRels_part (s : State) (k n : Nat) (l : List RelInfo) : (s.putRels k n l).part = s.part := rfl
@[simp] theorem State.putRels_partSig (s : State) (k n : Nat) (l : List RelInfo) : (s.putRels k n l).partSig = s.partSig := rfl
@[simp] theorem State.putRels_lost (s : State) (k n : Nat) (l : List RelInfo) : (s.putRels k n l).lost = s.lost := rfl
@[simp] theorem State.putRels_firmware (s : State) (k n : Nat) (l : List RelInfo) : (s.putRels k n l).firmware = s.firmware := rfl
@[simp] theorem State.putRels_attested (s : State) (k n : Nat) (l : List RelInfo) : (s.putRels k n l).attested = s.attested := rfl
@[simp] theorem State.putRels_badWords (s : State) (k n : Nat) (l : List RelInfo) : (s.putRels k n l).badWords = s.badWords := rfl
@[simp] theorem State.putRels_absent (s : State) (k n : Nat) (l : List RelInfo) : (s.putRels k n l).absent = s.absent := rfl
@[simp] theorem State.putRels_power (s : State) (k n : Nat) (l : List RelInfo) : (s.putRels k n l).power = s.power := rfl
@[simp] theorem State.putRels_idleSince (s : State) (k n : Nat) (l : List RelInfo) : (s.putRels k n l).idleSince = s.idleSince := rfl
@[simp] theorem State.putRels_wakeAt (s : State) (k n : Nat) (l : List RelInfo) : (s.putRels k n l).wakeAt = s.wakeAt := rfl
@[simp] theorem State.putRels_psDropped (s : State) (k n : Nat) (l : List RelInfo) : (s.putRels k n l).psDropped = s.psDropped := rfl
@[simp] theorem State.putRels_oldWords (s : State) (k n : Nat) (l : List RelInfo) : (s.putRels k n l).oldWords = s.oldWords := rfl
@[simp] theorem State.putRels_rewrites (s : State) (k n : Nat) (l : List RelInfo) : (s.putRels k n l).rewrites = s.rewrites := rfl
@[simp] theorem State.putRels_wvIssues (s : State) (k n : Nat) (l : List RelInfo) : (s.putRels k n l).wvIssues = s.wvIssues := rfl
@[simp] theorem State.putRels_absentHit (s : State) (k n : Nat) (l : List RelInfo) : (s.putRels k n l).absentHit = s.absentHit := rfl

/-! ### markDirty -/

@[simp] theorem State.markDirty_clk (s : State) (l : Nat) : (s.markDirty l).clk = s.clk := by
  unfold State.markDirty; split <;> [rfl; (split <;> rfl)]
@[simp] theorem State.markDirty_coreReset (s : State) (l : Nat) : (s.markDirty l).coreReset = s.coreReset := by
  unfold State.markDirty; split <;> [rfl; (split <;> rfl)]
@[simp] theorem State.markDirty_agenda (s : State) (l : Nat) : (s.markDirty l).agenda = s.agenda := by
  unfold State.markDirty; split <;> [rfl; (split <;> rfl)]
@[simp] theorem State.markDirty_free (s : State) (l : Nat) : (s.markDirty l).free = s.free := by
  unfold State.markDirty; split <;> [rfl; (split <;> rfl)]
@[simp] theorem State.markDirty_nextId (s : State) (l : Nat) : (s.markDirty l).nextId = s.nextId := by
  unfold State.markDirty; split <;> [rfl; (split <;> rfl)]
@[simp] theorem State.markDirty_cur (s : State) (l : Nat) : (s.markDirty l).cur = s.cur := by
  unfold State.markDirty; split <;> [rfl; (split <;> rfl)]
@[simp] theorem State.markDirty_curBank (s : State) (l : Nat) : (s.markDirty l).curBank = s.curBank := by
  unfold State.markDirty; split <;> [rfl; (split <;> rfl)]
@[simp] theorem State.markDirty_wales (s : State) (l : Nat) : (s.markDirty l).wales = s.wales := by
  unfold State.markDirty; split <;> [rfl; (split <;> rfl)]
@[simp] theorem State.markDirty_wgs (s : State) (l : Nat) : (s.markDirty l).wgs = s.wgs := by
  unfold State.markDirty; split <;> [rfl; (split <;> rfl)]
@[simp] theorem State.markDirty_pipes (s : State) (l : Nat) : (s.markDirty l).pipes = s.pipes := by
  unfold State.markDirty; split <;> [rfl; (split <;> rfl)]
@[simp] theorem State.markDirty_issuedAt (s : State) (l : Nat) : (s.markDirty l).issuedAt = s.issuedAt := by
  unfold State.markDirty; split <;> [rfl; (split <;> rfl)]
@[simp] theorem State.markDirty_obs (s : State) (l : Nat) : (s.markDirty l).obs = s.obs := by
  unfold State.markDirty; split <;> [rfl; (split <;> rfl)]
@[simp] theorem State.markDirty_mem (s : State) (l : Nat) : (s.markDirty l).mem = s.mem := by
  unfold State.markDirty; split <;> [rfl; (split <;> rfl)]
@[simp] theorem State.markDirty_powerEpoch (s : State) (l : Nat) : (s.markDirty l).powerEpoch = s.powerEpoch := by
  unfold State.markDirty; split <;> [rfl; (split <;> rfl)]
@[simp] theorem State.markDirty_pageEpoch (s : State) (l : Nat) : (s.markDirty l).pageEpoch = s.pageEpoch := by
  unfold State.markDirty; split <;> [rfl; (split <;> rfl)]
@[simp] theorem State.markDirty_near (s : State) (l : Nat) : (s.markDirty l).near = s.near := by
  unfold State.markDirty; split <;> [rfl; (split <;> rfl)]
@[simp] theorem State.markDirty_reqs (s : State) (l : Nat) : (s.markDirty l).reqs = s.reqs := by
  unfold State.markDirty; split <;> [rfl; (split <;> rfl)]
@[simp] theorem State.markDirty_locks (s : State) (l : Nat) : (s.markDirty l).locks = s.locks := by
  unfold State.markDirty; split <;> [rfl; (split <;> rfl)]
@[simp] theorem State.markDirty_rels (s : State) (l : Nat) : (s.markDirty l).rels = s.rels := by
  unfold State.markDirty; split <;> [rfl; (split <;> rfl)]
@[simp] theorem State.markDirty_dirty (s : State) (l : Nat) : (s.markDirty l).dirty = s.dirty := by
  unfold State.markDirty; split <;> [rfl; (split <;> rfl)]
@[simp] theorem State.markDirty_clean (s : State) (l : Nat) : (s.markDirty l).clean = s.clean := by
  unfold State.markDirty; split <;> [rfl; (split <;> rfl)]
@[simp] theorem State.markDirty_relCount (s : State) (l : Nat) : (s.markDirty l).relCount = s.relCount := by
  unfold State.markDirty; split <;> [rfl; (split <;> rfl)]
@[simp] theorem State.markDirty_pendApplied (s : State) (l : Nat) : (s.markDirty l).pendApplied = s.pendApplied := by
  unfold State.markDirty; split <;> [rfl; (split <;> rfl)]
@[simp] theorem State.markDirty_wideFences (s : State) (l : Nat) : (s.markDirty l).wideFences = s.wideFences := by
  unfold State.markDirty; split <;> [rfl; (split <;> rfl)]
@[simp] theorem State.markDirty_layPend (s : State) (l : Nat) : (s.markDirty l).layPend = s.layPend := by
  unfold State.markDirty; split <;> [rfl; (split <;> rfl)]
@[simp] theorem State.markDirty_foldSlots (s : State) (l : Nat) : (s.markDirty l).foldSlots = s.foldSlots := by
  unfold State.markDirty; split <;> [rfl; (split <;> rfl)]
@[simp] theorem State.markDirty_layouts (s : State) (l : Nat) : (s.markDirty l).layouts = s.layouts := by
  unfold State.markDirty; split <;> [rfl; (split <;> rfl)]
@[simp] theorem State.markDirty_rings (s : State) (l : Nat) : (s.markDirty l).rings = s.rings := by
  unfold State.markDirty; split <;> [rfl; (split <;> rfl)]
@[simp] theorem State.markDirty_tlbs (s : State) (l : Nat) : (s.markDirty l).tlbs = s.tlbs := by
  unfold State.markDirty; split <;> [rfl; (split <;> rfl)]
@[simp] theorem State.markDirty_inval (s : State) (l : Nat) : (s.markDirty l).inval = s.inval := by
  unfold State.markDirty; split <;> [rfl; (split <;> rfl)]
@[simp] theorem State.markDirty_regs (s : State) (l : Nat) : (s.markDirty l).regs = s.regs := by
  unfold State.markDirty; split <;> [rfl; (split <;> rfl)]
@[simp] theorem State.markDirty_faultTail (s : State) (l : Nat) : (s.markDirty l).faultTail = s.faultTail := by
  unfold State.markDirty; split <;> [rfl; (split <;> rfl)]
@[simp] theorem State.markDirty_faultHead (s : State) (l : Nat) : (s.markDirty l).faultHead = s.faultHead := by
  unfold State.markDirty; split <;> [rfl; (split <;> rfl)]
@[simp] theorem State.markDirty_faultRing (s : State) (l : Nat) : (s.markDirty l).faultRing = s.faultRing := by
  unfold State.markDirty; split <;> [rfl; (split <;> rfl)]
@[simp] theorem State.markDirty_faultHeld (s : State) (l : Nat) : (s.markDirty l).faultHeld = s.faultHeld := by
  unfold State.markDirty; split <;> [rfl; (split <;> rfl)]
@[simp] theorem State.markDirty_events (s : State) (l : Nat) : (s.markDirty l).events = s.events := by
  unfold State.markDirty; split <;> [rfl; (split <;> rfl)]
@[simp] theorem State.markDirty_evHeld (s : State) (l : Nat) : (s.markDirty l).evHeld = s.evHeld := by
  unfold State.markDirty; split <;> [rfl; (split <;> rfl)]
@[simp] theorem State.markDirty_contHeld (s : State) (l : Nat) : (s.markDirty l).contHeld = s.contHeld := by
  unfold State.markDirty; split <;> [rfl; (split <;> rfl)]
@[simp] theorem State.markDirty_ctxRecs (s : State) (l : Nat) : (s.markDirty l).ctxRecs = s.ctxRecs := by
  unfold State.markDirty; split <;> [rfl; (split <;> rfl)]
@[simp] theorem State.markDirty_ctxStopped (s : State) (l : Nat) : (s.markDirty l).ctxStopped = s.ctxStopped := by
  unfold State.markDirty; split <;> [rfl; (split <;> rfl)]
@[simp] theorem State.markDirty_weaverStopped (s : State) (l : Nat) : (s.markDirty l).weaverStopped = s.weaverStopped := by
  unfold State.markDirty; split <;> [rfl; (split <;> rfl)]
@[simp] theorem State.markDirty_queueSt (s : State) (l : Nat) : (s.markDirty l).queueSt = s.queueSt := by
  unfold State.markDirty; split <;> [rfl; (split <;> rfl)]
@[simp] theorem State.markDirty_launches (s : State) (l : Nat) : (s.markDirty l).launches = s.launches := by
  unfold State.markDirty; split <;> [rfl; (split <;> rfl)]
@[simp] theorem State.markDirty_claims (s : State) (l : Nat) : (s.markDirty l).claims = s.claims := by
  unfold State.markDirty; split <;> [rfl; (split <;> rfl)]
@[simp] theorem State.markDirty_wvPend (s : State) (l : Nat) : (s.markDirty l).wvPend = s.wvPend := by
  unfold State.markDirty; split <;> [rfl; (split <;> rfl)]
@[simp] theorem State.markDirty_retired (s : State) (l : Nat) : (s.markDirty l).retired = s.retired := by
  unfold State.markDirty; split <;> [rfl; (split <;> rfl)]
@[simp] theorem State.markDirty_lastServed (s : State) (l : Nat) : (s.markDirty l).lastServed = s.lastServed := by
  unfold State.markDirty; split <;> [rfl; (split <;> rfl)]
@[simp] theorem State.markDirty_coreTasks (s : State) (l : Nat) : (s.markDirty l).coreTasks = s.coreTasks := by
  unfold State.markDirty; split <;> [rfl; (split <;> rfl)]
@[simp] theorem State.markDirty_dieTasks (s : State) (l : Nat) : (s.markDirty l).dieTasks = s.dieTasks := by
  unfold State.markDirty; split <;> [rfl; (split <;> rfl)]
@[simp] theorem State.markDirty_bankTasks (s : State) (l : Nat) : (s.markDirty l).bankTasks = s.bankTasks := by
  unfold State.markDirty; split <;> [rfl; (split <;> rfl)]
@[simp] theorem State.markDirty_arrays (s : State) (l : Nat) : (s.markDirty l).arrays = s.arrays := by
  unfold State.markDirty; split <;> [rfl; (split <;> rfl)]
@[simp] theorem State.markDirty_banks (s : State) (l : Nat) : (s.markDirty l).banks = s.banks := by
  unfold State.markDirty; split <;> [rfl; (split <;> rfl)]
@[simp] theorem State.markDirty_images (s : State) (l : Nat) : (s.markDirty l).images = s.images := by
  unfold State.markDirty; split <;> [rfl; (split <;> rfl)]
@[simp] theorem State.markDirty_forwards (s : State) (l : Nat) : (s.markDirty l).forwards = s.forwards := by
  unfold State.markDirty; split <;> [rfl; (split <;> rfl)]
@[simp] theorem State.markDirty_slew (s : State) (l : Nat) : (s.markDirty l).slew = s.slew := by
  unfold State.markDirty; split <;> [rfl; (split <;> rfl)]
@[simp] theorem State.markDirty_ckpt (s : State) (l : Nat) : (s.markDirty l).ckpt = s.ckpt := by
  unfold State.markDirty; split <;> [rfl; (split <;> rfl)]
@[simp] theorem State.markDirty_links (s : State) (l : Nat) : (s.markDirty l).links = s.links := by
  unfold State.markDirty; split <;> [rfl; (split <;> rfl)]
@[simp] theorem State.markDirty_msix (s : State) (l : Nat) : (s.markDirty l).msix = s.msix := by
  unfold State.markDirty; split <;> [rfl; (split <;> rfl)]
@[simp] theorem State.markDirty_hostRead (s : State) (l : Nat) : (s.markDirty l).hostRead = s.hostRead := by
  unfold State.markDirty; split <;> [rfl; (split <;> rfl)]
@[simp] theorem State.markDirty_peerFail (s : State) (l : Nat) : (s.markDirty l).peerFail = s.peerFail := by
  unfold State.markDirty; split <;> [rfl; (split <;> rfl)]
@[simp] theorem State.markDirty_predone (s : State) (l : Nat) : (s.markDirty l).predone = s.predone := by
  unfold State.markDirty; split <;> [rfl; (split <;> rfl)]
@[simp] theorem State.markDirty_preempting (s : State) (l : Nat) : (s.markDirty l).preempting = s.preempting := by
  unfold State.markDirty; split <;> [rfl; (split <;> rfl)]
@[simp] theorem State.markDirty_boot (s : State) (l : Nat) : (s.markDirty l).boot = s.boot := by
  unfold State.markDirty; split <;> [rfl; (split <;> rfl)]
@[simp] theorem State.markDirty_bootCnt (s : State) (l : Nat) : (s.markDirty l).bootCnt = s.bootCnt := by
  unfold State.markDirty; split <;> [rfl; (split <;> rfl)]
@[simp] theorem State.markDirty_nextBlk (s : State) (l : Nat) : (s.markDirty l).nextBlk = s.nextBlk := by
  unfold State.markDirty; split <;> [rfl; (split <;> rfl)]
@[simp] theorem State.markDirty_report (s : State) (l : Nat) : (s.markDirty l).report = s.report := by
  unfold State.markDirty; split <;> [rfl; (split <;> rfl)]
@[simp] theorem State.markDirty_leavesLeft (s : State) (l : Nat) : (s.markDirty l).leavesLeft = s.leavesLeft := by
  unfold State.markDirty; split <;> [rfl; (split <;> rfl)]
@[simp] theorem State.markDirty_bootAt (s : State) (l : Nat) : (s.markDirty l).bootAt = s.bootAt := by
  unfold State.markDirty; split <;> [rfl; (split <;> rfl)]
@[simp] theorem State.markDirty_withheld (s : State) (l : Nat) : (s.markDirty l).withheld = s.withheld := by
  unfold State.markDirty; split <;> [rfl; (split <;> rfl)]
@[simp] theorem State.markDirty_part (s : State) (l : Nat) : (s.markDirty l).part = s.part := by
  unfold State.markDirty; split <;> [rfl; (split <;> rfl)]
@[simp] theorem State.markDirty_partSig (s : State) (l : Nat) : (s.markDirty l).partSig = s.partSig := by
  unfold State.markDirty; split <;> [rfl; (split <;> rfl)]
@[simp] theorem State.markDirty_lost (s : State) (l : Nat) : (s.markDirty l).lost = s.lost := by
  unfold State.markDirty; split <;> [rfl; (split <;> rfl)]
@[simp] theorem State.markDirty_firmware (s : State) (l : Nat) : (s.markDirty l).firmware = s.firmware := by
  unfold State.markDirty; split <;> [rfl; (split <;> rfl)]
@[simp] theorem State.markDirty_attested (s : State) (l : Nat) : (s.markDirty l).attested = s.attested := by
  unfold State.markDirty; split <;> [rfl; (split <;> rfl)]
@[simp] theorem State.markDirty_badWords (s : State) (l : Nat) : (s.markDirty l).badWords = s.badWords := by
  unfold State.markDirty; split <;> [rfl; (split <;> rfl)]
@[simp] theorem State.markDirty_absent (s : State) (l : Nat) : (s.markDirty l).absent = s.absent := by
  unfold State.markDirty; split <;> [rfl; (split <;> rfl)]
@[simp] theorem State.markDirty_power (s : State) (l : Nat) : (s.markDirty l).power = s.power := by
  unfold State.markDirty; split <;> [rfl; (split <;> rfl)]
@[simp] theorem State.markDirty_idleSince (s : State) (l : Nat) : (s.markDirty l).idleSince = s.idleSince := by
  unfold State.markDirty; split <;> [rfl; (split <;> rfl)]
@[simp] theorem State.markDirty_wakeAt (s : State) (l : Nat) : (s.markDirty l).wakeAt = s.wakeAt := by
  unfold State.markDirty; split <;> [rfl; (split <;> rfl)]
@[simp] theorem State.markDirty_psDropped (s : State) (l : Nat) : (s.markDirty l).psDropped = s.psDropped := by
  unfold State.markDirty; split <;> [rfl; (split <;> rfl)]
@[simp] theorem State.markDirty_oldWords (s : State) (l : Nat) : (s.markDirty l).oldWords = s.oldWords := by
  unfold State.markDirty; split <;> [rfl; (split <;> rfl)]
@[simp] theorem State.markDirty_rewrites (s : State) (l : Nat) : (s.markDirty l).rewrites = s.rewrites := by
  unfold State.markDirty; split <;> [rfl; (split <;> rfl)]
@[simp] theorem State.markDirty_wvIssues (s : State) (l : Nat) : (s.markDirty l).wvIssues = s.wvIssues := by
  unfold State.markDirty; split <;> [rfl; (split <;> rfl)]
@[simp] theorem State.markDirty_absentHit (s : State) (l : Nat) : (s.markDirty l).absentHit = s.absentHit := by
  unfold State.markDirty; split <;> [rfl; (split <;> rfl)]

/-! ### keepOld -/

@[simp] theorem State.keepOld_clk (s : State) (l : Nat) : (s.keepOld l).clk = s.clk := by
  unfold State.keepOld; split <;> rfl
@[simp] theorem State.keepOld_coreReset (s : State) (l : Nat) : (s.keepOld l).coreReset = s.coreReset := by
  unfold State.keepOld; split <;> rfl
@[simp] theorem State.keepOld_agenda (s : State) (l : Nat) : (s.keepOld l).agenda = s.agenda := by
  unfold State.keepOld; split <;> rfl
@[simp] theorem State.keepOld_free (s : State) (l : Nat) : (s.keepOld l).free = s.free := by
  unfold State.keepOld; split <;> rfl
@[simp] theorem State.keepOld_nextId (s : State) (l : Nat) : (s.keepOld l).nextId = s.nextId := by
  unfold State.keepOld; split <;> rfl
@[simp] theorem State.keepOld_cur (s : State) (l : Nat) : (s.keepOld l).cur = s.cur := by
  unfold State.keepOld; split <;> rfl
@[simp] theorem State.keepOld_curBank (s : State) (l : Nat) : (s.keepOld l).curBank = s.curBank := by
  unfold State.keepOld; split <;> rfl
@[simp] theorem State.keepOld_wales (s : State) (l : Nat) : (s.keepOld l).wales = s.wales := by
  unfold State.keepOld; split <;> rfl
@[simp] theorem State.keepOld_wgs (s : State) (l : Nat) : (s.keepOld l).wgs = s.wgs := by
  unfold State.keepOld; split <;> rfl
@[simp] theorem State.keepOld_pipes (s : State) (l : Nat) : (s.keepOld l).pipes = s.pipes := by
  unfold State.keepOld; split <;> rfl
@[simp] theorem State.keepOld_issuedAt (s : State) (l : Nat) : (s.keepOld l).issuedAt = s.issuedAt := by
  unfold State.keepOld; split <;> rfl
@[simp] theorem State.keepOld_obs (s : State) (l : Nat) : (s.keepOld l).obs = s.obs := by
  unfold State.keepOld; split <;> rfl
@[simp] theorem State.keepOld_mem (s : State) (l : Nat) : (s.keepOld l).mem = s.mem := by
  unfold State.keepOld; split <;> rfl
@[simp] theorem State.keepOld_powerEpoch (s : State) (l : Nat) : (s.keepOld l).powerEpoch = s.powerEpoch := by
  unfold State.keepOld; split <;> rfl
@[simp] theorem State.keepOld_pageEpoch (s : State) (l : Nat) : (s.keepOld l).pageEpoch = s.pageEpoch := by
  unfold State.keepOld; split <;> rfl
@[simp] theorem State.keepOld_near (s : State) (l : Nat) : (s.keepOld l).near = s.near := by
  unfold State.keepOld; split <;> rfl
@[simp] theorem State.keepOld_reqs (s : State) (l : Nat) : (s.keepOld l).reqs = s.reqs := by
  unfold State.keepOld; split <;> rfl
@[simp] theorem State.keepOld_locks (s : State) (l : Nat) : (s.keepOld l).locks = s.locks := by
  unfold State.keepOld; split <;> rfl
@[simp] theorem State.keepOld_rels (s : State) (l : Nat) : (s.keepOld l).rels = s.rels := by
  unfold State.keepOld; split <;> rfl
@[simp] theorem State.keepOld_dirty (s : State) (l : Nat) : (s.keepOld l).dirty = s.dirty := by
  unfold State.keepOld; split <;> rfl
@[simp] theorem State.keepOld_clean (s : State) (l : Nat) : (s.keepOld l).clean = s.clean := by
  unfold State.keepOld; split <;> rfl
@[simp] theorem State.keepOld_relCount (s : State) (l : Nat) : (s.keepOld l).relCount = s.relCount := by
  unfold State.keepOld; split <;> rfl
@[simp] theorem State.keepOld_pendApplied (s : State) (l : Nat) : (s.keepOld l).pendApplied = s.pendApplied := by
  unfold State.keepOld; split <;> rfl
@[simp] theorem State.keepOld_wideFences (s : State) (l : Nat) : (s.keepOld l).wideFences = s.wideFences := by
  unfold State.keepOld; split <;> rfl
@[simp] theorem State.keepOld_layPend (s : State) (l : Nat) : (s.keepOld l).layPend = s.layPend := by
  unfold State.keepOld; split <;> rfl
@[simp] theorem State.keepOld_foldSlots (s : State) (l : Nat) : (s.keepOld l).foldSlots = s.foldSlots := by
  unfold State.keepOld; split <;> rfl
@[simp] theorem State.keepOld_layouts (s : State) (l : Nat) : (s.keepOld l).layouts = s.layouts := by
  unfold State.keepOld; split <;> rfl
@[simp] theorem State.keepOld_rings (s : State) (l : Nat) : (s.keepOld l).rings = s.rings := by
  unfold State.keepOld; split <;> rfl
@[simp] theorem State.keepOld_tlbs (s : State) (l : Nat) : (s.keepOld l).tlbs = s.tlbs := by
  unfold State.keepOld; split <;> rfl
@[simp] theorem State.keepOld_inval (s : State) (l : Nat) : (s.keepOld l).inval = s.inval := by
  unfold State.keepOld; split <;> rfl
@[simp] theorem State.keepOld_regs (s : State) (l : Nat) : (s.keepOld l).regs = s.regs := by
  unfold State.keepOld; split <;> rfl
@[simp] theorem State.keepOld_faultTail (s : State) (l : Nat) : (s.keepOld l).faultTail = s.faultTail := by
  unfold State.keepOld; split <;> rfl
@[simp] theorem State.keepOld_faultHead (s : State) (l : Nat) : (s.keepOld l).faultHead = s.faultHead := by
  unfold State.keepOld; split <;> rfl
@[simp] theorem State.keepOld_faultRing (s : State) (l : Nat) : (s.keepOld l).faultRing = s.faultRing := by
  unfold State.keepOld; split <;> rfl
@[simp] theorem State.keepOld_faultHeld (s : State) (l : Nat) : (s.keepOld l).faultHeld = s.faultHeld := by
  unfold State.keepOld; split <;> rfl
@[simp] theorem State.keepOld_events (s : State) (l : Nat) : (s.keepOld l).events = s.events := by
  unfold State.keepOld; split <;> rfl
@[simp] theorem State.keepOld_evHeld (s : State) (l : Nat) : (s.keepOld l).evHeld = s.evHeld := by
  unfold State.keepOld; split <;> rfl
@[simp] theorem State.keepOld_contHeld (s : State) (l : Nat) : (s.keepOld l).contHeld = s.contHeld := by
  unfold State.keepOld; split <;> rfl
@[simp] theorem State.keepOld_ctxRecs (s : State) (l : Nat) : (s.keepOld l).ctxRecs = s.ctxRecs := by
  unfold State.keepOld; split <;> rfl
@[simp] theorem State.keepOld_ctxStopped (s : State) (l : Nat) : (s.keepOld l).ctxStopped = s.ctxStopped := by
  unfold State.keepOld; split <;> rfl
@[simp] theorem State.keepOld_weaverStopped (s : State) (l : Nat) : (s.keepOld l).weaverStopped = s.weaverStopped := by
  unfold State.keepOld; split <;> rfl
@[simp] theorem State.keepOld_queueSt (s : State) (l : Nat) : (s.keepOld l).queueSt = s.queueSt := by
  unfold State.keepOld; split <;> rfl
@[simp] theorem State.keepOld_launches (s : State) (l : Nat) : (s.keepOld l).launches = s.launches := by
  unfold State.keepOld; split <;> rfl
@[simp] theorem State.keepOld_claims (s : State) (l : Nat) : (s.keepOld l).claims = s.claims := by
  unfold State.keepOld; split <;> rfl
@[simp] theorem State.keepOld_wvPend (s : State) (l : Nat) : (s.keepOld l).wvPend = s.wvPend := by
  unfold State.keepOld; split <;> rfl
@[simp] theorem State.keepOld_retired (s : State) (l : Nat) : (s.keepOld l).retired = s.retired := by
  unfold State.keepOld; split <;> rfl
@[simp] theorem State.keepOld_lastServed (s : State) (l : Nat) : (s.keepOld l).lastServed = s.lastServed := by
  unfold State.keepOld; split <;> rfl
@[simp] theorem State.keepOld_coreTasks (s : State) (l : Nat) : (s.keepOld l).coreTasks = s.coreTasks := by
  unfold State.keepOld; split <;> rfl
@[simp] theorem State.keepOld_dieTasks (s : State) (l : Nat) : (s.keepOld l).dieTasks = s.dieTasks := by
  unfold State.keepOld; split <;> rfl
@[simp] theorem State.keepOld_bankTasks (s : State) (l : Nat) : (s.keepOld l).bankTasks = s.bankTasks := by
  unfold State.keepOld; split <;> rfl
@[simp] theorem State.keepOld_arrays (s : State) (l : Nat) : (s.keepOld l).arrays = s.arrays := by
  unfold State.keepOld; split <;> rfl
@[simp] theorem State.keepOld_banks (s : State) (l : Nat) : (s.keepOld l).banks = s.banks := by
  unfold State.keepOld; split <;> rfl
@[simp] theorem State.keepOld_images (s : State) (l : Nat) : (s.keepOld l).images = s.images := by
  unfold State.keepOld; split <;> rfl
@[simp] theorem State.keepOld_forwards (s : State) (l : Nat) : (s.keepOld l).forwards = s.forwards := by
  unfold State.keepOld; split <;> rfl
@[simp] theorem State.keepOld_dirtyGranules (s : State) (l : Nat) : (s.keepOld l).dirtyGranules = s.dirtyGranules := by
  unfold State.keepOld; split <;> rfl
@[simp] theorem State.keepOld_slew (s : State) (l : Nat) : (s.keepOld l).slew = s.slew := by
  unfold State.keepOld; split <;> rfl
@[simp] theorem State.keepOld_ckpt (s : State) (l : Nat) : (s.keepOld l).ckpt = s.ckpt := by
  unfold State.keepOld; split <;> rfl
@[simp] theorem State.keepOld_links (s : State) (l : Nat) : (s.keepOld l).links = s.links := by
  unfold State.keepOld; split <;> rfl
@[simp] theorem State.keepOld_msix (s : State) (l : Nat) : (s.keepOld l).msix = s.msix := by
  unfold State.keepOld; split <;> rfl
@[simp] theorem State.keepOld_hostRead (s : State) (l : Nat) : (s.keepOld l).hostRead = s.hostRead := by
  unfold State.keepOld; split <;> rfl
@[simp] theorem State.keepOld_peerFail (s : State) (l : Nat) : (s.keepOld l).peerFail = s.peerFail := by
  unfold State.keepOld; split <;> rfl
@[simp] theorem State.keepOld_predone (s : State) (l : Nat) : (s.keepOld l).predone = s.predone := by
  unfold State.keepOld; split <;> rfl
@[simp] theorem State.keepOld_preempting (s : State) (l : Nat) : (s.keepOld l).preempting = s.preempting := by
  unfold State.keepOld; split <;> rfl
@[simp] theorem State.keepOld_boot (s : State) (l : Nat) : (s.keepOld l).boot = s.boot := by
  unfold State.keepOld; split <;> rfl
@[simp] theorem State.keepOld_bootCnt (s : State) (l : Nat) : (s.keepOld l).bootCnt = s.bootCnt := by
  unfold State.keepOld; split <;> rfl
@[simp] theorem State.keepOld_nextBlk (s : State) (l : Nat) : (s.keepOld l).nextBlk = s.nextBlk := by
  unfold State.keepOld; split <;> rfl
@[simp] theorem State.keepOld_report (s : State) (l : Nat) : (s.keepOld l).report = s.report := by
  unfold State.keepOld; split <;> rfl
@[simp] theorem State.keepOld_leavesLeft (s : State) (l : Nat) : (s.keepOld l).leavesLeft = s.leavesLeft := by
  unfold State.keepOld; split <;> rfl
@[simp] theorem State.keepOld_bootAt (s : State) (l : Nat) : (s.keepOld l).bootAt = s.bootAt := by
  unfold State.keepOld; split <;> rfl
@[simp] theorem State.keepOld_withheld (s : State) (l : Nat) : (s.keepOld l).withheld = s.withheld := by
  unfold State.keepOld; split <;> rfl
@[simp] theorem State.keepOld_part (s : State) (l : Nat) : (s.keepOld l).part = s.part := by
  unfold State.keepOld; split <;> rfl
@[simp] theorem State.keepOld_partSig (s : State) (l : Nat) : (s.keepOld l).partSig = s.partSig := by
  unfold State.keepOld; split <;> rfl
@[simp] theorem State.keepOld_lost (s : State) (l : Nat) : (s.keepOld l).lost = s.lost := by
  unfold State.keepOld; split <;> rfl
@[simp] theorem State.keepOld_firmware (s : State) (l : Nat) : (s.keepOld l).firmware = s.firmware := by
  unfold State.keepOld; split <;> rfl
@[simp] theorem State.keepOld_attested (s : State) (l : Nat) : (s.keepOld l).attested = s.attested := by
  unfold State.keepOld; split <;> rfl
@[simp] theorem State.keepOld_badWords (s : State) (l : Nat) : (s.keepOld l).badWords = s.badWords := by
  unfold State.keepOld; split <;> rfl
@[simp] theorem State.keepOld_absent (s : State) (l : Nat) : (s.keepOld l).absent = s.absent := by
  unfold State.keepOld; split <;> rfl
@[simp] theorem State.keepOld_power (s : State) (l : Nat) : (s.keepOld l).power = s.power := by
  unfold State.keepOld; split <;> rfl
@[simp] theorem State.keepOld_idleSince (s : State) (l : Nat) : (s.keepOld l).idleSince = s.idleSince := by
  unfold State.keepOld; split <;> rfl
@[simp] theorem State.keepOld_wakeAt (s : State) (l : Nat) : (s.keepOld l).wakeAt = s.wakeAt := by
  unfold State.keepOld; split <;> rfl
@[simp] theorem State.keepOld_psDropped (s : State) (l : Nat) : (s.keepOld l).psDropped = s.psDropped := by
  unfold State.keepOld; split <;> rfl
@[simp] theorem State.keepOld_wvIssues (s : State) (l : Nat) : (s.keepOld l).wvIssues = s.wvIssues := by
  unfold State.keepOld; split <;> rfl
@[simp] theorem State.keepOld_absentHit (s : State) (l : Nat) : (s.keepOld l).absentHit = s.absentHit := by
  unfold State.keepOld; split <;> rfl

/-! ### keepOlds -/

@[simp] theorem State.keepOlds_clk (ks : List Nat) (s : State) : (ks.foldl State.keepOld s).clk = s.clk := by
  induction ks generalizing s <;> simp [*]
@[simp] theorem State.keepOlds_coreReset (ks : List Nat) (s : State) : (ks.foldl State.keepOld s).coreReset = s.coreReset := by
  induction ks generalizing s <;> simp [*]
@[simp] theorem State.keepOlds_agenda (ks : List Nat) (s : State) : (ks.foldl State.keepOld s).agenda = s.agenda := by
  induction ks generalizing s <;> simp [*]
@[simp] theorem State.keepOlds_free (ks : List Nat) (s : State) : (ks.foldl State.keepOld s).free = s.free := by
  induction ks generalizing s <;> simp [*]
@[simp] theorem State.keepOlds_nextId (ks : List Nat) (s : State) : (ks.foldl State.keepOld s).nextId = s.nextId := by
  induction ks generalizing s <;> simp [*]
@[simp] theorem State.keepOlds_cur (ks : List Nat) (s : State) : (ks.foldl State.keepOld s).cur = s.cur := by
  induction ks generalizing s <;> simp [*]
@[simp] theorem State.keepOlds_curBank (ks : List Nat) (s : State) : (ks.foldl State.keepOld s).curBank = s.curBank := by
  induction ks generalizing s <;> simp [*]
@[simp] theorem State.keepOlds_wales (ks : List Nat) (s : State) : (ks.foldl State.keepOld s).wales = s.wales := by
  induction ks generalizing s <;> simp [*]
@[simp] theorem State.keepOlds_wgs (ks : List Nat) (s : State) : (ks.foldl State.keepOld s).wgs = s.wgs := by
  induction ks generalizing s <;> simp [*]
@[simp] theorem State.keepOlds_pipes (ks : List Nat) (s : State) : (ks.foldl State.keepOld s).pipes = s.pipes := by
  induction ks generalizing s <;> simp [*]
@[simp] theorem State.keepOlds_issuedAt (ks : List Nat) (s : State) : (ks.foldl State.keepOld s).issuedAt = s.issuedAt := by
  induction ks generalizing s <;> simp [*]
@[simp] theorem State.keepOlds_obs (ks : List Nat) (s : State) : (ks.foldl State.keepOld s).obs = s.obs := by
  induction ks generalizing s <;> simp [*]
@[simp] theorem State.keepOlds_mem (ks : List Nat) (s : State) : (ks.foldl State.keepOld s).mem = s.mem := by
  induction ks generalizing s <;> simp [*]
@[simp] theorem State.keepOlds_powerEpoch (ks : List Nat) (s : State) : (ks.foldl State.keepOld s).powerEpoch = s.powerEpoch := by
  induction ks generalizing s <;> simp [*]
@[simp] theorem State.keepOlds_pageEpoch (ks : List Nat) (s : State) : (ks.foldl State.keepOld s).pageEpoch = s.pageEpoch := by
  induction ks generalizing s <;> simp [*]
@[simp] theorem State.keepOlds_near (ks : List Nat) (s : State) : (ks.foldl State.keepOld s).near = s.near := by
  induction ks generalizing s <;> simp [*]
@[simp] theorem State.keepOlds_reqs (ks : List Nat) (s : State) : (ks.foldl State.keepOld s).reqs = s.reqs := by
  induction ks generalizing s <;> simp [*]
@[simp] theorem State.keepOlds_locks (ks : List Nat) (s : State) : (ks.foldl State.keepOld s).locks = s.locks := by
  induction ks generalizing s <;> simp [*]
@[simp] theorem State.keepOlds_rels (ks : List Nat) (s : State) : (ks.foldl State.keepOld s).rels = s.rels := by
  induction ks generalizing s <;> simp [*]
@[simp] theorem State.keepOlds_dirty (ks : List Nat) (s : State) : (ks.foldl State.keepOld s).dirty = s.dirty := by
  induction ks generalizing s <;> simp [*]
@[simp] theorem State.keepOlds_clean (ks : List Nat) (s : State) : (ks.foldl State.keepOld s).clean = s.clean := by
  induction ks generalizing s <;> simp [*]
@[simp] theorem State.keepOlds_relCount (ks : List Nat) (s : State) : (ks.foldl State.keepOld s).relCount = s.relCount := by
  induction ks generalizing s <;> simp [*]
@[simp] theorem State.keepOlds_pendApplied (ks : List Nat) (s : State) : (ks.foldl State.keepOld s).pendApplied = s.pendApplied := by
  induction ks generalizing s <;> simp [*]
@[simp] theorem State.keepOlds_wideFences (ks : List Nat) (s : State) : (ks.foldl State.keepOld s).wideFences = s.wideFences := by
  induction ks generalizing s <;> simp [*]
@[simp] theorem State.keepOlds_layPend (ks : List Nat) (s : State) : (ks.foldl State.keepOld s).layPend = s.layPend := by
  induction ks generalizing s <;> simp [*]
@[simp] theorem State.keepOlds_foldSlots (ks : List Nat) (s : State) : (ks.foldl State.keepOld s).foldSlots = s.foldSlots := by
  induction ks generalizing s <;> simp [*]
@[simp] theorem State.keepOlds_layouts (ks : List Nat) (s : State) : (ks.foldl State.keepOld s).layouts = s.layouts := by
  induction ks generalizing s <;> simp [*]
@[simp] theorem State.keepOlds_rings (ks : List Nat) (s : State) : (ks.foldl State.keepOld s).rings = s.rings := by
  induction ks generalizing s <;> simp [*]
@[simp] theorem State.keepOlds_tlbs (ks : List Nat) (s : State) : (ks.foldl State.keepOld s).tlbs = s.tlbs := by
  induction ks generalizing s <;> simp [*]
@[simp] theorem State.keepOlds_inval (ks : List Nat) (s : State) : (ks.foldl State.keepOld s).inval = s.inval := by
  induction ks generalizing s <;> simp [*]
@[simp] theorem State.keepOlds_regs (ks : List Nat) (s : State) : (ks.foldl State.keepOld s).regs = s.regs := by
  induction ks generalizing s <;> simp [*]
@[simp] theorem State.keepOlds_faultTail (ks : List Nat) (s : State) : (ks.foldl State.keepOld s).faultTail = s.faultTail := by
  induction ks generalizing s <;> simp [*]
@[simp] theorem State.keepOlds_faultHead (ks : List Nat) (s : State) : (ks.foldl State.keepOld s).faultHead = s.faultHead := by
  induction ks generalizing s <;> simp [*]
@[simp] theorem State.keepOlds_faultRing (ks : List Nat) (s : State) : (ks.foldl State.keepOld s).faultRing = s.faultRing := by
  induction ks generalizing s <;> simp [*]
@[simp] theorem State.keepOlds_faultHeld (ks : List Nat) (s : State) : (ks.foldl State.keepOld s).faultHeld = s.faultHeld := by
  induction ks generalizing s <;> simp [*]
@[simp] theorem State.keepOlds_events (ks : List Nat) (s : State) : (ks.foldl State.keepOld s).events = s.events := by
  induction ks generalizing s <;> simp [*]
@[simp] theorem State.keepOlds_evHeld (ks : List Nat) (s : State) : (ks.foldl State.keepOld s).evHeld = s.evHeld := by
  induction ks generalizing s <;> simp [*]
@[simp] theorem State.keepOlds_contHeld (ks : List Nat) (s : State) : (ks.foldl State.keepOld s).contHeld = s.contHeld := by
  induction ks generalizing s <;> simp [*]
@[simp] theorem State.keepOlds_ctxRecs (ks : List Nat) (s : State) : (ks.foldl State.keepOld s).ctxRecs = s.ctxRecs := by
  induction ks generalizing s <;> simp [*]
@[simp] theorem State.keepOlds_ctxStopped (ks : List Nat) (s : State) : (ks.foldl State.keepOld s).ctxStopped = s.ctxStopped := by
  induction ks generalizing s <;> simp [*]
@[simp] theorem State.keepOlds_weaverStopped (ks : List Nat) (s : State) : (ks.foldl State.keepOld s).weaverStopped = s.weaverStopped := by
  induction ks generalizing s <;> simp [*]
@[simp] theorem State.keepOlds_queueSt (ks : List Nat) (s : State) : (ks.foldl State.keepOld s).queueSt = s.queueSt := by
  induction ks generalizing s <;> simp [*]
@[simp] theorem State.keepOlds_launches (ks : List Nat) (s : State) : (ks.foldl State.keepOld s).launches = s.launches := by
  induction ks generalizing s <;> simp [*]
@[simp] theorem State.keepOlds_claims (ks : List Nat) (s : State) : (ks.foldl State.keepOld s).claims = s.claims := by
  induction ks generalizing s <;> simp [*]
@[simp] theorem State.keepOlds_wvPend (ks : List Nat) (s : State) : (ks.foldl State.keepOld s).wvPend = s.wvPend := by
  induction ks generalizing s <;> simp [*]
@[simp] theorem State.keepOlds_retired (ks : List Nat) (s : State) : (ks.foldl State.keepOld s).retired = s.retired := by
  induction ks generalizing s <;> simp [*]
@[simp] theorem State.keepOlds_lastServed (ks : List Nat) (s : State) : (ks.foldl State.keepOld s).lastServed = s.lastServed := by
  induction ks generalizing s <;> simp [*]
@[simp] theorem State.keepOlds_coreTasks (ks : List Nat) (s : State) : (ks.foldl State.keepOld s).coreTasks = s.coreTasks := by
  induction ks generalizing s <;> simp [*]
@[simp] theorem State.keepOlds_dieTasks (ks : List Nat) (s : State) : (ks.foldl State.keepOld s).dieTasks = s.dieTasks := by
  induction ks generalizing s <;> simp [*]
@[simp] theorem State.keepOlds_bankTasks (ks : List Nat) (s : State) : (ks.foldl State.keepOld s).bankTasks = s.bankTasks := by
  induction ks generalizing s <;> simp [*]
@[simp] theorem State.keepOlds_arrays (ks : List Nat) (s : State) : (ks.foldl State.keepOld s).arrays = s.arrays := by
  induction ks generalizing s <;> simp [*]
@[simp] theorem State.keepOlds_banks (ks : List Nat) (s : State) : (ks.foldl State.keepOld s).banks = s.banks := by
  induction ks generalizing s <;> simp [*]
@[simp] theorem State.keepOlds_images (ks : List Nat) (s : State) : (ks.foldl State.keepOld s).images = s.images := by
  induction ks generalizing s <;> simp [*]
@[simp] theorem State.keepOlds_forwards (ks : List Nat) (s : State) : (ks.foldl State.keepOld s).forwards = s.forwards := by
  induction ks generalizing s <;> simp [*]
@[simp] theorem State.keepOlds_dirtyGranules (ks : List Nat) (s : State) : (ks.foldl State.keepOld s).dirtyGranules = s.dirtyGranules := by
  induction ks generalizing s <;> simp [*]
@[simp] theorem State.keepOlds_slew (ks : List Nat) (s : State) : (ks.foldl State.keepOld s).slew = s.slew := by
  induction ks generalizing s <;> simp [*]
@[simp] theorem State.keepOlds_ckpt (ks : List Nat) (s : State) : (ks.foldl State.keepOld s).ckpt = s.ckpt := by
  induction ks generalizing s <;> simp [*]
@[simp] theorem State.keepOlds_links (ks : List Nat) (s : State) : (ks.foldl State.keepOld s).links = s.links := by
  induction ks generalizing s <;> simp [*]
@[simp] theorem State.keepOlds_msix (ks : List Nat) (s : State) : (ks.foldl State.keepOld s).msix = s.msix := by
  induction ks generalizing s <;> simp [*]
@[simp] theorem State.keepOlds_hostRead (ks : List Nat) (s : State) : (ks.foldl State.keepOld s).hostRead = s.hostRead := by
  induction ks generalizing s <;> simp [*]
@[simp] theorem State.keepOlds_peerFail (ks : List Nat) (s : State) : (ks.foldl State.keepOld s).peerFail = s.peerFail := by
  induction ks generalizing s <;> simp [*]
@[simp] theorem State.keepOlds_predone (ks : List Nat) (s : State) : (ks.foldl State.keepOld s).predone = s.predone := by
  induction ks generalizing s <;> simp [*]
@[simp] theorem State.keepOlds_preempting (ks : List Nat) (s : State) : (ks.foldl State.keepOld s).preempting = s.preempting := by
  induction ks generalizing s <;> simp [*]
@[simp] theorem State.keepOlds_boot (ks : List Nat) (s : State) : (ks.foldl State.keepOld s).boot = s.boot := by
  induction ks generalizing s <;> simp [*]
@[simp] theorem State.keepOlds_bootCnt (ks : List Nat) (s : State) : (ks.foldl State.keepOld s).bootCnt = s.bootCnt := by
  induction ks generalizing s <;> simp [*]
@[simp] theorem State.keepOlds_nextBlk (ks : List Nat) (s : State) : (ks.foldl State.keepOld s).nextBlk = s.nextBlk := by
  induction ks generalizing s <;> simp [*]
@[simp] theorem State.keepOlds_report (ks : List Nat) (s : State) : (ks.foldl State.keepOld s).report = s.report := by
  induction ks generalizing s <;> simp [*]
@[simp] theorem State.keepOlds_leavesLeft (ks : List Nat) (s : State) : (ks.foldl State.keepOld s).leavesLeft = s.leavesLeft := by
  induction ks generalizing s <;> simp [*]
@[simp] theorem State.keepOlds_bootAt (ks : List Nat) (s : State) : (ks.foldl State.keepOld s).bootAt = s.bootAt := by
  induction ks generalizing s <;> simp [*]
@[simp] theorem State.keepOlds_withheld (ks : List Nat) (s : State) : (ks.foldl State.keepOld s).withheld = s.withheld := by
  induction ks generalizing s <;> simp [*]
@[simp] theorem State.keepOlds_part (ks : List Nat) (s : State) : (ks.foldl State.keepOld s).part = s.part := by
  induction ks generalizing s <;> simp [*]
@[simp] theorem State.keepOlds_partSig (ks : List Nat) (s : State) : (ks.foldl State.keepOld s).partSig = s.partSig := by
  induction ks generalizing s <;> simp [*]
@[simp] theorem State.keepOlds_lost (ks : List Nat) (s : State) : (ks.foldl State.keepOld s).lost = s.lost := by
  induction ks generalizing s <;> simp [*]
@[simp] theorem State.keepOlds_firmware (ks : List Nat) (s : State) : (ks.foldl State.keepOld s).firmware = s.firmware := by
  induction ks generalizing s <;> simp [*]
@[simp] theorem State.keepOlds_attested (ks : List Nat) (s : State) : (ks.foldl State.keepOld s).attested = s.attested := by
  induction ks generalizing s <;> simp [*]
@[simp] theorem State.keepOlds_badWords (ks : List Nat) (s : State) : (ks.foldl State.keepOld s).badWords = s.badWords := by
  induction ks generalizing s <;> simp [*]
@[simp] theorem State.keepOlds_absent (ks : List Nat) (s : State) : (ks.foldl State.keepOld s).absent = s.absent := by
  induction ks generalizing s <;> simp [*]
@[simp] theorem State.keepOlds_power (ks : List Nat) (s : State) : (ks.foldl State.keepOld s).power = s.power := by
  induction ks generalizing s <;> simp [*]
@[simp] theorem State.keepOlds_idleSince (ks : List Nat) (s : State) : (ks.foldl State.keepOld s).idleSince = s.idleSince := by
  induction ks generalizing s <;> simp [*]
@[simp] theorem State.keepOlds_wakeAt (ks : List Nat) (s : State) : (ks.foldl State.keepOld s).wakeAt = s.wakeAt := by
  induction ks generalizing s <;> simp [*]
@[simp] theorem State.keepOlds_psDropped (ks : List Nat) (s : State) : (ks.foldl State.keepOld s).psDropped = s.psDropped := by
  induction ks generalizing s <;> simp [*]
@[simp] theorem State.keepOlds_wvIssues (ks : List Nat) (s : State) : (ks.foldl State.keepOld s).wvIssues = s.wvIssues := by
  induction ks generalizing s <;> simp [*]
@[simp] theorem State.keepOlds_absentHit (ks : List Nat) (s : State) : (ks.foldl State.keepOld s).absentHit = s.absentHit := by
  induction ks generalizing s <;> simp [*]

/-! ### writeLoc -/

@[simp] theorem State.writeLoc_clk (s : State) (l : Nat) (bs : List Byte) : (s.writeLoc l bs).clk = s.clk := by
  simp [State.writeLoc]
@[simp] theorem State.writeLoc_coreReset (s : State) (l : Nat) (bs : List Byte) : (s.writeLoc l bs).coreReset = s.coreReset := by
  simp [State.writeLoc]
@[simp] theorem State.writeLoc_agenda (s : State) (l : Nat) (bs : List Byte) : (s.writeLoc l bs).agenda = s.agenda := by
  simp [State.writeLoc]
@[simp] theorem State.writeLoc_free (s : State) (l : Nat) (bs : List Byte) : (s.writeLoc l bs).free = s.free := by
  simp [State.writeLoc]
@[simp] theorem State.writeLoc_nextId (s : State) (l : Nat) (bs : List Byte) : (s.writeLoc l bs).nextId = s.nextId := by
  simp [State.writeLoc]
@[simp] theorem State.writeLoc_cur (s : State) (l : Nat) (bs : List Byte) : (s.writeLoc l bs).cur = s.cur := by
  simp [State.writeLoc]
@[simp] theorem State.writeLoc_curBank (s : State) (l : Nat) (bs : List Byte) : (s.writeLoc l bs).curBank = s.curBank := by
  simp [State.writeLoc]
@[simp] theorem State.writeLoc_wales (s : State) (l : Nat) (bs : List Byte) : (s.writeLoc l bs).wales = s.wales := by
  simp [State.writeLoc]
@[simp] theorem State.writeLoc_wgs (s : State) (l : Nat) (bs : List Byte) : (s.writeLoc l bs).wgs = s.wgs := by
  simp [State.writeLoc]
@[simp] theorem State.writeLoc_pipes (s : State) (l : Nat) (bs : List Byte) : (s.writeLoc l bs).pipes = s.pipes := by
  simp [State.writeLoc]
@[simp] theorem State.writeLoc_issuedAt (s : State) (l : Nat) (bs : List Byte) : (s.writeLoc l bs).issuedAt = s.issuedAt := by
  simp [State.writeLoc]
@[simp] theorem State.writeLoc_obs (s : State) (l : Nat) (bs : List Byte) : (s.writeLoc l bs).obs = s.obs := by
  simp [State.writeLoc]
@[simp] theorem State.writeLoc_powerEpoch (s : State) (l : Nat) (bs : List Byte) : (s.writeLoc l bs).powerEpoch = s.powerEpoch := by
  simp [State.writeLoc]
@[simp] theorem State.writeLoc_pageEpoch (s : State) (l : Nat) (bs : List Byte) : (s.writeLoc l bs).pageEpoch = s.pageEpoch := by
  simp [State.writeLoc]
@[simp] theorem State.writeLoc_near (s : State) (l : Nat) (bs : List Byte) : (s.writeLoc l bs).near = s.near := by
  simp [State.writeLoc]
@[simp] theorem State.writeLoc_reqs (s : State) (l : Nat) (bs : List Byte) : (s.writeLoc l bs).reqs = s.reqs := by
  simp [State.writeLoc]
@[simp] theorem State.writeLoc_locks (s : State) (l : Nat) (bs : List Byte) : (s.writeLoc l bs).locks = s.locks := by
  simp [State.writeLoc]
@[simp] theorem State.writeLoc_rels (s : State) (l : Nat) (bs : List Byte) : (s.writeLoc l bs).rels = s.rels := by
  simp [State.writeLoc]
@[simp] theorem State.writeLoc_dirty (s : State) (l : Nat) (bs : List Byte) : (s.writeLoc l bs).dirty = s.dirty := by
  simp [State.writeLoc]
@[simp] theorem State.writeLoc_relCount (s : State) (l : Nat) (bs : List Byte) : (s.writeLoc l bs).relCount = s.relCount := by
  simp [State.writeLoc]
@[simp] theorem State.writeLoc_pendApplied (s : State) (l : Nat) (bs : List Byte) : (s.writeLoc l bs).pendApplied = s.pendApplied := by
  simp [State.writeLoc]
@[simp] theorem State.writeLoc_wideFences (s : State) (l : Nat) (bs : List Byte) : (s.writeLoc l bs).wideFences = s.wideFences := by
  simp [State.writeLoc]
@[simp] theorem State.writeLoc_layPend (s : State) (l : Nat) (bs : List Byte) : (s.writeLoc l bs).layPend = s.layPend := by
  simp [State.writeLoc]
@[simp] theorem State.writeLoc_foldSlots (s : State) (l : Nat) (bs : List Byte) : (s.writeLoc l bs).foldSlots = s.foldSlots := by
  simp [State.writeLoc]
@[simp] theorem State.writeLoc_layouts (s : State) (l : Nat) (bs : List Byte) : (s.writeLoc l bs).layouts = s.layouts := by
  simp [State.writeLoc]
@[simp] theorem State.writeLoc_rings (s : State) (l : Nat) (bs : List Byte) : (s.writeLoc l bs).rings = s.rings := by
  simp [State.writeLoc]
@[simp] theorem State.writeLoc_tlbs (s : State) (l : Nat) (bs : List Byte) : (s.writeLoc l bs).tlbs = s.tlbs := by
  simp [State.writeLoc]
@[simp] theorem State.writeLoc_inval (s : State) (l : Nat) (bs : List Byte) : (s.writeLoc l bs).inval = s.inval := by
  simp [State.writeLoc]
@[simp] theorem State.writeLoc_regs (s : State) (l : Nat) (bs : List Byte) : (s.writeLoc l bs).regs = s.regs := by
  simp [State.writeLoc]
@[simp] theorem State.writeLoc_faultTail (s : State) (l : Nat) (bs : List Byte) : (s.writeLoc l bs).faultTail = s.faultTail := by
  simp [State.writeLoc]
@[simp] theorem State.writeLoc_faultHead (s : State) (l : Nat) (bs : List Byte) : (s.writeLoc l bs).faultHead = s.faultHead := by
  simp [State.writeLoc]
@[simp] theorem State.writeLoc_faultRing (s : State) (l : Nat) (bs : List Byte) : (s.writeLoc l bs).faultRing = s.faultRing := by
  simp [State.writeLoc]
@[simp] theorem State.writeLoc_faultHeld (s : State) (l : Nat) (bs : List Byte) : (s.writeLoc l bs).faultHeld = s.faultHeld := by
  simp [State.writeLoc]
@[simp] theorem State.writeLoc_events (s : State) (l : Nat) (bs : List Byte) : (s.writeLoc l bs).events = s.events := by
  simp [State.writeLoc]
@[simp] theorem State.writeLoc_evHeld (s : State) (l : Nat) (bs : List Byte) : (s.writeLoc l bs).evHeld = s.evHeld := by
  simp [State.writeLoc]
@[simp] theorem State.writeLoc_contHeld (s : State) (l : Nat) (bs : List Byte) : (s.writeLoc l bs).contHeld = s.contHeld := by
  simp [State.writeLoc]
@[simp] theorem State.writeLoc_ctxRecs (s : State) (l : Nat) (bs : List Byte) : (s.writeLoc l bs).ctxRecs = s.ctxRecs := by
  simp [State.writeLoc]
@[simp] theorem State.writeLoc_ctxStopped (s : State) (l : Nat) (bs : List Byte) : (s.writeLoc l bs).ctxStopped = s.ctxStopped := by
  simp [State.writeLoc]
@[simp] theorem State.writeLoc_weaverStopped (s : State) (l : Nat) (bs : List Byte) : (s.writeLoc l bs).weaverStopped = s.weaverStopped := by
  simp [State.writeLoc]
@[simp] theorem State.writeLoc_queueSt (s : State) (l : Nat) (bs : List Byte) : (s.writeLoc l bs).queueSt = s.queueSt := by
  simp [State.writeLoc]
@[simp] theorem State.writeLoc_launches (s : State) (l : Nat) (bs : List Byte) : (s.writeLoc l bs).launches = s.launches := by
  simp [State.writeLoc]
@[simp] theorem State.writeLoc_claims (s : State) (l : Nat) (bs : List Byte) : (s.writeLoc l bs).claims = s.claims := by
  simp [State.writeLoc]
@[simp] theorem State.writeLoc_wvPend (s : State) (l : Nat) (bs : List Byte) : (s.writeLoc l bs).wvPend = s.wvPend := by
  simp [State.writeLoc]
@[simp] theorem State.writeLoc_retired (s : State) (l : Nat) (bs : List Byte) : (s.writeLoc l bs).retired = s.retired := by
  simp [State.writeLoc]
@[simp] theorem State.writeLoc_lastServed (s : State) (l : Nat) (bs : List Byte) : (s.writeLoc l bs).lastServed = s.lastServed := by
  simp [State.writeLoc]
@[simp] theorem State.writeLoc_coreTasks (s : State) (l : Nat) (bs : List Byte) : (s.writeLoc l bs).coreTasks = s.coreTasks := by
  simp [State.writeLoc]
@[simp] theorem State.writeLoc_dieTasks (s : State) (l : Nat) (bs : List Byte) : (s.writeLoc l bs).dieTasks = s.dieTasks := by
  simp [State.writeLoc]
@[simp] theorem State.writeLoc_bankTasks (s : State) (l : Nat) (bs : List Byte) : (s.writeLoc l bs).bankTasks = s.bankTasks := by
  simp [State.writeLoc]
@[simp] theorem State.writeLoc_arrays (s : State) (l : Nat) (bs : List Byte) : (s.writeLoc l bs).arrays = s.arrays := by
  simp [State.writeLoc]
@[simp] theorem State.writeLoc_banks (s : State) (l : Nat) (bs : List Byte) : (s.writeLoc l bs).banks = s.banks := by
  simp [State.writeLoc]
@[simp] theorem State.writeLoc_images (s : State) (l : Nat) (bs : List Byte) : (s.writeLoc l bs).images = s.images := by
  simp [State.writeLoc]
@[simp] theorem State.writeLoc_forwards (s : State) (l : Nat) (bs : List Byte) : (s.writeLoc l bs).forwards = s.forwards := by
  simp [State.writeLoc]
@[simp] theorem State.writeLoc_slew (s : State) (l : Nat) (bs : List Byte) : (s.writeLoc l bs).slew = s.slew := by
  simp [State.writeLoc]
@[simp] theorem State.writeLoc_ckpt (s : State) (l : Nat) (bs : List Byte) : (s.writeLoc l bs).ckpt = s.ckpt := by
  simp [State.writeLoc]
@[simp] theorem State.writeLoc_links (s : State) (l : Nat) (bs : List Byte) : (s.writeLoc l bs).links = s.links := by
  simp [State.writeLoc]
@[simp] theorem State.writeLoc_msix (s : State) (l : Nat) (bs : List Byte) : (s.writeLoc l bs).msix = s.msix := by
  simp [State.writeLoc]
@[simp] theorem State.writeLoc_hostRead (s : State) (l : Nat) (bs : List Byte) : (s.writeLoc l bs).hostRead = s.hostRead := by
  simp [State.writeLoc]
@[simp] theorem State.writeLoc_peerFail (s : State) (l : Nat) (bs : List Byte) : (s.writeLoc l bs).peerFail = s.peerFail := by
  simp [State.writeLoc]
@[simp] theorem State.writeLoc_predone (s : State) (l : Nat) (bs : List Byte) : (s.writeLoc l bs).predone = s.predone := by
  simp [State.writeLoc]
@[simp] theorem State.writeLoc_preempting (s : State) (l : Nat) (bs : List Byte) : (s.writeLoc l bs).preempting = s.preempting := by
  simp [State.writeLoc]
@[simp] theorem State.writeLoc_boot (s : State) (l : Nat) (bs : List Byte) : (s.writeLoc l bs).boot = s.boot := by
  simp [State.writeLoc]
@[simp] theorem State.writeLoc_bootCnt (s : State) (l : Nat) (bs : List Byte) : (s.writeLoc l bs).bootCnt = s.bootCnt := by
  simp [State.writeLoc]
@[simp] theorem State.writeLoc_nextBlk (s : State) (l : Nat) (bs : List Byte) : (s.writeLoc l bs).nextBlk = s.nextBlk := by
  simp [State.writeLoc]
@[simp] theorem State.writeLoc_report (s : State) (l : Nat) (bs : List Byte) : (s.writeLoc l bs).report = s.report := by
  simp [State.writeLoc]
@[simp] theorem State.writeLoc_leavesLeft (s : State) (l : Nat) (bs : List Byte) : (s.writeLoc l bs).leavesLeft = s.leavesLeft := by
  simp [State.writeLoc]
@[simp] theorem State.writeLoc_bootAt (s : State) (l : Nat) (bs : List Byte) : (s.writeLoc l bs).bootAt = s.bootAt := by
  simp [State.writeLoc]
@[simp] theorem State.writeLoc_withheld (s : State) (l : Nat) (bs : List Byte) : (s.writeLoc l bs).withheld = s.withheld := by
  simp [State.writeLoc]
@[simp] theorem State.writeLoc_part (s : State) (l : Nat) (bs : List Byte) : (s.writeLoc l bs).part = s.part := by
  simp [State.writeLoc]
@[simp] theorem State.writeLoc_partSig (s : State) (l : Nat) (bs : List Byte) : (s.writeLoc l bs).partSig = s.partSig := by
  simp [State.writeLoc]
@[simp] theorem State.writeLoc_lost (s : State) (l : Nat) (bs : List Byte) : (s.writeLoc l bs).lost = s.lost := by
  simp [State.writeLoc]
@[simp] theorem State.writeLoc_firmware (s : State) (l : Nat) (bs : List Byte) : (s.writeLoc l bs).firmware = s.firmware := by
  simp [State.writeLoc]
@[simp] theorem State.writeLoc_attested (s : State) (l : Nat) (bs : List Byte) : (s.writeLoc l bs).attested = s.attested := by
  simp [State.writeLoc]
@[simp] theorem State.writeLoc_absent (s : State) (l : Nat) (bs : List Byte) : (s.writeLoc l bs).absent = s.absent := by
  simp [State.writeLoc]
@[simp] theorem State.writeLoc_power (s : State) (l : Nat) (bs : List Byte) : (s.writeLoc l bs).power = s.power := by
  simp [State.writeLoc]
@[simp] theorem State.writeLoc_idleSince (s : State) (l : Nat) (bs : List Byte) : (s.writeLoc l bs).idleSince = s.idleSince := by
  simp [State.writeLoc]
@[simp] theorem State.writeLoc_wakeAt (s : State) (l : Nat) (bs : List Byte) : (s.writeLoc l bs).wakeAt = s.wakeAt := by
  simp [State.writeLoc]
@[simp] theorem State.writeLoc_psDropped (s : State) (l : Nat) (bs : List Byte) : (s.writeLoc l bs).psDropped = s.psDropped := by
  simp [State.writeLoc]
@[simp] theorem State.writeLoc_wvIssues (s : State) (l : Nat) (bs : List Byte) : (s.writeLoc l bs).wvIssues = s.wvIssues := by
  simp [State.writeLoc]
@[simp] theorem State.writeLoc_absentHit (s : State) (l : Nat) (bs : List Byte) : (s.writeLoc l bs).absentHit = s.absentHit := by
  simp [State.writeLoc]

/-! ### writeNat -/

@[simp] theorem State.writeNat_clk (s : State) (l n x : Nat) : (s.writeNat l n x).clk = s.clk := by
  simp [State.writeNat]
@[simp] theorem State.writeNat_coreReset (s : State) (l n x : Nat) : (s.writeNat l n x).coreReset = s.coreReset := by
  simp [State.writeNat]
@[simp] theorem State.writeNat_agenda (s : State) (l n x : Nat) : (s.writeNat l n x).agenda = s.agenda := by
  simp [State.writeNat]
@[simp] theorem State.writeNat_free (s : State) (l n x : Nat) : (s.writeNat l n x).free = s.free := by
  simp [State.writeNat]
@[simp] theorem State.writeNat_nextId (s : State) (l n x : Nat) : (s.writeNat l n x).nextId = s.nextId := by
  simp [State.writeNat]
@[simp] theorem State.writeNat_cur (s : State) (l n x : Nat) : (s.writeNat l n x).cur = s.cur := by
  simp [State.writeNat]
@[simp] theorem State.writeNat_curBank (s : State) (l n x : Nat) : (s.writeNat l n x).curBank = s.curBank := by
  simp [State.writeNat]
@[simp] theorem State.writeNat_wales (s : State) (l n x : Nat) : (s.writeNat l n x).wales = s.wales := by
  simp [State.writeNat]
@[simp] theorem State.writeNat_wgs (s : State) (l n x : Nat) : (s.writeNat l n x).wgs = s.wgs := by
  simp [State.writeNat]
@[simp] theorem State.writeNat_pipes (s : State) (l n x : Nat) : (s.writeNat l n x).pipes = s.pipes := by
  simp [State.writeNat]
@[simp] theorem State.writeNat_issuedAt (s : State) (l n x : Nat) : (s.writeNat l n x).issuedAt = s.issuedAt := by
  simp [State.writeNat]
@[simp] theorem State.writeNat_obs (s : State) (l n x : Nat) : (s.writeNat l n x).obs = s.obs := by
  simp [State.writeNat]
@[simp] theorem State.writeNat_powerEpoch (s : State) (l n x : Nat) : (s.writeNat l n x).powerEpoch = s.powerEpoch := by
  simp [State.writeNat]
@[simp] theorem State.writeNat_pageEpoch (s : State) (l n x : Nat) : (s.writeNat l n x).pageEpoch = s.pageEpoch := by
  simp [State.writeNat]
@[simp] theorem State.writeNat_near (s : State) (l n x : Nat) : (s.writeNat l n x).near = s.near := by
  simp [State.writeNat]
@[simp] theorem State.writeNat_reqs (s : State) (l n x : Nat) : (s.writeNat l n x).reqs = s.reqs := by
  simp [State.writeNat]
@[simp] theorem State.writeNat_locks (s : State) (l n x : Nat) : (s.writeNat l n x).locks = s.locks := by
  simp [State.writeNat]
@[simp] theorem State.writeNat_rels (s : State) (l n x : Nat) : (s.writeNat l n x).rels = s.rels := by
  simp [State.writeNat]
@[simp] theorem State.writeNat_dirty (s : State) (l n x : Nat) : (s.writeNat l n x).dirty = s.dirty := by
  simp [State.writeNat]
@[simp] theorem State.writeNat_relCount (s : State) (l n x : Nat) : (s.writeNat l n x).relCount = s.relCount := by
  simp [State.writeNat]
@[simp] theorem State.writeNat_pendApplied (s : State) (l n x : Nat) : (s.writeNat l n x).pendApplied = s.pendApplied := by
  simp [State.writeNat]
@[simp] theorem State.writeNat_wideFences (s : State) (l n x : Nat) : (s.writeNat l n x).wideFences = s.wideFences := by
  simp [State.writeNat]
@[simp] theorem State.writeNat_layPend (s : State) (l n x : Nat) : (s.writeNat l n x).layPend = s.layPend := by
  simp [State.writeNat]
@[simp] theorem State.writeNat_foldSlots (s : State) (l n x : Nat) : (s.writeNat l n x).foldSlots = s.foldSlots := by
  simp [State.writeNat]
@[simp] theorem State.writeNat_layouts (s : State) (l n x : Nat) : (s.writeNat l n x).layouts = s.layouts := by
  simp [State.writeNat]
@[simp] theorem State.writeNat_rings (s : State) (l n x : Nat) : (s.writeNat l n x).rings = s.rings := by
  simp [State.writeNat]
@[simp] theorem State.writeNat_tlbs (s : State) (l n x : Nat) : (s.writeNat l n x).tlbs = s.tlbs := by
  simp [State.writeNat]
@[simp] theorem State.writeNat_inval (s : State) (l n x : Nat) : (s.writeNat l n x).inval = s.inval := by
  simp [State.writeNat]
@[simp] theorem State.writeNat_regs (s : State) (l n x : Nat) : (s.writeNat l n x).regs = s.regs := by
  simp [State.writeNat]
@[simp] theorem State.writeNat_faultTail (s : State) (l n x : Nat) : (s.writeNat l n x).faultTail = s.faultTail := by
  simp [State.writeNat]
@[simp] theorem State.writeNat_faultHead (s : State) (l n x : Nat) : (s.writeNat l n x).faultHead = s.faultHead := by
  simp [State.writeNat]
@[simp] theorem State.writeNat_faultRing (s : State) (l n x : Nat) : (s.writeNat l n x).faultRing = s.faultRing := by
  simp [State.writeNat]
@[simp] theorem State.writeNat_faultHeld (s : State) (l n x : Nat) : (s.writeNat l n x).faultHeld = s.faultHeld := by
  simp [State.writeNat]
@[simp] theorem State.writeNat_events (s : State) (l n x : Nat) : (s.writeNat l n x).events = s.events := by
  simp [State.writeNat]
@[simp] theorem State.writeNat_evHeld (s : State) (l n x : Nat) : (s.writeNat l n x).evHeld = s.evHeld := by
  simp [State.writeNat]
@[simp] theorem State.writeNat_contHeld (s : State) (l n x : Nat) : (s.writeNat l n x).contHeld = s.contHeld := by
  simp [State.writeNat]
@[simp] theorem State.writeNat_ctxRecs (s : State) (l n x : Nat) : (s.writeNat l n x).ctxRecs = s.ctxRecs := by
  simp [State.writeNat]
@[simp] theorem State.writeNat_ctxStopped (s : State) (l n x : Nat) : (s.writeNat l n x).ctxStopped = s.ctxStopped := by
  simp [State.writeNat]
@[simp] theorem State.writeNat_weaverStopped (s : State) (l n x : Nat) : (s.writeNat l n x).weaverStopped = s.weaverStopped := by
  simp [State.writeNat]
@[simp] theorem State.writeNat_queueSt (s : State) (l n x : Nat) : (s.writeNat l n x).queueSt = s.queueSt := by
  simp [State.writeNat]
@[simp] theorem State.writeNat_launches (s : State) (l n x : Nat) : (s.writeNat l n x).launches = s.launches := by
  simp [State.writeNat]
@[simp] theorem State.writeNat_claims (s : State) (l n x : Nat) : (s.writeNat l n x).claims = s.claims := by
  simp [State.writeNat]
@[simp] theorem State.writeNat_wvPend (s : State) (l n x : Nat) : (s.writeNat l n x).wvPend = s.wvPend := by
  simp [State.writeNat]
@[simp] theorem State.writeNat_retired (s : State) (l n x : Nat) : (s.writeNat l n x).retired = s.retired := by
  simp [State.writeNat]
@[simp] theorem State.writeNat_lastServed (s : State) (l n x : Nat) : (s.writeNat l n x).lastServed = s.lastServed := by
  simp [State.writeNat]
@[simp] theorem State.writeNat_coreTasks (s : State) (l n x : Nat) : (s.writeNat l n x).coreTasks = s.coreTasks := by
  simp [State.writeNat]
@[simp] theorem State.writeNat_dieTasks (s : State) (l n x : Nat) : (s.writeNat l n x).dieTasks = s.dieTasks := by
  simp [State.writeNat]
@[simp] theorem State.writeNat_bankTasks (s : State) (l n x : Nat) : (s.writeNat l n x).bankTasks = s.bankTasks := by
  simp [State.writeNat]
@[simp] theorem State.writeNat_arrays (s : State) (l n x : Nat) : (s.writeNat l n x).arrays = s.arrays := by
  simp [State.writeNat]
@[simp] theorem State.writeNat_banks (s : State) (l n x : Nat) : (s.writeNat l n x).banks = s.banks := by
  simp [State.writeNat]
@[simp] theorem State.writeNat_images (s : State) (l n x : Nat) : (s.writeNat l n x).images = s.images := by
  simp [State.writeNat]
@[simp] theorem State.writeNat_forwards (s : State) (l n x : Nat) : (s.writeNat l n x).forwards = s.forwards := by
  simp [State.writeNat]
@[simp] theorem State.writeNat_slew (s : State) (l n x : Nat) : (s.writeNat l n x).slew = s.slew := by
  simp [State.writeNat]
@[simp] theorem State.writeNat_ckpt (s : State) (l n x : Nat) : (s.writeNat l n x).ckpt = s.ckpt := by
  simp [State.writeNat]
@[simp] theorem State.writeNat_links (s : State) (l n x : Nat) : (s.writeNat l n x).links = s.links := by
  simp [State.writeNat]
@[simp] theorem State.writeNat_msix (s : State) (l n x : Nat) : (s.writeNat l n x).msix = s.msix := by
  simp [State.writeNat]
@[simp] theorem State.writeNat_hostRead (s : State) (l n x : Nat) : (s.writeNat l n x).hostRead = s.hostRead := by
  simp [State.writeNat]
@[simp] theorem State.writeNat_peerFail (s : State) (l n x : Nat) : (s.writeNat l n x).peerFail = s.peerFail := by
  simp [State.writeNat]
@[simp] theorem State.writeNat_predone (s : State) (l n x : Nat) : (s.writeNat l n x).predone = s.predone := by
  simp [State.writeNat]
@[simp] theorem State.writeNat_preempting (s : State) (l n x : Nat) : (s.writeNat l n x).preempting = s.preempting := by
  simp [State.writeNat]
@[simp] theorem State.writeNat_boot (s : State) (l n x : Nat) : (s.writeNat l n x).boot = s.boot := by
  simp [State.writeNat]
@[simp] theorem State.writeNat_bootCnt (s : State) (l n x : Nat) : (s.writeNat l n x).bootCnt = s.bootCnt := by
  simp [State.writeNat]
@[simp] theorem State.writeNat_nextBlk (s : State) (l n x : Nat) : (s.writeNat l n x).nextBlk = s.nextBlk := by
  simp [State.writeNat]
@[simp] theorem State.writeNat_report (s : State) (l n x : Nat) : (s.writeNat l n x).report = s.report := by
  simp [State.writeNat]
@[simp] theorem State.writeNat_leavesLeft (s : State) (l n x : Nat) : (s.writeNat l n x).leavesLeft = s.leavesLeft := by
  simp [State.writeNat]
@[simp] theorem State.writeNat_bootAt (s : State) (l n x : Nat) : (s.writeNat l n x).bootAt = s.bootAt := by
  simp [State.writeNat]
@[simp] theorem State.writeNat_withheld (s : State) (l n x : Nat) : (s.writeNat l n x).withheld = s.withheld := by
  simp [State.writeNat]
@[simp] theorem State.writeNat_part (s : State) (l n x : Nat) : (s.writeNat l n x).part = s.part := by
  simp [State.writeNat]
@[simp] theorem State.writeNat_partSig (s : State) (l n x : Nat) : (s.writeNat l n x).partSig = s.partSig := by
  simp [State.writeNat]
@[simp] theorem State.writeNat_lost (s : State) (l n x : Nat) : (s.writeNat l n x).lost = s.lost := by
  simp [State.writeNat]
@[simp] theorem State.writeNat_firmware (s : State) (l n x : Nat) : (s.writeNat l n x).firmware = s.firmware := by
  simp [State.writeNat]
@[simp] theorem State.writeNat_attested (s : State) (l n x : Nat) : (s.writeNat l n x).attested = s.attested := by
  simp [State.writeNat]
@[simp] theorem State.writeNat_absent (s : State) (l n x : Nat) : (s.writeNat l n x).absent = s.absent := by
  simp [State.writeNat]
@[simp] theorem State.writeNat_power (s : State) (l n x : Nat) : (s.writeNat l n x).power = s.power := by
  simp [State.writeNat]
@[simp] theorem State.writeNat_idleSince (s : State) (l n x : Nat) : (s.writeNat l n x).idleSince = s.idleSince := by
  simp [State.writeNat]
@[simp] theorem State.writeNat_wakeAt (s : State) (l n x : Nat) : (s.writeNat l n x).wakeAt = s.wakeAt := by
  simp [State.writeNat]
@[simp] theorem State.writeNat_psDropped (s : State) (l n x : Nat) : (s.writeNat l n x).psDropped = s.psDropped := by
  simp [State.writeNat]
@[simp] theorem State.writeNat_wvIssues (s : State) (l n x : Nat) : (s.writeNat l n x).wvIssues = s.wvIssues := by
  simp [State.writeNat]
@[simp] theorem State.writeNat_absentHit (s : State) (l n x : Nat) : (s.writeNat l n x).absentHit = s.absentHit := by
  simp [State.writeNat]

/-! ### stir -/

@[simp] theorem State.stir_clk (s : State) (die : Nat) : (s.stir die).clk = s.clk := by
  unfold State.stir; split <;> rfl
@[simp] theorem State.stir_coreReset (s : State) (die : Nat) : (s.stir die).coreReset = s.coreReset := by
  unfold State.stir; split <;> rfl
@[simp] theorem State.stir_agenda (s : State) (die : Nat) : (s.stir die).agenda = s.agenda := by
  unfold State.stir; split <;> rfl
@[simp] theorem State.stir_free (s : State) (die : Nat) : (s.stir die).free = s.free := by
  unfold State.stir; split <;> rfl
@[simp] theorem State.stir_nextId (s : State) (die : Nat) : (s.stir die).nextId = s.nextId := by
  unfold State.stir; split <;> rfl
@[simp] theorem State.stir_cur (s : State) (die : Nat) : (s.stir die).cur = s.cur := by
  unfold State.stir; split <;> rfl
@[simp] theorem State.stir_curBank (s : State) (die : Nat) : (s.stir die).curBank = s.curBank := by
  unfold State.stir; split <;> rfl
@[simp] theorem State.stir_wales (s : State) (die : Nat) : (s.stir die).wales = s.wales := by
  unfold State.stir; split <;> rfl
@[simp] theorem State.stir_wgs (s : State) (die : Nat) : (s.stir die).wgs = s.wgs := by
  unfold State.stir; split <;> rfl
@[simp] theorem State.stir_pipes (s : State) (die : Nat) : (s.stir die).pipes = s.pipes := by
  unfold State.stir; split <;> rfl
@[simp] theorem State.stir_issuedAt (s : State) (die : Nat) : (s.stir die).issuedAt = s.issuedAt := by
  unfold State.stir; split <;> rfl
@[simp] theorem State.stir_obs (s : State) (die : Nat) : (s.stir die).obs = s.obs := by
  unfold State.stir; split <;> rfl
@[simp] theorem State.stir_mem (s : State) (die : Nat) : (s.stir die).mem = s.mem := by
  unfold State.stir; split <;> rfl
@[simp] theorem State.stir_powerEpoch (s : State) (die : Nat) : (s.stir die).powerEpoch = s.powerEpoch := by
  unfold State.stir; split <;> rfl
@[simp] theorem State.stir_pageEpoch (s : State) (die : Nat) : (s.stir die).pageEpoch = s.pageEpoch := by
  unfold State.stir; split <;> rfl
@[simp] theorem State.stir_near (s : State) (die : Nat) : (s.stir die).near = s.near := by
  unfold State.stir; split <;> rfl
@[simp] theorem State.stir_reqs (s : State) (die : Nat) : (s.stir die).reqs = s.reqs := by
  unfold State.stir; split <;> rfl
@[simp] theorem State.stir_locks (s : State) (die : Nat) : (s.stir die).locks = s.locks := by
  unfold State.stir; split <;> rfl
@[simp] theorem State.stir_rels (s : State) (die : Nat) : (s.stir die).rels = s.rels := by
  unfold State.stir; split <;> rfl
@[simp] theorem State.stir_dirty (s : State) (die : Nat) : (s.stir die).dirty = s.dirty := by
  unfold State.stir; split <;> rfl
@[simp] theorem State.stir_clean (s : State) (die : Nat) : (s.stir die).clean = s.clean := by
  unfold State.stir; split <;> rfl
@[simp] theorem State.stir_relCount (s : State) (die : Nat) : (s.stir die).relCount = s.relCount := by
  unfold State.stir; split <;> rfl
@[simp] theorem State.stir_pendApplied (s : State) (die : Nat) : (s.stir die).pendApplied = s.pendApplied := by
  unfold State.stir; split <;> rfl
@[simp] theorem State.stir_wideFences (s : State) (die : Nat) : (s.stir die).wideFences = s.wideFences := by
  unfold State.stir; split <;> rfl
@[simp] theorem State.stir_layPend (s : State) (die : Nat) : (s.stir die).layPend = s.layPend := by
  unfold State.stir; split <;> rfl
@[simp] theorem State.stir_foldSlots (s : State) (die : Nat) : (s.stir die).foldSlots = s.foldSlots := by
  unfold State.stir; split <;> rfl
@[simp] theorem State.stir_layouts (s : State) (die : Nat) : (s.stir die).layouts = s.layouts := by
  unfold State.stir; split <;> rfl
@[simp] theorem State.stir_rings (s : State) (die : Nat) : (s.stir die).rings = s.rings := by
  unfold State.stir; split <;> rfl
@[simp] theorem State.stir_tlbs (s : State) (die : Nat) : (s.stir die).tlbs = s.tlbs := by
  unfold State.stir; split <;> rfl
@[simp] theorem State.stir_inval (s : State) (die : Nat) : (s.stir die).inval = s.inval := by
  unfold State.stir; split <;> rfl
@[simp] theorem State.stir_regs (s : State) (die : Nat) : (s.stir die).regs = s.regs := by
  unfold State.stir; split <;> rfl
@[simp] theorem State.stir_faultTail (s : State) (die : Nat) : (s.stir die).faultTail = s.faultTail := by
  unfold State.stir; split <;> rfl
@[simp] theorem State.stir_faultHead (s : State) (die : Nat) : (s.stir die).faultHead = s.faultHead := by
  unfold State.stir; split <;> rfl
@[simp] theorem State.stir_faultRing (s : State) (die : Nat) : (s.stir die).faultRing = s.faultRing := by
  unfold State.stir; split <;> rfl
@[simp] theorem State.stir_faultHeld (s : State) (die : Nat) : (s.stir die).faultHeld = s.faultHeld := by
  unfold State.stir; split <;> rfl
@[simp] theorem State.stir_events (s : State) (die : Nat) : (s.stir die).events = s.events := by
  unfold State.stir; split <;> rfl
@[simp] theorem State.stir_evHeld (s : State) (die : Nat) : (s.stir die).evHeld = s.evHeld := by
  unfold State.stir; split <;> rfl
@[simp] theorem State.stir_contHeld (s : State) (die : Nat) : (s.stir die).contHeld = s.contHeld := by
  unfold State.stir; split <;> rfl
@[simp] theorem State.stir_ctxRecs (s : State) (die : Nat) : (s.stir die).ctxRecs = s.ctxRecs := by
  unfold State.stir; split <;> rfl
@[simp] theorem State.stir_ctxStopped (s : State) (die : Nat) : (s.stir die).ctxStopped = s.ctxStopped := by
  unfold State.stir; split <;> rfl
@[simp] theorem State.stir_weaverStopped (s : State) (die : Nat) : (s.stir die).weaverStopped = s.weaverStopped := by
  unfold State.stir; split <;> rfl
@[simp] theorem State.stir_queueSt (s : State) (die : Nat) : (s.stir die).queueSt = s.queueSt := by
  unfold State.stir; split <;> rfl
@[simp] theorem State.stir_launches (s : State) (die : Nat) : (s.stir die).launches = s.launches := by
  unfold State.stir; split <;> rfl
@[simp] theorem State.stir_claims (s : State) (die : Nat) : (s.stir die).claims = s.claims := by
  unfold State.stir; split <;> rfl
@[simp] theorem State.stir_wvPend (s : State) (die : Nat) : (s.stir die).wvPend = s.wvPend := by
  unfold State.stir; split <;> rfl
@[simp] theorem State.stir_retired (s : State) (die : Nat) : (s.stir die).retired = s.retired := by
  unfold State.stir; split <;> rfl
@[simp] theorem State.stir_lastServed (s : State) (die : Nat) : (s.stir die).lastServed = s.lastServed := by
  unfold State.stir; split <;> rfl
@[simp] theorem State.stir_coreTasks (s : State) (die : Nat) : (s.stir die).coreTasks = s.coreTasks := by
  unfold State.stir; split <;> rfl
@[simp] theorem State.stir_dieTasks (s : State) (die : Nat) : (s.stir die).dieTasks = s.dieTasks := by
  unfold State.stir; split <;> rfl
@[simp] theorem State.stir_bankTasks (s : State) (die : Nat) : (s.stir die).bankTasks = s.bankTasks := by
  unfold State.stir; split <;> rfl
@[simp] theorem State.stir_arrays (s : State) (die : Nat) : (s.stir die).arrays = s.arrays := by
  unfold State.stir; split <;> rfl
@[simp] theorem State.stir_banks (s : State) (die : Nat) : (s.stir die).banks = s.banks := by
  unfold State.stir; split <;> rfl
@[simp] theorem State.stir_images (s : State) (die : Nat) : (s.stir die).images = s.images := by
  unfold State.stir; split <;> rfl
@[simp] theorem State.stir_forwards (s : State) (die : Nat) : (s.stir die).forwards = s.forwards := by
  unfold State.stir; split <;> rfl
@[simp] theorem State.stir_dirtyGranules (s : State) (die : Nat) : (s.stir die).dirtyGranules = s.dirtyGranules := by
  unfold State.stir; split <;> rfl
@[simp] theorem State.stir_slew (s : State) (die : Nat) : (s.stir die).slew = s.slew := by
  unfold State.stir; split <;> rfl
@[simp] theorem State.stir_ckpt (s : State) (die : Nat) : (s.stir die).ckpt = s.ckpt := by
  unfold State.stir; split <;> rfl
@[simp] theorem State.stir_links (s : State) (die : Nat) : (s.stir die).links = s.links := by
  unfold State.stir; split <;> rfl
@[simp] theorem State.stir_msix (s : State) (die : Nat) : (s.stir die).msix = s.msix := by
  unfold State.stir; split <;> rfl
@[simp] theorem State.stir_hostRead (s : State) (die : Nat) : (s.stir die).hostRead = s.hostRead := by
  unfold State.stir; split <;> rfl
@[simp] theorem State.stir_peerFail (s : State) (die : Nat) : (s.stir die).peerFail = s.peerFail := by
  unfold State.stir; split <;> rfl
@[simp] theorem State.stir_predone (s : State) (die : Nat) : (s.stir die).predone = s.predone := by
  unfold State.stir; split <;> rfl
@[simp] theorem State.stir_preempting (s : State) (die : Nat) : (s.stir die).preempting = s.preempting := by
  unfold State.stir; split <;> rfl
@[simp] theorem State.stir_boot (s : State) (die : Nat) : (s.stir die).boot = s.boot := by
  unfold State.stir; split <;> rfl
@[simp] theorem State.stir_bootCnt (s : State) (die : Nat) : (s.stir die).bootCnt = s.bootCnt := by
  unfold State.stir; split <;> rfl
@[simp] theorem State.stir_nextBlk (s : State) (die : Nat) : (s.stir die).nextBlk = s.nextBlk := by
  unfold State.stir; split <;> rfl
@[simp] theorem State.stir_report (s : State) (die : Nat) : (s.stir die).report = s.report := by
  unfold State.stir; split <;> rfl
@[simp] theorem State.stir_leavesLeft (s : State) (die : Nat) : (s.stir die).leavesLeft = s.leavesLeft := by
  unfold State.stir; split <;> rfl
@[simp] theorem State.stir_bootAt (s : State) (die : Nat) : (s.stir die).bootAt = s.bootAt := by
  unfold State.stir; split <;> rfl
@[simp] theorem State.stir_withheld (s : State) (die : Nat) : (s.stir die).withheld = s.withheld := by
  unfold State.stir; split <;> rfl
@[simp] theorem State.stir_part (s : State) (die : Nat) : (s.stir die).part = s.part := by
  unfold State.stir; split <;> rfl
@[simp] theorem State.stir_partSig (s : State) (die : Nat) : (s.stir die).partSig = s.partSig := by
  unfold State.stir; split <;> rfl
@[simp] theorem State.stir_lost (s : State) (die : Nat) : (s.stir die).lost = s.lost := by
  unfold State.stir; split <;> rfl
@[simp] theorem State.stir_firmware (s : State) (die : Nat) : (s.stir die).firmware = s.firmware := by
  unfold State.stir; split <;> rfl
@[simp] theorem State.stir_attested (s : State) (die : Nat) : (s.stir die).attested = s.attested := by
  unfold State.stir; split <;> rfl
@[simp] theorem State.stir_badWords (s : State) (die : Nat) : (s.stir die).badWords = s.badWords := by
  unfold State.stir; split <;> rfl
@[simp] theorem State.stir_absent (s : State) (die : Nat) : (s.stir die).absent = s.absent := by
  unfold State.stir; split <;> rfl
@[simp] theorem State.stir_power (s : State) (die : Nat) : (s.stir die).power = s.power := by
  unfold State.stir; split <;> rfl
@[simp] theorem State.stir_idleSince (s : State) (die : Nat) : (s.stir die).idleSince = s.idleSince := by
  unfold State.stir; split <;> rfl
@[simp] theorem State.stir_psDropped (s : State) (die : Nat) : (s.stir die).psDropped = s.psDropped := by
  unfold State.stir; split <;> rfl
@[simp] theorem State.stir_oldWords (s : State) (die : Nat) : (s.stir die).oldWords = s.oldWords := by
  unfold State.stir; split <;> rfl
@[simp] theorem State.stir_rewrites (s : State) (die : Nat) : (s.stir die).rewrites = s.rewrites := by
  unfold State.stir; split <;> rfl
@[simp] theorem State.stir_wvIssues (s : State) (die : Nat) : (s.stir die).wvIssues = s.wvIssues := by
  unfold State.stir; split <;> rfl
@[simp] theorem State.stir_absentHit (s : State) (die : Nat) : (s.stir die).absentHit = s.absentHit := by
  unfold State.stir; split <;> rfl

/-! ### holdPipe -/

@[simp] theorem State.holdPipe_clk (s : State) (w : Wale) (clk : Nat) : (s.holdPipe w clk).clk = s.clk := by
  cases h : w.kind <;> simp only [State.holdPipe, h] <;> (try split) <;> rfl
@[simp] theorem State.holdPipe_coreReset (s : State) (w : Wale) (clk : Nat) : (s.holdPipe w clk).coreReset = s.coreReset := by
  cases h : w.kind <;> simp only [State.holdPipe, h] <;> (try split) <;> rfl
@[simp] theorem State.holdPipe_agenda (s : State) (w : Wale) (clk : Nat) : (s.holdPipe w clk).agenda = s.agenda := by
  cases h : w.kind <;> simp only [State.holdPipe, h] <;> (try split) <;> rfl
@[simp] theorem State.holdPipe_free (s : State) (w : Wale) (clk : Nat) : (s.holdPipe w clk).free = s.free := by
  cases h : w.kind <;> simp only [State.holdPipe, h] <;> (try split) <;> rfl
@[simp] theorem State.holdPipe_nextId (s : State) (w : Wale) (clk : Nat) : (s.holdPipe w clk).nextId = s.nextId := by
  cases h : w.kind <;> simp only [State.holdPipe, h] <;> (try split) <;> rfl
@[simp] theorem State.holdPipe_cur (s : State) (w : Wale) (clk : Nat) : (s.holdPipe w clk).cur = s.cur := by
  cases h : w.kind <;> simp only [State.holdPipe, h] <;> (try split) <;> rfl
@[simp] theorem State.holdPipe_curBank (s : State) (w : Wale) (clk : Nat) : (s.holdPipe w clk).curBank = s.curBank := by
  cases h : w.kind <;> simp only [State.holdPipe, h] <;> (try split) <;> rfl
@[simp] theorem State.holdPipe_wales (s : State) (w : Wale) (clk : Nat) : (s.holdPipe w clk).wales = s.wales := by
  cases h : w.kind <;> simp only [State.holdPipe, h] <;> (try split) <;> rfl
@[simp] theorem State.holdPipe_wgs (s : State) (w : Wale) (clk : Nat) : (s.holdPipe w clk).wgs = s.wgs := by
  cases h : w.kind <;> simp only [State.holdPipe, h] <;> (try split) <;> rfl
@[simp] theorem State.holdPipe_mem (s : State) (w : Wale) (clk : Nat) : (s.holdPipe w clk).mem = s.mem := by
  cases h : w.kind <;> simp only [State.holdPipe, h] <;> (try split) <;> rfl
@[simp] theorem State.holdPipe_powerEpoch (s : State) (w : Wale) (clk : Nat) : (s.holdPipe w clk).powerEpoch = s.powerEpoch := by
  cases h : w.kind <;> simp only [State.holdPipe, h] <;> (try split) <;> rfl
@[simp] theorem State.holdPipe_pageEpoch (s : State) (w : Wale) (clk : Nat) : (s.holdPipe w clk).pageEpoch = s.pageEpoch := by
  cases h : w.kind <;> simp only [State.holdPipe, h] <;> (try split) <;> rfl
@[simp] theorem State.holdPipe_near (s : State) (w : Wale) (clk : Nat) : (s.holdPipe w clk).near = s.near := by
  cases h : w.kind <;> simp only [State.holdPipe, h] <;> (try split) <;> rfl
@[simp] theorem State.holdPipe_reqs (s : State) (w : Wale) (clk : Nat) : (s.holdPipe w clk).reqs = s.reqs := by
  cases h : w.kind <;> simp only [State.holdPipe, h] <;> (try split) <;> rfl
@[simp] theorem State.holdPipe_locks (s : State) (w : Wale) (clk : Nat) : (s.holdPipe w clk).locks = s.locks := by
  cases h : w.kind <;> simp only [State.holdPipe, h] <;> (try split) <;> rfl
@[simp] theorem State.holdPipe_rels (s : State) (w : Wale) (clk : Nat) : (s.holdPipe w clk).rels = s.rels := by
  cases h : w.kind <;> simp only [State.holdPipe, h] <;> (try split) <;> rfl
@[simp] theorem State.holdPipe_dirty (s : State) (w : Wale) (clk : Nat) : (s.holdPipe w clk).dirty = s.dirty := by
  cases h : w.kind <;> simp only [State.holdPipe, h] <;> (try split) <;> rfl
@[simp] theorem State.holdPipe_clean (s : State) (w : Wale) (clk : Nat) : (s.holdPipe w clk).clean = s.clean := by
  cases h : w.kind <;> simp only [State.holdPipe, h] <;> (try split) <;> rfl
@[simp] theorem State.holdPipe_relCount (s : State) (w : Wale) (clk : Nat) : (s.holdPipe w clk).relCount = s.relCount := by
  cases h : w.kind <;> simp only [State.holdPipe, h] <;> (try split) <;> rfl
@[simp] theorem State.holdPipe_pendApplied (s : State) (w : Wale) (clk : Nat) : (s.holdPipe w clk).pendApplied = s.pendApplied := by
  cases h : w.kind <;> simp only [State.holdPipe, h] <;> (try split) <;> rfl
@[simp] theorem State.holdPipe_wideFences (s : State) (w : Wale) (clk : Nat) : (s.holdPipe w clk).wideFences = s.wideFences := by
  cases h : w.kind <;> simp only [State.holdPipe, h] <;> (try split) <;> rfl
@[simp] theorem State.holdPipe_layPend (s : State) (w : Wale) (clk : Nat) : (s.holdPipe w clk).layPend = s.layPend := by
  cases h : w.kind <;> simp only [State.holdPipe, h] <;> (try split) <;> rfl
@[simp] theorem State.holdPipe_foldSlots (s : State) (w : Wale) (clk : Nat) : (s.holdPipe w clk).foldSlots = s.foldSlots := by
  cases h : w.kind <;> simp only [State.holdPipe, h] <;> (try split) <;> rfl
@[simp] theorem State.holdPipe_layouts (s : State) (w : Wale) (clk : Nat) : (s.holdPipe w clk).layouts = s.layouts := by
  cases h : w.kind <;> simp only [State.holdPipe, h] <;> (try split) <;> rfl
@[simp] theorem State.holdPipe_rings (s : State) (w : Wale) (clk : Nat) : (s.holdPipe w clk).rings = s.rings := by
  cases h : w.kind <;> simp only [State.holdPipe, h] <;> (try split) <;> rfl
@[simp] theorem State.holdPipe_tlbs (s : State) (w : Wale) (clk : Nat) : (s.holdPipe w clk).tlbs = s.tlbs := by
  cases h : w.kind <;> simp only [State.holdPipe, h] <;> (try split) <;> rfl
@[simp] theorem State.holdPipe_inval (s : State) (w : Wale) (clk : Nat) : (s.holdPipe w clk).inval = s.inval := by
  cases h : w.kind <;> simp only [State.holdPipe, h] <;> (try split) <;> rfl
@[simp] theorem State.holdPipe_regs (s : State) (w : Wale) (clk : Nat) : (s.holdPipe w clk).regs = s.regs := by
  cases h : w.kind <;> simp only [State.holdPipe, h] <;> (try split) <;> rfl
@[simp] theorem State.holdPipe_faultTail (s : State) (w : Wale) (clk : Nat) : (s.holdPipe w clk).faultTail = s.faultTail := by
  cases h : w.kind <;> simp only [State.holdPipe, h] <;> (try split) <;> rfl
@[simp] theorem State.holdPipe_faultHead (s : State) (w : Wale) (clk : Nat) : (s.holdPipe w clk).faultHead = s.faultHead := by
  cases h : w.kind <;> simp only [State.holdPipe, h] <;> (try split) <;> rfl
@[simp] theorem State.holdPipe_faultRing (s : State) (w : Wale) (clk : Nat) : (s.holdPipe w clk).faultRing = s.faultRing := by
  cases h : w.kind <;> simp only [State.holdPipe, h] <;> (try split) <;> rfl
@[simp] theorem State.holdPipe_faultHeld (s : State) (w : Wale) (clk : Nat) : (s.holdPipe w clk).faultHeld = s.faultHeld := by
  cases h : w.kind <;> simp only [State.holdPipe, h] <;> (try split) <;> rfl
@[simp] theorem State.holdPipe_events (s : State) (w : Wale) (clk : Nat) : (s.holdPipe w clk).events = s.events := by
  cases h : w.kind <;> simp only [State.holdPipe, h] <;> (try split) <;> rfl
@[simp] theorem State.holdPipe_evHeld (s : State) (w : Wale) (clk : Nat) : (s.holdPipe w clk).evHeld = s.evHeld := by
  cases h : w.kind <;> simp only [State.holdPipe, h] <;> (try split) <;> rfl
@[simp] theorem State.holdPipe_contHeld (s : State) (w : Wale) (clk : Nat) : (s.holdPipe w clk).contHeld = s.contHeld := by
  cases h : w.kind <;> simp only [State.holdPipe, h] <;> (try split) <;> rfl
@[simp] theorem State.holdPipe_ctxRecs (s : State) (w : Wale) (clk : Nat) : (s.holdPipe w clk).ctxRecs = s.ctxRecs := by
  cases h : w.kind <;> simp only [State.holdPipe, h] <;> (try split) <;> rfl
@[simp] theorem State.holdPipe_ctxStopped (s : State) (w : Wale) (clk : Nat) : (s.holdPipe w clk).ctxStopped = s.ctxStopped := by
  cases h : w.kind <;> simp only [State.holdPipe, h] <;> (try split) <;> rfl
@[simp] theorem State.holdPipe_weaverStopped (s : State) (w : Wale) (clk : Nat) : (s.holdPipe w clk).weaverStopped = s.weaverStopped := by
  cases h : w.kind <;> simp only [State.holdPipe, h] <;> (try split) <;> rfl
@[simp] theorem State.holdPipe_queueSt (s : State) (w : Wale) (clk : Nat) : (s.holdPipe w clk).queueSt = s.queueSt := by
  cases h : w.kind <;> simp only [State.holdPipe, h] <;> (try split) <;> rfl
@[simp] theorem State.holdPipe_launches (s : State) (w : Wale) (clk : Nat) : (s.holdPipe w clk).launches = s.launches := by
  cases h : w.kind <;> simp only [State.holdPipe, h] <;> (try split) <;> rfl
@[simp] theorem State.holdPipe_claims (s : State) (w : Wale) (clk : Nat) : (s.holdPipe w clk).claims = s.claims := by
  cases h : w.kind <;> simp only [State.holdPipe, h] <;> (try split) <;> rfl
@[simp] theorem State.holdPipe_wvPend (s : State) (w : Wale) (clk : Nat) : (s.holdPipe w clk).wvPend = s.wvPend := by
  cases h : w.kind <;> simp only [State.holdPipe, h] <;> (try split) <;> rfl
@[simp] theorem State.holdPipe_retired (s : State) (w : Wale) (clk : Nat) : (s.holdPipe w clk).retired = s.retired := by
  cases h : w.kind <;> simp only [State.holdPipe, h] <;> (try split) <;> rfl
@[simp] theorem State.holdPipe_lastServed (s : State) (w : Wale) (clk : Nat) : (s.holdPipe w clk).lastServed = s.lastServed := by
  cases h : w.kind <;> simp only [State.holdPipe, h] <;> (try split) <;> rfl
@[simp] theorem State.holdPipe_coreTasks (s : State) (w : Wale) (clk : Nat) : (s.holdPipe w clk).coreTasks = s.coreTasks := by
  cases h : w.kind <;> simp only [State.holdPipe, h] <;> (try split) <;> rfl
@[simp] theorem State.holdPipe_dieTasks (s : State) (w : Wale) (clk : Nat) : (s.holdPipe w clk).dieTasks = s.dieTasks := by
  cases h : w.kind <;> simp only [State.holdPipe, h] <;> (try split) <;> rfl
@[simp] theorem State.holdPipe_bankTasks (s : State) (w : Wale) (clk : Nat) : (s.holdPipe w clk).bankTasks = s.bankTasks := by
  cases h : w.kind <;> simp only [State.holdPipe, h] <;> (try split) <;> rfl
@[simp] theorem State.holdPipe_arrays (s : State) (w : Wale) (clk : Nat) : (s.holdPipe w clk).arrays = s.arrays := by
  cases h : w.kind <;> simp only [State.holdPipe, h] <;> (try split) <;> rfl
@[simp] theorem State.holdPipe_banks (s : State) (w : Wale) (clk : Nat) : (s.holdPipe w clk).banks = s.banks := by
  cases h : w.kind <;> simp only [State.holdPipe, h] <;> (try split) <;> rfl
@[simp] theorem State.holdPipe_images (s : State) (w : Wale) (clk : Nat) : (s.holdPipe w clk).images = s.images := by
  cases h : w.kind <;> simp only [State.holdPipe, h] <;> (try split) <;> rfl
@[simp] theorem State.holdPipe_forwards (s : State) (w : Wale) (clk : Nat) : (s.holdPipe w clk).forwards = s.forwards := by
  cases h : w.kind <;> simp only [State.holdPipe, h] <;> (try split) <;> rfl
@[simp] theorem State.holdPipe_dirtyGranules (s : State) (w : Wale) (clk : Nat) : (s.holdPipe w clk).dirtyGranules = s.dirtyGranules := by
  cases h : w.kind <;> simp only [State.holdPipe, h] <;> (try split) <;> rfl
@[simp] theorem State.holdPipe_slew (s : State) (w : Wale) (clk : Nat) : (s.holdPipe w clk).slew = s.slew := by
  cases h : w.kind <;> simp only [State.holdPipe, h] <;> (try split) <;> rfl
@[simp] theorem State.holdPipe_ckpt (s : State) (w : Wale) (clk : Nat) : (s.holdPipe w clk).ckpt = s.ckpt := by
  cases h : w.kind <;> simp only [State.holdPipe, h] <;> (try split) <;> rfl
@[simp] theorem State.holdPipe_links (s : State) (w : Wale) (clk : Nat) : (s.holdPipe w clk).links = s.links := by
  cases h : w.kind <;> simp only [State.holdPipe, h] <;> (try split) <;> rfl
@[simp] theorem State.holdPipe_msix (s : State) (w : Wale) (clk : Nat) : (s.holdPipe w clk).msix = s.msix := by
  cases h : w.kind <;> simp only [State.holdPipe, h] <;> (try split) <;> rfl
@[simp] theorem State.holdPipe_hostRead (s : State) (w : Wale) (clk : Nat) : (s.holdPipe w clk).hostRead = s.hostRead := by
  cases h : w.kind <;> simp only [State.holdPipe, h] <;> (try split) <;> rfl
@[simp] theorem State.holdPipe_peerFail (s : State) (w : Wale) (clk : Nat) : (s.holdPipe w clk).peerFail = s.peerFail := by
  cases h : w.kind <;> simp only [State.holdPipe, h] <;> (try split) <;> rfl
@[simp] theorem State.holdPipe_predone (s : State) (w : Wale) (clk : Nat) : (s.holdPipe w clk).predone = s.predone := by
  cases h : w.kind <;> simp only [State.holdPipe, h] <;> (try split) <;> rfl
@[simp] theorem State.holdPipe_preempting (s : State) (w : Wale) (clk : Nat) : (s.holdPipe w clk).preempting = s.preempting := by
  cases h : w.kind <;> simp only [State.holdPipe, h] <;> (try split) <;> rfl
@[simp] theorem State.holdPipe_boot (s : State) (w : Wale) (clk : Nat) : (s.holdPipe w clk).boot = s.boot := by
  cases h : w.kind <;> simp only [State.holdPipe, h] <;> (try split) <;> rfl
@[simp] theorem State.holdPipe_bootCnt (s : State) (w : Wale) (clk : Nat) : (s.holdPipe w clk).bootCnt = s.bootCnt := by
  cases h : w.kind <;> simp only [State.holdPipe, h] <;> (try split) <;> rfl
@[simp] theorem State.holdPipe_nextBlk (s : State) (w : Wale) (clk : Nat) : (s.holdPipe w clk).nextBlk = s.nextBlk := by
  cases h : w.kind <;> simp only [State.holdPipe, h] <;> (try split) <;> rfl
@[simp] theorem State.holdPipe_report (s : State) (w : Wale) (clk : Nat) : (s.holdPipe w clk).report = s.report := by
  cases h : w.kind <;> simp only [State.holdPipe, h] <;> (try split) <;> rfl
@[simp] theorem State.holdPipe_leavesLeft (s : State) (w : Wale) (clk : Nat) : (s.holdPipe w clk).leavesLeft = s.leavesLeft := by
  cases h : w.kind <;> simp only [State.holdPipe, h] <;> (try split) <;> rfl
@[simp] theorem State.holdPipe_bootAt (s : State) (w : Wale) (clk : Nat) : (s.holdPipe w clk).bootAt = s.bootAt := by
  cases h : w.kind <;> simp only [State.holdPipe, h] <;> (try split) <;> rfl
@[simp] theorem State.holdPipe_withheld (s : State) (w : Wale) (clk : Nat) : (s.holdPipe w clk).withheld = s.withheld := by
  cases h : w.kind <;> simp only [State.holdPipe, h] <;> (try split) <;> rfl
@[simp] theorem State.holdPipe_part (s : State) (w : Wale) (clk : Nat) : (s.holdPipe w clk).part = s.part := by
  cases h : w.kind <;> simp only [State.holdPipe, h] <;> (try split) <;> rfl
@[simp] theorem State.holdPipe_partSig (s : State) (w : Wale) (clk : Nat) : (s.holdPipe w clk).partSig = s.partSig := by
  cases h : w.kind <;> simp only [State.holdPipe, h] <;> (try split) <;> rfl
@[simp] theorem State.holdPipe_lost (s : State) (w : Wale) (clk : Nat) : (s.holdPipe w clk).lost = s.lost := by
  cases h : w.kind <;> simp only [State.holdPipe, h] <;> (try split) <;> rfl
@[simp] theorem State.holdPipe_firmware (s : State) (w : Wale) (clk : Nat) : (s.holdPipe w clk).firmware = s.firmware := by
  cases h : w.kind <;> simp only [State.holdPipe, h] <;> (try split) <;> rfl
@[simp] theorem State.holdPipe_attested (s : State) (w : Wale) (clk : Nat) : (s.holdPipe w clk).attested = s.attested := by
  cases h : w.kind <;> simp only [State.holdPipe, h] <;> (try split) <;> rfl
@[simp] theorem State.holdPipe_badWords (s : State) (w : Wale) (clk : Nat) : (s.holdPipe w clk).badWords = s.badWords := by
  cases h : w.kind <;> simp only [State.holdPipe, h] <;> (try split) <;> rfl
@[simp] theorem State.holdPipe_absent (s : State) (w : Wale) (clk : Nat) : (s.holdPipe w clk).absent = s.absent := by
  cases h : w.kind <;> simp only [State.holdPipe, h] <;> (try split) <;> rfl
@[simp] theorem State.holdPipe_power (s : State) (w : Wale) (clk : Nat) : (s.holdPipe w clk).power = s.power := by
  cases h : w.kind <;> simp only [State.holdPipe, h] <;> (try split) <;> rfl
@[simp] theorem State.holdPipe_idleSince (s : State) (w : Wale) (clk : Nat) : (s.holdPipe w clk).idleSince = s.idleSince := by
  cases h : w.kind <;> simp only [State.holdPipe, h] <;> (try split) <;> rfl
@[simp] theorem State.holdPipe_wakeAt (s : State) (w : Wale) (clk : Nat) : (s.holdPipe w clk).wakeAt = s.wakeAt := by
  cases h : w.kind <;> simp only [State.holdPipe, h] <;> (try split) <;> rfl
@[simp] theorem State.holdPipe_psDropped (s : State) (w : Wale) (clk : Nat) : (s.holdPipe w clk).psDropped = s.psDropped := by
  cases h : w.kind <;> simp only [State.holdPipe, h] <;> (try split) <;> rfl
@[simp] theorem State.holdPipe_oldWords (s : State) (w : Wale) (clk : Nat) : (s.holdPipe w clk).oldWords = s.oldWords := by
  cases h : w.kind <;> simp only [State.holdPipe, h] <;> (try split) <;> rfl
@[simp] theorem State.holdPipe_rewrites (s : State) (w : Wale) (clk : Nat) : (s.holdPipe w clk).rewrites = s.rewrites := by
  cases h : w.kind <;> simp only [State.holdPipe, h] <;> (try split) <;> rfl
@[simp] theorem State.holdPipe_wvIssues (s : State) (w : Wale) (clk : Nat) : (s.holdPipe w clk).wvIssues = s.wvIssues := by
  cases h : w.kind <;> simp only [State.holdPipe, h] <;> (try split) <;> rfl
@[simp] theorem State.holdPipe_absentHit (s : State) (w : Wale) (clk : Nat) : (s.holdPipe w clk).absentHit = s.absentHit := by
  cases h : w.kind <;> simp only [State.holdPipe, h] <;> (try split) <;> rfl

/-! ### issued -/

@[simp] theorem State.issued_clk (s : State) (w : Wale) (b : Nat) : (s.issued w b).clk = s.clk := by
  simp [State.issued]
@[simp] theorem State.issued_coreReset (s : State) (w : Wale) (b : Nat) : (s.issued w b).coreReset = s.coreReset := by
  simp [State.issued]
@[simp] theorem State.issued_agenda (s : State) (w : Wale) (b : Nat) : (s.issued w b).agenda = s.agenda := by
  simp [State.issued]
@[simp] theorem State.issued_free (s : State) (w : Wale) (b : Nat) : (s.issued w b).free = s.free := by
  simp [State.issued]
@[simp] theorem State.issued_nextId (s : State) (w : Wale) (b : Nat) : (s.issued w b).nextId = s.nextId := by
  simp [State.issued]
@[simp] theorem State.issued_cur (s : State) (w : Wale) (b : Nat) : (s.issued w b).cur = s.cur := by
  simp [State.issued]
@[simp] theorem State.issued_curBank (s : State) (w : Wale) (b : Nat) : (s.issued w b).curBank = s.curBank := by
  simp [State.issued]
@[simp] theorem State.issued_wgs (s : State) (w : Wale) (b : Nat) : (s.issued w b).wgs = s.wgs := by
  simp [State.issued]
@[simp] theorem State.issued_mem (s : State) (w : Wale) (b : Nat) : (s.issued w b).mem = s.mem := by
  simp [State.issued]
@[simp] theorem State.issued_powerEpoch (s : State) (w : Wale) (b : Nat) : (s.issued w b).powerEpoch = s.powerEpoch := by
  simp [State.issued]
@[simp] theorem State.issued_pageEpoch (s : State) (w : Wale) (b : Nat) : (s.issued w b).pageEpoch = s.pageEpoch := by
  simp [State.issued]
@[simp] theorem State.issued_near (s : State) (w : Wale) (b : Nat) : (s.issued w b).near = s.near := by
  simp [State.issued]
@[simp] theorem State.issued_reqs (s : State) (w : Wale) (b : Nat) : (s.issued w b).reqs = s.reqs := by
  simp [State.issued]
@[simp] theorem State.issued_locks (s : State) (w : Wale) (b : Nat) : (s.issued w b).locks = s.locks := by
  simp [State.issued]
@[simp] theorem State.issued_rels (s : State) (w : Wale) (b : Nat) : (s.issued w b).rels = s.rels := by
  simp [State.issued]
@[simp] theorem State.issued_dirty (s : State) (w : Wale) (b : Nat) : (s.issued w b).dirty = s.dirty := by
  simp [State.issued]
@[simp] theorem State.issued_clean (s : State) (w : Wale) (b : Nat) : (s.issued w b).clean = s.clean := by
  simp [State.issued]
@[simp] theorem State.issued_relCount (s : State) (w : Wale) (b : Nat) : (s.issued w b).relCount = s.relCount := by
  simp [State.issued]
@[simp] theorem State.issued_pendApplied (s : State) (w : Wale) (b : Nat) : (s.issued w b).pendApplied = s.pendApplied := by
  simp [State.issued]
@[simp] theorem State.issued_wideFences (s : State) (w : Wale) (b : Nat) : (s.issued w b).wideFences = s.wideFences := by
  simp [State.issued]
@[simp] theorem State.issued_layPend (s : State) (w : Wale) (b : Nat) : (s.issued w b).layPend = s.layPend := by
  simp [State.issued]
@[simp] theorem State.issued_foldSlots (s : State) (w : Wale) (b : Nat) : (s.issued w b).foldSlots = s.foldSlots := by
  simp [State.issued]
@[simp] theorem State.issued_layouts (s : State) (w : Wale) (b : Nat) : (s.issued w b).layouts = s.layouts := by
  simp [State.issued]
@[simp] theorem State.issued_rings (s : State) (w : Wale) (b : Nat) : (s.issued w b).rings = s.rings := by
  simp [State.issued]
@[simp] theorem State.issued_tlbs (s : State) (w : Wale) (b : Nat) : (s.issued w b).tlbs = s.tlbs := by
  simp [State.issued]
@[simp] theorem State.issued_inval (s : State) (w : Wale) (b : Nat) : (s.issued w b).inval = s.inval := by
  simp [State.issued]
@[simp] theorem State.issued_regs (s : State) (w : Wale) (b : Nat) : (s.issued w b).regs = s.regs := by
  simp [State.issued]
@[simp] theorem State.issued_faultTail (s : State) (w : Wale) (b : Nat) : (s.issued w b).faultTail = s.faultTail := by
  simp [State.issued]
@[simp] theorem State.issued_faultHead (s : State) (w : Wale) (b : Nat) : (s.issued w b).faultHead = s.faultHead := by
  simp [State.issued]
@[simp] theorem State.issued_faultRing (s : State) (w : Wale) (b : Nat) : (s.issued w b).faultRing = s.faultRing := by
  simp [State.issued]
@[simp] theorem State.issued_faultHeld (s : State) (w : Wale) (b : Nat) : (s.issued w b).faultHeld = s.faultHeld := by
  simp [State.issued]
@[simp] theorem State.issued_events (s : State) (w : Wale) (b : Nat) : (s.issued w b).events = s.events := by
  simp [State.issued]
@[simp] theorem State.issued_evHeld (s : State) (w : Wale) (b : Nat) : (s.issued w b).evHeld = s.evHeld := by
  simp [State.issued]
@[simp] theorem State.issued_contHeld (s : State) (w : Wale) (b : Nat) : (s.issued w b).contHeld = s.contHeld := by
  simp [State.issued]
@[simp] theorem State.issued_ctxRecs (s : State) (w : Wale) (b : Nat) : (s.issued w b).ctxRecs = s.ctxRecs := by
  simp [State.issued]
@[simp] theorem State.issued_ctxStopped (s : State) (w : Wale) (b : Nat) : (s.issued w b).ctxStopped = s.ctxStopped := by
  simp [State.issued]
@[simp] theorem State.issued_weaverStopped (s : State) (w : Wale) (b : Nat) : (s.issued w b).weaverStopped = s.weaverStopped := by
  simp [State.issued]
@[simp] theorem State.issued_queueSt (s : State) (w : Wale) (b : Nat) : (s.issued w b).queueSt = s.queueSt := by
  simp [State.issued]
@[simp] theorem State.issued_launches (s : State) (w : Wale) (b : Nat) : (s.issued w b).launches = s.launches := by
  simp [State.issued]
@[simp] theorem State.issued_claims (s : State) (w : Wale) (b : Nat) : (s.issued w b).claims = s.claims := by
  simp [State.issued]
@[simp] theorem State.issued_wvPend (s : State) (w : Wale) (b : Nat) : (s.issued w b).wvPend = s.wvPend := by
  simp [State.issued]
@[simp] theorem State.issued_retired (s : State) (w : Wale) (b : Nat) : (s.issued w b).retired = s.retired := by
  simp [State.issued]
@[simp] theorem State.issued_lastServed (s : State) (w : Wale) (b : Nat) : (s.issued w b).lastServed = s.lastServed := by
  simp [State.issued]
@[simp] theorem State.issued_coreTasks (s : State) (w : Wale) (b : Nat) : (s.issued w b).coreTasks = s.coreTasks := by
  simp [State.issued]
@[simp] theorem State.issued_dieTasks (s : State) (w : Wale) (b : Nat) : (s.issued w b).dieTasks = s.dieTasks := by
  simp [State.issued]
@[simp] theorem State.issued_bankTasks (s : State) (w : Wale) (b : Nat) : (s.issued w b).bankTasks = s.bankTasks := by
  simp [State.issued]
@[simp] theorem State.issued_arrays (s : State) (w : Wale) (b : Nat) : (s.issued w b).arrays = s.arrays := by
  simp [State.issued]
@[simp] theorem State.issued_banks (s : State) (w : Wale) (b : Nat) : (s.issued w b).banks = s.banks := by
  simp [State.issued]
@[simp] theorem State.issued_images (s : State) (w : Wale) (b : Nat) : (s.issued w b).images = s.images := by
  simp [State.issued]
@[simp] theorem State.issued_forwards (s : State) (w : Wale) (b : Nat) : (s.issued w b).forwards = s.forwards := by
  simp [State.issued]
@[simp] theorem State.issued_dirtyGranules (s : State) (w : Wale) (b : Nat) : (s.issued w b).dirtyGranules = s.dirtyGranules := by
  simp [State.issued]
@[simp] theorem State.issued_slew (s : State) (w : Wale) (b : Nat) : (s.issued w b).slew = s.slew := by
  simp [State.issued]
@[simp] theorem State.issued_ckpt (s : State) (w : Wale) (b : Nat) : (s.issued w b).ckpt = s.ckpt := by
  simp [State.issued]
@[simp] theorem State.issued_links (s : State) (w : Wale) (b : Nat) : (s.issued w b).links = s.links := by
  simp [State.issued]
@[simp] theorem State.issued_msix (s : State) (w : Wale) (b : Nat) : (s.issued w b).msix = s.msix := by
  simp [State.issued]
@[simp] theorem State.issued_hostRead (s : State) (w : Wale) (b : Nat) : (s.issued w b).hostRead = s.hostRead := by
  simp [State.issued]
@[simp] theorem State.issued_peerFail (s : State) (w : Wale) (b : Nat) : (s.issued w b).peerFail = s.peerFail := by
  simp [State.issued]
@[simp] theorem State.issued_predone (s : State) (w : Wale) (b : Nat) : (s.issued w b).predone = s.predone := by
  simp [State.issued]
@[simp] theorem State.issued_preempting (s : State) (w : Wale) (b : Nat) : (s.issued w b).preempting = s.preempting := by
  simp [State.issued]
@[simp] theorem State.issued_boot (s : State) (w : Wale) (b : Nat) : (s.issued w b).boot = s.boot := by
  simp [State.issued]
@[simp] theorem State.issued_bootCnt (s : State) (w : Wale) (b : Nat) : (s.issued w b).bootCnt = s.bootCnt := by
  simp [State.issued]
@[simp] theorem State.issued_nextBlk (s : State) (w : Wale) (b : Nat) : (s.issued w b).nextBlk = s.nextBlk := by
  simp [State.issued]
@[simp] theorem State.issued_report (s : State) (w : Wale) (b : Nat) : (s.issued w b).report = s.report := by
  simp [State.issued]
@[simp] theorem State.issued_leavesLeft (s : State) (w : Wale) (b : Nat) : (s.issued w b).leavesLeft = s.leavesLeft := by
  simp [State.issued]
@[simp] theorem State.issued_bootAt (s : State) (w : Wale) (b : Nat) : (s.issued w b).bootAt = s.bootAt := by
  simp [State.issued]
@[simp] theorem State.issued_withheld (s : State) (w : Wale) (b : Nat) : (s.issued w b).withheld = s.withheld := by
  simp [State.issued]
@[simp] theorem State.issued_part (s : State) (w : Wale) (b : Nat) : (s.issued w b).part = s.part := by
  simp [State.issued]
@[simp] theorem State.issued_partSig (s : State) (w : Wale) (b : Nat) : (s.issued w b).partSig = s.partSig := by
  simp [State.issued]
@[simp] theorem State.issued_lost (s : State) (w : Wale) (b : Nat) : (s.issued w b).lost = s.lost := by
  simp [State.issued]
@[simp] theorem State.issued_firmware (s : State) (w : Wale) (b : Nat) : (s.issued w b).firmware = s.firmware := by
  simp [State.issued]
@[simp] theorem State.issued_attested (s : State) (w : Wale) (b : Nat) : (s.issued w b).attested = s.attested := by
  simp [State.issued]
@[simp] theorem State.issued_badWords (s : State) (w : Wale) (b : Nat) : (s.issued w b).badWords = s.badWords := by
  simp [State.issued]
@[simp] theorem State.issued_absent (s : State) (w : Wale) (b : Nat) : (s.issued w b).absent = s.absent := by
  simp [State.issued]
@[simp] theorem State.issued_power (s : State) (w : Wale) (b : Nat) : (s.issued w b).power = s.power := by
  simp [State.issued]
@[simp] theorem State.issued_idleSince (s : State) (w : Wale) (b : Nat) : (s.issued w b).idleSince = s.idleSince := by
  simp [State.issued]
@[simp] theorem State.issued_wakeAt (s : State) (w : Wale) (b : Nat) : (s.issued w b).wakeAt = s.wakeAt := by
  simp [State.issued]
@[simp] theorem State.issued_psDropped (s : State) (w : Wale) (b : Nat) : (s.issued w b).psDropped = s.psDropped := by
  simp [State.issued]
@[simp] theorem State.issued_oldWords (s : State) (w : Wale) (b : Nat) : (s.issued w b).oldWords = s.oldWords := by
  simp [State.issued]
@[simp] theorem State.issued_rewrites (s : State) (w : Wale) (b : Nat) : (s.issued w b).rewrites = s.rewrites := by
  simp [State.issued]
@[simp] theorem State.issued_wvIssues (s : State) (w : Wale) (b : Nat) : (s.issued w b).wvIssues = s.wvIssues := by
  simp [State.issued]
@[simp] theorem State.issued_absentHit (s : State) (w : Wale) (b : Nat) : (s.issued w b).absentHit = s.absentHit := by
  simp [State.issued]

/-! ### issueWith -/

@[simp] theorem State.issueWith_clk (s : State) (w : Wale) (r : List InFlight) (o b : Nat) : (s.issueWith w r o b).clk = s.clk := by
  simp [State.issueWith]
@[simp] theorem State.issueWith_coreReset (s : State) (w : Wale) (r : List InFlight) (o b : Nat) : (s.issueWith w r o b).coreReset = s.coreReset := by
  simp [State.issueWith]
@[simp] theorem State.issueWith_agenda (s : State) (w : Wale) (r : List InFlight) (o b : Nat) : (s.issueWith w r o b).agenda = s.agenda := by
  simp [State.issueWith]
@[simp] theorem State.issueWith_free (s : State) (w : Wale) (r : List InFlight) (o b : Nat) : (s.issueWith w r o b).free = s.free := by
  simp [State.issueWith]
@[simp] theorem State.issueWith_nextId (s : State) (w : Wale) (r : List InFlight) (o b : Nat) : (s.issueWith w r o b).nextId = s.nextId := by
  simp [State.issueWith]
@[simp] theorem State.issueWith_cur (s : State) (w : Wale) (r : List InFlight) (o b : Nat) : (s.issueWith w r o b).cur = s.cur := by
  simp [State.issueWith]
@[simp] theorem State.issueWith_curBank (s : State) (w : Wale) (r : List InFlight) (o b : Nat) : (s.issueWith w r o b).curBank = s.curBank := by
  simp [State.issueWith]
@[simp] theorem State.issueWith_wgs (s : State) (w : Wale) (r : List InFlight) (o b : Nat) : (s.issueWith w r o b).wgs = s.wgs := by
  simp [State.issueWith]
@[simp] theorem State.issueWith_mem (s : State) (w : Wale) (r : List InFlight) (o b : Nat) : (s.issueWith w r o b).mem = s.mem := by
  simp [State.issueWith]
@[simp] theorem State.issueWith_powerEpoch (s : State) (w : Wale) (r : List InFlight) (o b : Nat) : (s.issueWith w r o b).powerEpoch = s.powerEpoch := by
  simp [State.issueWith]
@[simp] theorem State.issueWith_pageEpoch (s : State) (w : Wale) (r : List InFlight) (o b : Nat) : (s.issueWith w r o b).pageEpoch = s.pageEpoch := by
  simp [State.issueWith]
@[simp] theorem State.issueWith_near (s : State) (w : Wale) (r : List InFlight) (o b : Nat) : (s.issueWith w r o b).near = s.near := by
  simp [State.issueWith]
@[simp] theorem State.issueWith_reqs (s : State) (w : Wale) (r : List InFlight) (o b : Nat) : (s.issueWith w r o b).reqs = s.reqs := by
  simp [State.issueWith]
@[simp] theorem State.issueWith_locks (s : State) (w : Wale) (r : List InFlight) (o b : Nat) : (s.issueWith w r o b).locks = s.locks := by
  simp [State.issueWith]
@[simp] theorem State.issueWith_rels (s : State) (w : Wale) (r : List InFlight) (o b : Nat) : (s.issueWith w r o b).rels = s.rels := by
  simp [State.issueWith]
@[simp] theorem State.issueWith_dirty (s : State) (w : Wale) (r : List InFlight) (o b : Nat) : (s.issueWith w r o b).dirty = s.dirty := by
  simp [State.issueWith]
@[simp] theorem State.issueWith_clean (s : State) (w : Wale) (r : List InFlight) (o b : Nat) : (s.issueWith w r o b).clean = s.clean := by
  simp [State.issueWith]
@[simp] theorem State.issueWith_relCount (s : State) (w : Wale) (r : List InFlight) (o b : Nat) : (s.issueWith w r o b).relCount = s.relCount := by
  simp [State.issueWith]
@[simp] theorem State.issueWith_pendApplied (s : State) (w : Wale) (r : List InFlight) (o b : Nat) : (s.issueWith w r o b).pendApplied = s.pendApplied := by
  simp [State.issueWith]
@[simp] theorem State.issueWith_wideFences (s : State) (w : Wale) (r : List InFlight) (o b : Nat) : (s.issueWith w r o b).wideFences = s.wideFences := by
  simp [State.issueWith]
@[simp] theorem State.issueWith_layPend (s : State) (w : Wale) (r : List InFlight) (o b : Nat) : (s.issueWith w r o b).layPend = s.layPend := by
  simp [State.issueWith]
@[simp] theorem State.issueWith_foldSlots (s : State) (w : Wale) (r : List InFlight) (o b : Nat) : (s.issueWith w r o b).foldSlots = s.foldSlots := by
  simp [State.issueWith]
@[simp] theorem State.issueWith_layouts (s : State) (w : Wale) (r : List InFlight) (o b : Nat) : (s.issueWith w r o b).layouts = s.layouts := by
  simp [State.issueWith]
@[simp] theorem State.issueWith_rings (s : State) (w : Wale) (r : List InFlight) (o b : Nat) : (s.issueWith w r o b).rings = s.rings := by
  simp [State.issueWith]
@[simp] theorem State.issueWith_tlbs (s : State) (w : Wale) (r : List InFlight) (o b : Nat) : (s.issueWith w r o b).tlbs = s.tlbs := by
  simp [State.issueWith]
@[simp] theorem State.issueWith_inval (s : State) (w : Wale) (r : List InFlight) (o b : Nat) : (s.issueWith w r o b).inval = s.inval := by
  simp [State.issueWith]
@[simp] theorem State.issueWith_regs (s : State) (w : Wale) (r : List InFlight) (o b : Nat) : (s.issueWith w r o b).regs = s.regs := by
  simp [State.issueWith]
@[simp] theorem State.issueWith_faultTail (s : State) (w : Wale) (r : List InFlight) (o b : Nat) : (s.issueWith w r o b).faultTail = s.faultTail := by
  simp [State.issueWith]
@[simp] theorem State.issueWith_faultHead (s : State) (w : Wale) (r : List InFlight) (o b : Nat) : (s.issueWith w r o b).faultHead = s.faultHead := by
  simp [State.issueWith]
@[simp] theorem State.issueWith_faultRing (s : State) (w : Wale) (r : List InFlight) (o b : Nat) : (s.issueWith w r o b).faultRing = s.faultRing := by
  simp [State.issueWith]
@[simp] theorem State.issueWith_faultHeld (s : State) (w : Wale) (r : List InFlight) (o b : Nat) : (s.issueWith w r o b).faultHeld = s.faultHeld := by
  simp [State.issueWith]
@[simp] theorem State.issueWith_events (s : State) (w : Wale) (r : List InFlight) (o b : Nat) : (s.issueWith w r o b).events = s.events := by
  simp [State.issueWith]
@[simp] theorem State.issueWith_evHeld (s : State) (w : Wale) (r : List InFlight) (o b : Nat) : (s.issueWith w r o b).evHeld = s.evHeld := by
  simp [State.issueWith]
@[simp] theorem State.issueWith_contHeld (s : State) (w : Wale) (r : List InFlight) (o b : Nat) : (s.issueWith w r o b).contHeld = s.contHeld := by
  simp [State.issueWith]
@[simp] theorem State.issueWith_ctxRecs (s : State) (w : Wale) (r : List InFlight) (o b : Nat) : (s.issueWith w r o b).ctxRecs = s.ctxRecs := by
  simp [State.issueWith]
@[simp] theorem State.issueWith_ctxStopped (s : State) (w : Wale) (r : List InFlight) (o b : Nat) : (s.issueWith w r o b).ctxStopped = s.ctxStopped := by
  simp [State.issueWith]
@[simp] theorem State.issueWith_weaverStopped (s : State) (w : Wale) (r : List InFlight) (o b : Nat) : (s.issueWith w r o b).weaverStopped = s.weaverStopped := by
  simp [State.issueWith]
@[simp] theorem State.issueWith_queueSt (s : State) (w : Wale) (r : List InFlight) (o b : Nat) : (s.issueWith w r o b).queueSt = s.queueSt := by
  simp [State.issueWith]
@[simp] theorem State.issueWith_launches (s : State) (w : Wale) (r : List InFlight) (o b : Nat) : (s.issueWith w r o b).launches = s.launches := by
  simp [State.issueWith]
@[simp] theorem State.issueWith_claims (s : State) (w : Wale) (r : List InFlight) (o b : Nat) : (s.issueWith w r o b).claims = s.claims := by
  simp [State.issueWith]
@[simp] theorem State.issueWith_wvPend (s : State) (w : Wale) (r : List InFlight) (o b : Nat) : (s.issueWith w r o b).wvPend = s.wvPend := by
  simp [State.issueWith]
@[simp] theorem State.issueWith_retired (s : State) (w : Wale) (r : List InFlight) (o b : Nat) : (s.issueWith w r o b).retired = s.retired := by
  simp [State.issueWith]
@[simp] theorem State.issueWith_lastServed (s : State) (w : Wale) (r : List InFlight) (o b : Nat) : (s.issueWith w r o b).lastServed = s.lastServed := by
  simp [State.issueWith]
@[simp] theorem State.issueWith_coreTasks (s : State) (w : Wale) (r : List InFlight) (o b : Nat) : (s.issueWith w r o b).coreTasks = s.coreTasks := by
  simp [State.issueWith]
@[simp] theorem State.issueWith_dieTasks (s : State) (w : Wale) (r : List InFlight) (o b : Nat) : (s.issueWith w r o b).dieTasks = s.dieTasks := by
  simp [State.issueWith]
@[simp] theorem State.issueWith_bankTasks (s : State) (w : Wale) (r : List InFlight) (o b : Nat) : (s.issueWith w r o b).bankTasks = s.bankTasks := by
  simp [State.issueWith]
@[simp] theorem State.issueWith_arrays (s : State) (w : Wale) (r : List InFlight) (o b : Nat) : (s.issueWith w r o b).arrays = s.arrays := by
  simp [State.issueWith]
@[simp] theorem State.issueWith_banks (s : State) (w : Wale) (r : List InFlight) (o b : Nat) : (s.issueWith w r o b).banks = s.banks := by
  simp [State.issueWith]
@[simp] theorem State.issueWith_images (s : State) (w : Wale) (r : List InFlight) (o b : Nat) : (s.issueWith w r o b).images = s.images := by
  simp [State.issueWith]
@[simp] theorem State.issueWith_forwards (s : State) (w : Wale) (r : List InFlight) (o b : Nat) : (s.issueWith w r o b).forwards = s.forwards := by
  simp [State.issueWith]
@[simp] theorem State.issueWith_dirtyGranules (s : State) (w : Wale) (r : List InFlight) (o b : Nat) : (s.issueWith w r o b).dirtyGranules = s.dirtyGranules := by
  simp [State.issueWith]
@[simp] theorem State.issueWith_slew (s : State) (w : Wale) (r : List InFlight) (o b : Nat) : (s.issueWith w r o b).slew = s.slew := by
  simp [State.issueWith]
@[simp] theorem State.issueWith_ckpt (s : State) (w : Wale) (r : List InFlight) (o b : Nat) : (s.issueWith w r o b).ckpt = s.ckpt := by
  simp [State.issueWith]
@[simp] theorem State.issueWith_links (s : State) (w : Wale) (r : List InFlight) (o b : Nat) : (s.issueWith w r o b).links = s.links := by
  simp [State.issueWith]
@[simp] theorem State.issueWith_msix (s : State) (w : Wale) (r : List InFlight) (o b : Nat) : (s.issueWith w r o b).msix = s.msix := by
  simp [State.issueWith]
@[simp] theorem State.issueWith_hostRead (s : State) (w : Wale) (r : List InFlight) (o b : Nat) : (s.issueWith w r o b).hostRead = s.hostRead := by
  simp [State.issueWith]
@[simp] theorem State.issueWith_peerFail (s : State) (w : Wale) (r : List InFlight) (o b : Nat) : (s.issueWith w r o b).peerFail = s.peerFail := by
  simp [State.issueWith]
@[simp] theorem State.issueWith_predone (s : State) (w : Wale) (r : List InFlight) (o b : Nat) : (s.issueWith w r o b).predone = s.predone := by
  simp [State.issueWith]
@[simp] theorem State.issueWith_preempting (s : State) (w : Wale) (r : List InFlight) (o b : Nat) : (s.issueWith w r o b).preempting = s.preempting := by
  simp [State.issueWith]
@[simp] theorem State.issueWith_boot (s : State) (w : Wale) (r : List InFlight) (o b : Nat) : (s.issueWith w r o b).boot = s.boot := by
  simp [State.issueWith]
@[simp] theorem State.issueWith_bootCnt (s : State) (w : Wale) (r : List InFlight) (o b : Nat) : (s.issueWith w r o b).bootCnt = s.bootCnt := by
  simp [State.issueWith]
@[simp] theorem State.issueWith_nextBlk (s : State) (w : Wale) (r : List InFlight) (o b : Nat) : (s.issueWith w r o b).nextBlk = s.nextBlk := by
  simp [State.issueWith]
@[simp] theorem State.issueWith_report (s : State) (w : Wale) (r : List InFlight) (o b : Nat) : (s.issueWith w r o b).report = s.report := by
  simp [State.issueWith]
@[simp] theorem State.issueWith_leavesLeft (s : State) (w : Wale) (r : List InFlight) (o b : Nat) : (s.issueWith w r o b).leavesLeft = s.leavesLeft := by
  simp [State.issueWith]
@[simp] theorem State.issueWith_bootAt (s : State) (w : Wale) (r : List InFlight) (o b : Nat) : (s.issueWith w r o b).bootAt = s.bootAt := by
  simp [State.issueWith]
@[simp] theorem State.issueWith_withheld (s : State) (w : Wale) (r : List InFlight) (o b : Nat) : (s.issueWith w r o b).withheld = s.withheld := by
  simp [State.issueWith]
@[simp] theorem State.issueWith_part (s : State) (w : Wale) (r : List InFlight) (o b : Nat) : (s.issueWith w r o b).part = s.part := by
  simp [State.issueWith]
@[simp] theorem State.issueWith_partSig (s : State) (w : Wale) (r : List InFlight) (o b : Nat) : (s.issueWith w r o b).partSig = s.partSig := by
  simp [State.issueWith]
@[simp] theorem State.issueWith_lost (s : State) (w : Wale) (r : List InFlight) (o b : Nat) : (s.issueWith w r o b).lost = s.lost := by
  simp [State.issueWith]
@[simp] theorem State.issueWith_firmware (s : State) (w : Wale) (r : List InFlight) (o b : Nat) : (s.issueWith w r o b).firmware = s.firmware := by
  simp [State.issueWith]
@[simp] theorem State.issueWith_attested (s : State) (w : Wale) (r : List InFlight) (o b : Nat) : (s.issueWith w r o b).attested = s.attested := by
  simp [State.issueWith]
@[simp] theorem State.issueWith_badWords (s : State) (w : Wale) (r : List InFlight) (o b : Nat) : (s.issueWith w r o b).badWords = s.badWords := by
  simp [State.issueWith]
@[simp] theorem State.issueWith_absent (s : State) (w : Wale) (r : List InFlight) (o b : Nat) : (s.issueWith w r o b).absent = s.absent := by
  simp [State.issueWith]
@[simp] theorem State.issueWith_power (s : State) (w : Wale) (r : List InFlight) (o b : Nat) : (s.issueWith w r o b).power = s.power := by
  simp [State.issueWith]
@[simp] theorem State.issueWith_idleSince (s : State) (w : Wale) (r : List InFlight) (o b : Nat) : (s.issueWith w r o b).idleSince = s.idleSince := by
  simp [State.issueWith]
@[simp] theorem State.issueWith_wakeAt (s : State) (w : Wale) (r : List InFlight) (o b : Nat) : (s.issueWith w r o b).wakeAt = s.wakeAt := by
  simp [State.issueWith]
@[simp] theorem State.issueWith_psDropped (s : State) (w : Wale) (r : List InFlight) (o b : Nat) : (s.issueWith w r o b).psDropped = s.psDropped := by
  simp [State.issueWith]
@[simp] theorem State.issueWith_oldWords (s : State) (w : Wale) (r : List InFlight) (o b : Nat) : (s.issueWith w r o b).oldWords = s.oldWords := by
  simp [State.issueWith]
@[simp] theorem State.issueWith_rewrites (s : State) (w : Wale) (r : List InFlight) (o b : Nat) : (s.issueWith w r o b).rewrites = s.rewrites := by
  simp [State.issueWith]
@[simp] theorem State.issueWith_wvIssues (s : State) (w : Wale) (r : List InFlight) (o b : Nat) : (s.issueWith w r o b).wvIssues = s.wvIssues := by
  simp [State.issueWith]
@[simp] theorem State.issueWith_absentHit (s : State) (w : Wale) (r : List InFlight) (o b : Nat) : (s.issueWith w r o b).absentHit = s.absentHit := by
  simp [State.issueWith]

/-! ### hold -/

@[simp] theorem State.hold_clk (s : State) (w : Wale) (r : Reason) (b : Bool) : (s.hold w r b).clk = s.clk := by
  simp [State.hold]
@[simp] theorem State.hold_coreReset (s : State) (w : Wale) (r : Reason) (b : Bool) : (s.hold w r b).coreReset = s.coreReset := by
  simp [State.hold]
@[simp] theorem State.hold_agenda (s : State) (w : Wale) (r : Reason) (b : Bool) : (s.hold w r b).agenda = s.agenda := by
  simp [State.hold]
@[simp] theorem State.hold_free (s : State) (w : Wale) (r : Reason) (b : Bool) : (s.hold w r b).free = s.free := by
  simp [State.hold]
@[simp] theorem State.hold_nextId (s : State) (w : Wale) (r : Reason) (b : Bool) : (s.hold w r b).nextId = s.nextId := by
  simp [State.hold]
@[simp] theorem State.hold_cur (s : State) (w : Wale) (r : Reason) (b : Bool) : (s.hold w r b).cur = s.cur := by
  simp [State.hold]
@[simp] theorem State.hold_curBank (s : State) (w : Wale) (r : Reason) (b : Bool) : (s.hold w r b).curBank = s.curBank := by
  simp [State.hold]
@[simp] theorem State.hold_wgs (s : State) (w : Wale) (r : Reason) (b : Bool) : (s.hold w r b).wgs = s.wgs := by
  simp [State.hold]
@[simp] theorem State.hold_pipes (s : State) (w : Wale) (r : Reason) (b : Bool) : (s.hold w r b).pipes = s.pipes := by
  simp [State.hold]
@[simp] theorem State.hold_issuedAt (s : State) (w : Wale) (r : Reason) (b : Bool) : (s.hold w r b).issuedAt = s.issuedAt := by
  simp [State.hold]
@[simp] theorem State.hold_obs (s : State) (w : Wale) (r : Reason) (b : Bool) : (s.hold w r b).obs = s.obs := by
  simp [State.hold]
@[simp] theorem State.hold_mem (s : State) (w : Wale) (r : Reason) (b : Bool) : (s.hold w r b).mem = s.mem := by
  simp [State.hold]
@[simp] theorem State.hold_powerEpoch (s : State) (w : Wale) (r : Reason) (b : Bool) : (s.hold w r b).powerEpoch = s.powerEpoch := by
  simp [State.hold]
@[simp] theorem State.hold_pageEpoch (s : State) (w : Wale) (r : Reason) (b : Bool) : (s.hold w r b).pageEpoch = s.pageEpoch := by
  simp [State.hold]
@[simp] theorem State.hold_near (s : State) (w : Wale) (r : Reason) (b : Bool) : (s.hold w r b).near = s.near := by
  simp [State.hold]
@[simp] theorem State.hold_reqs (s : State) (w : Wale) (r : Reason) (b : Bool) : (s.hold w r b).reqs = s.reqs := by
  simp [State.hold]
@[simp] theorem State.hold_locks (s : State) (w : Wale) (r : Reason) (b : Bool) : (s.hold w r b).locks = s.locks := by
  simp [State.hold]
@[simp] theorem State.hold_rels (s : State) (w : Wale) (r : Reason) (b : Bool) : (s.hold w r b).rels = s.rels := by
  simp [State.hold]
@[simp] theorem State.hold_dirty (s : State) (w : Wale) (r : Reason) (b : Bool) : (s.hold w r b).dirty = s.dirty := by
  simp [State.hold]
@[simp] theorem State.hold_clean (s : State) (w : Wale) (r : Reason) (b : Bool) : (s.hold w r b).clean = s.clean := by
  simp [State.hold]
@[simp] theorem State.hold_relCount (s : State) (w : Wale) (r : Reason) (b : Bool) : (s.hold w r b).relCount = s.relCount := by
  simp [State.hold]
@[simp] theorem State.hold_pendApplied (s : State) (w : Wale) (r : Reason) (b : Bool) : (s.hold w r b).pendApplied = s.pendApplied := by
  simp [State.hold]
@[simp] theorem State.hold_wideFences (s : State) (w : Wale) (r : Reason) (b : Bool) : (s.hold w r b).wideFences = s.wideFences := by
  simp [State.hold]
@[simp] theorem State.hold_layPend (s : State) (w : Wale) (r : Reason) (b : Bool) : (s.hold w r b).layPend = s.layPend := by
  simp [State.hold]
@[simp] theorem State.hold_foldSlots (s : State) (w : Wale) (r : Reason) (b : Bool) : (s.hold w r b).foldSlots = s.foldSlots := by
  simp [State.hold]
@[simp] theorem State.hold_layouts (s : State) (w : Wale) (r : Reason) (b : Bool) : (s.hold w r b).layouts = s.layouts := by
  simp [State.hold]
@[simp] theorem State.hold_rings (s : State) (w : Wale) (r : Reason) (b : Bool) : (s.hold w r b).rings = s.rings := by
  simp [State.hold]
@[simp] theorem State.hold_tlbs (s : State) (w : Wale) (r : Reason) (b : Bool) : (s.hold w r b).tlbs = s.tlbs := by
  simp [State.hold]
@[simp] theorem State.hold_inval (s : State) (w : Wale) (r : Reason) (b : Bool) : (s.hold w r b).inval = s.inval := by
  simp [State.hold]
@[simp] theorem State.hold_regs (s : State) (w : Wale) (r : Reason) (b : Bool) : (s.hold w r b).regs = s.regs := by
  simp [State.hold]
@[simp] theorem State.hold_faultTail (s : State) (w : Wale) (r : Reason) (b : Bool) : (s.hold w r b).faultTail = s.faultTail := by
  simp [State.hold]
@[simp] theorem State.hold_faultHead (s : State) (w : Wale) (r : Reason) (b : Bool) : (s.hold w r b).faultHead = s.faultHead := by
  simp [State.hold]
@[simp] theorem State.hold_faultRing (s : State) (w : Wale) (r : Reason) (b : Bool) : (s.hold w r b).faultRing = s.faultRing := by
  simp [State.hold]
@[simp] theorem State.hold_faultHeld (s : State) (w : Wale) (r : Reason) (b : Bool) : (s.hold w r b).faultHeld = s.faultHeld := by
  simp [State.hold]
@[simp] theorem State.hold_events (s : State) (w : Wale) (r : Reason) (b : Bool) : (s.hold w r b).events = s.events := by
  simp [State.hold]
@[simp] theorem State.hold_evHeld (s : State) (w : Wale) (r : Reason) (b : Bool) : (s.hold w r b).evHeld = s.evHeld := by
  simp [State.hold]
@[simp] theorem State.hold_contHeld (s : State) (w : Wale) (r : Reason) (b : Bool) : (s.hold w r b).contHeld = s.contHeld := by
  simp [State.hold]
@[simp] theorem State.hold_ctxRecs (s : State) (w : Wale) (r : Reason) (b : Bool) : (s.hold w r b).ctxRecs = s.ctxRecs := by
  simp [State.hold]
@[simp] theorem State.hold_ctxStopped (s : State) (w : Wale) (r : Reason) (b : Bool) : (s.hold w r b).ctxStopped = s.ctxStopped := by
  simp [State.hold]
@[simp] theorem State.hold_weaverStopped (s : State) (w : Wale) (r : Reason) (b : Bool) : (s.hold w r b).weaverStopped = s.weaverStopped := by
  simp [State.hold]
@[simp] theorem State.hold_queueSt (s : State) (w : Wale) (r : Reason) (b : Bool) : (s.hold w r b).queueSt = s.queueSt := by
  simp [State.hold]
@[simp] theorem State.hold_launches (s : State) (w : Wale) (r : Reason) (b : Bool) : (s.hold w r b).launches = s.launches := by
  simp [State.hold]
@[simp] theorem State.hold_claims (s : State) (w : Wale) (r : Reason) (b : Bool) : (s.hold w r b).claims = s.claims := by
  simp [State.hold]
@[simp] theorem State.hold_wvPend (s : State) (w : Wale) (r : Reason) (b : Bool) : (s.hold w r b).wvPend = s.wvPend := by
  simp [State.hold]
@[simp] theorem State.hold_retired (s : State) (w : Wale) (r : Reason) (b : Bool) : (s.hold w r b).retired = s.retired := by
  simp [State.hold]
@[simp] theorem State.hold_lastServed (s : State) (w : Wale) (r : Reason) (b : Bool) : (s.hold w r b).lastServed = s.lastServed := by
  simp [State.hold]
@[simp] theorem State.hold_coreTasks (s : State) (w : Wale) (r : Reason) (b : Bool) : (s.hold w r b).coreTasks = s.coreTasks := by
  simp [State.hold]
@[simp] theorem State.hold_dieTasks (s : State) (w : Wale) (r : Reason) (b : Bool) : (s.hold w r b).dieTasks = s.dieTasks := by
  simp [State.hold]
@[simp] theorem State.hold_bankTasks (s : State) (w : Wale) (r : Reason) (b : Bool) : (s.hold w r b).bankTasks = s.bankTasks := by
  simp [State.hold]
@[simp] theorem State.hold_arrays (s : State) (w : Wale) (r : Reason) (b : Bool) : (s.hold w r b).arrays = s.arrays := by
  simp [State.hold]
@[simp] theorem State.hold_banks (s : State) (w : Wale) (r : Reason) (b : Bool) : (s.hold w r b).banks = s.banks := by
  simp [State.hold]
@[simp] theorem State.hold_images (s : State) (w : Wale) (r : Reason) (b : Bool) : (s.hold w r b).images = s.images := by
  simp [State.hold]
@[simp] theorem State.hold_forwards (s : State) (w : Wale) (r : Reason) (b : Bool) : (s.hold w r b).forwards = s.forwards := by
  simp [State.hold]
@[simp] theorem State.hold_dirtyGranules (s : State) (w : Wale) (r : Reason) (b : Bool) : (s.hold w r b).dirtyGranules = s.dirtyGranules := by
  simp [State.hold]
@[simp] theorem State.hold_slew (s : State) (w : Wale) (r : Reason) (b : Bool) : (s.hold w r b).slew = s.slew := by
  simp [State.hold]
@[simp] theorem State.hold_ckpt (s : State) (w : Wale) (r : Reason) (b : Bool) : (s.hold w r b).ckpt = s.ckpt := by
  simp [State.hold]
@[simp] theorem State.hold_links (s : State) (w : Wale) (r : Reason) (b : Bool) : (s.hold w r b).links = s.links := by
  simp [State.hold]
@[simp] theorem State.hold_msix (s : State) (w : Wale) (r : Reason) (b : Bool) : (s.hold w r b).msix = s.msix := by
  simp [State.hold]
@[simp] theorem State.hold_hostRead (s : State) (w : Wale) (r : Reason) (b : Bool) : (s.hold w r b).hostRead = s.hostRead := by
  simp [State.hold]
@[simp] theorem State.hold_peerFail (s : State) (w : Wale) (r : Reason) (b : Bool) : (s.hold w r b).peerFail = s.peerFail := by
  simp [State.hold]
@[simp] theorem State.hold_predone (s : State) (w : Wale) (r : Reason) (b : Bool) : (s.hold w r b).predone = s.predone := by
  simp [State.hold]
@[simp] theorem State.hold_preempting (s : State) (w : Wale) (r : Reason) (b : Bool) : (s.hold w r b).preempting = s.preempting := by
  simp [State.hold]
@[simp] theorem State.hold_boot (s : State) (w : Wale) (r : Reason) (b : Bool) : (s.hold w r b).boot = s.boot := by
  simp [State.hold]
@[simp] theorem State.hold_bootCnt (s : State) (w : Wale) (r : Reason) (b : Bool) : (s.hold w r b).bootCnt = s.bootCnt := by
  simp [State.hold]
@[simp] theorem State.hold_nextBlk (s : State) (w : Wale) (r : Reason) (b : Bool) : (s.hold w r b).nextBlk = s.nextBlk := by
  simp [State.hold]
@[simp] theorem State.hold_report (s : State) (w : Wale) (r : Reason) (b : Bool) : (s.hold w r b).report = s.report := by
  simp [State.hold]
@[simp] theorem State.hold_leavesLeft (s : State) (w : Wale) (r : Reason) (b : Bool) : (s.hold w r b).leavesLeft = s.leavesLeft := by
  simp [State.hold]
@[simp] theorem State.hold_bootAt (s : State) (w : Wale) (r : Reason) (b : Bool) : (s.hold w r b).bootAt = s.bootAt := by
  simp [State.hold]
@[simp] theorem State.hold_withheld (s : State) (w : Wale) (r : Reason) (b : Bool) : (s.hold w r b).withheld = s.withheld := by
  simp [State.hold]
@[simp] theorem State.hold_part (s : State) (w : Wale) (r : Reason) (b : Bool) : (s.hold w r b).part = s.part := by
  simp [State.hold]
@[simp] theorem State.hold_partSig (s : State) (w : Wale) (r : Reason) (b : Bool) : (s.hold w r b).partSig = s.partSig := by
  simp [State.hold]
@[simp] theorem State.hold_lost (s : State) (w : Wale) (r : Reason) (b : Bool) : (s.hold w r b).lost = s.lost := by
  simp [State.hold]
@[simp] theorem State.hold_firmware (s : State) (w : Wale) (r : Reason) (b : Bool) : (s.hold w r b).firmware = s.firmware := by
  simp [State.hold]
@[simp] theorem State.hold_attested (s : State) (w : Wale) (r : Reason) (b : Bool) : (s.hold w r b).attested = s.attested := by
  simp [State.hold]
@[simp] theorem State.hold_badWords (s : State) (w : Wale) (r : Reason) (b : Bool) : (s.hold w r b).badWords = s.badWords := by
  simp [State.hold]
@[simp] theorem State.hold_absent (s : State) (w : Wale) (r : Reason) (b : Bool) : (s.hold w r b).absent = s.absent := by
  simp [State.hold]
@[simp] theorem State.hold_power (s : State) (w : Wale) (r : Reason) (b : Bool) : (s.hold w r b).power = s.power := by
  simp [State.hold]
@[simp] theorem State.hold_idleSince (s : State) (w : Wale) (r : Reason) (b : Bool) : (s.hold w r b).idleSince = s.idleSince := by
  simp [State.hold]
@[simp] theorem State.hold_wakeAt (s : State) (w : Wale) (r : Reason) (b : Bool) : (s.hold w r b).wakeAt = s.wakeAt := by
  simp [State.hold]
@[simp] theorem State.hold_psDropped (s : State) (w : Wale) (r : Reason) (b : Bool) : (s.hold w r b).psDropped = s.psDropped := by
  simp [State.hold]
@[simp] theorem State.hold_oldWords (s : State) (w : Wale) (r : Reason) (b : Bool) : (s.hold w r b).oldWords = s.oldWords := by
  simp [State.hold]
@[simp] theorem State.hold_rewrites (s : State) (w : Wale) (r : Reason) (b : Bool) : (s.hold w r b).rewrites = s.rewrites := by
  simp [State.hold]
@[simp] theorem State.hold_wvIssues (s : State) (w : Wale) (r : Reason) (b : Bool) : (s.hold w r b).wvIssues = s.wvIssues := by
  simp [State.hold]
@[simp] theorem State.hold_absentHit (s : State) (w : Wale) (r : Reason) (b : Bool) : (s.hold w r b).absentHit = s.absentHit := by
  simp [State.hold]

/-! ### What an update makes of the field that it changes -/

@[simp] theorem State.putWale_wales (s : State) (w : Wale) :
    (s.putWale w).wales = s.wales.map fun x => if x.id == w.id then w else x := rfl
@[simp] theorem State.onWale_wales (s : State) (id : Nat) (f : Wale → Wale) :
    (s.onWale id f).wales = s.wales.map fun x => if x.id == id then f x else x := rfl
@[simp] theorem State.putWg_wgs (s : State) (g : Workgroup) :
    (s.putWg g).wgs = s.wgs.map fun x => if x.id == g.id then g else x := rfl
@[simp] theorem State.onWg_wgs (s : State) (id : Nat) (f : Workgroup → Workgroup) :
    (s.onWg id f).wgs = s.wgs.map fun x => if x.id == id then f x else x := rfl
@[simp] theorem State.setReg_regs (s : State) (off : Nat) (v : W64) : (s.setReg off v).regs = mSet 0 s.regs off v := rfl
@[simp] theorem State.writeLoc_mem (s : State) (l : Nat) (bs : List Byte) : (s.writeLoc l bs).mem = mPutRange s.mem l bs := by
  simp [State.writeLoc]
@[simp] theorem State.issued_wales (s : State) (w : Wale) (b : Nat) :
    (s.issued w b).wales = (s.putWale (w.advance s.clk b)).wales := by
  simp [State.issued]
@[simp] theorem State.issueWith_wales (s : State) (w : Wale) (r : List InFlight) (o b : Nat) :
    (s.issueWith w r o b).wales = (s.putWale (({ w with inflight := w.inflight ++ r } : Wale).advance s.clk b)).wales := by
  simp [State.issueWith]

end Sys2Proof.Machine
end

