-- ==== Sys2Proof/Laws/Memory.lean ====
section
/-!
SUPPORT. Sys2Proof/Laws/Memory.lean: every operation of memory keeps the canonical form, and what is read after a write.
-/
namespace Sys2Proof.Machine

/-! ### The canonical form -/

theorem reset_memory_wf : Memory.wf State.reset.mem = true := rfl

theorem writeLoc_wf {s : State} (l : Nat) (bs : List Byte) (h : Memory.wf s.mem = true) :
    Memory.wf (s.writeLoc l bs).mem = true := by
  rw [State.writeLoc_mem]
  exact mSorted_mPutRange l bs h

theorem writeNat_wf {s : State} (l n x : Nat) (h : Memory.wf s.mem = true) : Memory.wf (s.writeNat l n x).mem = true :=
  writeLoc_wf l _ h

theorem homeWrite_wf {s : State} (l : Nat) (bs : List Byte) (h : Memory.wf s.mem = true) :
    Memory.wf (s.homeWrite l bs).mem = true := writeLoc_wf l bs h

theorem openWindow_wf {s : State} (core : Nat) (w : Window) (h : Memory.wf s.mem = true) :
    Memory.wf (s.openWindow core w).mem = true := mSorted_mDelRange _ _ h

theorem loseRange_wf {s : State} (lo hi : Nat) (h : Memory.wf s.mem = true) :
    Memory.wf (s.loseRange lo hi).mem = true := mSorted_mDelRange _ _ h

theorem coldStart_wf {s : State} (h : Memory.wf s.mem = true) : Memory.wf s.coldStart.mem = true := mSorted_filter _ h

theorem putDesc_wf {s : State} (q off v : Nat) (h : Memory.wf s.mem = true) : Memory.wf (s.putDesc q off v).mem = true :=
  writeNat_wf _ _ _ h

theorem pushFault_wf {s : State} (r : FaultRec) (h : Memory.wf s.mem = true) : Memory.wf (s.pushFault r).mem = true := by
  unfold State.pushFault
  split
  · exact h
  · dsimp only
    split
    · exact writeNat_wf _ _ _ h
    · exact h

theorem quiet_mem (s : State) (ctx : Nat) : (s.quiet ctx).mem = s.mem := rfl

theorem stopCtx_wf {s : State} (ctx : Nat) (d : BitVec 512) (h : Memory.wf s.mem = true) :
    Memory.wf (s.stopCtx ctx d).mem = true := by
  unfold State.stopCtx
  split
  · exact h
  · exact pushFault_wf _ h

theorem takeTrap_wf {s : State} (w : Wale) (r : TrapReq) (h : Memory.wf s.mem = true) :
    Memory.wf (s.takeTrap w r).mem = true := by
  have hsup : ∀ (l : List InFlight) (t : State), Memory.wf t.mem = true →
      Memory.wf (l.foldl (fun s e => s.supersede w e.file e.reg e.no e.mask) t).mem = true := by
    intro l
    induction l with
    | nil => intro t h; exact h
    | cons e r ih => intro t h; exact ih _ h
  unfold State.takeTrap
  dsimp only
  split
  · exact h
  · exact h
  · unfold State.stopWeaver
    split <;> exact h
  · split
    · exact stopCtx_wf _ _ h
    · rw [State.putWale_mem]
      exact writeLoc_wf _ _ (hsup _ _ h)

/-- A fold over bytes that are written back keeps the canonical form. -/
theorem flushKeys_wf {s : State} (c lo hi : Nat) (h : Memory.wf s.mem = true) : Memory.wf (s.flushKeys c lo hi).mem = true := by
  unfold State.flushKeys
  dsimp only
  generalize s.dirty.filter _ = l
  revert s
  induction l with
  | nil => intro s h; exact h
  | cons p r ih =>
    intro s h
    exact ih (writeLoc_wf _ _ h)

theorem flushAll_wf {s : State} (h : Memory.wf s.mem = true) : Memory.wf s.flushAll.mem = true := by
  unfold State.flushAll
  generalize List.range 36 = l
  revert s
  induction l with
  | nil => intro s h; exact h
  | cons c r ih => intro s h; exact ih (flushKeys_wf _ _ _ h)

/-! ### Reading after a write -/

/-- A byte of those written reads as written. -/
theorem byteAt_writeLoc_in (s : State) (l : Nat) (bs : List Byte) {i : Nat} (h : i < bs.length) :
    (s.writeLoc l bs).byteAt (l + i) = bs.getD i 0 := by
  unfold State.byteAt
  rw [State.writeLoc_mem, mFind_mPutRange_in _ _ _ h]
  simp [List.getD, h]

/-- Every other byte reads as before. -/
theorem byteAt_writeLoc_out {s : State} {l : Nat} {bs : List Byte} {a : Nat} (hs : Memory.wf s.mem = true)
    (h : a < l ∨ l + bs.length ≤ a) : (s.writeLoc l bs).byteAt a = s.byteAt a := by
  unfold State.byteAt
  rw [State.writeLoc_mem, mFind_mPutRange_out _ _ hs h]
  simp

/-- The bytes written are read back. -/
theorem bytesAt_writeLoc (s : State) (l : Nat) (bs : List Byte) : (s.writeLoc l bs).bytesAt l bs.length = bs := by
  unfold State.bytesAt
  apply List.ext_getElem
  · simp
  · intro i h1 h2
    simp only [List.getElem_map, List.getElem_range]
    rw [byteAt_writeLoc_in s l bs h2]
    simp [List.getD, h2]

/-- Bytes clear of a write are read as before. -/
theorem bytesAt_writeLoc_out {s : State} {l n a : Nat} {bs : List Byte} (hs : Memory.wf s.mem = true)
    (h : a + n ≤ l ∨ l + bs.length ≤ a) : (s.writeLoc l bs).bytesAt a n = s.bytesAt a n := by
  unfold State.bytesAt
  apply List.map_congr_left
  intro i hi
  have := List.mem_range.1 hi
  exact byteAt_writeLoc_out hs (by omega)

/-- A number clear of a write is read as before. -/
theorem natAt_writeNat_out {s : State} {l n a k x : Nat} (hs : Memory.wf s.mem = true)
    (h : a + k ≤ l ∨ l + n ≤ a) : (s.writeNat l n x).natAt a k = s.natAt a k := by
  unfold State.natAt State.writeNat
  rw [bytesAt_writeLoc_out hs (by simpa using h)]

/-- A register of BAR 0 is read back, and another is read as before. -/
theorem reg_setReg {s : State} (o off : Nat) (v : W64) (h : mSorted s.regs = true) :
    (s.setReg off v).reg o = if o = off then v else s.reg o := by
  unfold State.reg
  rw [State.setReg_regs]
  split
  · rename_i ho
    subst ho
    exact mGet_mSet_self 0 _ v h
  · rename_i ho
    exact mGet_mSet_ne 0 v h ho

end Sys2Proof.Machine
end

