-- ==== Sys2Proof/Laws/Ops.lean ====
section
/-!
SUPPORT. Sys2Proof/Laws/Ops.lean: for each shared operation, what it can do.

The lemmas named `…_cases` list every outcome of an operation; a proof cites them and unfolds no shared operation.
-/
namespace Sys2Proof.Machine

/-! ### Outcomes -/

theorem fin_next {s : State} (h : s.absentHit = false) : fin s = .next s := by simp [fin, h]

/-- `fin` faults exactly when an absent frame was met, and otherwise goes on. -/
theorem fin_cases (s : State) :
    (s.absentHit = true ∧ fin s = .fault .absentFrame) ∨ (s.absentHit = false ∧ fin s = .next s) := by
  cases h : s.absentHit <;> simp [fin, h]

/-! ### Tables of wales and workgroups -/

/-- Looking up a serial after a table has been mapped by a function that keeps serials. -/
theorem find?_map_id {α : Type} (l : List α) (key : α → Nat) (f : α → α) (i : Nat) (hf : ∀ x, key (f x) = key x) :
    (l.map f).find? (fun x => key x == i) = (l.find? fun x => key x == i).map f := by
  induction l with
  | nil => rfl
  | cons x r ih =>
    simp only [List.map_cons, List.find?_cons, hf]
    split
    · rfl
    · exact ih

/-- The wale found has the serial looked up. -/
theorem wale?_id {s : State} {i : Nat} {w : Wale} (h : s.wale? i = some w) : w.id = i := by
  simpa using List.find?_some h

/-- The wale found is in the table. -/
theorem wale?_mem {s : State} {i : Nat} {w : Wale} (h : s.wale? i = some w) : w ∈ s.wales := List.mem_of_find?_eq_some h

/-- A wale put in its place is found there, when there was one. -/
theorem wale?_putWale_self {s : State} {w x : Wale} (h : s.wale? w.id = some x) : (s.putWale w).wale? w.id = some w := by
  have hid := wale?_id h
  unfold State.wale? at *
  rw [State.putWale_wales, find?_map_id _ Wale.id, h]
  · simp [hid]
  · intro y
    by_cases hy : y.id = w.id <;> simp [hy]

/-- Another wale is found as before. -/
theorem wale?_putWale_ne {s : State} {w : Wale} {i : Nat} (h : i ≠ w.id) : (s.putWale w).wale? i = s.wale? i := by
  unfold State.wale?
  rw [State.putWale_wales, find?_map_id _ Wale.id]
  · cases hx : s.wales.find? (fun x => x.id == i) with
    | none => rfl
    | some x =>
      have : x.id = i := by simpa using List.find?_some hx
      simp [this, h]
  · intro y
    by_cases hy : y.id = w.id <;> simp [hy]

/-- The wale that a function is applied to is found with the function applied. -/
theorem wale?_onWale_self (s : State) (i : Nat) (f : Wale → Wale) (hf : ∀ x, (f x).id = x.id) :
    (s.onWale i f).wale? i = (s.wale? i).map f := by
  unfold State.wale?
  rw [State.onWale_wales, find?_map_id _ Wale.id]
  · cases hx : s.wales.find? (fun x => x.id == i) with
    | none => rfl
    | some x =>
      have : x.id = i := by simpa using List.find?_some hx
      simp [this]
  · intro y
    by_cases hy : y.id = i <;> simp [hy, hf]

/-- Another wale is found as before. -/
theorem wale?_onWale_ne (s : State) {i j : Nat} (f : Wale → Wale) (hf : ∀ x, (f x).id = x.id) (h : j ≠ i) :
    (s.onWale i f).wale? j = s.wale? j := by
  unfold State.wale?
  rw [State.onWale_wales, find?_map_id _ Wale.id]
  · cases hx : s.wales.find? (fun x => x.id == j) with
    | none => rfl
    | some x =>
      have : x.id = j := by simpa using List.find?_some hx
      simp [this, h]
  · intro y
    by_cases hy : y.id = i <;> simp [hy, hf]

/-- Putting a wale leaves the other wales as they were. -/
theorem putWale_others (s : State) (w : Wale) :
    ((s.putWale w).wales.filter fun x => x.id != w.id) = s.wales.filter fun x => x.id != w.id := by
  rw [State.putWale_wales]
  induction s.wales with
  | nil => rfl
  | cons x r ih =>
    simp only [List.map_cons, List.filter_cons]
    by_cases hx : x.id = w.id <;> simpa [hx] using ih

/-- The workgroup that a function is applied to is found with the function applied. -/
theorem wg?_onWg_self (s : State) (i : Nat) (f : Workgroup → Workgroup) (hf : ∀ x, (f x).id = x.id) :
    (s.onWg i f).wg? i = (s.wg? i).map f := by
  unfold State.wg?
  rw [State.onWg_wgs, find?_map_id _ Workgroup.id]
  · cases hx : s.wgs.find? (fun x => x.id == i) with
    | none => rfl
    | some x =>
      have : x.id = i := by simpa using List.find?_some hx
      simp [this]
  · intro y
    by_cases hy : y.id = i <;> simp [hy, hf]

/-! ### Issue -/

@[simp] theorem advance_id (w : Wale) (clk b : Nat) : (w.advance clk b).id = w.id := rfl

/-- After an issue the wale is found moved past its instruction. -/
theorem wale?_issued {s : State} {w x : Wale} (b : Nat) (h : s.wale? w.id = some x) :
    (s.issued w b).wale? w.id = some (w.advance s.clk b) := by
  have : (s.issued w b).wales = (s.putWale (w.advance s.clk b)).wales := State.issued_wales s w b
  unfold State.wale?
  rw [this]
  exact wale?_putWale_self (w := w.advance s.clk b) h

/-- After an issue with results they are pending. -/
theorem wale?_issueWith {s : State} {w x : Wale} (r : List InFlight) (o b : Nat) (h : s.wale? w.id = some x) :
    (s.issueWith w r o b).wale? w.id = some (({ w with inflight := w.inflight ++ r } : Wale).advance s.clk b) := by
  have : (s.issueWith w r o b).wales = _ := State.issueWith_wales s w r o b
  unfold State.wale?
  rw [this]
  exact wale?_putWale_self (w := ({ w with inflight := w.inflight ++ r } : Wale).advance s.clk b) h

/-! ### Instructions of a wale -/

/-- A meaning runs on the wale at hand. -/
theorem withCur_eq {s : State} {w : Wale} (f : Wale → Host.Outcome State Fault Refusal) (h : s.wale? s.cur = some w) :
    s.withCur f = f w := by
  simp [State.withCur, h]

/-- Every outcome of a vector operation: a failed check traps, an empty set idles, a faulting beat traps at commit, and
otherwise its results are pending. -/
theorem vector_cases {s : State} {w : Wale} (g : G) (op : VOp) (h : s.wale? s.cur = some w) :
    (∃ r, s.vecCheck w g op = some r ∧ s.vector g op = .next (s.takeTrap w r)) ∨
    (s.vecCheck w g op = none ∧ w.active g.face = 0 ∧ s.vector g op = .next (s.issued w 0)) ∨
    (∃ r, s.vecCheck w g op = none ∧ w.active g.face ≠ 0 ∧
      commitTrap (op.runAll w g s.clk).1 (s.enables w) (s.clk + op.occ) = some r ∧
      s.vector g op = .next ((s.holdPipe w (s.clk + op.occ)).takeTrap w r)) ∨
    (s.vecCheck w g op = none ∧ w.active g.face ≠ 0 ∧
      commitTrap (op.runAll w g s.clk).1 (s.enables w) (s.clk + op.occ) = none ∧
      s.vector g op = .next (s.issueWith { w with seeds := (op.runAll w g s.clk).2 }
        (op.flights w g (op.runAll w g s.clk).1 s.clk) op.occ 0)) := by
  unfold State.vector
  rw [withCur_eq _ h]
  cases hc : s.vecCheck w g op with
  | some r => exact .inl ⟨r, rfl, rfl⟩
  | none =>
    by_cases ha : w.active g.face = 0
    · exact .inr (.inl ⟨rfl, ha, by simp [ha]⟩)
    · cases ht : commitTrap (op.runAll w g s.clk).1 (s.enables w) (s.clk + op.occ) with
      | some r => exact .inr (.inr (.inl ⟨r, rfl, ha, rfl, by simp [ht]; exact fun h => absurd h ha⟩))
      | none => exact .inr (.inr (.inr ⟨rfl, ha, rfl, by simp [ht]; exact fun h => absurd h ha⟩))

/-- Every outcome of a scalar operation. -/
theorem scalar_cases {s : State} {w : Wale} (face : Face) (uses : Wale → List Use) (trap : Wale → Option TrapReq)
    (res : Wale → List InFlight) (late : Wale → Option TrapReq) (h : s.wale? s.cur = some w) :
    (w.faceOk face = false ∧ s.scalar face uses trap res late = s.raise w .meldIllegal (w.active face)) ∨
    (w.faceOk face = true ∧ face ≠ .both ∧ w.active face = 0 ∧ s.scalar face uses trap res late = .next (s.issued w 0)) ∨
    (∃ r, w.faceOk face = true ∧ trap w = some r ∧ s.scalar face uses trap res late = .next (s.takeTrap w r)) ∨
    (∃ d, w.faceOk face = true ∧ s.stallShort w (uses w) = some d ∧
      s.scalar face uses trap res late = s.raise w .stallShort (w.active face) d) ∨
    (∃ r, w.faceOk face = true ∧ trap w = none ∧ s.stallShort w (uses w) = none ∧ late w = some r ∧
      s.scalar face uses trap res late =
        .next ((s.holdPipe w (s.clk + 1)).takeTrap w { r with t0 := s.clk + 1 })) ∨
    (w.faceOk face = true ∧ (face = .both ∨ w.active face ≠ 0) ∧ trap w = none ∧ s.stallShort w (uses w) = none ∧
      late w = none ∧ s.scalar face uses trap res late = .next (s.issueWith w (res w) 1 0)) := by
  unfold State.scalar
  rw [withCur_eq _ h]
  cases hf : w.faceOk face with
  | false => exact .inl ⟨rfl, by simp⟩
  | true =>
    by_cases he : face ≠ .both ∧ w.active face = 0
    · exact .inr (.inl ⟨rfl, he.1, he.2, by simp [he.1, he.2]⟩)
    · have hc : (face != .both && w.active face == 0) = false := by
        cases hb : (face != .both && w.active face == 0) with
        | false => rfl
        | true => simp at hb; exact absurd hb he
      cases ht : trap w with
      | some r => exact .inr (.inr (.inl ⟨r, rfl, rfl, by simp only [hc]; rfl⟩))
      | none =>
        cases hs : s.stallShort w (uses w) with
        | some d => exact .inr (.inr (.inr (.inl ⟨d, rfl, rfl, by simp only [hc]; rfl⟩)))
        | none =>
          cases hl : late w with
          | some r => exact .inr (.inr (.inr (.inr (.inl ⟨r, rfl, rfl, rfl, rfl, by simp only [hc]; rfl⟩))))
          | none =>
            refine .inr (.inr (.inr (.inr (.inr ⟨rfl, ?_, rfl, rfl, rfl, by simp only [hc]; rfl⟩))))
            tauto

/-- Every outcome of the checks that an engine operation makes before its own. -/
theorem engOp_cases {s : State} {w o : Wale} (face : Face) (kinds : List WaleKind)
    (f : Wale → Wale → Host.Outcome State Fault Refusal) (h : s.wale? s.cur = some w) (ho : s.wale? (State.ownerId w) = some o) :
    (kinds.contains w.kind = false ∧ s.engOp face kinds f = s.raise w .illegalField (w.active face)) ∨
    (w.faceOk face = false ∧ s.engOp face kinds f = s.raise w .meldIllegal (w.active face)) ∨
    (w.active face = 0 ∧ s.engOp face kinds f = .next (s.issued w 0)) ∨
    (kinds.contains w.kind = true ∧ w.faceOk face = true ∧ w.active face ≠ 0 ∧ s.engOp face kinds f = f w o) := by
  unfold State.engOp
  rw [withCur_eq _ h]
  simp only [ho]
  cases hk : kinds.contains w.kind with
  | false => exact .inl ⟨rfl, by simp⟩
  | true =>
    cases hf : w.faceOk face with
    | false => exact .inr (.inl ⟨rfl, by simp⟩)
    | true =>
      by_cases ha : w.active face = 0
      · exact .inr (.inr (.inl ⟨ha, by simp [ha]⟩))
      · exact .inr (.inr (.inr ⟨rfl, rfl, ha, by simp; exact fun h => absurd h ha⟩))

/-- Every outcome of the checks that a weaver operation makes before its own. -/
theorem wvOp_cases {s : State} {w : Wale} (f : WvForm) (flagless : Wale → Bool) (uses : List Nat)
    (go : Wale → Host.Outcome State Fault Refusal) (h : s.wale? s.cur = some w) :
    (w.privileged = false ∧ s.wvOp f flagless uses go = s.raise w .priv (w.active f.face)) ∨
    (w.kind ≠ .weaver ∧ w.kind ≠ .wale ∧ s.wvOp f flagless uses go = s.raise w .illegalField 0) ∨
    (flagless w = true ∧ s.wvOp f flagless uses go = s.raise w .illegalMod (w.active f.face)) ∨
    (w.faceOk f.face = false ∧ s.wvOp f flagless uses go = s.raise w .meldIllegal (w.active f.face)) ∨
    (w.active f.face = 0 ∧ s.wvOp f flagless uses go = .next (s.issued w 0)) ∨
    (∃ d, s.stallShort w (uses.map (Use.mk .s)) = some d ∧
      s.wvOp f flagless uses go = s.raise w .stallShort (w.active f.face) d) ∨
    (w.privileged = true ∧ flagless w = false ∧ w.faceOk f.face = true ∧ s.stallShort w (uses.map (Use.mk .s)) = none ∧
      s.wvOp f flagless uses go = go w) := by
  unfold State.wvOp
  rw [withCur_eq _ h]
  cases hp : w.privileged
  · simp
  · by_cases hk : (w.kind != .weaver && w.kind != .wale) = true
    · right; left
      have hk' : w.kind ≠ .weaver ∧ w.kind ≠ .wale := by simpa using hk
      exact ⟨hk'.1, hk'.2, by simp [hk]⟩
    · simp only [Bool.not_eq_true] at hk
      cases hg : flagless w
      · cases hf : w.faceOk f.face
        · simp [hk]
        · by_cases he : (f.face != .both && w.active f.face == 0) = true
          · have : w.active f.face = 0 := by simp at he; exact he.2
            exact .inr (.inr (.inr (.inr (.inl ⟨this, by simp only [hk, he]; rfl⟩))))
          · simp only [Bool.not_eq_true] at he
            cases hs : s.stallShort w (uses.map (Use.mk .s)) with
            | some d => exact .inr (.inr (.inr (.inr (.inr (.inl ⟨d, rfl, by simp only [hk, he]; rfl⟩)))))
            | none => exact .inr (.inr (.inr (.inr (.inr (.inr ⟨rfl, rfl, rfl, rfl, by simp only [hk, he]; rfl⟩)))))
      · exact .inr (.inr (.inl ⟨rfl, by simp [hk]⟩))

/-- Every outcome of a row access of a bank program. -/
theorem rowAccess_cases {s : State} {b : BankCall} (r : RowRef) (p : Perm) (f : BankCall → Nat → State)
    (h : s.bank? s.curBank = some b) :
    (∃ l, s.rowAt b r p = .ok l ∧ (s.rowAccess r p f = .next ((f (b.touch l) l).fillDie b.die b.ctx (b.rowVa r)) ∨
      (∃ t, s.spoiled l 32 (p == .w) { ctx := b.ctx, core := b.engineId, slot := 127, va := b.rowVa r } = some t ∧
        s.rowAccess r p f = .next t) ∨
      s.rowAccess r p f = .next (s.stir (homeDie l b.die)))) ∨
    (s.rowAt b r p = .miss ∧ s.rowAccess r p f = .next s) ∨
    (s.rowAt b r p = .bad ∧ s.rowAccess r p f = .next (s.faultBank b)) ∨
    (s.rowAt b r p = .absent ∧ s.rowAccess r p f = .fault .absentFrame) := by
  unfold State.rowAccess State.withBank
  simp only [h]
  cases hr : s.rowAt b r p with
  | ok l =>
    left
    refine ⟨l, rfl, ?_⟩
    dsimp only
    split
    · cases hsp : s.spoiled l 32 (p == .w) { ctx := b.ctx, core := b.engineId, slot := 127, va := b.rowVa r } with
      | some t => exact .inr (.inl ⟨t, rfl, rfl⟩)
      | none => exact .inl rfl
    · exact .inr (.inr rfl)
  | miss => exact .inr (.inl ⟨rfl, rfl⟩)
  | bad => exact .inr (.inr (.inl ⟨rfl, rfl⟩))
  | absent => exact .inr (.inr (.inr ⟨rfl, by simp [fin]⟩))

/-- An operation on a program's rows always goes on. -/
theorem bankLanes_eq {s : State} {b : BankCall} (d : Nat) (f : BankCall → Nat → Nat) (h : s.bank? s.curBank = some b) :
    s.bankLanes d f = .next (s.putBank (b.step.setRow d (rowOf (f b)))) := by
  simp [State.bankLanes, State.withBank, h]

/-- Every outcome of the service of a queue: the weaver declines, a home does not answer yet, the round ends, or the queue is
served. -/
theorem serve_cases (s : State) (core q : Nat) (f : State → Host.Outcome State Fault Refusal) :
    s.serve core q f = .next s ∨ s.serve core q f = .next (s.stirHomes (s.queueLocs q)) ∨
    (∃ s1 x, s.arbitrate core = (x, s1) ∧ x ≠ some q ∧ s.serve core q f = .next s1) ∨
    (∃ s1, s.arbitrate core = (some q, s1) ∧ s.weaverUp core = true ∧ s.serve core q f = f s1) := by
  unfold State.serve
  split
  · exact .inl rfl
  · rename_i hc
    split
    · exact .inr (.inl rfl)
    · rcases ha : s.arbitrate core with ⟨x, s1⟩
      simp only
      by_cases hx : x = some q
      · subst hx
        refine .inr (.inr (.inr ⟨s1, rfl, ?_, by simp⟩))
        cases hw : s.weaverUp core <;> simp_all
      · exact .inr (.inr (.inl ⟨s1, x, rfl, hx, by simp [hx]⟩))

/-! ### Taking a trap -/

/-- A trap of a wale outside a handler, in a context with one: the save area is written and the wale enters (R251). -/
theorem takeTrap_enters {s : State} {w : Wale} (r : TrapReq) (hk : w.kind = .wale) (ht : w.trap = none)
    (hh : s.handler w.ctx ≠ 0) :
    ∃ mq, s.takeTrap w r = ((s.supersedeAll w (w.settleClk s.clk)).writeLoc (saveArea w.core w.slot) w.settleAll.saveBytes).putWale
      { w.enter (s.handler w.ctx) { r with t0 := max r.t0 s.clk } with mq := mq } := by
  have hb : (s.handler w.ctx == 0) = false := by simpa using hh
  simp only [State.takeTrap, hk, ht, hb, Option.isSome_none, Bool.or_self, Bool.false_eq_true, if_false]
  exact ⟨_, rfl⟩

/-- A trap in a handler, or without one, stops the context (R256). -/
theorem takeTrap_stops {s : State} {w : Wale} (r : TrapReq) (hk : w.kind = .wale) (h : w.trap.isSome = true ∨ s.handler w.ctx = 0) :
    ∃ d, s.takeTrap w r = s.stopCtx w.ctx d := by
  have hb : (w.trap.isSome || s.handler w.ctx == 0) = true := by simpa using h
  simp only [State.takeTrap, hk, hb, if_true]
  exact ⟨_, rfl⟩

/-- A weaver that traps stops (R256). -/
theorem takeTrap_weaver {s : State} {w : Wale} (r : TrapReq) (hk : w.kind = .weaver) : s.takeTrap w r = s.stopWeaver w.core := by
  unfold State.takeTrap
  simp only [hk]

/-- A stream that traps ends faulted (R208). -/
theorem takeTrap_stream {s : State} {w : Wale} (r : TrapReq) (hk : w.kind = .streamM ∨ w.kind = .streamC) :
    s.takeTrap w r = s.faultStream w := by
  unfold State.takeTrap
  rcases hk with hk | hk <;> simp only [hk]

/-! ### Steps -/

/-- A step carries out what comes next. -/
theorem step_of_run {s t : State} {i : Instr} (h : s.nextUp = .run t i) : step s = exec i t := by simp [step, h]

/-- A step whose reaching ends it. -/
theorem step_of_stop {s : State} {o : Host.Outcome State Fault Refusal} (h : s.nextUp = .stop o) : step s = o := by
  simp [step, h]

end Sys2Proof.Machine
end

