-- ==== Sys2Proof/Tests/Slice0.lean ====
section
/-!
SUPPORT. Sys2Proof/Tests/Slice0.lean: checks of the model's own work.

Decode tests: one word a constructor, laid out bit by bit from the spec's encoding of it. Form tests: an ill-formed term
for each check of WellFormed. Witnesses: for the hypotheses of the statements of Certificates/Slice0/Obligations.lean, concrete
states and operands that meet them.
-/
namespace Sys2Proof.Tests
open Sys2Proof.Machine Sys2Proof.Claims

set_option Elab.async false

/-! ### Decoding -/

/-- Every word reads as its instruction and is its encoding; a fixed code word needs no extension. -/
def reads (l : List (W64 × Instr)) : Bool :=
  l.all fun p => decide ((decodeWord p.1 none).toOption = some p.2) && decide (encode p.2 = some [p.1]) && p.2.wf

/-- The same for bank words. -/
def readsBank (l : List (W32 × Instr)) : Bool :=
  l.all fun p => decide (decodeBank p.1 = some p.2) && decide (encodeBank p.2 = some p.1) && p.2.wf

/-- Words of the headers encodings, written out from R60, R62, R74, decode to their instructions and are their encodings. -/
theorem test_decode_headers : reads
   [(0x0000F90040000002, .intervalHeader ⟨⟨0, 31⟩, ⟨32, 1⟩, ⟨0, 0⟩, ⟨0, 0⟩, 0, true⟩),
    (0x18051F2E40000010, .clauseHeader ⟨0x805, 1, 15, 1, [7, 2, 0, 0, 0, 0, 0, 0], true⟩),
    (0xD000000000000005, .illegalWord 0xD000000000000005),
    (0xF000000000000000, .illegalWord 0xF000000000000000),
    (0x64C0000000000000, .illegalWord 0x64C0000000000000)] = true := by
  decide +kernel

/-- Words of the integer encodings, written out from R64, R69, R73, R75, decode to their instructions and are their encodings. -/
theorem test_decode_integer : reads
   [(0x2014003040500000, .addInt ⟨.i32, .both, ⟨.vec 3, .vec 4, .vec 5, .none, {}⟩, none⟩),
    (0x2054003040500000, .subInt ⟨.i32, .both, ⟨.vec 3, .vec 4, .vec 5, .none, {}⟩, none⟩),
    (0x2094003040500000, .mulInt ⟨.i32, .both, ⟨.vec 3, .vec 4, .vec 5, .none, {}⟩, none⟩),
    (0x20D4003040500000, .mulhi ⟨.i32, .both, ⟨.vec 3, .vec 4, .vec 5, .none, {}⟩, none⟩),
    (0x2118003040506000, .mad ⟨.n32, .both, ⟨.vec 3, .vec 4, .vec 5, .vec 6, {}⟩, none⟩),
    (0x2158003040500000, .div ⟨.n32, .both, ⟨.vec 3, .vec 4, .vec 5, .none, {}⟩, none⟩),
    (0x2198003040500000, .rem ⟨.n32, .both, ⟨.vec 3, .vec 4, .vec 5, .none, {}⟩, none⟩),
    (0x21D4003040000000, .absInt ⟨.i32, .both, ⟨.vec 3, .vec 4, .none, .none, {}⟩, none⟩),
    (0x2214003040000000, .negInt ⟨.i32, .both, ⟨.vec 3, .vec 4, .none, .none, {}⟩, none⟩),
    (0x2258003040500000, .minInt ⟨.n32, .both, ⟨.vec 3, .vec 4, .vec 5, .none, {}⟩, none⟩),
    (0x2298003040500000, .maxInt ⟨.n32, .both, ⟨.vec 3, .vec 4, .vec 5, .none, {}⟩, none⟩),
    (0x22D8003040500000, .and ⟨.n32, .both, ⟨.vec 3, .vec 4, .vec 5, .none, {}⟩, none⟩),
    (0x2318003040500000, .or ⟨.n32, .both, ⟨.vec 3, .vec 4, .vec 5, .none, {}⟩, none⟩),
    (0x2358003040500000, .xor ⟨.n32, .both, ⟨.vec 3, .vec 4, .vec 5, .none, {}⟩, none⟩),
    (0x2380003040000000, .not ⟨.raw, .both, ⟨.vec 3, .vec 4, .none, .none, {}⟩, none⟩),
    (0x23D4003040500000, .shl ⟨.i32, .both, ⟨.vec 3, .vec 4, .vec 5, .none, {}⟩, none⟩),
    (0x2414003040500000, .shr ⟨.i32, .both, ⟨.vec 3, .vec 4, .vec 5, .none, {}⟩, none⟩),
    (0x2454003040500000, .sar ⟨.i32, .both, ⟨.vec 3, .vec 4, .vec 5, .none, {}⟩, none⟩),
    (0x2494003040500000, .rot ⟨.i32, .both, ⟨.vec 3, .vec 4, .vec 5, .none, {}⟩, none⟩),
    (0x24D8003040000000, .popc ⟨.n32, .both, ⟨.vec 3, .vec 4, .none, .none, {}⟩, none⟩),
    (0x2518003040000000, .clz ⟨.n32, .both, ⟨.vec 3, .vec 4, .none, .none, {}⟩, none⟩),
    (0x2558003040000000, .brev ⟨.n32, .both, ⟨.vec 3, .vec 4, .none, .none, {}⟩, none⟩),
    (0x2594003040506000, .bfx ⟨.i32, .both, ⟨.vec 3, .vec 4, .vec 5, .vec 6, {}⟩, none⟩),
    (0x25D8003040506000, .bfi ⟨.n32, .both, ⟨.vec 3, .vec 4, .vec 5, .vec 6, {}⟩, none⟩),
    (0x2614002040600000, .add64 ⟨.i32, .both, ⟨.vec 2, .vec 4, .vec 6, .none, {}⟩, none⟩),
    (0x2654002040600000, .sub64 ⟨.i32, .both, ⟨.vec 2, .vec 4, .vec 6, .none, {}⟩, none⟩),
    (0x2698002040500000, .mulw ⟨.n32, .both, ⟨.vec 2, .vec 4, .vec 5, .none, {}⟩, none⟩),
    (0x26D4003040500006, .cmpInt ⟨.i32, .both, ⟨.pred 3, .vec 4, .vec 5, .none, { cond := 3 }⟩, none⟩),
    (0x2700003040500000, .pand ⟨.raw, .both, ⟨.pred 3, .pred 4, .pred 5, .none, {}⟩, none⟩),
    (0x2740003040500000, .por ⟨.raw, .both, ⟨.pred 3, .pred 4, .pred 5, .none, {}⟩, none⟩)] = true := by
  decide +kernel

/-- Words of the integer encodings, continued, written out from R64, R69, R73, R75, decode to their instructions and are their encodings. -/
theorem test_decode_integer_2 : reads
   [(0x2780003040500000, .pxor ⟨.raw, .both, ⟨.pred 3, .pred 4, .pred 5, .none, {}⟩, none⟩),
    (0x27C0003040000000, .pnot ⟨.raw, .both, ⟨.pred 3, .pred 4, .none, .none, {}⟩, none⟩),
    (0x2824003040506000, .sel ⟨.f32, .both, ⟨.vec 3, .vec 4, .vec 5, .pred 6, {}⟩, none⟩),
    (0x2874003040000000, .mov ⟨.q4, .both, ⟨.vec 3, .vec 4, .none, .none, {}⟩, none⟩),
    (0x28A4003040490FDB, .moviVector ⟨.f32, .both, ⟨.vec 3, .none, .w32 0x40490FDB, .none, {}⟩, none⟩),
    (0x28C00030DEADBEEF, .moviScalar ⟨.raw, .both, ⟨.sc 3, .none, .w32 0xDEADBEEF, .none, {}⟩, none⟩),
    (0x2914803040000000, .movsv ⟨.i32, .both, ⟨.vec 3, .sc 4, .none, .none, {}⟩, none⟩),
    (0x2954003040500000, .movvs ⟨.i32, .both, ⟨.sc 3, .vec 4, .lit 5, .none, {}⟩, none⟩),
    (0x2998C03040500000, .sadd ⟨.n32, .both, ⟨.sc 3, .sc 4, .sc 5, .none, {}⟩, none⟩),
    (0x29D8C03040500000, .ssub ⟨.n32, .both, ⟨.sc 3, .sc 4, .sc 5, .none, {}⟩, none⟩),
    (0x2A18C03040500000, .smul ⟨.n32, .both, ⟨.sc 3, .sc 4, .sc 5, .none, {}⟩, none⟩),
    (0x2A58C03040500000, .sand ⟨.n32, .both, ⟨.sc 3, .sc 4, .sc 5, .none, {}⟩, none⟩),
    (0x2A98C03040500000, .sor ⟨.n32, .both, ⟨.sc 3, .sc 4, .sc 5, .none, {}⟩, none⟩),
    (0x2AD8C03040500000, .sxor ⟨.n32, .both, ⟨.sc 3, .sc 4, .sc 5, .none, {}⟩, none⟩),
    (0x2B18C03040500000, .sshl ⟨.n32, .both, ⟨.sc 3, .sc 4, .sc 5, .none, {}⟩, none⟩),
    (0x2B58C03040500000, .sshr ⟨.n32, .both, ⟨.sc 3, .sc 4, .sc 5, .none, {}⟩, none⟩),
    (0x2B94C0304050000A, .scmp ⟨.i32, .both, ⟨.sc 3, .sc 4, .sc 5, .none, { cond := 5 }⟩, none⟩),
    (0x2BD4003040000000, .xmov ⟨.i32, .both, ⟨.xreg 3, .vec 4, .none, .none, {}⟩, none⟩),
    (0x2C14003040500000, .xadd ⟨.i32, .both, ⟨.xreg 3, .xreg 4, .vec 5, .none, {}⟩, none⟩),
    (0x2C40003040000000, .xget ⟨.raw, .both, ⟨.vec 3, .xreg 4, .none, .none, {}⟩, none⟩),
    (0x2C80003020000000, .srd ⟨.raw, .both, ⟨.vec 3, .lit 2, .lit 0, .none, {}⟩, none⟩),
    (0x2CC0003120300000, .srds ⟨.raw, .both, ⟨.sc 3, .lit 0x12, .lit 3, .none, {}⟩, none⟩),
    (0x2D00003000000000, .exmrd ⟨.raw, .both, ⟨.sc 3, .none, .none, .none, {}⟩, none⟩),
    (0x2D40800040000000, .exmwr ⟨.raw, .both, ⟨.none, .sc 4, .none, .none, {}⟩, none⟩),
    (0x2D9C003000000000, .tagset ⟨.f16, .both, ⟨.vec 3, .none, .none, .none, {}⟩, none⟩),
    (0x2DC0003040000000, .tagget ⟨.raw, .both, ⟨.sc 3, .vec 4, .none, .none, {}⟩, none⟩),
    (0x2E14C03040500000, .smin ⟨.i32, .both, ⟨.sc 3, .sc 4, .sc 5, .none, {}⟩, none⟩),
    (0x2E54C03040500000, .smax ⟨.i32, .both, ⟨.sc 3, .sc 4, .sc 5, .none, {}⟩, none⟩),
    (0x2E98803040000000, .smov ⟨.n32, .both, ⟨.sc 3, .sc 4, .none, .none, {}⟩, none⟩),
    (0x2F98003040500000, .clmull 0x2F98003040500000)] = true := by
  decide +kernel

/-- Words of the integer encodings, continued, written out from R64, R69, R73, R75, decode to their instructions and are their encodings. -/
theorem test_decode_integer_3 : reads
   [(0x2FD8003040500000, .clmulh 0x2FD8003040500000)] = true := by
  decide +kernel

/-- Words of the float encodings, written out from R64, R67, R73, decode to their instructions and are their encodings. -/
theorem test_decode_float : reads
   [(0x3024003040500008, .addFlt ⟨.f32, .both, ⟨.vec 3, .vec 4, .vec 5, .none, { rm := .rz }⟩, none⟩),
    (0x3064003040500008, .subFlt ⟨.f32, .both, ⟨.vec 3, .vec 4, .vec 5, .none, { rm := .rz }⟩, none⟩),
    (0x30A4003040500008, .mulFlt ⟨.f32, .both, ⟨.vec 3, .vec 4, .vec 5, .none, { rm := .rz }⟩, none⟩),
    (0x30DC003040506000, .fma ⟨.f16, .both, ⟨.vec 3, .vec 4, .vec 5, .vec 6, {}⟩, none⟩),
    (0x3124003040500000, .minFlt ⟨.f32, .both, ⟨.vec 3, .vec 4, .vec 5, .none, {}⟩, none⟩),
    (0x3164003040500000, .maxFlt ⟨.f32, .both, ⟨.vec 3, .vec 4, .vec 5, .none, {}⟩, none⟩),
    (0x31A4003040500000, .minnm ⟨.f32, .both, ⟨.vec 3, .vec 4, .vec 5, .none, {}⟩, none⟩),
    (0x31E4003040500000, .maxnm ⟨.f32, .both, ⟨.vec 3, .vec 4, .vec 5, .none, {}⟩, none⟩),
    (0x3224003040000000, .absFlt ⟨.f32, .both, ⟨.vec 3, .vec 4, .none, .none, {}⟩, none⟩),
    (0x3264003040000000, .negFlt ⟨.f32, .both, ⟨.vec 3, .vec 4, .none, .none, {}⟩, none⟩),
    (0x32A4003040500012, .cmpFlt ⟨.f32, .both, ⟨.pred 3, .vec 4, .vec 5, .none, { cond := 9 }⟩, none⟩),
    (0x32E4003040000004, .classFlt ⟨.f32, .both, ⟨.pred 3, .vec 4, .none, .none, { cond := 2 }⟩, none⟩),
    (0x3324003040000000, .rcp ⟨.f32, .both, ⟨.vec 3, .vec 4, .none, .none, {}⟩, none⟩),
    (0x3364003040000000, .sqrt ⟨.f32, .both, ⟨.vec 3, .vec 4, .none, .none, {}⟩, none⟩),
    (0x33A4003040000000, .rsq ⟨.f32, .both, ⟨.vec 3, .vec 4, .none, .none, {}⟩, none⟩),
    (0x33E4003040000000, .fexp2f ⟨.f32, .both, ⟨.vec 3, .vec 4, .none, .none, {}⟩, none⟩),
    (0x3424003040000000, .flog2f ⟨.f32, .both, ⟨.vec 3, .vec 4, .none, .none, {}⟩, none⟩),
    (0x3464003040000018, .rint ⟨.f32, .both, ⟨.vec 3, .vec 4, .none, .none, { rm := .rm }⟩, none⟩),
    (0x34A4003040500000, .expins ⟨.f32, .both, ⟨.vec 3, .vec 4, .vec 5, .none, {}⟩, none⟩),
    (0x34E4003040000000, .expext ⟨.f32, .both, ⟨.vec 3, .vec 4, .none, .none, {}⟩, none⟩),
    (0x3524003040500000, .cpysgn ⟨.f32, .both, ⟨.vec 3, .vec 4, .vec 5, .none, {}⟩, none⟩),
    (0x3564003040000000, .fract ⟨.f32, .both, ⟨.vec 3, .vec 4, .none, .none, {}⟩, none⟩)] = true := by
  decide +kernel

/-- Words of the conversion encodings, written out from R64, R73, R129 to R132, decode to their instructions and are their encodings. -/
theorem test_decode_conversion : reads
   [(0x401400304000900A, .cvt ⟨.i32, .both, ⟨.vec 3, .vec 4, .none, .lit 9, { rm := .rz, sat := true }⟩, none⟩),
    (0x4074003040529000, .q4pack ⟨.q4, .both, ⟨.vec 3, .vec 4, .vec 5, .lit 0x29, {}⟩, none⟩),
    (0x40A4003040500000, .q4unpk ⟨.f32, .both, ⟨.vec 3, .vec 4, .vec 5, .none, {}⟩, none⟩),
    (0x40FC003040500000, .pack2 ⟨.bf16x2, .both, ⟨.vec 3, .vec 4, .vec 5, .none, {}⟩, none⟩),
    (0x410C003040100000, .unpk2 ⟨.i16, .both, ⟨.vec 3, .vec 4, .lit 1, .none, {}⟩, none⟩)] = true := by
  decide +kernel

/-- Words of the lane encodings, written out from R64, R73, R134 to R136, decode to their instructions and are their encodings. -/
theorem test_decode_lane : reads
   [(0x5024003040100000, .xchgBfly ⟨.f32, .both, ⟨.vec 3, .vec 4, .lit 1, .none, {}⟩, none⟩),
    (0x5064003040500000, .shfl ⟨.f32, .both, ⟨.vec 3, .vec 4, .vec 5, .none, {}⟩, none⟩),
    (0x50A4003040700000, .bcast ⟨.f32, .both, ⟨.vec 3, .vec 4, .lit 7, .none, {}⟩, none⟩),
    (0x50C0003040000000, .ballot ⟨.raw, .both, ⟨.sc 3, .pred 4, .none, .none, {}⟩, none⟩),
    (0x5100003040200000, .vote ⟨.raw, .both, ⟨.sc 3, .pred 4, .lit 2, .none, {}⟩, none⟩),
    (0x5154003040000000, .wsum ⟨.i32, .both, ⟨.sc 3, .vec 4, .none, .none, {}⟩, none⟩),
    (0x5194003040000000, .wmin ⟨.i32, .both, ⟨.sc 3, .vec 4, .none, .none, {}⟩, none⟩),
    (0x51D4003040000000, .wmax ⟨.i32, .both, ⟨.sc 3, .vec 4, .none, .none, {}⟩, none⟩),
    (0x5218003040000000, .wand ⟨.n32, .both, ⟨.sc 3, .vec 4, .none, .none, {}⟩, none⟩),
    (0x5258003040000000, .wor ⟨.n32, .both, ⟨.sc 3, .vec 4, .none, .none, {}⟩, none⟩)] = true := by
  decide +kernel

/-- Words of the control encodings, written out from R64, R138, R145, R154, R155, decode to their instructions and are their encodings. -/
theorem test_decode_control : reads
   [(0x6000000040000000, .ifOp ⟨.raw, .both, ⟨.none, .pred 4, .none, .none, {}⟩, none⟩),
    (0x6040000000000000, .elseOp ⟨.raw, .both, ⟨.none, .none, .none, .none, {}⟩, none⟩),
    (0x6080000000000000, .endif ⟨.raw, .both, ⟨.none, .none, .none, .none, {}⟩, none⟩),
    (0x60C0000000000000, .loop ⟨.raw, .both, ⟨.none, .none, .none, .none, {}⟩, none⟩),
    (0x62C0000000000000, .ret ⟨.raw, .both, ⟨.none, .none, .none, .none, {}⟩, none⟩),
    (0x6300000000000000, .exit ⟨.raw, .both, ⟨.none, .none, .none, .none, {}⟩, none⟩),
    (0x6340000000000000, .nop ⟨.raw, .both, ⟨.none, .none, .none, .none, {}⟩, none⟩),
    (0x6380000000000000, .yield ⟨.raw, .both, ⟨.none, .none, .none, .none, {}⟩, none⟩),
    (0x6400000000000000, .endmeld ⟨.raw, .both, ⟨.none, .none, .none, .none, {}⟩, none⟩),
    (0x610010000FFFFFFB, .endloop ⟨.raw, .both, ⟨.none, .none, .imm 0xFFFFFFB, .none, {}⟩, none⟩),
    (0x6140000040000000, .breakOp ⟨.raw, .both, ⟨.none, .pred 4, .none, .none, {}⟩, none⟩),
    (0x6180000040000000, .cont ⟨.raw, .both, ⟨.none, .pred 4, .none, .none, {}⟩, none⟩),
    (0x63C0000040000000, .meld ⟨.raw, .both, ⟨.none, .pred 4, .none, .none, {}⟩, none⟩),
    (0x61C0100000000009, .jmp ⟨.raw, .both, ⟨.none, .none, .imm 9, .none, {}⟩, none⟩),
    (0x6200900040000009, .jmpz ⟨.raw, .both, ⟨.none, .sc 4, .imm 9, .none, {}⟩, none⟩),
    (0x6240900040000009, .jmpnz ⟨.raw, .both, ⟨.none, .sc 4, .imm 9, .none, {}⟩, none⟩),
    (0x6288103040000009, .call ⟨2, .both, ⟨9, 3, 4⟩, none⟩),
    (0x6440E03040610020, .spawn ⟨3, 4, 6, some 16⟩),
    (0x6480000040503000, .rgrp ⟨4, 5, 3⟩)] = true := by
  decide +kernel

/-- Words of the near encodings, written out from R71, R72, R164, decode to their instructions and are their encodings. -/
theorem test_decode_near : reads
   [(0x700000304141108D, .ld ⟨.wk, .none, .both, ⟨.wl, .imm 17, 3, 4, 5, 2, false, false, 13⟩, none⟩),
    (0x7040003041411082, .st ⟨.wk, .none, .both, ⟨.wl, .imm 17, 3, 4, 5, 2, false, false, 2⟩, none⟩),
    (0x7080003041411080, .gather ⟨.wk, .none, .both, ⟨.wl, .imm 17, 3, 4, 5, 2, false, false, 0⟩, none⟩),
    (0x70C0003041411080, .scatter ⟨.wk, .none, .both, ⟨.wl, .imm 17, 3, 4, 5, 2, false, false, 0⟩, none⟩),
    (0x7100100040000011, .layset ⟨.both, 4, .lit 17⟩),
    (0x7140403000600000, .layget ⟨.both, 3, .sc 6⟩)] = true := by
  decide +kernel

/-- Words of the queued encodings, written out from R71, decode to their instructions and are their encodings. -/
theorem test_decode_queued : reads
   [(0x80188030414110A8, .ldq ⟨.sg, .acq, .both, ⟨.dev, .imm 17, 3, 4, 5, 2, true, false, 8⟩, none⟩),
    (0x8054603041411087, .stq ⟨.sg, .rel, .both, ⟨.die, .imm 17, 3, 4, 5, 2, false, false, 7⟩, none⟩),
    (0x80800030414110A0, .gatherq ⟨.wk, .none, .both, ⟨.wl, .imm 17, 3, 4, 5, 2, true, false, 0⟩, none⟩),
    (0x80C0003041411080, .scatterq ⟨.wk, .none, .both, ⟨.wl, .imm 17, 3, 4, 5, 2, false, false, 0⟩, none⟩),
    (0x8100000041411080, .pref ⟨.wk, .none, .both, ⟨.wl, .imm 17, 0, 4, 5, 2, false, false, 0⟩, none⟩)] = true := by
  decide +kernel

/-- Words of the sync encodings, written out from R71, R173, R174, R181, decode to their instructions and are their encodings. -/
theorem test_decode_sync : reads
   [(0x90108030414110A0, .atomAdd ⟨.sg, .none, .both, ⟨.dev, .imm 17, 3, 4, 5, 2, true, false, 0⟩, none⟩),
    (0x90508030414110A0, .atomMin ⟨.sg, .none, .both, ⟨.dev, .imm 17, 3, 4, 5, 2, true, false, 0⟩, none⟩),
    (0x90908030414110A0, .atomMax ⟨.sg, .none, .both, ⟨.dev, .imm 17, 3, 4, 5, 2, true, false, 0⟩, none⟩),
    (0x90D08030414110A0, .atomAnd ⟨.sg, .none, .both, ⟨.dev, .imm 17, 3, 4, 5, 2, true, false, 0⟩, none⟩),
    (0x91108030414110A0, .atomOr ⟨.sg, .none, .both, ⟨.dev, .imm 17, 3, 4, 5, 2, true, false, 0⟩, none⟩),
    (0x91508030414110A0, .atomXor ⟨.sg, .none, .both, ⟨.dev, .imm 17, 3, 4, 5, 2, true, false, 0⟩, none⟩),
    (0x91908030414110A0, .atomXchg ⟨.sg, .none, .both, ⟨.dev, .imm 17, 3, 4, 5, 2, true, false, 0⟩, none⟩),
    (0x91D08020414110A0, .atomCas ⟨.sg, .none, .both, ⟨.dev, .imm 17, 2, 4, 5, 2, true, false, 0⟩, none⟩),
    (0x92108030414110A0, .atomIncw ⟨.sg, .none, .both, ⟨.dev, .imm 17, 3, 4, 5, 2, true, false, 0⟩, none⟩),
    (0x92508020414110A3, .atomFaddb ⟨.sg, .none, .both, ⟨.dev, .imm 17, 2, 4, 5, 2, true, false, 3⟩, none⟩),
    (0x92908030414110A0, .atomFadd ⟨.sg, .none, .both, ⟨.dev, .imm 17, 3, 4, 5, 2, true, false, 0⟩, none⟩),
    (0x92D08030414110A0, .atomFmax ⟨.sg, .none, .both, ⟨.dev, .imm 17, 3, 4, 5, 2, true, false, 0⟩, none⟩),
    (0x93108030414110A0, .redAdd ⟨.sg, .none, .both, ⟨.dev, .imm 17, 3, 4, 5, 2, true, false, 0⟩, none⟩),
    (0x93508030414110A0, .redFadd ⟨.sg, .none, .both, ⟨.dev, .imm 17, 3, 4, 5, 2, true, false, 0⟩, none⟩),
    (0x93908030414110A0, .redFmax ⟨.sg, .none, .both, ⟨.dev, .imm 17, 3, 4, 5, 2, true, false, 0⟩, none⟩),
    (0x9400000000000026, .fence ⟨.both, .dev, .ar⟩),
    (0x9440000000300010, .qfence ⟨.both, .clu, 3⟩),
    (0x9480000001411000, .lockq ⟨.wk, .none, .both, ⟨.wl, .imm 17, 0, 0, 5, 0, false, false, 0⟩, none⟩),
    (0x94C0000001411000, .unlockq ⟨.wk, .none, .both, ⟨.wl, .imm 17, 0, 0, 5, 0, false, false, 0⟩, none⟩),
    (0x9500000030400000, .barSync ⟨.both, 3, .lit 4⟩),
    (0x9540400030600000, .barArrive ⟨.both, 3, .sc 6⟩),
    (0x9580000030000000, .barWait ⟨.both, 3, .lit 0⟩),
    (0x95C0002001411000, .barwArv ⟨.wk, .none, .both, ⟨.wl, .imm 17, 2, 0, 5, 0, false, false, 0⟩, none⟩),
    (0x9600003001411000, .barwWait ⟨.wk, .none, .both, ⟨.wl, .imm 17, 3, 0, 5, 0, false, false, 0⟩, none⟩)] = true := by
  decide +kernel

/-- Words of the matrix encodings, written out from R188, R193 to R197, decode to their instructions and are their encodings. -/
theorem test_decode_matrix : reads
   [(0xA0204822090828C7, .mma ⟨.bf16, .both, 2, false, true, 17, 18, 4, 5, 6, 7⟩),
    (0xA0604822090828C7, .mmaz ⟨.bf16, .both, 2, false, true, 17, 18, 4, 5, 6, 7⟩),
    (0xA080000000000000, .mcommit .both),
    (0xA0C0800000000002, .mwait ⟨.both, .dev, 2⟩),
    (0xA124503060000001, .mread ⟨.f32, .both, 2, 3, .sc 6, true⟩),
    (0xA164503060000001, .mwrite ⟨.f32, .both, 2, 3, .sc 6, true⟩),
    (0xA1A8400000000000, .mzero ⟨.f64, .both, 2⟩),
    (0xA1C04044414C0000, .mstore ⟨.both, 2, .imm 17, 4, 5, .rz, true⟩),
    (0xA200504441460000, .stfold ⟨.both, 2, .sc 17, 4, 5, 6⟩)] = true := by
  decide +kernel

/-- Words of the engine encodings, written out from R201, R205, R207, R209, decode to their instructions and are their encodings. -/
theorem test_decode_engine : reads
   [(0xB00041104841A118, .copySlice ⟨.both, 1, 17, 18, 4, 6, .lit 2, 3⟩),
    (0xB040000000000000, .cseal .both),
    (0xB080200000000003, .cwait ⟨.both, .grp, 3⟩),
    (0xB0C0100000000009, .forkM .both 9),
    (0xB10010000FFFFFFE, .forkC .both 0xFFFFFFE),
    (0xB140000000000000, .rdv .both),
    (0xB1800044420C0001, .bcall ⟨.both, 17, 4, 8, 12, true⟩)] = true := by
  decide +kernel

/-- Words of the system encodings, written out from R156 to R158, decode to their instructions and are their encodings. -/
theorem test_decode_system : reads
   [(0xC000000000700000, .trap ⟨.raw, .both, ⟨.none, .none, .lit 7, .none, {}⟩, none⟩),
    (0xC040000000000000, .tret ⟨.raw, .both, ⟨.none, .none, .none, .none, {}⟩, none⟩),
    (0xC080000000000000, .tretSkip ⟨.raw, .both, ⟨.none, .none, .none, .none, {}⟩, none⟩),
    (0xC0C0000000000000, .bkpt ⟨.raw, .both, ⟨.none, .none, .none, .none, {}⟩, none⟩),
    (0xC100003000000000, .evpop ⟨.both, 3, 0, 0, false⟩),
    (0xC140803060900020, .tkclaim ⟨.both, 3, 6, 9, true⟩),
    (0xC1808030A0000020, .symwalk ⟨.both, 3, 10, 0, true⟩),
    (0xC1C0803060000020, .slewStart ⟨.both, 3, 6, 0, true⟩),
    (0xC200003000000000, .slewQuery ⟨.both, 3, 0, 0, false⟩),
    (0xC240803060000020, .ckpt ⟨.both, 3, 6, 0, true⟩)] = true := by
  decide +kernel

/-- Words of the bank encodings, written out from R211 and R212. -/
theorem test_decode_bank : readsBank
   [(0x00000000, .bend),
    (0x0B003FFE, .bld 3 ⟨true, 0x1FFE⟩),
    (0x10800005, .bst 4 ⟨false, 5⟩),
    (0x1B940000, .badd 3 4 5),
    (0x23940000, .bsub 3 4 5),
    (0x2B940000, .bmul 3 4 5),
    (0x3B940000, .bmin 3 4 5),
    (0x43940000, .bmax 3 4 5),
    (0x6B940000, .biadd 3 4 5),
    (0x33970000, .bfma 3 4 5 6),
    (0x4B800000, .brsq 3 4),
    (0x53800002, .bscl 3 4 2),
    (0x5B000002, .bspl 3 2),
    (0x63940002, .bcvt 3 4 5 2),
    (0x70000001, .bloop 1),
    (0x78000000, .bnext),
    (0x80000003, .bsig 3)] = true := by
  decide +kernel
/-- Paired instructions: an extension word supplies face B's operands (R70), in the general and in the memory form. -/
theorem test_decode_paired :
    (decodeWord 0x2017003040500000 (some 0xE000007080900000)).toOption =
      some (.addInt ⟨.i32, .paired, ⟨.vec 3, .vec 4, .vec 5, .none, {}⟩, some ⟨.vec 7, .vec 8, .vec 9, .none, {}⟩⟩) ∧
    (decodeWord 0x8003003041411080 (some 0xE000107081412080)).toOption =
      some (.ldq ⟨.wk, .none, .paired, ⟨.wl, .imm 17, 3, 4, 5, 2, false, false, 0⟩,
        some ⟨.wl, .sc 18, 7, 8, 5, 2, false, false, 0⟩⟩) ∧
    decodeWord 0x2017003040500000 (some 0xE001007080900000) = .error ⟨.field, .none⟩ ∧
    decodeTableWord 64 0x2014003040500000 = some (.addInt ⟨.i32, .both, ⟨.vec 3, .vec 4, .vec 5, .none, {}⟩, none⟩) ∧
    decodeTableWord 32 0x31940000 = some (.bfma 1 4 5 0) := by decide +kernel

/-! ### Forms -/

/-- The operands of a vector operation. -/
def gv (ty : Ty) (d : Dst) (a b c : Src) (m : Mods := {}) : G := ⟨ty, .both, ⟨d, a, b, c, m⟩, none⟩

/-- Operands out of range, of the wrong file, misaligned, indexed twice, or with a modifier, type or face that the form does
not take are refused (R64 to R70, R138). -/
theorem test_wf_general : ([
    .addInt (gv .i32 (.vec 256) (.vec 1) (.vec 2) .none), .addInt (gv .i32 (.vec 3) (.vec 1) (.pred 2) .none),
    .addInt (gv .i32 (.sc 3) (.vec 1) (.vec 2) .none), .addInt (gv .f32 (.vec 3) (.vec 1) (.vec 2) .none),
    .addInt (gv .i32 (.vec 3) (.sc 64) (.vec 2) .none), .addInt (gv .i32 (.vec 3) (.vec 1) (.vec 2) (.vec 4)),
    .addInt (gv .i32 (.vix 0 3) (.vix 1 4) (.vec 2) .none), .addInt (gv .i32 (.vix 8 3) (.vec 4) (.vec 2) .none),
    .addInt (gv .i32 (.vec 3) (.vec 1) (.vec 2) .none { ftz := true }), .addInt (gv .i32 (.vec 3) (.vec 1) (.vec 2) .none { cond := 1 }),
    .addInt (gv .i8 (.vec 3) (.vec 1) (.imm 200) .none), .mad (gv .i32 (.vec 3) (.vec 1) (.imm 2) (.vec 4)),
    .addInt ⟨.i32, .paired, ⟨.vec 3, .vec 1, .vec 2, .none, {}⟩, none⟩,
    .addInt ⟨.i32, .both, ⟨.vec 3, .vec 1, .vec 2, .none, {}⟩, some ⟨.vec 3, .vec 1, .vec 2, .none, {}⟩⟩,
    .add64 (gv .i32 (.vec 3) (.vec 4) (.vec 6) .none), .cmpInt (gv .i32 (.pred 8) (.vec 1) (.vec 2) .none),
    .xmov (gv .i32 (.xreg 8) (.vec 1) .none .none), .moviVector (gv .f64 (.vec 2) .none (.w32 0) .none),
    .srds (gv .raw (.sc 3) (.lit 0) (.lit 0) .none), .srd (gv .raw (.vec 3) (.lit 7) (.lit 0) .none),
    .addFlt (gv .f32 (.vec 3) (.vec 1) (.vec 2) .none { sat := true }), .cvt (gv .i32 (.vec 3) (.vec 4) .none (.lit 9) { nosat := true }),
    .ifOp (gv .raw .none (.pred 8) .none .none), .jmp (gv .raw .none .none .none .none), .endloop (gv .raw .none .none (.imm 4) .none),
    .exit ⟨.raw, .paired, ⟨.none, .none, .none, .none, {}⟩, some ⟨.none, .none, .none, .none, {}⟩⟩,
    .trap (gv .raw .none .none (.lit 256) .none)] : List Instr).all (fun i => !i.wf) = true := by decide +kernel

/-- The checks of headers, of the memory form, and of control forms (R60 to R63, R71, R138, R154, R155, R158, R163, R176). -/
theorem test_wf_memory_and_control : ([
    .intervalHeader ⟨⟨250, 10⟩, ⟨0, 0⟩, ⟨0, 0⟩, ⟨0, 0⟩, 0, false⟩, .intervalHeader ⟨⟨0, 31⟩, ⟨31, 2⟩, ⟨0, 0⟩, ⟨0, 0⟩, 0, false⟩,
    .intervalHeader ⟨⟨0, 8⟩, ⟨7, 2⟩, ⟨0, 0⟩, ⟨0, 0⟩, 0, false⟩, .intervalHeader ⟨⟨0, 8⟩, ⟨1, 0⟩, ⟨0, 0⟩, ⟨0, 0⟩, 0, false⟩,
    .intervalHeader ⟨⟨0, 8⟩, ⟨0, 0⟩, ⟨0, 0⟩, ⟨0, 0⟩, 1, true⟩, .intervalHeader ⟨⟨0, 8⟩, ⟨0, 0⟩, ⟨0, 0⟩, ⟨0, 0⟩, 4, true⟩,
    .intervalHeader ⟨⟨0, 8⟩, ⟨0, 0⟩, ⟨0, 0⟩, ⟨0, 0⟩, 1, false⟩, .intervalHeader ⟨⟨0, 32⟩, ⟨0, 0⟩, ⟨0, 0⟩, ⟨0, 0⟩, 0, false⟩,
    .clauseHeader ⟨4096, 0, 1, 0, List.replicate 8 0, false⟩, .clauseHeader ⟨0, 12, 1, 0, List.replicate 8 0, false⟩,
    .clauseHeader ⟨0, 3, 3, 0, List.replicate 8 0, false⟩, .clauseHeader ⟨0, 0, 1, 8, List.replicate 8 0, false⟩,
    .clauseHeader ⟨0, 0, 1, 0, [0, 1, 0, 0, 0, 0, 0, 0], false⟩, .clauseHeader ⟨0, 0, 1, 7, List.replicate 8 16, false⟩,
    .clauseHeader ⟨0, 0, 1, 0, [0], false⟩, .illegalWord 0x2000000000000000, .clmull 0, .clmulh 0x2F80000000000000,
    .ld ⟨.wk, .rel, .both, ⟨.wl, .imm 1, 0, 0, 0, 0, false, false, 0⟩, none⟩,
    .ld ⟨.wk, .none, .both, ⟨.die, .imm 1, 0, 0, 0, 0, false, false, 0⟩, none⟩,
    .ld ⟨.wk, .none, .both, ⟨.wl, .imm 1024, 0, 0, 0, 0, false, false, 0⟩, none⟩,
    .ld ⟨.wk, .none, .both, ⟨.wl, .imm 1, 0, 0, 0, 0, true, false, 0⟩, none⟩,
    .ld ⟨.wk, .none, .paired, ⟨.wl, .imm 1, 0, 0, 0, 0, false, false, 0⟩, none⟩,
    .ldq ⟨.sg, .none, .both, ⟨.die, .sc 64, 0, 0, 0, 0, false, false, 0⟩, none⟩,
    .ldq ⟨.sg, .none, .both, ⟨.die, .imm 1, 0, 0, 0, 0, false, true, 0⟩, none⟩,
    .atomCas ⟨.wk, .none, .both, ⟨.dev, .imm 1, 3, 0, 0, 0, false, false, 0⟩, none⟩,
    .atomAdd ⟨.wk, .none, .both, ⟨.dev, .imm 1, 3, 0, 0, 0, false, false, 1⟩, none⟩,
    .lockq ⟨.wk, .none, .both, ⟨.wl, .imm 1, 1, 0, 0, 0, false, false, 0⟩, none⟩,
    .barwArv ⟨.wk, .none, .both, ⟨.wl, .imm 1, 1, 0, 0, 0, false, false, 0⟩, none⟩,
    .call ⟨9, .both, ⟨4, 0, 0⟩, none⟩, .call ⟨0, .both, ⟨4, 1, 0⟩, none⟩, .call ⟨1, .paired, ⟨4, 0, 0⟩, some ⟨4, 1, 0⟩⟩,
    .call ⟨1, .both, ⟨4, 256, 0⟩, none⟩, .spawn ⟨64, 0, 8, none⟩, .spawn ⟨0, 63, 8, none⟩, .spawn ⟨0, 0, 57, none⟩, .spawn ⟨0, 0, 8, some 63⟩,
    .rgrp ⟨256, 0, 1⟩, .rgrp ⟨0, 0, 0⟩, .rgrp ⟨0, 0, 17⟩, .rgrp ⟨0, 255, 2⟩,
    .layset ⟨.both, 256, .lit 0⟩, .layset ⟨.both, 0, .lit 1024⟩, .layget ⟨.paired, 0, .lit 1⟩, .layget ⟨.both, 0, .sc 64⟩] :
      List Instr).all (fun i => !i.wf) = true := by decide +kernel

/-- The checks of the synchronising, matrix, engine, weaver and bank forms (R158, R173, R174, R181, R188 to R211). -/
theorem test_wf_engines : ([
    .fence ⟨.both, .dev, .none⟩, .fence ⟨.paired, .dev, .rel⟩, .qfence ⟨.both, .dev, 0⟩, .barSync ⟨.both, 128, .lit 1⟩,
    .barSync ⟨.both, 0, .lit 0⟩, .barArrive ⟨.both, 0, .lit 65⟩, .barWait ⟨.both, 0, .lit 1⟩, .barSync ⟨.both, 0, .sc 64⟩,
    .mma ⟨.i32, .both, 0, false, false, 0, 0, 0, 0, 0, 0⟩, .mma ⟨.f32, .both, 8, false, false, 0, 0, 0, 0, 0, 0⟩,
    .mma ⟨.f64, .both, 1, false, false, 0, 0, 0, 0, 0, 0⟩, .mmaz ⟨.f32, .paired, 0, false, false, 0, 0, 0, 0, 0, 0⟩,
    .mmaz ⟨.f32, .both, 0, false, false, 1024, 0, 0, 0, 0, 0⟩, .mma ⟨.f32, .both, 0, false, false, 0, 0, 64, 0, 0, 0⟩,
    .mma ⟨.f32, .both, 0, false, false, 0, 0, 0, 0, 0, 32⟩, .mcommit .paired, .mwait ⟨.both, .wl, 8⟩, .cwait ⟨.paired, .wl, 0⟩,
    .mread ⟨.i32, .both, 0, 0, .lit 0, false⟩, .mread ⟨.f64, .both, 1, 0, .lit 0, false⟩, .mread ⟨.f64, .both, 0, 1, .lit 0, false⟩,
    .mwrite ⟨.f32, .both, 0, 253, .lit 0, false⟩, .mwrite ⟨.f32, .both, 0, 0, .lit 128, false⟩, .mzero ⟨.f16, .both, 0⟩, .mzero ⟨.f64, .both, 3⟩,
    .mstore ⟨.both, 0, .imm 0, 0, 0, .rs, false⟩, .mstore ⟨.both, 8, .imm 0, 0, 0, .rn, false⟩, .stfold ⟨.both, 0, .imm 0, 0, 0, 64⟩,
    .copySlice ⟨.both, 4, 0, 0, 0, 0, .lit 0, 0⟩, .copySlice ⟨.both, 0, 0, 0, 0, 0, .lit 16, 0⟩, .copySlice ⟨.both, 0, 0, 0, 64, 0, .lit 0, 0⟩,
    .copySlice ⟨.both, 0, 0, 0, 0, 0, .lit 0, 16⟩, .cseal .paired, .rdv .paired, .forkM .paired 0, .forkC .paired 0,
    .bcall ⟨.both, 0, 0, 1, 0, false⟩, .bcall ⟨.both, 0, 0, 0, 61, false⟩, .bcall ⟨.both, 1024, 0, 0, 0, false⟩,
    .evpop ⟨.both, 61, 0, 0, false⟩, .evpop ⟨.both, 0, 0, 0, true⟩, .tkclaim ⟨.both, 0, 0, 65, false⟩, .tkclaim ⟨.both, 0, 63, 1, false⟩,
    .symwalk ⟨.both, 60, 0, 0, false⟩, .slewStart ⟨.both, 0, 0, 1, false⟩, .slewQuery ⟨.both, 0, 1, 0, false⟩, .ckpt ⟨.paired, 0, 0, 0, false⟩,
    .bld 8 ⟨false, 0⟩, .badd 0 8 0, .bfma 0 0 0 8, .brsq 8 0, .bscl 0 0 4, .bspl 0 4, .bcvt 0 0 0 3, .bcvt 0 0 1 0, .bloop 4, .bsig 4] :
      List Instr).all (fun i => !i.wf) = true := by decide +kernel

/-! ### Witnesses: a wale before its instruction -/

/-- One wale, its interval staged, in a workgroup with eight tiles and 16 barriers; context 1 maps one GiB. -/
def ready : State := { ({ State.reset with boot := .running } : State).placedWale [] false with cur := 1 }

/-- A wale without a place. -/
def nobody : Wale := newWale 0 .wale 0 0 0 0 0 0 0 0 0

/-- The wale whose instruction is at hand. -/
def hand (s : State) : Wale := (s.wale? s.cur).getD nobody

/-- The workgroup of that wale. -/
def group (s : State) : Workgroup := (s.wg? (hand s).wg).getD (newGroup 0 0 .spawned 0 0 0 0)

/-- The state with its wale changed. -/
def State.edit (s : State) (f : Wale → Wale) : State := s.putWale (f (hand s))

/-- The state with context 1's record word changed. -/
def withRec (s : State) (n : Nat) : State := { s with ctxRecs := mSet 0 s.ctxRecs 1 (BitVec.ofNat 512 n) }

/-- Vectors v0 and v1 tagged `ty` with 7 and 2 in every thread, v4 and v5 the same as pairs. -/
def tagged (ty : Ty) : State := State.edit ready fun w =>
  { w with tags := (List.range 12).map fun r => (r, ty), v := (List.range 384).map fun k => (k, if k / 32 % 2 = 0 then 7 else 2),
           q := [(1, 0x0000FFFF)], x := [] }

/-- What a vector operation asks, as a check. -/
def vecReady (s : State) (g : G) (op : VOp) : Bool :=
  decide (s.wale? s.cur = some (hand s)) && decide (s.vecCheck (hand s) g op = none) && decide ((hand s).active g.face ≠ 0) &&
    decide (commitTrap (op.runAll (hand s) g s.clk).1 (s.enables (hand s)) (s.clk + op.occ) = none)

/-- The check is the condition. -/
theorem vecReady_iff (s : State) (g : G) (op : VOp) : vecReady s g op = true ↔ VecReady s (hand s) g op := by
  simp [vecReady, VecReady, AtHand, and_assoc]

/-- Operand shapes under which some vector operation may execute. -/
def shapes : List (State × G) :=
  let r (ty : Ty) (d : Dst) (a b c : Src) (m : Mods := {}) : State × G := (tagged ty, gv ty d a b c m)
  [r .i32 (.vec 3) (.vec 0) (.vec 1) .none, r .n32 (.vec 3) (.vec 0) (.vec 1) (.vec 2), r .i32 (.vec 2) (.vec 4) (.vec 6) .none,
   r .i32 (.pred 3) (.vec 0) (.vec 1) .none, r .raw (.pred 3) (.pred 1) (.pred 2) .none, r .i32 (.vec 3) (.vec 0) (.vec 1) (.pred 1),
   r .f32 (.vec 3) .none (.w32 5) .none, r .i32 (.vec 3) (.sc 4) .none .none, r .i32 (.xreg 3) (.vec 0) (.vec 1) .none,
   r .i32 (.xreg 3) (.xreg 1) (.vec 1) .none, r .raw (.vec 3) (.xreg 1) .none .none, r .f32 (.vec 3) (.vec 0) (.vec 1) (.vec 2),
   r .f32 (.pred 3) (.vec 0) (.vec 1) .none { cond := 3 }, (tagged .f32, gv .i32 (.vec 3) (.vec 0) .none (.lit 9)),
   (tagged .f32, gv .bf16x2 (.vec 3) (.vec 0) (.vec 1) .none), (tagged .bf16, gv .bf16x2 (.vec 3) (.vec 0) (.vec 1) .none),
   (State.edit (tagged .f32) fun w => { w with tags := mSet .raw w.tags 1 .i32 }, gv .f32 (.vec 3) (.vec 0) (.vec 1) .none),
   (tagged .bf16x2, gv .bf16 (.vec 3) (.vec 0) (.lit 1) .none), (tagged .q4, gv .f32 (.vec 3) (.vec 0) (.sc 1) .none),
   r .f32 (.vec 3) (.vec 0) (.vec 1) .none, r .f32 (.vec 3) (.vec 0) .none .none, r .f32 (.pred 3) (.vec 0) .none .none { cond := 2 },
   r .raw (.pred 3) (.pred 1) .none .none, r .i32 (.vec 3) (.vec 0) .none .none, r .i32 (.xreg 3) (.vec 0) .none .none,
   r .f32 (.vec 3) (.vec 0) (.lit 1) .none, r .n32 (.vec 3) (.vec 0) (.vec 1) .none]


/-- The shape that serves each vector operation. -/
def shapeOf : List Nat :=
  [0, 0, 0, 0, 1, 7, 7, 0, 0, 0, 0, 0, 7, 0, 0, 0, 0, 0, 0, 7, 7, 7, 1, 1, 2, 2, 2, 3, 4, 4, 4, 22, 5, 20, 6, 7, 24, 9, 10, 19, 19, 19, 11, 19, 19, 19, 19, 20, 20, 19, 12, 21, 20, 20, 20, 20, 20, 16, 20, 20, 20, 13, 15, 17, 18, 25, 0, 25]

/-- Each vector operation has a well-formed form that is ready to execute. -/
theorem witness_vector_operations : ((List.range (vectorOps (gv .i32 .none .none .none .none)).length).all fun n =>
    match shapes[shapeOf.getD n 0]? with
    | some p => (match (vectorOps p.2)[n]? with | some q => q.1.wf && vecReady p.1 p.2 q.2 | none => false)
    | none => false) = true := by
  decide +kernel

/-- ADD.i32 of 7 and 2. -/
def addG : G := gv .i32 (.vec 3) (.vec 0) (.vec 1) .none
/-- The operation that it performs. -/
def addOp : VOp := arithOp .i32 fun a b _ => a + b

/-- A vector operation's checks fail on another tag, its set may be empty, and a beat may fault: division by zero. -/
theorem witness_vector_operations_stop :
    ((tagged .f32).vecCheck (hand (tagged .f32)) addG addOp).isSome = true ∧
    (let s := State.edit (tagged .i32) fun w => { w with exm := 0 }
     s.vecCheck (hand s) addG addOp = none ∧ (hand s).active .both = 0) ∧
    (let s := tagged .i32
     let g := gv .i32 (.vec 3) (.vec 0) (.imm 0) .none
     let op := divOp .i32 Int.tdiv
     s.vecCheck (hand s) g op = none ∧ (hand s).active .both ≠ 0 ∧
       (commitTrap (op.runAll (hand s) g s.clk).1 (s.enables (hand s)) (s.clk + op.occ)).isSome = true) := by decide +kernel

/-- A destination of each file, an active thread and a clk at which it is read; R28 gives thread 31's clk as 0 + 8 − 4 + 4 + 3. -/
theorem witness_vector_results :
    (tagged .i32).wale? (tagged .i32).cur = some (hand (tagged .i32)) ∧
    ((hand (tagged .i32)).active .both).getLsbD 31 = true ∧
    (hand (tagged .i32)).dstReg ((hand (tagged .i32)).opnds addG 31).d 31 0 = some 3 ∧ addOp.outs = 1 ∧ addOp.file = .v ∧
    0 + addOp.lat - addOp.occ + 4 + addOp.occ / 4 * (31 / 8) = 11 ∧ (cmpIntOp .i32).file = .q ∧ (idxOp .i32 fun a _ => a).file = .x := by
  decide +kernel

/-- R28 and R102 by hand: 7 + 2 is read from thread 31 at clk 11 and not at 10; the tag is i32 from clk 4. -/
theorem test_add : (match exec (.addInt addG) (tagged .i32) with
    | .next t => decide ((hand t).vAt 3 31 11 = 9 ∧ (hand t).vAt 3 31 10 = 2 ∧ (hand t).vAt 3 0 8 = 9 ∧ (hand t).tagAt 3 4 = .i32)
    | _ => false) = true := by decide +kernel

/-! ### Witnesses: scalars and whole wales -/

/-- A condition of the wale's control operations, as a check. -/
def ctlReady (s : State) (face : Face) (uses : List Use) : Bool :=
  decide (s.wale? s.cur = some (hand s)) && decide ((hand s).kind = .wale) && (hand s).faceOk face && decide (s.stallShort (hand s) uses = none)

/-- The checks are the conditions. -/
theorem ctlReady_iff (s : State) (face : Face) (uses : List Use) : ctlReady s face uses = true ↔ ControlReady s (hand s) face uses := by
  simp [ctlReady, ControlReady, AtHand, and_assoc]

/-- The count of bits: a ready form, with an active thread 31 (R105: 32 − 3 ones of 0xFFFFFFF8 are 29). -/
theorem witness_bit_counts :
    (let s := tagged .n32
     let g := gv .n32 (.vec 3) (.vec 0) .none .none
     vecReady s g (imgOp .n32 (sameTag .n32) fun _ a _ _ => brev32 a) = true ∧ ((hand s).active .both).getLsbD 31 = true ∧
       g.fb = none ∧ g.fa.d = .vec 3 ∧ (Instr.clz g).wf = true) ∧
    popc32 0xFFFFFFF8 = 29 ∧ clz32 1 = 31 ∧ clz32 0 = 32 ∧ brev32 1 = 0x80000000 := by decide +kernel

/-- The bounds of the value statements, with R102's, R103's, R104's and R106's results by hand: −7 / 2 = −3 rest −1; a shift by
the width or more gives zeros or copies of the sign; a field of width 0 gives 0. -/
theorem test_integer_values :
    (Ty.i8 ∈ tysIntP ∧ Ty.i16x2 ∈ tysIntP ∧ Ty.n32 ∈ tys32) ∧
    mapElems .i8 true (fun a b _ => a + b) 100 100 0 = 127 ∧ mapElems .i8 false (fun a b _ => a + b) 100 100 0 = 0xFFFFFFC8 ∧
    mapElems .i16x2 false (fun a b _ => a + b) 0x0001FFFF 0x00010001 0 = 0x00020000 ∧
    ((divOp .i32 Int.tdiv).fn ⟨.none, .none, .none, .none, {}⟩ 0 0 0xFFFFFFF9 2 0).vals = [0xFFFFFFFD] ∧
    ((divOp .i32 Int.tmod).fn ⟨.none, .none, .none, .none, {}⟩ 0 0 0xFFFFFFF9 2 0).vals = [0xFFFFFFFF] ∧
    ((divOp .i32 Int.tdiv).fn ⟨.none, .none, .none, .none, {}⟩ 0 0 5 0 0).cause = some .intDiv0 ∧
    shlN 32 3 31 = 2 ^ 31 ∧ shlN 32 3 32 = 0 ∧ shrN 32 (2 ^ 31) 31 = 1 ∧ shrN 32 (2 ^ 31) 40 = 0 ∧ sarN 32 (2 ^ 31) 40 = 2 ^ 32 - 1 ∧
    bfx32 true 0xF0 4 4 = 0xFFFFFFFF ∧ bfx32 false 0xF0 4 4 = 0xF ∧ bfx32 true 0xF0 4 0 = 0 ∧ bfi32 0 0xFF 0x0408 = 0xF00 ∧
    wide64 .i32 true (· + ·) 0x7FFFFFFFFFFFFFFF 1 = 0x7FFFFFFFFFFFFFFF ∧ wide64 .n32 false (· - ·) 0 1 = 0xFFFFFFFFFFFFFFFF := by
  decide +kernel

/-- A scalar operation is ready with scalar sources, with its face empty, and with a face outside a region. -/
theorem witness_scalar_operations :
    (let s := State.edit ready fun w => { w with s := [(4, 7), (5, 0xFFFFFFFF)] }
     let g := gv .i32 (.sc 3) (.sc 4) (.sc 5) .none
     AtHand s (hand s) ∧ (hand s).faceOk g.face = true ∧ g.face = .both ∧
       s.stallShort (hand s) (scUsesOf g.fa.a ++ scUsesOf g.fa.b) = none ∧ g.fa.d = .sc 3 ∧
       (Instr.sadd g).wf = true ∧ (Instr.smin g).wf = true ∧ (Instr.scmp g).wf = true) ∧
    (let s := State.edit ready fun w => { w with melds := [⟨0xFFFFFFFF, 0xFFFFFFFF, 0, 0, 1⟩] }
     (hand s).faceOk .faceA = true ∧ (hand s).active .faceA = 0 ∧ (hand ready).faceOk .faceA = false) := by
  unfold AtHand; decide +kernel

/-- R112 by hand: 7 + (−1) is 6 from clk 4; SSHR.i32 keeps the sign. -/
theorem test_scalar : (let s := State.edit ready fun w => { w with s := [(4, 7), (5, 0xFFFFFFFF)] }
    match exec (.sadd (gv .i32 (.sc 3) (.sc 4) (.sc 5) .none)) s, exec (.sshr (gv .i32 (.sc 3) (.sc 5) (.sc 4) .none)) s,
      exec (.scmp (gv .i32 (.sc 3) (.sc 5) (.sc 4) .none { cond := 2 })) s with
    | .next t, .next u, .next v => decide ((hand t).sAt 3 4 = 6 ∧ (hand t).sAt 3 3 = 0 ∧ (hand u).sAt 3 4 = 0xFFFFFFFF ∧ (hand v).sAt 3 4 = 1)
    | _, _, _ => false) = true := by decide +kernel

/-- SRDS, TAGGET, MOVVS, EXMWR and TAGSET may execute; EXMWR in a region may not. -/
theorem witness_scalar_reads_and_writes :
    (let s := tagged .i32
     s.stallShort (hand s) [] = none ∧ (hand s).kind = .wale ∧ (hand s).inSet 0 = true ∧ (hand s).inSet 1 = true ∧ (hand s).region = none ∧
       s.stallShort (hand s) (Use.mk .v 0 :: scUsesOf (.lit 31)) = none ∧ ((hand s).uniSrc .raw (.lit 31) s.clk).toNat = 31 ∧
       (hand s).tagAt 0 s.clk = .i32 ∧ s.stallShort (hand s) (scUsesOf (.sc 4)) = none ∧
       (Instr.srds (gv .raw (.sc 3) (.lit 6) (.lit 0) .none)).wf = true) ∧
    (hand (State.edit ready fun w => { w with melds := [⟨0, 0, 0, 0, 0⟩] })).region.isSome = true := by decide +kernel

/-- The frame of a trap taken on a TRAP 7 at 0x10010. -/
def frame : TrapFrame :=
  { tcause := 0x00070017, tpc := 0x10010, tinsn0 := 0xC000000000700000, tinsn1 := 0, tlanes := 1, texm := 0xFFFF, tmeld := 0, maskDepth := 0
    meldDepth := 0, no := 3, clause := some placedClause, interval := some placedInterval, intervalAddr := 0x10008, onHdr := false }

/-- SRD completes outside a handler for sr.lane, in a handler for sr.tcause, and traps for sr.tcause outside one. -/
theorem witness_special_registers :
    (let g := gv .raw (.vec 3) (.lit 0) (.lit 0) .none
     vecReady ready g (ready.srdOp (hand ready)) = true) ∧
    (let s := State.edit ready fun w => { w with trap := some frame }
     vecReady s (gv .raw (.vec 3) (.lit 0x10) (.lit 0) .none) (s.srdOp (hand s)) = true ∧ s.srWord (hand s) 0x10 0 5 = 0x00070017 ∧
       s.srWord (hand s) 0x12 1 0 = 0xC0000000 ∧ s.srWord (hand s) 0 0 31 = 31) ∧
    (hand ready).trap = none := by decide +kernel

/-- BALLOT and VOTE are ready, with all threads or none active. -/
theorem witness_ballot_and_vote :
    (let s := tagged .raw
     AtHand s (hand s) ∧ (hand s).kind = .wale ∧ (hand s).faceOk .both = true ∧ s.stallShort (hand s) [⟨.q, 1⟩] = none) ∧
    (hand (State.edit ready fun w => { w with exm := 0 })).active .both = 0 := by unfold AtHand; decide +kernel

/-- R135 by hand, q1 = 0x0000FFFF: the ballot is q1, all is 0, any is 1, the count is 16, uniform is 0. -/
theorem test_ballot_and_vote : (let s := tagged .raw
    let v (k : Nat) : Option W32 := match exec (.vote (gv .raw (.sc 3) (.pred 1) (.lit k) .none)) s with | .next t => some ((hand t).sAt 3 4) | _ => none
    (match exec (.ballot (gv .raw (.sc 3) (.pred 1) .none .none)) s with | .next t => decide ((hand t).sAt 3 4 = 0xFFFF) | _ => false) &&
      decide ((List.range 4).map v = [some 0, some 1, some 16, some 0])) = true := by decide +kernel

/-- The reductions pass their checks with threads and without; thread 0 is the first. -/
theorem witness_reductions :
    (let s := tagged .i32
     let g := gv .i32 (.sc 3) (.vec 0) .none .none
     s.vecCheck (hand s) g (redOp .i32) = none ∧ (hand s).active .both ≠ 0 ∧ ((hand s).active .both).getLsbD 0 = true) ∧
    (let s := State.edit (tagged .i32) fun w => { w with exm := 0 }
     s.vecCheck (hand s) (gv .i32 (.sc 3) (.vec 0) .none .none) (redOp .i32) = none ∧ (hand s).active .both = 0) := by decide +kernel

/-- R136 by hand: the sum of 32 sevens is 224, read from clk 16; the maximum is 7. -/
theorem test_reductions : (let s := tagged .i32
    match exec (.wsum (gv .i32 (.sc 3) (.vec 0) .none .none)) s, exec (.wmax (gv .i32 (.sc 3) (.vec 0) .none .none)) s with
    | .next t, .next u => decide ((hand t).sAt 3 16 = 224 ∧ (hand t).sAt 3 15 = 0 ∧ (hand u).sAt 3 16 = 7)
    | _, _ => false) = true := by decide +kernel

/-- Q4PACK from f32 passes its checks with every thread active and no enable set, with a block partly active, with none active, and with
an enable under which a beat traps. -/
theorem witness_q4pack :
    (let s := tagged .f32
     let g : G := gv .q4 (.vec 8) (.vec 0) (.vec 9) (.lit 0x19)
     s.q4Check (hand s) g = none ∧ (hand s).active .both ≠ 0 ∧ mixedBlocks ((hand s).faces g) = 0 ∧ g.fa.mods.rm ≠ .rs ∧
       commitTrap ((hand s).q4Beats g s.clk).1 (s.enables (hand s)) (s.clk + 4) = none ∧ (Instr.q4pack g).wf = true ∧
       (hand s).dstReg ((hand s).opnds g 31).d 31 s.clk = some 8 ∧ (hand s).q4Scale ((hand s).opnds g 31) 31 s.clk = some 9) ∧
    (let g : G := gv .q4 (.vec 8) (.vec 0) (.vec 9) (.lit 0x19)
     let s := State.edit (tagged .f32) fun w => { w with exm := 1, tags := mSet .raw (mSet .raw w.tags 8 .q4) 9 .n8 }
     let u := State.edit (tagged .f32) fun w => { w with exm := 0 }
     s.q4Check (hand s) g = none ∧ (hand s).active .both ≠ 0 ∧ mixedBlocks ((hand s).faces g) = 1 ∧ u.q4Check (hand u) g = none ∧
       (hand u).active .both = 0) ∧
    (let s := (State.edit (tagged .f32) fun w => { w with v := (List.range 32).map fun t => (t, 0x7F800001) }).onWg 2 fun g => { g with fpen := 31 }
     let g : G := gv .q4 (.vec 8) (.vec 0) (.vec 9) (.lit 0x19)
     s.q4Check (hand s) g = none ∧ mixedBlocks ((hand s).faces g) = 0 ∧
       (commitTrap ((hand s).q4Beats g s.clk).1 (s.enables (hand s)) (s.clk + 4)).isSome = true) := by
  decide +kernel

/-! ### Witnesses: control, traps and headers -/

/-- Code at 0x10000: a clause header, an interval header and another clause header, with the wale at its first word's slot. -/
def coded : State :=
  State.edit { ({ State.reset with boot := .running } : State).placedWale
      (leBytes 8 0x18051F2E40000010 ++ leBytes 8 0x0000F90040000002 ++ leBytes 8 0x18051F2E40000010) false with cur := 1 }
    fun w => { w with insnPc := 0x10000, pc := 0x10000 }

/-- Fourteen, fifteen or sixteen IF levels. -/
def levels (n : Nat) : List MaskLevel := List.replicate n ⟨.ifK, 0xFF⟩

/-- IF may enter at depth 15, ELSE and ENDIF meet their level, LOOP may enter at depth 14 and BREAK finds its pair under IF levels. -/
theorem witness_structured_control :
    (let s := State.edit ready fun w => { w with masks := levels 15 }
     ctlReady s .both (predUse 1 (hand s).exm) = true ∧ (hand s).masks.length < 16) ∧
    (let s := State.edit ready fun w => { w with masks := [⟨.ifK, 0xFF⟩, ⟨.callK, 0⟩] }
     ctlReady s .both [] = true ∧ (hand s).crossesRegion = false ∧ (hand s).ownMasks = [⟨.ifK, 0xFF⟩, ⟨.callK, 0⟩]) ∧
    (let s := State.edit ready fun w => { w with masks := levels 14 }
     ctlReady s .both [] = true ∧ (hand s).region = none ∧ (hand s).masks.length + 2 ≤ 16) ∧
    (let s := State.edit ready fun w => { w with masks := [⟨.elseK, 0xFF⟩, ⟨.loopK, 0⟩, ⟨.loopK, 0xFFFF⟩] }
     ctlReady s .both [⟨.q, 1⟩] = true ∧ (hand s).melds = [] ∧ (hand s).trap = none ∧
       (hand s).masks = [⟨.elseK, 0xFF⟩] ++ ⟨.loopK, 0⟩ :: [⟨.loopK, 0xFFFF⟩]) ∧
    (let s := State.edit ready fun w => { w with
        masks := [⟨.elseK, 0xFF⟩, ⟨.loopK, 0⟩, ⟨.loopK, 0xFFFF⟩], melds := [⟨0xFFFFFFFF, 0xFFFF0000, 0xFFFF, 0, 1⟩] }
     let g : G := ⟨.raw, .paired, ⟨.none, .pred 1, .none, .none, {}⟩, some ⟨.none, .pred 2, .none, .none, {}⟩⟩
     ctlReady s .paired (((hand s).faces g).flatMap fun p => predUse (Opnds.predA p.1) p.2) = true ∧ ((hand s).faces g).length = 2 ∧
       loopAbove (hand s).ownMasks = some 1 ∧ (hand s).ownMelds = [⟨0xFFFFFFFF, 0xFFFF0000, 0xFFFF, 0, 1⟩] ∧ 0 + 1 + 1 ≤ (hand s).masks.length) := by
  decide +kernel

/-- R141 by hand with q1 = 0x0000FFFF: IF keeps the low half, ELSE the high half, ENDIF restores. -/
theorem test_if_else_endif : (let s := tagged .raw
    match exec (.ifOp (gv .raw .none (.pred 1) .none .none)) s with
    | .next t =>
      match exec (.elseOp (gv .raw .none .none .none .none)) t with
      | .next u =>
        match exec (.endif (gv .raw .none .none .none .none)) u with
        | .next v => decide ((hand t).exm = 0xFFFF ∧ (hand u).exm = 0xFFFF0000 ∧ (hand v).exm = 0xFFFFFFFF ∧ (hand v).masks = [])
        | _ => false
      | _ => false
    | _ => false) = true := by decide +kernel

/-- Full stacks, and operations without their level. -/
theorem witness_stack_overflow :
    (let s := State.edit ready fun w => { w with masks := levels 16 }
     ctlReady s .both [⟨.q, 1⟩] = true ∧ 16 ≤ (hand s).masks.length) ∧
    (let s := State.edit ready fun w => { w with masks := levels 15 }
     ctlReady s .both [] = true ∧ (hand s).region = none ∧ 14 < (hand s).masks.length) ∧
    (let s := State.edit ready fun w => { w with melds := List.replicate 3 ⟨0xFFFFFFFF, 0, 0xFFFFFFFF, 0, 0⟩ }
     ctlReady s .both [⟨.q, 1⟩] = true ∧ 3 ≤ (hand s).melds.length) ∧
    (ctlReady ready .both [] = true ∧ (hand ready).ownMelds = [] ∧ (hand ready).ownMasks = []) ∧
    ctlReady ready .both ([60, 61, 62, 63].map (Use.mk .s)) = true := by decide +kernel

/-- An interval header, a clause header, TRAP 7, NOP and a clause header at 0x10000; the wale stands at the TRAP with half its
threads. -/
def trapping : State :=
  State.edit (withRec { ({ State.reset with boot := .running } : State).placedWale
      (leBytes 8 0x0000F90040000002 ++ leBytes 8 0x18051F2E40000010 ++ leBytes 8 0xC000000000700000 ++ leBytes 8 0x6340000000000000 ++
        leBytes 8 0x18051F2E40000010) false with cur := 1 } (2 ^ 32 + 0x20000 * 2 ^ 64))
    fun w => { w with
      insnPc := 0x10010, pc := 0x10010, insn0 := 0xC000000000700000, intervalAddr := 0x10000, exm := 0xFFFF, s := [(60, 5)]
      clause := some ⟨0x10008, ⟨0x805, 1, 15, 1, [7, 2, 0, 0, 0, 0, 0, 0], true⟩, 0⟩ }

/-- JMP may go forward two words to a header, in a wale and in the weaver, and not to a word that is none; JMPZ and JMPNZ go or stay by s4;
ENDLOOP goes back or falls through. -/
theorem witness_jumps :
    (AtHand coded (hand coded) ∧ (hand coded).kind = .wale ∧ (hand coded).faceOk .both = true ∧ coded.stallShort (hand coded) [] = none ∧
      coded.stallShort (hand coded) [⟨.s, 4⟩] = none ∧
      ((((hand coded).insnPc : Int) + 8 * (2#28).toInt) % 2 ^ 52).toNat = 0x10010 ∧ TargetOk coded (hand coded) 0x10010 false ∧
      TargetOk coded { hand coded with kind := .weaver } 0x10010 false) ∧
    (let s := State.edit trapping fun w => { w with insnPc := 0x10000 }
     (hand s).relTarget 2 = 0x10010 ∧ (s.targetTrap (hand s) 0x10010 false 0xFFFF).isSome = true) ∧
    ((hand coded).sAt 4 coded.clk = 0 ∧ (hand (State.edit coded fun w => { w with s := [(4, 1)] })).sAt 4 0 ≠ 0) ∧
    (let w := hand (State.edit coded fun w => { w with masks := [⟨.loopK, 0xFF⟩, ⟨.loopK, 0xFFFF⟩] })
     w.crossesRegion = false ∧ w.trap = none ∧ w.masks = ⟨.loopK, 0xFF⟩ :: ⟨.loopK, 0xFFFF⟩ :: [] ∧ (0xFFFF &&& ~~~0xFF &&& w.live : Mask) ≠ 0 ∧
       (0xFFFF &&& ~~~0xFFFF &&& w.live : Mask) = 0) := by
  unfold AtHand TargetOk; decide +kernel

/-- CALL's target is an interval header, for one operand set, for both faces of a region at one target and at two, and for face B when
RET asked for it. -/
theorem witness_call :
    (let c : CallForm := ⟨2, .both, ⟨1, 8, 0⟩, none⟩
     let w := hand coded
     AtHand coded w ∧ w.kind = .wale ∧ w.faceOk c.face = true ∧ w.active c.face ≠ 0 ∧ w.masks.length < 16 ∧
       coded.targetTrap w (w.relTarget c.fa.off) true (w.active c.face) = none ∧
       (∀ i < c.n, w.inSet (c.fa.d + i) = true ∧ w.inSet (c.fa.a + i) = true) ∧
       coded.stallShort w ((List.range c.n).map fun i => Use.mk .v (c.fa.a + i)) = none ∧ c.wf = true) ∧
    (hand (State.edit coded fun w => { w with exm := 0 })).active .both = 0 ∧
    (let s := State.edit coded fun w => { w with melds := [⟨0xFFFFFFFF, 0xFFFF0000, 0xFFFF, 0, 1⟩] }
     let w := hand s
     let c : CallForm := ⟨2, .paired, ⟨1, 8, 0⟩, some ⟨1, 8, 2⟩⟩
     c.wf = true ∧ w.faceOk c.face = true ∧ w.kind = .wale ∧ w.latch ≠ some (.faceB w.insnPc) ∧ w.relTarget 1 = 0x10008 ∧
       s.targetTrap w 0x10008 true w.exm = none ∧ s.targetTrap w 0x10008 true (w.active .faceB) = none ∧ w.active .faceB = 0xFFFF0000 ∧
       (∀ i < 2, w.inSet (8 + i) = true ∧ w.inSet i = true ∧ w.inSet (2 + i) = true) ∧
       (∀ i < 2, w.tagAt i s.clk = w.tagAt (2 + i) s.clk) ∧ s.strict 1 = false ∧ (2 : BitVec 28) ≠ 1 ∧
       (hand (State.edit s fun w => { w with latch := some (.faceB 0x10000) })).latch = some (.faceB w.insnPc)) := by
  unfold AtHand; decide +kernel

/-- RET finds its level, the caller's interval, and a return address that is a header or a paired CALL. -/
theorem witness_return :
    (let s := State.edit coded fun w => { w with masks := [⟨.callK, 0xFF⟩], s := [(60, 0x10010), (62, 0x10008)] }
     let u := State.edit s fun w => { w with s := [(60, 0x10001), (62, 0x10008)], melds := [⟨0xFFFFFFFF, 0xFFFF0000, 0xFFFF, 0, 1⟩] }
     let h : IntervalHdr := ⟨⟨0, 31⟩, ⟨32, 1⟩, ⟨0, 0⟩, ⟨0, 0⟩, 0, true⟩
     ctlReady s .both ([60, 61, 62, 63].map (Use.mk .s)) = true ∧ (hand s).ownMelds = [] ∧ (hand s).ownMasks = ⟨.callK, 0xFF⟩ :: [] ∧
       addr52 ((hand s).s64At 62 s.clk) % 8 = 0 ∧ addr52 ((hand s).s64At 60 s.clk) % 8 = 0 ∧ addr52 ((hand u).s64At 60 u.clk) % 8 = 1 ∧
       TargetOk s (hand s) (addr52 ((hand s).s64At 60 s.clk)) false ∧
       (s.intervalAt (hand s) (addr52 ((hand s).s64At 62 s.clk)) 2).toOption = some h ∧
       (s.retPlan (hand s)).toOption = some (h, 0x10008, 0x10010, 0) ∧ (u.retPlan (hand u)).toOption = some (h, 0x10008, 0x10001, 1) ∧
       callIndex (hand u).ownMasks = some 0 ∧ (hand u).ownMelds ≠ []) := by
  unfold TargetOk; decide +kernel

/-- R145 by hand: the CALL at 0x10000 returns to 0x10008 and the callee's interval is reached at 0x10008; v8 takes v0's values. -/
theorem test_call : (let s := State.edit coded fun w => { w with intervalAddr := 0xFFF0, v := [(31, 9)], tags := [(0, .i32)] }
    match exec (.call ⟨1, .both, ⟨1, 8, 0⟩, none⟩) s with
    | .next t => decide ((hand t).pc = 0x10008 ∧ (hand t).sAt 60 4 = 0x10008 ∧ (hand t).sAt 62 4 = 0xFFF0 ∧ (hand t).vAt 8 31 8 = 9 ∧
        (hand t).masks = [⟨.callK, 0xFFFFFFFF⟩] ∧ (hand t).tagAt 8 8 = .i32)
    | _ => false) = true := by decide +kernel

/-- EXIT, NOP and YIELD act on the wale at hand. -/
theorem witness_exit_nop_yield : (AtHand ready (hand ready) ∧ (hand ready).faceOk .both = true ∧ (hand ready).kind = .wale ∧
    ready.stallShort (hand ready) [] = none) := by unfold AtHand; decide +kernel

/-- MELD may open a third region; ENDMELD meets its entry, none, or one at another depth. -/
theorem witness_meld :
    (let s := State.edit ready fun w => { w with melds := List.replicate 2 ⟨0xFFFFFFFF, 0, 0xFFFFFFFF, 0, 0⟩ }
     ctlReady s .both (predUse 1 ((hand s).active .both)) = true ∧ (hand s).melds.length < 3 ∧ ctlReady s .both [] = true ∧
       (hand s).ownMelds = ⟨0xFFFFFFFF, 0, 0xFFFFFFFF, 0, 0⟩ :: [⟨0xFFFFFFFF, 0, 0xFFFFFFFF, 0, 0⟩] ∧ (hand s).masks.length = 0) ∧
    (hand ready).ownMelds = [] ∧
    (let s := State.edit ready fun w => { w with melds := [⟨0xFFFFFFFF, 0, 0xFFFFFFFF, 0, 0⟩], masks := levels 1 }
     ctlReady s .both [] = true ∧ (hand s).ownMelds = ⟨0xFFFFFFFF, 0, 0xFFFFFFFF, 0, 0⟩ :: [] ∧ (hand s).masks.length ≠ 0) := by
  decide +kernel

/-- R150 by hand with q1 = 0x0000FFFF: face A is the low half, face B the high half, and both run. -/
theorem test_meld : (match exec (.meld (gv .raw .none (.pred 1) .none .none)) (tagged .raw) with
    | .next t => decide ((hand t).active .faceA = 0xFFFF ∧ (hand t).active .faceB = 0xFFFF0000 ∧ (hand t).exm = 0xFFFFFFFF)
    | _ => false) = true := by decide +kernel

/-- A context with a handler at 0x20000 and breakpoints on. -/
def handled : State := withRec ready (2 ^ 32 + 2 ^ 33 + 0x20000 * 2 ^ 64)

/-- A trap may be taken: the handler is set, no trap stands, and the state is canonical. -/
theorem witness_traps :
    (handled.canonical = true ∧ handled.wale? 1 = some (hand handled) ∧ (hand handled).id = 1 ∧ (hand handled).kind = .wale ∧ (hand handled).trap = none ∧
      handled.handler 1 = 0x20000 ∧ (hand handled).ctx = 1) ∧
    (handled.bken 1 = true ∧ ready.bken 1 = false ∧ (hand ready).active .both ≠ 0 ∧
      (hand (State.edit ready fun w => { w with exm := 0 })).active .both = 0) ∧
    (ready.handler 1 = 0 ∧ ready.ctxStopped.contains 1 = false ∧ ready.faultTail - ready.faultHead < 256 ∧ ready.faultHeld = []) ∧
    ((hand (State.edit ready fun w => { w with trap := some frame })).trap.isSome = true ∧
      (hand (State.edit ready fun w => { w with kind := .weaver })).kind = .weaver) := by decide +kernel

/-- A stream with a parent. -/
def streamed : State :=
  { ready with wales := [hand ready, { hand ready with id := 3, kind := .streamM, parent := 1 }], nextId := 4, cur := 3 }

/-- A stream that traps has a parent to tell (R208). -/
theorem witness_stream_trap : (hand streamed).kind = .streamM ∧ streamed.wale? (hand streamed).parent = some (hand ready) ∧
    (hand streamed).parent ≠ (hand streamed).id := by decide +kernel

/-- R156, R250 and R251 by hand: TRAP 7 has cause 0x17 and DETAIL 7, and enters at the handler with EXM := live. -/
theorem test_trap : (match exec (.trap (gv .raw .none .none (.lit 7) .none)) (State.edit handled fun w => { w with insnPc := 0x10010, exm := 0xF }) with
    | .next t => (match (hand t).trap with
      | some f => decide (f.tcause = 0x00070017 ∧ f.tpc = 0x10010 ∧ f.tlanes = 0xF ∧ f.texm = 0xF ∧ (hand t).pc = 0x20000 ∧
          (hand t).exm = 0xFFFFFFFF ∧ (hand t).nextIssue = 12)
      | none => false)
    | _ => false) = true := by decide +kernel

/-- The same wale in its handler, 12 clk later. -/
def returning : State :=
  match exec (.trap (gv .raw .none .none (.lit 7) .none)) trapping with
  | .next t => { t with clk := 12 }
  | _ => trapping

/-- TRET and TRET.SKIP may resume; outside a handler, or with a stack not at its entry depth, they may not. -/
theorem witness_trap_returns :
    (returning.canonical = true ∧ AtHand returning (hand returning) ∧ (hand returning).masks.length = 0 ∧ (hand returning).melds.length = 0 ∧
      (hand returning).settleClk returning.clk ≤ returning.clk ∧
      (match (hand returning).trap with
       | some f => (returning.intervalBack (hand returning) f).toOption.isSome && (returning.resumeAt (hand returning) f false).toOption.isSome &&
           !f.onHdr && (returning.resumeAt (hand returning) f true).toOption.isSome
       | none => false) = true) ∧
    (hand ready).trap = none ∧
    (let w := hand (State.edit returning fun w => { w with masks := levels 1 })
     w.trap.isSome = true ∧ w.masks.length ≠ 0) := by unfold AtHand; decide +kernel

/-- R157 and R257 by hand: TRET resumes at the TRAP, TRET.SKIP after it in the clause's last slot, with EXM and s60 as before. -/
theorem test_trap_return : (let s := State.edit returning fun w => { w with s := [(60, 99)] }
    match exec (.tret (gv .raw .none .none .none .none)) s, exec (.tretSkip (gv .raw .none .none .none .none)) s with
    | .next t, .next u => decide ((hand t).pc = 0x10010 ∧ (hand u).pc = 0x10018 ∧ (hand t).exm = 0xFFFF ∧ (hand u).exm = 0xFFFF ∧
        (hand t).sAt 60 100 = 5 ∧ (hand u).trap = none ∧ (hand u).clause.map ClausePos.slot = some 1)
    | _, _ => false) = true := by decide +kernel

/-- A wale at an interval header within its budget, at one past it, at one without registers, and at a clause header whose flag is clear or set. -/
theorem witness_headers :
    (let h : IntervalHdr := ⟨⟨0, 31⟩, ⟨255, 1⟩, ⟨0, 0⟩, ⟨0, 0⟩, 0, false⟩
     (hand ready).kind = .wale ∧ (hand ready).rangesOk h = true ∧
       (hand (State.edit ready fun w => { w with budget := 32 })).rangesOk h = false ∧ intervalCount h ≠ 0 ∧ (hand streamed).kind ≠ .wale) ∧
    (let h : IntervalHdr := ⟨⟨0, 0⟩, ⟨0, 0⟩, ⟨0, 0⟩, ⟨0, 0⟩, 0, false⟩
     intervalCount h = 0 ∧ (hand ready).rangesOk h = true) ∧
    (let h : ClauseHdr := ⟨0x805, 1, 15, 0, List.replicate 8 0, false⟩
     (∀ k < 12, h.wait.testBit k = true → (hand ready).flag k = 0) ∧ h.wait.testBit 11 = true ∧
       (hand (State.edit ready fun w => { w with flags := [(11, 1)] })).flag 11 ≠ 0) := by decide +kernel

/-- A waiting request that its pipe may stage, a handler's header that may be staged, and a wale that has waited for 64 clk. -/
theorem witness_staging_and_entry :
    (let s := State.edit ready fun w => { w with staging := .waiting }
     s.wale? 1 = some (hand s) ∧ s.stagingNext 0 0 = some (hand s) ∧ s.canStage (hand s) = true ∧ (hand s).interval = some placedInterval) ∧
    (let s := State.edit coded fun w => { w with entry := true, pc := 0x10008, trap := some frame }
     (hand s).nextIssue ≤ s.clk ∧ (s.intervalAt { hand s with entry := false, insnPc := (hand s).pc } (hand s).pc 1).toOption.isSome = true) ∧
    (let s := State.edit { ready with clk := 64 } fun w => { w with readySince := some 0 }
     (hand s).readySince = some 0 ∧ 0 + 64 ≤ s.clk ∧ (hand s).aged = none) := by decide +kernel

/-- R21 by hand: one range of 31 registers is staged 2 + 31 clk after its grant. -/
theorem test_staging : (match exec (.stagingGrant 0 0) (State.edit ready fun w => { w with staging := .waiting }) with
    | .next t => decide ((hand t).staging = .until 33)
    | _ => false) = true := by decide +kernel

/-- Sixty-four resident wales: no context is free. -/
def full : State :=
  { ready with nextId := 65, wales := (List.range 64).map fun k => { hand ready with id := k + 1, slot := k, wg := 2, budget := 32 } }

/-- SPAWN with a free slot, without one, and with a frame to write. -/
theorem witness_spawn :
    (AtHand ready (hand ready) ∧ (hand ready).kind = .wale ∧ ready.wg? 2 = some (group ready) ∧ ready.strict 1 = false ∧ ready.cur < ready.nextId ∧
      (∀ x ∈ ready.wales, x.id < ready.nextId) ∧ ready.spawnSlot (hand ready) = some 1) ∧
    (full.spawnSlot (hand full) = none ∧ full.wale? full.cur = some (hand full) ∧ ∀ x ∈ full.wales, x.id < full.nextId) ∧
    (let s : State := { State.edit full fun w => { w with s := [(10, 17)] } with
        layouts := [(1024 + 17, BitVec.ofNat 1024 (2 ^ 31 + Ty.n32.code * 2 ^ 24 + 2 ^ 21 + 0x30000 * 2 ^ 32 + 64 * 2 ^ 96 + 2 ^ 288))] }
     s.spawnSlot (hand s) = none ∧ s.absentHit = false ∧ (hand s).core < 0x1FF ∧ ((hand s).sAt 10 s.clk).toNat % 1024 = 17 ∧
       ((s.spawnFrame (hand s) 17 0).toOption.map Prod.snd) = some 0x30040) := by
  unfold AtHand; decide +kernel

/-- R154 by hand: slot 1, the arguments from s8 on, the entry from s4 and s5. -/
theorem test_spawn : (match exec (.spawn ⟨2, 4, 8, none⟩) (State.edit ready fun w => { w with s := [(4, 0x10008), (8, 41), (15, 48)] }) with
    | .next t => decide ((hand t).sAt 2 8 = 1) && (t.wales.any fun n => decide (n.slot = 1 ∧ n.pc = 0x10008 ∧ mGet 0 n.s 0 = 41 ∧ mGet 0 n.s 7 = 48 ∧
        n.live = 0xFFFFFFFF))
    | _ => false) = true := by decide +kernel

/-- A wale parked at RGRP with keys 0 and 1 in the halves of v0. -/
def regrouping : State :=
  State.edit ready fun w => { w with latch := some (.rgrp 0 1 1), tags := [(0, .n32), (1, .i32)], v := (List.range 16).map fun t => (t, 1) }

/-- RGRP may park, and the unit may form: two groups of 16 threads, that wait for their clk and are then made, or none when every thread
is off, or more than 16. -/
theorem witness_regrouping :
    (let f : RgrpForm := ⟨0, 1, 1⟩
     let w := hand ready
     AtHand ready w ∧ w.kind = .wale ∧ w.atRgrp = none ∧ w.masks = [] ∧ w.streams = [] ∧ w.melds = [] ∧
       (∀ r ∈ rgrpRegs f.a f.b f.n, w.inSet r = true) ∧ ready.strict 1 = false) ∧
    (let s := State.edit ready fun w => { w with tags := [(0, .n32)] }
     rgrpBad ((s.hold { hand s with latch := some (.rgrp 0 1 1) } .parked false).members 2) 0 1 1 s.clk = none) ∧
    (let s := regrouping
     let groups := rgrpGroups (s.members 2) 0 s.clk
     s.members 2 = hand s :: [] ∧ s.wg? 2 = some (group s) ∧ (hand s).atRgrp = some (0, 1, 1) ∧ rgrpBad (s.members 2) 0 1 1 s.clk = none ∧
       (∀ w ∈ s.members 2, s.rgrpReady w = true) ∧ (∀ x ∈ s.wales, x.id < s.nextId) ∧ groups.length = 2 ∧ (group s).regroup = none ∧
       s.rgrpRoom (group s) (s.members 2) groups.length = true) ∧
    (group (regrouping.onWg 2 fun g => { g with regroup := some 0 })).regroup = some 0 ∧
    (let s := State.edit regrouping fun w => { w with exm := 0 }
     s.members 2 = hand s :: [] ∧ (∀ w ∈ s.members 2, s.rgrpReady w = true) ∧ rgrpGroups (s.members 2) 0 s.clk = []) ∧
    (let s := State.edit regrouping fun w => { w with v := (List.range 32).map fun t => (t, BitVec.ofNat 32 t) }
     rgrpBad (s.members 2) 0 1 1 s.clk = none ∧ (∀ w ∈ s.members 2, s.rgrpReady w = true) ∧ 16 < (rgrpGroups (s.members 2) 0 s.clk).length) := by
  unfold AtHand; decide +kernel

/-- The weaver of core 0 with its event queue and its scalars. -/
def weaving : State :=
  { State.edit ready fun w => { w with kind := .weaver, slot := 64, s := [(6, 0x30000), (10, 3)] } with
    events := [(0, [⟨0x00000001_00000002_00000003_00000004, []⟩])] }

/-- A near operation of thread 3 at 12 bytes into the window. -/
def nearOp (wr : Bool) : NearOp := { wale := 1, at' := 5, wr := wr, loc := locSpad 0 12, size := 4, val := 0xAABBCCDD, reg := 2, t := 3, fmt := .i32, no := 7, vol := false, arv := none }

/-- A command block of context 1 with its progress record stands at 0x30000, and the engine pulls. -/
def starting : State :=
  { weaving with mem := mPutRange weaving.mem 0x30000 (leBytes 64 (2 ^ 48 + 0x31000 * 2 ^ 64)), slew := { weaving.slew with st := .pulling } }

/-- EVPOP meets a record, or an empty queue; the long operations meet a flag or none; outside the weaver and a handler each is PRIV. -/
theorem witness_weaver_operations :
    (AtHand weaving (hand weaving) ∧ (hand weaving).kind = .weaver ∧ weaving.strict 1 = false ∧ mGet [] weaving.events 0 ≠ [] ∧
      mGet [] ready.events 0 = []) ∧
    ((hand weaving).flagSel false = some 0 ∧ (hand weaving).flag 0 < 63 ∧ mFind weaving.wvPend 0 = none ∧
      (hand (State.edit weaving fun w => { w with clause := some { placedClause with hdr := { placedClause.hdr with setA := 15 } } })).flagSel false = none) ∧
    ((hand ready).kind = .wale ∧ (hand ready).trap = none) ∧
    (let p (op a0 : Nat) (dead : List Nat) : WvPend := ⟨op, 1, 2, BitVec.ofNat 64 a0, 0, 0, some 0, 1, 0, dead, 0⟩
     let s : State := { weaving with wvPend := [(0, p 8 0 [3])] }
     let u : State := { weaving with wvPend := [(0, p 6 0x50000 [])], mem := mPutRange weaving.mem 0x50000 (leBytes 256 (4 * 2 ^ 192)) }
     s.canonical = true ∧ mFind s.wvPend 0 = some (p 8 0 [3]) ∧ s.wale? 1 = some (hand s) ∧ u.canonical = true ∧
       u.symOfRec 1 (addr52 (p 6 0x50000 []).a0.toNat) = some (0, [4])) ∧
    (let p : WvPend := ⟨7, 1, 2, 0x30000, 0, 0, some 0, 1, 8, [], 0⟩
     let s : State := { starting with wvPend := [(0, p)] }
     let u : State := { s with near := [{ nearOp true with no := 7 }] }
     mFind s.wvPend 0 = some p ∧ s.canonical = true ∧ s.wale? p.owner = some (hand s) ∧ s.wvReady 0 p = true ∧ s.slew.st = .pulling ∧
       u.wvReady 0 p = false) := by
  unfold AtHand; decide +kernel

/-- R345 by hand: 2 µs after its issue SLEW.START gives 1, busy, while the engine pulls, and its flag falls. -/
theorem test_slew_busy :
    (let s : State := { starting with wvPend := [(0, ⟨7, 1, 2, 0x30000, 0, 0, some 0, 1, 8, [], 0⟩)], clk := 1200 }
     let u := s.wvClk
     u.wvPend = [] ∧ mGet 0 (hand u).s 2 = 1 ∧ ({ s with clk := 1199 } : State).wvClk.wvPend = s.wvPend) := by decide +kernel

/-- R158 by hand: EVPOP gives the record's words in order and removes it. -/
theorem test_evpop : (match exec (.evpop ⟨.both, 2, 0, 0, false⟩) weaving with
    | .next t => decide ((hand t).sAt 2 4 = 4 ∧ (hand t).sAt 5 4 = 1 ∧ mGet [] t.events 0 = [])
    | _ => false) = true := by decide +kernel

/-! ### Witnesses: memory -/

/-- A rank-1 layout record: space, format, extent, base; stride 1 (R220). -/
def record (space : Nat) (ty : Ty) (ext base : Nat) : LRec :=
  BitVec.ofNat 1024 (2 ^ 31 + space * 2 ^ 28 + ty.code * 2 ^ 24 + 1 * 2 ^ 21 + base * 2 ^ 32 + ext * 2 ^ 96 + 2 ^ 288)

/-- A rank-2 record of a row-major matrix with `ext0` columns. -/
def record2 (space : Nat) (ty : Ty) (ext0 ext1 base : Nat) : LRec :=
  BitVec.ofNat 1024 (2 ^ 31 + space * 2 ^ 28 + ty.code * 2 ^ 24 + 2 * 2 ^ 21 + base * 2 ^ 32 + ext0 * 2 ^ 96 + ext1 * 2 ^ 128 +
    2 ^ 288 + ext0 * 2 ^ 352)

/-- Layouts of context 1 by handle. -/
def withLayouts (s : State) (l : List (Nat × LRec)) : State :=
  { s with layouts := l.foldl (fun m p => mSet 0 m (1024 + p.1) p.2) s.layouts }

/-- Tagged registers, thread t's coordinate t in v4, a window of 4,096 bytes, layouts L17 (HBM), L18 (window), and the translation cached. -/
def stored (ty : Ty) : State :=
  let s := (State.edit (tagged ty) fun w => { w with
      tags := mSet .raw (mSet .raw w.tags 4 .i32) 5 .i32, v := (List.range 32).foldl (fun m t => mSet 0 m (128 + t) (BitVec.ofNat 32 t)) w.v }).onWg 2
    fun g => { g with window := some ⟨0, 0, 4096⟩ }
  { withLayouts s [(17, record 0 ty 64 0x30000), (18, record 2 ty 64 0)] with tlbs := [⟨0, 1, 0, 2 ^ 30, 0x1F⟩] }

/-- An access of the register run from v2 through a layout with the coordinates of v4. -/
def access (h : Nat) (ann : Ann := .none) (sc : Scope := .wl) : MForm := ⟨.wk, ann, .both, ⟨sc, .imm h, 2, 4, 0, 1, false, false, 0⟩, none⟩

/-- The faces of an access that passes its checks. -/
def faces (s : State) (m : MForm) (op : MemOp) : List MCtx := match s.memCheck (hand s) m op with | .go l => l | _ => []

/-- An element of thread 3 at HBM address 0x3000C. -/
def elem1 : Elem := { t := 3, j := 0, va := 0x3000C, loc := locHbm 0x3000C, size := 4, val := 0xAABBCCDD, val2 := 0, zero := false, done := false, dead := false }

/-- A request of wale 1 for that element. -/
def req1 (kind : ReqKind) : Req :=
  { id := 9, wale := 1, core := 0, die := 0, ctx := 1, kind := kind, space := 0, fmt := .n32, acls := .wk, scope := .dev, rel := none, acq := none
    rsp := false, flag := some 0, reg := 2, pred := 1, predDead := 0, elems := [elem1], stamp := [], no := 1, at' := 0, after := [], fenceNo := 0
    fenceWide := none, finished := false, insn := 0, handle := 17, pkg := 0, imgs := [], neg := false }

/-- What a near access asks, as a check. -/
def nearReady (s : State) (m : MForm) (op : MemOp) : Bool :=
  let l := faces s m op
  decide (s.wale? s.cur = some (hand s)) && decide (s.memCheck (hand s) m op = .go l) &&
    !(op.store && s.fenceHolds (hand s) || s.acquireOpen (hand s) || (m.acls == .vol && s.volOpen (hand s) ((hand s).active m.face))) &&
    decide (beatTrap ((nearPlaced s (hand s) op l).flatMap Prod.snd) (s.clk + 4) = none) && !s.bankHolds (hand s) (nearList s (hand s) m op l)

/-- The check is the condition. -/
theorem nearReady_ready (s : State) (m : MForm) (op : MemOp) (h : nearReady s m op = true) : NearReady s (hand s) m op (faces s m op) := by
  simp only [nearReady, Bool.and_eq_true, Bool.or_eq_false_iff, Bool.and_eq_false_iff, decide_eq_true_eq, Bool.not_eq_true',
    beq_eq_false_iff_ne] at h
  obtain ⟨⟨⟨⟨h1, h2⟩, ⟨h3, h4⟩, h5⟩, h6⟩, h7⟩ := h
  refine ⟨h1, h2, ?_, h6, h7⟩
  rintro (⟨a, b⟩ | a | ⟨a, b⟩)
  · simp [a, b] at h3
  · simp [a] at h4
  · simp [a, b] at h5

/-- LD, ST, GATHER and SCATTER may execute; with a shorter layout a beat traps; with a fence before a store they wait. -/
theorem witness_near_accesses :
    ((nearTable (access 18)).all fun p => nearReady (stored .i32) (access 18) p.2 && p.1.wf) = true ∧
    (let s := withLayouts (stored .i32) [(18, record 2 .i32 16 0)]
     let op : MemOp := { spaces := [2, 3], load := true }
     s.memCheck (hand s) (access 18) op = .go (faces s (access 18) op) ∧ s.acquireOpen (hand s) = false ∧
       (beatTrap ((nearPlaced s (hand s) op (faces s (access 18) op)).flatMap Prod.snd) (s.clk + 4)).isSome = true) ∧
    (let s := State.edit (stored .i32) fun w => { w with exm := 0 }
     s.memCheck (hand s) (access 18) { spaces := [2, 3], load := true } = .empty) ∧
    (let s : State := { State.edit (stored .i32) fun w => { w with fenceRel := [9], issueNo := 5, fenceNo := 4 } with reqs := [req1 .load] }
     s.fenceHolds (hand s) = true ∧ s.memCheck (hand s) (access 18) { spaces := [2, 3], store := true } =
       .go (faces s (access 18) { spaces := [2, 3], store := true })) ∧
    (∃ r, (stored .f32).memCheck (hand (stored .i32)) (access 19) { spaces := [2, 3], load := true } = .trap r) := by
  refine ⟨by decide +kernel, by decide +kernel, by decide +kernel, by decide +kernel, ⟨{ cause := .layoutBad, lanes := 0xFFFFFFFF }, by decide +kernel⟩⟩

/-- R167 by hand: thread 9's element of a near store is written at clk 1 + 8, a load's read at 1 + 12; both at 4 × 9 of the window. -/
theorem test_near : (match exec (.st (access 18)) (stored .i32), exec (.ld (access 18)) (stored .i32) with
    | .next t, .next u => (t.near.any fun o => decide (o.t = 9 ∧ o.at' = 9 ∧ o.loc = locSpad 0 36 ∧ o.size = 4 ∧ o.wr = true ∧ o.val = 7)) &&
        (u.near.any fun o => decide (o.t = 9 ∧ o.at' = 13 ∧ o.loc = locSpad 0 36 ∧ o.wr = false))
    | _, _ => false) = true := by decide +kernel

/-- The result that a near load fills. -/
def filling : InFlight :=
  { file := .v, reg := 2, mask := 0xFFFFFFFF, vals := List.replicate 32 0, base := 16, k := 1, encAt := 0, lat := 20, no := 7, filled := false }

/-- A near store due, a near load due, and a store and a load of one word due at one clk. -/
theorem witness_near_performed :
    (let s := { State.edit ready fun w => { w with inflight := [filling] } with near := [nearOp false, nearOp true], clk := 5 }
     s.canonical = true ∧ s.wale? 1 = some (hand s) ∧ (hand s).trap = none ∧ filling ∈ (hand s).inflight ∧ filling.file = .v ∧ filling.no = 7 ∧
       filling.mask.getLsbD 3 = true ∧ filling.filled = false ∧ 3 < filling.vals.length ∧ (nearOp true).at' ≤ s.clk ∧ (nearOp true).size ≤ 8) := by
  decide +kernel

/-- R4 and R167 by hand: the store's bytes stand little-endian, and a load of the same clk reads what stood before. -/
theorem test_near_performed :
    (let s := { State.edit ready fun w => { w with inflight := [filling] } with
        near := [nearOp true, nearOp false], clk := 5, mem := mPutRange ready.mem (locSpad 0 12) [1, 2, 3, 4] }
     let t := s.bankClk
     t.byteAt (locSpad 0 12) = 0xDD ∧ t.byteAt (locSpad 0 15) = 0xAA ∧ ((hand t).inflight.any fun e => e.filled && e.vals.getD 3 0 == 0x04030201) = true ∧
       t.near = []) := by decide +kernel

/-- LAYSET of a legal record in v2, LAYGET of any entry, and a handle past 1,023. -/
theorem witness_layout_table :
    (let s := State.edit (stored .n32) fun w => { w with
        v := (List.range 32).foldl (fun m t => mSet 0 m (64 + t) (BitVec.ofNat 32 (field (record 2 .i32 64 0) (32 * t + 31) (32 * t)))) w.v, s := [(4, 1024)] }
     let f : LayForm := ⟨.both, 2, .lit 1023⟩
     AtHand s (hand s) ∧ (hand s).kind = .wale ∧ (hand s).faceOk .both = true ∧ (hand s).layHandle f.handle s.clk = some 1023 ∧ (hand s).inSet 2 = true ∧ (hand s).active .both ≠ 0 ∧
       (hand s).recordOf 2 s.clk = record 2 .i32 64 0 ∧ s.recordBad 1 0 ((hand s).recordOf 2 s.clk) = false ∧
       s.spanOutside 1 ((hand s).recordOf 2 s.clk) (s.windowSize (hand s)) (s.tilesOf (hand s)) = false ∧
       s.stallShort (hand s) (⟨.v, 2⟩ :: uniUses f.handle) = none ∧ (hand s).layHandle (.sc 4) s.clk = none) ∧
    vecReady (stored .n32) ⟨.n32, .both, ⟨.vec 2, .none, .lit 17, .none, {}⟩, none⟩ (laygetOp ((stored .n32).layout 1 17)) = true ∧
    (let p : LayPend := ⟨4, 1, 1023, record 2 .i32 64 0⟩
     let s : State := { stored .n32 with layPend := [p], clk := 4 }
     s.canonical = true ∧ s.layPend = [p] ∧ p.h < 1024 ∧ p.at' ≤ s.clk ∧ ({ s with clk := 3 } : State).clk < p.at') := by
  unfold AtHand; decide +kernel

/-- R164 by hand: LAYSET's record stands in L9 from clk 4 on, and not before. -/
theorem test_layset : (let s := State.edit (stored .n32) fun w => { w with
        v := (List.range 32).foldl (fun m t => mSet 0 m (64 + t) (BitVec.ofNat 32 (field (record 2 .i32 64 0) (32 * t + 31) (32 * t)))) w.v }
    match exec (.layset ⟨.both, 2, .lit 9⟩) s with
    | .next t => decide (({ t with clk := 3 } : State).layClk.layout 1 9 = 0 ∧ ({ t with clk := 4 } : State).layClk.layout 1 9 = record 2 .i32 64 0)
    | _ => false) = true := by decide +kernel

/-- What a queued access asks, as a check. -/
def queuedReady (s : State) (m : MForm) (kind : ReqKind) (op : MemOp) : Bool :=
  decide (s.wale? s.cur = some (hand s)) && decide ((hand s).kind = .wale) && (hand s).faceOk m.face && decide (s.entries (hand s) kind.isLoad < 16) &&
  ((m.fa :: m.fb.toList).all fun f => !kind.isLoad || kind == .pref || ((hand s).flagSel f.fsel).isSome) && (hand s).canRaiseAll ((hand s).mFlags m) &&
  decide (s.memCheck (hand s) m op = .go (faces s m op)) &&
  decide (beatTrap ((queuedPlans s (hand s) op (faces s m op)).flatMap Prod.snd) (s.clk + 4) = none) &&
  ((queuedReqs s (hand s) m kind op (faces s m op)).all fun q => q.elems.all fun e => e.zero || !e.mis && (match s.transElem q e with | .done (.ok _) => true | _ => false))

/-- The check is the condition, with the beats free of traps and every element's translation cached. -/
theorem queuedReady_ready (s : State) (m : MForm) (kind : ReqKind) (op : MemOp) (h : queuedReady s m kind op = true) :
    QueuedReady s (hand s) m kind op (faces s m op) ∧
      beatTrap ((queuedPlans s (hand s) op (faces s m op)).flatMap Prod.snd) (s.clk + 4) = none ∧
      ∀ q ∈ queuedReqs s (hand s) m kind op (faces s m op), ∀ e ∈ q.elems, e.zero = false → e.mis = false ∧ ∃ a, s.transElem q e = .done (.ok a) := by
  simp only [queuedReady, Bool.and_eq_true, decide_eq_true_eq, List.all_eq_true] at h
  obtain ⟨⟨⟨⟨⟨⟨⟨⟨h1, h2⟩, h3⟩, h4⟩, h5⟩, h6⟩, h7⟩, h8⟩, h9⟩ := h
  refine ⟨⟨h1, h2, h3, h4, fun hk hp f hf => ?_, h6, h7⟩, h8, fun q hq e he hz => ?_⟩
  · simpa [hk, hp] using h5 f hf
  · have x := h9 q hq e he
    simp only [hz, Bool.false_or, Bool.and_eq_true, Bool.not_eq_true'] at x
    refine ⟨x.1, ?_⟩
    revert x
    split
    · exact fun _ => ⟨_, by assumption⟩
    · simp

/-- Each queued access has a format under which it is committed with its translations cached; PREF has too. -/
theorem witness_queued_accesses :
    ((List.range (queuedTable (access 17)).length).all fun n => [Ty.i32, .n32, .f32].any fun ty =>
      match (queuedTable (access 17))[n]? with
      | some p => queuedReady (stored ty) (access 17) p.2.1 p.2.2 && p.1.wf
      | none => false) = true ∧
    queuedReady (stored .i32) (access 17) .pref { spaces := [0, 1, 5, 6] } = true := by
  refine ⟨by decide +kernel, by decide +kernel⟩

/-- No flag, a flag at 63, a full queue, a translation that is not cached, and one that may not be read. -/
theorem witness_queued_accesses_wait :
    (hand (State.edit ready fun w => { w with clause := some { placedClause with hdr := { placedClause.hdr with setA := 15 } } })).flagSel false = none ∧
    (let s := State.edit (stored .i32) fun w => { w with flags := [(0, 63)] }
     (hand s).canRaiseAll ((hand s).mFlags (access 17)) = false ∧ (hand s).active .both ≠ 0 ∧
       (let s : State := { stored .i32 with reqs := (List.range 16).map fun k => { req1 .load with no := k } }
        16 ≤ s.entries (hand s) true)) ∧
    (let s : State := { stored .i32 with tlbs := [] }
     let op : MemOp := { spaces := [0, 1, 5, 6], load := true }
     s.memCheck (hand s) (access 17) op = .go (faces s (access 17) op) ∧
       beatTrap ((queuedPlans s (hand s) op (faces s (access 17) op)).flatMap Prod.snd) (s.clk + 4) = none ∧
       ((queuedReqs s (hand s) (access 17) .load op (faces s (access 17) op)).any fun q => q.elems.any fun e => !e.zero && decide (s.transElem q e = .miss)) = true) ∧
    (let s : State := { stored .i32 with tlbs := [⟨0, 1, 0, 2 ^ 30, 0x09⟩] }
     let op : MemOp := { spaces := [0, 1, 5, 6], load := true }
     let qs := queuedReqs s (hand s) (access 17) .load op (faces s (access 17) op)
     (qs.all fun q => q.elems.all fun e => match s.transElem q e with | .done x => decide (x ≠ .absent) | _ => false) = true ∧
       (transTrap (qs.flatMap s.transAll) (s.clk + 4)).isSome = true) := by
  decide +kernel

/-- R4, R169 and R32 by hand: STQ of 7 through L17 stands in the queue with flag f0 raised, thread 31's element at 0x30000 + 124. -/
theorem test_queued_store : (match exec (.stq ⟨.wk, .none, .both, ⟨.die, .imm 17, 0, 4, 0, 1, false, false, 0⟩, none⟩) (stored .i32) with
    | .next t => decide ((hand t).flag 0 = 1) && (t.reqs.any fun q => decide (q.kind = .store) && q.elems.any fun e =>
        decide (e.t = 31 ∧ e.va = 0x3007C ∧ e.loc = locHbm 0x3007C ∧ e.val = 7))
    | _ => false) = true := by decide +kernel

/-! ### Witnesses: requests, fences, locks and barriers -/

/-- The request alone in its queue, with flag f0 raised and 5 in memory. -/
def queue (kind : ReqKind) : State :=
  { State.edit ready fun w => { w with flags := [(0, 1)], issueNo := 5 } with
    reqs := [req1 kind], clk := 12, mem := mPutRange ready.mem 0x3000C (leBytes 4 5) }

/-- The conditions of `Alone`, as a check. -/
def alone (s : State) (q : Req) (e : Elem) : Bool :=
  let w := hand s
  s.canonical && !s.absentHit && decide (s.reqs = [q] ∧ q.elems = [e] ∧ s.wale? q.wale = some w ∧ w.mq = [] ∧ w.stamp = []) &&
    decide (s.near = [] ∧ s.images = [] ∧ s.dirty = [] ∧ s.clean = [] ∧ s.pendApplied = [] ∧ s.banks = [] ∧ q.at' + 12 ≤ s.clk) &&
    !q.finished && decide (q.after = [] ∧ q.rel = none ∧ q.acq = none ∧ q.imgs = [] ∧ q.fenceWide = none ∧ e.old = none) && !q.rsp && !e.done && !e.zero && !e.dead &&
    decide (e.t < 32) && s.awake (homeDie e.loc (dieOf q.core))

/-- A load, a store, an atomic and a reduction may be performed alone. -/
theorem witness_requests_performed :
    ([ReqKind.load, .store, .atomic 0, .atomic 9, .red 12].all fun k => alone (queue k) (req1 k) elem1) = true ∧ scHome .dev = true ∧
    elem1.size = 4 ∧ (hand (queue .load)).trap = none ∧ (0xFFFFFFFF : Mask).getLsbD 3 = true ∧
    (req1 (.atomic 0)).atPort elem1.loc = false ∧
    (let q := { req1 (.atomic 0) with scope := .sys }
     alone { queue (.atomic 0) with reqs := [q] } q elem1 = true ∧ q.atPort elem1.loc = true ∧ scHome q.scope = true) := by decide +kernel

/-- R4, R169 and R176 by hand: the load brings 5 to thread 3 of v2 and clears f0; the store leaves DD CC BB AA; ATOM.ADD of 3 leaves 8. -/
theorem test_requests_performed :
    (match exec (.queuedLoadComplete 9 0xFFFFFFFF .home) (queue .load), exec (.queuedStorePerformed 9 0xFFFFFFFF .home) (queue .store),
        exec (.atomicPerform 9) { queue (.atomic 0) with reqs := [{ req1 (.atomic 0) with elems := [{ elem1 with val := 3 }] }] } with
    | .next t, .next u, .next v => decide (mGet 0 (hand t).v 67 = 5 ∧ (hand t).flag 0 = 0 ∧ t.reqs = [] ∧ u.natAt 0x3000C 4 = 0xAABBCCDD ∧
        u.byteAt 0x3000C = 0xDD ∧ (hand u).flag 0 = 0 ∧ v.natAt 0x3000C 4 = 8)
    | _, _, _ => false) = true := by decide +kernel

/-- R176 and R177 by hand, from the table of R177 and for signed minimum. -/
theorem test_atomic_values :
    (atomNew 8 .n32 7 0 0).1 = 0 ∧ (atomNew 8 .n32 0xFFFFFFFE 0xFFFFFFFF 0).1 = 0xFFFFFFFF ∧ (atomNew 8 .n32 9 3 0).1 = 0 ∧
    (atomNew 9 .n32 0 0 0).2 = 1 ∧ (atomNew 9 .n32 0 1 0).2 = 0 ∧ (atomNew 9 .n32 0xFFFFFFF0 0x0F 0xFFFFFFFF) = (0xFFFFFFFF, 1) ∧
    (atomNew 9 .n32 0xFFFFFFF0 0x10 0xFFFFFFFF) = (0xFFFFFFF0, 0) ∧ (atomNew 9 .n32 9 0 5) = (9, 0) ∧
    (atomNew 1 .i32 1 0xFFFFFFFF 0).1 = 0xFFFFFFFF ∧ (atomNew 1 .n32 1 0xFFFFFFFF 0).1 = 1 := by decide +kernel

/-- A walk that finds a leaf and one that finds none, of requests and of a wale-uniform access; a prefetch; a dirty line. -/
theorem witness_walks_and_write_back :
    (let s := State.edit ready fun w => { w with latch := some (.walk [req1 .load] 0) }
     let f := [req1 .load].foldl State.fillReq s
     s.wale? 1 = some (hand s) ∧ (hand s).latch = some (.walk [req1 .load] 0) ∧
       ([req1 .load].any fun q => (f.transAll q).any fun e => e.2 == .absent) = false ∧
       transTrap ([req1 .load].flatMap f.transAll) (0 + 4) = none) ∧
    (let q := { req1 .load with elems := [{ elem1 with va := 2 ^ 30 }] }
     let f := [q].foldl State.fillReq { ready with mem := mPutRange ready.mem 0x2008 (leBytes 8 0) }
     ([q].any fun q => (f.transAll q).any fun e => e.2 == .absent) = false ∧ (transTrap ([q].flatMap f.transAll) (0 + 4)).isSome = true) ∧
    ((queue .pref).reqs.find? (fun x => x.id == 9) = some (req1 .pref) ∧ (req1 .pref).at' + 6 ≤ (queue .pref).clk) ∧
    (let s := State.edit ready fun w => { w with latch := some (.pageWalk 0x30000) }
     s.wale? 1 = some (hand s) ∧ (hand s).latch = some (.pageWalk 0x30000) ∧ (s.leafAt 0 1 0x30000).isSome = true) ∧
    (let s : State := { ready with dirty := [(cacheKey 0 0x3000C, ⟨7, 0⟩)] }
     s.canonical = true ∧ mFind s.dirty (cacheKey 0 0x3000C) = some ⟨7, 0⟩ ∧ s.bankHeld (0x3000C / 128 * 128) none = false) := by decide +kernel

/-- FENCE meets an earlier load that is pending, or none; QFENCE names the load queue, and a later access waits for it. -/
theorem witness_fences :
    ((queue .load).loadsDone (hand (queue .load)) = false ∧ ready.loadsDone (hand ready) = true ∧ (hand ready).kind = .wale ∧
      (hand ready).faceOk .both = true) ∧
    (let w := hand (State.edit ready fun w => { w with qfences := [⟨[9], 1⟩] })
     QFence.mk [9] 1 ∈ w.qfences ∧ BitVec.getLsbD (1 : BitVec 5) (if ReqKind.isLoad .load then 0 else 1) = true) ∧
    (streamed.wale? (hand streamed).parent = some (hand ready) ∧ (hand streamed).faceOk .both = true ∧ scHome .dev = true) ∧
    (let s := { queue .load with reqs := [req1 .load, { req1 .store with id := 10, after := [9] }] }
     s.reqs.find? (fun x => x.id == 10) = some { req1 .store with id := 10, after := [9] } ∧ s.pendingId 9 = true) := by
  decide +kernel

/-- The access of a lock word at 0x30000 through L17. -/
def lockM : MForm := ⟨.wk, .none, .both, ⟨.wl, .imm 17, 0, 0, 0, 0, false, false, 0⟩, none⟩

/-- The face of the lock's access. -/
def lockX (s : State) : MCtx := ⟨lockM.fa, 17, s.layout 1 17, 0xFFFFFFFF⟩

/-- The wale's request has been on its way to the lock word since clk 0 and reaches it at clk 6. -/
def asking (locks : List (Nat × Lock)) : State :=
  { State.edit (stored .n32) fun w => { w with latch := some (.lockReq 0x30000 0x30000 6) } with locks := locks, clk := 6 }

/-- LOCKQ and UNLOCKQ issue, are on their way, and meet a free lock, a full table, a lock of another, and the wale's own with and without a
grant; the wale's stores are done or not. -/
theorem witness_locks :
    (let s := stored .n32
     s.uniAccess (hand s) lockM lockOp = .at' (lockX s) 0x30000 (some 0x30000) ∧ (hand s).latch = none ∧ s.canonical = true ∧ AtHand s (hand s)) ∧
    (let s := asking []
     (hand s).latch = some (.lockReq 0x30000 0x30000 6) ∧ ({ s with clk := 5 } : State).clk < 6 ∧ 6 ≤ s.clk ∧ mFind s.locks 0x30000 = none ∧
       s.lockCount (homeDie 0x30000 0) < 4096 ∧ s.homeReady 0x30000 0 [] = true ∧ s.canonical = true ∧ AtHand s (hand s)) ∧
    (4096 ≤ ({ ready with locks := (List.range 4096).map fun k => (0x40000 + 4 * k, ⟨7, [], 1⟩) } : State).lockCount (homeDie 0x30000 0)) ∧
    (let s := asking [(0x30000, ⟨7, [5], 1⟩)]
     mFind s.locks 0x30000 = some ⟨7, [5], 1⟩ ∧ (hand s).id ≠ 7 ∧ AtHand s (hand s)) ∧
    (let s := asking [(0x30000, ⟨1, [5], 1⟩)]
     mFind s.locks 0x30000 = some ⟨1, [5], 1⟩ ∧ (hand s).id = 1 ∧ (hand s).retrying = false ∧ s.waleRelReady (hand s) .dev = true ∧
       s.homeReady 0x30000 0 [] = true ∧ (hand (State.edit s fun w => { w with retryPc := some w.insnPc })).retrying = true) ∧
    (let s : State := { State.edit (stored .n32) fun w => { w with latch := some (.lock 0x30000 0x30000) } with locks := [(0x30000, ⟨1, [], 1⟩)] }
     (hand s).latch = some (.lock 0x30000 0x30000) ∧ (mFind s.locks 0x30000).map Lock.owner = some 1) ∧
    (hand (State.edit (stored .n32) fun w => { w with latch := some (.unlock 0x30000) })).latch = some (.unlock 0x30000) ∧
    (queue .store).waleRelReady (hand (queue .store)) .dev = false := by unfold AtHand; decide +kernel

/-- A uniform access with no thread active, one out of extent under zero mode, one whose translation is not cached, and one that traps. -/
theorem witness_uniform_accesses :
    (let s := State.edit (stored .n32) fun w => { w with exm := 0 }
     s.uniAccess (hand s) lockM lockOp = .empty) ∧
    (let s := withLayouts (stored .n32) [(17, BitVec.ofNat 1024 ((record 0 .n32 0 0x30000).toNat + 2 ^ 20))]
     s.uniAccess (hand s) lockM lockOp = .at' (lockX s) 0 none) ∧
    (let s : State := { stored .n32 with tlbs := [] }
     s.uniAccess (hand s) lockM lockOp = .miss 0x30000) ∧
    (∃ r, (stored .f32).uniAccess (hand (stored .f32)) lockM lockOp = .trap r) := by
  refine ⟨by decide +kernel, by decide +kernel, by decide +kernel, ⟨{ cause := .layoutBad, lanes := 0 }, by decide +kernel⟩⟩

/-- R179, R180 and R227 by hand: LOCKQ's request is under way for 6 clk; at its home a free lock is taken, and UNLOCKQ by the owner frees it
and clears the word. -/
theorem test_lock :
    (match exec (.lockq lockM) (stored .n32), exec (.lockq lockM) (asking []), exec (.unlockq lockM) (asking [(0x30000, ⟨1, [], 1⟩)]) with
    | .next r, .next t, .next u => decide (r.locks = [] ∧ (hand r).latch = some (.lockReq 0x30000 0x30000 6) ∧
        (mFind t.locks 0x30000).map Lock.owner = some 1 ∧ (hand t).nextIssue = 12 ∧ u.locks = [] ∧ u.natAt 0x30000 4 = 0)
    | _, _, _ => false) = true := by decide +kernel

/-- A barrier whose phase another wale opened with a count of 2, and one at which the wale waits. -/
theorem witness_barriers :
    (let s := ready.onWg 2 fun g => { g with barriers := [(15, ⟨2, 1⟩)] }
     let f : BarForm := ⟨.both, 15, .lit 2⟩
     AtHand s (hand s) ∧ s.canonical = true ∧ (hand s).kind = .wale ∧ (hand s).faceOk .both = true ∧ (hand s).active .both ≠ 0 ∧ s.wg? 2 = some (group s) ∧
       f.bar < (group s).bars ∧ s.stallShort (hand s) (uniUses f.count) = none ∧ 1 ≤ (hand s).uniVal f.count s.clk ∧ (hand s).uniVal f.count s.clk ≤ 64 ∧
       s.arriveReady (hand s) = true ∧ (s.logArrival (hand s) f.bar).absentHit = false ∧ (s.ctrace 1).getLsbD 0 = false ∧ (hand s).arrived f.bar = false ∧
       mFind (group s).barriers 15 = some ⟨2, 1⟩) ∧
    ((hand ready).uniVal (.lit 64) 0 = 64 ∧ mFind (group ready).barriers 15 = none ∧ (group ready).bars ≤ 16) ∧
    (hand (State.edit ready fun w => { w with s := [(4, 65)] })).uniVal (.sc 4) 0 = 65 ∧
    (hand (State.edit ready fun w => { w with barPend := [3] })).barPend.contains 3 = true ∧ (hand ready).barPend.contains 3 = false ∧
    (hand (State.edit ready fun w => { w with latch := some (.arrived 3) })).arrived 3 = true ∧ (queue .store).arriveReady (hand (queue .store)) = false ∧
    (let s : State := { ready with wales := [hand ready, { hand ready with id := 3, slot := 1, barPend := [15], held := some ⟨.barrier, 0, true⟩ }] }
     (s.wale? 3).any (fun z => decide (z.wg = 2) && z.barPend.contains 15 && decide (z.held = some ⟨.barrier, 0, true⟩)) = true) := by
  unfold AtHand; decide +kernel

/-- R181 and R182 by hand: the second of two arrivals completes the phase and empties the barrier; the first leaves one arrival. -/
theorem test_barrier :
    (match exec (.barSync ⟨.both, 15, .lit 2⟩) (ready.onWg 2 fun g => { g with barriers := [(15, ⟨2, 1⟩)] }),
        exec (.barArrive ⟨.both, 15, .lit 2⟩) ready with
    | .next t, .next u => decide ((group t).barriers = [] ∧ (hand t).pc = 0x10008 ∧ (group u).barriers = [(15, ⟨2, 1⟩)] ∧ (hand u).barPend = [15])
    | _, _ => false) = true := by decide +kernel

/-- The barrier word of L18's element 0, with a count of 2 and one arrival. -/
def barword (word : Nat) : State :=
  let s := State.edit (stored .n32) fun w => { w with s := [(0, 0), (2, 2), (4, 0)] }
  { s with mem := mPutRange s.mem (locSpad 0 0) (leBytes 4 word) }

/-- BARW.ARV and BARW.WAIT of that word; its count in s2 and phase in s4. -/
def barM (d : Nat) : MForm := ⟨.wk, .none, .both, ⟨.wl, .imm 18, d, 0, 0, 0, false, false, 0⟩, none⟩

/-- The arrival that BARW.ARV sends to the word at clk 0. -/
def arrival (c : Nat) : NearOp :=
  { wale := 1, at' := 12, wr := false, loc := locSpad 0 0, size := 4, val := 0, reg := 3, t := 0, fmt := .n32, no := 0, vol := false, arv := some c }

/-- It stands at its bank at clk 12, its scalar to be filled. -/
def arriving (word c : Nat) : State :=
  { State.edit (barword word) fun w => { w with inflight := [{ scFlight w 3 0 0 24 with filled := false, no := 0 }] } with near := [arrival c], clk := 12 }

/-- A barrier word met by its count, by another, closed, and with either phase; a wale held past its limit. -/
theorem witness_barrier_words :
    (let s := barword 0x00020001
     s.canonical = true ∧ s.uniAccess (hand s) (barM 2) barwOp = .at' ⟨(barM 2).fa, 18, s.layout 1 18, 0xFFFFFFFF⟩ 0 (some (locSpad 0 0)) ∧
       ((hand s).sAt 2 s.clk).toNat = 2 ∧ ((hand s).sAt 4 s.clk).toNat = 0 ∧ s.stallShort (hand s) [⟨.s, 2⟩] = none ∧
       s.fenceHolds (hand s) = false ∧ s.barwHeld (hand s) 12 = false ∧ s.acquireOpen (hand s) = false ∧ s.natAt (locSpad 0 0) 4 = 0x00020001 ∧
       (hand s).latch = none ∧ s.near = []) ∧
    (let o : NearOp := { nearOp false with at' := 12, reg := 3, fmt := .n32, arv := some 3 }
     o.loc = locSpad 0 12 ∧ o.arv ≠ some 2 ∧ (arriving 0x00020001 2).near = [arrival 2] ∧ (arrival 2).at' ≤ (arriving 0x00020001 2).clk ∧
       (hand (arriving 0x00020001 2)).trap = none ∧ (∃ e ∈ (hand (arriving 0x00020001 2)).inflight, e.takes .s (arrival 2) = true) ∧
       (arriving 0x00020001 2).wale? (arrival 2).wale = some (hand (arriving 0x00020001 2)) ∧ (arriving 0x00020001 2).canonical = true) ∧
    (barword 0x80000000).natAt (locSpad 0 0) 4 / 2 ^ 31 = 1 ∧ (barword 0x00030001).natAt (locSpad 0 0) 4 / 2 ^ 16 % 2 ^ 15 = 3 ∧
    ({ barword 0 with near := [{ nearOp true with at' := 13 }] } : State).barwHeld (hand (barword 0)) 12 = true ∧
    (let s := withLayouts (barword 0) [(18, BitVec.ofNat 1024 ((record 2 .n32 0 0).toNat + 2 ^ 20))]
     s.uniAccess (hand s) (barM 2) barwOp = .at' ⟨(barM 2).fa, 18, s.layout 1 18, 0xFFFFFFFF⟩ 0 none) ∧
    (let s := { State.edit (withRec ready (2 ^ 32 + 2 ^ 48 + 0x20000 * 2 ^ 64)) fun w => { w with held := some ⟨.barrier, 0, true⟩, latch := some (.arrived 3) } with
        clk := 65536 }
     s.wale? 1 = some (hand s) ∧ (hand s).life = .resident ∧ (hand s).held = some ⟨.barrier, 0, true⟩ ∧ s.wdog 1 = 1 ∧
       0 + s.wdog 1 * 65536 ≤ s.clk ∧ (hand s).trap = none ∧ s.handler 1 ≠ 0) := by decide +kernel

/-- R183 by hand: an arrival is performed 12 clk after its issue; the last of two inverts PHASE and clears the rest, and the old word is in s3
from clk 24. -/
theorem test_barrier_word : (match exec (.barwArv (barM 2)) (barword 0x00020001) with
    | .next t => decide (t.natAt (locSpad 0 0) 4 = 0x00020001 ∧ (t.near.map fun o => (o.at', o.arv)) = [(12, some 2)] ∧
        ({ t with clk := 12 } : State).bankClk.natAt (locSpad 0 0) 4 = 0x80000000 ∧
        (hand ({ t with clk := 12 } : State).bankClk).sAt 3 24 = 0x00020001)
    | _ => false) = true := by decide +kernel

/-! ### Witnesses: the matrix queue -/

/-- A matrix-queue entry that has no operands yet. -/
def mop (kind : MKind) (acc : Nat) : MOp :=
  { id := 20, kind := kind, ty := .f32, acc := acc, grp := 0, issued := 0, recs := [], ha := 0, o0 := 0, o1 := 0, o2 := 0, kk := 32, chain := none
    vals := [], mask := 0xFFFFFFFF, reg := 4, row := 127, no := 0, standing := List.replicate 4 0xFFFFFFFF, flag := some 0, rm := .rn, nosat := false
    key := 0, candAt := some 0, stalled := false, resv := none, after := [], insn := 0 }

/-- Operands A and B in the window (L20, L21), a destination there (L22), and tiles tagged f32. -/
def matrix (ty : Ty) : State :=
  withLayouts ((stored .f32).onWg 2 fun g => { g with window := some ⟨0, 0, 65536⟩, tileTags := [(0, .f32), (1, .f64), (2, .f64), (7, .f32)] })
    [(20, record2 2 ty 32 128 0), (21, record2 2 ty 32 128 0), (22, record2 2 .f32 128 128 0)]

/-- What an operation of the matrix queue asks. -/
def mqReady (s : State) (face : Face) (kinds : List WaleKind) (flag : Option Nat) (uses : List Use) : Bool :=
  decide (s.wale? s.cur = some (hand s) ∧ s.wale? (State.ownerId (hand s)) = some (hand s)) && decide ((hand s).kind ∈ kinds) && (hand s).faceOk face &&
    decide ((hand s).active face ≠ 0) && decide (s.wg? (hand s).wg = some (group s)) && decide ((hand s).mq.length < 16) && (hand s).canRaise flag &&
    !(hand s).discarding && decide (s.stallShort (hand s) uses = none)

/-- MMA and MMAZ may enter, in f32 and in f64 mode, chained to a copy. -/
theorem witness_mma :
    ([Ty.f32, .f64].all fun ty =>
      let s := State.edit (matrix ty) fun w => { w with lastCopy := some 9 }
      let f : MmaForm := ⟨ty, .both, if ty = .f64 then 2 else 7, false, true, 20, 21, 4, 5, 6, 0⟩
      let a := s.layout 1 20
      let b := s.layout 1 21
      s.canonical && mqReady s .both [.wale, .streamM] none ([f.sk, f.sm, f.sn].map (Use.mk .s)) && (hand s).lastCopy.isSome &&
        (group s).granted (accTy ty) f.acc && !s.mmaLayBad (hand s) ty a && !s.mmaLayBad (hand s) ty b &&
        !boxFault a [0, 0] [32, 128] && !boxFault b [0, 0] [32, 128] && f.wf &&
        (ty != .f32 || (group s).tagged (accTy ty) f.acc)) = true := by decide +kernel

/-- MZERO, MREAD and MWRITE may enter at the last row. -/
theorem witness_tile_operations :
    (let s := matrix .f32
     let f : MrwForm := ⟨.f32, .both, 7, 4, .lit 127, false⟩
     s.canonical = true ∧ mqReady s .both [.wale, .streamM] none [] = true ∧ (group s).granted .f64 6 = true ∧
       mqReady s .both [.wale] (some 0) (uniUses f.row) = true ∧ (hand s).flagSel false = some 0 ∧
       ((mrwRun f).all fun r => (hand s).inSet r && !(hand s).partialBad r ((hand s).active .both) .f32 s.clk) = true ∧
       (group s).granted .f32 7 = true ∧ (group s).tagged .f32 7 = true ∧ (hand s).uniVal f.row s.clk ≤ 127) ∧
    (let s := State.edit (matrix .f32) fun w => { w with tags := (List.range 12).map fun r => (r, .f32) }
     let f : MrwForm := ⟨.f32, .both, 7, 4, .lit 127, false⟩
     mqReady s .both [.wale] ((hand s).flagSel f.fsel) (uniUses f.row ++ (mrwRun f).map (Use.mk .v)) = true ∧
       ((mrwRun f).all fun r => (hand s).inSet r && decide ((hand s).tagAt r s.clk = f.ty)) = true ∧ (group s).tileTag 7 = .f32) := by
  decide +kernel

/-- MSTORE and STFOLD may enter: a destination of the tile's format, and a folded destination with its log (L23 with log L24). -/
theorem witness_tile_stores :
    (let s := matrix .f32
     let r := s.layout 1 22
     mqReady s .both [.wale, .streamM] none (handleUses (.imm 22) ++ [4, 5].map (Use.mk .s)) = true ∧ (group s).tileTag 7 = .f32 ∧
       (group s).granted (accTy .f32) 7 = true ∧ lValid r = true ∧ lRank r = 2 ∧ lSpace r ≤ 3 ∧ lFmt r ∈ mstoreFmts .f32 ∧ outsideMesh r = false ∧
       (imaged r (group s).sym = true → imageMisfit r (group s).sym (group s).grids = false) ∧ (group s).tagged (accTy .f32) 7 = true ∧ boxFault r [0, 0] [128, 128] = false) ∧
    (let s := withLayouts (matrix .f32) [(23, BitVec.ofNat 1024 ((record2 0 .f32 128 128 0x40000).toNat + 24 * 2 ^ 874 + 2 ^ 884)), (24, record 0 .n32 16512 0x80000)]
     let s : State := { s with mem := mPutRange s.mem 0x80010 (leBytes 4 1) }
     let r := s.layout 1 23
     mqReady s .both [.wale, .streamM] none (handleUses (.imm 23) ++ [4, 5, 6].map (Use.mk .s)) = true ∧ (group s).granted .f32 7 = true ∧ lValid r = true ∧
       lRank r = 2 ∧ lSpace r = 0 ∧ lFmt r = .f32 ∧ r.getLsbD 884 = true ∧ s.foldLogOk 0 1 (s.layout 1 (field r 883 874)) = true ∧ lExt r 0 % 128 = 0 ∧
       lExt r 1 % 128 = 0 ∧ outsideMesh r = false ∧ imaged r (group s).sym = false) := by decide +kernel

/-- A full queue, an accumulator beyond the grant, and groups sealed up to the limit; an abandonment waits to be delivered. -/
theorem witness_matrix_waits :
    (let s := State.edit ready fun w => { w with mq := List.replicate 16 (mop .mzero 0) }
     16 ≤ (hand s).mq.length ∧ (hand s).active .both ≠ 0 ∧ s.wg? 2 = some (group s)) ∧
    (ready.onWg 2 fun g => { g with tiles := 4 }).wg? 2 = some (group (ready.onWg 2 fun g => { g with tiles := 4 })) ∧
    (group (ready.onWg 2 fun g => { g with tiles := 4 })).granted .f32 4 = false ∧
    (let w := hand (State.edit ready fun w => { w with mq := (List.range 8).map fun k => { mop .mzero 0 with grp := k }, mgOpen := 8 })
     8 ≤ w.groupsOut) ∧
    (let w := hand (State.edit ready fun w => { w with mq := (List.range 7).map fun k => { mop .mzero 0 with grp := k }, mgOpen := 7 })
     w.groupsOut = 7 ∧ w.mwaitFault = none) ∧
    (hand (State.edit ready fun w => { w with pend := [⟨.engineFault, 0, 5, none⟩] })).mwaitFault = some ⟨.engineFault, 0, 5, none⟩ := by
  decide +kernel

/-- Operands that all lie past their extents, under zero mode, read as zero. -/
def zeroRec : LRec := BitVec.ofNat 1024 ((record2 2 .f32 0 0 0).toNat + 2 ^ 20)

/-- An MMA that is a candidate, one that the array serves, and one that it has finished. -/
theorem witness_array :
    (let s := { State.edit ready fun w => { w with mq := [mop .mma 0] } with clk := 24 }
     mFind s.arrays 0 = none ∧ s.nextMma 0 = some (hand s) ∧ (hand s).mq = mop .mma 0 :: [] ∧ ready.nextMma 0 = none ∧ mFind ready.arrays 0 = none) ∧
    (let m := { mop .mma 0 with recs := [zeroRec, zeroRec, 0, 0], kk := 1 }
     let s := { State.edit ready fun w => { w with mq := [m] } with clk := 600, arrays := [(0, ⟨1, 20, 536⟩)] }
     s.canonical = true ∧ mFind s.arrays 0 = some ⟨1, 20, 536⟩ ∧ 536 ≤ s.clk ∧ s.wale? 1 = some (hand s) ∧ (hand s).mq = m :: [] ∧ m.id = 20 ∧
       s.wg? 2 = some (group s) ∧ (s.mmaResult (group s) 0 m).isSome = true) := by decide +kernel

/-- R190 by hand: with K = 32 and 1,024 products a clk in f32, an MMA served at clk 24 is done 512 clk later. -/
theorem test_array : (match exec (.arrayServe 0) { State.edit ready fun w => { w with mq := [mop .mma 0] } with clk := 24 } with
    | .next t => decide ((mFind t.arrays 0).map ArrayBusy.done = some (24 + 32 * 16384 / macRate .f32))
    | _ => false) = true := by decide +kernel

/-- A destination of one element in the window, under zero mode. -/
def oneRec : LRec := BitVec.ofNat 1024 ((record2 2 .f32 1 1 0).toNat + 2 ^ 20)

/-- Only the element at the origin lies in it. -/
theorem oneRec_fit (a b : Nat) : fitCoords oneRec [(a : Int), (b : Int)] = if a = 0 ∧ b = 0 then .ok [0, 0] else .zero := by
  have h1 : lRank oneRec = 2 := by decide +kernel
  have h2 : lExts oneRec = [1, 1] := by decide +kernel
  have h3 : lOob oneRec = 2 := by decide +kernel
  by_cases h : a = 0 ∧ b = 0
  · obtain ⟨rfl, rfl⟩ := h
    simp [fitCoords, h1, h2, List.range_succ]
  · simp [fitCoords, h1, h2, h3, List.range_succ, h]

/-- The store of a tile to it. -/
def oneStore : MOp := { mop .mstore 0 with recs := [oneRec] }

/-- The wale with that store at the head of its queue. -/
def storing : State := State.edit (matrix .f32) fun w => { w with mq := [oneStore] }

/-- MZERO, MWRITE and MREAD may be performed; a chained copy was rejected. -/
theorem witness_matrix_performed :
    ([MKind.mzero, .mwrite, .mread].all fun k =>
      let m := { mop k 0 with vals := List.replicate 128 9 }
      let s := State.edit ready fun w => { w with mq := [m] }
      s.canonical && decide ((hand s).mq = m :: [] ∧ s.wg? 2 = some (group s)) && decide ((hand s).trap = none) &&
        s.mqGo (hand s) (group s) m) = true ∧
    (let g := group (ready.onWg 2 fun g => { g with badCopies := [9] })
     g.chainBad 9 = true) := by decide +kernel

/-- An MSTORE in its turn, its one element reached. -/
theorem witness_mstore_performed :
    (storing.canonical = true ∧ storing.absentHit = false ∧ storing.wale? 1 = some (hand storing) ∧ (hand storing).mq = oneStore :: [] ∧
      storing.wg? 2 = some (group storing) ∧ storing.mqGo (hand storing) (group storing) oneStore = true ∧ oneStore.resv = none ∧ (oneStore.rec' 0).getLsbD 863 = false) ∧
    ∀ e ∈ (storing.mstorePlan (hand storing) (group storing) oneStore).drop oneStore.next, e.imgs = [] ∧ ∃ l, e.loc = .ok l ∧
      storing.engReady l (hand storing).core (hand storing).stamp = true := by
  refine ⟨by decide +kernel, ?_⟩
  intro e he
  replace he := List.mem_of_mem_drop he
  simp only [State.mstorePlan, List.mem_filterMap] at he
  obtain ⟨n, -, hn⟩ := he
  have hr : oneStore.rec' 0 = oneRec := rfl
  have ho : oneStore.o0 = 0 ∧ oneStore.o1 = 0 := ⟨rfl, rfl⟩
  rw [hr, ho.1, ho.2, oneRec_fit] at hn
  by_cases h : 0 + n % 128 = 0 ∧ 0 + n / 128 = 0
  · rw [if_pos h] at hn
    obtain rfl : n = 0 := by omega
    obtain rfl := Option.some.inj hn
    exact ⟨by decide +kernel, locSpad 0 0, by decide +kernel, by decide +kernel⟩
  · rw [if_neg h] at hn
    cases hn

/-- R194 by hand: MWRITE of row 127 puts thread 31's four words in columns 124 to 127; MREAD brings them back to v4 to v7. -/
theorem test_tile : (let m := { mop .mwrite 0 with vals := (List.range 128).map fun n => BitVec.ofNat 64 n }
    match exec (.matrixOpPerformed 1) (State.edit ready fun w => { w with mq := [m] }) with
    | .next t =>
      match exec (.matrixOpPerformed 1) (State.edit t fun w => { w with mq := [mop .mread 0], flags := [(0, 1)] }) with
      | .next u => decide ((group t).tileW 0 (128 * 127 + 127) = 127 ∧ mGet 0 (hand u).v (7 * 32 + 31) = 127 ∧ mGet 0 (hand u).v (4 * 32 + 31) = 124 ∧
          (hand u).flag 0 = 0 ∧ (hand u).mq = [])
      | _ => false
    | _ => false) = true := by decide +kernel

/-- A log whose words lie at one place (stride 0), holding 5. -/
def flatLog : LRec := BitVec.ofNat 1024 ((record 0 .n32 20000 0x80000).toNat - 2 ^ 288)

/-- Every word of it has that place. -/
theorem flatLog_addr (n : Nat) : lAddr flatLog [(n : Int)] = 0x80000 := by
  have h1 : lRank flatLog = 1 := by decide +kernel
  have h2 : lStr flatLog 0 = 0 := by decide +kernel
  have h3 : lByte flatLog 0 = 0x80000 := by decide +kernel
  simp [lAddr, lLin, h1, h2, h3, List.range_succ]

/-- The wale with an STFOLD to it in its turn. -/
def appending : State :=
  { State.edit ready fun w => { w with mq := [{ mop .stfold 0 with recs := [flatLog] }] } with mem := mPutRange ready.mem 0x80000 (leBytes 4 5) }

/-- An append in its turn to a log with a free slot, each word reached, and to a full one; its slot passed by TAIL and not. -/
theorem witness_append :
    (let s := appending
     let m := { mop .stfold 0 with recs := [flatLog] }
     (hand s).mq = m :: [] ∧ m.kind = .stfold ∧ s.mqGo (hand s) (group s) m = true ∧ s.canonical = true ∧ s.logGet 0 1 flatLog 4 = 5 ∧
       (s.logGet 0 1 flatLog 3 + 2 ^ 32 - s.logGet 0 1 flatLog 1) % 2 ^ 32 ≠ 5 ∧ s.absentHit = false ∧ s.logWord 0 1 flatLog .w 3 = .ok 0x80000 ∧
       s.natAt 0x80000 4 = 5 ∧ s.foldSlots = []) ∧
    (∀ ws, appending.foldFault 0 1 flatLog ws = none ∧ appending.foldReady (hand appending) flatLog ws = true) ∧
    (let s : State := { State.edit ready fun w => { w with mq := [{ mop .stfold 0 with recs := [record 0 .n32 16512 0x80000] }] } with
        mem := mPutRange ready.mem 0x80000 (leBytes 20 (2 * 2 ^ 96 + 2 * 2 ^ 128)) }
     let log := record 0 .n32 16512 0x80000
     s.foldFault 0 1 log [1, 2, 3, 4] = none ∧ s.foldReady (hand s) log [1, 2, 3, 4] = true ∧ s.logGet 0 1 log 4 = 2 ∧
       (s.logGet 0 1 log 3 + 2 ^ 32 - s.logGet 0 1 log 1) % 2 ^ 32 = s.logGet 0 1 log 4) ∧
    ((5 + 2 ^ 32 - 4) % 2 ^ 32 = 1 ∧ (5 + 2 ^ 32 - 6) % 2 ^ 32 = 2 ^ 32 - 1) := by
  have h (n : Nat) (p : Perm) : appending.logWord 0 1 flatLog p n = EngLoc.ofXl (appending.xlateDie 0 1 (some 0) p 0x80000) := by
    rw [State.logWord, flatLog_addr]
    rfl
  have hr : EngLoc.ofXl (appending.xlateDie 0 1 (some 0) .r 0x80000) = .ok 0x80000 := by decide +kernel
  have hw : EngLoc.ofXl (appending.xlateDie 0 1 (some 0) .w 0x80000) = .ok 0x80000 := by decide +kernel
  have hc : dieOf (hand appending).core = 0 ∧ (hand appending).ctx = 1 ∧
    appending.engReady 0x80000 (hand appending).core (hand appending).stamp = true := by decide +kernel
  refine ⟨by decide +kernel, fun ws => ⟨?_, ?_⟩, by decide +kernel, by decide +kernel⟩
  · simp [State.foldFault, h, hr, hw]
  · simp [State.foldReady, hc, h, hw]

/-- R321 by hand: the append to a log that lies in one word takes what RESERVE holds, 5, and the next 6. -/
theorem test_append : (match exec (.foldLogAppend 1) appending with
    | .next t => decide ((hand t).mq.map MOp.resv = [some 5] ∧ t.natAt 0x80000 4 = 6)
    | _ => false) = true := by decide +kernel

/-! ### Witnesses: copies, streams and bank programs -/

/-- What an engine operation of a wale asks, as a check. -/
def engReady (s : State) (face : Face) (kinds : List WaleKind) : Bool :=
  decide (s.wale? s.cur = some (hand s) ∧ s.wale? (State.ownerId (hand s)) = some (hand s)) && decide ((hand s).kind ∈ kinds) &&
    (hand s).faceOk face && decide ((hand s).active face ≠ 0) && decide (s.wg? (hand s).wg = some (group s))

/-- A copy of eight words from L17 to L18 in two slices by queue 3: slice index, origins in s4 and s5. -/
def slice (i : Nat) : CopyForm := ⟨.both, 3, 18, 17, 4, 5, .lit i, 1⟩

/-- A copy of that form with the slice 0. -/
def copying (st : CopySt) (ms : List Move) : Copy :=
  { id := 9, cq := 3, n := 2, hd := 18, hs := 17, rejected := false, st := st, slices := [⟨0, 1, 0, [0], [0], 0⟩], lastIssue := 0, moves := ms, after := [] }

/-- The workgroup with that copy. -/
def copier (st : CopySt) (ms : List Move) : State :=
  { withLayouts (stored .i32) [(17, record 0 .i32 8 0x30000), (18, record 2 .i32 8 0)] with clk := 600 * 50 }.onWg 2 fun g => { g with copies := [copying st ms] }

/-- A slice founds a copy, and another joins it; one whose origin lies outside is bad. -/
theorem witness_copy_slice :
    (let s := withLayouts (stored .i32) [(17, record 0 .i32 8 0x30000), (18, record 2 .i32 8 0)]
     engReady s .both [.wale, .streamC] = true ∧ (slice 1).sd + lRank (s.layout 1 18) ≤ 64 ∧ s.copyLayBad (hand s) (s.layout 1 18) (s.layout 1 17) = false ∧ s.strict 1 = false ∧
       (hand s).uniVal (slice 1).i s.clk ≤ (slice 1).nm1 ∧ (group s).slicesOf 1 < 16 ∧ (group s).forming 3 = [] ∧
       sliceBad (s.layout 1 18) (s.layout 1 17) [0] [0] 0 2 (s.windowSize (hand s)) 8 = false ∧
       sliceBad (s.layout 1 18) (s.layout 1 17) [8] [0] 0 2 (s.windowSize (hand s)) 8 = true) ∧
    ((group (copier .forming [])).forming 3).find? (fun c => !(c.slices.any fun y => y.i == 1)) = some (copying .forming []) := by
  decide +kernel

/-- R202 by hand: the second slice makes the copy ready. -/
theorem test_copy_slice : (match exec (.copySlice (slice 1)) (copier .forming []) with
    | .next t => (group t).copies.any fun c => decide (c.id = 9 ∧ c.st = .ready ∧ c.slices.length = 2 ∧ c.n = 2)
    | _ => false) = true := by decide +kernel

/-- CSEAL and CWAIT with no batch outstanding, with eight, and with a pending COPY_RANGE. -/
theorem witness_batches :
    engReady ready .both [.wale] = true ∧ ready.batchesOut (hand ready) = 0 ∧
    (let s := (State.edit ready fun w => { w with batOpen := 8 }).onWg 2 fun g =>
        { g with copies := (List.range 8).map fun k => { copying .forming [] with id := 9 + k, slices := [⟨0, 1, k, [0], [0], 0⟩] } }
     s.batchesOut (hand s) = 8) ∧
    (hand ready).cwaitFault = none ∧
    (hand (State.edit ready fun w => { w with pend := [⟨.engineFault, 1, 6, none⟩, ⟨.copyRange, 0, 5, none⟩] })).cwaitFault =
      some ⟨.copyRange, 0, 5, none⟩ := by
  decide +kernel

/-- A ready copy that may begin, one that runs with its elements apart, by bytes, by codes of bytes or by tile words, one whose window is gone, and
one that a hard stop has reached. -/
theorem witness_copies_run :
    (let s := copier .ready []
     s.canonical = true ∧ s.wg? 2 = some (group s) ∧ (group s).nextCopy 3 = some (copying .ready []) ∧ s.copyReady (copying .ready []) = true ∧
       (group s).saved = false ∧ s.groupStops 2 = false ∧ (((s.copyPairs (group s) (copying .ready [])).flatMap pairLocs).all fun l =>
         match l with | .ok a => s.engReady a 0 (s.copyStamp (copying .ready [])) | _ => false) = true ∧
       (s.copyPairs (group s) (copying .ready [])).length = 4) ∧
    (let c := copying .running [⟨locSpad 0 0, 4, 5⟩, ⟨locSpad 0 4, 8, 6⟩]
     let s := copier .running c.moves
     (group s).runningCopy 3 = some c ∧ s.copyUnheld (group s) c = false ∧ s.absentHit = false ∧ s.dirty = [] ∧ s.copyWrites (group s) c = c.moves ∧
       s.copyEnds (group s) c = true ∧ s.badWords = [] ∧ ({ s with clk := 3 } : State).copyEnds (group s) c = false ∧ (c.moves.all fun m => decide (1 ≤ m.size ∧ m.size ≤ 8)) = true ∧
       c.moves.Pairwise fun a b => a.loc + a.size ≤ b.loc ∨ b.loc + b.size ≤ a.loc) ∧
    (let c := copying .running [⟨locSpad 0 0, 0, 5⟩, ⟨locSpad 0 0, 9, 6⟩]
     let s := copier .running c.moves
     s.copyWrites (group s) c = c.moves ∧ (c.moves.all fun m => decide (m.size = 0 ∨ m.size = 9)) = true ∧
       c.moves.Pairwise fun a b => a.loc ≠ b.loc ∨ a.size ≠ b.size) ∧
    (let c := copying .running [⟨0, 10, 5⟩, ⟨1, 10, 6⟩]
     let s := copier .running c.moves
     s.copyWrites (group s) c = c.moves ∧ (c.moves.all fun m => decide (m.size = 10)) = true ∧ c.moves.Pairwise fun a b => a.loc ≠ b.loc) ∧
    (let s := (copier .running []).onWg 2 fun g => { g with window := none }
     (group s).runningCopy 3 = some (copying .running []) ∧ s.copyUnheld (group s) (copying .running []) = true) ∧
    (State.edit (copier .ready []) fun w => { w with life := .stopping }).groupStops 2 = true := by
  decide +kernel

/-- FORK meets no stream, a stream of its own, and a full sequencer; RDV a stopped stream, a running one, and a fault. -/
theorem witness_streams :
    (engReady ready .both [.wale] = true ∧ (hand ready).streams = [] ∧ ready.seqCount 0 .streamM < 8) ∧
    (let s : State := { ready with wales := hand ready :: (List.range 8).map fun k => { hand ready with id := 10 + k, kind := .streamM, parent := 30 } }
     s.seqCount (hand s).core .streamM = 8) ∧
    (let s := streamed
     s.wale? 3 = some (hand s) ∧ s.wale? (State.ownerId (hand s)) = some (hand ready) ∧ (hand s).kind = .streamM ∧ (hand s).faceOk .both = true ∧
       (hand s).active .both ≠ 0 ∧ s.wg? (hand s).wg = some (group s) ∧ (hand s).atRdv = false) ∧
    (let s (at' : Bool) : State := { streamed with cur := 1, wales := [{ hand ready with streams := [(3, .streamM)] }, { hand streamed with atRdv := at' }] }
     engReady (s true) .both [.wale] = true ∧ (s true).streamsDone (hand (s true)) = true ∧ (s false).streamsDone (hand (s false)) = false ∧
       (hand (s true)).rdvFault = none ∧ (∀ p ∈ (hand (s true)).streams, p.1 ≠ (hand (s true)).id)) ∧
    (hand (State.edit ready fun w => { w with pend := [⟨.engineFault, 2, 6, none⟩] })).rdvFault = some ⟨.engineFault, 2, 6, none⟩ ∧
    (let s : State := { streamed with mem := mPutRange streamed.mem 0x2000 (leBytes 8 0x0F) }
     (match { s with cur := 3 }.codeWord (hand s) (hand s).pc 0 with | .error (some _) => true | _ => false) = true) := by
  decide +kernel

/-- R207 by hand: FORK.M starts a stream 8 bytes on with the wale's s9; RDV then waits for it. -/
theorem test_fork : (match exec (.forkM .both 1) (State.edit ready fun w => { w with s := [(9, 77)] }) with
    | .next t => (t.wales.any fun n => decide (n.kind = .streamM ∧ n.parent = 1 ∧ n.pc = addr52 ((hand ready).relTarget 1) ∧ mGet 0 n.s 9 = 77)) &&
        (match exec (.rdv .both) t with | .next u => decide ((hand u).pc = (hand t).pc ∧ (hand u).streams.length = 1) | _ => false)
    | _ => false) = true := by decide +kernel

/-- A running bank program at row 0x30000 whose w1 and w2 hold 1.0 and 2.0 in every lane; arguments 3, 2, 1, 0. -/
def bank (id : Nat) (st : BankSt) : BankCall :=
  { id := id, wale := some 1, ctx := 1, base := 0x30000, prog := 0x10000, pc := 0x10000, w := [(1, rowOf fun _ => 0x3F800000), (2, rowOf fun _ => 0x40000000)],
    args := [3, 2, 1, 0], lc := 0, limit := 0, loopStart := none, skipping := false, count := 0, flag := some 4, st := st, space := 0, parent := 0, recVa := 0, die := 0,
    unit := some 0, touched := false, pure := false, after := [], issued := 0, insn := 0, stamp := [] }

/-- The machine with that program at hand. -/
def banking (b : BankCall) : State := { stored .f32 with banks := [b], curBank := b.id }

/-- BCALL of a row of L17: its coordinate in s2, its program in s4 and s5, its arguments from s8. -/
def bcallF : BcallForm := ⟨.both, 17, 2, 4, 8, false⟩

/-- BCALL may join, or finds eight calls; the oldest call may begin, and one has executed 2^20 instructions. -/
theorem witness_bank_calls :
    (let s := stored .f32
     let r := s.layout 1 17
     engReady s .both [.wale] = true ∧ s.strict 1 = false ∧ (hand s).canRaise ((hand s).flagSel false) = true ∧ bcallF.sc + lRank r ≤ 64 ∧
       s.bankLayBad (hand s) r = false ∧ coordsOut r [((hand s).sAt 2 0).toNat] = false) ∧
    (({ stored .f32 with banks := (List.range 8).map fun k => bank (9 + k) .queued } : State).banks.filter fun b => b.wale == some 1).length = 8 ∧
    (let s := banking (bank 9 .queued)
     s.banks.find? (fun x => x.wale == some (hand s).id) = some (bank 9 .queued) ∧ ((bank 9 .queued).after.any s.pendingId) = false ∧ s.sectorSplit = false ∧
       s.rowLoc 1 0x30000 = some (locHbm 0x30000) ∧ ({ bank 9 .queued with unit := none } : BankCall).unit = none) ∧
    (let b := { bank 9 .running with count := 2 ^ 20 }
     let s := banking b
     s.bank? 9 = some b ∧ b.wale = some (hand s).id ∧ s.wale? 1 = some (hand s) ∧ 2 ^ 20 ≤ b.count) := by
  decide +kernel

/-- A bank program whose next word is BLD of its own row, on a page that is not mapped; its words stay mapped. -/
def missing : State :=
  let m := mPutRange (mPutRange (mPutRange ready.mem 0x2000 (leBytes 8 0x3001)) 0x3000 (leBytes 8 0x1F)) (0x3000 + 8 * 16) (leBytes 8 0)
  let b := { bank 9 .running with base := 16 * 2 ^ 21, pc := 0x10000 }
  { banking b with mem := mPutRange m 0x10000 (leBytes 4 ((encodeBank (.bld 1 ⟨false, 0⟩)).getD 0).toNat) }

/-- The programs that the statements of bank operations meet: one at hand, its row readable and writable, its loop open or not, its core
there or not. -/
theorem witness_bank_programs :
    (let s := banking (bank 9 .running)
     s.canonical = true ∧ s.bank? s.curBank = some (bank 9 .running) ∧ (bank 9 .running).loopStart = none ∧ s.wale? 1 = some (hand s) ∧
       s.rowAt (bank 9 .running) ⟨false, 4095⟩ .r = .ok (locHbm (0x30000 + 32 * 4095)) ∧
       s.rowAt (bank 9 .running) ⟨false, 4095⟩ .w = .ok (locHbm (0x30000 + 32 * 4095)) ∧
       s.homeApplied (locHbm (0x30000 + 32 * 4095)) 0 [] = true ∧ s.bankHeld (locHbm (0x30000 + 32 * 4095)) (some 9) = false ∧
       s.badWord (locHbm (0x30000 + 32 * 4095)) 32 false = none ∧
       ({ s with badWords := [(0x30000, 64)] } : State).badWord (locHbm 0x30000) 32 true = some 0x30000 ∧ s.corePresent 288 = false ∧ s.corePresent 287 = true ∧ s.evFull 287 = false ∧
       ({ s with events := [(287, List.replicate 64 ⟨0, []⟩)] } : State).evFull 287 = true) ∧
    (let s : State := { banking (bank 9 .running) with tlbs := [] }
     (banking { bank 9 .running with stamp := [0, 3, 0, 0, 0] }).homeApplied (locHbm 0x30000) 0 [0, 3, 0, 0, 0] = false ∧
       missing.rowAt ({ bank 9 .running with base := 16 * 2 ^ 21 } : BankCall) ⟨false, 0⟩ .r = .miss ∧
       s.bank? s.curBank = some (bank 9 .running)) ∧
    (let s : State := { banking (bank 9 .running) with mem := mPutRange ready.mem 0x2000 (leBytes 8 0x03) }
     s.rowAt (bank 9 .running) ⟨false, 0⟩ .r = .bad ∧ s.rowAt (bank 9 .running) ⟨false, 0⟩ .w = .bad) ∧
    ({ bank 9 .running with loopStart := some 0x10000 } : BankCall).loopStart.isSome = true := by
  decide +kernel

/-- R212 by hand: 1.0 + 2.0 is 3.0 in lane 7, and BFMA 1 × 2 + 2 is 4.0; BST then puts the row at base + 32. -/
theorem test_bank : (match exec (.badd 3 1 2) (banking (bank 9 .running)), exec (.bfma 3 1 2 2) (banking (bank 9 .running)),
      exec (.bst 2 ⟨false, 1⟩) (banking (bank 9 .running)) with
    | .next t, .next u, .next x => (t.bank? 9).any (fun b => decide (rowLane (b.row 3) 7 = 0x40400000 ∧ b.pc = 0x10004)) &&
        (u.bank? 9).any (fun b => decide (rowLane (b.row 3) 7 = 0x40800000)) && decide (x.natAt (locHbm 0x30020) 4 = 0x40000000)
    | _, _, _ => false) = true := by decide +kernel

/-! ### Witnesses: faults of engines, errors and links -/

/-- A stalled program and the record of its fault. -/
def stalledBank : State :=
  { banking (bank 9 .stalled) with faultRing := [⟨0, some (.bank 9), false⟩], faultTail := 1 }

/-- A bank program's fault, its answers, FAULTHEAD past one record and past none, and a record that waits for space. -/
theorem witness_faults_of_engines :
    (missing.engMiss (.bank 9)).isSome = true ∧ missing.faultTail - missing.faultHead < 256 ∧ missing.faultHeld = [] ∧
    (let s := stalledBank
     (field (0x000 : W64) 7 0 + 256 - s.faultHead % 256) % 256 = 0 ∧ s.faultRing[0]? = some ⟨0, some (.bank 9), false⟩ ∧ s.absentHit = false ∧
       s.bank? 9 = some (bank 9 .stalled) ∧ (0x000 : W64).getLsbD 8 = false ∧ (0x100 : W64).getLsbD 8 = true ∧ field (0x100 : W64) 7 0 = 0 ∧
       (bank 9 .stalled).wale = some (hand s).id ∧ s.wale? (hand s).id = some (hand s)) ∧
    (let s : State := { stalledBank with faultRing := [⟨0, some (.bank 9), true⟩], faultHead := 2 ^ 32 - 1, faultTail := 2 ^ 32 }
     (field (0 : W64) 31 0 + 2 ^ 32 - s.faultHead % 2 ^ 32) % 2 ^ 32 = 1 ∧ s.faultHead + 1 ≤ s.faultTail ∧ s.absentHit = false ∧
       s.faultTail < s.faultHead + 2) ∧
    stalledBank.canonical = true ∧
    (let s : State := { stalledBank with faultHeld := [⟨7, none, true⟩], regs := mSet 0 ready.regs 0x3100 0x40000 }
     s.faultHeld = ⟨7, none, true⟩ :: [] ∧ s.faultTail - s.faultHead < 256 ∧ (s.reg 0x3100).toNat + 64 * (s.faultTail % 256) + 64 ≤ Config.hbmBytes) ∧
    256 ≤ ({ stalledBank with faultTail := 256 } : State).faultTail - stalledBank.faultHead := by
  decide +kernel

/-- R340 and R358 by hand: a held record is written with the clk of the writing as its TIME. -/
theorem test_held_record : (match step { stalledBank with faultHeld := [⟨7 * 2 ^ 128, none, true⟩], clk := 9 } with
    | .next t => decide (t.faultHeld = [] ∧ (t.faultRing.getLast?).map (fun r => field r.data 191 128) = some 9)
    | _ => false) = true := by decide +kernel

/-- R339 by hand: the refused bank program's fault is pending on its wale, and the record is answered. -/
theorem test_refuse : (match exec (.faultRefuse 0x100) stalledBank with
    | .next t => decide (t.banks = [] ∧ (hand t).pend = [⟨.engineFault, 3, 0, some 4⟩] ∧ t.faultRing = [⟨0, some (.bank 9), true⟩])
    | _ => false) = true := by decide +kernel

/-- Errors: a staged register, a context that runs, a running checkpoint; entries of the address caches that an access uses and that none uses. -/
theorem witness_soft_errors :
    ((hand ready).kind = .wale ∧ (hand ready).life = .resident ∧ (hand ready).staging = .done ∧ (hand ready).inSet 30 = true ∧
      ready.reg (mgmt 0 48) ≠ 0xFFFFFFFFFFFFFFFF ∧ ready.wale? (hand ready).id = some (hand ready)) ∧
    (ready.refetches 1 1 0 0 = false ∧ ready.ctxStopped.contains 1 = false ∧
      (∀ w ∈ ready.wales, w.ctx = 1 → w.core = 0 → w.slot = 0 → w.life ≠ .stopping)) ∧
    (let s : State := { stored .n32 with clean := [⟨0, 0x600, List.replicate 128 1, 0, [], 0, none, []⟩] }
     s.canonical = true ∧ s.refetches 1 7 0 0x30000 = true ∧ s.xlate 1 none .r 0x30000 = .ok 0x30000 ∧
       s.reg (mgmt (s.errDie 1 7 0 0x30000) (16 * 7)) ≠ 0xFFFFFFFFFFFFFFFF ∧
       ({ s with dirty := [(cacheKey 0 0x30004, ⟨1, 0⟩)] } : State).refetches 1 7 0 0x30000 = false) ∧
    (let q := { req1 .load with elems := [{ elem1 with cs := [3] }] }
     let s : State := { queue .load with reqs := [q] }
     s.accessAt 1 0 0 0x3000D = some ([3], 17) ∧ s.xlate 1 none .r 0x3000D = .ok 0x3000D ∧ locDevice 0x3000D = true ∧ s.refetches 1 1 0 0x3000D = false) ∧
    (let s : State := { queue .load with badWords := [(0x30000, 64)] }
     alone s (req1 .load) elem1 = true ∧ s.badWord elem1.loc elem1.size false = some 0x30000 ∧ s.ctxStopped.contains 1 = false) ∧
    (let c : Ckpt := ⟨0x30000, 1, 0, 1, 0, 5, 1, [], [], none⟩
     ({ ready with ckpt := some c } : State).ckpt = some c ∧ scrubGranule 1 0x20000 = some 2) ∧
    (let s : State := { State.edit (stored .n32) id with inval := some [7], reqs := [{ req1 .load with id := 7 }] }
     s.inval = some [7] ∧ ([7].any s.stillUsing) = true ∧ ([8].any s.stillUsing) = false) := by
  decide +kernel

/-- A header with the fields given and its CRC over it and the data beats. -/
def flit (fields : Nat) (l : List (BitVec 512)) : BitVec 512 :=
  BitVec.ofNat 512 (fields + flitCrc (BitVec.ofNat 512 fields) l * 2 ^ 96)

/-- The links: one that is up, a good flit and bad ones, and one that has replayed 32 times with an access outstanding. -/
theorem witness_links :
    (let h := flit (6 * 2 ^ 31) []
     ready.canonical = true ∧ (ready.link 35).down = false ∧ field h 57 55 = 0 ∧ field h 127 96 = flitCrc h [] ∧ field h 54 43 = (ready.link 35).expect) ∧
    (field (BitVec.ofNat 512 (5 * 2 ^ 55)) 57 55 = 5 ∧ field (BitVec.ofNat 512 (2 ^ 43)) 54 43 ≠ (ready.link 35).expect ∧ (ready.link 35).replays < 32) ∧
    (let s : State := { ready with links := [(0, ⟨0, 0, 32, false, none⟩)], reqs := [{ req1 .load with space := 6 }] }
     32 ≤ (s.link 0).replays ∧ (s.link 0).down = false ∧ s.overPort 0 ≠ []) := by
  decide +kernel

/-- CRC-32C of the digits 1 to 9 has the check value 0xE3069283. -/
theorem test_crc : crc32c ((List.range 9).map fun k => BitVec.ofNat 8 (0x31 + k)) = 0xE3069283 := by decide +kernel

/-- R332 and R333 by hand: a flit with SEQ 0 and ACK 6 is accepted: 1 is expected next and 7 acknowledged; one with a changed bit is
answered by a NAK of 0. -/
theorem test_flit : (match exec (.flitReceive 35 (flit (6 * 2 ^ 31) []) [] true) ready, exec (.flitReceive 35 (flit (6 * 2 ^ 31) [] ^^^ 1) [] true) ready with
    | .next t, .next u => decide ((t.link 35).expect = 1 ∧ (t.link 35).acked = 7 ∧ (u.link 35).expect = 0 ∧ (u.link 35).nak = some 0)
    | _, _ => false) = true := by decide +kernel

/-! ### Witnesses: ends, launches and tasks -/

/-- The wale with no live thread. -/
def ending : State := State.edit ready fun w => { w with live := 0, exm := 0, flags := [] }

/-- A wale that may end: alone in a spawned workgroup, alone in a launch's, and with another. -/
theorem witness_wale_ends :
    (let s := ending
     s.wale? (hand s).id = some (hand s) ∧ s.canEnd (hand s) = true ∧ s.wg? (hand s).wg = some (group s) ∧ (group s).origin = .spawned ∧
       (∀ x ∈ s.wales, x.kind = .wale → x.wg = (group s).id → x.id = (hand s).id) ∧ mGet [] s.events 0 = [] ∧ s.evHeld = []) ∧
    (let s := ending.onWg 2 fun g => { g with origin := .launch 5 0 0x60000 }
     s.canEnd (hand s) = true ∧ (group s).origin = .launch 5 0 0x60000) ∧
    (let s : State := { ending with wales := ending.wales ++ [{ hand ready with id := 3, slot := 1 }] }
     s.canEnd (hand s) = true ∧ ∃ x ∈ s.wales, x.kind = .wale ∧ x.wg = (group s).id ∧ x.id ≠ (hand s).id) := by
  refine ⟨by decide +kernel, by decide +kernel, by decide +kernel, ⟨{ hand ready with id := 3, slot := 1 }, by decide +kernel⟩⟩

/-- R147 and R290 by hand: the last wale of a launch's workgroup ends at clk 100; its clk are charged and kind 0x02 is posted. -/
theorem test_wale_end : (match exec (.waleEnd 1) { ending.onWg 2 fun g => { g with origin := .launch 5 0 0x60000 } with clk := 100 } with
    | .next t => decide (t.wales = [] ∧ mGet [] t.retired 0 = [2] ∧ (t.wg? 2).map Workgroup.charge = some 100 ∧
        (mGet [] t.events 0).map EvRec.data = [BitVec.ofNat 128 (0x60000 * 2 ^ 64 + 0x02 * 2 ^ 24 + 1)])
    | _ => false) = true := by decide +kernel

/-- Queue 5's descriptor: context 1, a ring of 16 records at 0x200, partition 0, a quantum of 100 and a deficit of 50. -/
def descN (head tail low : Nat) : Nat :=
  0x200 + 4 * 2 ^ 64 + 2 ^ 69 + 2 ^ 77 + 100 * 2 ^ 96 + 50 * 2 ^ 128 + head * 2 ^ 160 + tail * 2 ^ 192 + low * 2 ^ 224

/-- A launch record of three workgroups of two wales in context 1 with their code at 0x10000, s0 holding 41. -/
def recN (st ticket next done : Nat) : Nat :=
  2 ^ 41 + 2 ^ 22 + 3 * 2 ^ 192 + 0x10000 * 2 ^ 128 + st * 2 ^ 28 + ticket * 2 ^ 416 + next * 2 ^ 448 + done * 2 ^ 480 + 41 * 2 ^ 1792

/-- The memory with that descriptor at 0x100 and a record at the ring's first slot, 0x200. -/
def launchMem (d r : Nat) : List Host.Cell := mPutRange (mPutRange ready.mem 0x100 (leBytes 64 d)) 0x200 (leBytes 256 r)

/-- The package with that queue. -/
def launching (d r : Nat) : State := { ready with regs := mSet 0 ready.regs (0x100 + 16 * 5) 0x100, mem := launchMem d r }

/-- The record that such a memory holds. -/
theorem rec_launching (s : State) (d r : Nat) (x : BitVec 2048) (hm : s.mem = launchMem d r) (h : r < 2 ^ (8 * 256)) (hx : BitVec.ofNat 2048 r = x) :
    s.recAt 0x200 = x := by
  have hb : s.bytesAt 0x200 256 = leBytes 256 r := by
    apply List.ext_getElem
    · simp [State.bytesAt]
    · intro i h1 h2
      simp only [State.bytesAt, List.getElem_map, List.getElem_range, State.byteAt, hm, launchMem]
      rw [mFind_mPutRange_in _ _ _ h2]
      exact (List.getElem?_eq_getElem h2 ▸ rfl)
  rw [State.recAt, State.natAt, hb, leNat_leBytes, Nat.mod_eq_of_lt h, hx]

/-- The same with no other queue's descriptor in the installed memory. -/
def alone5 (d r : Nat) : State :=
  { launching d r with
    regs := ((List.range 256).map fun q => (0x100 + 16 * q, if q = 5 then 0x100 else 2 ^ 63)) ++ ready.regs }

/-- The launch of that record, under way. -/
def launch0 : LaunchSt := { queue := 5, seq := 0, recVa := 0x200, total := 3, grid := [3], sym := 0, grids := [3, 1, 1, 1], started := 0, coop := false, stamp := [], drainAt := 0 }

/-- A workgroup of it that has ended, `done` others having retired. -/
def retiring (done : Nat) : State :=
  { (launching (descN 0 1 0) (recN 1 3 0 done)).onWg 2 fun g => { g with origin := .launch 5 0 0x200, charge := 100 } with
    wales := [], launches := [launch0], retired := [(0, [2])], events := [(0, [⟨evData 0x200 0 0x02 1, []⟩])] }

/-- A task that has ended, with its parent's record at 0x70000 counting 1. -/
def joining : State :=
  { ready.onWg 2 fun g => { g with origin := .task 0x71000 0x70000 } with
    wales := [], retired := [(0, [2])], mem := mPutRange ready.mem 0x70000 (leBytes 64 (2 ^ 128 + 5 * 2 ^ 181)) }

/-- A weaver may retire a workgroup that is not the last, the last, and a task whose end releases its parent. -/
theorem witness_retirement :
    (∀ d, let s := retiring d
      s.weaverUp 0 = true ∧ s.contHeld = [] ∧ mGet [] s.retired 0 = 2 :: [] ∧ s.launch? 5 0 = some launch0 ∧ s.evHeld = []) ∧
    (retiring 1).recAt 0x200 = BitVec.ofNat 2048 (recN 1 3 0 1) ∧ (retiring 2).recAt 0x200 = BitVec.ofNat 2048 (recN 1 3 0 2) ∧
    (let r : BitVec 2048 := BitVec.ofNat 2048 (recN 1 3 0 2)
     rDone (BitVec.ofNat 2048 (recN 1 3 0 1)) + 1 ≠ launch0.total ∧ rDone r + 1 = launch0.total ∧ field r 563 512 = 0 ∧ rCcore r = 0) ∧
    (let s := retiring 2
     s.canonical = true ∧ (s.popReport 0 2).any (fun x => s.weaverReady 0 0x200 (stampJoin (group s).stamp x.2)) = true ∧ (s.wg? 2).map Workgroup.origin = some (.launch 5 0 0x200) ∧
       s.launchLoc launch0 = some 0x200 ∧ s.descAt 5 + 64 ≤ 0x200 ∧ s.descAt 5 + 64 ≤ Config.hbmBytes) ∧
    (let s := joining
     s.canonical = true ∧ (s.popReport 0 2).any (fun x => s.weaverReady 0 0x70000 (stampJoin (group s).stamp x.2)) = true ∧ s.weaverUp 0 = true ∧
       s.contHeld = [] ∧ s.taskParent 2 = some (1, 0x70000) ∧ s.recLoc 1 0x70000 .w = some 0x70000 ∧
       s.natAt 0x70010 4 = 1 ∧ (s.writeNat 0x70010 4 0).recLoc 1 0x70000 .r = some 0x70000 ∧ field (s.contAt 0x70000) 191 190 = 0 ∧
       field (s.contAt 0x70000) 189 181 = 5) := by
  refine ⟨fun d => ⟨rfl, rfl, rfl, rfl, rfl⟩, rec_launching _ _ _ _ rfl (by decide +kernel) rfl, rec_launching _ _ _ _ rfl (by decide +kernel) rfl, by decide +kernel,
    by decide +kernel, by decide +kernel⟩

/-- A submission meets a free slot, a full ring, a slot that may not be written, and a queue that is not valid; minimal mode and a package
that is off. -/
theorem witness_submission :
    (let s := launching (descN 0 0 0) 0
     let d := s.desc 5
     s.canonical = true ∧ dValid d = true ∧ ¬ (dSize d ≤ (dTail d + 2 ^ 32 - dLow d) % 2 ^ 32) ∧ s.boot ≠ .minimal ∧ s.boot ≠ .off ∧
       s.recLoc (dCtx d) (dSlot d (dTail d)) .w = some 0x200 ∧ s.descAt 5 + 64 ≤ 0x200 ∧ s.descAt 5 + 64 ≤ Config.hbmBytes ∧
       (s.partCores (dPart d)).head? = some 0 ∧ mGet [] s.events 0 = [] ∧ s.evHeld = []) ∧
    (let d := (launching (descN 0 16 0) 0).desc 5
     dValid d = true ∧ dSize d ≤ (dTail d + 2 ^ 32 - dLow d) % 2 ^ 32) ∧
    (let s : State := { launching (descN 0 0 0) 0 with mem := mPutRange (launchMem (descN 0 0 0) 0) 0x2000 (leBytes 8 0x03) }
     dValid (s.desc 5) = true ∧ s.recLoc (dCtx (s.desc 5)) (dSlot (s.desc 5) (dTail (s.desc 5))) .w = none) ∧
    (({ launching 0 0 with boot := .minimal } : State).boot = .minimal ∧ ({ launching 0 0 with boot := .off } : State).boot = .off ∧ 128 % 256 ≠ 0) ∧
    dValid ((launching 0 0).desc 5) = false := by
  decide +kernel

/-- Arbitration gives core 0 the queue; its record is refused for an unknown context, or may start. -/
theorem witness_refusal_and_start :
    (let s := alone5 (descN 0 1 0) (recN 0 0 0 0 + 2 * 2 ^ 41)
     s.weaverUp 0 = true ∧ s.freeSlots 0 ≠ [] ∧ s.ctxStopped = [] ∧ s.contHeld = [] ∧ (s.queueOf 5).resumeList = [] ∧
       ((s.queueLocs 5).all fun l => s.weaverReady 0 l (s.weaverStamp 0)) = true ∧ (s.arbitrate 0).1 = some 5 ∧ Memory.wf (s.arbitrate 0).2.mem = true) ∧
    (({ alone5 0 0 with queueSt := [(5, ⟨false, [9]⟩)] } : State).queueOf 5).resumeList ≠ [] ∧
    (∀ r, r < 2 ^ (8 * 256) → ∀ s : State, s.mem = launchMem (descN 0 1 0) r → s.recLoc 1 0x200 .w = some 0x200 →
      s.headRec (BitVec.ofNat 512 (descN 0 1 0)) = some (0x200, BitVec.ofNat 2048 r)) ∧
    (({ alone5 (descN 0 1 0) (recN 0 0 0 0) with lastServed := [(0, 5)] } : State).recLoc 1 0x200 .w = some 0x200) ∧
    (let s : State := { alone5 (descN 0 1 0) 0 with lastServed := [(0, 5)] }
     let d : BitVec 512 := BitVec.ofNat 512 (descN 0 1 0)
     let r : BitVec 2048 := BitVec.ofNat 2048 (recN 0 0 0 0)
     s.desc 5 = d ∧ s.reasons 0 5 d (BitVec.ofNat 2048 (recN 0 0 0 0 + 2 * 2 ^ 41)) = [4] ∧ rState r = 0 ∧ startable d r = true ∧ s.reasons 0 5 d r = [] ∧
       s.ckpt = none ∧ s.gridsAtStart r = some [3, 0, 0, 0] ∧ field r 40 39 = 0 ∧ (s.loaded 0 r).isSome = true ∧ launchTotal (rSym r) [3] = 3) := by
  refine ⟨by decide +kernel, by decide +kernel, fun r h s hm hl => ?_, by decide +kernel, by decide +kernel⟩
  have h1 : dHead (BitVec.ofNat 512 (descN 0 1 0)) = 0 := by decide +kernel
  have h2 : dTail (BitVec.ofNat 512 (descN 0 1 0)) = 1 := by decide +kernel
  have h3 : dSlot (BitVec.ofNat 512 (descN 0 1 0)) 0 = 0x200 := by decide +kernel
  have h4 : dCtx (BitVec.ofNat 512 (descN 0 1 0)) = 1 := by decide +kernel
  rw [State.headRec, h1, h2, h3, h4, hl, if_neg (by decide)]
  simp only [Option.map_some, rec_launching s _ r _ hm h rfl]

/-- A weaver may build a rank it was granted; a cooperative launch may be placed, or has no room. -/
theorem witness_building :
    (let s : State := { launching (descN 0 1 0) (recN 1 3 0 0) with launches := [launch0], claims := [(0, ⟨5, 0, 1, 3⟩)] }
     let r : BitVec 2048 := BitVec.ofNat 2048 (recN 1 3 0 0)
     s.recAt 0x200 = r ∧ s.canonical = true ∧ s.weaverUp 0 = true ∧ mFind s.claims 0 = some ⟨5, 0, 1, 3⟩ ∧ s.launch? 5 0 = some launch0 ∧
       s.launchLoc launch0 = some 0x200 ∧ rState r = 1 ∧ s.ctxValid (rCtx r) = true ∧ s.fits (launchFamily 5 0) 0 (rNeed r) = true) ∧
    (let l := { launch0 with coop := true }
     let s : State := { launching (descN 0 1 0) (recN 1 0 0 0 + 2 ^ 16) with launches := [l] }
     let r : BitVec 2048 := BitVec.ofNat 2048 (recN 1 0 0 0 + 2 ^ 16)
     s.recAt 0x200 = r ∧ s.weaverUp 0 = true ∧ s.inPart (dPart (s.desc 5)) 0 = true ∧ (s.queueOf 5).closed = false ∧ dQuantum (s.desc 5) ≠ 0 ∧ (s.queueOf 5).resumeList = [] ∧
       (List.range 4).all (fun d => s.awake d) = true ∧ (s.partCores 0).contains 1 = true ∧ ({ s with power := [(0, .c1)] } : State).awake (dieOf 1) = false ∧
       s.launch? 5 (dHead (s.desc 5)) = some l ∧ s.launchLoc l = some 0x200 ∧ s.descAt 5 + 64 ≤ 0x200 ∧ rState r = 1 ∧
       rTicket r < l.total ∧ s.ctxValid (rCtx r) = true ∧ s.savedOf 5 0 = false ∧
       (s.placeAll l r [0, 4] (rTicket r) (l.total - rTicket r)).isSome = true ∧ s.placeAll l r [] (rTicket r) (l.total - rTicket r) = none) := by
  refine ⟨⟨rec_launching _ _ _ _ rfl (by decide +kernel) rfl, by decide +kernel⟩, ⟨rec_launching _ _ _ _ rfl (by decide +kernel) rfl, by decide +kernel⟩⟩

/-- A released task record at 0x70000 of context 1: code at 0x10000, its frame at coordinate 2 of L17, 256 registers, 8 tiles, PARENT 0, its row's
first argument 6, and BARG1 as given. -/
def taskN (barg1 : Nat) : Nat := 0x10000 + 17 * 2 ^ 64 + 2 * 2 ^ 96 + 2 ^ 160 + 3 * 2 ^ 171 + 6 * 2 ^ 256 + barg1 * 2 ^ 288

/-- The package with that record on core 3's and die 1's queues. -/
def tasks (barg1 : Nat) : State :=
  { stored .n32 with
    coreTasks := [(3, [taskEntry 1 0x70000])], bankTasks := [(1, [taskEntry 1 0x70000])]
    mem := mPutRange (mPutRange ready.mem 0x30008 (leBytes 32 (11 + 12 * 2 ^ 224))) 0x70000 (leBytes 64 (taskN barg1)) }

/-- A task may start on its core and on its bank unit, and one whose setup word breaks the limits is declined. -/
theorem witness_tasks :
    (let s := tasks (8 * 2 ^ 16)
     let r : BitVec 512 := BitVec.ofNat 512 (taskN (8 * 2 ^ 16))
     s.canonical = true ∧ s.entryRec (taskEntry 1 0x70000) = some (0x70000, r) ∧ s.weaverUp 3 = true ∧ mGet [] s.coreTasks 3 = taskEntry 1 0x70000 :: [] ∧
       bargBad (field r 319 288) = false ∧ s.ctxValid (field r 166 160) = true ∧ s.fits (taskFamily s.nextId) 3 (taskNeed r) = true ∧
       frameVa (s.layout 1 17) (field r 127 96) = some 0x30008 ∧
       ((List.range 32).all fun i => decide (s.frameLoc 1 (s.layout 1 17) (0x30008 + i) = some (0x30008 + i))) = true ∧
       s.taskReady 3 0x70000 r (stampJoin (s.weaverStamp 3) (s.stampAt (taskKey (taskEntry 1 0x70000)) 3)) = true ∧
       s.unitIdle ((s.taskRow r).bind fun b => s.bankUnit 1 b (s.taskSpace r)) = true ∧ s.sectorSplit = false ∧
       s.weaverReady 72 0x70000 (s.stampAt (taskKey (taskEntry 1 0x70000)) 72) = true ∧ mGet [] s.bankTasks 1 = taskEntry 1 0x70000 :: [] ∧
       lValid (s.layout 1 17) = true ∧ lRank (s.layout 1 17) = 1 ∧ lSpace (s.layout 1 17) = 0 ∧ coordsOut (s.layout 1 17) [(field r 127 96 : Int)] = false) ∧
    (let s := tasks (9 * 2 ^ 16)
     let r : BitVec 512 := BitVec.ofNat 512 (taskN (9 * 2 ^ 16))
     s.entryRec (taskEntry 1 0x70000) = some (0x70000, r) ∧ bargBad (field r 319 288) = true ∧ field r 243 192 = 0 ∧ s.evFull 3 = false ∧
       s.taskReady 3 0x70000 r (stampJoin (s.weaverStamp 3) (s.stampAt (taskKey (taskEntry 1 0x70000)) 3)) = true ∧
       ({ s with events := [(3, List.replicate 64 ⟨0, []⟩)] } : State).evFull 3 = true) := by
  decide +kernel

/-- R289 by hand: the frame's words 0 and 7 are in s0 and s7; the bank program starts at the row of 0x30008, 0x30000, with
arguments 6 and BARG1. -/
theorem test_task : (match exec (.taskPop (.core 3)) (tasks 0), exec (.taskPop (.bankUnit 1)) (tasks (8 * 2 ^ 16)) with
    | .next t, .next u => (t.wales.any fun w => decide (w.core = 3 ∧ w.pc = 0x10000 ∧ w.budget = 256 ∧ mGet 0 w.s 0 = 11 ∧ mGet 0 w.s 7 = 12)) &&
        (u.banks.any fun b => decide (b.base = 0x30000 ∧ b.pc = 0x10000 ∧ b.arg 0 = 6 ∧ b.arg 1 = 8 * 2 ^ 16))
    | _, _ => false) = true := by decide +kernel

/-! ### Witnesses: pre-emption, hard stops, management and accesses from outside -/

/-- What a launch's record at 0x200 says of its state. -/
theorem state_launching (s : State) (l : LaunchSt) (d r : Nat) (x : BitVec 2048) (hm : s.mem = launchMem d r) (h : r < 2 ^ (8 * 256))
    (hx : BitVec.ofNat 2048 r = x) (hl : s.launchLoc l = some 0x200) : s.launchState l = rState x := by
  simp only [State.launchState, hl, rec_launching s d r x hm h hx]

/-- A launch under way, cooperative or not, whose record is in a state with three ranks claimed and `done` retired. -/
def preempted (coop : Bool) (st done : Nat) : State :=
  { (launching (descN 0 1 0) (recN st 3 1 done)).onWg 2 fun g => { g with origin := .launch 5 0 0x200, family := launchFamily 5 0 } with
    launches := [{ launch0 with coop := coop }] }

/-- Its record. -/
theorem rec_preempted (coop : Bool) (st done : Nat) (h : recN st 3 1 done < 2 ^ (8 * 256)) :
    (preempted coop st done).recAt 0x200 = BitVec.ofNat 2048 (recN st 3 1 done) := rec_launching _ _ _ _ rfl h rfl

/-- PREEMPT meets a running launch with a rank to retire, with none, and a cooperative one; a queue with none; SCOPE 0 and 3. -/
theorem witness_preempt :
    (∀ c k, k ≤ 3 → (preempted c 1 k).launchLoc { launch0 with coop := c } = some 0x200 →
      ((preempted c 1 k).launches.filter fun l => inScope (preempted c 1 k) 0x4000000000000005 l.queue && (preempted c 1 k).launchState l == 1) =
        [{ launch0 with coop := c }]) ∧
    (inScope (preempted false 1 2) 0x8000000000000001 5 = true ∧ inScope (preempted false 1 2) 0x8000000000000002 5 = false ∧
      inScope (preempted false 1 2) 0x4000000000000005 6 = false ∧ field (0x8000000000000001 : W64) 63 62 = 2) ∧
    ((preempted false 1 2).canonical = true ∧ (preempted false 1 2).launchLoc { launch0 with coop := false } = some 0x200 ∧
      (preempted false 1 3).launchLoc { launch0 with coop := false } = some 0x200 ∧
      (preempted true 1 3).launchLoc { launch0 with coop := true } = some 0x200 ∧
      (preempted false 1 2).claimedOf { launch0 with coop := false } = true ∧
      ({ preempted false 1 3 with wgs := [] } : State).claimedOf { launch0 with coop := false } = false ∧
      (∃ g ∈ (preempted true 1 3).wgs, g.family = launchFamily 5 0 ∧ g.saved = false) ∧ (hand (preempted true 1 3)).life = .resident) ∧
    (ready.launches = [] ∧ field (0x4000000000000005 : W64) 63 62 = 1 ∧ field (0xC000000000000005 : W64) 63 62 = 3 ∧ field (5 : W64) 63 62 = 0) := by
  refine ⟨fun c k hk hl => ?_, by decide +kernel, by decide +kernel, by decide +kernel⟩
  have hr : recN 1 3 1 k < 2 ^ (8 * 256) := by
    have : k = 0 ∨ k = 1 ∨ k = 2 ∨ k = 3 := by omega
    obtain rfl | rfl | rfl | rfl := this <;> decide +kernel
  have hs := state_launching (preempted c 1 k) { launch0 with coop := c } _ _ _ rfl hr rfl hl
  have h1 : rState (BitVec.ofNat 2048 (recN 1 3 1 k)) = 1 := by
    have : k = 0 ∨ k = 1 ∨ k = 2 ∨ k = 3 := by omega
    obtain rfl | rfl | rfl | rfl := this <;> decide +kernel
  have hq : inScope (preempted c 1 k) 0x4000000000000005 5 = true := by
    have h : (field (0x4000000000000005 : W64) 63 62 == 1 && 5 == field (0x4000000000000005 : W64) 7 0) = true := by decide +kernel
    rw [inScope, h, Bool.true_or]
  show List.filter _ [{ launch0 with coop := c }] = _
  rw [List.filter_cons_of_pos (by rw [hs, h1]; exact (Bool.and_eq_true _ _).mpr ⟨hq, rfl⟩)]
  rfl

/-- RESUME meets a pre-empted launch; one that drains is past its limit at clk 120,000 and within it before. -/
theorem witness_resume :
    (preempted false 3 2).recAt 0x200 = BitVec.ofNat 2048 (recN 3 3 1 2) ∧ rState (BitVec.ofNat 2048 (recN 3 3 1 2)) = 3 ∧
    ((preempted false 3 2).canonical = true ∧ (preempted false 3 2).launchLoc { launch0 with coop := false } = some 0x200 ∧
      ((preempted false 3 2).launches.filter fun x => inScope (preempted false 3 2) 0x8000000000000001 x.queue) = [{ launch0 with coop := false }] ∧
      ((preempted false 3 2).headRec ((preempted false 3 2).desc 5)).all (fun x => rState x.2 != 5) = true ∧
      rNext (BitVec.ofNat 2048 (recN 3 3 1 2)) < launch0.total ∧ (preempted false 3 2).savedOf 5 0 = false ∧
      ((preempted false 3 2).onWg 2 fun g => { g with saved := true }).savedOf 5 0 = true) ∧
    (let s : State := { preempted false 2 2 with clk := 120000 }
     (s.launches.filter fun l => l.queue == 5 && s.launchState l == 2 && decide (l.drainAt + 600 * 200 ≤ s.clk)) = [{ launch0 with coop := false }] ∧
       dCtx (s.desc 5) = 1 ∧ field (s.ctxRec 1) 15 0 = 0 ∧ s.launchLoc { launch0 with coop := false } = some 0x200) := by
  have hl : ({ preempted false 2 2 with clk := 120000 } : State).launchLoc { launch0 with coop := false } = some 0x200 := by decide +kernel
  refine ⟨rec_preempted _ _ _ (by decide +kernel), by decide +kernel, by decide +kernel, ?_, by decide +kernel, by decide +kernel, hl⟩
  have hs := state_launching ({ preempted false 2 2 with clk := 120000 } : State) { launch0 with coop := false } _ _ _ rfl (by decide +kernel) rfl hl
  have h1 : rState (BitVec.ofNat 2048 (recN 2 3 1 2)) = 2 := by decide +kernel
  have hf (p : LaunchSt → Bool) (x : LaunchSt) (h : p x = true) : List.filter p [x] = [x] := by simp [h]
  refine hf _ _ ?_
  simp only [hs, h1]
  decide +kernel

/-- A wale that stops with nothing left to drain. -/
def stopping : State := (State.edit ready fun w => { w with life := .stopping }).onWg 2 fun g => { g with window := none }

/-- The same saved. -/
def savedUp : State := (State.edit stopping fun w => { w with life := .saved }).onWg 2 fun g => { g with saved := true }

/-- A running copy within its limit and past it, its ends apart. -/
theorem witness_copies_squash :
    (let s := State.edit (copier .running []) fun w => { w with life := .stopping }
     s.wg? 2 = some (group s) ∧ (group s).runningCopy 3 = some (copying .running []) ∧ field (s.ctxRec (group s).ctx) 31 16 = 0 ∧
       (group s).stopAt + 600 * 50 ≤ s.clk ∧ (∃ w ∈ s.wales, w.wg = (group s).id ∧ w.life = .stopping) ∧
       s.copyOverlaps (group s) (copying .running []) = false) ∧
    ({ copier .running [] with clk := 29999 } : State).clk < (group (copier .running [])).stopAt + 600 * 50 := by decide +kernel

/-- A saved workgroup with a window and three of its bytes. -/
def savedWindow : State := savedUp.onWg 2 fun g => { g with window := some ⟨0, 4096, 8192⟩, footprint := [1, 2, 3] }

/-- A wale may be saved, its workgroup restored on core 1, and a restored wale goes on or waits for its die's applied clock. -/
theorem witness_saves_and_restores :
    (let s := stopping
     s.wale? (hand s).id = some (hand s) ∧ s.canSave (hand s) = true ∧ s.wg? (hand s).wg = some (group s) ∧ (group s).window = none ∧
       (∀ x ∈ s.wales, x.wg = (group s).id → x.kind = .wale → x.id = (hand s).id ∨ x.life = .saved)) ∧
    (let s := (State.edit ready fun w => { w with life := .stopping }).onWg 2 fun g => { g with window := some ⟨0, 4096, 8192⟩ }
     s.canSave (hand s) = true ∧ (group s).window.isSome = true ∧ s.dirty = [] ∧ s.wg? (hand s).wg = some (group s)) ∧
    (let s := savedWindow
     s.wg? (group s).id = some (group s) ∧ (group s).saved = true ∧ (group s).coop = false ∧ s.sharers (group s) = [group s] ∧
       s.mayRestore (group s) 1 = true ∧ s.fits (group s).family 1 (s.setNeed [group s]) = true ∧ Memory.wf s.mem = true ∧
       (s.placeWindow (group s).family 1 8192).any (fun win => decide (win.off + (group s).footprint.length ≤ 238 * 4096)) = true) ∧
    (let s := savedUp
     s.wg? (group s).id = some (group s) ∧ (group s).saved = true ∧ (group s).coop = false ∧ (group s).window = none ∧
       s.mayRestore (group s) 1 = true ∧ s.fits (group s).family 1 (s.setNeed [group s]) = true) ∧
    (let s := State.edit ready fun w => { w with life := .restoring }
     s.wale? (hand s).id = some (hand s) ∧ (hand s).kind = .wale ∧ stampLe (hand s).stamp (s.applied (dieOf 0)) = true ∧ s.absentHit = false ∧
       (∀ x ∈ s.wales, x.restoredBy (hand s).id = true → x = hand s)) ∧
    (let s := State.edit trapping fun w => { w with life := .restoring }
     (hand s).clause.map ClausePos.addr = some 0x10008 ∧
       ((s.revived 1 0).codeWord ((hand s).revive 0 s.clk) 0x10008 3).toOption = some 0x18051F2E40000010 ∧
       (decodeWord 0x18051F2E40000010 none).toOption = some (.clauseHeader ⟨0x805, 1, 15, 1, [7, 2, 0, 0, 0, 0, 0, 0], true⟩)) ∧
    (hand (State.edit ready fun w => { w with clause := none })).clause = none ∧
    (let s := State.edit ready fun w => { w with life := .restoring, stamp := [0, 3, 0, 0, 0] }
     stampLe (hand s).stamp (s.applied (dieOf 0)) = false) := by decide +kernel

/-- A workgroup may migrate to core 1; a forwarding entry at its lapse and before. -/
theorem witness_migration :
    (let s := stored .n32
     let g := group s
     s.wg? g.id = some g ∧ g.coop = false ∧ 1 ≠ g.core ∧ s.holds g = true ∧ g.saved = false ∧
       (∀ x ∈ s.wales, x.wg ∈ (s.sharers g).map Workgroup.id → x.kind = .wale → x.life = .resident) ∧
       s.mayRestore { g with moveTo := none } 1 = true ∧ s.fits g.family 1 (s.setNeed (s.sharers g)) = true) ∧
    (let s : State := { ready with forwards := [⟨0, 2, some 0, 1, 4096⟩], clk := 4096 }
     s.forwards[0]? = some ⟨0, 2, some 0, 1, 4096⟩ ∧ 4096 ≤ s.clk ∧ ready.clk < 4096) := by decide +kernel

/-- PART meets a migration, a core of another partition, and none; CSSPLIT a busy die and a free one; WVRESET, CTXREC and SPAREREQ their cases. -/
theorem witness_management :
    (({ ready with regs := mSet 0 ready.regs 0x3C00 1 } : State).reg 0x3C00 = 1 ∧ ready.reg 0x3C00 ≠ 1 ∧
      (∃ k < 16, k ≠ 15 ∧ ready.reg (0x3800 + 64 * k + 8 * 4) &&& 0xFFFFFFFF &&& ~~~(ready.absentWord 4) ≠ 0) ∧
      (∀ k < 16, k ≠ 0 → ready.reg (0x3800 + 64 * k + 8 * 4) &&& 0xFFFFFFFF &&& ~~~(ready.absentWord 4) = 0) ∧ State.reset.wgs = [] ∧
      (∃ g ∈ ready.wgs, g.saved = false ∧ g.core / 64 = 0 ∧ (ready.reg 0x3800).getLsbD (g.core % 64) = true ∧ (0xFFFFFFFFFFFFFFFE : W64).getLsbD (g.core % 64) = false)) ∧
    (ready.dieBusy 0 = true ∧ ready.dieBusy 3 = false ∧ field (12 : W64) 3 0 = 12 ∧ field (13 : W64) 3 0 = 13) ∧
    (field (0x800000000000011F : W64) 8 0 = 287 ∧ (0x800000000000011F : W64).getLsbD 63 = true ∧ field (0x800000000000011F : W64) 62 9 = 0 ∧
      field (0x200 : W64) 62 9 ≠ 0) ∧
    (let s : State := { ready with mem := mPutRange ready.mem 0x40000 (leBytes 64 (2 ^ 32)), ctxStopped := [2] }
     (0x40000 : W64).toNat + 64 ≤ Config.hbmBytes ∧ s.natAt (locHbm (0x40000 : W64).toNat) 64 / 2 ^ 32 % 2 = 1 ∧ s.ctxStopped.contains 127 = false ∧
       s.ctxStopped.contains 2 = true) ∧
    (let s : State := { ready with leavesLeft := 1 }
     s.canonical = true ∧ s.corePresent (287 : W64).toNat = true ∧ s.part.spare (dieOf 287) = some 72 ∧ 0 < s.leavesLeft ∧
       ({ s with part := { s.part with cores := [(216, 79)] } } : State).part.spare (dieOf 287) = none ∧ ready.leavesLeft = 0 ∧
       ready.nextBlk < 2 ^ 20 ∧ 2 ^ 20 ≤ ({ ready with nextBlk := 2 ^ 20 } : State).nextBlk) := by decide +kernel

/-- The debugger names a wale that runs, one that has stopped, or none; its buffer fits its page; a breakpoint is at hand or is not. -/
theorem witness_debugger :
    (let s : State := ready
     s.canonical = true ∧ s.absentHit = false ∧ s.dbgTarget 1 = some (hand s) ∧ s.dbgTarget 2 = none ∧ (hand s).dbg = false ∧ (s.ctrace 1).getLsbD 1 = false ∧ (hand s).entering s.clk = false) ∧
    (let s := State.edit ready fun w => { w with entry := true, stopReq := true }
     s.dbgTarget 1 = some (hand s) ∧ (hand s).dbg = false ∧ (hand s).entering s.clk = true ∧ (hand s).stopReq = true) ∧
    (let s : State := { State.edit ready fun w => { w with dbg := true, budget := 32 } with regs := mSet 0 ready.regs dbgBuf 0x30000 }
     s.dbgTarget 1 = some (hand s) ∧ (hand s).dbg = true ∧ field (s.reg dbgBuf) 51 0 / 64 * 64 = 0x30000 ∧ s.xlate 1 none .w 0x30000 = .ok 0x30000) ∧
    (let s : State := { ready with regs := mSet 0 ready.regs (mgmt 4 (0x3000 + 32)) (BitVec.ofNat 64 (0x10000 + 1)) }
     s.eligible (hand s) = true ∧ s.breaks (hand s) = true ∧ ready.breaks (hand ready) = false) := by decide +kernel

/-- R371 and R367 by hand: a stop asked for in trap entry leaves DBGST 1; one at a boundary squashes the instruction whose translations are
being walked, and its record of kind 0x03 holds EXM. -/
theorem test_debug_stop : (match exec (.dbgStop 1) (State.edit ready fun w => { w with entry := true }),
      exec (.dbgStop 1) (State.edit ready fun w => { w with latch := some (.pageWalk 0x30000) }) with
    | .next t, .next u => decide (t.reg dbgSt = 1 ∧ (hand t).stopReq = true ∧ (hand t).dbg = false ∧ u.reg dbgSt = 2 ∧ (hand u).dbg = true ∧ (hand u).latch = none)
    | _, _ => false) = true := by decide +kernel

/-- R360 by hand: id 287 of die 3 is served by the die's first spare, built core 72 of its 80; with the last spare in use none is left. -/
theorem test_spare : (match exec (.sparereq 287) { ready with leavesLeft := 1 },
      exec (.sparereq 287) { ready with leavesLeft := 1, part := { ready.part with cores := [(216, 79)] } } with
    | .next t, .next u => decide (t.part.built 287 = 72 ∧ t.reg (mgmt 4 0x9000) = 0 ∧ t.leavesLeft = 0 ∧ u.reg (mgmt 4 0x9000) = 1 ∧ u.lost = [287] ∧
        u.leavesLeft = 1)
    | _, _ => false) = true := by decide +kernel

/-- A dump is at most 65,536 bytes for a wale of 256 registers. -/
theorem witness_dump_length : (hand (State.edit ready fun w => { w with budget := 32 })).dump.length ≤ 65536 := by
  unfold Wale.dump
  have h (n : Nat) (f : Nat → Nat) : ((List.range n).flatMap fun i => leBytes 4 (f i)).length = 4 * n := by
    induction n with
    | zero => rfl
    | succ n ih => simp [List.range_succ, List.flatMap_append, ih]; omega
  simp only [List.length_append, h, length_leBytes]
  decide +kernel

/-- BAR 4 shows context 1 from 0x30000 on; a peer's job is context 1's, or nobody's; the last byte of a page. -/
theorem witness_accesses_from_outside :
    (let s : State := { withRec ready (2 ^ 32 + 7 * 2 ^ 256) with regs := mSet 0 ready.regs 0x4000 (BitVec.ofNat 64 (2 ^ 57 + 0x30000)) }
     s.canonical = true ∧ s.absentHit = false ∧ s.boot ≠ .minimal ∧ s.boot ≠ .off ∧ ({ s with boot := .off } : State).boot = .off ∧ s.hostVa 0xFFFF = 0x3FFFF ∧ s.hostCtx = 1 ∧
       s.xlate 1 none .w 0x3FFFF = .ok 0x3FFFF ∧ s.xlate 1 none .r 0x3FFFF = .ok 0x3FFFF ∧ s.jobCtx 7 = some 1 ∧ s.jobCtx 8 = none ∧ s.jobCtx 0 = none ∧
       s.peerLoc 1 [.r, .w] 0x30000 = .ok 0x30000 ∧ locDevice 0x30000 = true ∧
       ({ s with mem := mPutRange s.mem 0x2000 (leBytes 8 0) } : State).peerLoc 1 [.r] 0x30000 = .bad .xlate) := by decide +kernel

/-! ### Witnesses: resharding, checkpoints, the rim, boot and power -/

/-- A rank-1 f32 destination of `n` elements at 0x30000 that every package of a mesh of `a` by `b` packages from 0 on holds whole. -/
def meshRec (n a b : Nat) : LRec := BitVec.ofNat 1024 ((record 0 .f32 n 0x30000).toNat +
  (7 * 2 ^ 37 + (a - 1) * 2 ^ 55 + (b - 1) * 2 ^ 69 + 2 ^ 127) * 2 ^ 672)

/-- An engine in a state with a plan of one transfer of one element from package `p`. -/
def slewing (st : SlewSt) (p : Nat) : State :=
  { stored .f32 with
    slew := { ready.slew with
      st := st, ctx := 1, current := p, dstRec := meshRec 1 1 1, srcRec := meshRec 1 1 1, plan := [⟨0, [0], [0], [0], [1]⟩] } }

/-- The plan of a destination that every package holds whole, from a source of one block. -/
theorem plan_whole (dst src : LRec) (p n m : Nat) (hd : ∀ k, shBox dst k = [(0, n)]) (hs : blocksOf src = [([(0, m)], [0])]) (hb : shBase (lShard src) = 0) :
    planOf dst src p = if (shRank (lShard dst) p).isNone ∨ min n m = 0 then [] else [⟨0, [0], [0], [0], [min n m]⟩] := by
  have hm : boxMeet [(0, n)] [(0, m)] = [(0, min n m)] := by simp [boxMeet]
  unfold planOf
  cases shRank (lShard dst) p with
  | none => simp
  | some k =>
    simp only [hd, hs, hb, List.filterMap_cons, List.filterMap_nil, hm]
    clear hd hs hb hm
    by_cases h : min n m = 0
    · rw [if_pos (Or.inr h), h]
      rfl
    · rw [if_neg (by simpa using h)]
      rw [if_neg (by simpa using h)]
      rfl

/-- Planning meets an empty plan for every package, and for a package of the mesh one of one transfer. -/
theorem witness_slew_plans :
    ((slewing .planning 0).canonical = true ∧ (slewing .planning 0).slew.st = .planning ∧ (slewing .planning 0).slew.mode = 0 ∧
      (slewing .planning 0).slew.cursor = 0 ∧ (slewing .planning 0).slew.ending = none ∧ (slewing .planning 0).progressReady = true ∧
      (slewing .planning 0).evFull 0 = false ∧
      ({ slewing .planning 0 with events := [(0, List.replicate 64 ⟨0, []⟩)] } : State).evFull 0 = true ∧
      (let s := slewing .planning 0
       ({ s with slew := { s.slew with stamp := [0, 3, 0, 0, 0] } } : State).progressReady = false)) ∧
    (slewing .idle 0).slew.st ≠ .planning ∧
    (∀ p, planOf (meshRec 0 16384 1) (meshRec 4 1 1) p = []) ∧
    (∀ p, p < 16384 → planOf (meshRec 4 16384 1) (meshRec 4 1 1) p = [⟨0, [0], [0], [0], [4]⟩]) := by
  have hb (r : LRec) (n k : Nat) (h : lExt r 0 = n) (hr : lRank r = 1) (hm : shMap (lShard r) 0 = 7) : shBox r k = [(0, n)] := by
    simp [shBox, hr, hm, h]
  have hs : blocksOf (meshRec 4 1 1) = [([(0, 4)], [0])] := by decide +kernel
  have h0 : shBase (lShard (meshRec 4 1 1)) = 0 := by decide +kernel
  refine ⟨by decide +kernel, by decide +kernel, fun p => ?_, fun p hp => ?_⟩
  · rw [plan_whole _ _ p 0 4 (fun k => hb _ 0 k (by decide +kernel) (by decide +kernel) (by decide +kernel)) hs h0]
    exact if_pos (Or.inr rfl)
  · have h1 : shBase (lShard (meshRec 4 16384 1)) = 0 := by decide +kernel
    have h2 : shCount (lShard (meshRec 4 16384 1)) = 16384 := by decide +kernel
    have hk : shRank (lShard (meshRec 4 16384 1)) p = some p := by
      unfold shRank
      rw [h1, h2, if_pos ⟨Nat.zero_le p, hp⟩]
      rfl
    rw [plan_whole _ _ p 4 4 (fun k => hb _ 4 k (by decide +kernel) (by decide +kernel) (by decide +kernel)) hs h0, hk, if_neg (by simp)]
    rfl

/-- A peer's location is no device's. -/
theorem peer_outside (p a : Nat) : locDevice (locPeer p a) = false := by
  unfold locDevice locPeer
  exact decide_eq_false (by omega)

/-- An element of f32 and one of q4 that the engine can move from a peer; a pulling engine whose transfer translates; a peer's failure. -/
theorem witness_slew_moves :
    ((slewing .pulling 0).canonical = true ∧ (slewing .pulling 0).slewDst 0x30000 = .ok 0x30000 ∧ lFmt (slewing .pulling 0).slew.dstRec ≠ .q4 ∧
      lFmt (record 0 .q4 1 0x30000) = .q4) ∧
    (slewing .pulling (Config.packageNo + 1)).slewSrc (0x60000 / 2) = .ok (locPeer (Config.packageNo + 1) 0x30000) ∧
    ((slewing .pulling 0).slew.st = .pulling ∧ (slewing .pulling 0).slew.transfer = some ⟨0, [0], [0], [0], [1]⟩ ∧
      (slewing .pulling 0).slew.ending = none ∧ (slewing .pulling 0).slew.choosing = false ∧ (slewing .pulling 0).badWords = [] ∧
      (slewing .pulling 0).progressReady = true ∧ (slewing .pulling 0).absentHit = false ∧ (slewing .pulling 0).slew.dead = false ∧ (slewing .pulling 0).slew.stalled = false ∧
      (slewing .pulling 0).slew.elements ⟨0, [0], [0], [0], [1]⟩ = [(0x30000, 0x60000, false)] ∧
      (slewing .pulling 0).engReady 0x30000 0 [] = true) ∧
    (slewing .pulling (Config.packageNo + 1)).slew.current ≠ Config.packageNo ∧
    (slewing .pulling (Config.packageNo + 1)).engReady (locPeer (Config.packageNo + 1) 0x30000) 0 [] = true ∧
    ((slewing .pulling 0).ctxValid 1 = true ∧ ({ slewing .pulling 0 with ctxStopped := [1] } : State).ctxValid 1 = false) := by
  refine ⟨by decide +kernel, ?_, by decide +kernel, Nat.succ_ne_self _, ?_, by decide +kernel⟩
  · have h : Config.packageNo + 1 ≠ Config.packageNo := Nat.succ_ne_self _
    exact if_neg h
  · unfold State.engReady
    rw [peer_outside]
    rfl

/-- R348 by hand: the second of two packages holds elements 3 and 4 of five under the block rule 0, and takes them from the first's copy of all five. -/
theorem test_plan : planOf (BitVec.ofNat 1024 ((record 0 .f32 5 0).toNat + (2 ^ 55 + 2 ^ 127) * 2 ^ 672)) (meshRec 5 1 1) 1 = [⟨0, [0], [3], [0], [2]⟩] := by
  decide +kernel

/-- A run with target 3 of a peer. -/
def ckpt0 : Ckpt := ⟨0x30000, 1, 1, 8, 0x40000, 5, 1, [], [], none⟩

/-- A target in a peer package takes every write. -/
theorem peer_target (s : State) (n va a : Nat) (bs : List Byte) : ∃ t, s.putTarget ckpt0 ⟨some (n, 0), va⟩ a bs = some t := by
  simp only [State.putTarget, State.targetLoc, List.foldl_cons, List.foldl_nil, Option.map_some]
  by_cases h1 : (bs.take (65536 - (va + a) % 65536)).isEmpty = true <;> by_cases h2 : (bs.drop (65536 - (va + a) % 65536)).isEmpty = true
  all_goals simp only [h1, h2, if_true, if_false, Bool.false_eq_true]
  all_goals exact ⟨_, rfl⟩

/-- Writing pieces one after another to it succeeds. -/
theorem peer_pieces (n va : Nat) (f : Nat → List Byte) (l : List Nat) (s : State) :
    ∃ t, l.foldl (fun (s? : Option State) i => s?.bind fun s => s.putTarget ckpt0 ⟨some (n, 0), va⟩ (64 + 65536 * i) (f i)) (some s) = some t := by
  induction l generalizing s with
  | nil => exact ⟨s, rfl⟩
  | cons i l ih =>
    obtain ⟨u, hu⟩ := peer_target s n va (64 + 65536 * i) (f i)
    simpa [hu] using ih u

/-- A run of ckpt0 whose table gives target 3 as package 3 over port 2. -/
def saving : State := { ready with ckpt := some ckpt0, mem := mPutRange ready.mem 0x40030 (leBytes 16 (2 * 2 ^ 66 + 3 * 2 ^ 52)) }

/-- A run in each of its cases: a target that takes its turn, one that is not enabled, a link that is down, a table that is not mapped, an image
that is written, and a target of this package that fails. -/
theorem witness_checkpoints :
    (let s := saving
     s.canonical = true ∧ s.ckpt = some ckpt0 ∧ ckpt0.ending = none ∧ ckpt0.sel.testBit 3 = true ∧ ckpt0.sel.testBit 0 = false ∧ ckpt0.mode ≠ 2 ∧
       (∀ d < 4, s.awake d = true) ∧ s.flushAllHeld = false ∧ s.targets ckpt0 = some [⟨some (3, 2), 0⟩] ∧
       [(⟨some (3, 2), 0⟩ : Target)].any s.targetDown = false ∧
       [(⟨some (3, 2), 0⟩ : Target)].any ({ s with links := [(2, { expect := 0, acked := 0, replays := 0, down := true })] } : State).targetDown = true ∧
       (s.engRecLoc ckpt0.bctx ckpt0.block .w).isSome = true ∧ s.evFull 5 = false ∧
       ({ s with events := [(5, List.replicate 64 ⟨0, []⟩)] } : State).evFull 5 = true) ∧
    ({ ready with mem := mPutRange ready.mem 0x2000 (leBytes 8 0) } : State).targets ckpt0 = none ∧
    (∀ s : State, s.dirtyGranules = [] → s.granules ckpt0 = []) ∧
    (∀ s : State, ∃ t, s.writeImage ckpt0 [⟨some (3, 0), 0x100000⟩] [] = some t) ∧
    (∀ s : State, s.targetLoc ckpt0 ⟨none, 0⟩ .w 0 = none → s.writeImage ckpt0 [⟨none, 0⟩] [] = none) ∧
    ({ ready with mem := mPutRange ready.mem 0x2000 (leBytes 8 0) } : State).targetLoc ckpt0 ⟨none, 0⟩ .w 0 = none := by
  refine ⟨by decide +kernel, by decide +kernel, fun s h => ?_, fun s => ?_, fun s h => ?_, by decide +kernel⟩
  · unfold State.granules State.readLate
    generalize allGranules = n
    simp [h, ckpt0]
  · obtain ⟨u, hu⟩ := peer_target s 3 0x100000 0 (ckptHeader 1 1)
    unfold State.writeImage
    generalize manifest [] = m
    obtain ⟨t, ht⟩ := peer_pieces 3 0x100000 (fun i => (m.drop (65536 * i)).take 65536) (List.range 19) u
    refine ⟨t, ?_⟩
    have hu' : s.putTarget ckpt0 ⟨some (3, 0), 0x100000⟩ 0 (ckptHeader [(⟨some (3, 0), 0x100000⟩ : Target)].length ckpt0.mode) = some u := hu
    rw [List.foldl_nil, List.foldl_cons, List.foldl_nil, Option.bind_some, hu', Option.bind_some]
    exact ht
  · have hn : s.putTarget ckpt0 ⟨none, 0⟩ 0 (ckptHeader [(⟨none, 0⟩ : Target)].length ckpt0.mode) = none := by
      unfold State.putTarget
      have he : ((ckptHeader [(⟨none, 0⟩ : Target)].length ckpt0.mode).take 65536).isEmpty = false := by decide +kernel
      have hl : s.targetLoc ckpt0 ⟨none, 0⟩ .w (0 + 0) = none := h
      simp only [List.foldl_cons, List.foldl_nil, Nat.zero_add, Nat.zero_mod, Nat.sub_zero, he, h, Bool.false_eq_true, if_false, Option.map_none]
    have hw : s.writeImage ckpt0 [⟨none, 0⟩] [] = (s.putTarget ckpt0 ⟨none, 0⟩ 0 (ckptHeader [(⟨none, 0⟩ : Target)].length ckpt0.mode)).bind fun s =>
        (List.range 19).foldl (fun s? i => s?.bind fun s =>
          s.putTarget ckpt0 ⟨none, 0⟩ (64 + 65536 * i) (((manifest []).drop (65536 * i)).take 65536)) (some s) := rfl
    rw [hw, hn]
    rfl

/-- Bytes in a row are read in parts. -/
theorem bytesAt_add (s : State) (l a b : Nat) : s.bytesAt l (a + b) = s.bytesAt l a ++ s.bytesAt (l + a) b := by
  simp [State.bytesAt, List.range_add, List.map_append, Nat.add_assoc, Function.comp_def]

/-- What a state's memory was given last is read. -/
theorem bytesAt_put {s : State} {m : NMap Byte} {l : Nat} {bs : List Byte} (h : s.mem = mPutRange m l bs) : s.bytesAt l bs.length = bs := by
  apply List.ext_getElem
  · simp [State.bytesAt]
  · intro i h1 h2
    simp [State.bytesAt, State.byteAt, h, mFind_mPutRange_in _ _ _ h2, h2]

/-- A range apart from it is read as before. -/
theorem bytesAt_put_out {s : State} {m : NMap Byte} {l a n : Nat} {bs : List Byte} (h : s.mem = mPutRange m l bs) (hm : mSorted m = true)
    (ha : a + n ≤ l) : s.bytesAt a n = ({ s with mem := m } : State).bytesAt a n := by
  apply List.map_congr_left
  intro i hi
  have hi' : i < n := List.mem_range.1 hi
  simp only [State.byteAt, h]
  rw [mFind_mPutRange_out _ _ hm (by omega)]

/-- With nothing dirty and no bad word, nothing is written back. -/
theorem flushAll_self (s : State) (hd : s.dirty = []) (hb : s.badWords = []) : s.flushAll = s := by
  have h1 (c : Nat) : s.flushCluster c = s := by
    cases s
    cases hd
    cases hb
    rfl
  unfold State.flushAll
  generalize List.range 36 = r
  induction r with
  | nil => rfl
  | cons a r ih => rw [List.foldl_cons, h1, ih]

/-- Target 3 of that table. -/
def target3 : Target := ⟨some (3, 2), 0⟩

/-- Bytes of a target of a peer. -/
theorem getTarget_peer (s : State) (c : Ckpt) {a n : Nat} (h : a + n < 2 ^ 52) : s.getTarget c target3 a n = some (s.bytesAt (locPeer 3 a) n) := by
  have hl (p : Perm) (b : Nat) (hb : b < 2 ^ 52) : s.targetLoc c target3 p b = some (locPeer 3 b) := by
    simp only [State.targetLoc, target3, addr52, Nat.zero_add, Nat.mod_eq_of_lt hb]
  unfold State.getTarget
  have ht : target3.va = 0 := rfl
  simp only [ht, Nat.zero_add]
  generalize hf : min n (65536 - a % 65536) = f
  have hfn : f ≤ n := by omega
  rw [hl _ _ (by omega), hl _ _ (by omega)]
  have e : locPeer 3 (a + f) = locPeer 3 a + f := by unfold locPeer; omega
  simp only [e]
  rw [← bytesAt_add, Nat.add_sub_cancel' hfn]

/-- A bit map of `8 (n + 1)` granules that lists granule 0 alone. -/
def bits0 (n : Nat) : List Byte := 1 :: List.replicate n 0

/-- The manifest of granule 0 alone. -/
def bitmap : List Byte := bits0 1180415

/-- Its length. -/
theorem length_bitmap : bitmap.length = 1180416 := by
  have h (n : Nat) : (bits0 n).length = n + 1 := by simp [bits0]
  exact h _

/-- It lists no other granule. -/
theorem bits0_other (n k : Nat) : ((bits0 n).getD ((k + 1) / 8) 0).getLsbD ((k + 1) % 8) = false := by
  unfold bits0
  by_cases h0 : (k + 1) / 8 = 0
  · have hk : k < 7 := by omega
    rw [h0, List.getD_cons_zero]
    clear h0
    interval_cases k <;> decide
  · obtain ⟨j, hj⟩ := Nat.exists_eq_succ_of_ne_zero h0
    rw [hj, List.getD_cons_succ]
    by_cases hj2 : j < n
    · simp [List.getD, hj2]
    · simp [List.getD, hj2]

/-- What it lists. -/
theorem listed_bitmap : listed bitmap = [0] := by
  have h : allGranules = 9443327 + 1 := rfl
  unfold listed
  rw [h, List.range_succ_eq_map, List.filter_cons_of_pos (by decide +kernel), List.filter_eq_nil_iff.2]
  intro x hx
  obtain ⟨k, -, rfl⟩ := List.mem_map.1 hx
  rw [bitmap, Nat.succ_eq_add_one, bits0_other]
  simp

/-- The manifest is read in 19 pieces. -/
theorem manifest_read {s : State} {m : NMap Byte} (c : Ckpt) (h : s.mem = mPutRange m (locPeer 3 64) bitmap) : s.readManifest c target3 = some bitmap := by
  have e := bytesAt_put h
  rw [length_bitmap] at e
  have hk : ∀ k ≤ 19, (List.range k).foldl (fun (acc : Option (List Byte)) i => acc.bind fun m =>
      (s.getTarget c target3 (64 + 65536 * i) (min 65536 (allGranules / 8 - 65536 * i))).map (m ++ ·)) (some []) =
      some (s.bytesAt (locPeer 3 64) (min (65536 * k) 1180416)) := by
    intro k
    induction k with
    | zero => intro _; rfl
    | succ k ih =>
      intro hk
      have ha : allGranules / 8 = 1180416 := rfl
      rw [List.range_succ, List.foldl_append, ih (by omega), ha, List.foldl_cons, List.foldl_nil, Option.bind_some, getTarget_peer _ _ (by omega), Option.map_some]
      have e1 : locPeer 3 (64 + 65536 * k) = locPeer 3 64 + min (65536 * k) 1180416 := by unfold locPeer; omega
      rewrite [e1, ← bytesAt_add]
      exact congrArg (fun n => some (s.bytesAt (locPeer 3 64) n)) (by omega)
  unfold State.readManifest
  rewrite [hk 19 (Nat.le_refl _), show min (65536 * 19) 1180416 = 1180416 from rfl, e]
  rfl

/-- The canonical form, with another canonical memory. -/
theorem canonical_mem {s : State} {m : NMap Byte} (hs : s.canonical = true) (hm : mSorted m = true) : ({ s with mem := m } : State).canonical = true := by
  simp only [State.canonical, State.memMaps, Bool.and_eq_true] at *
  exact ⟨⟨⟨⟨by simp_all, hs.1.1.1.2⟩, hs.1.1.2⟩, hs.1.2⟩, hs.2⟩

/-- Memory with an image at that target: its header and the manifest of granule 0. -/
def imageMem (x : Nat) : NMap Byte := mPutRange (mPutRange saving.mem (locPeer 3 0) (leBytes 64 x)) (locPeer 3 64) bitmap

/-- A restore from that target. -/
def ckpt2 : Ckpt := { ckpt0 with mode := 2 }

/-- The header of the package's image of one target, or another's. -/
def headerOf (own : Bool) : Nat := if own then idReg + 2 ^ 32 else 0

/-- A restore of such an image. -/
def restoring (own : Bool) : State := { saving with ckpt := some ckpt2, mem := imageMem (headerOf own) }

/-- A restore whose image is the package's, of granule 0, and one whose header says another package's. -/
theorem witness_restore (x : Bool) :
    (restoring x).canonical = true ∧ (restoring x).ckpt = some ckpt2 ∧ ckpt2.mode = 2 ∧ ckpt2.ending = none ∧ (∀ d < 4, (restoring x).awake d = true) ∧
    (restoring x).flushAllHeld = false ∧ (restoring x).targets ckpt2 = some [target3] ∧ [target3].any (restoring x).targetDown = false ∧
    [target3].head? = some target3 ∧ (∃ h, (restoring x).flushAll.getTarget ckpt2 target3 0 64 = some h ∧ leNat h = headerOf x) ∧
    (restoring x).flushAll.readManifest ckpt2 target3 = some bitmap ∧ listed bitmap = [0] ∧
    (∃ l bs, (restoring x).flushAll.granuleLoc 0 = some l ∧ (restoring x).flushAll.getTarget ckpt2 target3 0x130000 65536 = some bs) ∧
    (headerOf true % 2 ^ 32 = idReg ∧ headerOf true / 2 ^ 32 % 16 = [target3].length ∧ headerOf false % 2 ^ 32 ≠ idReg) := by
  have hf : (restoring x).flushAll = restoring x := flushAll_self _ rfl rfl
  have hm : mSorted saving.mem = true := by decide +kernel
  have hh : (restoring x).bytesAt (locPeer 3 0) 64 = leBytes 64 (headerOf x) := by
    rw [bytesAt_put_out (m := mPutRange saving.mem (locPeer 3 0) (leBytes 64 (headerOf x))) rfl (mSorted_mPutRange _ _ hm) (by decide +kernel)]
    have := bytesAt_put (s := { restoring x with mem := mPutRange saving.mem (locPeer 3 0) (leBytes 64 (headerOf x)) }) rfl
    rwa [length_leBytes] at this
  have hn : (restoring x).natAt 0x40030 16 = 2 * 2 ^ 66 + 3 * 2 ^ 52 := by
    have hs : ({ restoring x with mem := saving.mem } : State) = { saving with ckpt := some ckpt2 } := by simp only [restoring]
    have hb : ({ saving with ckpt := some ckpt2 } : State).bytesAt 0x40030 16 = leBytes 16 (2 * 2 ^ 66 + 3 * 2 ^ 52) := by decide +kernel
    unfold State.natAt
    rw [bytesAt_put_out (m := mPutRange saving.mem (locPeer 3 0) (leBytes 64 (headerOf x))) rfl (mSorted_mPutRange _ _ hm) (by decide +kernel),
      bytesAt_put_out (m := saving.mem) (l := locPeer 3 0) (bs := leBytes 64 (headerOf x)) rfl hm (by decide +kernel), hs, hb]
    decide +kernel
  have hx : ∀ b : Bool, leNat (leBytes 64 (headerOf b)) = headerOf b := by decide +kernel
  have hme : (restoring x).mem = mPutRange (mPutRange saving.mem (locPeer 3 0) (leBytes 64 (headerOf x))) (locPeer 3 64) bitmap := by simp only [restoring, imageMem]
  have hc0 : ({ saving with ckpt := some ckpt2 } : State).canonical = true := by decide +kernel
  have hc : (restoring x).canonical = true := by
    have h := canonical_mem (m := imageMem (headerOf x)) hc0 (mSorted_mPutRange _ _ (mSorted_mPutRange _ _ hm))
    simpa only [restoring] using h
  have hg : (restoring x).getTarget ckpt2 target3 0 64 = some (leBytes 64 (headerOf x)) := (getTarget_peer _ _ (by omega)).trans (congrArg some hh)
  have hd : (restoring x).getTarget ckpt2 target3 0x130000 65536 = some ((restoring x).bytesAt (locPeer 3 0x130000) 65536) :=
    getTarget_peer _ _ (by omega)
  have hl : (restoring x).granuleLoc 0 = some (locHbm 0) := by simp only [State.granuleLoc, Nat.mul_zero, show (0 : Nat) < hbmGranules from by decide +kernel, if_true]
  have hxl : ∀ b : Bool, (restoring b).xlate 1 none .r (addr52 (0x40000 + 16 * 3)) = .ok 0x40030 := by decide +kernel
  have ha : ∀ b : Bool, (∀ d < 4, (restoring b).awake d = true) ∧ (restoring b).flushAllHeld = false ∧ [target3].any (restoring b).targetDown = false := by
    decide +kernel
  have ht : (restoring x).targets ckpt2 = some [target3] := by
    have hxl : (restoring x).xlate 1 none .r (addr52 (0x40000 + 16 * 3)) = .ok 0x40030 := hxl x
    have hr : (List.range 9).filter (fun i => ckpt2.sel.testBit i) = [3] := by decide +kernel
    have hc : ckpt2.ctx = 1 ∧ ckpt2.ttab = 0x40000 := ⟨rfl, rfl⟩
    have hq : (if ((3 : Nat) = 0 ∧ field (BitVec.ofNat 128 (2 * 2 ^ 66 + 3 * 2 ^ 52)) 71 52 ≠ 0) ∨
        36 ≤ field (BitVec.ofNat 128 (2 * 2 ^ 66 + 3 * 2 ^ 52)) 71 66 then none
      else some (⟨if (3 : Nat) = 0 then none else some (field (BitVec.ofNat 128 (2 * 2 ^ 66 + 3 * 2 ^ 52)) 65 52,
        field (BitVec.ofNat 128 (2 * 2 ^ 66 + 3 * 2 ^ 52)) 71 66), field (BitVec.ofNat 128 (2 * 2 ^ 66 + 3 * 2 ^ 52)) 51 0⟩ : Target)) = some target3 := by
      decide +kernel
    unfold State.targets
    rw [hr, List.mapM_cons, List.mapM_nil]
    simp only [hc.1, hc.2, hxl, hn, hq]
    rfl
  rw [hf]
  exact ⟨hc, rfl, rfl, rfl, (ha x).1, (ha x).2.1, ht, (ha x).2.2, rfl, ⟨_, hg, hx x⟩,
    manifest_read _ hme, listed_bitmap, ⟨_, _, hl, hd⟩, by decide +kernel⟩

/-- An image of wale 1's store through L17. -/
def image1 : Image := { id := 20, wg := 2, wale := 1, lane := 0, ctx := 1, space := 0, va := 0x3000C, size := 4, val := 7, stamp := [], stalled := false, insn := 0, handle := 17 }

/-- An image that may be performed, one that a stalled one holds, and one whose home has not applied its stamp. -/
theorem witness_images :
    (let s : State := { ready with images := [image1] }
     s.canonical = true ∧ (s.images.find? fun x => x.id == 20) = some image1 ∧ s.imageHeld image1 = false ∧ s.badWords = [] ∧ s.imageLoc image1 = .ok 0x3000C ∧
       s.homeReady 0x3000C 0 image1.stamp = true ∧ s.homeReady 0x3000C 0 [0, 3, 0, 0, 0] = false ∧ s.dirty = []) ∧
    (let s : State := { ready with images := [{ image1 with id := 19, stalled := true }, image1] }
     s.imageHeld image1 = true) := by decide +kernel

/-- Every coordinate lies outside a record without elements, under zero mode. -/
theorem zeroRec_fit (a b : Nat) : fitCoords zeroRec [(a : Int), (b : Int)] = .zero := by
  have h1 : lRank zeroRec = 2 := by decide +kernel
  have h2 : lExts zeroRec = [0, 0] := by decide +kernel
  have h3 : lOob zeroRec = 2 := by decide +kernel
  simp [fitCoords, h1, h2, h3, List.range_succ]

/-- A fold log (L24) of one slot at 0x80000 whose step expects one entry; `tail` entries are published, the entry folding into L0. -/
def folding (tail : Nat) : State :=
  { withLayouts (stored .n32) [(0, zeroRec), (24, record 0 .n32 16512 0x80000)] with
    mem := mPutRange (mPutRange ready.mem 0x80000 (leBytes 36 (tail * 2 ^ 64 + 2 ^ 128 + 2 ^ 160))) 0x80100 (leBytes 24 0) }

/-- A merge whose one entry is published, its elements all dropped; and one that waits for its entry. -/
theorem witness_fold_merge :
    (let s := folding 1
     let log := s.layout 1 24
     let w (i : Nat) : Nat := s.logGet 0 1 log i
     s.ctxValid 1 = true ∧ lValid log = true ∧ lRank log = 1 ∧ lFmt log = .n32 ∧ lSpace log = 0 ∧ s.logDie 1 log = 0 ∧ s.foldMiss 0 1 log [0, 1, 2, 3, 4, 5, 6, 7, 8] = none ∧
       s.logWord 0 1 log .w 1 = .ok 0x80004 ∧ s.logWord 0 1 log .r 2 = .ok 0x80008 ∧ s.sectorSplit = false ∧ s.badWords = [] ∧ w 5 = 1 ∧ w 4 = 1 ∧ (w 2 + 2 ^ 32 - w 1) % 2 ^ 32 = 1 ∧
       w 6 / 4096 = 0 ∧ w 7 = 0 ∧ foldSort ((List.range (w 5)).map fun k => s.foldEnt 1 log ((w 1 + k) % 2 ^ 32 % w 4)) = [⟨0, 0, 0, 0, 0, 0, 0⟩]) ∧
    (∀ i j, (folding 1).foldDest 0 1 ⟨0, 0, 0, 0, 0, 0, 0⟩ i j = none) ∧
    (let s := folding 0
     let log := s.layout 1 24
     (s.logGet 0 1 log 2 + 2 ^ 32 - s.logGet 0 1 log 1) % 2 ^ 32 < s.logGet 0 1 log 5) := by
  refine ⟨by decide +kernel, fun i j => ?_, by decide +kernel⟩
  have h : (folding 1).layout 1 0 = zeroRec := by decide +kernel
  simp only [State.foldDest, h, zeroRec_fit]

/-- Die 1's ring of 256 records at 0x30000, `used` of them in use, with five records dropped. -/
def tracing (used : Nat) : State :=
  let r := mSet 0 (mSet 0 ready.regs (mgmt 1 0x1000) (BitVec.ofNat 64 (2 ^ 57 + 0x30000))) (mgmt 1 0x1008) 8
  { ready with regs := mSet 0 r (mgmt 1 0x1018) (BitVec.ofNat 64 used), psDropped := [(1, 5)] }

/-- A ring with space, one without, and one that dropped nothing. -/
theorem witness_drop_reports :
    ((tracing 255).canonical = true ∧ (tracing 255).absentHit = false ∧ mGet 0 (tracing 255).psDropped 1 = 5 ∧ (tracing 255).psUsed 1 < (tracing 255).psLen 1 ∧
      (tracing 255).xlate 1 none .w (addr52 (0x30000 + 32 * (255 % (tracing 255).psLen 1))) = .ok (0x30000 + 32 * 255)) ∧
    (tracing 256).psLen 1 ≤ (tracing 256).psUsed 1 ∧ mGet 0 ready.psDropped 1 = 0 := by decide +kernel

/-- R368 by hand: with space again, the report of the 5 drops precedes the next record. -/
theorem test_drop_report :
    (let u := (tracing 255).psiak 1 7
     let v := ({ tracing 250 with psDropped := [(1, 5)] } : State).psiak 1 7
     mGet 0 u.psDropped 1 = 1 ∧ (u.reg (mgmt 1 0x1018)).toNat = 256 ∧ mGet 0 v.psDropped 1 = 0 ∧ (v.reg (mgmt 1 0x1018)).toNat = 252) := by
  decide +kernel

/-- A signature of one level that R373 admits. -/
def signature1 : HssSig := { levels := [(.h10, .w8)], bytes := [1] }

/-- A package whose part record has no signature. -/
def unsigned : State := { State.reset with partSig := { levels := [], bytes := [] } }

/-- A package whose part record and firmware are so signed. -/
def signedUp : State := { State.reset with partSig := signature1, firmware := { body := [1], sig := signature1 } }

/-- The boot in each of its states, and a package that may lose power, trip and sign. Whether a signature that is admitted verifies is a free value,
so such a boot is in one of its cases. -/
theorem witness_boot_and_power :
    State.reset.boot = .reset ∧ State.reset.canonical = true ∧ ({ State.reset with bootCnt := 3 } : State).bootCnt = 3 ∧ ready.boot = .running ∧
    sigAdmitted State.reset.partSig = true ∧ sigAdmitted unsigned.partSig = false ∧ signFault 0 unsigned.part.bytes unsigned.partSig = 2 ∧
    unsigned.boot = .reset ∧ unsigned.canonical = true ∧ unsigned.bootCnt < 3 ∧
    (let s := signedUp
     let p := signFault 0 s.part.bytes s.partSig
     let g := signFault 1 s.firmware.body s.firmware.sig
     s.canonical = true ∧ s.boot = .reset ∧ s.bootCnt < 3 ∧ sigAdmitted s.partSig = true ∧ s.part.valid = true ∧
       ({ s.part with cores := [(0, 1)] } : PartRec).valid = false ∧
       (p = 1 ∨ p = 0 ∧ (g = 1 ∨ g = 0 ∧ (Config.headerBad s.firmware.body = true ∨ Config.headerBad s.firmware.body = false ∧
         (Config.selfTestFails s.firmware.body s.clk = true ∨ Config.selfTestFails s.firmware.body s.clk = false))))) ∧
    (let s : State := { State.reset with boot := .bringUp, clk := 6000000000 }
     s.canonical = true ∧ s.boot = .bringUp ∧ s.bootAt + 6000000000 ≤ s.clk ∧ ({ s with clk := 5999999999 } : State).clk < s.bootAt + 6000000000) ∧
    ({ State.reset with boot := .minimal } : State).boot = .minimal ∧
    (ready.leavesLeft = 0 ∧ ready.nextBlk < 2 ^ 20 ∧ 0 < ({ ready with leavesLeft := 1 } : State).leavesLeft ∧
      2 ^ 20 ≤ ({ ready with nextBlk := 2 ^ 20 } : State).nextBlk) := by
  have two (b : Bool) : b = true ∨ b = false := by cases b <;> simp
  have sig (k : Nat) (bs : List Byte) : signFault k bs signature1 = 1 ∨ signFault k bs signature1 = 0 := by
    have h : sigAdmitted signature1 = true := by decide +kernel
    unfold signFault
    rw [h]
    cases Config.hssValid k (sha256 bs) signature1.bytes <;> simp
  refine ⟨rfl, by decide +kernel, rfl, rfl, by decide +kernel, by decide +kernel, by decide +kernel, rfl, by decide +kernel, by decide +kernel,
    ⟨by decide +kernel, rfl, by decide +kernel, by decide +kernel, by decide +kernel, by decide +kernel, ?_⟩, by decide +kernel⟩
  exact (sig _ _).imp_right fun h => ⟨h, (sig _ _).imp_right fun h => ⟨h, (two _).imp_right fun h => ⟨h, two _⟩⟩⟩

/-- FIPS 180-4's example: the digest of "abc". -/
theorem test_sha256 : sha256 [0x61, 0x62, 0x63] =
    [0xBA, 0x78, 0x16, 0xBF, 0x8F, 0x01, 0xCF, 0xEA, 0x41, 0x41, 0x40, 0xDE, 0x5D, 0xAE, 0x22, 0x23,
     0xB0, 0x03, 0x61, 0xA3, 0x96, 0x17, 0x7A, 0x9C, 0xB4, 0x10, 0xFF, 0x61, 0xF2, 0x00, 0x15, 0xAD] := by decide +kernel

/-- An idle package without queues: dies 0 to 3 in a power state, idle since clk 0, at clk 24,000. -/
def sleepy (p : PState) : State :=
  { State.reset with
    boot := .running, clk := 24000, power := (List.range 4).map fun k => (k, p), idleSince := (List.range 4).map fun k => (k, 0)
    regs := ((List.range 256).map fun q => (0x100 + 16 * q, 2 ^ 63)) ++ State.reset.regs }

/-- A die that may go deeper, one that may not, a package that may sleep, and a die that is to wake. -/
theorem witness_power_states :
    ((sleepy .c1).canDescend 3 = true ∧ (mGet .p0 (sleepy .c1).power 3).below = some .c2) ∧ (sleepy .c2).canDescend 3 = false ∧
    (sleepy .c3).canSleep = true ∧ (sleepy .c3).canonical = true ∧
    (let s : State := { sleepy .c4 with wakeAt := [(3, 24000)] }
     s.canonical = true ∧ mGet .p0 s.power 3 = .c4 ∧ (mFind s.wakeAt 3).isSome = true ∧ s.awake 0 = false) ∧
    (mFind (sleepy .c1).wakeAt 3 = none ∧ (mFind ({ sleepy .c1 with wakeAt := [(3, 24000)] } : State).wakeAt 3).isSome = true) := by decide +kernel

/-- Issue that is withheld, and a turn that withholds it. -/
theorem witness_withheld :
    (let s : State := { ready with withheld := 5 }
     s.clk < s.withheld ∧ ready.selected.isSome = true ∧ s.selected.isNone = true) ∧
    (let s : State := { ready with agenda := [⟨0, .withhold 3⟩] }
     s.agenda = ⟨0, .withhold 3⟩ :: [] ∧ 0 ≤ s.clk) := by decide +kernel

/-- R370 and R381 by hand: a wale that could issue while issue is withheld counts for HIST(0), which counts by itself, and REASON(9). -/
theorem test_withheld :
    (let s : State := { ready with mem := mPutRange ready.mem 0x10000 (leBytes 8 0x6340000000000000) }
     let t := State.obsClk { s with withheld := 5 }
     mGet 0 t.obs (obsAt 0 0 (0x88 + 8 * 9)) = 1 ∧ mGet 0 t.obs (obsAt 0 0 8) = 0 ∧ mGet 0 s.obsClk.obs (obsAt 0 0 8) = 1) := by
  decide +kernel

/-! ### Witnesses: the step, memory and the invariants -/

/-- A wale before the words of an ADD and of a paired ADD. -/
def stepping (words : List Nat) : State :=
  ({ State.reset with boot := .running } : State).placedWale (words.flatMap (leBytes 8)) false

/-- The wale of that state. -/
def stepper (words : List Nat) : Wale := ((stepping words).wale? 1).getD nobody

/-- What a step asks of a state whose wale issues, as a check: what its word, and the next, decode to. -/
def issues (s : State) (paired : Bool) : Bool :=
  s.due.isNone && decide (s.internal = none) && (match s.selected with
    | none => false
    | some (w, u) =>
      let a : State := { u with cur := w.id }
      !w.stopReq && !a.breaks w && (match a.codeWord w w.pc 0, a.codeWord w (addr52 (w.pc + 8)) 3 with
        | .ok x, .ok y =>
          let ext : Option W64 := if paired then some y else none
          (wordPaired x == paired) && (!paired || !w.headerDue) && !w.misplaced x && decide (w.bankFault = none) && (match decodeWord x ext with
            | .ok i => kindAllows w.kind i
            | _ => false)
        | _, _ => false))

/-- A bank program has begun on rows of its own bank, and BAR 4 shows them. -/
def rowHeld : State :=
  { ready with
    regs := mSet 0 ready.regs 0x4000 (BitVec.ofNat 64 (2 ^ 57)), banks := [{ bank 9 .running with space := 1, unit := some (bankOf 0x40000), touched := true, pure := true }] }

/-- A step meets a wale that issues one word or two, an event, an engine stream and a bank program of the agenda, and a clk without
work. -/
theorem witness_step :
    (issues (stepping [0x2014003040500000]) false = true ∧ issues (stepping [0x2017003040500000, 0xE000007080900000]) true = true) ∧
    (let s : State := { ready with agenda := [⟨0, .event (.bootOk 1)⟩] }
     s.agenda = ⟨0, .event (.bootOk 1)⟩ :: [] ∧ 0 ≤ s.clk ∧ s.outside (.bootOk 1) ≠ (true, true)) ∧
    (let s : State := { rowHeld with agenda := [⟨0, .event (.hostBar4Write 0x40000 [1])⟩] }
     s.outside (.hostBar4Write 0x40000 [1]) = (true, true)) ∧
    (let u : State := { streamed with mem := mPutRange streamed.mem 0x10000 (leBytes 8 0x6340000000000000) }
     let w := { hand u with insnPc := 0x10000, pc := 0x10000, clause := some ⟨0x10000, ⟨0x805, 1, 15, 1, [7, 2, 0, 0, 0, 0, 0, 0], true⟩, 0⟩ }
     let s := u.putWale w
     s.wale? 3 = some w ∧ w.kind = .streamM ∧ w.atRdv = false ∧ w.life = .resident ∧ w.nextIssue ≤ s.clk ∧ s.ctxValid w.ctx = true ∧ w.stopReq = false ∧ s.withholds = false ∧
       (({ s with cur := 3 } : State).codeWord w w.pc 0).toOption = some 0x6340000000000000 ∧ w.headerDue = false ∧
       wordPaired 0x6340000000000000 = false ∧ (decodeWord 0x6340000000000000 none).toOption.isSome = true ∧ w.misplaced 0x6340000000000000 = false ∧
       w.bankFault = none) ∧
    (let s : State := { banking (bank 9 .running) with agenda := [⟨0, .bank 9⟩], mem := mPutRange ready.mem 0x10000 (leBytes 4 0x31940000) }
     s.bank? 9 = some (bank 9 .running) ∧ (bank 9 .running).st = .running ∧ (bank 9 .running).count < 2 ^ 20 ∧ (bank 9 .running).pc % 4 = 0 ∧
       (bank 9 .running).skipping = false ∧ s.xlateDie 0 1 none .x 0x10000 = .ok 0x10000 ∧
       decodeBank (BitVec.ofNat 32 (s.natAt 0x10000 4)) = some (.bfma 1 4 5 0)) ∧
    (let s := State.edit ready fun w => { w with nextIssue := 5 }
     s.due.isNone = true ∧ s.internal = none ∧ s.selected.isNone = true) := by decide +kernel

/-- R58 and R63 by hand: the step of a wale before a NOP moves it to the next word. -/
theorem test_step : (match step (stepping [0x6340000000000000]) with
    | .next t => decide ((t.wale? 1).map Wale.pc = some 0x10008)
    | _ => false) = true := by decide +kernel

/-- The invariants hold of a state at work. -/
theorem witness_invariants : Memory.wf (stored .f32).mem = true ∧ (stored .f32).canonical = true ∧ (∀ w ∈ ready.wales, w.id < ready.nextId) := by
  decide +kernel

end Sys2Proof.Tests
end

section
/-!
PROOF. What a number's write leaves in memory: its bytes in little-endian order (R4).
-/
namespace Sys2Proof.Machine

/-- Byte `i` of a number's little-endian bytes is its digit of weight `256 ^ i`. -/
theorem toNat_getD_leBytes {n i : Nat} (x : Nat) (hi : i < n) :
    ((leBytes n x).getD i 0).toNat = x / 256 ^ i % 256 := by
  induction n generalizing x i with
  | zero => exact absurd hi (Nat.not_lt_zero i)
  | succ n ih =>
    cases i with
    | zero => simp [leBytes]
    | succ i =>
      rw [leBytes, List.getD_cons_succ, ih _ (Nat.lt_of_succ_lt_succ hi), Nat.div_div_eq_div_mul, Nat.pow_succ']

/-- The bytes of a number written are read back. -/
theorem bytesAt_writeNat (s : State) (l n x : Nat) : (s.writeNat l n x).bytesAt l n = leBytes n x := by
  simpa [State.writeNat] using bytesAt_writeLoc s l (leBytes n x)

/-- A number written is read back, cut to the width of the write. -/
theorem natAt_writeNat (s : State) (l n x : Nat) : (s.writeNat l n x).natAt l n = x % 2 ^ (8 * n) := by
  rw [State.natAt, bytesAt_writeNat, leNat_leBytes]

/-- Each byte of a number written reads as the number's digit at its place. -/
theorem byteAt_writeNat_in (s : State) {l n i : Nat} (x : Nat) (hi : i < n) :
    ((s.writeNat l n x).byteAt (l + i)).toNat = x / 256 ^ i % 256 := by
  rw [State.writeNat, byteAt_writeLoc_in s l _ (by simpa using hi), toNat_getD_leBytes x hi]

/-- A byte clear of a number's write is read as before. -/
theorem byteAt_writeNat_out {s : State} {l n x a : Nat} (hs : Memory.wf s.mem = true) (ha : a < l ∨ l + n ≤ a) :
    (s.writeNat l n x).byteAt a = s.byteAt a :=
  byteAt_writeLoc_out hs (by simpa using ha)

/-- Settles O55: the bytes written read as the number's digits (R4), and bytes clear of the write are found as before, which
needs the canonical form that the write keeps. -/
theorem memoryReadsBack : Obligations.MemoryReadsBack := by
  unfold Obligations.MemoryReadsBack
  intro l n x s hs
  exact ⟨natAt_writeNat s l n x, fun _ hi => byteAt_writeNat_in s x hi, fun _ ha => byteAt_writeNat_out hs ha,
    writeNat_wf l n x hs, State.writeNat_wales s l n x, State.writeNat_regs s l n x, State.writeNat_clk s l n x⟩

end Sys2Proof.Machine
end

section
/-!
PROOF. Where a vector operation completes, idles or traps (O4).
-/
namespace Sys2Proof.Machine
open Claims

/-! ### The outcomes of a vector operation, one equation each -/

/-- A failed check of R99 traps. -/
theorem vector_check {s : State} {w : Wale} {g : G} {op : VOp} {r : TrapReq} (h : AtHand s w)
    (hc : s.vecCheck w g op = some r) : s.vector g op = .next (s.takeTrap w r) := by
  rw [State.vector, withCur_eq _ h, hc]

/-- An empty active set costs one issue clk (R17). -/
theorem vector_idle {s : State} {w : Wale} {g : G} {op : VOp} (h : AtHand s w) (hc : s.vecCheck w g op = none)
    (ha : w.active g.face = 0) : s.vector g op = .next (s.issued w 0) := by
  rw [State.vector, withCur_eq _ h, hc]
  simp [ha]

/-- A faulting beat traps at commit, without a result (R33). -/
theorem vector_fault {s : State} {w : Wale} {g : G} {op : VOp} {r : TrapReq} (h : AtHand s w)
    (hc : s.vecCheck w g op = none) (ha : w.active g.face ≠ 0)
    (ht : commitTrap (op.runAll w g s.clk).1 (s.enables w) (s.clk + op.occ) = some r) :
    s.vector g op = .next ((s.holdPipe w (s.clk + op.occ)).takeTrap w r) := by
  rw [State.vector, withCur_eq _ h, hc]
  simp only [beq_eq_false_iff_ne.2 ha, ht]
  rfl

/-- Otherwise the results are pending. -/
theorem vector_done {s : State} {w : Wale} {g : G} {op : VOp} (h : VecReady s w g op) :
    s.vector g op = .next (vecDone s w g op) := by
  obtain ⟨hcur, hc, ha, ht⟩ := h
  rw [State.vector, withCur_eq _ hcur, hc]
  simp only [beq_eq_false_iff_ne.2 ha, ht]
  rfl

/-- Each instruction of the table runs the vector operation that the table gives it. -/
theorem exec_vectorOps (g : G) (s : State) : ∀ p ∈ vectorOps g, exec p.1 s = s.vector g p.2 := by
  have h : (vectorOps g).map (fun p => exec p.1 s) = (vectorOps g).map fun p => s.vector g p.2 := rfl
  exact List.map_inj_left.1 h

/-- Settles O4: each instruction of the table is its vector operation, whose outcomes are those of R16, R17, R33 and R99. -/
theorem vectorOperations : Obligations.VectorOperations := by
  unfold Obligations.VectorOperations
  refine ⟨fun g s w p hp h => ?_, fun g s w p hp h => ?_⟩ <;> rw [exec_vectorOps g s p hp]
  · exact vector_done h
  · exact ⟨fun r => vector_check h, vector_idle h, fun r => vector_fault h⟩

end Sys2Proof.Machine
end

section
/-!
PROOF. The reads of the special registers and the values they give (O11).
-/
namespace Sys2Proof.Machine
open Claims

/-- SRD of a register that may be read where the wale stands is a vector operation (R114). -/
theorem execSrd_allowed {s : State} {w : Wale} {g : G} {c : Nat} (hg : g.fa.a = .lit c) (h : AtHand s w)
    (hc : 0x10 ≤ c → w.trap.isSome = true) : exec (.srd g) s = s.vector g (s.srdOp w) := by
  have ht : (srTrap (litOf g.fa.a) && w.trap.isNone) = false := by
    rw [hg, Bool.and_eq_false_imp]
    intro hs
    simpa using hc (of_decide_eq_true hs)
  change s.withCur _ = _
  rw [withCur_eq _ h, ht]
  rfl

/-- SRD and SRDS of a trap register outside a handler are PRIV (R114). -/
theorem execSrd_priv {s : State} {w : Wale} {g : G} {c : Nat} (hg : g.fa.a = .lit c) (h : AtHand s w) (hc : 0x10 ≤ c)
    (hw : w.trap = none) :
    exec (.srd g) s = s.raise w .priv (w.active g.face) ∧ exec (.srds g) s = s.raise w .priv (w.active g.face) := by
  have ht : (srTrap (litOf g.fa.a) && w.trap.isNone) = true := by simp [hg, litOf, srTrap, hc, hw]
  constructor <;>
  · change s.withCur _ = _
    rw [withCur_eq _ h, ht]
    rfl

/-- A word of an instruction as sr.tinsn shows it is its bits (R253). -/
theorem tinsn_word (d : W64) (n : Nat) : BitVec.ofNat 32 (d.toNat / 2 ^ n) = d.extractLsb' n 32 := by
  rw [BitVec.extractLsb', Nat.shiftRight_eq_div_pow]

/-- Settles O11: SRD by the wale's state, and each register by its definition. -/
theorem specialRegisters : Obligations.SpecialRegisters := by
  unfold Obligations.SpecialRegisters
  refine ⟨fun g s w c hg h => ⟨fun hc hr => ?_, execSrd_priv hg h⟩, fun s w t k f ht => ⟨?_, rfl, rfl, fun hf => ?_⟩⟩
  · rw [execSrd_allowed hg h hc, vector_done hr]
  · exact Nat.mod_eq_of_lt (by omega)
  · simp only [State.srWord, hf, tinsn_word, Nat.mul_zero, Nat.mul_one, Nat.pow_zero, Nat.div_one, implies_true, and_self]

end Sys2Proof.Machine
end

section
/-!
PROOF. The results of vector operations: what is pending, for which threads, and how it is read (O5).
-/
namespace Sys2Proof.Machine
open Claims

/-! ### Masks -/

/-- Setting bits by a sum of their powers sets exactly those bits. -/
theorem testBit_maskSum (p : Nat → Bool) (n : Nat) :
    (List.range n).foldl (fun m t => if p t then m + 2 ^ t else m) 0 < 2 ^ n ∧
    ∀ t < n, ((List.range n).foldl (fun m t => if p t then m + 2 ^ t else m) 0).testBit t = p t := by
  induction n with
  | zero => simp
  | succ n ih =>
    obtain ⟨hlt, hbit⟩ := ih
    rw [List.range_succ, List.foldl_append]
    simp only [List.foldl_cons, List.foldl_nil]
    generalize (List.range n).foldl (fun m t => if p t then m + 2 ^ t else m) 0 = m at hlt hbit ⊢
    cases hp : p n with
    | false =>
      refine ⟨by simp; omega, fun t ht => ?_⟩
      rcases Nat.lt_succ_iff_lt_or_eq.1 ht with ht | rfl
      · simpa using hbit t ht
      · simp [hp, Nat.testBit_lt_two_pow hlt]
    | true =>
      refine ⟨by simp; omega, fun t ht => ?_⟩
      rw [if_pos rfl, Nat.add_comm]
      rcases Nat.lt_succ_iff_lt_or_eq.1 ht with ht | rfl
      · rw [Nat.testBit_two_pow_add_gt ht, hbit t ht]
      · rw [Nat.testBit_two_pow_add_eq, Nat.testBit_lt_two_pow hlt, hp]; rfl

/-- Bit `t` of the mask of the threads that satisfy a predicate. -/
theorem getLsbD_maskOf (p : Nat → Bool) (t : Nat) : (maskOf p).getLsbD t = (decide (t < 32) && p t) := by
  rw [maskOf, BitVec.getLsbD_ofNat]
  by_cases ht : t < 32
  · rw [threads, (testBit_maskSum p 32).2 t ht]
  · simp [ht]

/-! ### Pending results -/

/-- Where each result that covers an element gives it one value, and there is such a result, that value is pending. -/
theorem pendingVal_eq {l : List InFlight} {f : RFile} {r t clk : Nat} {x : W32}
    (hx : ∀ e ∈ l, e.covers f r t clk = true → e.vals.getD t 0 = x) (he : ∃ e ∈ l, e.covers f r t clk = true) (l0 : List InFlight) :
    pendingVal (l0 ++ l) f r t clk = some x := by
  induction l using List.reverseRecOn with
  | nil => simp at he
  | append_singleton l e ih =>
    rw [← List.append_assoc, pendingVal, List.foldl_append]
    simp only [List.foldl_cons, List.foldl_nil]
    split
    · rename_i hc
      rw [hx e (by simp) hc]
    · rename_i hc
      refine ih (fun e' h' => hx e' (by simp [h'])) ?_
      obtain ⟨e', h', hc'⟩ := he
      rcases List.mem_append.1 h' with h' | h'
      · exact ⟨e', h', hc'⟩
      · rw [List.mem_singleton.1 h'] at hc'
        exact absurd hc' hc

/-- Results that do not cover an element leave what is pending. -/
theorem pendingVal_append_of_not_covers {l : List InFlight} {f : RFile} {r t clk : Nat}
    (h : ∀ e ∈ l, e.covers f r t clk = false) (l0 : List InFlight) : pendingVal (l0 ++ l) f r t clk = pendingVal l0 f r t clk := by
  rw [pendingVal, List.foldl_append]
  induction l with
  | nil => rfl
  | cons e l ih =>
    rw [List.foldl_cons, h e (by simp)]
    exact ih fun e' h' => h e' (by simp [h'])

/-! ### The destinations of a vector operation -/

/-- The threads of the faces are the active ones, each with its own operands (R151). -/
theorem mem_faces_iff {w : Wale} {g : G} {t : Nat} (ht : t < 32) {P : Opnds → Prop} :
    (∃ f ∈ w.faces g, f.2.getLsbD t = true ∧ P f.1) ↔ (w.active g.face).getLsbD t = true ∧ P (w.opnds g t) := by
  unfold Wale.faces Wale.opnds
  cases g.fb with
  | none => simp
  | some fb => cases hb : w.usesB t <;> simp [getLsbD_maskOf, ht, hb, -BitVec.getLsbD_eq_getElem]

/-- Thread `t` writes base register `r`: it is active and its destination names it. -/
def Writes (w : Wale) (g : G) (c t r : Nat) : Prop :=
  t < 32 ∧ (w.active g.face).getLsbD t = true ∧ w.dstReg (w.opnds g t).d t c = some r

/-- The registers that each thread writes, as a destination's list gives them. -/
theorem mem_eachDest_iff {w : Wale} {g : G} {c t r : Nat} :
    (r, t) ∈ ((w.faces g).flatMap fun f => (threads.filter fun t => f.2.getLsbD t).filterMap fun t =>
      (w.dstReg f.1.d t c).map fun r => (r, t)) ↔ Writes w g c t r := by
  have h : (r, t) ∈ ((w.faces g).flatMap fun f => (threads.filter fun t => f.2.getLsbD t).filterMap fun t =>
      (w.dstReg f.1.d t c).map fun r => (r, t)) ↔
      t < 32 ∧ ∃ f ∈ w.faces g, f.2.getLsbD t = true ∧ w.dstReg f.1.d t c = some r := by
    simp only [List.mem_flatMap, List.mem_filterMap, List.mem_filter, threads, List.mem_range, Option.map_eq_some_iff]
    constructor
    · rintro ⟨f, hf, t', ⟨ht, hm⟩, r', hr, heq⟩
      cases heq
      exact ⟨ht, f, hf, hm, hr⟩
    · rintro ⟨ht, f, hf, hm, hr⟩
      exact ⟨f, hf, t, ⟨ht, hm⟩, r, hr, rfl⟩
  rw [h, Writes]
  exact and_congr_right fun ht => mem_faces_iff (P := fun o => w.dstReg o.d t c = some r) ht

/-- A destination is a register that some thread writes, with the mask of the threads that write it. -/
theorem mem_dests {w : Wale} {g : G} {c : Nat} {d : Nat × Mask} (h : d ∈ w.dests (w.faces g) c) :
    (∃ t, Writes w g c t d.1) ∧ ∀ t, d.2.getLsbD t = true ↔ Writes w g c t d.1 := by
  unfold Wale.dests at h
  obtain ⟨r, hr, rfl⟩ := List.mem_map.1 h
  refine ⟨?_, fun t => ?_⟩
  · obtain ⟨⟨r', t⟩, hm, rfl⟩ := List.mem_map.1 (List.mem_eraseDups.1 hr)
    exact ⟨t, mem_eachDest_iff.1 hm⟩
  · rw [getLsbD_maskOf, Bool.and_eq_true, decide_eq_true_eq, List.contains_iff_mem]
    exact (and_congr_right fun _ => mem_eachDest_iff).trans (and_iff_right_of_imp fun hw => hw.1)

/-- Each register that a thread writes is a destination. -/
theorem mem_dests_of_writes {w : Wale} {g : G} {c t r : Nat} (h : Writes w g c t r) : ∃ m, (r, m) ∈ w.dests (w.faces g) c := by
  refine ⟨_, List.mem_map.2 ⟨r, List.mem_eraseDups.2 (List.mem_map.2 ⟨(r, t), mem_eachDest_iff.2 h, rfl⟩), rfl⟩⟩

/-! ### The pending results of a vector operation -/

/-- The result that an operation leaves pending for register `j` of a destination. -/
def VOp.result (op : VOp) (w : Wale) (rs : List (Nat × ERes)) (c j : Nat) (d : Nat × Mask) : InFlight :=
  mkFlight w op.file (d.1 + j) d.2 (threads.map fun t => resWord rs t j) c op.lat op.occ (op.occ / 4)

/-- The pending results are a result for each register of each destination, and with it, in the vector file, its tag. -/
theorem mem_flights {op : VOp} {w : Wale} {g : G} {rs : List (Nat × ERes)} {c : Nat} {e : InFlight} :
    e ∈ op.flights w g rs c ↔ ∃ d ∈ w.dests (w.faces g) c, ∃ j < op.outs,
      e = op.result w rs c j d ∨ (op.file = .v ∧ e = tagFlight w (d.1 + j) op.tag c op.occ) := by
  have hif (x : InFlight) : (e ∈ if (op.file == .v) = true then [x] else []) ↔ op.file = .v ∧ e = x := by
    by_cases hv : op.file = .v <;> simp [hv]
  simp only [VOp.flights, List.mem_flatMap, List.mem_range, List.mem_cons, hif, VOp.result]

/-- What is pending of an operation's own file are its results; a result covers the elements of the threads that write it. -/
theorem result_covers_iff {op : VOp} {w : Wale} {g : G} {rs : List (Nat × ERes)} {c j f r t clk} {d : Nat × Mask}
    (hd : d ∈ w.dests (w.faces g) c) : (op.result w rs c j d).covers f r t clk = true ↔
      op.file = f ∧ d.1 + j = r ∧ Writes w g c t d.1 ∧ c + op.lat - op.occ + 4 + op.occ / 4 * (t / 8) ≤ clk := by
  simp [InFlight.covers, VOp.result, mkFlight, (mem_dests hd).2 t, and_assoc, -BitVec.getLsbD_eq_getElem]
  exact fun _ _ _ => decide_eq_true_iff

/-- A tag write covers the tag of its register, from `clk + O` on. -/
theorem tagFlight_covers_iff {w : Wale} {r' : Nat} {ty : Ty} {c occ f r t clk} :
    (tagFlight w r' ty c occ).covers f r t clk = true ↔ .tag = f ∧ r' = r ∧ t = 0 ∧ c + occ ≤ clk := by
  simp [InFlight.covers, tagFlight, and_assoc, -BitVec.getLsbD_eq_getElem]

/-- The word of a thread in a result. -/
theorem result_val {op : VOp} {w : Wale} {rs : List (Nat × ERes)} {c j t : Nat} {d : Nat × Mask} (ht : t < 32) :
    (op.result w rs c j d).vals.getD t 0 = resWord rs t j := by
  simp [VOp.result, mkFlight, threads, ht]

/-- An element that a thread writes has the word that the operation yields pending, from its clk on (R28). -/
theorem pendingVal_flights {op : VOp} {w : Wale} {g : G} {rs : List (Nat × ERes)} {c t j r clk : Nat} (hf : op.file ≠ .tag)
    (hw : Writes w g c t r) (hj : j < op.outs) (hc : c + op.lat - op.occ + 4 + op.occ / 4 * (t / 8) ≤ clk)
    (l0 : List InFlight) : pendingVal (l0 ++ op.flights w g rs c) op.file (r + j) t clk = some (resWord rs t j) := by
  refine pendingVal_eq (fun e he hcov => ?_) ?_ l0
  · obtain ⟨d, hd, i, _, rfl | ⟨_, rfl⟩⟩ := mem_flights.1 he
    · obtain ⟨_, hi, hwd, _⟩ := (result_covers_iff hd).1 hcov
      have hr : d.1 = r := Option.some.inj (hwd.2.2.symm.trans hw.2.2)
      rw [result_val hw.1, show i = j by omega]
    · exact absurd (tagFlight_covers_iff.1 hcov).1.symm hf
  · obtain ⟨m, hm⟩ := mem_dests_of_writes hw
    exact ⟨_, mem_flights.2 ⟨(r, m), hm, j, hj, .inl rfl⟩, (result_covers_iff hm).2 ⟨rfl, rfl, hw, hc⟩⟩

/-- The tag of a vector register that a thread writes is pending, from `clk + O` on (R100). -/
theorem pendingVal_flights_tag {op : VOp} {w : Wale} {g : G} {rs : List (Nat × ERes)} {c t j r clk : Nat} (hf : op.file = .v)
    (hw : Writes w g c t r) (hj : j < op.outs) (hc : c + op.occ ≤ clk) (l0 : List InFlight) :
    pendingVal (l0 ++ op.flights w g rs c) .tag (r + j) 0 clk = some (BitVec.ofNat 32 op.tag.code) := by
  refine pendingVal_eq (fun e he hcov => ?_) ?_ l0
  · obtain ⟨d, hd, i, _, rfl | ⟨_, rfl⟩⟩ := mem_flights.1 he
    · exact absurd (hf.symm.trans ((result_covers_iff hd).1 hcov).1) (by decide)
    · rfl
  · obtain ⟨m, hm⟩ := mem_dests_of_writes hw
    exact ⟨_, mem_flights.2 ⟨(r, m), hm, j, hj, .inr ⟨hf, rfl⟩⟩, tagFlight_covers_iff.2 ⟨rfl, rfl, rfl, hc⟩⟩

/-- An element that no thread writes, or that is read before its clk, has nothing new pending. -/
theorem pendingVal_flights_other {op : VOp} {w : Wale} {g : G} {rs : List (Nat × ERes)} {c r t clk : Nat} {f : RFile}
    (hf : f ≠ .tag) (h : op.file = f → ∀ b j, Writes w g c t b → j < op.outs → r = b + j →
      clk < c + op.lat - op.occ + 4 + op.occ / 4 * (t / 8)) (l0 : List InFlight) :
    pendingVal (l0 ++ op.flights w g rs c) f r t clk = pendingVal l0 f r t clk := by
  refine pendingVal_append_of_not_covers (fun e he => Bool.eq_false_iff.2 fun hcov => ?_) l0
  obtain ⟨d, hd, i, hi, rfl | ⟨_, rfl⟩⟩ := mem_flights.1 he
  · obtain ⟨hof, hr, hw, hc⟩ := (result_covers_iff hd).1 hcov
    exact absurd hc (Nat.not_le.2 (h hof _ _ hw hi hr.symm))
  · exact hf (tagFlight_covers_iff.1 hcov).1.symm

/-- A tag whose register no thread writes has nothing new pending. -/
theorem pendingVal_flights_tag_other {op : VOp} {w : Wale} {g : G} {rs : List (Nat × ERes)} {c r clk : Nat} (hf : op.file ≠ .tag)
    (h : op.file = .v → ∀ t b j, Writes w g c t b → j < op.outs → r ≠ b + j) (l0 : List InFlight) :
    pendingVal (l0 ++ op.flights w g rs c) .tag r 0 clk = pendingVal l0 .tag r 0 clk := by
  refine pendingVal_append_of_not_covers (fun e he => Bool.eq_false_iff.2 fun hcov => ?_) l0
  obtain ⟨d, hd, i, hi, rfl | ⟨hv, rfl⟩⟩ := mem_flights.1 he
  · exact hf ((result_covers_iff hd).1 hcov).1
  · obtain ⟨t, ht⟩ := (mem_dests hd).1
    exact h hv t d.1 i ht hi (tagFlight_covers_iff.1 hcov).2.1.symm

/-! ### Reading a register with pending results -/

section Reads
variable {w v : Wale} {r t clk : Nat} {x : W32}

theorem vAt_of_pending (h : pendingVal w.inflight .v r t clk = some x) : w.vAt r t clk = x := by simp [Wale.vAt, h]

theorem qAt_of_pending (h : pendingVal w.inflight .q r t clk = some x) : w.qAt r t clk = (x != 0) := by simp [Wale.qAt, h]

theorem xAt_of_pending (h : pendingVal w.inflight .x r t clk = some x) : w.xAt r t clk = x.toNat % 256 := by simp [Wale.xAt, h]

theorem tagAt_of_pending {ty : Ty} (h : pendingVal w.inflight .tag r 0 clk = some (BitVec.ofNat 32 ty.code)) :
    w.tagAt r clk = ty := by
  simp only [Wale.tagAt, h]
  cases ty <;> rfl

theorem vAt_congr (hv : v.v = w.v) (h : pendingVal v.inflight .v r t clk = pendingVal w.inflight .v r t clk) :
    v.vAt r t clk = w.vAt r t clk := by rw [Wale.vAt, Wale.vAt, h, hv]

theorem sAt_congr (hv : v.s = w.s) (h : pendingVal v.inflight .s r 0 clk = pendingVal w.inflight .s r 0 clk) :
    v.sAt r clk = w.sAt r clk := by rw [Wale.sAt, Wale.sAt, h, hv]

theorem qAt_congr (hv : v.q = w.q) (h : pendingVal v.inflight .q r t clk = pendingVal w.inflight .q r t clk) :
    v.qAt r t clk = w.qAt r t clk := by rw [Wale.qAt, Wale.qAt, h, hv]

theorem xAt_congr (hv : v.x = w.x) (h : pendingVal v.inflight .x r t clk = pendingVal w.inflight .x r t clk) :
    v.xAt r t clk = w.xAt r t clk := by rw [Wale.xAt, Wale.xAt, h, hv]

theorem tagAt_congr (hv : v.tags = w.tags) (h : pendingVal v.inflight .tag r 0 clk = pendingVal w.inflight .tag r 0 clk) :
    v.tagAt r clk = w.tagAt r clk := by rw [Wale.tagAt, Wale.tagAt, h, hv]

end Reads

/-! ### The state after a vector operation -/

/-- The wale after a vector operation has executed: past its instruction, with its results pending. -/
def Wale.afterVec (w : Wale) (s : State) (g : G) (op : VOp) : Wale :=
  ({ w with seeds := (op.runAll w g s.clk).2
            inflight := w.inflight ++ op.flights w g (op.runAll w g s.clk).1 s.clk } : Wale).advance s.clk 0

/-- It is the wale at hand. -/
theorem wale?_vecDone {s : State} {w : Wale} {g : G} {op : VOp} (h : AtHand s w) :
    (vecDone s w g op).wale? s.cur = some (w.afterVec s g op) := by
  have hid : w.id = s.cur := wale?_id h
  have hw : s.wale? w.id = some w := by rw [hid]; exact h
  rw [← hid]
  exact wale?_issueWith (w := { w with seeds := (op.runAll w g s.clk).2 }) _ op.occ 0 hw

/-- Beside it, only its pipe and its pipe's counters change. -/
theorem onlyWale_issueWith {s : State} {w : Wale} (hid : w.id = s.cur) (l : List InFlight) (o b : Nat) :
    OnlyWale s (s.issueWith w l o b) := by
  unfold OnlyWale
  refine ⟨fun l => ?_, ?_⟩
  · simp [State.byteAt]
  · simp only [State.issueWith_mem, State.issueWith_regs, State.issueWith_ctxRecs, State.issueWith_wgs, State.issueWith_reqs,
      State.issueWith_near, State.issueWith_layouts, State.issueWith_locks, State.issueWith_events, State.issueWith_faultRing,
      State.issueWith_faultTail, State.issueWith_faultHead, State.issueWith_banks, State.issueWith_images, State.issueWith_clk,
      State.issueWith_ctxStopped, true_and]
    rw [← hid, State.issueWith_wales]
    exact putWale_others s (({ w with inflight := w.inflight ++ l } : Wale).advance s.clk b)

/-- A vector operation changes its wale and the pipe alone. -/
theorem onlyWale_vecDone {s : State} {w : Wale} {g : G} {op : VOp} (h : AtHand s w) : OnlyWale s (vecDone s w g op) :=
  have hid : w.id = s.cur := wale?_id h
  onlyWale_issueWith (w := { w with seeds := (op.runAll w g s.clk).2 }) hid _ _ _

/-- Settles O5: what each register reads is decided by the results that the operation leaves pending. -/
theorem vectorResults : Obligations.VectorResults := by
  unfold Obligations.VectorResults
  refine ⟨fun g s w op t j r clk h ht hj ha hd hc => ?_, fun g s w op h hs htag => ?_,
    fun g s w op t j r clk h ht hj hv ha hd hc => ?_⟩
  · refine ⟨_, wale?_vecDone h, fun hf => ?_, fun hf => ?_, fun hf => ?_⟩
    · exact vAt_of_pending (hf ▸ pendingVal_flights (by simp [hf]) ⟨ht, ha, hd⟩ hj hc w.inflight)
    · exact qAt_of_pending (hf ▸ pendingVal_flights (by simp [hf]) ⟨ht, ha, hd⟩ hj hc w.inflight)
    · exact xAt_of_pending (hf ▸ pendingVal_flights (by simp [hf]) ⟨ht, ha, hd⟩ hj hc w.inflight)
  · refine ⟨onlyWale_vecDone h, _, wale?_vecDone h, ⟨rfl, rfl, rfl, rfl, rfl, rfl, rfl, rfl, rfl, rfl, rfl⟩,
      ⟨rfl, rfl, rfl⟩, rfl, rfl, rfl, rfl, rfl, ?_, ?_, ?_, ?_, ?_⟩
    · exact fun n clk => sAt_congr rfl (pendingVal_flights_other (by decide) (fun hf => absurd hf hs) w.inflight)
    · exact fun r t clk hr => vAt_congr rfl (pendingVal_flights_other (by decide)
        (fun hf b j hw hj hrb => hr hw.2.1 hf b j hw.2.2 hj hrb) w.inflight)
    · exact fun r clk hr => tagAt_congr rfl (pendingVal_flights_tag_other htag
        (fun hf t b j hw hj => hr hf t b j hw.2.1 hw.2.2 hj) w.inflight)
    · exact fun hq r t clk => qAt_congr rfl (pendingVal_flights_other (by decide) (fun hf => absurd hf hq) w.inflight)
    · exact fun hx r t clk => xAt_congr rfl (pendingVal_flights_other (by decide) (fun hf => absurd hf hx) w.inflight)
  · exact ⟨_, wale?_vecDone h, tagAt_of_pending (pendingVal_flights_tag hv ⟨ht, ha, hd⟩ hj hc w.inflight)⟩

end Sys2Proof.Machine
end

section
/-!
PROOF. Headers, staging, trap entry and ageing (O22).
-/
namespace Sys2Proof.Machine
open Claims

/-! ### Replacing the wale at hand -/

/-- Replacing the wale at hand changes nothing else. -/
theorem onlyWale_putWale {s : State} {w : Wale} (hid : w.id = s.cur) : OnlyWale s (s.putWale w) :=
  ⟨fun _ => rfl, rfl, rfl, rfl, rfl, rfl, rfl, rfl, rfl, rfl, rfl, rfl, rfl, rfl, rfl, rfl, rfl, hid ▸ putWale_others s w⟩

/-- The wale put for the wale at hand is found there. -/
theorem wale?_putWale_cur {s : State} {w v : Wale} (h : AtHand s w) (hv : v.id = w.id) : (s.putWale v).wale? s.cur = some v := by
  have hid : w.id = s.cur := wale?_id h
  have hw : s.wale? v.id = some w := by rw [hv, hid]; exact h
  have hp := wale?_putWale_self hw
  rwa [hv, hid] at hp

/-- An instruction whose outcome is to replace the wale at hand goes to that state. -/
theorem goes_putWale {i : Instr} {s : State} {w v : Wale} {P : State → Wale → Prop} (h : AtHand s w)
    (he : exec i s = .next (s.putWale v)) (hv : v.id = w.id) (hP : OnlyWale s (s.putWale v) → P (s.putWale v) v) : Goes i s P :=
  ⟨_, v, he, wale?_putWale_cur h hv, hP (onlyWale_putWale (hv.trans (wale?_id h)))⟩

/-! ### Headers -/

/-- A wale's interval header whose ranges lie in the budget requests its working set (R21). -/
theorem execIntervalHeader_wale {s : State} {w : Wale} {h : IntervalHdr} (hw : AtHand s w) (hk : w.kind = .wale)
    (hr : w.rangesOk h = true) : exec (.intervalHeader h) s =
      .next (s.putWale { w.request h w.pc s.clk with pc := addr52 (w.pc + 8), clause := none, held := none }) := by
  change s.withCur _ = _
  rw [withCur_eq _ hw]
  simp [WaleKind.bare, hk, hr]

/-- Without vector registers an interval header with empty ranges stages nothing (R207). -/
theorem execIntervalHeader_bare {s : State} {w : Wale} {h : IntervalHdr} (hw : AtHand s w) (hk : w.kind ≠ .wale)
    (hc : intervalCount h = 0) : exec (.intervalHeader h) s = .next (s.putWale
      { w.request h w.pc s.clk with pc := addr52 (w.pc + 8), clause := none, held := none, staging := .done }) := by
  change s.withCur _ = _
  rw [withCur_eq _ hw]
  simp [WaleKind.bare, hk, hc]

/-- An interval header past the budget, or with a register where there is none, is ILLEGAL_HDR (R21, R207). -/
theorem execIntervalHeader_illegal {s : State} {w : Wale} {h : IntervalHdr} (hw : AtHand s w)
    (hb : w.kind ≠ .wale ∧ intervalCount h ≠ 0 ∨ w.kind = .wale ∧ w.rangesOk h = false) :
    exec (.intervalHeader h) s = .next (s.takeTrap w { cause := .illegalHdr, lanes := w.exm, hdr := true }) := by
  change s.withCur _ = _
  rw [withCur_eq _ hw]
  rcases hb with ⟨hk, hc⟩ | ⟨hk, hr⟩
  · simp [WaleKind.bare, hk, hc]
  · simp [WaleKind.bare, hk, hr]

/-- A wale waits on a mask while some flag of it is not clear (R32). -/
theorem waiting_iff {w : Wale} {mask : Nat} : w.waiting mask = true ↔ ∃ k < 12, mask.testBit k = true ∧ w.flag k ≠ 0 := by
  simp [Wale.waiting, Nat.testBit_eq_decide_div_mod_eq]

/-- A clause header whose flags are clear starts its clause (R63). -/
theorem execClauseHeader_starts {s : State} {w : Wale} {h : ClauseHdr} (hw : AtHand s w) (hf : w.waiting h.wait = false) :
    exec (.clauseHeader h) s =
      .next (s.putWale { w with clause := some ⟨w.pc, h, 0⟩, pc := addr52 (w.pc + 8), held := none }) := by
  change s.withCur _ = _
  rw [withCur_eq _ hw, hf]
  rfl

/-- A clause header with a flag that is not clear holds the wale (R32, R63). -/
theorem execClauseHeader_waits {s : State} {w : Wale} {h : ClauseHdr} (hw : AtHand s w) (hf : w.waiting h.wait = true) :
    exec (.clauseHeader h) s = .next (s.hold w .flagWait true) := by
  change s.withCur _ = _
  rw [withCur_eq _ hw, hf]
  rfl

/-- What a header does to its wale. -/
theorem headersComplete : HeadersComplete := by
  intro s w hw
  refine ⟨fun h hk hr => ?_, fun h hk hc => ?_, fun h hk hc => execIntervalHeader_illegal hw (.inl ⟨hk, hc⟩),
    fun h hk hr => execIntervalHeader_illegal hw (.inr ⟨hk, hr⟩), fun h hf => ?_, fun h k hk hb hf => ?_⟩
  · exact goes_putWale hw (execIntervalHeader_wale hw hk hr) rfl fun ho =>
      ⟨rfl, rfl, rfl, rfl, rfl, rfl, rfl, rfl, rfl, ⟨rfl, rfl, rfl, rfl, rfl, rfl, rfl⟩, ho⟩
  · exact goes_putWale hw (execIntervalHeader_bare hw hk hc) rfl fun ho =>
      ⟨rfl, rfl, rfl, rfl, rfl, rfl, ⟨rfl, rfl, rfl, rfl, rfl, rfl, rfl⟩, ho⟩
  · have hn : w.waiting h.wait = false := Bool.eq_false_iff.2 fun hwt =>
      have ⟨k, hk, hb, hne⟩ := waiting_iff.1 hwt
      hne (hf k hk hb)
    exact goes_putWale hw (execClauseHeader_starts hw hn) rfl fun ho =>
      ⟨rfl, rfl, ⟨rfl, rfl, rfl, rfl, rfl, rfl, rfl, rfl, rfl, rfl, rfl⟩, ⟨rfl, rfl, rfl, rfl, rfl, rfl, rfl⟩, ho⟩
  · exact goes_putWale hw (execClauseHeader_waits hw (waiting_iff.2 ⟨k, hk, hb, hf⟩)) rfl fun ho =>
      ⟨rfl, rfl, rfl, ⟨rfl, rfl, rfl, rfl, rfl, rfl, rfl, rfl, rfl, rfl, rfl⟩, ⟨rfl, rfl, rfl, rfl, rfl, rfl, rfl⟩, ho⟩

/-! ### Staging, trap entry and ageing -/

/-- The staging cost is the sum of the ranges' costs (R21). -/
theorem stageCost_eq_sum (h : IntervalHdr) :
    stageCost h = (h.ranges.map fun r => (if r.count = 0 then 0 else 2) + r.count).sum := by
  rw [stageCost, List.sum_eq_foldl, List.foldl_map]
  simp only [Nat.add_assoc]

/-- The clk that staging a wale's interval takes. -/
def grantCost (w : Wale) : Nat := match w.interval with | some h => stageCost h | none => 0

/-- STAGING_GRANT stages the request that it serves, when its slots suffice (R21). -/
theorem execStagingGrant_grants {s : State} {w : Wale} {core pipe : Nat} (hn : s.stagingNext core pipe = some w)
    (hc : s.canStage w = true) : exec (.stagingGrant core pipe) s = .next (s.putWale
      { w with staging := .until (s.clk + grantCost w) }) := by
  change execStagingGrant core pipe s = _
  simp only [execStagingGrant, hn, hc, if_true]
  rfl

/-- TRAP_ENTRY stages the handler's interval header (R251). -/
theorem execTrapEntry_enters {s : State} {w : Wale} {h : IntervalHdr} (hw : s.wale? w.id = some w) (he : w.entry = true)
    (hc : w.nextIssue ≤ s.clk) (hi : s.intervalAt { w with entry := false, insnPc := w.pc } w.pc 1 = .ok h) :
    exec (.trapEntry w.id) s = .next (s.putWale
      { ({ w with entry := false, insnPc := w.pc } : Wale).request h w.pc s.clk with pc := addr52 (w.pc + 8) }) := by
  change execTrapEntry w.id s = _
  simp [execTrapEntry, hw, he, hi, Nat.not_lt.2 hc]

/-- WALE_AGED marks a wale that has been ready for 64 clk (R291). -/
theorem execWaleAged_ages {s : State} {w : Wale} {c : Nat} (hw : s.wale? w.id = some w) (hr : w.readySince = some c)
    (hc : c + 64 ≤ s.clk) (ha : w.aged = none) : exec (.waleAged w.id) s = .next (s.putWale { w with aged := some s.clk }) := by
  change execWaleAged w.id s = _
  simp [execWaleAged, hw, hr, hc, ha]

/-- What a grant, a trap entry and an ageing do to their wale. -/
theorem stagingAndEntry : StagingAndEntry := by
  intro s w
  refine ⟨fun core pipe hw hn hc => ?_, fun h hw he hc hi => ?_, fun c hw hr hc ha => ?_⟩
  · refine ⟨_, _, execStagingGrant_grants hn hc, wale?_putWale_self hw, rfl, fun h hi => ?_, rfl, rfl, rfl, rfl, rfl, rfl, rfl⟩
    simp only [grantCost, hi, stageCost_eq_sum]
  · exact ⟨_, _, execTrapEntry_enters hw he hc hi, wale?_putWale_self hw, rfl, rfl, rfl, rfl, rfl, rfl,
      ⟨rfl, rfl, rfl, rfl, rfl, rfl, rfl⟩, rfl⟩
  · exact ⟨_, _, execWaleAged_ages hw hr hc ha, wale?_putWale_self hw, rfl, ⟨rfl, rfl, rfl, rfl, rfl, rfl, rfl⟩, rfl⟩

/-- Settles O22: each header and event replaces its wale, by one equation for each outcome. -/
theorem headersAndStaging : Obligations.HeadersAndStaging := ⟨headersComplete, stagingAndEntry⟩

end Sys2Proof.Machine
end

section
/-!
PROOF. A step runs the decoded instruction (O54).
-/
namespace Sys2Proof.Machine
open Claims

/-! ### Fetching -/

/-- A word that decodes, in its place and allowed there, with no bank program's fault owed, is carried out (R77, R208, R213). -/
theorem reach_run {s : State} {w : Wale} {x : W64} {ext : Option W64} {i : Instr} (hd : decodeWord x ext = .ok i)
    (hr : Runs w x i) : s.reach w x ext = .run s i := by
  obtain ⟨hplace, hkind, howed⟩ := hr
  have hnone : (if w.headerDue || w.decodeFails x i || s.badTarget w x then none else w.bankFault) = none := by
    rcases howed with h | h | h <;> simp [h]
  simp only [State.reach, hplace, hd, hkind, hnone, Bool.false_eq_true, if_false, Bool.not_true]

/-- The wale with its words at hand stands where it stood. -/
theorem runs_atHand {w : Wale} {x : W64} {i : Instr} (hr : Runs w x i) (y : W64) :
    Runs { w with insn0 := x, insn1 := y, insnPc := w.pc } x i := hr

section Fetch
variable {s : State} {w : Wale} {x : W64} {i : Instr}

/-- A header, or a word without an extension, is fetched and carried out (R57, R58). -/
theorem fetch_single (hstop : w.stopReq = false) (hb : ({ s with cur := w.id } : State).breaks w = false)
    (hx : ({ s with cur := w.id } : State).codeWord w w.pc 0 = .ok x) (hp : w.headerDue = true ∨ wordPaired x = false)
    (hd : decodeWord x none = .ok i) (hr : Runs w x i) : s.fetch w = .run (fetched s w x 0) i := by
  have hone : (w.headerDue || !wordPaired x) = true := by simpa using hp
  simp only [State.fetch, if_neg (Bool.eq_false_iff.1 hstop), hb, hx, hone, Bool.false_eq_true, if_false, if_true]
  exact reach_run (s := fetched s w x 0) hd (runs_atHand hr 0)

/-- A paired word is fetched with its extension and carried out (R58). -/
theorem fetch_paired {y : W64} (hstop : w.stopReq = false) (hb : ({ s with cur := w.id } : State).breaks w = false)
    (hx : ({ s with cur := w.id } : State).codeWord w w.pc 0 = .ok x) (hh : w.headerDue = false) (hp : wordPaired x = true)
    (hy : ({ s with cur := w.id } : State).codeWord w (addr52 (w.pc + 8)) 3 = .ok y) (hd : decodeWord x (some y) = .ok i)
    (hr : Runs w x i) : s.fetch w = .run (fetched s w x y) i := by
  simp only [State.fetch, if_neg (Bool.eq_false_iff.1 hstop), hb, hx, hh, hp, hy, Bool.false_eq_true, if_false, Bool.not_true,
    Bool.or_false]
  exact reach_run (s := fetched s w x y) hd (runs_atHand hr y)

end Fetch

/-! ### What comes next -/

/-- When no turn and no event is due, the program that issues is fetched (R18). -/
theorem nextUp_selected {s u : State} {w : Wale} (hd : s.due = none) (hi : s.internal = none) (hs : s.selected = some (w, u)) :
    s.nextUp = u.fetch w := by simp only [State.nextUp, hd, hi, hs]

/-- When nothing else is to do one clk passes. -/
theorem nextUp_idle {s : State} (hd : s.due = none) (hi : s.internal = none) (hs : s.selected = none) :
    s.nextUp = .stop (fin s.tick) := by simp only [State.nextUp, hd, hi, hs]

/-- The agenda's first entry comes next when it is due and does not wait. -/
theorem nextUp_turn {s : State} {c : Nat} {t : Turn} {r : List Due} (ha : s.agenda = ⟨c, t⟩ :: r) (hc : c ≤ s.clk)
    (hw : s.turnWaits false t = false) : s.nextUp = ({ s with agenda := r } : State).turn t := by
  have hdue : s.due = some (t, { s with agenda := r }) := by
    simp [State.due, ha, State.dueFrom, Nat.not_lt.2 hc, hw]
  simp only [State.nextUp, hdue]

/-- An event waits when it is an access from outside to rows that a bank program holds (R213). -/
theorem turnWaits_event (s : State) (i : Instr) : s.turnWaits false (.event i) = true ↔ s.outside i = (true, true) := by
  rcases h : s.outside i with ⟨out, held⟩
  simp [State.turnWaits, h]

/-- An access from outside that waits, with nothing behind it, leaves nothing due (R330). -/
theorem due_of_outside {s : State} {c : Nat} {i : Instr} (ha : s.agenda = [⟨c, .event i⟩]) (ho : s.outside i = (true, true)) :
    s.due = none := by
  have hw := (turnWaits_event s i).2 ho
  simp [State.due, ha, State.dueFrom, hw]

/-- A stream meets no breakpoint of the debugger (R371). -/
theorem breaks_stream {w : Wale} (hk : w.kind = .streamM ∨ w.kind = .streamC) (s : State) : s.breaks w = false := by
  rcases hk with hk | hk <;> simp [State.breaks, hk]

/-- A resident stream whose next issue has come fetches its word (R207). -/
theorem streamTurn_fetch {s : State} {w : Wale} (hw : s.wale? w.id = some w) (hk : w.kind = .streamM ∨ w.kind = .streamC)
    (hr : w.atRdv = false) (hl : w.life = .resident) (hn : w.nextIssue ≤ s.clk) (hv : s.ctxValid w.ctx = true)
    (hh : s.withholds = false) : s.streamTurn w.id = s.fetch w := by
  have hkind : (w.kind == .streamM || w.kind == .streamC) = true := by rcases hk with hk | hk <;> simp [hk]
  simp [State.streamTurn, hw, hkind, hr, hl, hv, hh, Nat.not_lt.2 hn]

/-- A running bank program carries out the word at its pc (R210). -/
theorem bankFetch_run {s : State} {b : BankCall} {l : Nat} {i : Instr} (hb : s.bank? b.id = some b) (hst : b.st = .running)
    (hn : b.count < 2 ^ 20) (hp : b.pc % 4 = 0) (hs : b.skipping = false) (hx : s.xlateDie b.die b.ctx none .x b.pc = .ok l)
    (hd : decodeBank (BitVec.ofNat 32 (s.natAt l 4)) = some i) :
    s.bankFetch b.id = .run (({ s with curBank := b.id } : State).fillDie b.die b.ctx b.pc) i := by
  have hc : ¬(2 ^ 20 ≤ b.count ∨ b.pc % 4 ≠ 0) := by omega
  simp only [State.bankFetch, hb, hst, bne_self_eq_false, if_neg hc, hx, hs, hd, Bool.false_eq_true, if_false]

/-- Settles O54: what comes next decides the step, and a fetch runs the word that decodes. -/
theorem stepRunsDecoded : Obligations.StepRunsDecoded := by
  unfold Obligations.StepRunsDecoded
  intro s
  refine ⟨fun t i => step_of_run, fun hd hi w u hs => ?_, fun c i => due_of_outside, fun c i r ha hc ho => ?_, ?_, ?_, ?_⟩
  · intro a hstop hb x hx
    have hnext := nextUp_selected hd hi hs
    exact ⟨fun i hp hdec hr => step_of_run (hnext.trans (fetch_single hstop hb hx hp hdec hr)),
      fun y i hh hp hy hdec hr => step_of_run (hnext.trans (fetch_paired hstop hb hx hh hp hy hdec hr))⟩
  · exact step_of_run (nextUp_turn ha hc (Bool.eq_false_iff.2 fun h => ho ((turnWaits_event s i).1 h)))
  · intro c r w x i ha hc hw hk hrdv hl hn hv hstop hh u hx hp hdec hr
    have hfetch := streamTurn_fetch (s := u) hw hk hrdv hl hn hv hh
    exact step_of_run ((nextUp_turn ha hc rfl).trans (hfetch.trans (fetch_single hstop (breaks_stream hk _) hx hp hdec hr)))
  · intro c r b l i ha hc hb hst hn hp hs u hx hdec
    exact step_of_run ((nextUp_turn ha hc rfl).trans (bankFetch_run (s := u) hb hst hn hp hs hx hdec))
  · intro hd hi hs
    exact step_of_stop (nextUp_idle hd hi hs)

end Sys2Proof.Machine
end

section
/-!
PROOF. The values of atomics (O28, R176, R177).
-/
namespace Sys2Proof.Machine
open Claims

/-- The new value of a signed or unsigned comparison is the smaller or the larger (R176). -/
theorem atomNew_minmax (o v b : W32) :
    ((BitVec.ofNat 32 (atomNew 1 .i32 o.toNat v.toNat b.toNat).1).toInt = min o.toInt v.toInt ∧
      (BitVec.ofNat 32 (atomNew 2 .i32 o.toNat v.toNat b.toNat).1).toInt = max o.toInt v.toInt) ∧
    ((BitVec.ofNat 32 (atomNew 1 .n32 o.toNat v.toNat b.toNat).1).toNat = min o.toNat v.toNat ∧
      (BitVec.ofNat 32 (atomNew 2 .n32 o.toNat v.toNat b.toNat).1).toNat = max o.toNat v.toNat) := by
  have h1 : (Ty.i32 == Ty.i32) = true := rfl
  have h2 : (Ty.n32 == Ty.i32) = false := rfl
  simp only [atomNew, h1, h2, if_true, Bool.false_eq_true, if_false, BitVec.ofNat_toNat, BitVec.setWidth_eq, decide_eq_true_eq]
  refine ⟨⟨?_, ?_⟩, ?_, ?_⟩ <;> split <;> simp only [BitVec.ofNat_toNat, BitVec.setWidth_eq] <;> omega

/-- The two bounded operations (R177). -/
theorem atomNew_bounded (ty : Ty) (o v b : W32) :
    (v.toNat ≤ o.toNat → BitVec.ofNat 32 (atomNew 8 ty o.toNat v.toNat b.toNat).1 = 0) ∧
    (o.toNat < v.toNat → BitVec.ofNat 32 (atomNew 8 ty o.toNat v.toNat b.toNat).1 = o + 1) ∧
    (o.toNat + v.toNat ≤ b.toNat → atomNew 9 ty o.toNat v.toNat b.toNat = (o.toNat + v.toNat, 1)) ∧
    (b.toNat < o.toNat + v.toNat → atomNew 9 ty o.toNat v.toNat b.toNat = (o.toNat, 0)) := by
  refine ⟨fun h => ?_, fun h => ?_, fun h => ?_, fun h => ?_⟩
  · simp [atomNew, h]
  · have := o.isLt
    simp only [atomNew, if_neg (Nat.not_le.2 h)]
    apply BitVec.eq_of_toNat_eq
    simp
  · simp only [atomNew, if_pos h]
  · simp only [atomNew, if_neg (Nat.not_le.2 h)]

/-- The new values of R176 and R177. -/
theorem atomicValues : AtomicValues := by
  intro ty o v b
  obtain ⟨hi, hn⟩ := atomNew_minmax o v b
  obtain ⟨h8, h8', h9, h9'⟩ := atomNew_bounded ty o v b
  have hadd : BitVec.ofNat 32 ((o.toNat + v.toNat) % 2 ^ 32) = o + v := BitVec.eq_of_toNat_eq (by simp)
  refine ⟨hadd, hadd, fun h => h ▸ hi, fun h => h ▸ hn, ?_, ?_, ?_, ?_, fun h => ?_, fun h => ?_, h8, h8', fun h => ?_, fun h => ?_,
    rfl, rfl, rfl, rfl⟩
  · exact BitVec.eq_of_toNat_eq (by simp [atomNew])
  · exact BitVec.eq_of_toNat_eq (by simp [atomNew])
  · exact BitVec.eq_of_toNat_eq (by simp [atomNew])
  · simp [atomNew]
  · simp [atomNew, h]
  · have hne : o.toNat ≠ b.toNat := fun hb => h (BitVec.eq_of_toNat_eq hb)
    simp [atomNew, hne]
  · exact ⟨BitVec.eq_of_toNat_eq (by simp [h9 h]), by rw [h9 h]⟩
  · exact ⟨by simp [h9' h], by rw [h9' h]⟩

/-! ### A request alone in its queue -/

section Alone
variable {s : State} {w : Wale} {q : Req} {e : Elem} {n : Nat}

/-- The kinds of request that an atomic or reduction makes. -/
def Req.IsAtomic (q : Req) (n : Nat) : Prop := q.kind = .atomic n ∨ q.kind = .red n

/-- Where no cluster holds a byte and no word is bad a write-back does nothing. -/
theorem flushKeys_clean (hd : s.dirty = []) (hb : s.badWords = []) (c lo hi : Nat) : s.flushKeys c lo hi = s := by
  cases s
  simp only at hd hb
  subst hd hb
  rfl

/-- Alone, a request has no earlier access before it, nor one of the other face beside it. -/
theorem before_alone (h : s.reqs = [q]) : s.before q = [] := by simp [State.before, h]

theorem sibling_alone (h : s.reqs = [q]) : s.sibling q = [] := by simp [State.sibling, h]

/-- Alone, no access holds the element back. -/
theorem elementHeld_alone (h : s.reqs = [q]) : s.elementHeld q e = false := by
  simp [State.elementHeld, before_alone h, sibling_alone h]

/-- Alone, and neither a release nor behind a fence, it is ordered. -/
theorem orderReady_alone (h : Alone s w q e) : s.orderReady q e w.wg = true := by
  obtain ⟨-, -, hreqs, -, -, -, -, hnear, -, -, -, -, -, -, -, hafter, hrel, -, -, himgs, hwide, -⟩ := h
  have hhold : s.imagesHold q = false := by
    unfold State.imagesHold
    rw [hwide]
    split <;> simp_all
  simp [State.orderReady, hafter, hnear, hhold, before_alone hreqs, hrel, himgs]

/-- Alone, and without what its wale has acquired, its home performs it. -/
theorem homeReady_alone (h : Alone s w q e) : s.homeReady e.loc q.core w.stamp = true := by
  obtain ⟨-, -, -, -, -, -, hstamp, -, -, -, -, -, hbanks, -, -, -, -, -, -, -, -, -, -, -, -, -, hawake⟩ := h
  simp [State.homeReady, State.homeApplied, hawake, hstamp, stampLe, State.bankHeld, hbanks]

/-- Alone, the memory beneath it stands at its level. -/
theorem atLevel_alone (h : Alone s w q e) (hb : s.badWords = []) : s.atLevel q w e.loc = s := by
  obtain ⟨-, -, -, -, -, -, -, -, -, hdirty, -, -, -, -, -, -, -, -, hrsp, -⟩ := h
  simp [State.atLevel, hrsp, State.flushLine, flushKeys_clean hdirty hb]

/-- Alone, no cluster's line serves it. -/
theorem lineServes_alone (h : Alone s w q e) (c : Nat) : s.lineServes w c e.loc 4 = false := by
  obtain ⟨-, -, -, -, -, -, -, -, -, hdirty, hclean, -⟩ := h
  simp [State.lineServes, State.dirtyAll, hdirty, State.cleanAt, hclean, List.range_succ]

/-- No word is bad, so an element is not spoiled. -/
theorem elemSpoiled_good (hb : s.badWords = []) (es : List (Nat × Elem)) (wr : Bool) : s.elemSpoiled q es wr = none := by
  unfold State.elemSpoiled
  cases es with
  | nil => rfl
  | cons x r => simp [State.spoiled, State.badWord, hb]

/-- The state in which an atomic alone in its queue has read its element: a returning one has noticed the releases there. -/
def State.atomicRead (s : State) (q : Req) (e : Elem) : State := s.atomicRels q (s.relsAt (clusterOf q.core) e.loc 4 false)

/-- ALONE, AN ATOMIC IS PERFORMED: at the port the value read is kept, elsewhere the new value is written. -/
theorem performAtomic_alone (h : Alone s w q e) (hb : s.badWords = []) : s.performAtomic q n =
    let t := s.atomicRead q e
    if q.atPort e.loc then
      { t with reqs := t.reqs.map fun r => if r.id == q.id then
          { r with elems := setNth r.elems 0 { e with old := some (BitVec.ofNat 32 (s.natAt e.loc 4)) } } else r }
    else t.atomicWrite q ((t.wale? q.wale).getD w) 0 e n (s.natAt e.loc 4) := by
  have hlevel := atLevel_alone h hb
  have hhome := homeReady_alone h
  have horder := orderReady_alone h
  have hserves := lineServes_alone h (clusterOf q.core)
  obtain ⟨-, -, hreqs, helems, hw, -, -, hnear, -, -, -, -, -, hclk, -, -, -, -, hrsp, -, -, hold, hdone, -⟩ := h
  have hfind : (q.elems.zip (List.range q.elems.length)).find? (fun p => !p.1.done) = some (e, 0) := by
    simp [helems, List.range_succ, hdone]
  have hearly : ¬if q.space = 2 ∨ q.space = 3 then s.clk < q.at' else s.clk < q.at' + 6 := by split <;> omega
  have hbusy : s.portBusy e.loc = false := by simp [State.portBusy, hreqs, helems, hold]
  unfold State.performAtomic
  rw [hfind, hw]
  simp only [hnear, hrsp, elementHeld_alone hreqs, horder, hhome, hold, hbusy, hlevel, hserves, Bool.and_false, Bool.false_eq_true,
    if_false, elemSpoiled_good hb, decide_eq_false hearly, List.any_nil, Bool.or_false, Bool.not_true, Bool.false_and]
  rfl

/-- Reading changes its wale at most. -/
theorem atomicRead_eq (hacq : q.acq = none) : ∃ f, s.atomicRead q e = s.onWale q.wale f := by
  by_cases hr : ∃ m, q.kind = .red m
  · obtain ⟨m, hr⟩ := hr
    exact ⟨id, by simp [State.atomicRead, State.atomicRels, hacq, hr, State.onWale]⟩
  · refine ⟨fun x => x.notice (s.relsAt (clusterOf q.core) e.loc 4 false), ?_⟩
    unfold State.atomicRead State.atomicRels State.readRels
    rw [hacq]
    split
    · rename_i hk
      exact absurd ⟨_, hk⟩ hr
    · rfl

/-- Setting the requests to what they are changes nothing. -/
theorem setReqs_self {l : List Req} (h : s.reqs = l) : { s with reqs := l } = s := by
  cases s
  simp only at h
  subst h
  rfl

/-- Alone, a change of elements that leaves its element changes nothing. -/
theorem onElems_alone (hreqs : s.reqs = [q]) (helems : q.elems = [e]) {f : Req → Elem → Elem} (hf : f q e = e) (i : Nat) :
    s.onElems i f = s := by
  have hq : { q with elems := [e] } = q := by
    cases q
    simp only at helems
    subst helems
    rfl
  unfold State.onElems
  rw [hreqs]
  simp only [List.map_cons, List.map_nil, helems, hf, hq, ite_self]
  exact setReqs_self hreqs

/-- Alone, a write that is no store and no release ends no repetition. -/
theorem endRepeats_alone (hreqs : s.reqs = [q]) (helems : q.elems = [e]) (hk : q.kind ≠ .store) (hf : q.finished = false) :
    s.endRepeats q e = s := by
  unfold State.endRepeats State.unshare
  rw [onElems_alone hreqs helems (by simp), onElems_alone hreqs helems (by simp [hk])]
  refine setReqs_self ?_
  simp [hreqs, hf]

/-- Without a release an atomic's write writes its value at its level and is done. -/
theorem atomicWrite_alone (hreqs : s.reqs = [q]) (helems : q.elems = [e]) (hk : q.kind ≠ .store) (hf : q.finished = false)
    (hrel : q.rel = none) (i old : Nat) : s.atomicWrite q w i e n old =
    let c := clusterOf q.core
    let x := atomNew n q.fmt old e.val.toNat e.val2.toNat
    let left := s.relsAt c e.loc 4 (q.atCluster e.loc)
    (if q.atCluster e.loc then ((s.putDirty c e.loc q.at' (leBytes 4 x.1)).putRels (cacheKey c e.loc) 4 left).fitCache c
      else ((s.writeLoc e.loc (leBytes 4 x.1)).dropClean c e.loc).putRels e.loc 4 left).markDone q.id i fun e =>
        { e with val := BitVec.ofNat 64 old, val2 := BitVec.ofNat 32 x.2, old := none } := by
  have hflush : s.flushFor q = s := by simp [State.flushFor, hrel]
  simp only [State.atomicWrite, hrel, hflush, endRepeats_alone hreqs helems hk hf]

/-- A request without a release releases no record of a task (R289). -/
theorem atomicStep_relaxed (hrel : q.rel = none) (op : Nat) : s.atomicStep q op = s.performAtomic q op := by
  have hhit (x : Elem) (v : Nat) : s.joinHit q x v = false := by simp [State.joinHit, hrel]
  unfold State.atomicStep
  simp only [hhit, Bool.and_false, Bool.false_eq_true, if_false]
  split
  · rfl
  · split
    · rfl
    · generalize q.elems.zip _ = l
      induction l with
      | nil => rfl
      | cons p r ih => exact ih

end Alone

/-! ### Bytes that a cluster holds -/

/-- A key put adds one pair at most. -/
theorem length_mPut_le {α : Type} (m : List (Nat × α)) (n : Nat) (x : α) : (mPut m n x).length ≤ m.length + 1 := by
  induction m with
  | nil => simp [mPut]
  | cons p r ih =>
    obtain ⟨k, v⟩ := p
    simp only [mPut]
    split
    · simp
    · split
      · simp
      · simpa using ih

/-- Erasing duplicates makes no list longer. -/
theorem length_eraseDups_le {α : Type} [BEq α] [LawfulBEq α] (l : List α) : l.eraseDups.length ≤ l.length := by
  induction h : l.length using Nat.strong_induction_on generalizing l with
  | _ n ih =>
    cases l with
    | nil => simp
    | cons a r =>
      have hf := List.length_filter_le (fun b => !b == a) r
      simp only [List.length_cons] at h
      have hr := ih _ (by omega) (r.filter fun b => !b == a) rfl
      rw [List.eraseDups_cons, List.length_cons]
      omega

/-- What a write at a cluster changes: it holds each byte of the write, and no other part of the machine changes. -/
theorem putDirty_spec (s : State) (c l clk : Nat) (bs : List Byte) :
    ∃ d, s.putDirty c l clk bs = { s with dirty := d } ∧ d.length ≤ s.dirty.length + bs.length ∧
      ∀ i < bs.length, ∃ b, mFind d (cacheKey c (l + i)) = some b ∧ b.v = bs.getD i 0 := by
  induction bs using List.reverseRecOn with
  | nil => exact ⟨s.dirty, rfl, by simp, by simp⟩
  | append_singleton bs b ih =>
    obtain ⟨d, hd, hlen, hfind⟩ := ih
    have hsplit : (bs ++ [b]).zip (List.range (bs ++ [b]).length) = bs.zip (List.range bs.length) ++ [(b, bs.length)] := by
      simp [List.range_succ, List.zip_append]
    unfold State.putDirty at hd ⊢
    rw [hsplit, List.foldl_append, hd]
    refine ⟨_, rfl, ?_, fun i hi => ?_⟩
    · have := length_mPut_le d (cacheKey c (l + bs.length))
      simp only [List.length_append, List.length_singleton]
      exact (this _).trans (by omega)
    · rcases Nat.lt_succ_iff_lt_or_eq.1 (show i < bs.length + 1 by simpa using hi) with hi | rfl
      · obtain ⟨x, hx, hxv⟩ := hfind i hi
        have hne : cacheKey c (l + i) ≠ cacheKey c (l + bs.length) := by simp [cacheKey]; omega
        exact ⟨x, (mFind_mPut_ne _ hne).trans hx, by rw [hxv]; simp [List.getD, hi, List.getElem?_append_left]⟩
      · exact ⟨_, mFind_mPut_self _ _ _, by simp [List.getD]⟩

/-- A cache that holds no clean line and few bytes keeps what it holds (R233). -/
theorem fitCache_few {s : State} (hc : s.clean = []) (hd : s.dirty.length ≤ 16384) (c : Nat) : s.fitCache c = s := by
  have hlines : (s.linesOf c).length ≤ 16384 := by
    unfold State.linesOf
    rw [hc]
    refine (length_eraseDups_le _).trans ?_
    simp only [List.filter_nil, List.map_nil, List.nil_append, List.length_map]
    exact (List.length_filter_le _ _).trans hd
  simp [State.fitCache, hlines]


/-! ### An atomic is performed -/

/-- Bytes read alike where memory and its free values are the same. -/
theorem byteAt_congr {s t : State} (hm : t.mem = s.mem) (hp : t.powerEpoch = s.powerEpoch) (hg : t.pageEpoch = s.pageEpoch)
    (l : Nat) : t.byteAt l = s.byteAt l := by
  rw [State.byteAt, State.byteAt, hm, hp, hg]

/-- Numbers read alike where every byte does. -/
theorem natAt_congr {s t : State} (h : ∀ l, t.byteAt l = s.byteAt l) (l n : Nat) : t.natAt l n = s.natAt l n := by
  simp only [State.natAt, State.bytesAt, h]

section Frames
variable (s : State) (c l n k i : Nat) (r : List RelInfo) (f : Elem → Elem)

@[simp] theorem dropClean_reqs : (s.dropClean c l).reqs = s.reqs := rfl
@[simp] theorem dropClean_absentHit : (s.dropClean c l).absentHit = s.absentHit := rfl
@[simp] theorem byteAt_dropClean : (s.dropClean c l).byteAt k = s.byteAt k := rfl
@[simp] theorem byteAt_putRels : (s.putRels l n r).byteAt k = s.byteAt k := rfl
@[simp] theorem byteAt_onWale (g : Wale → Wale) : (s.onWale i g).byteAt k = s.byteAt k := rfl
@[simp] theorem markDone_absentHit : (s.markDone k i f).absentHit = s.absentHit := rfl
@[simp] theorem markDone_dirty : (s.markDone k i f).dirty = s.dirty := rfl
@[simp] theorem byteAt_markDone : (s.markDone k i f).byteAt l = s.byteAt l := rfl

end Frames

/-- The memory of a canonical state is canonical. -/
theorem memory_wf_of_canonical {s : State} (h : s.canonical = true) : Memory.wf s.mem = true := by
  simp only [State.canonical, State.memMaps, Bool.and_eq_true] at h
  tauto

section Performed
variable {s : State} {w : Wale} {q : Req} {e : Elem} {n : Nat}

/-- An atomic or reduction alone in its queue performs its element. -/
theorem exec_atomicPerform_alone (h : Alone s w q e) (hk : q.IsAtomic n) :
    exec (.atomicPerform q.id) s = fin (s.performAtomic q n) := by
  obtain ⟨-, -, hreqs, -, -, -, -, -, -, -, -, -, -, -, -, -, hrel, -⟩ := h
  change execAtomicPerform q.id s = _
  simp only [execAtomicPerform, hreqs, List.find?_cons_of_pos, beq_self_eq_true]
  rcases hk with hk | hk <;> rw [hk] <;> simp only [atomicStep_relaxed hrel]

/-- The one element of the one request is done. -/
theorem reqs_markDone (hreqs : s.reqs = [q]) (helems : q.elems = [e]) (f : Elem → Elem) :
    (s.markDone q.id 0 f).reqs = [{ q with elems := [{ f e with done := true }] }] := by
  simp [State.markDone, hreqs, helems, List.range_succ]

/-- At the port the value read is kept with the element, and memory is as it was (R178). -/
theorem atomicPerform_port (h : Alone s w q e) (hb : s.badWords = []) (hk : q.IsAtomic n) (hp : q.atPort e.loc = true) :
    ∃ t, exec (.atomicPerform q.id) s = .next t ∧
      t.reqs = [{ q with elems := [{ e with old := some (BitVec.ofNat 32 (s.natAt e.loc 4)) }] }] ∧
      ∀ l, t.byteAt l = s.byteAt l := by
  rw [exec_atomicPerform_alone h hk, performAtomic_alone h hb]
  obtain ⟨-, habs, hreqs, helems, -, -, -, -, -, -, -, -, -, -, -, -, -, hacq, -⟩ := h
  obtain ⟨f, hf⟩ := atomicRead_eq (s := s) (e := e) hacq
  simp only [hp, if_true, hf, State.onWale_reqs, hreqs]
  exact ⟨_, fin_next habs, by simp [helems, setNth], byteAt_congr rfl rfl rfl⟩

/-- What an atomic that is no port's leaves of its request: its element done, with the value it has read. -/
def KeepsOld (s : State) (q : Req) (e : Elem) (t : State) : Prop :=
  ∃ d, t.reqs = [{ q with elems := [d] }] ∧ d.done = true ∧ d.val = BitVec.ofNat 64 (s.natAt e.loc 4) ∧ d.t = e.t ∧ d.j = e.j

/-- The element marked done with the value read keeps it. -/
theorem keepsOld_markDone {u : State} (hu : u.reqs = [q]) (helems : q.elems = [e]) (x : W32) : KeepsOld s q e
    (u.markDone q.id 0 fun e' => { e' with val := BitVec.ofNat 64 (s.natAt e.loc 4), val2 := x, old := none }) :=
  ⟨_, reqs_markDone hu helems _, rfl, rfl, rfl, rfl⟩

/-- At its home the element takes its new value in memory (R178). -/
theorem atomicPerform_home (h : Alone s w q e) (hb : s.badWords = []) (hk : q.IsAtomic n) (hp : q.atPort e.loc = false)
    (hc : q.atCluster e.loc = false) :
    ∃ t, exec (.atomicPerform q.id) s = .next t ∧
      t.natAt e.loc 4 = (atomNew n q.fmt (s.natAt e.loc 4) e.val.toNat e.val2.toNat).1 % 2 ^ 32 ∧
      (∀ l, l < e.loc ∨ e.loc + 4 ≤ l → t.byteAt l = s.byteAt l) ∧ KeepsOld s q e t := by
  rw [exec_atomicPerform_alone h hk, performAtomic_alone h hb]
  obtain ⟨hcan, habs, hreqs, helems, -, -, -, -, -, -, -, -, -, -, hfin, -, hrel, hacq, -⟩ := h
  obtain ⟨f, hf⟩ := atomicRead_eq (s := s) (e := e) hacq
  have hstore : q.kind ≠ .store := by rcases hk with hk | hk <;> simp [hk]
  simp only [hp, Bool.false_eq_true, if_false, hf]
  rw [atomicWrite_alone (s := s.onWale q.wale f) hreqs helems hstore hfin hrel]
  simp only [hc, Bool.false_eq_true, if_false]
  generalize atomNew n q.fmt (s.natAt e.loc 4) e.val.toNat e.val2.toNat = x
  have hwf : Memory.wf s.mem = true := memory_wf_of_canonical hcan
  generalize hr : (s.onWale q.wale f).writeLoc e.loc (leBytes 4 x.1) = r
  have hin : r.natAt e.loc 4 = x.1 % 2 ^ 32 := hr ▸ natAt_writeNat (s.onWale q.wale f) e.loc 4 x.1
  have hout (l : Nat) (hl : l < e.loc ∨ e.loc + 4 ≤ l) : r.byteAt l = s.byteAt l :=
    hr ▸ byteAt_writeNat_out (s := s.onWale q.wale f) (n := 4) hwf hl
  refine ⟨_, fin_next ?_, ?_, ?_, keepsOld_markDone ?_ helems _⟩
  · simp [← hr, habs]
  · rw [← hin]
    exact natAt_congr (fun l => by simp) e.loc 4
  · exact fun l hl => by simpa using hout l hl
  · simp [← hr, hreqs]

/-- The low four bytes of a number are those of its low word. -/
theorem digit_mod (x : Nat) {i : Nat} (hi : i < 4) : x % 2 ^ 32 / 256 ^ i % 256 = x / 256 ^ i % 256 := by
  interval_cases i <;> omega

/-- At the cluster unit the cluster holds the new value, and memory keeps its bytes (R178, R233). -/
theorem atomicPerform_cluster (h : Alone s w q e) (hb : s.badWords = []) (hk : q.IsAtomic n) (hp : q.atPort e.loc = false)
    (hc : q.atCluster e.loc = true) :
    ∃ t, exec (.atomicPerform q.id) s = .next t ∧ (∀ l, t.byteAt l = s.byteAt l) ∧ KeepsOld s q e t ∧
      ∀ i < 4, ∃ b, mFind t.dirty (cacheKey (clusterOf q.core) (e.loc + i)) = some b ∧
        b.v.toNat = (atomNew n q.fmt (s.natAt e.loc 4) e.val.toNat e.val2.toNat).1 % 2 ^ 32 / 256 ^ i % 256 := by
  rw [exec_atomicPerform_alone h hk, performAtomic_alone h hb]
  obtain ⟨-, habs, hreqs, helems, -, -, -, -, -, hdirty, hclean, -, -, -, hfin, -, hrel, hacq, -⟩ := h
  obtain ⟨f, hf⟩ := atomicRead_eq (s := s) (e := e) hacq
  have hstore : q.kind ≠ .store := by rcases hk with hk | hk <;> simp [hk]
  simp only [hp, Bool.false_eq_true, if_false, hf]
  rw [atomicWrite_alone (s := s.onWale q.wale f) hreqs helems hstore hfin hrel]
  simp only [hc, if_true]
  generalize atomNew n q.fmt (s.natAt e.loc 4) e.val.toNat e.val2.toNat = x
  obtain ⟨d, hd, hlen, hbytes⟩ := putDirty_spec (s.onWale q.wale f) (clusterOf q.core) e.loc q.at' (leBytes 4 x.1)
  have hfew : d.length ≤ 16384 := hlen.trans (by simp [hdirty])
  rw [hd, fitCache_few]
  · refine ⟨_, fin_next habs, fun l => rfl, keepsOld_markDone hreqs helems _, fun i hi => ?_⟩
    obtain ⟨b, hfind, hv⟩ := hbytes i (by simpa using hi)
    exact ⟨b, hfind, by rw [hv, toNat_getD_leBytes _ hi, digit_mod _ hi]⟩
  · exact hclean
  · exact hfew

end Performed

/-! ### A returning atomic completes -/

section Completes
variable {s : State} {w : Wale} {q : Req} {d : Elem} {n i : Nat}

/-- A wale with what a newer result discards of its queued MREADs discarded (R30). -/
def Wale.superseded (w : Wale) (f : RFile) (r no : Nat) (m : Mask) (h : Option Nat) : Wale :=
  { w with mq := w.mq.map fun o => o.supersede f r no m h }

/-- With no matrix operation queued nothing is discarded. -/
theorem superseded_empty {w : Wale} (hmq : w.mq = []) (f : RFile) (r no : Nat) (m : Mask) (h : Option Nat) :
    w.superseded f r no m h = w := by
  cases w
  simp only at hmq
  subst hmq
  rfl

/-- A newer result leaves a wale whose queue of matrix operations is empty as it was. -/
theorem wale?_supersede (hw : s.wale? i = some w) (hmq : w.mq = []) (v : Wale) (f : RFile) (r no : Nat) (m : Mask) :
    (s.supersede v f r no m).wale? i = some w := by
  change (s.onWale v.id fun x => x.superseded f r no m (v.trap.map TrapFrame.no)).wale? i = _
  by_cases hi : i = v.id
  · rw [← hi, wale?_onWale_self s i (fun x => x.superseded _ _ _ _ _) fun _ => rfl, hw, Option.map_some, superseded_empty hmq]
  · rw [wale?_onWale_ne s (fun x => x.superseded _ _ _ _ _) (fun _ => rfl) hi, hw]

/-- The result of an instruction discards nothing of its own request. -/
theorem reqs_supersede (hreqs : s.reqs = [q]) (v : Wale) (f : RFile) (r : Nat) (m : Mask) :
    (s.supersede v f r q.no m).reqs = [q] := by
  simp [State.supersede, hreqs, Req.supersede]

/-- The wale once an element of a returning atomic is in its register. -/
def Wale.landed (w : Wale) (r t no : Nat) (x : W32) : Wale :=
  { w.vSet r t x with inflight := w.older .v r no (BitVec.ofNat 32 (2 ^ t)) }

/-- Outside a handler an element lands in its register. -/
theorem landV_plain (hw : s.wale? i = some w) (ht : w.trap = none) (r t no : Nat) (x : W32) :
    s.landV i r t no x = (s.supersede w .v r no (BitVec.ofNat 32 (2 ^ t))).onWale i fun w => w.landed r t no x := by
  simp only [State.landV, hw, ht]
  rfl

/-- The wale once FADDB's predicate bits are in their register: of the threads `m`, those of `one`. -/
def Wale.predLanded (w : Wale) (p no : Nat) (m one : Mask) : Wale :=
  { w with q := mSet 0 w.q p ((mGet 0 w.q p &&& ~~~m) ||| (one &&& m)), inflight := w.older .q p no m }

/-- The threads of whose predicate bits FADDB writes (R160, R177). -/
def Req.predMask (q : Req) : Mask := maskOf fun t => !q.predDead.getLsbD t && q.elems.any fun e => e.t == t && !e.zero

/-- The predicate bits that it writes. -/
def Req.predBits (q : Req) : Mask := maskOf fun t => q.elems.any fun e => e.t == t && e.val2 != 0

/-- What a returning atomic of one element leaves: its register, for FADDB its predicate bits, and beside them its request and
memory as they were. -/
theorem landAtomic_one (hreqs : s.reqs = [q]) (helems : q.elems = [d]) (hdead : d.dead = false) (hw : s.wale? q.wale = some w)
    (hmq : w.mq = []) (ht : w.trap = none) (fadb : Bool) :
    let t := s.landAtomic q fadb
    let w1 := w.landed (q.reg + d.j) d.t q.no (if d.zero then 0 else d.val.truncate 32)
    t.reqs = [q] ∧ t.mem = s.mem ∧ t.absentHit = s.absentHit ∧ t.wale? q.wale =
      some (if fadb then w1.predLanded q.pred q.no q.predMask q.predBits else w1) := by
  set x : W32 := if d.zero then 0 else d.val.truncate 32 with hx
  have hland := landV_plain hw ht (q.reg + d.j) d.t q.no x
  set u := s.landV q.wale (q.reg + d.j) d.t q.no x with hu
  have hur : u.reqs = [q] := by rw [hland]; exact reqs_supersede hreqs _ _ _ _
  have huw : u.wale? q.wale = some (w.landed (q.reg + d.j) d.t q.no x) := by
    rw [hland, wale?_onWale_self _ _ (fun w => w.landed _ _ _ _) fun _ => rfl, wale?_supersede hw hmq]
    rfl
  have hone : s.landAtomic q fadb = if fadb then (u.supersede (w.landed (q.reg + d.j) d.t q.no x) .q q.pred q.no q.predMask).onWale
      q.wale fun w => w.predLanded q.pred q.no q.predMask q.predBits else u := by
    unfold State.landAtomic
    simp only [helems, List.foldl_cons, List.foldl_nil, hdead, Bool.false_eq_true, if_false, ← hx, ← hu, huw]
    cases fadb
    · rfl
    · simp only [Req.predMask, Req.predBits, helems]
      rfl
  have hum : u.mem = s.mem := by rw [hland]; rfl
  have hua : u.absentHit = s.absentHit := by rw [hland]; rfl
  dsimp only
  rw [hone]
  cases fadb with
  | false => exact ⟨hur, hum, hua, huw⟩
  | true =>
    refine ⟨reqs_supersede hur _ _ _ _, hum, hua, ?_⟩
    simp only [if_true]
    rw [wale?_onWale_self _ _ (fun w => w.predLanded _ _ _ _) fun _ => rfl, wale?_supersede huw (by exact hmq)]
    rfl

/-- A request that is no store or load is freed as it completes, and its flag falls (R32, R170). -/
theorem finishReq_one (hreqs : s.reqs = [q]) (hk : q.kind = .atomic n) (hw : s.wale? q.wale = some w) :
    (s.finishReq q.id).reqs = [] ∧ (s.finishReq q.id).mem = s.mem ∧ (s.finishReq q.id).absentHit = s.absentHit ∧
      (s.finishReq q.id).wale? q.wale = some (w.lower q.flag) := by
  have hid (x : Wale) : (x.lower q.flag).id = x.id := by cases q.flag <;> rfl
  have heq : s.finishReq q.id = { (s.clearPend q.id).onWale q.wale fun w => w.lower q.flag with reqs := [] } := by
    simp [State.finishReq, hreqs, hk, State.shareReads, State.clearPend]
  rw [heq]
  refine ⟨rfl, rfl, rfl, ?_⟩
  have := wale?_onWale_self (s.clearPend q.id) q.wale (fun w => w.lower q.flag) hid
  exact this.trans (by rw [show (s.clearPend q.id).wale? q.wale = s.wale? q.wale from rfl, hw]; rfl)

/-- The registers of a wale of a canonical state are canonical. -/
theorem wale_canonical (h : s.canonical = true) (hw : s.wale? i = some w) :
    mSorted w.v = true ∧ mSorted w.q = true ∧ mSorted w.flags = true := by
  simp only [State.canonical, Bool.and_eq_true, List.all_eq_true] at h
  have hc := h.1.1.2 w (wale?_mem hw)
  simp only [Wale.canonical, Bool.and_eq_true] at hc
  tauto

/-- The flag lowered falls by one. -/
theorem flag_lower {k : Nat} (hs : mSorted w.flags = true) : (w.lower (some k)).flag k = w.flag k - 1 :=
  mGet_mSet_self 0 k _ hs

/-- Lowering a flag leaves the vector registers and the predicates. -/
theorem lower_regs (w : Wale) (k : Option Nat) : (w.lower k).v = w.v ∧ (w.lower k).q = w.q := by
  cases k <;> exact ⟨rfl, rfl⟩

/-- FADDB's predicate bit of a thread that was performed (R177). -/
theorem predLanded_bit {p no t : Nat} {m one : Mask} (hs : mSorted w.q = true) (hm : m.getLsbD t = true) :
    (mGet 0 (w.predLanded p no m one).q p).getLsbD t = one.getLsbD t := by
  rw [show (w.predLanded p no m one).q = mSet 0 w.q p _ from rfl, mGet_mSet_self 0 p _ hs]
  simp [hm, -BitVec.getLsbD_eq_getElem]

/-- The element's thread is among those whose predicate bits FADDB writes, with its own bit (R177). -/
theorem predMask_one (helems : q.elems = [d]) (hlt : d.t < 32) (hp : q.predDead.getLsbD d.t = false) (hz : d.zero = false) :
    q.predMask.getLsbD d.t = true ∧ q.predBits.getLsbD d.t = (d.val2 != 0) := by
  rw [Req.predMask, Req.predBits, getLsbD_maskOf, getLsbD_maskOf]
  simp [helems, hlt, hp, hz, -BitVec.getLsbD_eq_getElem]

/-- A returning atomic whose element is done completes (R169, R227). -/
theorem exec_queuedLoadComplete_atomic (hreqs : s.reqs = [q]) (helems : q.elems = [d]) (hk : q.kind = .atomic n)
    (hdone : d.done = true) (hclk : q.at' + 12 ≤ s.clk) (hfin : q.finished = false) (m : Mask) (pl : Place) :
    exec (.queuedLoadComplete q.id m pl) s = fin ((s.landAtomic q (n == 9)).finishReq q.id) := by
  change execQueuedLoadComplete q.id m pl s = _
  simp [execQueuedLoadComplete, hreqs, hk, helems, hdone, hclk, Req.open', hfin]

/-- A RETURNING ATOMIC COMPLETES: its register takes the value that its element has read, or zero where zero mode dropped the
element, its flag falls, and FADDB's predicate bit follows (R160, R176, R177). -/
theorem queuedLoadComplete_atomic (hreqs : s.reqs = [q]) (helems : q.elems = [d]) (hk : q.kind = .atomic n)
    (hdone : d.done = true) (hclk : q.at' + 12 ≤ s.clk) (hfin : q.finished = false) (hdead : d.dead = false) (hlt : d.t < 32)
    (hp : q.predDead.getLsbD d.t = false) (hw : s.wale? q.wale = some w) (hmq : w.mq = []) (ht : w.trap = none)
    (habs : s.absentHit = false) (hsv : mSorted w.v = true) (hsq : mSorted w.q = true) (hsf : mSorted w.flags = true) :
    ∃ t v, exec (.queuedLoadComplete q.id 0 .home) s = .next t ∧ t.wale? q.wale = some v ∧ t.reqs = [] ∧
      mGet 0 v.v ((q.reg + d.j) * 32 + d.t) = (if d.zero then 0 else d.val.truncate 32) ∧
      (∀ k, q.flag = some k → v.flag k = w.flag k - 1) ∧ t.mem = s.mem ∧
      (n = 9 → d.zero = false → (mGet 0 v.q q.pred).getLsbD d.t = (d.val2 != 0)) := by
  obtain ⟨lreqs, lmem, labs, lwale⟩ := landAtomic_one hreqs helems hdead hw hmq ht (n == 9)
  obtain ⟨freqs, fmem, fabs, fwale⟩ := finishReq_one lreqs hk lwale
  refine ⟨_, _, (exec_queuedLoadComplete_atomic hreqs helems hk hdone hclk hfin 0 .home).trans
    (fin_next (fabs.trans (labs.trans habs))), fwale, freqs, ?_, fun k hf => ?_, fmem.trans lmem, fun hn hz => ?_⟩
  · rw [(lower_regs _ _).1]
    cases n == 9 <;> exact mGet_mSet_self 0 _ _ hsv
  · rw [hf]
    cases n == 9 <;> exact flag_lower hsf
  · obtain ⟨hm, ho⟩ := predMask_one helems hlt hp hz
    rw [(lower_regs _ _).2, hn, ← ho]
    exact predLanded_bit hsq hm

end Completes

/-- Where an atomic is performed by its space and scope (R178). -/
theorem atCluster_eq {q : Req} (hrel : q.rel = none) (l : Nat) :
    q.atCluster l = (locDevice l && q.space != 6 && !scHome q.scope) := by simp [Req.atCluster, hrel]

/-- What the cluster unit performs the port does not (R178). -/
theorem atPort_of_atCluster {q : Req} {l : Nat} (h : q.atCluster l = true) : q.atPort l = false := by
  have hs : scHome q.scope = false := by simp [Req.atCluster] at h; exact h.1.2
  have hne : q.scope ≠ .sys := by
    rintro hq
    rw [hq] at hs
    exact absurd hs (by decide)
  simp [Req.atPort, hne]

/-- An atomic is performed at its level, and a returning one completes. -/
theorem atomicPerformed : AtomicPerformed := by
  intro s w q e n h hb _ hk
  have hall := h
  obtain ⟨hcan, habs, -, -, hw, hmq, -, -, -, -, -, -, -, hclk, hfin, -, hrel, -⟩ := hall
  refine ⟨atomicPerform_port h hb hk, atomicPerform_home h hb hk, fun hc => atomicPerform_cluster h hb hk (atPort_of_atCluster hc) hc,
    fun _ hl => ?_, fun hs hl => ?_, fun d hkind hdone hdead hlt ht hp => ?_⟩
  · simp [Req.atPort, Req.atCluster, hl]
  · have h6 : (q.space != 6) = true := by simp; omega
    simp [Req.atPort, atCluster_eq hrel, hl, h6]
  · obtain ⟨hsv, hsq, hsf⟩ := wale_canonical hcan hw
    exact queuedLoadComplete_atomic (s := { s with reqs := [{ q with elems := [d] }] }) (q := { q with elems := [d] }) rfl rfl hkind
      hdone hclk hfin hdead hlt hp hw hmq ht habs hsv hsq hsf

/-- Settles O28: each level's step on a request alone in its queue, and the values that it writes. -/
theorem atomics : Obligations.Atomics := ⟨atomicPerformed, atomicValues⟩

end Sys2Proof.Machine
end

section
/-!
PROOF. The weaver's operations: EVPOP, the submission of the long-latency operations, and their completion (O24).
-/
namespace Sys2Proof.Machine
open Claims

/-! ### Issue -/

/-- A weaver operation that is ready takes effect. -/
theorem wvOp_ready {s : State} {w : Wale} {f : WvForm} {flagless : Wale → Bool} {uses : List Nat}
    {go : Wale → Host.Outcome State Fault Refusal} (h : WeaverReady s w f uses) (hf : flagless w = false) :
    s.wvOp f flagless uses go = go w := by
  obtain ⟨hcur, hpriv, hkind, hface, hact, hstall⟩ := h
  have hk : (w.kind != .weaver && w.kind != .wale) = false := by rcases hkind with hk | hk <;> simp [hk]
  have he : (f.face != .both && w.active f.face == 0) = false := by
    rcases hact with hb | ha
    · simp [hb]
    · rw [beq_eq_false_iff_ne.2 ha, Bool.and_false]
  rw [State.wvOp, withCur_eq _ hcur]
  simp only [hpriv, hk, hf, hface, he, hstall, Bool.not_true, Bool.false_eq_true, if_false]

/-- Outside the weaver and a handler a weaver operation is PRIV (R76). -/
theorem wvOp_priv {s : State} {w : Wale} {f : WvForm} {flagless : Wale → Bool} {uses : List Nat}
    {go : Wale → Host.Outcome State Fault Refusal} (h : AtHand s w) (hp : w.privileged = false) :
    s.wvOp f flagless uses go = s.raise w .priv (w.active f.face) := by
  rw [State.wvOp, withCur_eq _ h]
  simp only [hp, Bool.not_false, if_true]

/-- A weaver operation that needs a flag and selects 15 is ILLEGAL_MOD (R63). -/
theorem wvOp_flagless {s : State} {w : Wale} {f : WvForm} {flagless : Wale → Bool} {uses : List Nat}
    {go : Wale → Host.Outcome State Fault Refusal} (h : AtHand s w) (hp : w.privileged = true)
    (hkind : w.kind = .weaver ∨ w.kind = .wale) (hf : flagless w = true) :
    s.wvOp f flagless uses go = s.raise w .illegalMod (w.active f.face) := by
  have hk : (w.kind != .weaver && w.kind != .wale) = false := by rcases hkind with hk | hk <;> simp [hk]
  rw [State.wvOp, withCur_eq _ h]
  simp only [hp, hk, hf, Bool.not_true, Bool.false_eq_true, if_false, if_true]

/-! ### EVPOP -/

/-- The four result words of EVPOP, of the record's number `x` (R158). -/
def evpopFlights (w : Wale) (d x clk : Nat) : List InFlight :=
  (List.range 4).map fun j => scFlight w (d + j) (BitVec.ofNat 32 (x / 2 ^ (32 * j))) clk 4

/-- A pending scalar result covers its scalar from its clk on (R101). -/
theorem scFlight_covers_iff {w : Wale} {n clk lat r t c : Nat} {v : W32} :
    (scFlight w n v clk lat).covers .s r t c = true ↔ n = r ∧ t = 0 ∧ clk + lat ≤ c := by
  simp [InFlight.covers, scFlight, and_assoc, -BitVec.getLsbD_eq_getElem]

/-- EVPOP's result words are pending. -/
theorem pendingVal_evpop {w : Wale} {d x clk c j : Nat} (hj : j < 4) (hc : clk + 4 ≤ c) (l0 : List InFlight) :
    pendingVal (l0 ++ evpopFlights w d x clk) .s (d + j) 0 c = some (BitVec.ofNat 32 (x / 2 ^ (32 * j))) := by
  refine pendingVal_eq (fun e he hcov => ?_) ⟨scFlight w (d + j) (BitVec.ofNat 32 (x / 2 ^ (32 * j))) clk 4,
    List.mem_map.2 ⟨j, List.mem_range.2 hj, rfl⟩, scFlight_covers_iff.2 ⟨rfl, rfl, hc⟩⟩ l0
  obtain ⟨i, _, rfl⟩ := List.mem_map.1 he
  have hi : i = j := Nat.add_left_cancel (scFlight_covers_iff.1 hcov).1
  rw [hi]
  rfl

/-- A scalar with a pending result reads as it. -/
theorem sAt_of_pending {w : Wale} {n clk : Nat} {x : W32} (h : pendingVal w.inflight .s n 0 clk = some x) : w.sAt n clk = x := by
  simp [Wale.sAt, h]

/-- EVPOP of an empty queue (R158). -/
theorem execEvpop_empty {s : State} {w : Wale} {f : WvForm} (h : WeaverReady s w f []) (he : mGet [] s.events w.core = []) :
    exec (.evpop f) s = .next (s.issueWith w (evpopFlights w f.d 0 s.clk) 1 0) := by
  change execEvpop f s = _
  rw [execEvpop, wvOp_ready h rfl]
  simp only [he]
  rfl

/-- EVPOP of the oldest record acquires what its poster had released (R158, R244). -/
theorem execEvpop_record {s : State} {w : Wale} {f : WvForm} {e : EvRec} {r : List EvRec} (h : WeaverReady s w f [])
    (he : mGet [] s.events w.core = e :: r) :
    exec (.evpop f) s = .next (({ s with events := mSet [] s.events w.core r } : State).issueWith
      { w with stamp := stampJoin w.stamp e.stamp, acqClk := s.clk } (evpopFlights w f.d e.data.toNat s.clk) 1 0) := by
  change execEvpop f s = _
  rw [execEvpop, wvOp_ready h rfl]
  simp only [he]
  rfl

/-- After an issue with results the wale at hand is found with them pending. -/
theorem wale?_issueWith_cur {s u : State} {w v : Wale} (h : AtHand s w) (hu : u.wales = s.wales) (hv : v.id = w.id)
    (l : List InFlight) (o b : Nat) :
    (u.issueWith v l o b).wale? s.cur = some (({ v with inflight := v.inflight ++ l } : Wale).advance u.clk b) := by
  have hid : v.id = s.cur := hv.trans (wale?_id h)
  have hw : u.wale? v.id = some w := by rw [hid, State.wale?, hu]; exact h
  rw [← hid]
  exact wale?_issueWith l o b hw

/-- EVPOP gives the four words of the oldest record, or zeros. -/
theorem evpopCompletes : EvpopCompletes := by
  intro f s w h
  refine ⟨fun he => ?_, fun e r he => ?_⟩
  · refine ⟨_, _, execEvpop_empty h he, wale?_issueWith_cur h.1 rfl rfl _ 1 0, fun j hj clk hc => ?_,
      ⟨rfl, rfl, rfl, rfl, rfl, rfl, rfl, rfl, rfl, rfl, rfl⟩, by simp, by simp⟩
    exact (sAt_of_pending (pendingVal_evpop hj hc w.inflight)).trans (by simp)
  · refine ⟨_, _, execEvpop_record h he, wale?_issueWith_cur (u := { s with events := mSet [] s.events w.core r })
      (v := { w with stamp := stampJoin w.stamp e.stamp, acqClk := s.clk }) h.1 rfl rfl _ 1 0, fun j hj clk hc => ?_,
      ⟨rfl, rfl, rfl, rfl, rfl, rfl, rfl, rfl, rfl, rfl, rfl⟩, by simp, rfl, rfl, by simp⟩
    refine (sAt_of_pending (pendingVal_evpop hj hc w.inflight)).trans ?_
    rw [BitVec.extractLsb', Nat.shiftRight_eq_div_pow]

/-! ### Submission -/

/-- The operation that a wale submits (R158). -/
def submitted (s : State) (w : Wale) (f : WvForm) (op na : Nat) : WvPend :=
  { op := op, ctx := w.ctx, d := f.d
    a0 := if na = 0 then 0 else BitVec.ofNat 64 (w.s64At (if op = 6 then f.a + 1 else f.a) s.clk), b := f.b
    s0 := w.sAt f.a s.clk, flag := w.flagSel f.fsel, owner := w.id, no := w.issueNo, dead := [], issued := s.clk }

section Long
variable {s : State} {w : Wale} {f : WvForm} {op na k : Nat}

/-- A long-latency operation is submitted when its flag can be raised and the core's earlier one is not pending (R32, R158). -/
theorem wvLong_submits (h : WeaverReady s w f ((List.range na).map (f.a + ·))) (hk : w.flagSel f.fsel = some k)
    (hlt : w.flag k < 63) (hp : mFind s.wvPend w.core = none) : s.wvLong f op na =
      .next (({ s with wvPend := mPut s.wvPend w.core (submitted s w f op na) } : State).issued (w.raise (some k)) 0) := by
  rw [State.wvLong, wvOp_ready h (by simp [hk])]
  simp only [hk, Wale.canRaise, hlt, hp, decide_true, Bool.not_true, Option.isSome_none, Bool.or_self, Bool.false_eq_true, if_false,
    submitted]

/-- Otherwise it waits (R32; log 137). -/
theorem wvLong_waits (h : WeaverReady s w f ((List.range na).map (f.a + ·))) (hk : w.flagSel f.fsel = some k)
    (hw : 63 ≤ w.flag k ∨ (mFind s.wvPend w.core).isSome = true) : s.wvLong f op na = .next (s.hold w .flagWait false) := by
  have hheld : (!w.canRaise (w.flagSel f.fsel) || (mFind s.wvPend w.core).isSome) = true := by
    rcases hw with hw | hw <;> simp [Wale.canRaise, hk, hw]
  rw [State.wvLong, wvOp_ready h (by simp [hk])]
  simp only [hheld, if_true]

/-- A flag raised has risen by one. -/
theorem flag_raise (w : Wale) (k : Nat) : (w.raise (some k)).flag k = w.flag k + 1 :=
  mGet_mSet_self_of_ne 0 _ _ (Nat.succ_ne_zero _)

/-- What the submission of an operation leaves. -/
theorem goes_wvLong {i : Instr} (hi : exec i s = s.wvLong f op na)
    (h : WeaverReady s w f ((List.range na).map (f.a + ·))) (hk : w.flagSel f.fsel = some k) (hlt : w.flag k < 63)
    (hp : mFind s.wvPend w.core = none) : Goes i s fun t v => v.flag k = w.flag k + 1 ∧ Advanced s w v 0 ∧ t.mem = s.mem ∧
      t.events = s.events ∧ t.wvPend = mPut s.wvPend w.core (submitted s w f op na) := by
  have hid : w.id = s.cur := wale?_id h.1
  have hw : ({ s with wvPend := mPut s.wvPend w.core (submitted s w f op na) } : State).wale? (w.raise (some k)).id = some w := by
    change s.wale? w.id = some w
    rw [hid]
    exact h.1
  have hv := wale?_issued 0 hw
  rw [show (w.raise (some k)).id = s.cur from hid] at hv
  refine ⟨_, _, hi.trans (wvLong_submits h hk hlt hp), hv, flag_raise w k, ⟨rfl, rfl, rfl⟩, ?_, ?_, ?_⟩ <;> simp

end Long

/-- Each instruction of the table is a long-latency operation. -/
theorem exec_weaverOps (f : WvForm) (s : State) : ∀ p ∈ weaverOps f, exec p.1 s = s.wvLong f p.2.1 p.2.2 := by
  have h : (weaverOps f).map (fun p => exec p.1 s) = (weaverOps f).map fun p => s.wvLong f p.2.1 p.2.2 := rfl
  exact List.map_inj_left.1 h

/-- Of the table's operations SYMWALK alone reads three scalars; the others that read any read two. -/
theorem weaverOps_reads (f : WvForm) : ∀ p ∈ weaverOps f, (p.2.2 = 2 → p.2.1 ≠ 6) ∧ (p.2.2 = 3 → p.2.1 = 6) := by
  simp [weaverOps]

/-- Where each weaver operation is submitted, waits or traps. -/
theorem weaverOperationsSubmit : WeaverOperationsSubmit := by
  intro f s w p hp
  have hexec := exec_weaverOps f s p hp
  obtain ⟨htwo, hthree⟩ := weaverOps_reads f p hp
  refine ⟨fun k h hk => ⟨fun hlt hpend => ?_, fun hw => ?_⟩, fun h hpriv hkind hk => ?_, fun h hpriv => ⟨?_, ?_⟩⟩
  · obtain ⟨t, v, he, hv, hflag, hadv, hmem, hev, hpend'⟩ := goes_wvLong hexec h hk hlt hpend
    refine ⟨t, v, he, hv, hflag, hadv, hmem, hev, _, hpend', rfl, rfl, rfl, hk, rfl, fun h2 => ?_, fun h3 => ⟨rfl, ?_⟩⟩
    · simp [submitted, h2, htwo h2]
    · simp [submitted, h3, hthree h3]
  · rw [hexec, wvLong_waits h hk hw]
  · rw [hexec, State.wvLong, wvOp_flagless h hpriv hkind (by simp [hk])]
  · rw [hexec, State.wvLong, wvOp_priv h hpriv]
  · change execEvpop f s = _
    rw [execEvpop, wvOp_priv h hpriv]

/-! ### Completion -/

/-- The result scalar of a weaver operation that lands at a wale, unless a later instruction has written it (R30). -/
def landScalar (p : WvPend) (w : Wale) (x : W32) (j : Nat) : Wale :=
  if p.dead.contains (p.d + j) then w
  else { w with s := mSet 0 w.s (p.d + j) x, inflight := w.older .s (p.d + j) p.no 1 }

/-- One more result scalar lands after the others. -/
theorem landScalars_append (w : Wale) (p : WvPend) (ws : List W32) (x : W32) :
    w.landScalars p (ws ++ [x]) = landScalar p (w.landScalars p ws) x ws.length := by
  have hsplit : (ws ++ [x]).zip (List.range (ws ++ [x]).length) = ws.zip (List.range ws.length) ++ [(x, ws.length)] := by
    simp [List.range_succ, List.zip_append]
  unfold Wale.landScalars
  rw [hsplit, List.foldl_append]
  rfl

/-- One result scalar: what it keeps, what it writes and what it leaves. -/
theorem landScalar_spec (p : WvPend) (w : Wale) (x : W32) (j : Nat) (hs : mSorted w.s = true) :
    (landScalar p w x j).flags = w.flags ∧ mSorted (landScalar p w x j).s = true ∧
      (p.d + j ∉ p.dead → mGet 0 (landScalar p w x j).s (p.d + j) = x) ∧
      (∀ r, r ≠ p.d + j ∨ r ∈ p.dead → mGet 0 (landScalar p w x j).s r = mGet 0 w.s r) := by
  by_cases hd : p.d + j ∈ p.dead
  · have he : landScalar p w x j = w := by simp [landScalar, hd]
    rw [he]
    exact ⟨rfl, hs, fun h => absurd hd h, fun _ _ => rfl⟩
  · have he : landScalar p w x j = { w with s := mSet 0 w.s (p.d + j) x, inflight := w.older .s (p.d + j) p.no 1 } := by
      simp [landScalar, hd]
    rw [he]
    exact ⟨rfl, mSorted_mSet 0 _ _ hs, fun _ => mGet_mSet_self 0 _ _ hs,
      fun r hr => mGet_mSet_ne 0 _ hs (hr.elim id fun h e => hd (e ▸ h))⟩

/-- The result scalars that land leave the serial of the wale. -/
@[simp] theorem landScalars_id (w : Wale) (p : WvPend) (ws : List W32) : (w.landScalars p ws).id = w.id := by
  induction ws using List.reverseRecOn with
  | nil => rfl
  | append_singleton ws x ih =>
    rw [landScalars_append, landScalar]
    split <;> exact ih

/-- The result scalars that land: what they keep, what they write and what they leave (R30). -/
theorem landScalars_spec (w : Wale) (p : WvPend) (ws : List W32) (hs : mSorted w.s = true) :
    (w.landScalars p ws).flags = w.flags ∧ mSorted (w.landScalars p ws).s = true ∧
      (∀ j < ws.length, p.d + j ∉ p.dead → mGet 0 (w.landScalars p ws).s (p.d + j) = ws.getD j 0) ∧
      (∀ r, r < p.d ∨ p.d + ws.length ≤ r ∨ r ∈ p.dead → mGet 0 (w.landScalars p ws).s r = mGet 0 w.s r) := by
  induction ws using List.reverseRecOn with
  | nil => exact ⟨rfl, hs, by simp, fun _ _ => rfl⟩
  | append_singleton ws x ih =>
    obtain ⟨hfl, hso, hin, hout⟩ := ih
    obtain ⟨hfl', hso', hself, hne⟩ := landScalar_spec p (w.landScalars p ws) x ws.length hso
    rw [landScalars_append]
    refine ⟨hfl'.trans hfl, hso', fun j hj hd => ?_, fun r hr => ?_⟩
    · rcases Nat.lt_succ_iff_lt_or_eq.1 (show j < ws.length + 1 by simpa using hj) with hj | rfl
      · rw [hne _ (.inl (by omega)), hin j hj hd]
        simp [List.getD, hj, List.getElem?_append_left]
      · rw [hself hd]
        simp [List.getD]
    · rw [List.length_append, List.length_singleton] at hr
      rw [hne r (by rcases hr with h | h | h <;> [exact .inl (by omega); exact .inl (by omega); exact .inr h]),
        hout r (by rcases hr with h | h | h <;> [exact .inl h; exact .inr (.inl (by omega)); exact .inr (.inr h)])]

/-- The scalars and the flags of a wale of a canonical state are canonical. -/
theorem scalars_canonical {s : State} {i : Nat} {w : Wale} (h : s.canonical = true) (hw : s.wale? i = some w) :
    mSorted w.s = true ∧ mSorted w.flags = true := by
  simp only [State.canonical, Bool.and_eq_true, List.all_eq_true] at h
  have hc := h.1.1.2 w (wale?_mem hw)
  simp only [Wale.canonical, Bool.and_eq_true] at hc
  tauto

/-- A flag lowered leaves serial and scalars. -/
theorem lower_keeps (w : Wale) (k : Option Nat) : (w.lower k).id = w.id ∧ (w.lower k).s = w.s := by
  cases k <;> exact ⟨rfl, rfl⟩

/-- The wale of an operation after its results `ws` have landed and its flag fell. -/
def landedAt (w : Wale) (p : WvPend) (ws : List W32) : Wale := (w.landScalars p ws).lower p.flag

/-- It is found under its serial. -/
theorem wale?_landed {u : State} {p : WvPend} {w : Wale} (ws : List W32) (hu : u.wale? p.owner = some w) :
    (u.onWale p.owner fun w => landedAt w p ws).wale? p.owner = some (landedAt w p ws) := by
  rw [wale?_onWale_self u p.owner (fun w => landedAt w p ws) fun x => (lower_keeps _ _).1.trans (landScalars_id x p ws), hu]
  rfl

/-- Its flag and its scalars. -/
theorem landedAt_spec {w : Wale} {p : WvPend} {k : Nat} (ws : List W32) (hk : p.flag = some k) (hs : mSorted w.s = true)
    (hf : mSorted w.flags = true) : (landedAt w p ws).flag k = w.flag k - 1 ∧
      (∀ j < ws.length, p.d + j ∉ p.dead → mGet 0 (landedAt w p ws).s (p.d + j) = ws.getD j 0) ∧
      (∀ r, r < p.d ∨ p.d + ws.length ≤ r ∨ r ∈ p.dead → mGet 0 (landedAt w p ws).s r = mGet 0 w.s r) := by
  obtain ⟨hfl, _, hin, hout⟩ := landScalars_spec w p ws hs
  rw [show (landedAt w p ws).s = (w.landScalars p ws).s from (lower_keeps _ _).2]
  refine ⟨?_, hin, hout⟩
  rw [landedAt, hk, flag_lower (hfl ▸ hf), Wale.flag, hfl]
  rfl

section Done
variable {core k : Nat} {s : State} {p : WvPend} {w : Wale}

/-- The state from which a pending operation is performed: it is pending no more. -/
def taken (s : State) (core : Nat) : State := { s with wvPend := mDel s.wvPend core }

/-- What an operation with the results `ws` completes to, when the rest of it keeps the wales, memory and what is pending. -/
theorem ends_of_perform {u : State} {ws : List W32} {n : Nat} (hcan : s.canonical = true) (hw : s.wale? p.owner = some w)
    (hk : p.flag = some k) (hex : exec (.weaverOperationComplete core) s = .next (u.onWale p.owner fun w => landedAt w p ws))
    (hwales : u.wales = s.wales) (hpend : u.wvPend = mDel s.wvPend core) (hmem : u.mem = s.mem) (hn : ws.length = n) :
    ∃ t v, exec (.weaverOperationComplete core) s = .next t ∧ t.wale? p.owner = some v ∧ v.flag k = w.flag k - 1 ∧
      t.wvPend = mDel s.wvPend core ∧ t.mem = s.mem ∧
      (∀ j < n, p.d + j ∉ p.dead → mGet 0 v.s (p.d + j) = ws.getD j 0) ∧
      (∀ r, (r < p.d ∨ p.d + n ≤ r ∨ r ∈ p.dead) → mGet 0 v.s r = mGet 0 w.s r) := by
  obtain ⟨hs, hf⟩ := scalars_canonical hcan hw
  obtain ⟨hflag, hin, hout⟩ := landedAt_spec (w := w) ws hk hs hf
  have hu : u.wale? p.owner = some w := by rw [State.wale?, hwales]; exact hw
  subst hn
  exact ⟨_, _, hex, wale?_landed ws hu, hflag, hpend, hmem, hin, hout⟩

/-- A pending operation that may be performed is performed. -/
theorem exec_performs (hp : mFind s.wvPend core = some p) (hr : s.wvReady core p = true) :
    exec (.weaverOperationComplete core) s = .next (s.wvPerform core p) := by
  change execWeaverOperationComplete core s = _
  simp only [execWeaverOperationComplete, hp, hr, if_true]

/-- One that may not yet be performed waits for the homes of what it accesses (R380). -/
theorem exec_waits (hp : mFind s.wvPend core = some p) (hr : s.wvReady core p = false) :
    exec (.weaverOperationComplete core) s = .next (s.stirHomes (s.wvLocs p)) := by
  change execWeaverOperationComplete core s = _
  simp only [execWeaverOperationComplete, hp, hr, Bool.false_eq_true, if_false]

/-- SLEW.QUERY accesses no device location, so it may always be performed. -/
theorem wvReady_slewQuery (h : p.op = 8) : s.wvReady core p = true := by
  unfold State.wvReady State.wvLocs
  rw [h]
  cases s.wale? p.owner <;> simp

/-- SLEW.QUERY gives the engine's snapshot. -/
theorem wvPerform_slewQuery (h : p.op = 8) :
    s.wvPerform core p = (taken s core).onWale p.owner fun w => landedAt w p s.slewSnapshot := by
  unfold State.wvPerform
  rw [h]
  rfl

/-- The snapshot has four words (R345). -/
theorem length_slewSnapshot (s : State) : s.slewSnapshot.length = 4 := by
  unfold State.slewSnapshot
  dsimp only
  split <;> rfl

/-- SYMWALK by a mapping gives its words. -/
theorem wvPerform_symwalk {sym : W32} {grid : List Nat} (h : p.op = 6)
    (hsym : s.symOfRec p.ctx (addr52 p.a0.toNat) = some (sym, grid)) :
    s.wvPerform core p = (taken s core).onWale p.owner fun w => landedAt w p (symWords sym grid p.s0.toNat) := by
  have hsym' : (taken s core).symOfRec p.ctx (addr52 p.a0.toNat) = some (sym, grid) := hsym
  have hdo : (taken s core).doSymwalk p.ctx (addr52 p.a0.toNat) p.s0.toNat = (symWords sym grid p.s0.toNat, taken s core) := by
    simp only [State.doSymwalk, hsym']
  unfold State.wvPerform
  rw [h]
  change (((taken s core).doSymwalk p.ctx (addr52 p.a0.toNat) p.s0.toNat).2.onWale p.owner fun w =>
    landedAt w p ((taken s core).doSymwalk p.ctx (addr52 p.a0.toNat) p.s0.toNat).1) = _
  rw [hdo]

/-- SYMWALK gives five words (R304). -/
theorem length_symWords (sym : W32) (grid : List Nat) (rank : Nat) : (symWords sym grid rank).length = 5 := by
  unfold symWords
  dsimp only
  split <;> simp

end Done

/-! ### SLEW.START's release -/

/-- Two states agree on the wales, the pending operations of the weavers and the slew engine. -/
def SameWeavers (s t : State) : Prop := t.wales = s.wales ∧ t.wvPend = s.wvPend ∧ t.slew = s.slew

theorem SameWeavers.trans {s t u : State} (h : SameWeavers s t) (h' : SameWeavers t u) : SameWeavers s u := by
  obtain ⟨hw, hp, hs⟩ := h
  obtain ⟨hw', hp', hs'⟩ := h'
  exact ⟨hw'.trans hw, hp'.trans hp, hs'.trans hs⟩

/-- Steps that each keep them keep them together. -/
theorem sameWeavers_foldl {α : Type} {f : State → α → State} (hf : ∀ s x, SameWeavers s (f s x)) (l : List α) (s : State) :
    SameWeavers s (l.foldl f s) := by
  induction l generalizing s with
  | nil => exact ⟨rfl, rfl, rfl⟩
  | cons x l ih => exact (hf s x).trans (ih (f s x))

/-- A byte written back leaves them. -/
theorem sameWeavers_writeBack (s : State) (c l : Nat) (bs : List Byte) (r : NMap (List RelInfo)) :
    SameWeavers s { (s.writeLoc l bs).dropClean c l with rels := r } :=
  ⟨State.writeLoc_wales s l bs, State.writeLoc_wvPend s l bs, State.writeLoc_slew s l bs⟩

/-- A cache written back leaves the weavers and the slew engine. -/
theorem sameWeavers_flushCluster (s : State) (c : Nat) : SameWeavers s (s.flushCluster c) := by
  obtain ⟨hw, hp, hs⟩ := sameWeavers_foldl (f := fun (s : State) (p : Nat × DirtyByte) => _)
    (fun s p => sameWeavers_writeBack s c (p.1 - cacheKey c 0) [p.2.v] _)
    (s.dirty.filter fun p => decide (cacheKey c 0 ≤ p.1) && decide (p.1 < cacheKey (c + 1) 0)) s
  exact ⟨hw, hp, hs⟩

/-- So does a release. -/
theorem sameWeavers_release (s : State) (w : Wale) (sc : Scope) (loop : Bool) (far : List Req) :
    SameWeavers s (s.release w sc loop far).2 := by
  unfold State.release
  by_cases hd : (sc == .grp || sc == .clu) = true <;> by_cases hc : sc.code < 4 <;> simp only [hd, hc, if_true, if_false] <;>
    exact ⟨rfl, rfl, rfl⟩

/-- And the release that SLEW.START makes for its wale. -/
theorem sameWeavers_slewRelease (s : State) (p : WvPend) : SameWeavers s (s.slewRelease p).2 := by
  unfold State.slewRelease
  split
  · rename_i w _
    exact (sameWeavers_release s { w with issueNo := p.no } .dev false _).trans (sameWeavers_flushCluster _ _)
  · exact ⟨rfl, rfl, rfl⟩

/-- While the engine runs, SLEW.START gives 1 and leaves it (R347). -/
theorem slewStart_busy {s : State} (h : s.slew.st = .planning ∨ s.slew.st = .pulling ∨ s.slew.st = .switching)
    (bctx va : Nat) (stamp : List Nat) : s.slewStart bctx va stamp = (1, s) := by
  have hb : (s.slew.st == .planning || s.slew.st == .pulling || s.slew.st == .switching) = true := by
    rcases h with h | h | h <;> simp [h]
  simp only [State.slewStart, hb, if_true]

/-- What SLEW.START leaves of a running engine: its release made, and its one word 1. -/
theorem wvPerform_slewBusy {core : Nat} {s : State} {p : WvPend} (h : p.op = 7)
    (hst : s.slew.st = .planning ∨ s.slew.st = .pulling ∨ s.slew.st = .switching) :
    s.wvPerform core p = ((taken s core).slewRelease p).2.onWale p.owner fun w => landedAt w p [1] := by
  obtain ⟨_, _, hslew⟩ := sameWeavers_slewRelease (taken s core) p
  have hbusy := slewStart_busy (s := ((taken s core).slewRelease p).2) (hslew ▸ hst) p.ctx (addr52 p.a0.toNat)
    ((taken s core).slewRelease p).1
  have hdo : (taken s core).doSlewStart (addr52 p.a0.toNat) p = (1, ((taken s core).slewRelease p).2) := hbusy
  unfold State.wvPerform
  rw [h]
  change (((taken s core).doSlewStart (addr52 p.a0.toNat) p).2.onWale p.owner fun w =>
    landedAt w p [BitVec.ofNat 32 ((taken s core).doSlewStart (addr52 p.a0.toNat) p).1]) = _
  rw [hdo]
  rfl

/-- How each weaver operation completes. -/
theorem weaverOperationCompletes : WeaverOperationCompletes := by
  intro core s p hcan hp
  refine ⟨?_, fun w k hw hk => ⟨fun hop => ?_, exec_waits hp, fun hop hr hst => ?_, fun sym grid hop hr hsym => ?_⟩⟩
  · cases hr : s.wvReady core p with
    | false => exact ⟨_, exec_waits hp hr⟩
    | true => exact ⟨_, exec_performs hp hr⟩
  · have hex := (exec_performs hp (wvReady_slewQuery hop)).trans (congrArg _ (wvPerform_slewQuery hop))
    exact ends_of_perform hcan hw hk hex rfl rfl rfl (length_slewSnapshot s)
  · obtain ⟨hwales, hpend, hslew⟩ := sameWeavers_slewRelease (taken s core) p
    obtain ⟨hs, hf⟩ := scalars_canonical hcan hw
    obtain ⟨hflag, hin, _⟩ := landedAt_spec (w := w) [1] hk hs hf
    have hu : ((taken s core).slewRelease p).2.wale? p.owner = some w := by rw [State.wale?, hwales]; exact hw
    exact ⟨_, _, (exec_performs hp hr).trans (congrArg _ (wvPerform_slewBusy hop hst)), wale?_landed [1] hu, hflag, hpend, hslew,
      hin 0 (by simp)⟩
  · have hex := (exec_performs hp hr).trans (congrArg _ (wvPerform_symwalk hop hsym))
    exact ends_of_perform hcan hw hk hex rfl rfl rfl (length_symWords sym grid _)

/-- Settles O24: EVPOP at its queue, the submission of the long-latency operations, and how each completes. -/
theorem weaverOperations : Obligations.WeaverOperations := ⟨evpopCompletes, weaverOperationsSubmit, weaverOperationCompletes⟩

end Sys2Proof.Machine
end

section
/-!
PROOF. What each change of the state's tables does to the serial numbers of wales, weavers and streams (O59).
-/
namespace Sys2Proof.Machine
open Claims

/-- The serials of the wales `ws` lie below `n`. -/
def Below (n : Nat) (ws : List Wale) : Prop := ∀ w ∈ ws, w.id < n

/-- The serials of a state's wales are fresh: they lie below the next that a creation takes (R12). -/
@[simp] abbrev Fresh (s : State) : Prop := Below s.nextId s.wales

/-- An outcome's state, if it is one, has fresh serials. -/
def FreshOut (o : Host.Outcome State Fault Refusal) : Prop := ∀ t, o = .next t → Fresh t

/-- A change that keeps each serial keeps them fresh, and no other. -/
@[simp] theorem below_map {n : Nat} {ws : List Wale} {f : Wale → Wale} (hf : ∀ x, (f x).id = x.id) :
    Below n (ws.map f) ↔ Below n ws := by
  simp [Below, hf]

/-- The same of a state. -/
theorem fresh_mapWales (s : State) {f : Wale → Wale} (hf : ∀ x, (f x).id = x.id) : Fresh { s with wales := s.wales.map f } ↔ Fresh s :=
  below_map hf

/-- The serial of either of two wales. -/
@[simp] theorem id_ite (c : Prop) [Decidable c] (w x : Wale) : (if c then w else x).id = if c then w.id else x.id :=
  apply_ite Wale.id c w x

/-- A wale that takes the place of the one with its serial has that serial. -/
@[simp] theorem serial_symm (a b : Nat) : (a = b → b = a) ↔ True := iff_true_intro Eq.symm

/-- Steps that each keep serials fresh, and no more, do so together. -/
@[simp] theorem fresh_foldl {α : Type} {f : State → α → State} (hf : ∀ s x, Fresh (f s x) ↔ Fresh s) (l : List α) (s : State) :
    Fresh (l.foldl f s) ↔ Fresh s := by
  induction l generalizing s with
  | nil => rfl
  | cons x l ih => exact (ih (f s x)).trans (hf s x)

/-- Changes of a wale that each keep its serial keep it together. -/
@[simp] theorem foldl_id {α : Type} {f : Wale → α → Wale} (hf : ∀ w x, (f w x).id = w.id) (l : List α) (w : Wale) :
    (l.foldl f w).id = w.id := by
  induction l generalizing w with
  | nil => rfl
  | cons x l ih => exact (ih (f w x)).trans (hf w x)

/-- Steps on a state and something else do so too. -/
theorem fresh_foldl_fst {α β : Type} {f : State × β → α → State × β} (hf : ∀ p x, Fresh (f p x).1 ↔ Fresh p.1) (l : List α)
    (p : State × β) : Fresh (l.foldl f p).1 ↔ Fresh p.1 := by
  induction l generalizing p with
  | nil => rfl
  | cons x l ih => exact (ih (f p x)).trans (hf p x)

/-! ### What may fail -/

/-- What may fail to give a state from `s` keeps serials fresh, and no more, when it gives one. -/
def Kept (s : State) (o : Option State) : Prop := ∀ t, o = some t → (Fresh t ↔ Fresh s)

theorem kept_none (s : State) : Kept s none := fun _ h => nomatch h

theorem kept_some {s t : State} (h : Fresh t ↔ Fresh s) : Kept s (some t) := fun _ ht => Option.some.inj ht ▸ h

theorem kept_ite {c : Prop} [Decidable c] {s : State} {a b : Option State} (ha : Kept s a) (hb : Kept s b) :
    Kept s (if c then a else b) := by
  split
  · exact ha
  · exact hb

theorem kept_map {α : Type} {s : State} {f : α → State} (hf : ∀ x, Fresh (f x) ↔ Fresh s) (o : Option α) : Kept s (o.map f) := by
  cases o with
  | none => exact kept_none s
  | some x => exact kept_some (hf x)

theorem kept_bind {s : State} {o : Option State} {f : State → Option State} (ho : Kept s o) (hf : ∀ t, Kept t (f t)) :
    Kept s (o.bind f) := by
  intro t ht
  obtain ⟨u, hu, htu⟩ := Option.bind_eq_some_iff.1 ht
  exact (hf u t htu).trans (ho u hu)

theorem kept_foldl {α : Type} {s : State} {f : Option State → α → Option State} (hf : ∀ o x, Kept s o → Kept s (f o x)) (l : List α)
    {o : Option State} (ho : Kept s o) : Kept s (l.foldl f o) := by
  induction l generalizing o with
  | nil => exact ho
  | cons x l ih => exact ih (hf o x ho)

theorem kept_findSome {α : Type} {s : State} {f : α → Option State} (hf : ∀ x, Kept s (f x)) (l : List α) : Kept s (l.findSome? f) := by
  intro t ht
  obtain ⟨x, _, hx⟩ := List.exists_of_findSome?_eq_some ht
  exact hf x t hx

/-! ### Changes of a wale -/

@[simp] theorem vSet_id (w : Wale) (r t : Nat) (x : W32) : (w.vSet r t x).id = w.id := rfl

@[simp] theorem land_id (w : Wale) (e : InFlight) : (w.land e).id = w.id := by
  unfold Wale.land
  dsimp only
  (repeat' split) <;> rfl

@[simp] theorem settleList_id (clk : Nat) (l keep : List InFlight) (w : Wale) : (settleList clk l keep w).id = w.id := by
  induction l generalizing keep w with
  | nil => rfl
  | cons e l ih =>
    rw [settleList]
    split
    · rw [ih, land_id]
    · rw [ih]

@[simp] theorem settle_id (w : Wale) (clk : Nat) : (w.settle clk).id = w.id := settleList_id ..

@[simp] theorem settleAll_id (w : Wale) : w.settleAll.id = w.id := foldl_id land_id _ w

@[simp] theorem clearHandlerRegs_id (w : Wale) : w.clearHandlerRegs.id = w.id := by
  unfold Wale.clearHandlerRegs
  split <;> rfl

@[simp] theorem unstage_id (w : Wale) : w.unstage.id = w.id := rfl

@[simp] theorem enter_id (w : Wale) (handler : Nat) (r : TrapReq) : (w.enter handler r).id = w.id :=
  (clearHandlerRegs_id _).trans (settleAll_id w)

@[simp] theorem raise_id (w : Wale) (k : Option Nat) : (w.raise k).id = w.id := by cases k <;> rfl

@[simp] theorem lower_id (w : Wale) (k : Option Nat) : (w.lower k).id = w.id := by cases k <;> rfl

@[simp] theorem restore_id (w : Wale) (s : State) : (w.restore s).id = w.id := by
  unfold Wale.restore
  dsimp only
  split
  · rfl
  · exact clearHandlerRegs_id w

@[simp] theorem request_id (w : Wale) (h : IntervalHdr) (addr clk : Nat) : (w.request h addr clk).id = w.id := rfl

@[simp] theorem goto_id (w : Wale) (clk bound target : Nat) : (w.goto clk bound target).id = w.id := rfl

@[simp] theorem markFilled_id (ops : List NearOp) (w : Wale) : (markFilled ops w).id = w.id := rfl

@[simp] theorem acquire_id (w : Wale) (infos : List RelInfo) (sc : Scope) (rsp : Bool) (clk : Nat) :
    (w.acquire infos sc rsp clk).id = w.id := rfl

@[simp] theorem notice_id (w : Wale) (infos : List RelInfo) : (w.notice infos).id = w.id := rfl

@[simp] theorem markCand_id (s : State) (w : Wale) : (s.markCand w).id = w.id := by
  unfold State.markCand
  (repeat' split) <;> rfl

@[simp] theorem newWale_id (id : Nat) (kind : WaleKind) (core slot wg windex ctx budget pc clk : Nat) (exist : Mask) :
    (newWale id kind core slot wg windex ctx budget pc clk exist).id = id := rfl

@[simp] theorem awaited_id (w : Wale) (t0 clk : Nat) : (w.awaited t0 clk).id = w.id := rfl

@[simp] theorem toStop_id (w : Wale) (t0 clk : Nat) : (w.toStop t0 clk).id = w.id := by
  unfold Wale.toStop
  dsimp only
  split <;> rfl

@[simp] theorem moveBarw_id (a b n : Nat) (w : Wale) : (moveBarw a b n w).id = w.id := by
  unfold moveBarw
  (repeat' split) <;> rfl

@[simp] theorem revive_id (w : Wale) (t0 clk : Nat) : (w.revive t0 clk).id = w.id := rfl

@[simp] theorem stallHead_id (w : Wale) (b : Bool) : (w.stallHead b).id = w.id := by
  unfold Wale.stallHead
  split <;> rfl

@[simp] theorem stagedAt_id (w : Wale) (clk : Nat) : (w.stagedAt clk).id = w.id := by
  unfold Wale.stagedAt
  (repeat' split) <;> rfl

end Sys2Proof.Machine
end

section
/-!
PROOF. The operations that create no wale, weaver or stream keep serial numbers fresh (O59).
-/
namespace Sys2Proof.Machine
open Claims

/-! ### Shared operations -/

@[simp] theorem fresh_markDirty (s : State) (l : Nat) : Fresh (s.markDirty l) ↔ Fresh s := by
  unfold State.markDirty
  (repeat' split) <;> simp

@[simp] theorem fresh_keepOld (s : State) (k : Nat) : Fresh (s.keepOld k) ↔ Fresh s := by
  unfold State.keepOld
  split <;> simp

@[simp] theorem fresh_writeLoc (s : State) (l : Nat) (bs : List Byte) : Fresh (s.writeLoc l bs) ↔ Fresh s := by
  simp [State.writeLoc]

@[simp] theorem fresh_writeNat (s : State) (l n x : Nat) : Fresh (s.writeNat l n x) ↔ Fresh s := by
  simp [State.writeNat]

@[simp] theorem fresh_putWale (s : State) (w : Wale) : Fresh (s.putWale w) ↔ Fresh s := by
  simp [State.putWale]

@[simp] theorem fresh_onWale (s : State) (id : Nat) (f : Wale → Wale) (hf : ∀ x, (f x).id = x.id) :
    Fresh (State.onWale s id f) ↔ Fresh s := by
  simp [hf]

@[simp] theorem fresh_putWg (s : State) (g : Workgroup) : Fresh (s.putWg g) ↔ Fresh s := by
  simp [State.putWg]

@[simp] theorem fresh_onWg (s : State) (id : Nat) (f : Workgroup → Workgroup) : Fresh (s.onWg id f) ↔ Fresh s := by
  simp [State.onWg]

@[simp] theorem fresh_setReg (s : State) (off : Nat) (v : W64) : Fresh (s.setReg off v) ↔ Fresh s := by
  simp [State.setReg]

@[simp] theorem fresh_supersede (s : State) (w : Wale) (f : RFile) (r no : Nat) (m : Mask) :
    Fresh (s.supersede w f r no m) ↔ Fresh s := by
  simp [State.supersede]

@[simp] theorem fresh_supersedeAll (s : State) (w : Wale) (clk : Nat) : Fresh (s.supersedeAll w clk) ↔ Fresh s := by
  simp [State.supersedeAll]

@[simp] theorem fresh_pushFault (s : State) (r : FaultRec) : Fresh (s.pushFault r) ↔ Fresh s := by
  unfold State.pushFault
  dsimp only
  (repeat' split) <;> simp

@[simp] theorem fresh_quiet (s : State) (ctx : Nat) : Fresh (s.quiet ctx) ↔ Fresh s := by
  simp [State.quiet]

@[simp] theorem fresh_stopCtx (s : State) (ctx : Nat) (data : BitVec 512) : Fresh (s.stopCtx ctx data) ↔ Fresh s := by
  unfold State.stopCtx
  split <;> simp

@[simp] theorem fresh_stopWeaver (s : State) (core : Nat) : Fresh (s.stopWeaver core) ↔ Fresh s := by
  unfold State.stopWeaver
  split <;> simp

@[simp] theorem fresh_addObs (s : State) (off n : Nat) : Fresh (s.addObs off n) ↔ Fresh s := by
  simp [State.addObs]

@[simp] theorem fresh_holdPipe (s : State) (w : Wale) (clk : Nat) : Fresh (s.holdPipe w clk) ↔ Fresh s := by
  unfold State.holdPipe
  dsimp only
  (repeat' split) <;> simp

/-- A wale held keeps its serial. -/
@[simp] theorem below_hold (n : Nat) (s : State) (w : Wale) (reason : Reason) (watched : Bool) :
    Below n (s.hold w reason watched).wales ↔ Below n s.wales := by
  simp [State.hold]

@[simp] theorem fresh_hold (s : State) (w : Wale) (reason : Reason) (watched : Bool) : Fresh (s.hold w reason watched) ↔ Fresh s := by
  simp [State.hold]

@[simp] theorem fresh_issued (s : State) (w : Wale) (bound : Nat) : Fresh (s.issued w bound) ↔ Fresh s := by
  simp [State.issued]

@[simp] theorem fresh_issueWith (s : State) (w : Wale) (res : List InFlight) (occ bound : Nat) :
    Fresh (s.issueWith w res occ bound) ↔ Fresh s := by
  simp [State.issueWith]

@[simp] theorem fresh_landV (s : State) (id r t no : Nat) (x : W32) : Fresh (s.landV id r t no x) ↔ Fresh s := by
  unfold State.landV
  (repeat' split) <;> simp

/-! ### Translation -/

@[simp] theorem fresh_tlbFill (s : State) (unit ctx : Nat) (l : Leaf) : Fresh (s.tlbFill unit ctx l) ↔ Fresh s := by
  unfold State.tlbFill
  split <;> simp

@[simp] theorem fresh_fillBoth (s : State) (core ctx : Nat) (l : Leaf) : Fresh (s.fillBoth core ctx l) ↔ Fresh s := by
  simp [State.fillBoth]

@[simp] theorem fresh_fillVa (s : State) (core ctx va : Nat) : Fresh (s.fillVa core ctx va) ↔ Fresh s := by
  unfold State.fillVa
  split <;> simp

@[simp] theorem fresh_fillDie (s : State) (die ctx va : Nat) : Fresh (s.fillDie die ctx va) ↔ Fresh s := by
  unfold State.fillDie
  split <;> simp

/-! ### Layouts -/

@[simp] theorem fresh_showLayout (s : State) (ctx h : Nat) (r : LRec) : Fresh (s.showLayout ctx h r) ↔ Fresh s := by
  unfold State.showLayout
  dsimp only
  split <;> simp

@[simp] theorem fresh_putLayout (s : State) (ctx h : Nat) (r : LRec) : Fresh (s.putLayout ctx h r) ↔ Fresh s := by
  unfold State.putLayout
  split <;> simp

/-! ### Near memory -/

@[simp] theorem fresh_fenceClk (s : State) : Fresh (s.fenceClk) ↔ Fresh s := by
  simp [State.fenceClk]

@[simp] theorem fresh_fillNear (s : State) (o : NearOp) : Fresh (s.fillNear o) ↔ Fresh s := by
  unfold State.fillNear
  (repeat' split) <;> simp

@[simp] theorem fresh_wakeBarw (s : State) (l : Nat) (phase : Bool) : Fresh (s.wakeBarw l phase) ↔ Fresh s := by
  refine below_map fun w => ?_
  dsimp only
  (repeat' split) <;> rfl

@[simp] theorem fresh_arriveNear (s : State) (o : NearOp) : Fresh (s.arriveNear o) ↔ Fresh s := by
  unfold State.arriveNear
  dsimp only
  (repeat' split) <;> simp

@[simp] theorem fresh_bankClk (s : State) : Fresh (s.bankClk) ↔ Fresh s := by
  unfold State.bankClk
  dsimp only
  split
  · rfl
  · refine (below_map (markFilled_id _)).trans ((fresh_foldl fresh_arriveNear _ _).trans ((fresh_foldl (fun s o => ?_) _ _).trans ?_))
    · exact fresh_writeNat s o.loc o.size o.val.toNat
    · exact fresh_foldl fresh_fillNear _ _

@[simp] theorem fresh_layClk (s : State) : Fresh (s.layClk) ↔ Fresh s := by
  simp [State.layClk]

/-! ### The memory order -/

@[simp] theorem fresh_putDirty (s : State) (c l clk : Nat) (bs : List Byte) : Fresh (s.putDirty c l clk bs) ↔ Fresh s := by
  simp [State.putDirty]

@[simp] theorem fresh_putRels (s : State) (k n : Nat) (new : List RelInfo) : Fresh (s.putRels k n new) ↔ Fresh s := by
  simp [State.putRels]

@[simp] theorem fresh_dropClean (s : State) (c l : Nat) : Fresh (s.dropClean c l) ↔ Fresh s := by
  simp [State.dropClean]

@[simp] theorem fresh_flushKeys (s : State) (c lo hi : Nat) : Fresh (s.flushKeys c lo hi) ↔ Fresh s := by
  have hrest (t : State) (b : List (Nat × Nat)) (d : NMap DirtyByte) : Fresh { t with badWords := b, dirty := d } ↔ Fresh t := Iff.rfl
  have hrels (t : State) (r : NMap (List RelInfo)) : Fresh { t with rels := r } ↔ Fresh t := Iff.rfl
  unfold State.flushKeys
  refine (hrest _ _ _).trans (fresh_foldl (fun s p => (hrels _ _).trans ?_) _ s)
  simp

@[simp] theorem fresh_flushLine (s : State) (c l : Nat) : Fresh (s.flushLine c l) ↔ Fresh s := by
  simp [State.flushLine]

@[simp] theorem fresh_flushCluster (s : State) (c : Nat) : Fresh (s.flushCluster c) ↔ Fresh s := by
  simp [State.flushCluster]

@[simp] theorem fresh_flushAll (s : State) : Fresh (s.flushAll) ↔ Fresh s := by
  simp [State.flushAll]

@[simp] theorem fresh_stir (s : State) (die : Nat) : Fresh (s.stir die) ↔ Fresh s := by
  unfold State.stir
  split <;> simp

@[simp] theorem fresh_wake (s : State) (d : Nat) : Fresh (s.wake d) ↔ Fresh s := by
  unfold State.wake
  split <;> simp

@[simp] theorem fresh_rouse (s : State) (l : Nat) : Fresh (s.rouse l) ↔ Fresh s := by
  unfold State.rouse
  split <;> simp

@[simp] theorem fresh_fitCache (s : State) (c : Nat) : Fresh (s.fitCache c) ↔ Fresh s := by
  unfold State.fitCache
  dsimp only
  (repeat' split) <;> simp

@[simp] theorem fresh_cacheClk (s : State) : Fresh (s.cacheClk) ↔ Fresh s := by
  simp [State.cacheClk]

@[simp] theorem fresh_clearPend (s : State) (id : Nat) : Fresh (s.clearPend id) ↔ Fresh s := by
  simp [State.clearPend]

@[simp] theorem fresh_fillLine (s : State) (c l : Nat) : Fresh (s.fillLine c l) ↔ Fresh s := by
  unfold State.fillLine
  split <;> simp

@[simp] theorem fresh_onElems (s : State) (wale : Nat) (f : Req → Elem → Elem) : Fresh (s.onElems wale f) ↔ Fresh s := by
  simp [State.onElems]

@[simp] theorem fresh_unshare (s : State) (wale id : Nat) (e : Elem) : Fresh (s.unshare wale id e) ↔ Fresh s := by
  simp [State.unshare]

@[simp] theorem fresh_shareReads (s : State) (q : Req) : Fresh (s.shareReads q) ↔ Fresh s := by
  unfold State.shareReads
  split
  · rfl
  · refine fresh_foldl (fun s e => ?_) _ s
    split <;> simp

@[simp] theorem fresh_unshareAll (s : State) (wale no : Nat) : Fresh (s.unshareAll wale no) ↔ Fresh s := by
  simp [State.unshareAll]

@[simp] theorem fresh_joinImages (s : State) (wg : Nat) (infos : List RelInfo) : Fresh (s.joinImages wg infos) ↔ Fresh s := by
  unfold State.joinImages
  dsimp only
  split <;> simp

@[simp] theorem fresh_acquireBy (s : State) (id no : Nat) (infos : List RelInfo) (sc : Scope) (rsp : Bool) :
    Fresh (s.acquireBy id no infos sc rsp) ↔ Fresh s := by
  unfold State.acquireBy
  split <;> simp

/-! ### Counters -/

@[simp] theorem fresh_dbgDone (s : State) (st : Nat) : Fresh (s.dbgDone st) ↔ Fresh s := by
  simp [State.dbgDone]

@[simp] theorem fresh_bump (s : State) (off : Nat) : Fresh (s.bump off) ↔ Fresh s := by
  unfold State.bump
  dsimp only
  split <;> simp

@[simp] theorem fresh_countCorr (s : State) (d n : Nat) : Fresh (s.countCorr d n) ↔ Fresh s := by
  simp [State.countCorr]

@[simp] theorem fresh_countUncorr (s : State) (d n : Nat) : Fresh (s.countUncorr d n) ↔ Fresh s := by
  simp [State.countUncorr]

@[simp] theorem fresh_uncorrectable (s : State) (strct die : Nat) (site : ErrAt) :
    Fresh (s.uncorrectable strct die site) ↔ Fresh s := by
  simp [State.uncorrectable]

theorem kept_spoiled {s : State} {l n : Nat} {wr : Bool} {site : ErrAt} :
    Kept s (s.spoiled l n wr site) := kept_map (fun _ => fresh_uncorrectable ..) _

@[simp] theorem fresh_psWrite (s : State) (d l : Nat) (rec : BitVec 256) : Fresh (s.psWrite d l rec) ↔ Fresh s := by
  simp [State.psWrite]

@[simp] theorem fresh_psReport (s : State) (d : Nat) : Fresh (s.psReport d) ↔ Fresh s := by
  unfold State.psReport
  (repeat' split) <;> simp

@[simp] theorem fresh_psiak (s : State) (d : Nat) (rec : BitVec 256) : Fresh (s.psiak d rec) ↔ Fresh s := by
  unfold State.psiak
  dsimp only
  (repeat' split) <;> simp

@[simp] theorem fresh_logArrival (s : State) (w : Wale) (bar : Nat) : Fresh (s.logArrival w bar) ↔ Fresh s := by
  unfold State.logArrival
  dsimp only
  split <;> simp

@[simp] theorem fresh_postEv (s : State) (core : Nat) (data : BitVec 128) (die : Nat) (stamp : List Nat) :
    Fresh (s.postEv core data die stamp) ↔ Fresh s := by
  unfold State.postEv
  dsimp only
  split <;> simp

@[simp] theorem fresh_evClk (s : State) : Fresh (s.evClk) ↔ Fresh s := by
  refine fresh_foldl (fun t p => ?_) _ { s with evHeld := [] }
  dsimp only
  split <;> rfl

/-! ### Queued memory -/

@[simp] theorem fresh_fillReq (s : State) (q : Req) : Fresh (s.fillReq q) ↔ Fresh s := by
  unfold State.fillReq
  split
  · rfl
  · refine fresh_foldl (fun s e => ?_) _ s
    split <;> simp

@[simp] theorem fresh_putReq (s : State) (q : Req) : Fresh (s.putReq q) ↔ Fresh s := by
  simp [State.putReq]

@[simp] theorem fresh_finishReq (s : State) (id : Nat) : Fresh (s.finishReq id) ↔ Fresh s := by
  unfold State.finishReq
  dsimp only
  (repeat' split) <;> simp

@[simp] theorem fresh_markDone (s : State) (id i : Nat) (f : Elem → Elem) : Fresh (s.markDone id i f) ↔ Fresh s := by
  simp [State.markDone]

@[simp] theorem fresh_endRepeats (s : State) (q : Req) (e : Elem) : Fresh (s.endRepeats q e) ↔ Fresh s := by
  simp [State.endRepeats]

@[simp] theorem fresh_dropOld (s : State) (w : Wale) : Fresh (s.dropOld w) ↔ Fresh s := by
  simp [State.dropOld]

@[simp] theorem fresh_release (s : State) (w : Wale) (sc : Scope) (loop : Bool) (far : List Req) :
    Fresh (s.release w sc loop far).2 ↔ Fresh s := by
  unfold State.release
  (repeat' split) <;> simp

@[simp] theorem fresh_flushFor (s : State) (q : Req) : Fresh (s.flushFor q) ↔ Fresh s := by
  unfold State.flushFor
  (repeat' split) <;> simp

@[simp] theorem fresh_landLoad (s : State) (q : Req) (x : Nat × Elem) (v : Nat) : Fresh (s.landLoad q x v) ↔ Fresh s := by
  unfold State.landLoad
  (repeat' split) <;> simp

@[simp] theorem fresh_readRels (s : State) (q : Req) (infos : List RelInfo) : Fresh (s.readRels q infos) ↔ Fresh s := by
  unfold State.readRels
  split <;> simp

theorem kept_elemSpoiled {s : State} {q : Req} {es : List (Nat × Elem)} {wr : Bool} : Kept s (s.elemSpoiled q es wr) := by
  unfold State.elemSpoiled
  split
  · exact kept_none s
  · extract_lets n
    split
    · exact kept_none s
    · exact kept_spoiled

@[simp] theorem fresh_performLoad (s : State) (q : Req) (w : Wale) (es : List (Nat × Elem)) (p : Place) :
    Fresh (s.performLoad q w es p) ↔ Fresh s := by
  unfold State.performLoad
  extract_lets c l n land rsp fwd sh infos s1 s2 s3 infos' s4
  have hland (s : State) (vs : List Nat) : Fresh (land s vs) ↔ Fresh s :=
    fresh_foldl (fun s (x : (Nat × Elem) × Nat) => fresh_landLoad s q x.1 x.2) _ s
  have hrsp (s : State) : Fresh (rsp s) ↔ Fresh s := by
    simp only [rsp]
    split <;> simp
  have h1 : Fresh s1 ↔ Fresh s := (fresh_foldl (fun s x => fresh_unshare ..) _ _).trans (fresh_readRels ..)
  have h3 : Fresh s3 ↔ Fresh s := by
    simp only [s3]
    split
    · exact (fresh_flushLine ..).trans (hrsp s)
    · exact hrsp s
  have h4 : Fresh s4 ↔ Fresh s := (fresh_foldl (fun s x => fresh_unshare ..) _ _).trans ((fresh_readRels ..).trans h3)
  have hspoiled (t : State) (h : s3.elemSpoiled q es false = some t) : Fresh t ↔ Fresh s := (kept_elemSpoiled t h).trans h3
  clear_value land rsp s1 s2 s3 s4
  (repeat' split) <;> simp [*]

@[simp] theorem fresh_storeAt (s : State) (q : Req) (e : Elem) (near : Bool) (infos : List RelInfo) :
    Fresh (s.storeAt q e near infos) ↔ Fresh s := by
  unfold State.storeAt
  (repeat' split) <;> simp

@[simp] theorem fresh_finishIfDone (s : State) (id : Nat) : Fresh (s.finishIfDone id) ↔ Fresh s := by
  unfold State.finishIfDone
  (repeat' split) <;> simp

@[simp] theorem fresh_mergeDone (s : State) (q : Req) (e : Elem) : Fresh (s.mergeDone q e) ↔ Fresh s := by
  simp [State.mergeDone]

@[simp] theorem fresh_merge (s : State) (q : Req) (i : Nat) : Fresh (s.merge q i) ↔ Fresh s := by
  simp [State.merge]

@[simp] theorem fresh_performAgain (s : State) (q : Req) (m : Mask) (p : Place) : Fresh (s.performAgain q m p) ↔ Fresh s := by
  unfold State.performAgain
  split
  · rfl
  · split
    · rfl
    · refine fresh_foldl (fun s e => ?_) _ s
      dsimp only
      split <;> simp

@[simp] theorem fresh_landAtomic (s : State) (q : Req) (fadb : Bool) : Fresh (s.landAtomic q fadb) ↔ Fresh s := by
  unfold State.landAtomic
  dsimp only
  have hland (s : State) : Fresh (q.elems.foldl (fun (s : State) e =>
      if e.dead then s else s.landV q.wale (q.reg + e.j) e.t q.no (if e.zero then 0 else e.val.truncate 32)) s) ↔ Fresh s :=
    fresh_foldl (fun s e => by split <;> simp) _ s
  split
  · split
    · exact hland s
    · exact (fresh_onWale _ _ _ (by simp)).trans ((fresh_supersede _ _ _ _ _ _).trans (hland s))
  · exact hland s

/-! ### Atomics -/

@[simp] theorem fresh_atLevel (s : State) (q : Req) (w : Wale) (l : Nat) : Fresh (s.atLevel q w l) ↔ Fresh s := by
  unfold State.atLevel
  dsimp only
  (repeat' split) <;> simp

@[simp] theorem fresh_atomicRels (s : State) (q : Req) (infos : List RelInfo) : Fresh (s.atomicRels q infos) ↔ Fresh s := by
  unfold State.atomicRels
  split <;> simp

@[simp] theorem fresh_atomicWrite (s : State) (q : Req) (w : Wale) (i : Nat) (e : Elem) (op old : Nat) :
    Fresh (s.atomicWrite q w i e op old) ↔ Fresh s := by
  unfold State.atomicWrite
  dsimp only
  (repeat' split) <;> simp

@[simp] theorem fresh_performAtomic (s : State) (q : Req) (op : Nat) : Fresh (s.performAtomic q op) ↔ Fresh s := by
  unfold State.performAtomic
  split
  · rename_i e i w _ _
    extract_lets c nearOpen early s1 near old s3 w3
    have h1 : Fresh s1 ↔ Fresh s := fresh_atLevel ..
    have h3 : Fresh s3 ↔ Fresh s := (fresh_atomicRels ..).trans h1
    have hspoiled : Kept s1 (if near = true then none else s1.elemSpoiled q [(i, e)] false) := by
      split
      · exact kept_none s1
      · exact kept_elemSpoiled
    clear_value s1 s3
    split
    · rfl
    split
    · exact (fresh_atomicWrite ..).trans (fresh_atLevel ..)
    split
    · rfl
    split
    · exact (hspoiled _ ‹_›).trans h1
    split
    · exact h3
    · exact (fresh_atomicWrite ..).trans h3
  · rfl

/-! ### Barriers, fences and locks -/

@[simp] theorem fresh_parkWalk (s : State) (w : Wale) (va : Nat) : Fresh (s.parkWalk w va) ↔ Fresh s := by
  exact (fresh_hold _ _ _ _).trans (fresh_holdPipe _ _ _)

@[simp] theorem fresh_uniFill (s : State) (w : Wale) (va : Nat) : Fresh (s.uniFill w va) ↔ Fresh s := by
  simp [State.uniFill]

@[simp] theorem fresh_waleRelease (s : State) (w : Wale) (sc : Scope) : Fresh (s.waleRelease w sc).2 ↔ Fresh s := by
  unfold State.waleRelease
  dsimp only
  split <;> simp

@[simp] theorem fresh_lockWord (s : State) (l v : Nat) : Fresh (s.lockWord l v) ↔ Fresh s := by
  simp [State.lockWord]

@[simp] theorem fresh_grantLock (s : State) (w : Wale) (l : Nat) : Fresh (s.grantLock w l) ↔ Fresh s := by
  simp [State.grantLock]

@[simp] theorem fresh_lockWait (s : State) (w : Wale) (va l n : Nat) : Fresh (s.lockWait w va l n) ↔ Fresh s := by
  unfold State.lockWait
  exact (fresh_onWale _ _ _ (by simp)).trans (fresh_hold _ _ _ _)

@[simp] theorem fresh_lockSend (s : State) (w : Wale) (va l : Nat) (watched : Bool) :
    Fresh (s.lockSend w va l watched) ↔ Fresh s := by
  exact (fresh_hold _ _ _ _).trans (fresh_holdPipe _ _ _)

@[simp] theorem fresh_lockDone (s : State) (w : Wale) (l : Nat) : Fresh (s.lockDone w l) ↔ Fresh s := by
  simp [State.lockDone]

@[simp] theorem fresh_completePhase (s : State) (g : Workgroup) (bar id : Nat) : Fresh (s.completePhase g bar id) ↔ Fresh s := by
  simp [State.completePhase]

theorem kept_arrive {s : State} {w : Wale} {bar count : Nat} : Kept s (s.arrive w bar count) := by
  unfold State.arrive
  split
  · exact kept_some Iff.rfl
  rename_i g _
  extract_lets b s1 a
  have hrel : Fresh (s1.waleRelease w .grp).2 ↔ Fresh s := (fresh_waleRelease ..).trans (fresh_logArrival ..)
  refine kept_ite (kept_none s) ?_
  generalize s1.waleRelease w .grp = p at hrel ⊢
  obtain ⟨i, s2⟩ := p
  dsimp only
  split
  · exact kept_some ((fresh_completePhase ..).trans hrel)
  · refine kept_some ((fresh_onWale _ _ _ fun x => ?_).trans ((fresh_putWg ..).trans hrel))
    split <;> rfl

@[simp] theorem fresh_barAcquire (s : State) (w : Wale) (bar : Nat) : Fresh (s.barAcquire w bar) ↔ Fresh s := by
  simp [State.barAcquire]

@[simp] theorem fresh_barWaitPart (s : State) (w : Wale) (bar : Nat) (arrived : Bool) :
    Fresh (s.barWaitPart w bar arrived) ↔ Fresh s := by
  unfold State.barWaitPart
  split
  · exact fresh_hold _ _ _ _
  · exact (fresh_issued _ _ _).trans (fresh_barAcquire _ _ _)

/-! ### Engine operations -/

@[simp] theorem fresh_engWrite (s : State) (c l : Nat) (bs : List Byte) : Fresh (s.engWrite c l bs) ↔ Fresh s := by
  unfold State.engWrite
  split <;> simp

@[simp] theorem fresh_pendOn (s : State) (id : Nat) (p : PendFault) : Fresh (s.pendOn id p) ↔ Fresh s := by
  simp [State.pendOn]

/-! ### Fetching -/

@[simp] theorem fresh_debugStop (s : State) (w : Wale) (kind : Nat) : Fresh (s.debugStop w kind) ↔ Fresh s := by
  unfold State.debugStop
  dsimp only
  (repeat' split) <;> simp

@[simp] theorem fresh_countIssue (s : State) (w : Wale) (others : List Wale) : Fresh (s.countIssue w others) ↔ Fresh s := by
  unfold State.countIssue
  split <;> simp

/-! ### Bank programs -/

@[simp] theorem fresh_putBank (s : State) (b : BankCall) : Fresh (s.putBank b) ↔ Fresh s := by
  simp [State.putBank]

@[simp] theorem fresh_bankDone (s : State) (id : Nat) (flag : Option Nat) : Fresh (s.bankDone id flag) ↔ Fresh s := by
  unfold State.bankDone
  split <;> simp

@[simp] theorem fresh_endBank (s : State) (b : BankCall) : Fresh (s.endBank b) ↔ Fresh s := by
  unfold State.endBank
  split <;> simp

@[simp] theorem fresh_faultBank (s : State) (b : BankCall) : Fresh (s.faultBank b) ↔ Fresh s := by
  unfold State.faultBank
  (repeat' split) <;> simp

/-! ### The matrix engine -/

@[simp] theorem fresh_engAcquire (s : State) (id : Nat) (sc : Scope) : Fresh (s.engAcquire id sc) ↔ Fresh s := by
  simp [State.engAcquire]

@[simp] theorem fresh_popMq (s : State) (id : Nat) : Fresh (s.popMq id) ↔ Fresh s := by
  refine fresh_onWale _ _ _ fun w => ?_
  split <;> simp

@[simp] theorem fresh_abandonMq (s : State) (id : Nat) : Fresh (s.abandonMq id) ↔ Fresh s := by
  unfold State.abandonMq
  (repeat' split) <;> simp

@[simp] theorem fresh_candClk (s : State) : Fresh (s.candClk) ↔ Fresh s := by
  simp [State.candClk]

@[simp] theorem fresh_ringStep (s : State) (ctx : Nat) (r : LRec) (vs : List FVal) : Fresh (s.ringStep ctx r vs).2 ↔ Fresh s := by
  unfold State.ringStep
  dsimp only
  split <;> simp

@[simp] theorem fresh_mstoreStep (s : State) (w : Wale) (g : Workgroup) (m : MOp) : Fresh (s.mstoreStep w g m).2 ↔ Fresh s := by
  unfold State.mstoreStep
  dsimp only
  (repeat' split) <;> simp

theorem kept_mstoreSpoiled {s : State} {w : Wale} {m : MOp} {plan : List MElem} : Kept s (s.mstoreSpoiled w m plan) := by
  unfold State.mstoreSpoiled
  split
  · exact kept_none s
  · refine kept_findSome (fun e => ?_) plan
    split
    · exact kept_spoiled
    · exact kept_none s

@[simp] theorem fresh_mstoreFill (s : State) (w : Wale) (m : MOp) (plan : List MElem) :
    Fresh (s.mstoreFill w m plan) ↔ Fresh s := by
  unfold State.mstoreFill
  dsimp only
  split
  · rfl
  · refine fresh_foldl (fun s e => ?_) _ s
    split <;> simp

@[simp] theorem fresh_mreadPerform (s : State) (w : Wale) (g : Workgroup) (m : MOp) : Fresh (s.mreadPerform w g m) ↔ Fresh s := by
  refine fresh_foldl (fun s i => fresh_foldl (fun s t => ?_) _ s) _ s
  split <;> simp

@[simp] theorem fresh_logPut (s : State) (ctx core : Nat) (log : LRec) (n v : Nat) :
    Fresh (s.logPut ctx core log n v) ↔ Fresh s := by
  unfold State.logPut
  split <;> simp

@[simp] theorem fresh_passTail (s : State) (w : Wale) (l v : Nat) : Fresh (s.passTail w l v) ↔ Fresh s := by
  simp [State.passTail]

@[simp] theorem fresh_passSlots (s : State) (w : Wale) (l n : Nat) : Fresh (s.passSlots w l n) ↔ Fresh s := by
  induction n generalizing s with
  | zero => rfl
  | succ n ih =>
    rw [State.passSlots]
    split
    · exact (ih _).trans (fresh_passTail _ _ _ _)
    · rfl

@[simp] theorem fresh_onHead (s : State) (id : Nat) (f : MOp → MOp) : Fresh (s.onHead id f) ↔ Fresh s := by
  refine fresh_onWale _ _ _ fun w => ?_
  split <;> rfl

@[simp] theorem fresh_foldPass (s : State) (w : Wale) (l seq : Nat) : Fresh (s.foldPass w l seq) ↔ Fresh s := by
  unfold State.foldPass
  extract_lets t d
  have ht : Fresh t ↔ Fresh s := by
    simp only [t]
    split <;> simp
  split
  · exact (fresh_popMq _ _).trans ht
  · exact ht

theorem kept_foldSpoiled {s : State} {w : Wale} {m : MOp} {ws : List Nat} : Kept s (s.foldSpoiled w m ws) := by
  unfold State.foldSpoiled
  split
  · exact kept_none s
  · refine kept_findSome (fun n => ?_) ws
    split
    · exact kept_spoiled
    · exact kept_none s

/-! ### The copy engine -/

@[simp] theorem fresh_pendAll (s : State) (wg : Nat) (p : PendFault) : Fresh (s.pendAll wg p) ↔ Fresh s := by
  simp [State.pendAll]

@[simp] theorem fresh_joinCopy (s : State) (g : Workgroup) (c : Copy) (x : Slice) (bad : Bool) (after : List Nat) :
    Fresh (s.joinCopy g c x bad after) ↔ Fresh s := by
  unfold State.joinCopy
  dsimp only
  (repeat' split) <;> simp

@[simp] theorem fresh_copyFill (s : State) (g : Workgroup) (c : Copy) : Fresh (s.copyFill g c) ↔ Fresh s := by
  unfold State.copyFill
  dsimp only
  (repeat' split) <;> simp

@[simp] theorem fresh_putMove (s : State) (wg core : Nat) (m : Move) : Fresh (s.putMove wg core m) ↔ Fresh s := by
  unfold State.putMove
  split <;> simp

@[simp] theorem fresh_abandonCopy (s : State) (wg : Nat) (c : Copy) : Fresh (s.abandonCopy wg c) ↔ Fresh s := by
  simp [State.abandonCopy]

@[simp] theorem fresh_copyTag (s : State) (g : Workgroup) (c : Copy) (ps : List (CopyEnd × CopyEnd)) :
    Fresh (s.copyTag g c ps) ↔ Fresh s := by
  simp [State.copyTag]

@[simp] theorem fresh_refuseCopy (s : State) (g : Workgroup) (c : Copy) : Fresh (s.refuseCopy g c) ↔ Fresh s := by
  unfold State.refuseCopy
  refine (fresh_abandonCopy _ _ _).trans (fresh_foldl (fun s p => ?_) _ s)
  split <;> simp

theorem kept_copySpoiled {s : State} {g : Workgroup} {c : Copy} {wr : Bool} : Kept s (s.copySpoiled g c wr) := by
  unfold State.copySpoiled
  split
  · exact kept_none s
  · refine kept_findSome (fun x => ?_) _
    split
    · exact kept_spoiled
    · exact kept_none s

/-! ### Records -/

@[simp] theorem fresh_putDesc (s : State) (q off v : Nat) : Fresh (s.putDesc q off v) ↔ Fresh s := by
  simp [State.putDesc]

@[simp] theorem fresh_putState (s : State) (l st : Nat) : Fresh (s.putState l st) ↔ Fresh s := by
  simp [State.putState]

@[simp] theorem fresh_putSeq (s : State) (l v : Nat) : Fresh (s.putSeq l v) ↔ Fresh s := by
  simp [State.putSeq]

@[simp] theorem fresh_putTicket (s : State) (l v : Nat) : Fresh (s.putTicket l v) ↔ Fresh s := by
  simp [State.putTicket]

@[simp] theorem fresh_putNext (s : State) (l v : Nat) : Fresh (s.putNext l v) ↔ Fresh s := by
  simp [State.putNext]

@[simp] theorem fresh_putDone (s : State) (l v : Nat) : Fresh (s.putDone l v) ↔ Fresh s := by
  simp [State.putDone]

@[simp] theorem fresh_putRsn (s : State) (l v : Nat) : Fresh (s.putRsn l v) ↔ Fresh s := by
  simp [State.putRsn]

@[simp] theorem fresh_weaverRel (s : State) (core ctx l : Nat) (stamp : List Nat) (keep : Bool) :
    Fresh (s.weaverRel core ctx l stamp keep).2 ↔ Fresh s := by
  simp [State.weaverRel]

@[simp] theorem fresh_stirHomes (s : State) (ls : List Nat) : Fresh (s.stirHomes ls) ↔ Fresh s := by
  simp [State.stirHomes]

@[simp] theorem fresh_weaverJoin (s : State) (core : Nat) (stamp : List Nat) : Fresh (s.weaverJoin core stamp) ↔ Fresh s := by
  simp [State.weaverJoin]

@[simp] theorem fresh_openWindow (s : State) (core : Nat) (w : Window) : Fresh (s.openWindow core w) ↔ Fresh s := by
  simp [State.openWindow]

/-! ### Tasks -/

@[simp] theorem fresh_pushTask (s : State) (ctx va core : Nat) (r : BitVec 512) (stamp : List Nat) :
    Fresh (s.pushTask ctx va core r stamp) ↔ Fresh s := by
  unfold State.pushTask
  dsimp only
  (repeat' split) <;> simp

@[simp] theorem fresh_joinStir (s : State) (ctx va : Nat) : Fresh (s.joinStir ctx va) ↔ Fresh s := by
  unfold State.joinStir
  split <;> simp

@[simp] theorem fresh_joinDec (s : State) (ctx va core : Nat) (stamp : List Nat) :
    Fresh (s.joinDec ctx va core stamp) ↔ Fresh s := by
  unfold State.joinDec
  dsimp only
  (repeat' split) <;> simp

@[simp] theorem fresh_atomicStep (s : State) (q : Req) (op : Nat) : Fresh (s.atomicStep q op) ↔ Fresh s := by
  have ht := fresh_performAtomic s q op
  unfold State.atomicStep
  dsimp only
  split
  · exact ht
  · split
    · exact ht
    · refine (fresh_foldl (fun t p => ?_) _ _).trans ht
      split <;> simp

@[simp] theorem fresh_decline (s : State) (c e : Nat) (rec' : BitVec 512) (stamp : List Nat) :
    Fresh (s.decline c e rec' stamp) ↔ Fresh s := by
  unfold State.decline
  dsimp only
  split <;> simp

/-- A report taken from a queue keeps serials fresh, and no more. -/
theorem kept_popReport {s : State} {core n : Nat} {t : State} {st : List Nat} (h : s.popReport core n = some (t, st)) :
    Fresh t ↔ Fresh s := by
  unfold State.popReport at h
  extract_lets q ends at h
  split at h
  · split at h
    · split at h
      · cases h
        exact fresh_weaverJoin ..
      · exact nomatch h
    · exact nomatch h
  · split at h
    · exact nomatch h
    · cases h
      rfl

@[simp] theorem fresh_unlist (s : State) (core n : Nat) : Fresh (s.unlist core n) ↔ Fresh s := by
  simp [State.unlist]

/-! ### Launches -/

@[simp] theorem fresh_advanceLow (s : State) (q core : Nat) (stamp : List Nat) : Fresh (s.advanceLow q core stamp) ↔ Fresh s := by
  unfold State.advanceLow
  dsimp only
  split <;> simp

@[simp] theorem fresh_passHead (s : State) (q seq : Nat) : Fresh (s.passHead q seq) ↔ Fresh s := by
  unfold State.passHead
  split <;> simp

@[simp] theorem fresh_putQueue (s : State) (q : Nat) (x : QueueSt) : Fresh (s.putQueue q x) ↔ Fresh s := by
  simp [State.putQueue]

@[simp] theorem fresh_settled (s : State) (q seq : Nat) : Fresh (s.settled q seq) ↔ Fresh s := by
  simp [State.settled]

@[simp] theorem fresh_contClk (s : State) : Fresh (s.contClk) ↔ Fresh s := by
  unfold State.contClk
  dsimp only
  split
  · rfl
  · refine fresh_foldl (fun s h => ?_) _ _
    split <;> simp

@[simp] theorem fresh_weaverPost (s : State) (core ccore : Nat) (data : BitVec 128) (ctx va : Nat) (stamp : List Nat) :
    Fresh (s.weaverPost core ccore data ctx va stamp) ↔ Fresh s := by
  simp [State.weaverPost]

@[simp] theorem fresh_retireLaunch (s : State) (l : LaunchSt) (loc core : Nat) (stamp : List Nat) :
    Fresh (s.retireLaunch l loc core stamp) ↔ Fresh s := by
  simp [State.retireLaunch]

theorem kept_loadList {s : State} {core ctx win tiles va left : Nat} : Kept s (s.loadList core ctx win tiles va left) := by
  induction left generalizing s va with
  | zero => exact kept_some Iff.rfl
  | succ n ih =>
    rw [State.loadList]
    split
    · exact kept_none s
    · exact kept_none s
    · extract_lets e r
      split
      · exact kept_none s
      · exact fun t ht => (ih t ht).trans (fresh_putLayout ..)

theorem kept_loaded {s : State} {core : Nat} {r : BitVec 2048} : Kept s (s.loaded core r) := kept_loadList

@[simp] theorem fresh_replenish (s : State) (part : Nat) : Fresh (s.replenish part) ↔ Fresh s := by
  refine fresh_foldl (fun s p => ?_) _ s
  extract_lets n
  split <;> simp

@[simp] theorem fresh_arbitrate (s : State) (core : Nat) : Fresh (s.arbitrate core).2 ↔ Fresh s := by
  unfold State.arbitrate
  (repeat' split) <;> simp

@[simp] theorem fresh_served (s : State) (core q : Nat) : Fresh (s.served core q) ↔ Fresh s := by
  simp [State.served]

@[simp] theorem fresh_claim (s : State) (l : LaunchSt) (loc b : Nat) : Fresh (s.claim l loc b).2.2 ↔ Fresh s := by
  unfold State.claim
  dsimp only
  (repeat' split) <;> simp

@[simp] theorem fresh_tidyResume (s : State) (q : Nat) : Fresh (s.tidyResume q) ↔ Fresh s := by
  simp [State.tidyResume]

@[simp] theorem fresh_claimNext (s : State) (core : Nat) : Fresh (s.claimNext core) ↔ Fresh s := by
  unfold State.claimNext
  dsimp only
  (repeat' split) <;> simp

@[simp] theorem fresh_drained (s : State) (l : LaunchSt) (loc : Nat) : Fresh (s.drained l loc) ↔ Fresh s := by
  unfold State.drained
  dsimp only
  split <;> simp

@[simp] theorem fresh_dropSubmission (s : State) (q : Nat) (d : BitVec 512) : Fresh (s.dropSubmission q d) ↔ Fresh s := by
  unfold State.dropSubmission
  split <;> simp

/-! ### Workgroups -/

@[simp] theorem fresh_groupEnd (s : State) (g : Workgroup) : Fresh (s.groupEnd g) ↔ Fresh s := by
  unfold State.groupEnd
  split <;> simp

@[simp] theorem fresh_dissolve (s : State) (l : List Wale) : Fresh (s.dissolve l) ↔ Fresh s := by
  simp [State.dissolve]

/-! ### Preemption -/

@[simp] theorem fresh_stopGroups (s : State) (p : Workgroup → Bool) : Fresh (s.stopGroups p) ↔ Fresh s := by
  simp [State.stopGroups]

@[simp] theorem fresh_suspend (s : State) (l : LaunchSt) (loc : Nat) : Fresh (s.suspend l loc) ↔ Fresh s := by
  simp [State.suspend]

@[simp] theorem fresh_preemptOne (s : State) (l : LaunchSt) : Fresh (s.preemptOne l) ↔ Fresh s := by
  unfold State.preemptOne
  (repeat' split) <;> simp

@[simp] theorem fresh_resumeOne (s : State) (l : LaunchSt) : Fresh (s.resumeOne l) ↔ Fresh s := by
  unfold State.resumeOne
  dsimp only
  (repeat' split) <;> simp

@[simp] theorem fresh_passDone (s : State) (q n : Nat) : Fresh (s.passDone q n) ↔ Fresh s := by
  induction n generalizing s with
  | zero => rfl
  | succ n ih =>
    rw [State.passDone]
    split
    · split
      · exact (ih _).trans (fresh_passHead _ _ _)
      · rfl
    · rfl

@[simp] theorem fresh_restoreWindow (s : State) (g : Workgroup) (core : Nat) (win : Option Window) :
    Fresh (s.restoreWindow g core win) ↔ Fresh s := by
  unfold State.restoreWindow
  split
  · exact (fresh_mapWales _ (moveBarw_id _ _ _)).trans ((fresh_writeLoc _ _ _).trans (fresh_openWindow _ _ _))
  · rfl

@[simp] theorem fresh_restoreWale (s : State) (w : Wale) (core slot : Nat) : Fresh (s.restoreWale w core slot) ↔ Fresh s := by
  unfold State.restoreWale
  extract_lets st t u follow
  have ht : Fresh t ↔ Fresh s := by
    simp only [t]
    split <;> simp
  refine (below_map fun x => ?_).trans ((fresh_putWale _ _).trans ht)
  simp only [follow]
  split <;> rfl

@[simp] theorem fresh_restoreGroup (s : State) (g : Workgroup) (core : Nat) (win : Option Window) :
    Fresh (s.restoreGroup g core win) ↔ Fresh s := by
  unfold State.restoreGroup
  split <;> simp

theorem kept_restoreSet {s : State} {gs : List Workgroup} {core : Nat} : Kept s (s.restoreSet gs core) := by
  unfold State.restoreSet
  split
  · exact kept_some Iff.rfl
  · extract_lets n win t
    split
    · exact kept_none s
    · exact kept_some ((fresh_foldl (fun s g => fresh_restoreGroup ..) _ _).trans (fresh_restoreWindow ..))

@[simp] theorem fresh_settlePart (s : State) : Fresh (s.settlePart) ↔ Fresh s := by
  unfold State.settlePart
  dsimp only
  split <;> simp

theorem kept_restoreAll {s : State} {cores : List Nat} {gs : List Workgroup} : Kept s (s.restoreAll cores gs) := by
  induction gs generalizing s with
  | nil => exact kept_some Iff.rfl
  | cons g r ih =>
    rw [State.restoreAll]
    split
    · rename_i u hu
      exact fun t ht => (ih t ht).trans (kept_findSome (fun c => kept_restoreSet) cores u hu)
    · exact kept_none s

@[simp] theorem fresh_revived (s : State) (id t0 : Nat) : Fresh (s.revived id t0) ↔ Fresh s := by
  simp [State.revived]

@[simp] theorem fresh_leaveCores (s : State) (gone : Nat → Bool) : Fresh (s.leaveCores gone) ↔ Fresh s := by
  refine (fresh_stopGroups _ _).trans (fresh_foldl (fun s l => ?_) _ s)
  split <;> simp

/-! ### The slew engine -/

@[simp] theorem fresh_putProgress (s : State) : Fresh (s.putProgress) ↔ Fresh s := by
  unfold State.putProgress
  split <;> simp

@[simp] theorem fresh_haltOnly (s : State) (ctx prec halt : Nat) : Fresh (s.haltOnly ctx prec halt) ↔ Fresh s := by
  unfold State.haltOnly
  split <;> simp

@[simp] theorem fresh_slewPost (s : State) : Fresh (s.slewPost) ↔ Fresh s := by
  simp [State.slewPost]

@[simp] theorem fresh_slewFinish (s : State) : Fresh (s.slewFinish) ↔ Fresh s := by
  unfold State.slewFinish
  (repeat' split) <;> simp

@[simp] theorem fresh_slewEnd (s : State) (st : SlewSt) (halt : Nat) : Fresh (s.slewEnd st halt) ↔ Fresh s := by
  simp [State.slewEnd]

@[simp] theorem fresh_slewHalt (s : State) (halt : Nat) : Fresh (s.slewHalt halt) ↔ Fresh s := by
  simp [State.slewHalt]

@[simp] theorem fresh_slewChoose (s : State) : Fresh (s.slewChoose) ↔ Fresh s := by
  unfold State.slewChoose
  dsimp only
  (repeat' split) <;> simp

@[simp] theorem fresh_slewClk (s : State) : Fresh (s.slewClk) ↔ Fresh s := by
  unfold State.slewClk
  dsimp only
  split <;> simp

@[simp] theorem fresh_slewStart (s : State) (bctx va : Nat) (stamp : List Nat) : Fresh (s.slewStart bctx va stamp).2 ↔ Fresh s := by
  unfold State.slewStart
  dsimp only
  (repeat' split) <;> simp

@[simp] theorem fresh_slewMove (s : State) (e : Nat × Nat × Bool) : Fresh (s.slewMove e) ↔ Fresh s := by
  unfold State.slewMove
  (repeat' split) <;> simp

theorem kept_slewSpoiled {s : State} {es : List (Nat × Nat × Bool)} : Kept s (s.slewSpoiled es) := by
  unfold State.slewSpoiled
  split
  · exact kept_none s
  · refine kept_findSome (fun e => ?_) es
    extract_lets a src
    have hsrc : Kept s src := by
      simp only [src]
      split
      · exact kept_spoiled
      · exact kept_none s
    clear_value src
    split
    · exact hsrc
    · exact kept_spoiled
    · exact kept_none s

/-! ### Checkpoints -/

@[simp] theorem fresh_ckptStart (s : State) (bctx va : Nat) : Fresh (s.ckptStart bctx va).2 ↔ Fresh s := by
  unfold State.ckptStart
  dsimp only
  (repeat' split) <;> simp

theorem kept_putTarget {s : State} {c : Ckpt} {t : Target} {off : Nat} {bs : List Byte} : Kept s (s.putTarget c t off bs) := by
  unfold State.putTarget
  extract_lets firstByte parts
  refine kept_foldl (fun o p ho => ?_) parts (kept_some Iff.rfl)
  split
  · exact kept_none s
  · split
    · exact ho
    · exact fun t ht => (kept_map (fun l => fresh_writeLoc ..) _ t ht).trans (ho _ rfl)

theorem kept_writeImage {s : State} {c : Ckpt} {ts : List Target} {written : List Nat} : Kept s (s.writeImage c ts written) := by
  unfold State.writeImage
  extract_lets n heads
  have hput (t : Target) (a : Nat) (bs : List Byte) (o : Option State) (ho : Kept s o) : Kept s (o.bind fun s => s.putTarget c t a bs) :=
    kept_bind ho fun _ => kept_putTarget
  have hheads : Kept s heads := by
    refine kept_foldl (fun o t ho => kept_bind ho fun u => kept_bind kept_putTarget fun v => ?_) ts (kept_some Iff.rfl)
    exact kept_foldl (fun o i ho => kept_bind ho fun _ => kept_putTarget) _ (kept_some Iff.rfl)
  clear_value heads
  refine kept_foldl (fun o g ho => kept_bind ho fun u => ?_) written hheads
  split
  · exact kept_putTarget
  · exact kept_none u

@[simp] theorem fresh_ckptDone (s : State) (c : Ckpt) (status grans : Nat) : Fresh (s.ckptDone c status grans) ↔ Fresh s := by
  unfold State.ckptDone
  split <;> simp

@[simp] theorem fresh_ckptFinish (s : State) : Fresh (s.ckptFinish) ↔ Fresh s := by
  unfold State.ckptFinish
  dsimp only
  (repeat' split) <;> simp

@[simp] theorem fresh_ckptOver (s : State) (c : Ckpt) (status grans : Nat) : Fresh (s.ckptOver c status grans) ↔ Fresh s := by
  simp [State.ckptOver]

@[simp] theorem fresh_ckptFail (s : State) (c : Ckpt) (gs : List Nat) : Fresh (s.ckptFail c gs) ↔ Fresh s := by
  simp [State.ckptFail]

@[simp] theorem fresh_restoreImage (s : State) (c : Ckpt) (ts : List Target) : Fresh (s.restoreImage c ts) ↔ Fresh s := by
  have hdirty (t : State) (l : List Nat) : Fresh { t with dirtyGranules := l } ↔ Fresh t := Iff.rfl
  cases ts with
  | nil => exact fresh_ckptFail ..
  | cons t0 r =>
    rw [State.restoreImage.eq_def]
    dsimp only
    cases s.getTarget c t0 0 64 with
    | none => exact fresh_ckptFail ..
    | some h =>
      cases s.readManifest c t0 with
      | none => exact fresh_ckptFail ..
      | some m =>
        dsimp only
        split
        · exact fresh_ckptOver ..
        cases hout : List.foldl _ (some s) _ with
        | none => exact fresh_ckptFail ..
        | some t =>
          refine (fresh_ckptOver ..).trans ((hdirty ..).trans ?_)
          refine kept_foldl (fun o g ho => kept_bind ho fun t => ?_) _ (kept_some Iff.rfl) t hout
          cases (t0 :: r)[g % (t0 :: r).length]? with
          | none => exact kept_some Iff.rfl
          | some t1 =>
            cases t.granuleLoc g with
            | none => exact kept_some Iff.rfl
            | some l => exact kept_map (fun bs => fresh_writeLoc ..) _

@[simp] theorem fresh_nameBad (s : State) (c : Ckpt) (gs : List Nat) : Fresh (s.nameBad c gs) ↔ Fresh s := by
  refine fresh_foldl (fun s g => ?_) _ s
  split <;> simp

/-! ### The weaver -/

@[simp] theorem fresh_doClaim (s : State) (core ctx va b : Nat) : Fresh (s.doClaim core ctx va b).2 ↔ Fresh s := by
  unfold State.doClaim
  extract_lets none'
  split
  · rfl
  split
  · rfl
  rename_i l _ _ loc _
  have hclaim := fresh_claim s l loc b
  split <;> rename_i h <;> rw [h] at hclaim
  · exact (fresh_tidyResume _ _).trans hclaim
  · exact hclaim

@[simp] theorem fresh_doSymwalk (s : State) (ctx va rank : Nat) : Fresh (s.doSymwalk ctx va rank).2 ↔ Fresh s := by
  unfold State.doSymwalk
  split <;> simp

@[simp] theorem fresh_slewRelease (s : State) (p : WvPend) : Fresh (s.slewRelease p).2 ↔ Fresh s := by
  unfold State.slewRelease
  split <;> simp

@[simp] theorem fresh_doSlewStart (s : State) (va : Nat) (p : WvPend) : Fresh (s.doSlewStart va p).2 ↔ Fresh s := by
  simp [State.doSlewStart]

@[simp] theorem fresh_wvPerform (s : State) (core : Nat) (p : WvPend) : Fresh (s.wvPerform core p) ↔ Fresh s := by
  unfold State.wvPerform
  split <;> simp

@[simp] theorem fresh_wvClk (s : State) : Fresh (s.wvClk) ↔ Fresh s := by
  refine fresh_foldl (fun s p => ?_) _ s
  (repeat' split) <;> simp

/-! ### Faults -/

@[simp] theorem fresh_stopRepeats (s : State) (c lo n : Nat) : Fresh (s.stopRepeats c lo n) ↔ Fresh s := by
  simp [State.stopRepeats]

@[simp] theorem fresh_setBank (s : State) (id : Nat) (st : BankSt) : Fresh (s.setBank id st) ↔ Fresh s := by
  simp [State.setBank]

@[simp] theorem fresh_stallEng (s : State) (acc : EngAcc) : Fresh (s.stallEng acc) ↔ Fresh s := by
  unfold State.stallEng
  (repeat' split) <;> simp

@[simp] theorem fresh_retryEng (s : State) (acc : EngAcc) : Fresh (s.retryEng acc) ↔ Fresh s := by
  unfold State.retryEng
  (repeat' split) <;> simp

@[simp] theorem fresh_foldAbandon (s : State) (w : Wale) (g : Workgroup) (m : MOp) : Fresh (s.foldAbandon w g m) ↔ Fresh s := by
  unfold State.foldAbandon
  extract_lets log nent n words seq open' s1
  have hwords (s : State) (seq : Nat) : Fresh (words s seq) ↔ Fresh s := fresh_foldl (fun s p => by split <;> simp) _ s
  have hfree (t : State) (n : Nat) : Fresh { t with free := n } ↔ Fresh t := Iff.rfl
  have h1 : Fresh s1 ↔ Fresh s := by
    simp only [s1]
    clear_value words
    (repeat' split) <;> simp [hwords]
  exact (fresh_abandonMq ..).trans ((hfree ..).trans h1)

@[simp] theorem fresh_dropLeaf (s : State) (ctx va : Nat) : Fresh (s.dropLeaf ctx va) ↔ Fresh s := by
  simp [State.dropLeaf]

/-! ### The host -/

@[simp] theorem fresh_homeWrite (s : State) (l : Nat) (bs : List Byte) : Fresh (s.homeWrite l bs) ↔ Fresh s := by
  simp [State.homeWrite]

@[simp] theorem fresh_putVirtual (s : State) (ctx : Nat) (tgt : Option Nat) (va : Nat) (bs : List Byte) :
    Fresh (s.putVirtual ctx tgt va bs) ↔ Fresh s := by
  refine fresh_foldl_fst (fun p x => ?_) _ (s, bs)
  dsimp only
  split <;> simp

theorem kept_takeLeaf {s : State} : Kept s (s.takeLeaf) := by
  unfold State.takeLeaf
  split
  · exact kept_some Iff.rfl
  · split
    · exact kept_some Iff.rfl
    · exact kept_none s

@[simp] theorem fresh_rouseRange (s : State) (ctx : Nat) (p : Perm) (va n : Nat) : Fresh (s.rouseRange ctx p va n) ↔ Fresh s := by
  refine fresh_foldl (fun s x => ?_) _ s
  split <;> simp

@[simp] theorem fresh_answerPeer (s : State) (bs : List Byte) (f : Option Cause) : Fresh (s.answerPeer bs f) ↔ Fresh s := by
  simp [State.answerPeer]

@[simp] theorem fresh_peerAtomic (s : State) (ctx va : Nat) (f : W32 → W32) : Fresh (s.peerAtomic ctx va f) ↔ Fresh s := by
  unfold State.peerAtomic
  (repeat' split) <;> simp

@[simp] theorem fresh_putLink (s : State) (port : Nat) (l : Link) : Fresh (s.putLink port l) ↔ Fresh s := by
  simp [State.putLink]

@[simp] theorem fresh_downLink (s : State) (port : Nat) : Fresh (s.downLink port) ↔ Fresh s := by
  unfold State.downLink
  dsimp only
  (repeat' split) <;> simp

@[simp] theorem fresh_linkClk (s : State) : Fresh (s.linkClk) ↔ Fresh s := by
  simp [State.linkClk]

/-! ### Power -/

@[simp] theorem fresh_loseRange (s : State) (lo hi : Nat) : Fresh (s.loseRange lo hi) ↔ Fresh s := by
  simp [State.loseRange]

@[simp] theorem fresh_powerClk (s : State) : Fresh (s.powerClk) ↔ Fresh s := by
  unfold State.powerClk
  split
  · rfl
  · extract_lets homes t
    have ht : Fresh t ↔ Fresh s := fresh_foldl (fun s d => by split <;> simp) _ s
    exact (fresh_foldl (f := fun (s : State) (p : Nat × Nat) => s.wake p.1) (fun s p => fresh_wake s p.1) _ t).trans ht

@[simp] theorem fresh_idleClk (s : State) : Fresh (s.idleClk) ↔ Fresh s := by
  unfold State.idleClk
  split
  · rfl
  · refine fresh_foldl (fun s d => ?_) _ s
    (repeat' split) <;> rfl

/-! ### Events -/

@[simp] theorem fresh_addBad (s : State) (l : Nat) : Fresh (s.addBad l) ↔ Fresh s := by
  unfold State.addBad
  split <;> simp

@[simp] theorem fresh_corrected (s : State) (strct d : Nat) : Fresh (s.corrected strct d) ↔ Fresh s := by
  unfold State.corrected
  split <;> simp

@[simp] theorem fresh_pcieError (s : State) (failed : Bool) : Fresh (s.pcieError failed) ↔ Fresh s := by
  unfold State.pcieError
  split <;> simp

@[simp] theorem fresh_flushLines (s : State) (l n : Nat) : Fresh (s.flushLines l n) ↔ Fresh s := by
  simp [State.flushLines]

@[simp] theorem fresh_foldOne (s : State) (ctx : Nat) (log : LRec) (e : FoldEnt) (replace : Bool) :
    Fresh (s.foldOne ctx log e replace) ↔ Fresh s := by
  refine fresh_foldl (fun s p => ?_) _ s
  split <;> simp

/-- FOLD of no entry. -/
theorem foldStep_nil (s : State) (ctx : Nat) (log : LRec) (acc : Bool) (seen : List (Nat × Nat))
    : s.foldStep ctx log acc seen [] = s := by
  delta State.foldStep
  exact rfl

/-- FOLD of an entry and those after it. -/
theorem foldStep_cons (s : State) (ctx : Nat) (log : LRec) (acc : Bool) (seen : List (Nat × Nat)) (e : FoldEnt) (r : List FoldEnt) :
    s.foldStep ctx log acc seen (e :: r) =
      (s.foldOne ctx log e (!seen.contains (e.c0, e.c1) && !acc)).foldStep ctx log acc ((e.c0, e.c1) :: seen) r := by
  delta State.foldStep
  exact rfl

@[simp] theorem fresh_foldStep (s : State) (ctx : Nat) (log : LRec) (acc : Bool) (seen : List (Nat × Nat)) (l : List FoldEnt) :
    Fresh (s.foldStep ctx log acc seen l) ↔ Fresh s := by
  induction l generalizing s seen with
  | nil => rw [foldStep_nil]
  | cons e l ih =>
    rw [foldStep_cons]
    exact (ih _ _).trans (fresh_foldOne ..)

/-! ### The clk -/

@[simp] theorem fresh_settleClk' (s : State) : Fresh (s.settleClk') ↔ Fresh s := by
  refine (below_map fun w => ?_).trans (fresh_foldl (fun s w => ?_) s.wales s)
  · rw [stagedAt_id]
    split <;> simp
  · split <;> simp

/-! ### What is due -/

@[simp] theorem fresh_obsPipe (s : State) (key : Nat) : Fresh (s.obsPipe key) ↔ Fresh s := by
  unfold State.obsPipe
  extract_lets core at' ws n busy s1 s2 r
  have h1 : Fresh s1 ↔ Fresh s := by
    simp only [s1]
    split
    · exact fresh_addObs ..
    · rfl
  have h2 : Fresh s2 ↔ Fresh s := by
    simp only [s2]
    split
    · exact h1
    · exact ((fresh_addObs ..).trans (fresh_addObs ..)).trans h1
  clear_value s2
  split
  · split
    · exact h2
    · exact ((fresh_addObs ..).trans (fresh_addObs ..)).trans h2
  · exact (fresh_addObs ..).trans h2

@[simp] theorem fresh_obsClk (s : State) : Fresh (s.obsClk) ↔ Fresh s := by
  simp [State.obsClk]

@[simp] theorem fresh_readyClk (s : State) : Fresh (s.readyClk) ↔ Fresh s := by
  simp [State.readyClk]

end Sys2Proof.Machine
end

section
/-!
PROOF. The creations, ends and traps of wales, weavers and streams keep serial numbers fresh (O59).
-/
namespace Sys2Proof.Machine
open Claims

/-! ### Lists of serials -/

@[simp] theorem below_nil (n : Nat) : Below n [] := fun _ h => nomatch h

@[simp] theorem below_append (n : Nat) (l r : List Wale) : Below n (l ++ r) ↔ Below n l ∧ Below n r := List.forall_mem_append

@[simp] theorem below_singleton (n : Nat) (w : Wale) : Below n [w] ↔ w.id < n := List.forall_mem_singleton

/-- Serials below `n` lie below what is no less. -/
theorem below_le {n m : Nat} {ws : List Wale} (h : Below n ws) (hnm : n ≤ m) : Below m ws := fun w hw => Nat.lt_of_lt_of_le (h w hw) hnm

@[simp] theorem below_succ {n : Nat} {ws : List Wale} (h : Below n ws) : Below (n + 1) ws := below_le h (Nat.le_succ n)

@[simp] theorem below_filter {n : Nat} {ws : List Wale} (p : Wale → Bool) (h : Below n ws) : Below n (ws.filter p) :=
  fun w hw => h w (List.mem_of_mem_filter hw)

/-- Steps that keep serials fresh keep them fresh together. -/
theorem fresh_foldl_of {α : Type} {f : State → α → State} (hf : ∀ s x, Fresh s → Fresh (f s x)) (l : List α) {s : State} (h : Fresh s) :
    Fresh (l.foldl f s) := by
  induction l generalizing s with
  | nil => exact h
  | cons x l ih => exact ih (hf s x h)

theorem fresh_ite {c : Prop} [Decidable c] {s t : State} (hs : Fresh s) (ht : Fresh t) : Fresh (if c then s else t) := by
  split
  · exact hs
  · exact ht

/-! ### Traps -/

@[simp] theorem fresh_fresh {s : State} (h : Fresh s) : Fresh s.fresh.2 := below_succ h

@[simp] theorem fresh_faultStream {s : State} (w : Wale) (h : Fresh s) : Fresh (s.faultStream w) :=
  (fresh_onWale _ _ _ (by simp)).2 (below_filter _ h)

@[simp] theorem fresh_takeTrap {s : State} (w : Wale) (r : TrapReq) (h : Fresh s) : Fresh (s.takeTrap w r) := by
  unfold State.takeTrap
  dsimp only
  split
  · exact fresh_faultStream w h
  · exact fresh_faultStream w h
  · exact (fresh_stopWeaver ..).2 h
  · split
    · exact (fresh_stopCtx ..).2 h
    · exact (fresh_putWale ..).2 ((fresh_writeLoc ..).2 ((fresh_supersedeAll ..).2 h))

theorem fresh_trapAll {s : State} (l : List Wale) (c : Cause) (h : Fresh s) : Fresh (s.trapAll l c) :=
  fresh_foldl_of (fun _ _ h => fresh_takeTrap _ _ h) l h

/-! ### Requests, queues and images -/

theorem fresh_wideFence {s : State} (w : Wale) (ids : List Nat) (h : Fresh s) : Fresh (s.wideFence w ids).2 := below_succ h

@[simp] theorem fresh_enterReq {s : State} (q : Req) (h : Fresh s) : Fresh (s.enterReq q) :=
  (fresh_onWale _ _ _ fun w => raise_id w q.flag).2 (below_succ h)

theorem fresh_pushImages {s : State} (q : Req) (w : Option Wale) (i : Nat) (h : Fresh s) : Fresh (s.pushImages q w i) := by
  unfold State.pushImages
  extract_lets wg step lo es v size
  split
  · exact fresh_foldl_of (fun _ _ h => below_succ h) _ h
  · exact h

theorem fresh_stored {s : State} (q : Req) (w : Wale) (x : Nat × Elem) (h : Fresh s) : Fresh (s.stored q w x) := by
  have hdone : Fresh (((s.mergeDone q x.2).endRepeats q x.2).markDone q.id x.1 id) :=
    (fresh_markDone ..).2 ((fresh_endRepeats ..).2 ((fresh_mergeDone ..).2 h))
  unfold State.stored
  dsimp only
  split
  · exact fresh_pushImages _ _ _ hdone
  · exact hdone

theorem fresh_performStore {s : State} (q : Req) (w : Wale) (es : List (Nat × Elem)) (p : Place) (h : Fresh s) :
    Fresh (s.performStore q w es p) := by
  unfold State.performStore
  extract_lets l near n s1
  have h1 : Fresh s1 := by
    simp only [s1]
    split <;> exact h
  clear_value s1
  split
  · exact fresh_foldl_of (fun _ _ h => (fresh_markDone ..).2 h) es h
  split
  · split
    · exact fresh_foldl_of (fun _ _ h => (fresh_merge ..).2 h) es h
    · exact h
  split
  · exact h
  have hspoiled : Kept s (if near = true then none else s.elemSpoiled q es true) := kept_ite (kept_none s) kept_elemSpoiled
  split
  · exact (hspoiled _ ‹_›).2 h
  have hstep (u : State) (infos : List RelInfo) (v : Wale) (hu : Fresh u) :
      Fresh (es.foldl (fun s x => (s.storeAt q x.2 near infos).stored q v x) u) :=
    fresh_foldl_of (fun _ _ h => fresh_stored _ _ _ ((fresh_storeAt ..).2 h)) es hu
  cases q.rel with
  | none => exact hstep _ _ _ ((fresh_flushFor ..).2 h1)
  | some sc => exact hstep _ _ _ ((fresh_flushFor ..).2 ((fresh_release ..).2 h1))

theorem fresh_perform {s : State} (id : Nat) (is : List Nat) (p : Place) (h : Fresh s) : Fresh (s.perform id is p) := by
  unfold State.perform
  split
  · exact h
  split
  · extract_lets es
    split
    · exact h
    split
    · exact (fresh_performLoad ..).2 h
    · exact fresh_performStore _ _ _ _ h
    · exact h
  · exact h

theorem fresh_performMask {s : State} (q : Req) (m : Mask) (p : Place) (h : Fresh s) : Fresh (s.performMask q m p) := by
  unfold State.performMask
  extract_lets is t
  have ht : Fresh t := by
    simp only [t]
    split <;> exact h
  exact (fresh_finishIfDone ..).2 (fresh_foldl_of (fun _ _ h => fresh_perform _ _ _ h) is ht)

@[simp] theorem fresh_enterMq {s : State} (id : Nat) (m : MOp) (h : Fresh s) : Fresh (s.enterMq id m) := by
  unfold State.enterMq
  split
  · exact h
  split
  · exact h
  · exact (fresh_onWale _ _ _ (by simp)).2 (fresh_fresh h)

theorem fresh_pushImgs {s : State} (w : Wale) (r : LRec) (m : MOp) (vas : List (Nat × Bool)) (bits : Nat) (h : Fresh s) :
    Fresh (s.pushImgs w r m vas bits) :=
  fresh_foldl_of (fun _ _ h => below_succ h) vas h

theorem fresh_mstoreWrite {s : State} (w : Wale) (m : MOp) (k : Int) (vs : List FVal) (p : Nat → Bool) (l : List MElem) (h : Fresh s) :
    Fresh (s.mstoreWrite w m k vs p l).1 := by
  induction l generalizing s with
  | nil => exact h
  | cons e l ih =>
    rw [State.mstoreWrite]
    dsimp only
    split
    · split
      · exact ih h
      split
      · exact h
      · exact ih (fresh_pushImgs _ _ _ _ _ ((fresh_engWrite ..).2 h))
    · exact ih h

theorem fresh_mstoreAbandon {s : State} (w : Wale) (g : Workgroup) (m : MOp) (h : Fresh s) : Fresh (s.mstoreAbandon w g m) := by
  have hfree (t : State) (n : Nat) : Fresh { t with free := n } ↔ Fresh t := Iff.rfl
  have hstep := (fresh_mstoreStep s w g m).2 h
  unfold State.mstoreAbandon
  generalize s.mstoreStep w g m = p at hstep
  obtain ⟨k, u⟩ := p
  exact (fresh_abandonMq ..).2 ((hfree ..).2 (fresh_mstoreWrite _ _ _ _ _ _ hstep))

/-! ### Creations -/

@[simp] theorem fresh_startWeaver {s : State} (core : Nat) (h : Fresh s) : Fresh (s.startWeaver core) :=
  (below_append ..).2 ⟨below_filter _ (below_succ h), (below_singleton ..).2 (Nat.lt_succ_self s.nextId)⟩

@[simp] theorem fresh_startStream {s : State} (w : Wale) (k : WaleKind) (target : Nat) (scs : NMap W32) (h : Fresh s) :
    Fresh (s.startStream w k target scs) :=
  (fresh_onWale _ _ _ (by simp)).2 ((below_append ..).2 ⟨below_succ h, (below_singleton ..).2 (Nat.lt_succ_self s.nextId)⟩)

@[simp] theorem fresh_endArrived {s : State} (w : Wale) (h : Fresh s) : Fresh (s.endArrived w) := below_filter _ h

@[simp] theorem fresh_join {s : State} (id : Nat) (h : Fresh s) : Fresh (s.join id) := by
  unfold State.join
  split
  · exact h
  · exact (fresh_onWale _ _ _ (by simp)).2 (below_filter _ h)

theorem fresh_addWale {s : State} (g : Workgroup) (slot windex pc : Nat) (exist : Mask) (scs seeds : NMap W32) (stamp : List Nat)
    (h : Fresh s) : Fresh (s.addWale g slot windex pc exist scs seeds stamp).2 :=
  (below_append ..).2 ⟨below_succ h, (below_singleton ..).2 (Nat.lt_succ_self s.nextId)⟩

theorem fresh_buildRank {s : State} (l : LaunchSt) (r : BitVec 2048) (core rank : Nat) (h : Fresh s) :
    Fresh (s.buildRank l r core rank) := by
  unfold State.buildRank
  extract_lets fam sym idx lin group nd win slots args last code
  have hnew := fresh_fresh h
  generalize s.fresh = p at hnew
  obtain ⟨id, u⟩ := p
  dsimp only at hnew
  dsimp -zeta only
  extract_lets src g u1 u2 u3
  have h1 : Fresh u1 := by
    simp only [u1]
    clear_value win
    split
    · exact (fresh_openWindow ..).2 hnew
    · exact hnew
  have h3 : Fresh u3 := fresh_foldl_of (fun _ _ h => fresh_addWale _ _ _ _ _ _ _ _ h) _ h1
  clear_value u3
  dsimp only
  (repeat' split) <;> simp [h3]

theorem fresh_startTask {s : State} (core va : Nat) (r : BitVec 512) (stamp : List Nat) (h : Fresh s) :
    Fresh (s.startTask core va r stamp) := by
  have hwgs (t : State) (l : List Workgroup) : Fresh { t with wgs := l } ↔ Fresh t := Iff.rfl
  unfold State.startTask
  dsimp only
  refine fresh_addWale _ _ _ _ _ _ _ _ ((hwgs ..).2 ?_)
  split
  · exact (fresh_openWindow ..).2 (below_succ h)
  · exact below_succ h

theorem fresh_startBankTask {s : State} (die va : Nat) (r : BitVec 512) (stamp : List Nat) (h : Fresh s) :
    Fresh (s.startBankTask die va r stamp) := by
  unfold State.startBankTask
  extract_lets ctx row base
  dsimp only
  split
  · exact (fresh_endBank ..).2 (fresh_fresh h)
  · exact fresh_fresh h

@[simp] theorem fresh_popCore {s : State} (c : Nat) (h : Fresh s) : Fresh (s.popCore c) := by
  unfold State.popCore
  extract_lets own
  cases own
  · dsimp only
    (repeat' split) <;> simp [h, fresh_startTask]
  · dsimp only
    (repeat' split) <;> simp [h, fresh_startTask]

@[simp] theorem fresh_popBank {s : State} (d : Nat) (h : Fresh s) : Fresh (s.popBank d) := by
  unfold State.popBank
  split
  · exact h
  split
  · exact h
  · dsimp only
    split
    · exact (fresh_stirHomes ..).2 h
    split
    · exact h
    · exact fresh_startBankTask _ _ _ _ h

@[simp] theorem fresh_spawnWale {s : State} (w : Wale) (g : Workgroup) (slot entry : Nat) (args : List W32) (seeds : NMap W32)
    (h : Fresh s) :
    Fresh (s.spawnWale w g slot entry args seeds) :=
  fresh_addWale _ _ _ _ _ _ _ _ (fresh_fresh h)

/-- PLACE_WORKGROUPS' ranks. -/
theorem fresh_placeAll {s t : State} {l : LaunchSt} {r : BitVec 2048} {cores : List Nat} {i n : Nat}
    (h : Fresh s) (ht : s.placeAll l r cores i n = some t) : Fresh t := by
  induction n generalizing s i with
  | zero => exact Option.some.inj ht ▸ h
  | succ n ih =>
    rw [State.placeAll] at ht
    split at ht
    · exact nomatch ht
    · exact ih (fresh_buildRank _ _ _ _ h) ht

/-! ### Ends -/

@[simp] theorem fresh_dropWale {s : State} (id : Nat) (h : Fresh s) : Fresh (s.dropWale id) := below_filter _ h

/-- A wale that regrouping forms has the serial given. -/
theorem formWale_id {l : List Wale} {g : List Mover} {id slot windex clk acq : Nat} {regs stamp : List Nat} {w : Wale}
    (h : formWale l g id slot windex clk regs stamp acq = some w) : w.id = id := by
  cases g with
  | nil => exact nomatch h
  | cons x g =>
    obtain ⟨y, _, rfl⟩ := Option.map_eq_some_iff.1 h
    rfl

/-- The wales that regrouping forms lie below the next serial that it leaves. -/
theorem below_formed {gs : List (List Mover)} {base : Nat} {form : List Mover × Nat → Option Wale}
    (hform : ∀ p w, form p = some w → w.id = base + p.2) : Below (base + gs.length) ((gs.zip (List.range gs.length)).filterMap form) := by
  intro w hw
  obtain ⟨p, hp, hpw⟩ := List.mem_filterMap.1 hw
  rw [hform p w hpw]
  exact Nat.add_lt_add_left (List.mem_range.1 (List.of_mem_zip hp).2) base

@[simp] theorem fresh_regroup {s : State} (g : Workgroup) (l : List Wale) (a b n : Nat) (h : Fresh s) :
    Fresh (s.regroup g l a b n) := by
  have hlocks (t : State) (l : NMap Lock) : Fresh { t with locks := l } ↔ Fresh t := Iff.rfl
  unfold State.regroup
  extract_lets l groups m ids own slots stamp acq base new heir srcs new' g1 src s1
  have hnew : Below (base + m) new := below_formed fun p w hw => formWale_id hw
  have h1 : Fresh s1 := (below_append ..).2 ⟨below_le (below_filter _ h) (Nat.le_add_right ..), (below_map (by simp)).2 hnew⟩
  refine (fresh_foldl (fun s p => fresh_foldl (fun s k => ?_) _ s) srcs s1).2 h1
  exact (hlocks ..).trans (fresh_lockWord ..)

@[simp] theorem fresh_endCtx {s : State} (c : Nat) (h : Fresh s) : Fresh (s.endCtx c) := by
  have hlocks (t : State) (l : List (Nat × Lock)) : Fresh { t with locks := l } ↔ Fresh t := Iff.rfl
  refine below_filter _ ((fresh_foldl (fun t p => ?_) _ _).2 ((fresh_quiet ..).2 h))
  exact (hlocks ..).trans (fresh_lockWord ..)

@[simp] theorem fresh_coldStart (s : State) : Fresh s.coldStart := below_nil _

@[simp] theorem fresh_enterState {s : State} (d : Nat) (p : PState) (h : Fresh s) : Fresh (s.enterState d p) := by
  unfold State.enterState
  extract_lets t mine u
  have hu : Fresh u := (fresh_loseRange ..).2 ((fresh_flushAll ..).2 h)
  clear_value u
  split
  · exact h
  · exact h
  · split
    · exact hu
    · exact below_filter _ hu

/-! ### Refusals and what is overdue -/

@[simp] theorem fresh_rereadClause {s : State} (w : Wale) (h : Fresh s) : Fresh (s.rereadClause w) := by
  unfold State.rereadClause
  (repeat' split) <;> simp [h]

theorem fresh_refuseEng {s : State} (a : EngAcc) (h : Fresh s) : Fresh (s.refuseEng a) := by
  unfold State.refuseEng
  (repeat' split) <;> simp [h, fresh_mstoreAbandon]

@[simp] theorem fresh_answerAt {s : State} (n : Nat) (refuse : Bool) (h : Fresh s) : Fresh (s.answerAt n refuse) := by
  unfold State.answerAt
  (repeat' split) <;> simp [h, fresh_refuseEng]

theorem fresh_of_weaverRel {s t : State} {core ctx l : Nat} {stamp st : List Nat} {keep : Bool}
    (hrel : s.weaverRel core ctx l stamp keep = (st, t)) (h : Fresh s) : Fresh t := by
  have ht := (fresh_weaverRel s core ctx l stamp keep).2 h
  rwa [hrel] at ht

/-- A signature uses up a leaf and makes no program. -/
theorem fresh_signLeaf {s t : State} {msg : List Byte} {leaf : Nat} {sig : HssSig} (hsig : s.signLeaf msg = some (leaf, sig, t))
    (h : Fresh s) : Fresh t := by
  obtain ⟨u, hu, heq⟩ := Option.map_eq_some_iff.1 hsig
  cases heq
  exact (kept_takeLeaf _ hu).2 h

@[simp] theorem fresh_faultRes {s : State} (v : W64) (h : Fresh s) : Fresh (s.faultRes v) := fresh_answerAt _ _ h

theorem fresh_forceReq {s : State} (q : Req) (h : Fresh s) : Fresh (s.forceReq q) := by
  unfold State.forceReq
  (repeat' split) <;> simp [h, fresh_performMask]

theorem fresh_overdueClk {s : State} (h : Fresh s) : Fresh s.overdueClk :=
  fresh_foldl_of (fun _ _ h => fresh_foldl_of (fun _ r h => fresh_forceReq r h) _ h) _ h

theorem fresh_weaverTurn {s : State} (core : Nat) (h : Fresh s) : Fresh (s.weaverTurn core) := by
  unfold State.weaverTurn
  split <;> simp [h]

theorem fresh_tick {s : State} (h : Fresh s) : Fresh s.tick := by
  have hclk (t : State) (n : Nat) : Fresh { t with clk := n } ↔ Fresh t := Iff.rfl
  have hdue : Fresh (({ s.obsClk.readyClk.candClk with clk := s.obsClk.readyClk.candClk.clk + 1 } : State).bankClk.layClk.settleClk') := by
    rw [fresh_settleClk', fresh_layClk, fresh_bankClk, hclk, fresh_candClk, fresh_readyClk, fresh_obsClk]
    exact h
  unfold State.tick
  dsimp only
  rw [fresh_idleClk, fresh_powerClk, fresh_ckptFinish, fresh_slewClk, fresh_wvClk, fresh_linkClk, fresh_settlePart, fresh_contClk,
    fresh_evClk, fresh_fenceClk, fresh_cacheClk]
  exact fresh_overdueClk hdue

end Sys2Proof.Machine
end

section
/-!
PROOF. The shapes of instructions keep serial numbers fresh (O59).
-/
namespace Sys2Proof.Machine
open Claims

/-! ### Outcomes -/

@[simp] theorem freshOut_next (s : State) : FreshOut (.next s) ↔ Fresh s :=
  ⟨fun h => h s rfl, fun h _ ht => Host.Outcome.next.inj ht ▸ h⟩

@[simp] theorem freshOut_fault (r : Fault) : FreshOut (.fault r) := fun _ h => nomatch h

@[simp] theorem freshOut_refused (r : Refusal) : FreshOut (.refused r) := fun _ h => nomatch h

theorem freshOut_ite {c : Prop} [Decidable c] {a b : Host.Outcome State Fault Refusal} (ha : FreshOut a) (hb : FreshOut b) :
    FreshOut (if c then a else b) := by
  split
  · exact ha
  · exact hb

section
variable {s : State} (h : Fresh s)
include h

@[simp] theorem freshOut_fin : FreshOut (fin s) := by
  unfold fin
  split <;> simp [h]

@[simp] theorem freshOut_raise (w : Wale) (c : Cause) (lanes : Mask) (detail t0 : Nat) : FreshOut (s.raise w c lanes detail t0) :=
  (freshOut_next _).2 (fresh_takeTrap _ _ h)

@[simp] theorem freshOut_raise' (w : Wale) (r : TrapReq) : FreshOut (s.raise' w r) := (freshOut_next _).2 (fresh_takeTrap _ _ h)

theorem freshOut_withCur {f : Wale → Host.Outcome State Fault Refusal} (hf : ∀ w, FreshOut (f w)) : FreshOut (s.withCur f) := by
  unfold State.withCur
  split
  · exact hf _
  · exact (freshOut_next s).2 h

theorem freshOut_control {face : Face} {uses : Wale → List Use} {f : Wale → Host.Outcome State Fault Refusal}
    (hf : ∀ w, FreshOut (f w)) : FreshOut (s.control face uses f) := by
  refine freshOut_withCur h fun w => ?_
  (repeat' split) <;> simp [h, hf]

theorem freshOut_engOp {face : Face} {kinds : List WaleKind} {f : Wale → Wale → Host.Outcome State Fault Refusal}
    (hf : ∀ w o, FreshOut (f w o)) : FreshOut (s.engOp face kinds f) := by
  refine freshOut_withCur h fun w => ?_
  (repeat' split) <;> simp [h, hf]

theorem freshOut_barOp {f : BarForm} {arrives : Wale → Bool} {go : Wale → Nat → Host.Outcome State Fault Refusal}
    (hgo : ∀ w n, FreshOut (go w n)) : FreshOut (s.barOp f arrives go) := by
  refine freshOut_withCur h fun w => ?_
  dsimp only
  (repeat' split) <;> simp [h, hgo]

theorem freshOut_withBank {f : BankCall → Host.Outcome State Fault Refusal} (hf : ∀ b, FreshOut (f b)) : FreshOut (s.withBank f) := by
  unfold State.withBank
  split
  · exact hf _
  · exact (freshOut_next s).2 h

theorem freshOut_wvOp {f : WvForm} {flagless : Wale → Bool} {uses : List Nat} {go : Wale → Host.Outcome State Fault Refusal}
    (hgo : ∀ w, FreshOut (go w)) : FreshOut (s.wvOp f flagless uses go) := by
  refine freshOut_withCur h fun w => ?_
  (repeat' split) <;> simp [h, hgo]

theorem freshOut_serve {core q : Nat} {f : State → Host.Outcome State Fault Refusal} (hf : ∀ t, Fresh t → FreshOut (f t)) :
    FreshOut (s.serve core q f) := by
  unfold State.serve
  dsimp only
  (repeat' split) <;> simp [h, hf]

theorem freshOut_rowAccess {r : RowRef} {p : Perm} {f : BankCall → Nat → State} (hf : ∀ b l, Fresh (f b l)) :
    FreshOut (s.rowAccess r p f) := by
  refine freshOut_withBank h fun b => ?_
  split
  · rename_i l _
    split
    · split
      · exact (freshOut_next _).2 ((kept_spoiled _ ‹_›).2 h)
      · simp [hf]
    · simp [h]
  · simp [h]
  · simp [h]
  · exact freshOut_fin h

end

end Sys2Proof.Machine
end

section
/-!
PROOF. The instructions keep serial numbers fresh (O59).
-/
namespace Sys2Proof.Machine
open Claims

/-! ### Operands -/

@[simp] theorem freshOut_vector {s : State} (g : G) (op : VOp) (h : Fresh s) : FreshOut (s.vector g op) := by
  refine freshOut_withCur h fun w => ?_
  (repeat' split) <;> simp [h]

@[simp] theorem freshOut_scalar {s : State} (face : Face) (uses : Wale → List Use) (trap : Wale → Option TrapReq)
    (res : Wale → List InFlight) (late : Wale → Option TrapReq) (h : Fresh s) : FreshOut (s.scalar face uses trap res late) := by
  refine freshOut_withCur h fun w => ?_
  (repeat' split) <;> simp [h]

/-! ### Near memory -/

@[simp] theorem freshOut_near' {s : State} (m : MForm) (op : MemOp) (h : Fresh s) : FreshOut (s.near' m op) := by
  refine freshOut_withCur h fun w => ?_
  dsimp only
  (repeat' split) <;> simp [h]

@[simp] theorem freshOut_execLayset {s : State} (f : LayForm) (h : Fresh s) : FreshOut (execLayset f s) := by
  refine freshOut_withCur h fun w => ?_
  dsimp only
  (repeat' split) <;> simp [h]

@[simp] theorem freshOut_execLayget {s : State} (f : LayForm) (h : Fresh s) : FreshOut (execLayget f s) := by
  refine freshOut_withCur h fun w => ?_
  (repeat' split) <;> simp [h]

/-! ### Counters -/

@[simp] theorem freshOut_execPsiakDropReport {s : State} (d : Nat) (h : Fresh s) : FreshOut (execPsiakDropReport d s) := by
  unfold execPsiakDropReport
  (repeat' split) <;> simp [h]

/-! ### Queued memory -/

@[simp] theorem freshOut_commitReqs {s : State} (w : Wale) (qs : List Req) (issue : Nat) (h : Fresh s) :
    FreshOut (s.commitReqs w qs issue) := by
  have habsent (b : Bool) : FreshOut (fin { s with absentHit := b }) := freshOut_fin (s := { s with absentHit := b }) h
  unfold State.commitReqs
  extract_lets tr done s1 tags wr w1 w2 w3
  split
  · exact habsent true
  split
  · exact (freshOut_next _).2 (fresh_takeTrap _ _ h)
  · exact (freshOut_next _).2 (fresh_foldl_of (fun _ q h => fresh_enterReq q h) _
      ((fresh_putWale ..).2 ((fresh_foldl fresh_fillReq _ _).2 h)))

@[simp] theorem freshOut_queued {s : State} (m : MForm) (op : MemOp) (kind : ReqKind) (ret : Bool) (h : Fresh s) :
    FreshOut (s.queued m op kind ret) := by
  refine freshOut_withCur h fun w => ?_
  dsimp only
  (repeat' split) <;> simp [h]

@[simp] theorem freshOut_execTranslationWalkDone {s : State} (id : Nat) (h : Fresh s) :
    FreshOut (execTranslationWalkDone id s) := by
  unfold execTranslationWalkDone
  (repeat' split) <;> simp [h]

@[simp] theorem freshOut_execQueuedLoadComplete {s : State} (id : Nat) (m : Mask) (p : Place) (h : Fresh s) :
    FreshOut (execQueuedLoadComplete id m p s) := by
  unfold execQueuedLoadComplete
  (repeat' split) <;> simp [h, fresh_performMask]

@[simp] theorem freshOut_execQueuedStorePerformed {s : State} (id : Nat) (m : Mask) (p : Place) (h : Fresh s) :
    FreshOut (execQueuedStorePerformed id m p s) := by
  unfold execQueuedStorePerformed
  dsimp only
  (repeat' split) <;> simp [h, fresh_performMask]

@[simp] theorem freshOut_execPrefAccepted {s : State} (id : Nat) (h : Fresh s) : FreshOut (execPrefAccepted id s) := by
  unfold execPrefAccepted
  (repeat' split) <;> simp [h]

@[simp] theorem freshOut_execClusterCacheWriteBack {s : State} (cluster line : Nat) (h : Fresh s) :
    FreshOut (execClusterCacheWriteBack cluster line s) := by
  unfold execClusterCacheWriteBack
  (repeat' split) <;> simp [h]

/-! ### Atomics -/

@[simp] theorem freshOut_atomicBeats {s : State} (m : MForm) (op : MemOp) (kind : ReqKind) (w : Wale) (l : List MCtx) (h : Fresh s) :
    FreshOut (s.atomicBeats m op kind w l) := by
  unfold State.atomicBeats
  dsimp only
  (repeat' split) <;> simp [h]

@[simp] theorem freshOut_atomicOp {s : State} (m : MForm) (kind : ReqKind) (fmts : List Ty) (two : Bool) (h : Fresh s) :
    FreshOut (s.atomicOp m kind fmts two) := by
  refine freshOut_withCur h fun w => ?_
  dsimp only
  (repeat' split) <;> simp [h]

/-! ### Conversions -/

@[simp] theorem freshOut_execQ4pack {s : State} (g : G) (h : Fresh s) : FreshOut (execQ4pack g s) := by
  refine freshOut_withCur h fun w => ?_
  dsimp only
  (repeat' split) <;> simp [h]

/-! ### Control -/

@[simp] theorem freshOut_stackOvf {s : State} (w : Wale) (h : Fresh s) : FreshOut (s.stackOvf w) := by
  simp [State.stackOvf, h]

@[simp] theorem freshOut_execIfOp {s : State} (g : G) (h : Fresh s) : FreshOut (execIfOp g s) := by
  refine freshOut_withCur h fun w => ?_
  dsimp only
  (repeat' split) <;> simp [h]

@[simp] theorem freshOut_execElseOp {s : State} (g : G) (h : Fresh s) : FreshOut (execElseOp g s) := by
  refine freshOut_withCur h fun w => ?_
  dsimp only
  (repeat' split) <;> simp [h]

@[simp] theorem freshOut_execEndif {s : State} (g : G) (h : Fresh s) : FreshOut (execEndif g s) := by
  refine freshOut_withCur h fun w => ?_
  dsimp only
  (repeat' split) <;> simp [h]

@[simp] theorem freshOut_execLoop {s : State} (g : G) (h : Fresh s) : FreshOut (execLoop g s) := by
  refine freshOut_withCur h fun w => ?_
  dsimp only
  (repeat' split) <;> simp [h]

@[simp] theorem freshOut_jump {s : State} (w w' : Wale) (taken : Bool) (target : Nat) (h : Fresh s) :
    FreshOut (s.jump w w' taken target) := by
  unfold State.jump
  (repeat' split) <;> simp [h]

@[simp] theorem freshOut_execEndloop {s : State} (g : G) (h : Fresh s) : FreshOut (execEndloop g s) := by
  refine freshOut_withCur h fun w => ?_
  dsimp only
  (repeat' split) <;> simp [h]

@[simp] theorem freshOut_leave {s : State} (g : G) (brk : Bool) (h : Fresh s) : FreshOut (s.leave g brk) := by
  refine freshOut_withCur h fun w => ?_
  dsimp only
  (repeat' split) <;> simp [h]

@[simp] theorem freshOut_uniJump {s : State} (g : G) (uses : List Use) (taken : Wale → Bool) (h : Fresh s) :
    FreshOut (s.uniJump g uses taken) := by
  refine freshOut_withCur h fun w => ?_
  (repeat' split) <;> simp [h]

@[simp] theorem freshOut_callTo {s : State} (w : Wale) (c : CallForm) (fs : List (CallFace × Mask)) (exm : Mask)
    (ret phase target : Nat) (h : Fresh s) :
    FreshOut (s.callTo w c fs exm ret phase target) := by
  unfold State.callTo
  dsimp only
  (repeat' split) <;> simp [h]

@[simp] theorem freshOut_execCall {s : State} (c : CallForm) (h : Fresh s) : FreshOut (execCall c s) := by
  refine freshOut_withCur h fun w => ?_
  dsimp only
  (repeat' split) <;> simp [h]

@[simp] theorem freshOut_fetchFail {s : State} (w : Wale) (e : Option Cause) (r : TrapReq) (h : Fresh s) :
    FreshOut (s.fetchFail w e r) := by
  unfold State.fetchFail
  (repeat' split) <;> simp [h]

@[simp] theorem freshOut_execRet {s : State} (g : G) (h : Fresh s) : FreshOut (execRet g s) := by
  refine freshOut_withCur h fun w => ?_
  dsimp only
  (repeat' split) <;> simp [h]

@[simp] theorem freshOut_execExit {s : State} (g : G) (h : Fresh s) : FreshOut (execExit g s) := by
  refine freshOut_withCur h fun w => ?_
  (repeat' split) <;> simp [h]

@[simp] theorem freshOut_execNop {s : State} (g : G) (h : Fresh s) : FreshOut (execNop g s) := by
  refine freshOut_withCur h fun w => ?_
  (repeat' split) <;> simp [h]

@[simp] theorem freshOut_execYield {s : State} (g : G) (h : Fresh s) : FreshOut (execYield g s) := by
  refine freshOut_withCur h fun w => ?_
  (repeat' split) <;> simp [h]

@[simp] theorem freshOut_execMeld {s : State} (g : G) (h : Fresh s) : FreshOut (execMeld g s) := by
  refine freshOut_withCur h fun w => ?_
  dsimp only
  (repeat' split) <;> simp [h]

@[simp] theorem freshOut_execEndmeld {s : State} (g : G) (h : Fresh s) : FreshOut (execEndmeld g s) := by
  refine freshOut_withCur h fun w => ?_
  dsimp only
  (repeat' split) <;> simp [h]

/-! ### Barriers, fences and locks -/

@[simp] theorem freshOut_execFence {s : State} (f : FenceForm) (h : Fresh s) : FreshOut (execFence f s) := by
  refine freshOut_withCur h fun w => ?_
  dsimp only
  split
  · simp [h]
  split
  · simp [h]
  split
  · simp [h]
  split
  · simp [h]
  have hacq : Fresh (if (f.ann == .acq || f.ann == .ar) = true then s.acquireBy w.id w.issueNo w.seen f.scope false else s) := by
    split <;> simp [h]
  generalize (if (f.ann == .acq || f.ann == .ar) = true then s.acquireBy w.id w.issueNo w.seen f.scope false else s) = u at hacq ⊢
  split
  · simp [hacq]
  · split <;> simp [hacq, fresh_wideFence]

@[simp] theorem freshOut_execQfence {s : State} (f : QfenceForm) (h : Fresh s) : FreshOut (execQfence f s) := by
  refine freshOut_withCur h fun w => ?_
  dsimp only
  (repeat' split) <;> simp [h, fresh_wideFence]

@[simp] theorem freshOut_lockAt {s : State} (w : Wale) (va l : Nat) (waiting : Bool) (h : Fresh s) :
    FreshOut (s.lockAt w va l waiting) := by
  unfold State.lockAt
  (repeat' split) <;> simp [h]

@[simp] theorem freshOut_execLockq {s : State} (m : MForm) (h : Fresh s) : FreshOut (execLockq m s) := by
  refine freshOut_withCur h fun w => ?_
  (repeat' split) <;> simp [h]

@[simp] theorem freshOut_unlockAt {s : State} (w : Wale) (l : Nat) (h : Fresh s) : FreshOut (s.unlockAt w l) := by
  have hrel := (fresh_waleRelease s w .dev).2 h
  have hrels (t : State) (r : NMap (List RelInfo)) : Fresh { t with rels := r } ↔ Fresh t := Iff.rfl
  have hlocks (t : State) (r : NMap Lock) : Fresh { t with locks := r } ↔ Fresh t := Iff.rfl
  unfold State.unlockAt
  split
  · simp [h]
  split
  · simp [h]
  split
  · simp [h]
  generalize s.waleRelease w .dev = p at hrel
  obtain ⟨i, u⟩ := p
  refine (freshOut_next _).2 ((fresh_onWale _ _ _ (by simp)).2 ((fresh_hold ..).2 ?_))
  split
  · exact (hlocks ..).2 ((fresh_lockWord ..).2 ((hrels ..).2 hrel))
  · refine (fresh_onWale _ _ _ fun x => ?_).2 ((hlocks ..).2 ((fresh_lockWord ..).2 ((hrels ..).2 hrel)))
    split <;> rfl

@[simp] theorem freshOut_execUnlockq {s : State} (m : MForm) (h : Fresh s) : FreshOut (execUnlockq m s) := by
  refine freshOut_withCur h fun w => ?_
  (repeat' split) <;> simp [h]

@[simp] theorem freshOut_execBarArrive {s : State} (f : BarForm) (h : Fresh s) : FreshOut (execBarArrive f s) := by
  refine freshOut_barOp h fun w n => ?_
  split
  · simp [h]
  split
  · simp [h]
  · exact freshOut_fin ((fresh_issued ..).2 ((kept_arrive _ ‹_›).2 h))

@[simp] theorem freshOut_execBarWait {s : State} (f : BarForm) (h : Fresh s) : FreshOut (execBarWait f s) := by
  refine freshOut_withCur h fun w => ?_
  dsimp only
  (repeat' split) <;> simp [h]

@[simp] theorem freshOut_execBarSync {s : State} (f : BarForm) (h : Fresh s) : FreshOut (execBarSync f s) := by
  refine freshOut_barOp h fun w n => ?_
  split
  · simp [h]
  split
  · simp [h]
  split
  · simp [h]
  · exact freshOut_fin ((fresh_barWaitPart ..).2 ((fresh_holdPipe ..).2 ((kept_arrive _ ‹_›).2 h)))

@[simp] theorem freshOut_execBarwArv {s : State} (m : MForm) (h : Fresh s) : FreshOut (execBarwArv m s) := by
  refine freshOut_withCur h fun w => ?_
  dsimp only
  (repeat' split) <;> simp [h]

@[simp] theorem freshOut_execBarwWait {s : State} (m : MForm) (h : Fresh s) : FreshOut (execBarwWait m s) := by
  refine freshOut_withCur h fun w => ?_
  dsimp only
  (repeat' split) <;> simp [h]

@[simp] theorem freshOut_execWatchdog {s : State} (id : Nat) (h : Fresh s) : FreshOut (execWatchdog id s) := by
  unfold execWatchdog
  dsimp only
  (repeat' split) <;> simp [h]

/-! ### Engine operations -/

@[simp] theorem freshOut_deliver {s : State} (w o : Wale) (p : PendFault) (h : Fresh s) : FreshOut (s.deliver w o p) := by
  unfold State.deliver
  dsimp only
  split
  · exact (freshOut_next _).2 (fresh_takeTrap _ _ h)
  · exact (freshOut_next _).2 (fresh_takeTrap _ _ ((fresh_onWale _ _ _ (by simp)).2 h))

/-! ### Scalars -/

@[simp] theorem freshOut_scArith {s : State} (g : G) (f : W32 → W32 → W32) (h : Fresh s) : FreshOut (s.scArith g f) := by
  simp [State.scArith, h]

@[simp] theorem freshOut_execMoviScalar {s : State} (g : G) (h : Fresh s) : FreshOut (execMoviScalar g s) := by
  simp [execMoviScalar, h]

@[simp] theorem freshOut_execScmp {s : State} (g : G) (h : Fresh s) : FreshOut (execScmp g s) := by
  simp [execScmp, h]

@[simp] theorem freshOut_execSmov {s : State} (g : G) (h : Fresh s) : FreshOut (execSmov g s) := by
  simp [execSmov, h]

@[simp] theorem freshOut_execMovvs {s : State} (g : G) (h : Fresh s) : FreshOut (execMovvs g s) := by
  simp [execMovvs, h]

@[simp] theorem freshOut_execSrd {s : State} (g : G) (h : Fresh s) : FreshOut (execSrd g s) := by
  refine freshOut_withCur h fun w => ?_
  (repeat' split) <;> simp [h]

@[simp] theorem freshOut_execSrds {s : State} (g : G) (h : Fresh s) : FreshOut (execSrds g s) := by
  refine freshOut_withCur h fun w => ?_
  (repeat' split) <;> simp [h]

@[simp] theorem freshOut_execExmrd {s : State} (g : G) (h : Fresh s) : FreshOut (execExmrd g s) := by
  simp [execExmrd, h]

@[simp] theorem freshOut_execExmwr {s : State} (g : G) (h : Fresh s) : FreshOut (execExmwr g s) := by
  refine freshOut_withCur h fun w => ?_
  (repeat' split) <;> simp [h]

@[simp] theorem freshOut_execTagset {s : State} (g : G) (h : Fresh s) : FreshOut (execTagset g s) := by
  simp [execTagset, h]

@[simp] theorem freshOut_execTagget {s : State} (g : G) (h : Fresh s) : FreshOut (execTagget g s) := by
  simp [execTagget, h]

@[simp] theorem freshOut_illegalOp {s : State} (x : W64) (h : Fresh s) : FreshOut (s.illegalOp x) := by
  exact freshOut_withCur h fun w => freshOut_raise h w _ _ _ _

/-! ### System operations -/

@[simp] theorem freshOut_execIntervalHeader {s : State} (hdr : IntervalHdr) (h : Fresh s) :
    FreshOut (execIntervalHeader hdr s) := by
  refine freshOut_withCur h fun w => ?_
  dsimp only
  generalize (if w.kind.bare then !(intervalCount hdr == 0) else !w.rangesOk hdr) = c
  split
  · exact (freshOut_next _).2 (fresh_takeTrap _ _ h)
  · exact (freshOut_next _).2 ((fresh_putWale ..).2 h)

@[simp] theorem freshOut_execStagingGrant {s : State} (core pipe : Nat) (h : Fresh s) :
    FreshOut (execStagingGrant core pipe s) := by
  unfold execStagingGrant
  (repeat' split) <;> simp [h]

@[simp] theorem freshOut_execClauseHeader {s : State} (hdr : ClauseHdr) (h : Fresh s) : FreshOut (execClauseHeader hdr s) := by
  refine freshOut_withCur h fun w => ?_
  split
  · simp [h]
  · exact (freshOut_next _).2 ((fresh_putWale ..).2 h)

@[simp] theorem freshOut_execTrap {s : State} (g : G) (h : Fresh s) : FreshOut (execTrap g s) := by
  refine freshOut_withCur h fun w => ?_
  (repeat' split) <;> simp [h]

@[simp] theorem freshOut_execBkpt {s : State} (g : G) (h : Fresh s) : FreshOut (execBkpt g s) := by
  refine freshOut_withCur h fun w => ?_
  (repeat' split) <;> simp [h]

@[simp] theorem freshOut_leaveHandler {s : State} (skip : Bool) (h : Fresh s) : FreshOut (s.leaveHandler skip) := by
  refine freshOut_withCur h fun w => ?_
  (repeat' split) <;> simp [h]

@[simp] theorem freshOut_execTrapEntry {s : State} (id : Nat) (h : Fresh s) : FreshOut (execTrapEntry id s) := by
  unfold execTrapEntry
  dsimp only
  (repeat' split) <;> simp [h]

@[simp] theorem freshOut_execWaleAged {s : State} (id : Nat) (h : Fresh s) : FreshOut (execWaleAged id s) := by
  unfold execWaleAged
  (repeat' split) <;> simp [h]

/-! ### Bank programs -/

@[simp] theorem freshOut_execBcall {s : State} (f : BcallForm) (h : Fresh s) : FreshOut (execBcall f s) := by
  refine freshOut_withCur h fun w => ?_
  dsimp only
  (repeat' split) <;> simp [h]

@[simp] theorem freshOut_execBankCallStart {s : State} (id : Nat) (h : Fresh s) : FreshOut (execBankCallStart id s) := by
  unfold execBankCallStart
  (repeat' split) <;> simp [h]

@[simp] theorem freshOut_execBankInsnLimit {s : State} (id : Nat) (h : Fresh s) : FreshOut (execBankInsnLimit id s) := by
  unfold execBankInsnLimit
  (repeat' split) <;> simp [h]

@[simp] theorem freshOut_bankLanes {s : State} (d : Nat) (f : BankCall → Nat → Nat) (h : Fresh s) : FreshOut (s.bankLanes d f) := by
  exact freshOut_withBank h fun b => by simp [h]

@[simp] theorem freshOut_execBend {s : State} (h : Fresh s) : FreshOut (execBend s) := by
  refine freshOut_withBank h fun b => ?_
  (repeat' split) <;> simp [h]

@[simp] theorem freshOut_execBld {s : State} (d : Nat) (r : RowRef) (h : Fresh s) : FreshOut (execBld d r s) := by
  exact freshOut_rowAccess h fun b l => (fresh_putBank ..).2 h

@[simp] theorem freshOut_execBst {s : State} (a : Nat) (r : RowRef) (h : Fresh s) : FreshOut (execBst a r s) := by
  exact freshOut_rowAccess h fun b l => (fresh_putBank ..).2 ((fresh_putRels ..).2 ((fresh_writeNat ..).2 h))

@[simp] theorem freshOut_execBcvt {s : State} (d a1 b mode : Nat) (h : Fresh s) : FreshOut (execBcvt d a1 b mode s) := by
  unfold execBcvt
  split
  · simp [h]
  · simp [h]
  · simp [h]
  · exact freshOut_withBank h fun b => by simp [h]

@[simp] theorem freshOut_execBloop {s : State} (j : Nat) (h : Fresh s) : FreshOut (execBloop j s) := by
  refine freshOut_withBank h fun b => ?_
  (repeat' split) <;> simp [h]

@[simp] theorem freshOut_execBnext {s : State} (h : Fresh s) : FreshOut (execBnext s) := by
  refine freshOut_withBank h fun b => ?_
  (repeat' split) <;> simp [h]

@[simp] theorem freshOut_execBsig {s : State} (j : Nat) (h : Fresh s) : FreshOut (execBsig j s) := by
  refine freshOut_withBank h fun b => ?_
  dsimp only
  split
  · simp [h]
  split
  · simp [h]
  · exact (freshOut_next _).2 ((fresh_putBank ..).2 ((fresh_postEv ..).2 h))

/-! ### The matrix engine -/

@[simp] theorem freshOut_mOp {s : State} (face : Face) (kinds : List WaleKind) (flag : Wale → Option Nat)
    (checks : Wale → Workgroup → List (Bool × Cause)) (uses : List Use) (mk : Wale → Wale → MOp) (tag : Option (Nat × Ty)) (occ : Nat)
        (res : Wale → List InFlight) (h : Fresh s) :
    FreshOut (s.mOp face kinds flag checks uses mk tag occ res) := by
  refine freshOut_withCur h fun w => ?_
  dsimp only
  (repeat' split) <;> simp [h]

@[simp] theorem freshOut_mmaIssue {s : State} (f : MmaForm) (zero : Bool) (h : Fresh s) : FreshOut (s.mmaIssue f zero) := by
  simp [State.mmaIssue, h]

@[simp] theorem freshOut_execMzero {s : State} (f : MzeroForm) (h : Fresh s) : FreshOut (execMzero f s) := by
  simp [execMzero, h]

@[simp] theorem freshOut_execMread {s : State} (f : MrwForm) (h : Fresh s) : FreshOut (execMread f s) := by
  simp [execMread, h]

@[simp] theorem freshOut_execMwrite {s : State} (f : MrwForm) (h : Fresh s) : FreshOut (execMwrite f s) := by
  simp [execMwrite, h]

@[simp] theorem freshOut_execMstore {s : State} (f : MstoreForm) (h : Fresh s) : FreshOut (execMstore f s) := by
  simp [execMstore, h]

@[simp] theorem freshOut_execStfold {s : State} (f : StfoldForm) (h : Fresh s) : FreshOut (execStfold f s) := by
  simp [execStfold, h]

@[simp] theorem freshOut_execMcommit {s : State} (face : Face) (h : Fresh s) : FreshOut (execMcommit face s) := by
  refine freshOut_withCur h fun w => ?_
  dsimp only
  (repeat' split) <;> simp [h]

@[simp] theorem freshOut_execMwait {s : State} (f : WaitForm) (h : Fresh s) : FreshOut (execMwait f s) := by
  refine freshOut_withCur h fun w => ?_
  dsimp only
  (repeat' split) <;> simp [h]

@[simp] theorem freshOut_execArrayServe {s : State} (core : Nat) (h : Fresh s) : FreshOut (execArrayServe core s) := by
  unfold execArrayServe
  (repeat' split) <;> simp [h]

@[simp] theorem freshOut_execMmaComplete {s : State} (core : Nat) (h : Fresh s) : FreshOut (execMmaComplete core s) := by
  unfold execMmaComplete
  dsimp only
  (repeat' split) <;> simp [h]

@[simp] theorem freshOut_mstorePerform {s : State} (w : Wale) (g : Workgroup) (m : MOp) (h : Fresh s) :
    FreshOut (s.mstorePerform w g m) := by
  have hstep := (fresh_mstoreStep s w g m).2 h
  have habsent (b : Bool) : FreshOut (fin { s with absentHit := b }) := freshOut_fin (s := { s with absentHit := b }) h
  unfold State.mstorePerform
  extract_lets plan vs
  split
  · exact habsent true
  split
  · simp [h]
  generalize s.mstoreStep w g m = p at hstep
  obtain ⟨k, u⟩ := p
  dsimp only at hstep ⊢
  split
  · simp [hstep]
  split
  · exact (freshOut_next _).2 ((kept_mstoreSpoiled _ ‹_›).2 hstep)
  have hwrite := fresh_mstoreWrite w m k vs (fun _ => true) plan hstep
  generalize u.mstoreWrite w m k vs (fun _ => true) plan = p at hwrite
  obtain ⟨v, n⟩ := p
  dsimp only at hwrite ⊢
  split
  · exact freshOut_fin ((fresh_popMq ..).2 ((fresh_mstoreFill ..).2 hwrite))
  · exact (freshOut_next _).2 ((fresh_onWale _ _ _ (by simp)).2 ((fresh_mstoreFill ..).2 hwrite))

@[simp] theorem freshOut_execMatrixOpPerformed {s : State} (id : Nat) (h : Fresh s) : FreshOut (execMatrixOpPerformed id s) := by
  unfold execMatrixOpPerformed
  (repeat' split) <;> simp [h]

@[simp] theorem freshOut_execMatrixOpAbandon {s : State} (id : Nat) (h : Fresh s) : FreshOut (execMatrixOpAbandon id s) := by
  unfold execMatrixOpAbandon
  (repeat' split) <;> simp [h]

@[simp] theorem freshOut_execFoldLogAppend {s : State} (id : Nat) (h : Fresh s) : FreshOut (execFoldLogAppend id s) := by
  have habsent (b : Bool) : FreshOut (fin { s with absentHit := b }) := freshOut_fin (s := { s with absentHit := b }) h
  have hslots (t : State) (l : List FoldSlot) : Fresh { t with foldSlots := l } ↔ Fresh t := Iff.rfl
  unfold execFoldLogAppend
  split
  · simp [h]
  split
  · extract_lets _ nent ws seq tail
    split
    · simp [h]
    split
    · exact habsent true
    · simp [h]
    split
    · simp [h]
    split
    · exact (freshOut_next _).2 ((kept_foldSpoiled _ ‹_›).2 h)
    split
    · split
      · simp [h]
      · exact freshOut_fin ((fresh_onHead ..).2 ((fresh_logPut ..).2 h))
    · split
      · exact freshOut_fin ((fresh_foldPass ..).2 ((fresh_onHead ..).2 
          ((hslots ..).2 ((fresh_foldl (fun s p => fresh_engWrite ..) _ _).2 h))))
      · exact freshOut_fin ((fresh_foldPass ..).2 h)
  · simp [h]

/-! ### The copy engine -/

@[simp] theorem freshOut_execCopySlice {s : State} (f : CopyForm) (h : Fresh s) : FreshOut (execCopySlice f s) := by
  refine freshOut_withCur h fun w => ?_
  dsimp only
  (repeat' split) <;> simp [h]

@[simp] theorem freshOut_execCseal {s : State} (face : Face) (h : Fresh s) : FreshOut (execCseal face s) := by
  refine freshOut_withCur h fun w => ?_
  dsimp only
  (repeat' split) <;> simp [h]

@[simp] theorem freshOut_execCwait {s : State} (f : WaitForm) (h : Fresh s) : FreshOut (execCwait f s) := by
  refine freshOut_withCur h fun w => ?_
  dsimp only
  (repeat' split) <;> simp [h]

@[simp] theorem freshOut_execCopyStart {s : State} (wg cq : Nat) (h : Fresh s) : FreshOut (execCopyStart wg cq s) := by
  have habsent (b : Bool) : FreshOut (fin { s with absentHit := b }) := freshOut_fin (s := { s with absentHit := b }) h
  unfold execCopyStart
  split
  · simp [h]
  split
  · simp [h]
  split
  · simp [h]
  dsimp only
  split
  · exact habsent true
  split
  · simp [h]
  split
  · simp [h]
  split
  · simp [h]
  split
  · exact (freshOut_next _).2 ((kept_copySpoiled _ ‹_›).2 h)
  · simp [h]

@[simp] theorem freshOut_execCopyFinish {s : State} (wg cq : Nat) (h : Fresh s) : FreshOut (execCopyFinish wg cq s) := by
  unfold execCopyFinish
  split
  · simp [h]
  split
  · simp [h]
  split
  · simp [h]
  split
  · simp [h]
  split
  · exact (freshOut_next _).2 ((kept_copySpoiled _ ‹_›).2 h)
  · exact freshOut_fin ((fresh_onWg ..).2 ((fresh_foldl (fun s m => fresh_putMove ..) _ _).2 h))

@[simp] theorem freshOut_execCopyAbandon {s : State} (wg cq : Nat) (h : Fresh s) : FreshOut (execCopyAbandon wg cq s) := by
  unfold execCopyAbandon
  (repeat' split) <;> simp [h]

/-! ### Engine streams -/

@[simp] theorem freshOut_fork {s : State} (face : Face) (off : BitVec 28) (k : WaleKind) (h : Fresh s) :
    FreshOut (s.fork face off k) := by
  refine freshOut_withCur h fun w => ?_
  dsimp only
  (repeat' split) <;> simp [h]

@[simp] theorem freshOut_execRdv {s : State} (face : Face) (h : Fresh s) : FreshOut (execRdv face s) := by
  refine freshOut_withCur h fun w => ?_
  dsimp only
  (repeat' split) <;> simp [h]

/-! ### Tasks -/

@[simp] theorem freshOut_execAtomicPerform {s : State} (id : Nat) (h : Fresh s) : FreshOut (execAtomicPerform id s) := by
  unfold execAtomicPerform
  (repeat' split) <;> simp [h]

@[simp] theorem freshOut_execTaskPop {s : State} (r : Resource) (h : Fresh s) : FreshOut (execTaskPop r s) := by
  unfold execTaskPop
  (repeat' split) <;> simp [h]

@[simp] theorem freshOut_execJoinDecrement {s : State} (core : Nat) (h : Fresh s) : FreshOut (execJoinDecrement core s) := by
  unfold execJoinDecrement
  split
  · simp [h]
  split
  · simp [h]
  split
  · simp [h]
  split
  · simp [h]
  have hrep := (kept_popReport ‹_›).2 h
  extract_lets st
  split
  · simp [h]
  · refine (freshOut_next _).2 ((fresh_unlist ..).2 ?_)
    split <;> simp [hrep]

@[simp] theorem freshOut_execSpawn {s : State} (f : SpawnForm) (h : Fresh s) : FreshOut (execSpawn f s) := by
  refine freshOut_withCur h fun w => ?_
  dsimp only
  (repeat' split) <;> simp [h]

/-! ### Launches -/

@[simp] theorem freshOut_execLaunchRefuse {s : State} (core q : Nat) (h : Fresh s) : FreshOut (execLaunchRefuse core q s) := by
  refine freshOut_serve h fun t ht => ?_
  have hfree (n : Nat) : Fresh { t with free := n } := ht
  have h1 (n l seq rsn : Nat) : Fresh (((State.putSeq { t with free := n } l seq).putRsn l rsn).putState l 6) :=
    (fresh_putState ..).2 ((fresh_putRsn ..).2 ((fresh_putSeq ..).2 (hfree n)))
  dsimp only at h1 ⊢
  split
  · simp [ht]
  split
  · simp [ht]
  split
  · exact (freshOut_next _).2 ((fresh_served ..).2 ((fresh_advanceLow ..).2 ((fresh_passHead ..).2 ((fresh_weaverRel ..).2 (h1 _ _ _ _)))))
  · exact (freshOut_next _).2 ((fresh_weaverPost ..).2 ((fresh_served ..).2 ((fresh_advanceLow ..).2
      ((fresh_passHead ..).2 ((fresh_weaverRel ..).2 (h1 _ _ _ _))))))

@[simp] theorem freshOut_execLaunchStart {s : State} (core q : Nat) (h : Fresh s) : FreshOut (execLaunchStart core q s) := by
  have hlaunches (t : State) (l : List LaunchSt) : Fresh { t with launches := l } ↔ Fresh t := Iff.rfl
  refine freshOut_serve h fun t ht => ?_
  extract_lets d seq
  cases t.headRec d with
  | none => exact (freshOut_next _).2 ht
  | some lr =>
    obtain ⟨l, r⟩ := lr
    refine freshOut_ite ((freshOut_next _).2 ht) ?_
    cases t.gridsAtStart r with
    | none => exact (freshOut_next _).2 ht
    | some gs =>
      cases hload : t.loaded core r with
      | none => exact (freshOut_next _).2 ht
      | some s1 =>
        dsimp -zeta only
        extract_lets +onlyGivenNames g s2
        have h2 : Fresh s2 := (fresh_putState ..).2 ((fresh_putTicket ..).2 ((fresh_putSeq ..).2 ((kept_loaded _ hload).2 ht)))
        clear_value s2
        have h3 (st : List Nat) : Fresh (s2.weaverRel core (rCtx r) l st false).2 := (fresh_weaverRel ..).2 h2
        exact (freshOut_next _).2 (fresh_ite ((fresh_retireLaunch ..).2 ((fresh_served ..).2 ((hlaunches ..).2 (h3 _))))
          ((fresh_served ..).2 ((hlaunches ..).2 (h3 _))))

@[simp] theorem freshOut_execWorkgroupCreate {s : State} (core : Nat) (h : Fresh s) : FreshOut (execWorkgroupCreate core s) := by
  have hclaims (t : State) (c : NMap Claim) : Fresh { t with claims := c } ↔ Fresh t := Iff.rfl
  unfold execWorkgroupCreate
  split
  · simp [h]
  split
  · split
    · exact (freshOut_next _).2 ((hclaims ..).2 h)
    split
    · simp [h]
    extract_lets r
    split
    · simp [h]
    · exact (freshOut_next _).2 ((hclaims ..).2 (fresh_buildRank _ _ _ _ h))
  · split <;> simp [h]

@[simp] theorem freshOut_execCoopLaunchPlace {s : State} (core q : Nat) (h : Fresh s) :
    FreshOut (execCoopLaunchPlace core q s) := by
  unfold execCoopLaunchPlace
  extract_lets d x seq
  split
  · simp [h]
  split
  · exact (freshOut_next _).2 ((fresh_foldl (fun s c => fresh_stir ..) _ _).2 h)
  split
  · simp [h]
  split
  · simp [h]
  extract_lets r
  split
  · simp [h]
  split
  · simp [h]
  · exact (freshOut_next _).2 ((fresh_tidyResume ..).2 ((fresh_passHead ..).2 ((fresh_putTicket ..).2 (fresh_placeAll h ‹_›))))

@[simp] theorem freshOut_execWorkgroupRetire {s : State} (core : Nat) (h : Fresh s) : FreshOut (execWorkgroupRetire core s) := by
  unfold execWorkgroupRetire
  split
  · simp [h]
  split
  · simp [h]
  split
  · split
    · simp [h]
    split
    · rename_i loc s1 ev _ _ hpop
      have h1 := (kept_popReport hpop).2 h
      dsimp only
      split
      · simp [h]
      split <;> simp [h1]
    · simp [h]
  · simp [h]

@[simp] theorem freshOut_execSubmissionWrite {s : State} (off n : Nat) (data : BitVec 2048) (h : Fresh s) :
    FreshOut (execSubmissionWrite off n data s) := by
  unfold execSubmissionWrite
  dsimp only
  (repeat' split) <;> simp [h]

/-! ### Workgroups -/

@[simp] theorem freshOut_execWaleEnd {s : State} (id : Nat) (h : Fresh s) : FreshOut (execWaleEnd id s) := by
  unfold execWaleEnd
  dsimp only
  (repeat' split) <;> simp [h]

@[simp] theorem freshOut_execRgrp {s : State} (f : RgrpForm) (h : Fresh s) : FreshOut (execRgrp f s) := by
  have hhold (w : Wale) : Fresh (s.hold w .parked false) := (fresh_hold ..).2 h
  refine freshOut_withCur h fun w => ?_
  dsimp only
  (repeat' split) <;> simp [h, fresh_trapAll]

@[simp] theorem freshOut_execRgrpForm {s : State} (wg : Nat) (h : Fresh s) : FreshOut (execRgrpForm wg s) := by
  unfold execRgrpForm
  split
  · simp [h]
  extract_lets l
  split
  · simp [h]
  · exact (freshOut_next _).2 (fresh_trapAll _ _ ((fresh_putWg ..).2 h))
  · simp [h]
  · simp [h]
  · split <;> simp [h]

/-! ### Preemption -/

@[simp] theorem freshOut_execPreempt {s : State} (v : W64) (h : Fresh s) : FreshOut (execPreempt v s) := by
  unfold execPreempt
  (repeat' split) <;> simp [h]

@[simp] theorem freshOut_execResume {s : State} (v : W64) (h : Fresh s) : FreshOut (execResume v s) := by
  simp [execResume, h]

@[simp] theorem freshOut_execWorkgroupDrainLimit {s : State} (q : Nat) (h : Fresh s) : FreshOut (execWorkgroupDrainLimit q s) := by
  refine (freshOut_next _).2 ((fresh_foldl (fun s l => ?_) _ s).2 h)
  split <;> simp

@[simp] theorem freshOut_execCopyDrainLimit {s : State} (wg cq : Nat) (h : Fresh s) : FreshOut (execCopyDrainLimit wg cq s) := by
  unfold execCopyDrainLimit
  dsimp only
  (repeat' split) <;> simp [h]

@[simp] theorem freshOut_execHardStopSave {s : State} (id : Nat) (h : Fresh s) : FreshOut (execHardStopSave id s) := by
  unfold execHardStopSave
  dsimp only
  (repeat' split) <;> simp [h]

@[simp] theorem freshOut_execWaleRestore {s : State} (core wg : Nat) (h : Fresh s) : FreshOut (execWaleRestore core wg s) := by
  unfold execWaleRestore
  split
  · simp [h]
  split
  · simp [h]
  split
  · split
    · simp [h]
    extract_lets gs idle
    split
    · simp [h]
    split
    · exact (freshOut_next _).2 ((fresh_settlePart ..).2 ((fresh_tidyResume ..).2
        ((fresh_putState ..).2 ((kept_restoreAll _ ‹_›).2 h))))
    · simp [h]
  · extract_lets gs
    split
    · simp [h]
    split
    · simp [h]
    · have ht := (kept_restoreSet _ ‹_›).2 h
      refine (freshOut_next _).2 ((fresh_settlePart ..).2 ?_)
      split <;> simp [ht]

@[simp] theorem freshOut_execWaleRestoreReady {s : State} (id : Nat) (h : Fresh s) : FreshOut (execWaleRestoreReady id s) := by
  unfold execWaleRestoreReady
  split
  · simp [h]
  split
  · simp [h]
  · exact freshOut_fin (fresh_foldl_of (fun _ w h => fresh_rereadClause w h) _ ((fresh_revived ..).2 h))

@[simp] theorem freshOut_execWorkgroupMigrate {s : State} (wg core : Nat) (h : Fresh s) :
    FreshOut (execWorkgroupMigrate wg core s) := by
  unfold execWorkgroupMigrate
  dsimp only
  (repeat' split) <;> simp [h]

@[simp] theorem freshOut_execForwardingExpire {s : State} (i : Nat) (h : Fresh s) : FreshOut (execForwardingExpire i s) := by
  unfold execForwardingExpire
  (repeat' split) <;> simp [h]

@[simp] theorem freshOut_execPartWrite {s : State} (p w : Nat) (v : W64) (h : Fresh s) : FreshOut (execPartWrite p w v s) := by
  unfold execPartWrite
  dsimp only
  (repeat' split) <;> simp [h]

@[simp] theorem freshOut_execCssplit {s : State} (d : Nat) (v : W64) (h : Fresh s) : FreshOut (execCssplit d v s) := by
  unfold execCssplit
  dsimp only
  (repeat' split) <;> simp [h]

@[simp] theorem freshOut_execWvreset {s : State} (v : W64) (h : Fresh s) : FreshOut (execWvreset v s) := by
  unfold execWvreset
  dsimp only
  (repeat' split) <;> simp [h]

@[simp] theorem freshOut_execCtxrec {s : State} (c : Nat) (v : W64) (h : Fresh s) : FreshOut (execCtxrec c v s) := by
  unfold execCtxrec
  dsimp only
  (repeat' split) <;> simp [h]

/-! ### The slew engine -/

@[simp] theorem freshOut_execSlewPlanComplete {s : State} (h : Fresh s) : FreshOut (execSlewPlanComplete s) := by
  have hslew (t : State) (x : Slew) : Fresh { t with slew := x } ↔ Fresh t := Iff.rfl
  unfold execSlewPlanComplete
  extract_lets x plan hash y rec' r ok z
  split
  · simp [h]
  split
  · exact (freshOut_next _).2 ((fresh_slewEnd ..).2 ((hslew ..).2 h))
  split
  · exact (freshOut_next _).2 ((fresh_slewEnd ..).2 ((hslew ..).2 h))
  · exact (freshOut_next _).2 ((fresh_slewChoose ..).2 ((fresh_putProgress ..).2 ((hslew ..).2 h)))

@[simp] theorem freshOut_execSlewTransferAck {s : State} (h : Fresh s) : FreshOut (execSlewTransferAck s) := by
  have habsent (b : Bool) : FreshOut (fin { s with absentHit := b }) := freshOut_fin (s := { s with absentHit := b }) h
  have hslew (t : State) (x : Slew) : Fresh { t with slew := x } ↔ Fresh t := Iff.rfl
  unfold execSlewTransferAck
  split
  · extract_lets es bad absent held s1 x
    split
    · exact habsent true
    split
    · simp [h]
    split
    · exact (freshOut_next _).2 ((kept_slewSpoiled _ ‹_›).2 h)
    have h1 : Fresh s1 := (fresh_foldl fresh_slewMove _ s).2 h
    split
    · exact (freshOut_next _).2 ((fresh_slewEnd ..).2 ((hslew ..).2 h1))
    · exact (freshOut_next _).2 ((fresh_slewChoose ..).2 ((fresh_putProgress ..).2 ((hslew ..).2 h1)))
  · simp [h]

@[simp] theorem freshOut_execSlewTransferFail {s : State} (unreachable : Bool) (h : Fresh s) :
    FreshOut (execSlewTransferFail unreachable s) := by
  unfold execSlewTransferFail
  dsimp only
  (repeat' split) <;> simp [h]

@[simp] theorem freshOut_execSlewCtxStopped {s : State} (h : Fresh s) : FreshOut (execSlewCtxStopped s) := by
  have hfree (t : State) (n : Nat) : Fresh { t with free := n } ↔ Fresh t := Iff.rfl
  unfold execSlewCtxStopped
  extract_lets x es n s1
  split
  · simp [h]
  · refine (freshOut_next _).2 ((fresh_slewHalt ..).2 ((hfree ..).2 ((fresh_foldl (fun s p => ?_) _ s).2 h)))
    split <;> simp

/-! ### Checkpoints -/

@[simp] theorem freshOut_execCheckpointEnd {s : State} (h : Fresh s) : FreshOut (execCheckpointEnd s) := by
  have hfree (t : State) (n : Nat) : Fresh { t with free := n } ↔ Fresh t := Iff.rfl
  have hdirty (t : State) (l : List Nat) : Fresh { t with dirtyGranules := l } ↔ Fresh t := Iff.rfl
  unfold execCheckpointEnd
  generalize allGranules = m
  split
  · simp [h]
  split
  · simp [h]
  split
  · simp [h]
  split
  · simp [h]
  split
  · simp [h]
  rename_i c _ _ _ _ _ _ _
  -- each value is made opaque before the next: the whole run of them is too large to reduce at once
  extract_lets +onlyGivenNames s1
  have h1 : Fresh s1 := (fresh_flushAll s).2 h
  clear_value s1
  extract_lets +onlyGivenNames gs
  clear_value gs
  extract_lets +onlyGivenNames written
  clear_value written
  extract_lets +onlyGivenNames left
  clear_value left
  have h2 : Fresh { s1.nameBad c gs with free := s1.free + m } := (hfree (s1.nameBad c gs) _).2 ((fresh_nameBad s1 c gs).2 h1)
  generalize ({ s1.nameBad c gs with free := s1.free + m } : State) = s2 at h2 ⊢
  dsimp only
  split
  · exact (freshOut_next _).2 ((fresh_ckptFail ..).2 h2)
  · exact (freshOut_next _).2 ((fresh_ckptOver ..).2 ((hdirty ..).2 ((kept_writeImage _ ‹_›).2 h2)))

@[simp] theorem freshOut_execCheckpointTargetFail {s : State} (i : Nat) (h : Fresh s) :
    FreshOut (execCheckpointTargetFail i s) := by
  unfold execCheckpointTargetFail
  (repeat' split) <;> simp [h]

/-! ### The weaver -/

@[simp] theorem freshOut_execEvpop {s : State} (f : WvForm) (h : Fresh s) : FreshOut (execEvpop f s) := by
  refine freshOut_withCur h fun w => ?_
  dsimp only
  (repeat' split) <;> simp [h]

@[simp] theorem freshOut_wvLong {s : State} (f : WvForm) (op na : Nat) (h : Fresh s) : FreshOut (s.wvLong f op na) := by
  refine freshOut_withCur h fun w => ?_
  dsimp only
  (repeat' split) <;> simp [h]

@[simp] theorem freshOut_execWeaverOperationComplete {s : State} (core : Nat) (h : Fresh s) :
    FreshOut (execWeaverOperationComplete core s) := by
  unfold execWeaverOperationComplete
  (repeat' split) <;> simp [h]

/-! ### Faults -/

@[simp] theorem freshOut_execTlbinv {s : State} (v : W64) (h : Fresh s) : FreshOut (execTlbinv v s) := by
  simp [execTlbinv, h]

@[simp] theorem freshOut_execInvalidationDone {s : State} (h : Fresh s) : FreshOut (execInvalidationDone s) := by
  unfold execInvalidationDone
  (repeat' split) <;> simp [h]

@[simp] theorem freshOut_execEngineTranslationFault {s : State} (acc : EngAcc) (h : Fresh s) :
    FreshOut (execEngineTranslationFault acc s) := by
  unfold execEngineTranslationFault
  (repeat' split) <;> simp [h]

@[simp] theorem freshOut_execFaultRetry {s : State} (v : W64) (h : Fresh s) : FreshOut (execFaultRetry v s) := by
  exact freshOut_fin (fresh_faultRes _ h)

@[simp] theorem freshOut_execFaultRefuse {s : State} (v : W64) (h : Fresh s) : FreshOut (execFaultRefuse v s) := by
  exact freshOut_fin (fresh_faultRes _ h)

@[simp] theorem freshOut_execFaultHead {s : State} (v : W64) (h : Fresh s) : FreshOut (execFaultHead v s) := by
  have hring (t : State) (n : Nat) (l : List FaultRec) : Fresh { t with faultHead := n, faultRing := l } ↔ Fresh t := Iff.rfl
  unfold execFaultHead
  dsimp only
  generalize (field v 31 0 + 2 ^ 32 - s.faultHead % 2 ^ 32) % 2 ^ 32 = k
  split
  · simp [h]
  · exact freshOut_fin ((hring ..).2 (fresh_foldl_of (fun _ n h => fresh_answerAt n true h) _ h))

@[simp] theorem freshOut_execFaultQ {s : State} (v : W64) (h : Fresh s) : FreshOut (execFaultQ v s) := by
  simp [execFaultQ, h]

@[simp] theorem freshOut_execFaultRecordWrite {s : State} (h : Fresh s) : FreshOut (execFaultRecordWrite s) := by
  unfold execFaultRecordWrite
  (repeat' split) <;> simp [h]

/-! ### The host -/

@[simp] theorem freshOut_execDbgStop {s : State} (v : W64) (h : Fresh s) : FreshOut (execDbgStop v s) := by
  unfold execDbgStop
  (repeat' split) <;> simp [h]

@[simp] theorem freshOut_execDbgDump {s : State} (v : W64) (h : Fresh s) : FreshOut (execDbgDump v s) := by
  unfold execDbgDump
  (repeat' split) <;> simp [h]

@[simp] theorem freshOut_execDbgResume {s : State} (v : W64) (h : Fresh s) : FreshOut (execDbgResume v s) := by
  unfold execDbgResume
  (repeat' split) <;> simp [h]

@[simp] theorem freshOut_execBreakpointStop {s : State} (id : Nat) (h : Fresh s) : FreshOut (execBreakpointStop id s) := by
  unfold execBreakpointStop
  (repeat' split) <;> simp [h]

@[simp] theorem freshOut_dbgCommand {s : State} (v : W64) (h : Fresh s) : FreshOut (s.dbgCommand v) := by
  have hset := (fresh_setReg s (mgmt 4 0x8008) v).2 h
  unfold State.dbgCommand
  extract_lets t
  split
  · exact freshOut_execDbgStop _ hset
  · exact freshOut_execDbgDump _ hset
  · exact freshOut_execDbgResume _ hset
  · simpa [t] using h

@[simp] theorem freshOut_execSparereq {s : State} (v : W64) (h : Fresh s) : FreshOut (execSparereq v s) := by
  have hspare (t : State) (l : List Nat) : Fresh { t with absent := l } ↔ Fresh t := Iff.rfl
  have hlost (t : State) (l : List Nat) : Fresh { t with lost := l } ↔ Fresh t := Iff.rfl
  have hpart (t : State) (p : PartRec) (x : HssSig) : Fresh { t with part := p, partSig := x } ↔ Fresh t := Iff.rfl
  have h1 : Fresh { s.leaveCores (· == v.toNat) with absent := v.toNat :: s.absent } :=
    (hspare (s.leaveCores _) _).2 ((fresh_leaveCores ..).2 h)
  unfold execSparereq
  refine freshOut_ite ((freshOut_next _).2 h) ((freshOut_next _).2 ?_)
  dsimp only at h1 ⊢
  generalize ({ s.leaveCores (· == v.toNat) with absent := v.toNat :: s.absent } : State) = s1 at h1 ⊢
  generalize s.leaveCores (· == v.toNat) = u
  split
  · exact (hlost (s1.setReg _ _) _).2 ((fresh_setReg ..).2 h1)
  split
  · exact (hlost (s1.setReg _ _) _).2 ((fresh_setReg ..).2 h1)
  · exact (hpart ..).2 ((fresh_setReg ..).2 (fresh_signLeaf ‹_› h1))

@[simp] theorem freshOut_execFbclr {s : State} (v : W64) (h : Fresh s) : FreshOut (execFbclr v s) := by
  unfold execFbclr
  (repeat' split) <;> simp [h]

@[simp] theorem freshOut_execBootOk {s : State} (v : W64) (h : Fresh s) : FreshOut (execBootOk v s) := by
  unfold execBootOk
  (repeat' split) <;> simp [h]

@[simp] theorem freshOut_mgmtWrite {s : State} (off : Nat) (v : W64) (h : Fresh s) : FreshOut (s.mgmtWrite off v) := by
  unfold State.mgmtWrite
  dsimp only
  (repeat' split) <;> simp [h]

@[simp] theorem freshOut_execRegisterWrite {s : State} (off : Nat) (v : W64) (h : Fresh s) :
    FreshOut (execRegisterWrite off v s) := by
  have hobs (t : State) (x : NMap W64) : Fresh { t with obs := x } ↔ Fresh t := Iff.rfl
  unfold execRegisterWrite
  refine freshOut_ite ((freshOut_next _).2 h) (freshOut_ite ((freshOut_next _).2 ?_) ?_)
  · split
    · exact (hobs ..).2 h
    · exact h
  refine freshOut_ite (freshOut_mgmtWrite _ _ h) (freshOut_ite ((freshOut_next _).2 ((fresh_setReg ..).2 h)) ?_)
  refine freshOut_ite (freshOut_execTlbinv _ h) (freshOut_ite (freshOut_execFaultQ _ h) ?_)
  refine freshOut_ite (freshOut_fin (fresh_faultRes _ h)) (freshOut_ite (freshOut_execFaultHead _ h) ?_)
  refine freshOut_ite (freshOut_execPreempt _ h) (freshOut_ite (freshOut_execResume _ h) (freshOut_ite (freshOut_execWvreset _ h) ?_))
  (repeat' split) <;> simp [h]

@[simp] theorem freshOut_execHostBar4Write {s : State} (off : Nat) (data : List Byte) (h : Fresh s) :
    FreshOut (execHostBar4Write off data s) := by
  unfold execHostBar4Write
  (repeat' split) <;> simp [h]

@[simp] theorem freshOut_execHostBar4Read {s : State} (off n : Nat) (h : Fresh s) : FreshOut (execHostBar4Read off n s) := by
  unfold execHostBar4Read
  (repeat' split) <;> simp [h]

@[simp] theorem freshOut_execPeerAccess {s : State} (job va : Nat) (op : PeerOp) (h : Fresh s) :
    FreshOut (execPeerAccess job va op s) := by
  unfold execPeerAccess
  dsimp only
  (repeat' split) <;> simp [h]

@[simp] theorem freshOut_execFlitReceive {s : State} (port : Nat) (hdr : BitVec 512) (data : List (BitVec 512)) (crcOk : Bool)
    (h : Fresh s) :
    FreshOut (execFlitReceive port hdr data crcOk s) := by
  unfold execFlitReceive
  dsimp only
  (repeat' split) <;> simp [h]

@[simp] theorem freshOut_execNakReceive {s : State} (port seq : Nat) (h : Fresh s) : FreshOut (execNakReceive port seq s) := by
  unfold execNakReceive
  dsimp only
  (repeat' split) <;> simp [h]

@[simp] theorem freshOut_execLinkDown {s : State} (port : Nat) (h : Fresh s) : FreshOut (execLinkDown port s) := by
  unfold execLinkDown
  dsimp only
  (repeat' split) <;> simp [h]

/-! ### Power -/

@[simp] theorem freshOut_execPowerGood {s : State} (written : Option (List Byte)) (levels : List (LmsCode × OtsCode))
    (sig : List Byte) (h : Fresh s) :
    FreshOut (execPowerGood written levels sig s) := by
  unfold execPowerGood
  dsimp only
  (repeat' split) <;> simp [h]

@[simp] theorem freshOut_execBootOkTimeout {s : State} (h : Fresh s) : FreshOut (execBootOkTimeout s) := by
  unfold execBootOkTimeout
  (repeat' split) <;> simp [h]

@[simp] theorem freshOut_execPowerLoss {s : State} : FreshOut (execPowerLoss s) := by
  simp [execPowerLoss]

@[simp] theorem freshOut_execThermalTrip {s : State} (h : Fresh s) : FreshOut (execThermalTrip s) := by
  unfold execThermalTrip
  (repeat' split) <;> simp [h]

@[simp] theorem freshOut_execAttestationSign {s : State} (nonce : BitVec 256) (h : Fresh s) :
    FreshOut (execAttestationSign nonce s) := by
  have hattested (t : State) (a : Option Attestation) : Fresh { t with attested := a } ↔ Fresh t := Iff.rfl
  unfold execAttestationSign
  split
  · refine (freshOut_next _).2 ?_
    split
    · exact (hattested ..).2 (fresh_signLeaf ‹_› h)
    · exact h
  · simp [h]

@[simp] theorem freshOut_execPowerStateDescend {s : State} (d : Nat) (h : Fresh s) : FreshOut (execPowerStateDescend d s) := by
  unfold execPowerStateDescend
  split
  · split
    · exact (freshOut_next _).2 (fresh_foldl_of (fun _ k h => fresh_enterState k .c4 h) _ h)
    · simp [h]
  · (repeat' split) <;> simp [h]

@[simp] theorem freshOut_execDieWake {s : State} (d : Nat) (h : Fresh s) : FreshOut (execDieWake d s) := by
  unfold execDieWake
  (repeat' split) <;> simp [h]

/-! ### Events -/

@[simp] theorem freshOut_execFastFileParityError {s : State} (id r : Nat) (h : Fresh s) :
    FreshOut (execFastFileParityError id r s) := by
  unfold execFastFileParityError
  dsimp only
  (repeat' split) <;> simp [h]

@[simp] theorem freshOut_execUncorrectableError {s : State} (ctx strct core slot : Nat) (place : ErrPlace) (h : Fresh s) :
    FreshOut (execUncorrectableError ctx strct core slot place s) := by
  unfold execUncorrectableError
  dsimp only
  (repeat' split) <;> simp [h]

@[simp] theorem freshOut_execScrubError {s : State} (strct pa : Nat) (h : Fresh s) : FreshOut (execScrubError strct pa s) := by
  unfold execScrubError
  dsimp only
  (repeat' split) <;> simp [h]

@[simp] theorem freshOut_execImagePerform {s : State} (id : Nat) (h : Fresh s) : FreshOut (execImagePerform id s) := by
  have habsent (b : Bool) : FreshOut (fin { s with absentHit := b }) := freshOut_fin (s := { s with absentHit := b }) h
  have himages (t : State) (l : List Image) : Fresh { t with images := l } ↔ Fresh t := Iff.rfl
  unfold execImagePerform
  split
  · simp [h]
  split
  · simp [h]
  split
  · exact habsent true
  · simp [h]
  split
  · simp [h]
  split
  · exact (freshOut_next _).2 ((kept_spoiled _ ‹_›).2 h)
  extract_lets n s1 s2
  have h1 : Fresh s1 := (fresh_homeWrite ..).2 ((fresh_flushLines ..).2 h)
  have h2 : Fresh s2 := (fresh_foldl (fun s c => (fresh_dropClean ..).trans (fresh_dropClean ..)) _ s1).2 h1
  exact (freshOut_next _).2 ((fresh_fillDie ..).2 ((himages ..).2 h2))

@[simp] theorem freshOut_execFoldMerge {s : State} (ctx hdr : Nat) (h : Fresh s) : FreshOut (execFoldMerge ctx hdr s) := by
  have habsent (b : Bool) : FreshOut (fin { s with absentHit := b }) := freshOut_fin (s := { s with absentHit := b }) h
  unfold execFoldMerge
  extract_lets log die w n nent head es locs home tail core st first cnt recs acc s1
  split
  · simp [h]
  split
  · simp [h]
  split
  · exact habsent true
  split
  · exact (freshOut_next _).2 ((fresh_foldl (fun s a => fresh_joinStir ..) _ _).2 ((fresh_stirHomes ..).2 h))
  split
  · rename_i hspoiled
    split at hspoiled
    · cases hspoiled
    · refine (freshOut_next _).2 ((kept_findSome (fun l => ?_) locs _ hspoiled).2 h)
      split
      · exact kept_spoiled
      · exact kept_none s
  · exact (freshOut_next _).2 ((fresh_foldl (fun s a => fresh_joinDec ..) _ s1).2 ((fresh_homeWrite ..).2 ((fresh_foldStep ..).2 h)))

/-! ### Lanes -/

@[simp] theorem freshOut_ballotLike {s : State} (g : G) (f : Mask → Mask → W32) (h : Fresh s) : FreshOut (s.ballotLike g f) := by
  refine freshOut_withCur h fun w => ?_
  dsimp only
  (repeat' split) <;> simp [h]

@[simp] theorem freshOut_reduce {s : State} (g : G) (ident : W32) (f : W32 → W32 → W32 × Nat) (root : W32 → W32 × Nat) (h : Fresh s) :
    FreshOut (s.reduce g ident f root) := by
  refine freshOut_withCur h fun w => ?_
  dsimp only
  (repeat' split) <;> simp [h]

@[simp] theorem freshOut_reduceInt {s : State} (g : G) (ident : W32) (f : W32 → W32 → W32) (h : Fresh s) :
    FreshOut (s.reduceInt g ident f) := by
  simp [State.reduceInt, h]

@[simp] theorem freshOut_execWsum {s : State} (g : G) (h : Fresh s) : FreshOut (execWsum g s) := by
  unfold execWsum
  (repeat' split) <;> simp [h]

@[simp] theorem freshOut_execWmin {s : State} (g : G) (h : Fresh s) : FreshOut (execWmin g s) := by
  unfold execWmin
  (repeat' split) <;> simp [h]

@[simp] theorem freshOut_execWmax {s : State} (g : G) (h : Fresh s) : FreshOut (execWmax g s) := by
  unfold execWmax
  (repeat' split) <;> simp [h]

end Sys2Proof.Machine
end

section
/-!
PROOF. Every step keeps serial numbers fresh (O59).
-/
namespace Sys2Proof.Machine
open Claims

/-! ### What a step takes up -/

/-- What the clk takes up keeps serial numbers fresh: the outcome, or the state in which an instruction runs. -/
def FreshNext : Fetched → Prop
  | .stop o => FreshOut o
  | .run t _ => Fresh t

@[simp] theorem freshNext_stop (o : Host.Outcome State Fault Refusal) : FreshNext (.stop o) ↔ FreshOut o := Iff.rfl

@[simp] theorem freshNext_run (t : State) (i : Instr) : FreshNext (.run t i) ↔ Fresh t := Iff.rfl

theorem freshNext_ite {c : Prop} [Decidable c] {a b : Fetched} (ha : FreshNext a) (hb : FreshNext b) :
    FreshNext (if c then a else b) := by
  split
  · exact ha
  · exact hb

theorem freshNext_reach {s : State} (w : Wale) (x : W64) (ext : Option W64) (h : Fresh s) : FreshNext (s.reach w x ext) := by
  have htrap (w : Wale) (r : TrapReq) : FreshNext (.stop (.next (s.takeTrap w r))) := (freshOut_next _).2 (fresh_takeTrap _ _ h)
  unfold State.reach
  extract_lets hdr lanes trap
  refine freshNext_ite (htrap _ _) ?_
  split
  · exact htrap _ _
  refine freshNext_ite (htrap _ _) ?_
  split
  · exact htrap _ _
  · exact h

theorem freshNext_fetch {s : State} (w : Wale) (h : Fresh s) : FreshNext (s.fetch w) := by
  have hcur {t : State} (ht : Fresh t) (n : Nat) : Fresh { t with cur := n } := ht
  have hfree {t : State} (ht : Fresh t) (n : Nat) : Fresh { t with free := n } := ht
  have habsent {t : State} (ht : Fresh t) (b : Bool) : Fresh { t with absentHit := b } := ht
  unfold State.fetch
  extract_lets +onlyGivenNames hdr w0 s0
  have h0 : Fresh s0 := hcur h w.id
  clear_value s0 w0 hdr
  extract_lets fail
  have hfail (w : Wale) (e : Option Cause) (lanes : Mask) : FreshNext (fail w e lanes) := by
    cases e with
    | none => exact freshOut_fin (habsent h0 true)
    | some c => exact (freshOut_next _).2 (fresh_takeTrap _ _ h0)
  clear_value fail
  refine freshNext_ite (freshOut_fin ((fresh_dbgDone ..).2 ((fresh_debugStop ..).2 h0))) ?_
  refine freshNext_ite (freshOut_fin ((fresh_debugStop ..).2 h0)) ?_
  split
  · exact hfail _ _ _
  have h1 : Fresh (State.fillVa { s0 with free := s0.free + 4 } w.core w.ctx (addr52 w.pc)) := (fresh_fillVa ..).2 (hfree h0 _)
  refine freshNext_ite (freshNext_reach _ _ _ ((fresh_putWale ..).2 h1)) ?_
  split
  · exact hfail _ _ _
  · exact freshNext_reach _ _ _ ((fresh_putWale ..).2 h1)

theorem freshNext_bankFetch {s : State} (id : Nat) (h : Fresh s) : FreshNext (s.bankFetch id) := by
  have hbank (t : State) (n : Nat) : Fresh { t with curBank := n } ↔ Fresh t := Iff.rfl
  have habsent (b : Bool) : FreshOut (fin { s with absentHit := b }) := freshOut_fin (s := { s with absentHit := b }) h
  have hfault (b : BankCall) : FreshNext (.stop (.next (s.faultBank b))) := (freshOut_next _).2 ((fresh_faultBank ..).2 h)
  unfold State.bankFetch
  split
  · exact (freshOut_next _).2 h
  refine freshNext_ite ((freshOut_next _).2 h) (freshNext_ite (hfault _) ?_)
  split
  · exact habsent true
  · exact hfault _
  extract_lets x
  refine freshNext_ite ((freshOut_next _).2 ((fresh_putBank ..).2 h)) ?_
  split
  · exact hfault _
  · exact (fresh_fillDie ..).2 ((hbank ..).2 h)

theorem freshNext_streamTurn {s : State} (id : Nat) (h : Fresh s) : FreshNext (s.streamTurn id) := by
  unfold State.streamTurn
  split
  · exact (freshOut_next _).2 h
  · exact freshNext_ite ((freshOut_next _).2 h) (freshNext_fetch _ h)

theorem freshNext_turn {s : State} (t : Turn) (h : Fresh s) : FreshNext (s.turn t) := by
  cases t with
  | event i => exact h
  | bank id => exact freshNext_bankFetch id h
  | stream id => exact freshNext_streamTurn id h
  | weaver core => exact (freshOut_next _).2 (fresh_weaverTurn core h)
  | withhold n => exact (freshOut_next { s with withheld := max s.withheld (s.clk + n) }).2 h
  | corrected strct d => exact (freshOut_next _).2 ((fresh_corrected ..).2 h)
  | pcie failed => exact (freshOut_next _).2 ((fresh_pcieError ..).2 h)

theorem fresh_due {s u : State} {t : Turn} (hdue : s.due = some (t, u)) (h : Fresh s) : Fresh u := by
  obtain ⟨x, _, hx⟩ := Option.map_eq_some_iff.1 hdue
  cases hx
  exact h

theorem fresh_selected {s u : State} {w : Wale} (hsel : s.selected = some (w, u)) (h : Fresh s) : Fresh u := by
  obtain ⟨x, _, hx⟩ := Option.bind_eq_some_iff.1 hsel
  obtain ⟨v, _, hv⟩ := Option.map_eq_some_iff.1 hx
  cases hv
  exact (fresh_countIssue ..).2 h

theorem freshNext_nextUp {s : State} (h : Fresh s) : FreshNext s.nextUp := by
  unfold State.nextUp
  split
  · exact freshNext_turn _ (fresh_due ‹_› h)
  split
  · exact h
  split
  · exact freshNext_fetch _ (fresh_selected ‹_› h)
  · exact freshOut_fin (fresh_tick h)

/-! ### The instructions -/

theorem freshOut_execStreamFault {s : State} (st : Nat) (h : Fresh s) : FreshOut (execStreamFault st s) := by
  unfold execStreamFault
  split
  · exact (freshOut_next _).2 h
  refine freshOut_ite ((freshOut_next _).2 h) ?_
  have hfetch := freshNext_fetch ‹Wale› h
  split
  · rename_i hstop
    rw [hstop] at hfetch
    exact hfetch
  · exact (freshOut_next _).2 h

theorem freshOut_exec {s : State} (i : Instr) (hs : Fresh s) : FreshOut (exec i s) := by
  cases i with
  | illegalWord | clmull | clmulh =>
    exact freshOut_illegalOp _ hs
  | addInt | subInt | mulInt | mulhi | mad | div | rem | absInt | negInt | minInt | maxInt | and | or | xor | not | shl | shr |
    sar | rot | popc | clz | brev | bfx | bfi | add64 | sub64 | mulw | cmpInt | pand | por | pxor | pnot | sel | mov |
    moviVector | movsv | xmov | xadd | xget | addFlt | subFlt | mulFlt | fma | minFlt | maxFlt | minnm | maxnm | absFlt |
    negFlt | cpysgn | cmpFlt | classFlt | rcp | sqrt | rsq | rint | fract | expins | expext | fexp2f | flog2f | cvt | pack2 |
    unpk2 | q4unpk | xchgBfly | shfl | bcast =>
    exact freshOut_vector _ _ hs
  | sadd | ssub | smul | sand | sor | sxor | sshl | sshr | smin | smax =>
    exact freshOut_scArith _ _ hs
  | ballot | vote =>
    exact freshOut_ballotLike _ _ hs
  | wand | wor =>
    exact freshOut_reduceInt _ _ _ hs
  | breakOp | cont =>
    exact freshOut_leave _ _ hs
  | jmp | jmpz | jmpnz =>
    exact freshOut_uniJump _ _ _ hs
  | tret | tretSkip =>
    exact freshOut_leaveHandler _ hs
  | tkclaim | symwalk | slewStart | slewQuery | ckpt =>
    exact freshOut_wvLong _ _ _ hs
  | atomAdd | atomMin | atomMax | atomAnd | atomOr | atomXor | atomXchg | atomCas | atomIncw | atomFaddb | atomFadd | atomFmax |
    redAdd | redFadd | redFmax =>
    exact freshOut_atomicOp _ _ _ _ hs
  | mma | mmaz =>
    exact freshOut_mmaIssue _ _ hs
  | forkM | forkC =>
    exact freshOut_fork _ _ _ hs
  | badd | bsub | bmul | bfma | bmin | bmax | brsq | bscl | bspl | biadd =>
    exact freshOut_bankLanes _ _ hs
  | ld | st | gather | scatter =>
    exact freshOut_near' _ _ hs
  | ldq | stq | gatherq | scatterq | pref =>
    exact freshOut_queued _ _ _ _ hs
  | intervalHeader hdr => exact freshOut_execIntervalHeader hdr hs
  | stagingGrant core pipe => exact freshOut_execStagingGrant core pipe hs
  | clauseHeader hdr => exact freshOut_execClauseHeader hdr hs
  | moviScalar g => exact freshOut_execMoviScalar g hs
  | movvs g => exact freshOut_execMovvs g hs
  | scmp g => exact freshOut_execScmp g hs
  | smov g => exact freshOut_execSmov g hs
  | srd g => exact freshOut_execSrd g hs
  | srds g => exact freshOut_execSrds g hs
  | exmrd g => exact freshOut_execExmrd g hs
  | exmwr g => exact freshOut_execExmwr g hs
  | tagset g => exact freshOut_execTagset g hs
  | tagget g => exact freshOut_execTagget g hs
  | q4pack g => exact freshOut_execQ4pack g hs
  | wsum g => exact freshOut_execWsum g hs
  | wmin g => exact freshOut_execWmin g hs
  | wmax g => exact freshOut_execWmax g hs
  | ifOp g => exact freshOut_execIfOp g hs
  | elseOp g => exact freshOut_execElseOp g hs
  | endif g => exact freshOut_execEndif g hs
  | loop g => exact freshOut_execLoop g hs
  | endloop g => exact freshOut_execEndloop g hs
  | call c => exact freshOut_execCall c hs
  | ret g => exact freshOut_execRet g hs
  | exit g => exact freshOut_execExit g hs
  | nop g => exact freshOut_execNop g hs
  | yield g => exact freshOut_execYield g hs
  | meld g => exact freshOut_execMeld g hs
  | endmeld g => exact freshOut_execEndmeld g hs
  | spawn f => exact freshOut_execSpawn f hs
  | rgrp f => exact freshOut_execRgrp f hs
  | rgrpForm wg => exact freshOut_execRgrpForm wg hs
  | trap g => exact freshOut_execTrap g hs
  | bkpt g => exact freshOut_execBkpt g hs
  | evpop f => exact freshOut_execEvpop f hs
  | layset f => exact freshOut_execLayset f hs
  | layget f => exact freshOut_execLayget f hs
  | queuedLoadComplete e m p => exact freshOut_execQueuedLoadComplete e m p hs
  | queuedStorePerformed e m p => exact freshOut_execQueuedStorePerformed e m p hs
  | prefAccepted e => exact freshOut_execPrefAccepted e hs
  | atomicPerform e => exact freshOut_execAtomicPerform e hs
  | fence f => exact freshOut_execFence f hs
  | qfence f => exact freshOut_execQfence f hs
  | lockq m => exact freshOut_execLockq m hs
  | unlockq m => exact freshOut_execUnlockq m hs
  | barSync f => exact freshOut_execBarSync f hs
  | barArrive f => exact freshOut_execBarArrive f hs
  | barWait f => exact freshOut_execBarWait f hs
  | barwArv m => exact freshOut_execBarwArv m hs
  | barwWait m => exact freshOut_execBarwWait m hs
  | mcommit face => exact freshOut_execMcommit face hs
  | mwait f => exact freshOut_execMwait f hs
  | mread f => exact freshOut_execMread f hs
  | mwrite f => exact freshOut_execMwrite f hs
  | mzero f => exact freshOut_execMzero f hs
  | mstore f => exact freshOut_execMstore f hs
  | stfold f => exact freshOut_execStfold f hs
  | arrayServe core => exact freshOut_execArrayServe core hs
  | mmaComplete core => exact freshOut_execMmaComplete core hs
  | matrixOpPerformed w => exact freshOut_execMatrixOpPerformed w hs
  | matrixOpAbandon w => exact freshOut_execMatrixOpAbandon w hs
  | foldLogAppend w => exact freshOut_execFoldLogAppend w hs
  | copySlice f => exact freshOut_execCopySlice f hs
  | cseal face => exact freshOut_execCseal face hs
  | cwait f => exact freshOut_execCwait f hs
  | copyStart wg cq => exact freshOut_execCopyStart wg cq hs
  | copyFinish wg cq => exact freshOut_execCopyFinish wg cq hs
  | copyAbandon wg cq => exact freshOut_execCopyAbandon wg cq hs
  | rdv face => exact freshOut_execRdv face hs
  | streamFault st => exact freshOut_execStreamFault st hs
  | bcall f => exact freshOut_execBcall f hs
  | bankCallStart w => exact freshOut_execBankCallStart w hs
  | bankInsnLimit b => exact freshOut_execBankInsnLimit b hs
  | bend => exact freshOut_execBend hs
  | bld d r => exact freshOut_execBld d r hs
  | bst a r => exact freshOut_execBst a r hs
  | bcvt d a b mode => exact freshOut_execBcvt d a b mode hs
  | bloop j => exact freshOut_execBloop j hs
  | bnext => exact freshOut_execBnext hs
  | bsig j => exact freshOut_execBsig j hs
  | trapEntry w => exact freshOut_execTrapEntry w hs
  | watchdog w => exact freshOut_execWatchdog w hs
  | waleEnd w => exact freshOut_execWaleEnd w hs
  | waleAged w => exact freshOut_execWaleAged w hs
  | fastFileParityError w r => exact freshOut_execFastFileParityError w r hs
  | translationWalkDone w => exact freshOut_execTranslationWalkDone w hs
  | engineTranslationFault a => exact freshOut_execEngineTranslationFault a hs
  | faultRetry v => exact freshOut_execFaultRetry v hs
  | faultRefuse v => exact freshOut_execFaultRefuse v hs
  | faultHead v => exact freshOut_execFaultHead v hs
  | faultQ v => exact freshOut_execFaultQ v hs
  | faultRecordWrite => exact freshOut_execFaultRecordWrite hs
  | uncorrectableError ctx strct core slot place => exact freshOut_execUncorrectableError ctx strct core slot place hs
  | scrubError strct pa => exact freshOut_execScrubError strct pa hs
  | submissionWrite off n data => exact freshOut_execSubmissionWrite off n data hs
  | launchRefuse core q => exact freshOut_execLaunchRefuse core q hs
  | launchStart core q => exact freshOut_execLaunchStart core q hs
  | coopLaunchPlace core q => exact freshOut_execCoopLaunchPlace core q hs
  | workgroupCreate core => exact freshOut_execWorkgroupCreate core hs
  | workgroupRetire core => exact freshOut_execWorkgroupRetire core hs
  | taskPop r => exact freshOut_execTaskPop r hs
  | joinDecrement core => exact freshOut_execJoinDecrement core hs
  | preempt v => exact freshOut_execPreempt v hs
  | resume v => exact freshOut_execResume v hs
  | workgroupDrainLimit q => exact freshOut_execWorkgroupDrainLimit q hs
  | copyDrainLimit wg cq => exact freshOut_execCopyDrainLimit wg cq hs
  | hardStopSave w => exact freshOut_execHardStopSave w hs
  | waleRestore core wg => exact freshOut_execWaleRestore core wg hs
  | waleRestoreReady w => exact freshOut_execWaleRestoreReady w hs
  | workgroupMigrate wg core => exact freshOut_execWorkgroupMigrate wg core hs
  | forwardingExpire k => exact freshOut_execForwardingExpire k hs
  | partWrite p w v => exact freshOut_execPartWrite p w v hs
  | cssplit d v => exact freshOut_execCssplit d v hs
  | wvreset v => exact freshOut_execWvreset v hs
  | ctxrec c v => exact freshOut_execCtxrec c v hs
  | tlbinv v => exact freshOut_execTlbinv v hs
  | invalidationDone => exact freshOut_execInvalidationDone hs
  | sparereq v => exact freshOut_execSparereq v hs
  | dbgStop v => exact freshOut_execDbgStop v hs
  | dbgDump v => exact freshOut_execDbgDump v hs
  | dbgResume v => exact freshOut_execDbgResume v hs
  | breakpointStop w => exact freshOut_execBreakpointStop w hs
  | registerWrite off v => exact freshOut_execRegisterWrite off v hs
  | hostBar4Write off data => exact freshOut_execHostBar4Write off data hs
  | hostBar4Read off n => exact freshOut_execHostBar4Read off n hs
  | peerAccess job va op => exact freshOut_execPeerAccess job va op hs
  | flitReceive port hdr data crcOk => exact freshOut_execFlitReceive port hdr data crcOk hs
  | nakReceive port seq => exact freshOut_execNakReceive port seq hs
  | linkDown port => exact freshOut_execLinkDown port hs
  | slewPlanComplete => exact freshOut_execSlewPlanComplete hs
  | slewTransferAck => exact freshOut_execSlewTransferAck hs
  | slewTransferFail unreachable => exact freshOut_execSlewTransferFail unreachable hs
  | slewCtxStopped => exact freshOut_execSlewCtxStopped hs
  | checkpointEnd => exact freshOut_execCheckpointEnd hs
  | checkpointTargetFail leaf => exact freshOut_execCheckpointTargetFail leaf hs
  | foldMerge ctx h => exact freshOut_execFoldMerge ctx h hs
  | imagePerform id => exact freshOut_execImagePerform id hs
  | psiakDropReport blk => exact freshOut_execPsiakDropReport blk hs
  | powerGood written levels sig => exact freshOut_execPowerGood written levels sig hs
  | bootOk v => exact freshOut_execBootOk v hs
  | bootOkTimeout => exact freshOut_execBootOkTimeout hs
  | fbclr v => exact freshOut_execFbclr v hs
  | thermalTrip => exact freshOut_execThermalTrip hs
  | attestationSign nonce => exact freshOut_execAttestationSign nonce hs
  | powerStateDescend d => exact freshOut_execPowerStateDescend d hs
  | dieWake d => exact freshOut_execDieWake d hs
  | powerLoss => exact freshOut_execPowerLoss
  | clusterCacheWriteBack cluster line => exact freshOut_execClusterCacheWriteBack cluster line hs
  | weaverOperationComplete core => exact freshOut_execWeaverOperationComplete core hs

/-- Settles O59: what the step takes up keeps serial numbers fresh, and so does the instruction that it runs. -/
theorem stepKeepsSerialsFresh : Obligations.StepKeepsSerialsFresh := by
  intro s t h hstep
  have hnext := freshNext_nextUp h
  unfold step at hstep
  split at hstep
  · rename_i hup
    rw [hup] at hnext
    exact hnext _ hstep
  · rename_i hup
    rw [hup] at hnext
    exact freshOut_exec _ hnext _ hstep

end Sys2Proof.Machine
end

section
/-!
PROOF. Words as rows of bit fields: what is laid out in a word is read back from it, and a word is its fields laid out.
-/
namespace Sys2Proof

/-- Values laid out side by side in fields of the given widths, the first in the highest bits. -/
def pack : List Nat → List Nat → Nat
  | _ :: ns, v :: vs => v * 2 ^ ns.sum + pack ns vs
  | _, _ => 0

/-- The fields of the given widths, read from the highest down to bit 0. -/
def unpack : List Nat → Nat → List Nat
  | [], _ => []
  | n :: ns, x => fld x ns.sum n :: unpack ns x

/-- Each value fits its field. -/
def Fits : List Nat → List Nat → Prop
  | n :: ns, v :: vs => v < 2 ^ n ∧ Fits ns vs
  | [], [] => True
  | _, _ => False

theorem fld_lt (x lo n : Nat) : fld x lo n < 2 ^ n := Nat.mod_lt _ (Nat.two_pow_pos n)

/-- A field of a field. -/
theorem fld_fld {x lo n a b : Nat} (h : a + b ≤ n) : fld (fld x lo n) a b = fld x (lo + a) b := by
  obtain ⟨m, rfl⟩ := Nat.exists_eq_add_of_le h
  rw [fld, fld, fld, Nat.add_assoc, Nat.pow_add 2 a, Nat.mod_mul_right_div_self, Nat.div_div_eq_div_mul, ← Nat.pow_add,
    Nat.mod_mod_of_dvd _ (Nat.pow_dvd_pow 2 (Nat.le_add_right b m))]

/-- Two adjacent fields as one. -/
theorem fld_append (x lo m n : Nat) : fld x lo (m + n) = fld x (lo + m) n * 2 ^ m + fld x lo m := by
  rw [fld, fld, fld, Nat.pow_add, Nat.mod_mul, Nat.div_div_eq_div_mul, ← Nat.pow_add, Nat.mul_comm (2 ^ m), Nat.add_comm]

/-- Two adjacent fields are zero together. -/
theorem fld_append_eq_zero {x lo m n : Nat} : fld x lo (m + n) = 0 ↔ fld x (lo + m) n = 0 ∧ fld x lo m = 0 := by
  simp [fld_append]

/-- What lies above a field does not show in it. -/
theorem fld_add_high {k lo n : Nat} (a x : Nat) (h : lo + n ≤ k) : fld (a * 2 ^ k + x) lo n = fld x lo n := by
  obtain ⟨m, rfl⟩ := Nat.exists_eq_add_of_le h
  have hk : a * 2 ^ (lo + n + m) = 2 ^ lo * (2 ^ n * (2 ^ m * a)) := by ring
  rw [fld, fld, hk, Nat.mul_add_div (Nat.two_pow_pos lo), Nat.mul_add_mod]

/-- A field above a number that does not reach it. -/
theorem fld_add_low {lo x : Nat} (a n : Nat) (h : x < 2 ^ lo) : fld (a * 2 ^ lo + x) lo n = a % 2 ^ n := by
  rw [fld, Nat.mul_comm, Nat.mul_add_div (Nat.two_pow_pos lo), Nat.div_eq_of_lt h, Nat.add_zero]

theorem pack_lt {ns vs : List Nat} (h : Fits ns vs) : pack ns vs < 2 ^ ns.sum := by
  induction ns generalizing vs with
  | nil => simp [pack]
  | cons n ns ih => cases vs with
    | nil => exact h.elim
    | cons v vs =>
      rw [pack, List.sum_cons, Nat.pow_add]
      calc v * 2 ^ ns.sum + pack ns vs < (v + 1) * 2 ^ ns.sum := by
            rw [Nat.add_mul, Nat.one_mul]; exact Nat.add_lt_add_left (ih h.2) _
        _ ≤ 2 ^ n * 2 ^ ns.sum := Nat.mul_le_mul_right _ h.1

/-- The fields below `k` of a number are read from its low bits. -/
theorem unpack_add_high {k : Nat} (a x : Nat) {ns : List Nat} (h : ns.sum ≤ k) : unpack ns (a * 2 ^ k + x) = unpack ns x := by
  induction ns with
  | nil => rfl
  | cons n ns ih =>
    rw [List.sum_cons] at h
    rw [unpack, unpack, fld_add_high a x (by omega), ih (by omega)]

/-- What is laid out is read back. -/
theorem unpack_pack {ns vs : List Nat} (h : Fits ns vs) : unpack ns (pack ns vs) = vs := by
  induction ns generalizing vs with
  | nil => cases vs with
    | nil => rfl
    | cons => exact h.elim
  | cons n ns ih => cases vs with
    | nil => exact h.elim
    | cons v vs =>
      rw [pack, unpack, fld_add_low _ _ (pack_lt h.2), unpack_add_high _ _ le_rfl, ih h.2, Nat.mod_eq_of_lt h.1]

/-- What is read fits its field. -/
theorem fits_unpack (ns : List Nat) (x : Nat) : Fits ns (unpack ns x) := by
  induction ns with
  | nil => trivial
  | cons n ns ih => exact ⟨fld_lt x ns.sum n, ih⟩

/-- A number is its fields laid out. -/
theorem pack_unpack (ns : List Nat) (x : Nat) : pack ns (unpack ns x) = x % 2 ^ ns.sum := by
  induction ns with
  | nil => simp [pack, Nat.mod_one]
  | cons n ns ih =>
    rw [unpack, pack, ih, List.sum_cons, fld, Nat.add_comm n, Nat.pow_add, Nat.mod_mul, Nat.mul_comm, Nat.add_comm]

/-- A word with the given values in its fields is those values laid out. -/
theorem ofNat_pack {m : Nat} {w : BitVec m} {ns vs : List Nat} (hs : ns.sum = m) (h : unpack ns w.toNat = vs) :
    BitVec.ofNat m (pack ns vs) = w := by
  rw [← h, pack_unpack, hs, Nat.mod_eq_of_lt w.isLt, BitVec.ofNat_toNat, BitVec.setWidth_eq]

/-- Values laid out in a word are read back from it. -/
theorem unpack_ofNat {m : Nat} {ns vs : List Nat} (hs : ns.sum = m) (h : Fits ns vs) :
    unpack ns (BitVec.ofNat m (pack ns vs)).toNat = vs := by
  rw [BitVec.toNat_ofNat, Nat.mod_eq_of_lt (hs ▸ pack_lt h), unpack_pack h]

end Sys2Proof
end

section
/-!
PROOF. Codes, operands and modifiers: each is read back from its field, and what is read lies in the form's ranges (R24, R65 to R67, R70, R71).
-/
namespace Sys2Proof

/-! ### Codes -/

@[simp] theorem Ty.ofCode_code (t : Ty) : Ty.ofCode t.code = t := by cases t <;> rfl
@[simp] theorem Face.ofCode_code (f : Face) : Face.ofCode f.code = f := by cases f <;> rfl
@[simp] theorem Scope.ofCode_code (s : Scope) : Scope.ofCode s.code = some s := by cases s <;> rfl
@[simp] theorem Acls.ofCode_code (a : Acls) : Acls.ofCode a.code = some a := by cases a <;> rfl
@[simp] theorem Ann.ofCode_code (a : Ann) : Ann.ofCode a.code = a := by cases a <;> rfl
@[simp] theorem RMode.ofCode_code (m : RMode) : RMode.ofCode m.code = some m := by cases m <;> rfl

@[simp] theorem Ty.code_lt (t : Ty) : t.code < 16 := by cases t <;> decide
@[simp] theorem Face.code_lt (f : Face) : f.code < 4 := by cases f <;> decide
@[simp] theorem Scope.code_lt (s : Scope) : s.code < 8 := by cases s <;> decide
@[simp] theorem Acls.code_lt (a : Acls) : a.code < 4 := by cases a <;> decide
@[simp] theorem Ann.code_lt (a : Ann) : a.code < 4 := by cases a <;> decide
@[simp] theorem RMode.code_lt (m : RMode) : m.code < 8 := by cases m <;> decide

theorem Ty.code_ofCode {n : Nat} (h : n < 16) : (Ty.ofCode n).code = n := by
  revert n; decide
theorem Face.code_ofCode {n : Nat} (h : n < 4) : (Face.ofCode n).code = n := by
  revert n; decide
theorem Ann.code_ofCode {n : Nat} (h : n < 4) : (Ann.ofCode n).code = n := by
  revert n; decide

theorem Scope.code_of_ofCode {n : Nat} {s : Scope} (h : Scope.ofCode n = some s) : s.code = n := by
  unfold Scope.ofCode at h
  split at h <;> cases h <;> rfl
theorem Acls.code_of_ofCode {n : Nat} {a : Acls} (h : Acls.ofCode n = some a) : a.code = n := by
  unfold Acls.ofCode at h
  split at h <;> cases h <;> rfl
theorem RMode.code_of_ofCode {n : Nat} {m : RMode} (h : RMode.ofCode n = some m) : m.code = n := by
  unfold RMode.ofCode at h
  split at h <;> cases h <;> rfl

@[simp] theorem Ty.code_ofCode_fld (x lo : Nat) : (Ty.ofCode (fld x lo 4)).code = fld x lo 4 := Ty.code_ofCode (fld_lt x lo 4)
@[simp] theorem Face.code_ofCode_fld (x lo : Nat) : (Face.ofCode (fld x lo 2)).code = fld x lo 2 :=
  Face.code_ofCode (fld_lt x lo 2)
@[simp] theorem Ann.code_ofCode_fld (x lo : Nat) : (Ann.ofCode (fld x lo 2)).code = fld x lo 2 := Ann.code_ofCode (fld_lt x lo 2)

@[simp] theorem Face.code_both : Face.both.code = 0 := rfl

/-- FACE 11 is the paired one, and no other (R70). -/
@[simp] theorem Face.code_eq_three {f : Face} : f.code = 3 ↔ f = .paired := by cases f <;> simp [Face.code]

@[simp] theorem Ann.code_eq_zero {a : Ann} : a.code = 0 ↔ a = .none := by cases a <;> simp [Ann.code]

theorem Face.ofCode_fld_eq_paired {x lo : Nat} : Face.ofCode (fld x lo 2) = .paired ↔ fld x lo 2 = 3 := by
  rw [← Face.code_eq_three, Face.code_ofCode_fld]

/-! ### Bits -/

@[simp] theorem bit_le_one (b : Bool) : bit b ≤ 1 := by cases b <;> decide

@[simp] theorem bit_beq_one (b : Bool) : (bit b == 1) = b := by cases b <;> rfl

@[simp] theorem bit_fld (x lo : Nat) : bit (fld x lo 1 == 1) = fld x lo 1 := by
  have h := fld_lt x lo 1
  obtain h0 | h1 : fld x lo 1 = 0 ∨ fld x lo 1 = 1 := by omega
  · rw [h0]; rfl
  · rw [h1]; rfl

/-- A bit that is not 1 is 0. -/
theorem fld_eq_zero_of_ne_one {x lo : Nat} (h : fld x lo 1 ≠ 1) : fld x lo 1 = 0 := by
  have := fld_lt x lo 1
  omega

/-- TYPE and FACE are zero together (R138). -/
theorem fld_type_face_eq_zero {x : Nat} : fld x 48 6 = 0 ↔ fld x 50 4 = 0 ∧ fld x 48 2 = 0 :=
  fld_append_eq_zero (m := 2) (n := 4)

/-- An 8-bit field names a register of 256. -/
@[simp] theorem fld_eight_lt (x lo : Nat) : fld x lo 8 < 256 := fld_lt x lo 8

/-- A 3-bit field names an accumulator tile of 8. -/
@[simp] theorem fld_three_lt (x lo : Nat) : fld x lo 3 < 8 := fld_lt x lo 3

/-- A 6-bit field names a scalar of 64. -/
@[simp] theorem fld_six_lt (x lo : Nat) : fld x lo 6 < 64 := fld_lt x lo 6

/-- A 10-bit field holds a layout handle. -/
@[simp] theorem fld_ten_lt (x lo : Nat) : fld x lo 10 < 1024 := fld_lt x lo 10

/-- A field of the width of a bit vector is its value. -/
@[simp] theorem toNat_ofNat_fld (x lo n : Nat) : (BitVec.ofNat n (fld x lo n)).toNat = fld x lo n := by
  rw [BitVec.toNat_ofNat, Nat.mod_eq_of_lt (fld_lt x lo n)]

/-! ### Literals, scalars and handles -/

@[simp] theorem encUni_ofKind (x lo v : Nat) : encUni (if fld x lo 1 = 1 then .sc v else .lit v) = (fld x lo 1, v) := by
  split
  · rename_i h; rw [h]; rfl
  · rename_i h; rw [fld_eq_zero_of_ne_one h]; rfl

@[simp] theorem ofKind_encUni (u : Uni) : (if (encUni u).1 = 1 then .sc (encUni u).2 else .lit (encUni u).2) = u := by
  cases u <;> rfl

theorem encUni_fst_le (u : Uni) : (encUni u).1 ≤ 1 := by cases u <;> simp [encUni]

/-- Kind bit and HANDLE field of a layout handle (R71). -/
def Handle.fields : Handle → Nat × Nat
  | .imm h => (0, h)
  | .sc n => (1, n)

theorem Handle.fields_fst_le (h : Handle) : h.fields.1 ≤ 1 := by cases h <;> simp [fields]

theorem Handle.fields_snd_lt {h : Handle} (hw : h.wf = true) : h.fields.2 < 1024 := by
  cases h <;> simp [Handle.wf, Handle.fields] at hw ⊢ <;> omega

/-- A handle field whose kind bit names a scalar leaves its upper 4 bits zero (R71, R195). -/
theorem handle_iff {x k lo : Nat} {h : Handle} :
    ((if fld x k 1 == 1 then .sc (fld x lo 6) else .imm (fld x lo 10)) = h ∧ (fld x k 1 = 1 → fld x (lo + 6) 4 = 0)) ↔
      h.wf = true ∧ fld x k 1 = h.fields.1 ∧ fld x lo 10 = h.fields.2 := by
  have hsplit := fld_append x lo 6 4
  have hlt := fld_lt x lo 6
  by_cases hk : fld x k 1 = 1
  · cases h <;> simp [hk, Handle.wf, Handle.fields]
    simp only [Nat.reduceAdd] at hsplit
    omega
  · cases h <;> simp [fld_eq_zero_of_ne_one hk, Handle.wf, Handle.fields]
    rintro rfl
    simp

/-! ### The operand fields of a general-form word (R64) -/

namespace Raw48
variable (x : Nat)

@[simp] theorem ofNat_ak : (ofNat x).ak = fld x 47 1 := (rfl)
@[simp] theorem ofNat_bk : (ofNat x).bk = fld x 46 1 := (rfl)
@[simp] theorem ofNat_ck : (ofNat x).ck = fld x 45 1 := (rfl)
@[simp] theorem ofNat_im : (ofNat x).im = fld x 44 1 := (rfl)
@[simp] theorem ofNat_d : (ofNat x).d = fld x 36 8 := (rfl)
@[simp] theorem ofNat_a : (ofNat x).a = fld x 28 8 := (rfl)
@[simp] theorem ofNat_b : (ofNat x).b = fld x 20 8 := (rfl)
@[simp] theorem ofNat_c : (ofNat x).c = fld x 12 8 := (rfl)
@[simp] theorem ofNat_ixe : (ofNat x).ixe = fld x 11 1 := (rfl)
@[simp] theorem ofNat_ixr : (ofNat x).ixr = fld x 8 3 := (rfl)
@[simp] theorem ofNat_ixo : (ofNat x).ixo = fld x 6 2 := (rfl)
@[simp] theorem ofNat_om : (ofNat x).om = fld x 0 6 := (rfl)

/-- No operand is indexed in a word whose IXE is 0 (R66). -/
theorem ixZero_ofNat {x : Nat} (h : fld x 11 1 = 0) : (ofNat x).ixZero = true ↔ fld x 8 3 = 0 ∧ fld x 6 2 = 0 := by
  simp [ixZero, h]

end Raw48

/-- The checks of R77 items 6 and 7 accept an instruction when both pass. -/
@[simp] theorem verdict_eq_ok {a b : Bool} {p : DecPriv} {i j : Instr} : verdict a b p i = .ok j ↔ a = true ∧ b = true ∧ i = j := by
  cases a <;> cases b <;> simp [verdict]

end Sys2Proof
end

section
/-!
PROOF. The operations whose word layout their entries give: each decoder accepts exactly the words of its form's well-formed
instructions (R73).
-/
namespace Sys2Proof

/-! ### Forms and their decoders -/

/-- A word stands with the pair-extension word that its FACE asks for (R58, R70). -/
def Joined (w : W64) (ext : Option W64) : Prop :=
  (fld w.toNat 48 2 = 3 ↔ ext.isSome = true) ∧ ∀ e ∈ ext, fld e.toNat 60 4 = 14

/-- The decoder of the operation `op` of class `cls` accepts the encodings of a form's well-formed instructions, and no other
words of that class and op. -/
structure Codec {α : Type} (cls op : Nat) (dec : Nat → Option Nat → Except DecErr Instr) (mk : α → Instr) (wf : α → Bool)
    (enc : α → List W64) : Prop where
  sound : ∀ {w : W64} {ext : Option W64} {i : Instr}, fld w.toNat 60 4 = cls → fld w.toNat 54 6 = op → Joined w ext →
    dec w.toNat (ext.map BitVec.toNat) = .ok i → ∃ a, i = mk a ∧ wf a = true ∧ enc a = w :: ext.toList
  complete : ∀ {w : W64} {r : List W64} {a : α}, wf a = true → enc a = w :: r →
    fld w.toNat 60 4 = cls ∧ fld w.toNat 54 6 = op ∧
      ∃ ext, r = ext.toList ∧ Joined w ext ∧ dec w.toNat (ext.map BitVec.toNat) = .ok (mk a)

/-- A form of one word, whose decoder reads no extension. -/
abbrev RowCodec {α : Type} (cls op : Nat) (dec : Nat → Except DecErr Instr) (mk : α → Instr) (wf : α → Bool)
    (enc : α → List W64) : Prop := Codec cls op (fun n _ => dec n) mk wf enc

/-- TYPE and FACE of a word, and 48 bits of operand fields from the highest down (R64). -/
structure Row where
  ty : Nat
  face : Face
  widths : List Nat
  vals : List Nat

/-- The row's fields stand in a word. -/
def Row.In (r : Row) (n : Nat) : Prop := fld n 50 4 = r.ty ∧ fld n 48 2 = r.face.code ∧ unpack r.widths n = r.vals

/-- The row fits a word that is not paired. -/
def Row.Ok (r : Row) : Prop := r.ty < 16 ∧ r.face ≠ .paired ∧ r.widths.sum = 48 ∧ Fits r.widths r.vals

/-- The word of a class, an op and a row. -/
def Row.word (r : Row) (cls op : Nat) : W64 :=
  BitVec.ofNat 64 (pack (4 :: 6 :: 4 :: 2 :: r.widths) (cls :: op :: r.ty :: r.face.code :: r.vals))

theorem Row.singleton_word {r : Row} {cls op x : Nat}
    (h : x = pack (4 :: 6 :: 4 :: 2 :: r.widths) (cls :: op :: r.ty :: r.face.code :: r.vals)) :
    [BitVec.ofNat 64 x] = [r.word cls op] := h ▸ rfl

theorem unpack_head {ns : List Nat} (hs : ns.sum = 48) (n : Nat) :
    unpack (4 :: 6 :: 4 :: 2 :: ns) n = fld n 60 4 :: fld n 54 6 :: fld n 50 4 :: fld n 48 2 :: unpack ns n := by
  simp [unpack, hs]

/-- A form whose words are rows: its decoder need only be compared with the fields. -/
theorem Codec.of_row {α : Type} {cls op : Nat} {dec : Nat → Except DecErr Instr} {mk : α → Instr} {wf : α → Bool}
    {enc : α → List W64} (row : α → Row) (hc : cls < 16) (ho : op < 64) (henc : ∀ a, enc a = [(row a).word cls op])
    (hok : ∀ a, wf a = true → (row a).Ok) (hdec : ∀ n i, dec n = .ok i ↔ ∃ a, mk a = i ∧ wf a = true ∧ (row a).In n) :
    RowCodec cls op dec mk wf enc := by
  constructor
  · intro w ext i hwc hwo hj hd
    obtain ⟨a, rfl, hwf, ht, hf, hv⟩ := (hdec _ _).1 hd
    obtain ⟨-, hface, hs, -⟩ := hok a hwf
    have hext : ext = none := by
      simpa using fun h => hface (Face.code_eq_three.1 (hf ▸ hj.1.2 h))
    refine ⟨a, rfl, hwf, ?_⟩
    rw [henc, hext, Row.word, ofNat_pack (by simp [hs]) (by rw [unpack_head hs, hwc, hwo, ht, hf, hv])]
    rfl
  · intro w r a hwf he
    obtain ⟨hty, hface, hs, hfit⟩ := hok a hwf
    rw [henc, List.cons.injEq] at he
    have hr := unpack_ofNat (m := 64) (by simp [hs]) (ns := 4 :: 6 :: 4 :: 2 :: (row a).widths)
      (vs := cls :: op :: (row a).ty :: (row a).face.code :: (row a).vals) ⟨hc, ho, hty, (row a).face.code_lt, hfit⟩
    rw [← Row.word, he.1, unpack_head hs] at hr
    simp only [List.cons.injEq] at hr
    obtain ⟨h1, h2, h3, h4, h5⟩ := hr
    refine ⟨h1, h2, none, he.2.symm, ⟨?_, by simp⟩, (hdec _ _).2 ⟨a, rfl, hwf, h3, h4, h5⟩⟩
    simpa [h4] using hface

/-- The fields of MMA and MMAZ (R188). -/
def MmaForm.fields (f : MmaForm) : Row :=
  ⟨f.ty.code, f.face, [3, 1, 1, 10, 10, 6, 6, 6, 5],
    [f.acc, bit f.mc, bit f.ch, f.ha, f.hb, f.sk, f.sm, f.sn, f.kc]⟩

theorem MmaForm.codec {op : Nat} (hop : op < 64) (mk : MmaForm → Instr) : RowCodec 10 op (decMma mk) mk wf (encMma op) := by
  refine Codec.of_row fields (by decide) hop (fun f => ?_) (fun f hf => ?_) fun n i => ?_
  · refine Row.singleton_word ?_
    simp only [encHead, fields, pack, List.sum_cons, List.sum_nil]
    omega
  · simp [wf] at hf
    simp [Row.Ok, fields, Fits, hf]
  · simp only [decMma, verdict_eq_ok]
    constructor
    · rintro ⟨hwf, -, rfl⟩
      exact ⟨_, rfl, hwf, by simp [Row.In, fields, unpack]⟩
    · rintro ⟨f, rfl, hf, h⟩
      simp [Row.In, fields, unpack] at h
      simp [h, hf]

/-- The fields of MREAD and MWRITE (R194). -/
def MrwForm.fields (f : MrwForm) : Row :=
  ⟨f.ty.code, f.face, [3, 1, 8, 8, 27, 1], [f.acc, (encUni f.row).1, f.d, (encUni f.row).2, 0, bit f.fsel]⟩

theorem MrwForm.codec {op : Nat} (hop : op < 64) (mk : MrwForm → Instr) : RowCodec 10 op (decMrw mk) mk wf (encMrw op) := by
  refine Codec.of_row fields (by decide) hop (fun f => ?_) (fun f hf => ?_) fun n i => ?_
  · refine Row.singleton_word ?_
    simp only [encHead, fields, pack, List.sum_cons, List.sum_nil]
    omega
  · simp [wf] at hf
    have hd : f.d < 256 := by split at hf <;> omega
    have hr : (encUni f.row).2 < 256 := by cases hr : f.row <;> simp [hr, Uni.wf, encUni] at hf ⊢ <;> omega
    simp [Row.Ok, fields, Fits, hf, hd, hr, encUni_fst_le]
  · simp only [decMrw, verdict_eq_ok]
    constructor
    · rintro ⟨hwf, -, rfl⟩
      simp at hwf
      exact ⟨_, rfl, by simp [hwf.1], by simp [Row.In, fields, unpack, hwf.2]⟩
    · rintro ⟨f, rfl, hf, h⟩
      simp [Row.In, fields, unpack] at h
      simp [h, hf]

/-- The fields of MZERO (R193). -/
def MzeroForm.fields (f : MzeroForm) : Row := ⟨f.ty.code, f.face, [3, 45], [f.acc, 0]⟩

theorem MzeroForm.codec : RowCodec 10 6 decMzero .mzero wf (fun f => (encOwn (.mzero f)).getD []) := by
  refine Codec.of_row fields (by decide) (by decide) (fun f => ?_) (fun f hf => ?_) fun n i => ?_
  · refine Row.singleton_word ?_
    simp only [encHead, fields, pack, List.sum_cons, List.sum_nil]
    omega
  · simp [wf] at hf
    simp [Row.Ok, fields, Fits, hf]
  · simp only [decMzero, verdict_eq_ok]
    constructor
    · rintro ⟨hwf, -, rfl⟩
      simp at hwf
      exact ⟨_, rfl, hwf.1, by simp [Row.In, fields, unpack, hwf.2]⟩
    · rintro ⟨f, rfl, hf, h⟩
      simp [Row.In, fields, unpack] at h
      simp [h, hf]

/-- The fields of SPAWN (R138, R154): OPMOD bit 5 and CK say that C names the frame operand. -/
def SpawnForm.fields (f : SpawnForm) : Row :=
  let q := bit f.c.isSome
  ⟨0, .both, [1, 1, 1, 1, 8, 8, 8, 8, 1, 3, 2, 1, 5], [1, 1, q, 0, f.d, f.a, f.b, f.c.getD 0, 0, 0, 0, q, 0]⟩

theorem SpawnForm.codec : RowCodec 6 0x11 decSpawn .spawn wf (fun f => (encOwn (.spawn f)).getD []) := by
  refine Codec.of_row fields (by decide) (by decide) (fun f => ?_) (fun f hf => ?_) fun n i => ?_
  · obtain ⟨d, a, b, _ | c⟩ := f
    all_goals
      refine Row.singleton_word ?_
      simp only [encHead, fields, pack, List.sum_cons, List.sum_nil, Option.isSome, Option.getD, bit, if_true, Bool.false_eq_true, if_false, Face.code_both]
      omega
  · obtain ⟨d, a, b, _ | c⟩ := f <;> simp [wf] at hf <;> simp [Row.Ok, fields, Fits, bit] <;> omega
  · simp only [decSpawn, verdict_eq_ok]
    constructor
    · rintro ⟨hwf, him, rfl⟩
      simp at hwf him
      simp [him, fld_fld, Raw48.ixZero_ofNat, fld_type_face_eq_zero] at hwf
      refine ⟨_, rfl, ?_⟩
      by_cases hq : fld n 5 1 = 1
      · simp [hq] at hwf
        simp [hq, hwf, him, fld_fld, Row.In, fields, unpack, wf, bit]
      · simp [hq] at hwf
        simp [hwf, him, fld_fld, Row.In, fields, unpack, wf, bit, fld_eq_zero_of_ne_one hq]
    · rintro ⟨⟨d, a, b, _ | c⟩, rfl, hf, h⟩ <;> simp [Row.In, fields, unpack, bit] at h <;> simp [wf] at hf <;>
        simp [h, hf, fld_fld, Raw48.ixZero, fld_type_face_eq_zero]

/-- The fields of RGRP (R138, R155). -/
def RgrpForm.fields (f : RgrpForm) : Row :=
  ⟨0, .both, [1, 1, 1, 1, 8, 8, 8, 8, 1, 3, 2, 6], [0, 0, 0, 0, 0, f.a, f.b, f.n, 0, 0, 0, 0]⟩

theorem RgrpForm.codec : RowCodec 6 0x12 decRgrp .rgrp wf (fun f => (encOwn (.rgrp f)).getD []) := by
  refine Codec.of_row fields (by decide) (by decide) (fun f => ?_) (fun f hf => ?_) fun n i => ?_
  · refine Row.singleton_word ?_
    simp only [encHead, fields, pack, List.sum_cons, List.sum_nil, Face.code_both]
    omega
  · simp [wf] at hf
    simp [Row.Ok, fields, Fits]
    omega
  · simp only [decRgrp, verdict_eq_ok]
    constructor
    · rintro ⟨hwf, him, rfl⟩
      simp at hwf him
      simp [him, Raw48.ixZero_ofNat, fld_type_face_eq_zero] at hwf
      refine ⟨_, rfl, ?_, ?_⟩
      · simp [wf, hwf]
      · simp [hwf, him, Row.In, fields, unpack]
    · rintro ⟨f, rfl, hf, h⟩
      simp [Row.In, fields, unpack] at h
      simp [wf] at hf
      simp [h, hf, Raw48.ixZero, fld_type_face_eq_zero]

/-- The fields of LAYSET and LAYGET (R164): an immediate handle, or a scalar in B. -/
def LayForm.fields (set : Bool) (f : LayForm) : Row :=
  let d := if set then 0 else f.v
  let a := if set then f.v else 0
  match f.handle with
  | .lit h => ⟨0, f.face, [1, 1, 1, 1, 8, 8, 28], [0, 0, 0, 1, d, a, h]⟩
  | .sc n => ⟨0, f.face, [1, 1, 1, 1, 8, 8, 8, 8, 1, 3, 2, 6], [0, 1, 0, 0, d, a, n, 0, 0, 0, 0, 0]⟩

theorem LayForm.codec (set : Bool) : RowCodec 7 (if set then 4 else 5) (decLay set) (if set then .layset else .layget) wf (encLay set) := by
  refine Codec.of_row (fields set) (by decide) (by cases set <;> decide) (fun f => ?_) (fun f hf => ?_) fun n i => ?_
  · obtain ⟨face, v, h | r⟩ := f <;> cases set
    all_goals
      refine Row.singleton_word ?_
      simp [encHead, fields, pack, List.sum_cons, List.sum_nil]
      omega
  · obtain ⟨face, v, h | r⟩ := f <;> cases set
    all_goals
      simp [wf, Uni.wf] at hf
      simp [Row.Ok, fields, Fits, hf]
      omega
  · simp only [decLay, verdict_eq_ok]
    constructor
    · cases set <;> rintro ⟨hwf, him, rfl⟩
      all_goals
        simp at hwf him
        refine ⟨_, rfl, ?_⟩
        by_cases hq : fld n 44 1 = 1
        · simp [hq] at hwf
          simp [Row.In, fields, unpack, wf, Uni.wf, hq, hwf, Nat.le_of_lt_succ]
        · have hix : fld n 11 1 = 0 := him.resolve_left hq
          simp [hq, Raw48.ixZero_ofNat hix] at hwf
          simp [Row.In, fields, unpack, wf, Uni.wf, hwf, hix, fld_eq_zero_of_ne_one hq]
    · rintro ⟨⟨face, v, h | r⟩, rfl, hf, h⟩ <;> cases set
      all_goals
        simp [Row.In, fields, unpack] at h
        simp [wf, Uni.wf] at hf
        simp [h, hf, Raw48.ixZero]
      all_goals omega

/-- The fields of FENCE (R173). -/
def FenceForm.fields (f : FenceForm) : Row :=
  ⟨0, f.face, [1, 1, 1, 1, 8, 8, 8, 8, 1, 3, 2, 3, 2, 1], [0, 0, 0, 0, 0, 0, 0, 0, 0, 0, 0, f.scope.code, f.ann.code, 0]⟩

theorem FenceForm.codec : RowCodec 9 0x10 decFence .fence (fun f => f.face != .paired && f.ann != .none)
    (fun f => (encOwn (.fence f)).getD []) := by
  refine Codec.of_row fields (by decide) (by decide) (fun f => ?_) (fun f hf => ?_) fun n i => ?_
  · refine Row.singleton_word ?_
    simp only [encHead, fields, pack, List.sum_cons, List.sum_nil]
    omega
  · simp at hf
    simp [Row.Ok, fields, Fits, hf]
  · simp only [decFence, verdict_eq_ok]
    constructor
    · rintro ⟨hwf, him, rfl⟩
      simp at hwf him
      simp [fenceFields] at hwf
      obtain ⟨⟨⟨him, hix⟩, hsc⟩, hann⟩ := him
      obtain ⟨sc, hs⟩ := Option.isSome_iff_exists.1 hsc
      simp [him, Raw48.ixZero_ofNat hix] at hwf
      refine ⟨_, rfl, ?_, ?_⟩
      · simp [hwf, ← Ann.code_eq_zero, hann]
      · simp [Row.In, fields, unpack, hwf, him, hix, hs, Scope.code_of_ofCode hs]
    · rintro ⟨f, rfl, hf, h⟩
      simp [Row.In, fields, unpack] at h
      simp [← Ann.code_eq_zero] at hf
      simp [fenceFields, Raw48.ixZero, h, hf]

/-- The fields of QFENCE (R174). -/
def QfenceForm.fields (f : QfenceForm) : Row :=
  ⟨0, f.face, [1, 1, 1, 1, 8, 8, 8, 8, 1, 3, 2, 3, 3], [0, 0, 0, 0, 0, 0, f.mask.toNat, 0, 0, 0, 0, f.scope.code, 0]⟩

theorem QfenceForm.codec : RowCodec 9 0x11 decQfence .qfence (fun f => f.face != .paired && f.mask != 0)
    (fun f => (encOwn (.qfence f)).getD []) := by
  refine Codec.of_row fields (by decide) (by decide) (fun f => ?_) (fun f hf => ?_) fun n i => ?_
  · refine Row.singleton_word ?_
    simp only [encHead, fields, pack, List.sum_cons, List.sum_nil]
    omega
  · simp at hf
    have := f.mask.isLt
    simp [Row.Ok, fields, Fits, hf]
    omega
  · simp only [decQfence, verdict_eq_ok]
    constructor
    · rintro ⟨hwf, him, rfl⟩
      simp at hwf him
      simp [fenceFields] at hwf
      obtain ⟨⟨him, hix⟩, hsc⟩ := him
      obtain ⟨sc, hs⟩ := Option.isSome_iff_exists.1 hsc
      simp [him, Raw48.ixZero_ofNat hix] at hwf
      have hm : fld n 20 8 % 32 = fld n 20 8 := Nat.mod_eq_of_lt (by omega)
      refine ⟨_, rfl, ?_, ?_⟩
      · simp [hwf, ← BitVec.toNat_inj, hm]
        omega
      · simp [Row.In, fields, unpack, hwf, him, hix, hs, hm, Scope.code_of_ofCode hs]
    · rintro ⟨f, rfl, hf, h⟩
      simp [Row.In, fields, unpack] at h
      simp [← BitVec.toNat_inj] at hf
      have := f.mask.isLt
      simp [fenceFields, Raw48.ixZero, h, hf]
      omega

/-- The fields of the barriers (R181): BAR.WAIT has no count. -/
def BarForm.fields (count : Bool) (f : BarForm) : Row :=
  let n := if count then encUni f.count else (0, 0)
  ⟨0, f.face, [1, 1, 1, 1, 8, 8, 8, 8, 1, 3, 2, 6], [0, n.1, 0, 0, 0, f.bar, n.2, 0, 0, 0, 0, 0]⟩

theorem BarForm.codec {op : Nat} (hop : op < 64) (count : Bool) (mk : BarForm → Instr) :
    RowCodec 9 op (decBar count mk) mk (wf count) (encBar op count) := by
  refine Codec.of_row (fields count) (by decide) hop (fun f => ?_) (fun f hf => ?_) fun n i => ?_
  · refine Row.singleton_word ?_
    simp only [encHead, fields, pack, List.sum_cons, List.sum_nil]
    omega
  · obtain ⟨face, bar, c | c⟩ := f <;> cases count <;> simp [wf, Uni.wf] at hf <;>
      simp [Row.Ok, fields, Fits, encUni, hf] <;> omega
  · simp only [decBar, verdict_eq_ok]
    constructor
    · rintro ⟨hwf, him, rfl⟩
      simp at hwf him
      simp [him, Raw48.ixZero_ofNat] at hwf
      refine ⟨_, rfl, ?_⟩
      cases count
      · simp at hwf
        simp [Row.In, fields, unpack, wf, hwf, him]
      · simp at hwf
        simp [Row.In, fields, unpack, wf, hwf, him]
    · rintro ⟨f, rfl, hf, h⟩
      simp [Row.In, fields, unpack] at h
      cases count
      · simp at h
        simp [wf] at hf
        obtain ⟨face, bar, c⟩ := f
        simp at hf
        simp [Raw48.ixZero, h, hf]
      · simp at h
        simp [wf] at hf
        simp [Raw48.ixZero, h, hf]

/-- The fields of MWAIT and CWAIT (R197, R205). -/
def WaitForm.fields (f : WaitForm) : Row := ⟨0, f.face, [3, 41, 4], [f.scope.code, 0, f.n]⟩

theorem WaitForm.codec {cls op : Nat} (hcls : cls < 16) (hop : op < 64) (mk : WaitForm → Instr) :
    RowCodec cls op (decWait mk) mk wf (encWait cls op) := by
  refine Codec.of_row fields hcls hop (fun f => ?_) (fun f hf => ?_) fun n i => ?_
  · refine Row.singleton_word ?_
    simp only [encHead, fields, pack, List.sum_cons, List.sum_nil]
    omega
  · simp [wf] at hf
    simp [Row.Ok, fields, Fits, hf]
    omega
  · simp only [decWait, verdict_eq_ok]
    constructor
    · rintro ⟨hwf, hsc, rfl⟩
      obtain ⟨sc, hs⟩ := Option.isSome_iff_exists.1 hsc
      simp at hwf
      exact ⟨_, rfl, by simp [wf, hwf], by simp [Row.In, fields, unpack, hwf, hs, Scope.code_of_ofCode hs]⟩
    · rintro ⟨f, rfl, hf, h⟩
      simp [Row.In, fields, unpack] at h
      simp [wf] at hf
      simp [h, hf]

/-- MCOMMIT, CSEAL and RDV have no fields but FACE (R197, R205, R207). -/
def Face.fields (f : Face) : Row := ⟨0, f, [48], [0]⟩

theorem Face.codec {cls op : Nat} (hcls : cls < 16) (hop : op < 64) (mk : Face → Instr) :
    RowCodec cls op (decBare mk) mk (fun f => f != .paired) (fun f => [BitVec.ofNat 64 (encHead cls op 0 f)]) := by
  refine Codec.of_row fields hcls hop (fun f => ?_) (fun f hf => ?_) fun n i => ?_
  · refine Row.singleton_word ?_
    simp only [encHead, fields, pack, List.sum_cons, List.sum_nil]
    omega
  · simp at hf
    simp [Row.Ok, fields, Fits, hf]
  · simp only [decBare, verdict_eq_ok]
    constructor
    · rintro ⟨hwf, -, rfl⟩
      simp at hwf
      exact ⟨_, rfl, by simp [hwf], by simp [Row.In, fields, unpack, hwf]⟩
    · rintro ⟨f, rfl, hf, h⟩
      simp [Row.In, fields, unpack] at h
      simp at hf
      simp [h, hf]

/-- The fields of FORK.M and FORK.C (R207). -/
def forkFields (p : Face × BitVec 28) : Row := ⟨0, p.1, [3, 1, 16, 28], [0, 1, 0, p.2.toNat]⟩

theorem codec_fork {op : Nat} (hop : op < 64) (mk : Face → BitVec 28 → Instr) :
    RowCodec 11 op (decFork mk) (fun p : Face × BitVec 28 => mk p.1 p.2) (fun p => p.1 != .paired)
      (fun p => [BitVec.ofNat 64 (encHead 11 op 0 p.1 + 2 ^ 44 + p.2.toNat)]) := by
  refine Codec.of_row forkFields (by decide) hop (fun f => ?_) (fun f hf => ?_) fun n i => ?_
  · refine Row.singleton_word ?_
    simp only [encHead, forkFields, pack, List.sum_cons, List.sum_nil]
    omega
  · simp at hf
    have := f.2.isLt
    simp [Row.Ok, forkFields, Fits, hf]
    omega
  · simp only [decFork, verdict_eq_ok]
    constructor
    · rintro ⟨hwf, him, rfl⟩
      simp at hwf him
      exact ⟨(Face.ofCode (fld n 48 2), BitVec.ofNat 28 (fld n 0 28)), rfl, by simp [hwf],
        by simp [Row.In, forkFields, unpack, hwf, him, -BitVec.toNat_ofNat]⟩
    · rintro ⟨⟨f, off⟩, rfl, hf, h⟩
      simp [Row.In, forkFields, unpack] at h
      simp at hf
      simp [h, hf]

/-! ### Handles of the matrix stores -/

theorem encHandle_eq (h : Handle) : encHandle h = h.fields.1 * 2 ^ 44 + h.fields.2 * 2 ^ 34 := by
  cases h <;> simp [encHandle, Handle.fields]

theorem decHandle_ok_iff {x : Nat} {h : Handle} : decHandle x = (h, true) ↔
    h.wf = true ∧ fld x 44 1 = h.fields.1 ∧ fld x 34 10 = h.fields.2 := by
  rw [← handle_iff, decHandle]
  by_cases hk : fld x 44 1 = 1 <;> simp [hk]

/-- The fields of MSTORE (R195). -/
def MstoreForm.fields (f : MstoreForm) : Row :=
  ⟨0, f.face, [3, 1, 10, 6, 6, 3, 1, 18],
    [f.acc, f.handle.fields.1, f.handle.fields.2, f.sc0, f.sc1, f.rm.code, bit f.nosat, 0]⟩

theorem MstoreForm.codec : RowCodec 10 7 decMstore .mstore wf (fun f => (encOwn (.mstore f)).getD []) := by
  refine Codec.of_row fields (by decide) (by decide) (fun f => ?_) (fun f hf => ?_) fun n i => ?_
  · refine Row.singleton_word ?_
    simp only [encHead, encHandle_eq, fields, pack, List.sum_cons, List.sum_nil]
    omega
  · simp [wf] at hf
    simp [Row.Ok, fields, Fits, hf, Handle.fields_fst_le, Handle.fields_snd_lt]
  · simp only [decMstore, verdict_eq_ok]
    constructor
    · rintro ⟨hwf, hrm, rfl⟩
      simp at hwf hrm
      obtain ⟨⟨⟨hty, hface⟩, hh⟩, hz⟩ := hwf
      obtain ⟨mode, hr⟩ := Option.isSome_iff_exists.1 hrm.1
      obtain ⟨hhw, hk, hn⟩ := decHandle_ok_iff.1 (Prod.ext rfl hh : decHandle n = ((decHandle n).1, true))
      refine ⟨_, rfl, ?_, ?_⟩
      · simpa [wf, hface, hhw, hr] using hrm.2
      · simp [Row.In, fields, unpack, hty, hz, ← hk, ← hn, hr, RMode.code_of_ofCode hr]
    · rintro ⟨f, rfl, hf, h⟩
      simp [Row.In, fields, unpack] at h
      simp [wf] at hf
      have hh : decHandle n = (f.handle, true) := decHandle_ok_iff.2 (by simp [hf, h])
      simp [h, hf, hh]

/-- The fields of STFOLD (R196). -/
def StfoldForm.fields (f : StfoldForm) : Row :=
  ⟨0, f.face, [3, 1, 10, 6, 6, 6, 16], [f.acc, f.handle.fields.1, f.handle.fields.2, f.sc0, f.sc1, f.sb, 0]⟩

theorem StfoldForm.codec : RowCodec 10 8 decStfold .stfold wf (fun f => (encOwn (.stfold f)).getD []) := by
  refine Codec.of_row fields (by decide) (by decide) (fun f => ?_) (fun f hf => ?_) fun n i => ?_
  · refine Row.singleton_word ?_
    simp only [encHead, encHandle_eq, fields, pack, List.sum_cons, List.sum_nil]
    omega
  · simp [wf] at hf
    simp [Row.Ok, fields, Fits, hf, Handle.fields_fst_le, Handle.fields_snd_lt]
  · simp only [decStfold, verdict_eq_ok]
    constructor
    · rintro ⟨hwf, -, rfl⟩
      simp at hwf
      obtain ⟨⟨⟨hty, hface⟩, hh⟩, hz⟩ := hwf
      obtain ⟨hhw, hk, hn⟩ := decHandle_ok_iff.1 (Prod.ext rfl hh : decHandle n = ((decHandle n).1, true))
      exact ⟨_, rfl, by simp [wf, hface, hhw], by simp [Row.In, fields, unpack, hty, hz, ← hk, ← hn]⟩
    · rintro ⟨f, rfl, hf, h⟩
      simp [Row.In, fields, unpack] at h
      simp [wf] at hf
      have hh : decHandle n = (f.handle, true) := decHandle_ok_iff.2 (by simp [hf, h])
      simp [h, hf, hh]

/-- The fields of COPY.SLICE (R201): bit 13 is 1 for a literal slice index. -/
def CopyForm.fields (f : CopyForm) : Row :=
  ⟨0, f.face, [2, 10, 10, 6, 6, 1, 6, 4, 3], [f.cq, f.hd, f.hs, f.sd, f.ss, 1 - (encUni f.i).1, (encUni f.i).2, f.nm1, 0]⟩

theorem CopyForm.codec : RowCodec 11 0 decCopy .copySlice wf (fun f => (encOwn (.copySlice f)).getD []) := by
  refine Codec.of_row fields (by decide) (by decide) (fun f => ?_) (fun f hf => ?_) fun n i => ?_
  · refine Row.singleton_word ?_
    simp only [encHead, fields, pack, List.sum_cons, List.sum_nil]
    omega
  · obtain ⟨face, cq, hd, hs, sd, ss, j | j, nm1⟩ := f
    all_goals
      simp [wf, Uni.wf] at hf
      simp [Row.Ok, fields, Fits, encUni, hf]
    omega
  · simp only [decCopy, verdict_eq_ok]
    constructor
    · rintro ⟨hwf, -, rfl⟩
      simp at hwf
      refine ⟨_, rfl, by simp [hwf], ?_⟩
      by_cases hq : fld n 13 1 = 1
      · simp [Row.In, fields, unpack, hwf, hq, encUni]
      · simp [Row.In, fields, unpack, hwf, encUni, fld_eq_zero_of_ne_one hq]
    · rintro ⟨⟨face, cq, hd, hs, sd, ss, j | j, nm1⟩, rfl, hf, h⟩
      all_goals
        simp [Row.In, fields, unpack, encUni] at h
        simp [h, hf]

/-- The fields of BCALL (R209). -/
def BcallForm.fields (f : BcallForm) : Row :=
  ⟨0, f.face, [4, 10, 6, 6, 6, 15, 1], [0, f.handle, f.sc, f.sp, f.sa, 0, bit f.fsel]⟩

theorem BcallForm.codec : RowCodec 11 6 decBcall .bcall wf (fun f => (encOwn (.bcall f)).getD []) := by
  refine Codec.of_row fields (by decide) (by decide) (fun f => ?_) (fun f hf => ?_) fun n i => ?_
  · refine Row.singleton_word ?_
    simp only [encHead, fields, pack, List.sum_cons, List.sum_nil]
    omega
  · simp [wf] at hf
    simp [Row.Ok, fields, Fits, hf]
    omega
  · simp only [decBcall, verdict_eq_ok]
    constructor
    · rintro ⟨hwf, -, rfl⟩
      simp at hwf
      exact ⟨_, rfl, by simp [hwf], by simp [Row.In, fields, unpack, hwf]⟩
    · rintro ⟨f, rfl, hf, h⟩
      simp [Row.In, fields, unpack] at h
      simp [h, hf]

/-- The fields of a weaver operation (R158), with `na` source scalars. -/
def WvForm.fields (na : Nat) (f : WvForm) : Row :=
  ⟨0, f.face, [1, 1, 1, 1, 8, 8, 8, 8, 1, 3, 2, 1, 5],
    [if na = 0 then 0 else 1, 0, 0, 0, f.d, f.a, f.b, 0, 0, 0, 0, bit f.fsel, 0]⟩

/-- No weaver operation has a face pair (R158). -/
theorem WvForm.face_ne_paired {nd na : Nat} {lit flag faced : Bool} {f : WvForm} (h : f.wf nd na lit flag faced = true) :
    f.face ≠ .paired := by
  cases faced <;> simp [wf] at h
  · simp [h]
  · simp [h]

theorem WvForm.codec {op : Nat} (hop : op < 64) {nd na : Nat} {lit flag faced : Bool} (mk : WvForm → Instr) :
    RowCodec 12 op (decWv nd na lit flag faced mk) mk (wf nd na lit flag faced) (encWv op na) := by
  refine Codec.of_row (fields na) (by decide) hop (fun f => ?_) (fun f hf => ?_) fun n i => ?_
  · refine Row.singleton_word ?_
    simp only [encHead, fields, pack, List.sum_cons, List.sum_nil]
    split <;> omega
  · refine ⟨Nat.succ_pos 15, face_ne_paired hf, rfl, ?_⟩
    have hb : f.b < 256 := by cases lit <;> simp [wf] at hf <;> omega
    simp [wf] at hf
    have ha : (if na = 0 then 0 else 1) ≤ 1 := by split <;> decide
    simp [fields, Fits, hb, ha]
    omega
  · simp only [decWv, verdict_eq_ok]
    constructor
    · rintro ⟨hwf, him, rfl⟩
      simp at hwf him
      simp [him, Raw48.ixZero_ofNat, fld_fld] at hwf
      exact ⟨_, rfl, by simp [hwf, fld_fld], by simp [Row.In, fields, unpack, hwf, him, fld_fld]⟩
    · rintro ⟨f, rfl, hf, h⟩
      simp [Row.In, fields, unpack] at h
      simp [h, hf, fld_fld, Raw48.ixZero_ofNat]

end Sys2Proof
end

section
/-!
PROOF. Operations that may have two faces: CALL and the memory form (R70, R71, R138, R163).
-/
namespace Sys2Proof

/-! ### Words with 48 operand bits taken as one number -/

/-- A head and operand bits with the fields of a word are the word. -/
theorem ofNat_head {w : W64} {cls op t : Nat} {f : Face} (hc : fld w.toNat 60 4 = cls) (ho : fld w.toNat 54 6 = op)
    (ht : fld w.toNat 50 4 = t) (hf : fld w.toNat 48 2 = f.code) :
    BitVec.ofNat 64 (encHead cls op t f + fld w.toNat 0 48) = w := by
  refine Eq.trans (congrArg _ ?_) (ofNat_pack (ns := [4, 6, 4, 2, 48]) (vs := [cls, op, t, f.code, fld w.toNat 0 48]) rfl ?_)
  · simp only [encHead, pack, List.sum_cons, List.sum_nil]
    omega
  · simp [unpack, hc, ho, ht, hf]

/-- The fields of a head and operand bits. -/
theorem fld_head {cls op t x : Nat} (f : Face) (hc : cls < 16) (ho : op < 64) (ht : t < 16) (hx : x < 2 ^ 48) :
    let n := (BitVec.ofNat 64 (encHead cls op t f + x)).toNat
    fld n 60 4 = cls ∧ fld n 54 6 = op ∧ fld n 50 4 = t ∧ fld n 48 2 = f.code ∧ fld n 0 48 = x := by
  have h := unpack_ofNat (m := 64) (ns := [4, 6, 4, 2, 48]) (vs := [cls, op, t, f.code, x]) rfl ⟨hc, ho, ht, f.code_lt, hx, trivial⟩
  have he : encHead cls op t f + x = pack [4, 6, 4, 2, 48] [cls, op, t, f.code, x] := by
    simp only [encHead, pack, List.sum_cons, List.sum_nil]
    omega
  rw [← he] at h
  simpa [unpack] using h

/-- The pair-extension word of the operand bits of one (R70). -/
theorem encExt_fld {e : W64} (hc : fld e.toNat 60 4 = 14) (hz : fld e.toNat 48 12 = 0) : encExt (fld e.toNat 0 48) = e := by
  refine Eq.trans (congrArg _ ?_) (ofNat_pack (ns := [4, 12, 48]) (vs := [14, 0, fld e.toNat 0 48]) rfl ?_)
  · simp [pack]
  · simp [unpack, hc, hz]

/-- The fields of a pair-extension word (R70). -/
theorem fld_encExt {x : Nat} (hx : x < 2 ^ 48) :
    fld (encExt x).toNat 60 4 = 14 ∧ fld (encExt x).toNat 48 12 = 0 ∧ fld (encExt x).toNat 0 48 = x := by
  have h := unpack_ofNat (m := 64) (ns := [4, 12, 48]) (vs := [14, 0, x]) rfl ⟨by decide, by decide, hx, trivial⟩
  have he : encExt x = BitVec.ofNat 64 (pack [4, 12, 48] [14, 0, x]) := congrArg _ (by simp [pack])
  rw [← he] at h
  simpa [unpack] using h

/-- One face's 48 operand bits: the decoder's operand set and verdicts agree with the encoder. -/
structure FaceCodec {β : Type} (dec : Nat → β × Bool × Bool) (wf : β → Bool) (enc : β → Nat) : Prop where
  sound : ∀ {x : Nat}, x < 2 ^ 48 → (dec x).2.1 = true → (dec x).2.2 = true → wf (dec x).1 = true ∧ enc (dec x).1 = x
  complete : ∀ {b : β}, wf b = true → enc b < 2 ^ 48 ∧ dec (enc b) = (b, true, true)

/-- The words of one or two faces. -/
def faceWords {β : Type} (cls op t : Nat) (f : Face) (enc : β → Nat) (a : β) (b : Option β) : List W64 :=
  BitVec.ofNat 64 (encHead cls op t f + enc a) :: (b.map fun x => encExt (enc x)).toList

/-- A word and its extension decode to the two faces that they encode. -/
theorem FaceCodec.complete_words {β : Type} {dec : Nat → β × Bool × Bool} {wf : β → Bool} {enc : β → Nat} (h : FaceCodec dec wf enc)
    {cls op t : Nat} {f : Face} {a : β} {b : Option β} {w : W64} {r : List W64} (hc : cls < 16) (ho : op < 64) (ht : t < 16)
    (ha : wf a = true) (hb : ∀ x ∈ b, wf x = true) (hf : f = .paired ↔ b.isSome = true)
    (he : faceWords cls op t f enc a b = w :: r) :
    fld w.toNat 60 4 = cls ∧ fld w.toNat 54 6 = op ∧ fld w.toNat 50 4 = t ∧ fld w.toNat 48 2 = f.code ∧
      dec (fld w.toNat 0 48) = (a, true, true) ∧ ∃ ext, r = ext.toList ∧ Joined w ext ∧
      ((ext = none ∧ b = none) ∨
        ∃ e x, ext = some e ∧ b = some x ∧ fld e.toNat 48 12 = 0 ∧ dec (fld e.toNat 0 48) = (x, true, true)) := by
  obtain ⟨hlt, hd⟩ := h.complete ha
  rw [faceWords, List.cons.injEq] at he
  obtain ⟨rfl, rfl⟩ := he
  obtain ⟨h1, h2, h3, h4, h5⟩ := fld_head f hc ho ht hlt
  refine ⟨h1, h2, h3, h4, by rw [h5, hd], _, rfl, ⟨?_, ?_⟩, ?_⟩
  · rw [h4, Face.code_eq_three, hf, Option.isSome_map]
  · simp only [Option.mem_map]
    rintro _ ⟨x, hx, rfl⟩
    exact (fld_encExt (h.complete (hb x hx)).1).1
  · cases b with
    | none => exact .inl ⟨rfl, rfl⟩
    | some x =>
      obtain ⟨hxl, hxd⟩ := h.complete (hb x rfl)
      obtain ⟨-, h6, h7⟩ := fld_encExt hxl
      exact .inr ⟨_, x, rfl, rfl, h6, by rw [h7, hxd]⟩

/-- The faces that a word and its extension decode to encode to them. -/
theorem FaceCodec.sound_words {β : Type} {dec : Nat → β × Bool × Bool} {wf : β → Bool} {enc : β → Nat} (h : FaceCodec dec wf enc)
    {cls op t : Nat} {f : Face} {w : W64} {ext : Option W64} (hc : fld w.toNat 60 4 = cls) (ho : fld w.toNat 54 6 = op)
    (ht : fld w.toNat 50 4 = t) (hf : fld w.toNat 48 2 = f.code) (hj : Joined w ext) (ha : (dec (fld w.toNat 0 48)).2 = (true, true))
    (hb : ∀ e ∈ ext, fld e.toNat 48 12 = 0 ∧ (dec (fld e.toNat 0 48)).2 = (true, true)) :
    faceWords cls op t f enc (dec (fld w.toNat 0 48)).1 (ext.map fun e => (dec (fld e.toNat 0 48)).1) = w :: ext.toList ∧
      wf (dec (fld w.toNat 0 48)).1 = true ∧ ∀ e ∈ ext, wf (dec (fld e.toNat 0 48)).1 = true := by
  have hs (x : Nat) (hx : (dec (fld x 0 48)).2 = (true, true)) :=
    h.sound (fld_lt x 0 48) (congrArg Prod.fst hx) (congrArg Prod.snd hx)
  obtain ⟨hwa, hea⟩ := hs _ ha
  refine ⟨?_, hwa, fun e he => (hs _ (hb e he).2).1⟩
  rw [faceWords, hea, ofNat_head hc ho ht hf]
  cases ext with
  | none => rfl
  | some e =>
    obtain ⟨hz, he⟩ := hb e rfl
    simp [(hs _ he).2, encExt_fld (hj.2 e rfl) hz]

/-! ### CALL (R138, R145) -/

theorem CallFace.codec {n : Nat} : FaceCodec (decCallFace n) (wf n) encCallFace where
  sound {x} hx hf hm := by
    have hp := pack_unpack [3, 1, 8, 8, 28] x
    simp [decCallFace] at hf hm
    simp [unpack, pack, hf, hm] at hp
    refine ⟨by simpa [decCallFace] using hf.1.2, ?_⟩
    simp [encCallFace, decCallFace, -BitVec.toNat_ofNat]
    omega
  complete {f} hf := by
    have hlt := f.off.isLt
    simp [wf] at hf
    have hfit : Fits [3, 1, 8, 8, 28] [0, 1, f.d, f.a, f.off.toNat] := by
      simp [Fits, hf]
      omega
    have he : encCallFace f = pack [3, 1, 8, 8, 28] [0, 1, f.d, f.a, f.off.toNat] := by
      simp [encCallFace, pack]
      omega
    have hu := unpack_pack hfit
    rw [← he] at hu
    simp [unpack] at hu
    exact ⟨he ▸ pack_lt hfit, by simp [decCallFace, hu, wf, hf]⟩

theorem encOwn_call (c : CallForm) : (encOwn (.call c)).getD [] = faceWords 6 0xA c.n c.face encCallFace c.fa c.fb := by
  cases h : c.fb <;> simp [encOwn, faceWords, h]

theorem CallForm.codec : Codec 6 0xA decCall .call wf (fun c => (encOwn (.call c)).getD []) where
  sound {w ext i} hc ho hj h := by
    cases ext with
    | none =>
      obtain ⟨hf, hm, rfl⟩ := verdict_eq_ok.1 h
      simp at hf
      have := CallFace.codec.sound_words hc ho rfl (Face.code_ofCode_fld _ _).symm hj (Prod.ext hf.2 hm) (by simp)
      refine ⟨_, rfl, ?_, (encOwn_call _).trans this.1⟩
      have hj := hj.1
      simp [wf, hf.1, this.2.1, Face.ofCode_fld_eq_paired] at hj ⊢
      exact hj
    | some e =>
      obtain ⟨hf, hm, rfl⟩ := verdict_eq_ok.1 h
      simp at hf hm
      have := CallFace.codec.sound_words hc ho rfl (Face.code_ofCode_fld _ _).symm hj (Prod.ext hf.1.1.1.2 hm.1)
        (by simpa using ⟨hf.1.2, Prod.ext hf.1.1.2 hm.2⟩)
      refine ⟨_, rfl, ?_, (encOwn_call _).trans this.1⟩
      simp [wf, hf.1.1.1.1, this.2.1, this.2.2 e rfl, Face.ofCode_fld_eq_paired, hj.1, hf.2]
  complete {w r c} hwf he := by
    rw [encOwn_call] at he
    obtain ⟨n, face, fa, fb⟩ := c
    simp [wf] at hwf
    obtain ⟨⟨hn, ha⟩, hb⟩ := hwf
    have hface : face = .paired ↔ fb.isSome = true := by cases fb <;> simp at hb ⊢ <;> simp [hb]
    have hwb : ∀ x ∈ fb, CallFace.wf n x = true := by cases fb <;> simp at hb ⊢; simp [hb]
    obtain ⟨h1, h2, h3, h4, h5, ext, hr, hj, hx⟩ := CallFace.codec.complete_words (by decide) (by decide)
      (Nat.lt_of_le_of_lt hn (by decide)) ha hwb hface he
    refine ⟨h1, h2, ext, hr, hj, ?_⟩
    rcases hx with ⟨rfl, rfl⟩ | ⟨e, x, rfl, rfl, h6, h7⟩
    · simp [decCall, h3, h4, h5, hn]
    · simp at hb
      obtain ⟨⟨rfl, -⟩, hcl⟩ := hb
      simp [decCall, h3, h4, h5, h6, h7, hn, hcl]

/-! ### The memory form (R71, R163) -/

/-- The checks of one face that R77 ranks as ILLEGAL_FIELD. -/
def MFace.fits (sp : MSpec) (f : MFace) : Bool := f.wf && mFieldsOk sp f

/-- The fields of one face in a word (R71). -/
def MFace.vals (f : MFace) : List Nat :=
  [f.scope.code, f.handle.fields.1, f.d, f.a, f.b, f.handle.fields.2, f.ckind.toNat, bit f.fsel, bit f.rsp, f.opx.toNat]

theorem encMFace_eq (f : MFace) : encMFace f = pack [3, 1, 8, 8, 6, 10, 6, 1, 1, 4] f.vals := by
  obtain ⟨scope, h | h, d, a, b, ckind, fsel, rsp, opx⟩ := f
  all_goals
    simp only [encMFace, MFace.vals, Handle.fields, pack, List.sum_cons, List.sum_nil]
    omega

theorem MFace.codec (sp : MSpec) : FaceCodec (decMFace sp) (fits sp) encMFace where
  sound {x} hx hf hm := by
    obtain ⟨sc, hs⟩ := Option.isSome_iff_exists.1 (hm : (Scope.ofCode (fld x 45 3)).isSome = true)
    obtain ⟨hok, hz⟩ := Bool.and_eq_true_iff.1 hf
    obtain ⟨hhw, hk, hn⟩ := handle_iff.1 ⟨(rfl : _ = (decMFace sp x).1.handle), fun h1 => by simpa [h1] using hz⟩
    refine ⟨?_, ?_⟩
    · have hw : (decMFace sp x).1.wf = true := by simp [MFace.wf, hhw]; simp [decMFace]
      rw [fits, hw]
      exact hok
    · have hv : unpack [3, 1, 8, 8, 6, 10, 6, 1, 1, 4] x = (decMFace sp x).1.vals := by
        simp only [vals, ← hk, ← hn]
        simp [unpack, decMFace, hs, Scope.code_of_ofCode hs, -BitVec.toNat_ofNat]
      rw [encMFace_eq, ← hv, pack_unpack]
      exact Nat.mod_eq_of_lt hx
  complete {f} hf := by
    simp [fits, wf] at hf
    obtain ⟨⟨⟨⟨hh, hd⟩, ha⟩, hb⟩, hok⟩ := hf
    have hck := f.ckind.isLt
    have hopx := f.opx.isLt
    have hfit : Fits [3, 1, 8, 8, 6, 10, 6, 1, 1, 4] f.vals := by
      simp [Fits, vals, hd, ha, hb, Handle.fields_fst_le, Handle.fields_snd_lt hh]
      omega
    have hu := unpack_pack hfit
    rw [← encMFace_eq] at hu
    simp [unpack, vals] at hu
    obtain ⟨h1, h2, h3, h4, h5, h6, h7, h8, h9, h10⟩ := hu
    obtain ⟨hhd, hz⟩ := handle_iff.2 ⟨hh, h2, h6⟩
    have hz' : (fld (encMFace f) 44 1 == 0 || fld (encMFace f) 18 4 == 0) = true := by
      rw [Bool.or_eq_true, beq_iff_eq, beq_iff_eq]
      exact (em _).elim (fun h => .inr (hz h)) fun h => .inl (fld_eq_zero_of_ne_one h)
    refine ⟨encMFace_eq f ▸ pack_lt hfit, ?_⟩
    simp only [decMFace, hhd, hz', h1, h3, h4, h5, h7, h8, h9, h10]
    simp [hok]

theorem encM_eq (cls op : Nat) (m : MForm) :
    encM cls op m = faceWords cls op (4 * m.acls.code + m.ann.code) m.face encMFace m.fa m.fb := by
  cases h : m.fb <;> simp [encM, faceWords, h]

/-- Access class and annotation stand in the place of TYPE (R71). -/
theorem fld_acls_ann (x : Nat) : fld x 50 4 = 4 * fld x 52 2 + fld x 50 2 :=
  (fld_append x 50 2 2).trans (congrArg (· + fld x 50 2) (Nat.mul_comm ..))

theorem fld_acls_ann_eq {x : Nat} {a : Acls} {n : Ann} (h : fld x 50 4 = 4 * a.code + n.code) :
    fld x 52 2 = a.code ∧ fld x 50 2 = n.code := by
  have h1 := fld_lt x 50 2
  have h2 := n.code_lt
  rw [fld_acls_ann] at h
  omega

theorem MForm.codec {cls op : Nat} (hcls : cls < 16) (hop : op < 64) (sp : MSpec) (mk : MForm → Instr) :
    Codec cls op (decM sp mk) mk (wf sp) (encM cls op) where
  sound {w ext i} hc ho hj h := by
    cases ext with
    | none =>
      obtain ⟨hf, hm, rfl⟩ := verdict_eq_ok.1 h
      simp at hf hm
      obtain ⟨hac, hsc, hmod⟩ := hm
      obtain ⟨ac, ha⟩ := Option.isSome_iff_exists.1 hac
      have hs := (MFace.codec sp).sound_words (t := 4 * ac.code + (Ann.ofCode (fld w.toNat 50 2)).code) hc ho
        (by rw [Acls.code_of_ofCode ha, Ann.code_ofCode_fld, fld_acls_ann]) (Face.code_ofCode_fld _ _).symm hj
        (Prod.ext hf.1 hsc) (by simp)
      refine ⟨_, rfl, ?_, (encM_eq ..).trans (by simpa [ha] using hs.1)⟩
      simpa [wf, hmod, hf.2, MFace.fits] using hs.2.1
    | some e =>
      obtain ⟨hf, hm, rfl⟩ := verdict_eq_ok.1 h
      simp at hf hm
      obtain ⟨⟨hac, hsc, hmod⟩, hscb, hmodb⟩ := hm
      obtain ⟨⟨⟨hfa, hfb⟩, hpair⟩, hz⟩ := hf
      obtain ⟨ac, ha⟩ := Option.isSome_iff_exists.1 hac
      have hs := (MFace.codec sp).sound_words (t := 4 * ac.code + (Ann.ofCode (fld w.toNat 50 2)).code) hc ho
        (by rw [Acls.code_of_ofCode ha, Ann.code_ofCode_fld, fld_acls_ann]) (Face.code_ofCode_fld _ _).symm hj
        (Prod.ext hfa hsc) (by simpa using ⟨hz, Prod.ext hfb hscb⟩)
      refine ⟨_, rfl, ?_, (encM_eq ..).trans (by simpa [ha] using hs.1)⟩
      have hwa := hs.2.1
      have hwb := hs.2.2 e rfl
      simp [MFace.fits] at hwa hwb
      simp [wf, hmod, hmodb, hwa, hwb, hpair, Face.ofCode_fld_eq_paired, hj.1]
  complete {w r m} hwf he := by
    rw [encM_eq] at he
    obtain ⟨acls, ann, face, fa, fb⟩ := m
    simp only [wf, Bool.and_eq_true] at hwf
    obtain ⟨⟨ha, hma⟩, hb⟩ := hwf
    have hface : face = .paired ↔ fb.isSome = true := by cases fb <;> simp at hb ⊢ <;> simp [hb]
    have hwb : ∀ x ∈ fb, MFace.fits sp x = true := by cases fb <;> simp at hb ⊢; simp [MFace.fits, hb]
    obtain ⟨h1, h2, h3, h4, h5, ext, hr, hj, hx⟩ := (MFace.codec sp).complete_words hcls hop
      (by have := acls.code_lt; have := ann.code_lt; dsimp only; omega) (by simpa [MFace.fits] using ha) hwb hface he
    obtain ⟨h6, h7⟩ := fld_acls_ann_eq h3
    refine ⟨h1, h2, ext, hr, hj, ?_⟩
    rcases hx with ⟨rfl, rfl⟩ | ⟨e, x, rfl, rfl, h8, h9⟩
    · simp at hb
      simp [decM, h4, h5, h6, h7, hma, hb]
    · simp at hb
      simp [decM, h4, h5, h6, h7, h8, h9, hma, hb]

end Sys2Proof
end

section
/-!
PROOF. The operand sets of the general form: register form, immediate form, and the form of MOVI (R64 to R69).
-/
namespace Sys2Proof

/-! ### Operands (R65, R66) -/

/-- The index register of an indexed source operand. -/
def Src.ixReg : Src → Option Nat
  | .vix x _ => some x
  | _ => Option.none

/-- The index register of an indexed destination. -/
def Dst.ixReg : Dst → Option Nat
  | .vix x _ => some x
  | _ => Option.none

theorem Src.isIx_eq (s : Src) : s.isIx = s.ixReg.isSome := by cases s <;> rfl
theorem Dst.isIx_eq (d : Dst) : d.isIx = d.ixReg.isSome := by cases d <;> rfl

/-- Kinds of operands that may name a scalar and no vector register. -/
def OKind.narrow : OKind → Bool
  | .sc | .litSc _ => true
  | _ => false

/-- A destination is read back from its field. -/
theorem decDst_encDst {k : DKind} {pair ix : Bool} {d : Dst} (h : d.wf k pair ix = true) :
    decDst k pair (encDst d) d.ixReg = (d, true) ∧ encDst d < 256 := by
  cases d <;> simp [Dst.wf] at h <;> simp [decDst, encDst, Dst.ixReg, h]
  all_goals omega

/-- A destination that is read lies in its file, and its field is what was read. -/
theorem decDst_sound {k : DKind} {pair ok : Bool} {f : Nat} {ix : Option Nat} (h : (decDst k pair f ix).2 = true) (hf : f < 256)
    (hix : ∀ x ∈ ix, k = .vec ∧ ok = true ∧ pair = false ∧ x < 8) :
    (decDst k pair f ix).1.wf k pair ok = true ∧ encDst (decDst k pair f ix).1 = f ∧ (decDst k pair f ix).1.ixReg = ix := by
  cases ix with
  | none => cases k <;> simp [decDst] at h <;> simp [decDst, Dst.wf, encDst, Dst.ixReg, h, hf]
  | some x =>
    obtain ⟨rfl, rfl, rfl, hx⟩ := hix x rfl
    simp [decDst, Dst.wf, encDst, Dst.ixReg, hx, hf]

/-- A source operand is read back from its kind bit and field. -/
theorem decSrc_encSrc {k : OKind} {pair ix : Bool} {s : Src} (h : s.wf k pair ix = true) :
    decSrc k pair (encSrc s).1 (encSrc s).2 s.ixReg = (s, true) ∧ (encSrc s).1 < 2 ∧ (encSrc s).2 < 256 := by
  cases s <;> cases k <;> simp [Src.wf] at h <;> simp [decSrc, encSrc, Src.ixReg, vecSrc, h]
  all_goals omega

/-- A source operand that is read is of its kind, and its kind bit and field are what was read. -/
theorem decSrc_sound {k : OKind} {pair ok : Bool} {kb f : Nat} {ix : Option Nat} (h : (decSrc k pair kb f ix).2 = true)
    (hkb : kb < 2) (hf : f < 256) (hn : k.narrow = true → pair = false)
    (hix : ∀ x ∈ ix, (k = .any ∨ k = .vec) ∧ kb = 0 ∧ ok = true ∧ pair = false ∧ x < 8) :
    (decSrc k pair kb f ix).1.wf k pair ok = true ∧ encSrc (decSrc k pair kb f ix).1 = (kb, f) ∧
      (decSrc k pair kb f ix).1.ixReg = ix := by
  have hb : kb = 0 ∨ kb = 1 := by omega
  cases ix with
  | none =>
    cases k <;> simp [OKind.narrow] at hn <;> rcases hb with rfl | rfl <;> simp [decSrc, vecSrc] at h <;>
      simp [decSrc, vecSrc, Src.wf, encSrc, Src.ixReg, h, hf, hn]
  | some x =>
    obtain ⟨rfl | rfl, rfl, rfl, rfl, hx⟩ := hix x rfl <;> simp [decSrc, vecSrc, Src.wf, encSrc, Src.ixReg, hx, hf]

/-! ### Modifiers (R67) -/

/-- OPMOD with a rounding mode (R67). -/
theorem fld_roundMods {r f s a : Nat} (hr : r < 8) (hf : f ≤ 1) (hs : s ≤ 1) (ha : a ≤ 1) :
    let x := 8 * r + 4 * f + 2 * s + a
    fld x 3 3 = r ∧ fld x 2 1 = f ∧ fld x 1 1 = s ∧ fld x 0 1 = a ∧ x < 64 := by
  have h := unpack_pack (ns := [3, 1, 1, 1]) (vs := [r, f, s, a]) ⟨hr, by omega, by omega, by omega, trivial⟩
  have he : pack [3, 1, 1, 1] [r, f, s, a] = 8 * r + 4 * f + 2 * s + a := by simp [pack]; omega
  rw [he] at h
  simp [unpack] at h
  exact ⟨h.1, h.2.1, h.2.2.1, h.2.2.2, by omega⟩

/-- OPMOD with a saturation bit and a condition code (R67). -/
theorem fld_condMods {s c a : Nat} (hs : s ≤ 1) (hc : c < 16) (ha : a ≤ 1) :
    let x := 32 * s + 2 * c + a
    fld x 5 1 = s ∧ fld x 1 4 = c ∧ fld x 0 1 = a ∧ x < 64 := by
  have h := unpack_pack (ns := [1, 4, 1]) (vs := [s, c, a]) ⟨by omega, hc, by omega, trivial⟩
  have he : pack [1, 4, 1] [s, c, a] = 32 * s + 2 * c + a := by simp [pack]; omega
  rw [he] at h
  simp [unpack] at h
  exact ⟨h.1, h.2.1, h.2.2, by omega⟩

/-- OPMOD with a code of five bits (R67). -/
theorem fld_codeMods {c a : Nat} (hc : c < 32) (ha : a ≤ 1) :
    let x := 2 * c + a
    fld x 1 5 = c ∧ fld x 0 1 = a ∧ x < 64 := by
  have h := unpack_pack (ns := [5, 1]) (vs := [c, a]) ⟨hc, by omega, trivial⟩
  have he : pack [5, 1] [c, a] = 2 * c + a := by simp [pack]; omega
  rw [he] at h
  simp [unpack] at h
  exact ⟨h.1, h.2, by omega⟩

/-- Modifiers are read back from OPMOD. -/
theorem decMods_encMods {k : ModKind} {ty src : Ty} {m : Mods} (hok : modsOk k ty src m = true) (hr : modsRep k ty m = true) :
    decMods k ty (encMods k m) = (m, true, true) ∧ encMods k m < 64 := by
  obtain ⟨mode, ftz, sat, nosat, any, cond⟩ := m
  cases k with
  | zero | pred =>
    simp [modsRep] at hr
    simp [decMods, encMods, hr]
  | int s an =>
    simp [modsRep] at hr
    have h := fld_condMods (bit_le_one sat) (c := 0) (by decide) (bit_le_one any)
    simp at h
    simp [decMods, encMods, hr, h]
  | icmp an =>
    simp [modsRep] at hr
    simp [modsOk] at hok
    have h := fld_condMods (bit_le_one sat) (c := cond) (by omega) (bit_le_one any)
    simp [decMods, encMods, hr, h]
  | flt ro ft an =>
    simp [modsRep] at hr
    have h := fld_roundMods mode.code_lt (bit_le_one ftz) (Nat.zero_le 1) (bit_le_one any)
    simp at h
    simp [decMods, encMods, hr, h]
  | fcmp | fcls =>
    simp [modsRep] at hr
    simp [modsOk] at hok
    have h := fld_codeMods (c := cond) (by omega) (bit_le_one any)
    simp [decMods, encMods, hr, h]
  | cvt =>
    simp [modsRep] at hr
    have h := fld_roundMods mode.code_lt (bit_le_one ftz) (bit_le_one (sat || nosat)) (bit_le_one any)
    cases hty : ty.isFloat <;> simp [hty] at hr <;> simp [hr] at h <;> simp [decMods, encMods, hr, h, hty]
  | q4 | pack =>
    simp [modsRep] at hr
    have h := fld_roundMods mode.code_lt (bit_le_one ftz) (bit_le_one (sat || nosat)) (bit_le_one any)
    simp [hr] at h
    simp [decMods, encMods, hr, h]
  | lane =>
    simp [modsRep] at hr
    have h := fld_codeMods (c := 0) (by decide) (bit_le_one any)
    simp at h
    simp [decMods, encMods, hr, h]

/-- OPMOD is its fields. -/
theorem mods_fields {om : Nat} (hom : om < 64) :
    8 * fld om 3 3 + 4 * fld om 2 1 + 2 * fld om 1 1 + fld om 0 1 = om ∧
    32 * fld om 5 1 + 2 * fld om 1 4 + fld om 0 1 = om ∧ 2 * fld om 1 5 + fld om 0 1 = om := by
  simp only [fld]
  omega

/-- Modifiers that are read are ones that OPMOD carries. -/
theorem decMods_sound {k : ModKind} {ty src : Ty} {om : Nat} (hom : om < 64) (hf : (decMods k ty om).2.1 = true)
    (hm : (decMods k ty om).2.2 = true) (hok : modsOk k ty src (decMods k ty om).1 = true) :
    modsRep k ty (decMods k ty om).1 = true ∧ encMods k (decMods k ty om).1 = om := by
  obtain ⟨hround, hcond, hcode⟩ := mods_fields hom
  cases k with
  | zero | pred =>
    simp [decMods] at hf hm
    simp [decMods, modsRep, encMods, hf, hm]
  | int s an =>
    simp [decMods] at hf
    simp [decMods, modsRep, encMods]
    omega
  | icmp an =>
    simp [decMods, modsRep, encMods]
    omega
  | fcmp | fcls =>
    simp [decMods, modsRep, encMods, hcode]
  | lane =>
    simp [decMods] at hf
    simp [decMods, modsRep, encMods]
    omega
  | flt ro ft an =>
    simp [decMods] at hf
    obtain ⟨mode, hr⟩ := Option.isSome_iff_exists.1 hm
    simp [decMods, modsRep, encMods, hr, RMode.code_of_ofCode hr]
    rwa [fld_eq_zero_of_ne_one hf, Nat.mul_zero, Nat.add_zero] at hround
  | cvt =>
    obtain ⟨mode, hr⟩ := Option.isSome_iff_exists.1 hm
    cases hty : ty.isFloat <;> simp [decMods, modsRep, encMods, hr, RMode.code_of_ofCode hr, hty, hround]
  | q4 | pack =>
    obtain ⟨mode, hr⟩ := Option.isSome_iff_exists.1 hm
    simp [decMods, modsOk] at hok
    simp [decMods, modsRep, encMods, hr, RMode.code_of_ofCode hr, hround, hok]

/-! ### The indexed operand (R23, R66) -/

/-- IXE, IXR and IXO as the operands' index registers give them. -/
theorem encIx_eq (o : Opnds) : encIx o = match o.d.ixReg, o.a.ixReg, o.b.ixReg, o.c.ixReg with
    | some x, _, _, _ => (1, x, 0)
    | none, some x, _, _ => (1, x, 1)
    | none, none, some x, _ => (1, x, 2)
    | none, none, none, some x => (1, x, 3)
    | none, none, none, none => (0, 0, 0) := by
  unfold encIx
  split <;> simp_all [Dst.ixReg, Src.ixReg]

/-- The index register of the operand of role `n` (R66). -/
def Raw48.ixAt (r : Raw48) (n : Nat) : Option Nat := if r.ixe == 1 && r.ixo == n then some r.ixr else none

/-- The index fields of an operand set, where at most one operand is indexed, give each operand its index register. -/
theorem ixAt_encIx {o : Opnds} {r : Raw48} (h : o.oneIx = true) (hx : (r.ixe, r.ixr, r.ixo) = encIx o) :
    r.ixAt 0 = o.d.ixReg ∧ r.ixAt 1 = o.a.ixReg ∧ r.ixAt 2 = o.b.ixReg ∧ r.ixAt 3 = o.c.ixReg ∧ r.ixZero = true := by
  rw [encIx_eq] at hx
  simp only [Opnds.oneIx, Dst.isIx_eq, Src.isIx_eq] at h
  cases hd : o.d.ixReg <;> cases ha : o.a.ixReg <;> cases hb : o.b.ixReg <;> cases hc : o.c.ixReg <;>
    simp [hd, ha, hb, hc] at h hx <;> simp [Raw48.ixAt, Raw48.ixZero, hx]

/-- Operands whose index registers are those of a word have at most one that is indexed, and give the word's index fields. -/
theorem encIx_ixAt {o : Opnds} {r : Raw48} (he : r.ixe < 2) (ho : r.ixo < 4) (hz : r.ixZero = true) (h0 : o.d.ixReg = r.ixAt 0)
    (h1 : o.a.ixReg = r.ixAt 1) (h2 : o.b.ixReg = r.ixAt 2) (h3 : o.c.ixReg = r.ixAt 3) :
    encIx o = (r.ixe, r.ixr, r.ixo) ∧ o.oneIx = true := by
  simp only [encIx_eq, Opnds.oneIx, Dst.isIx_eq, Src.isIx_eq, h0, h1, h2, h3]
  obtain h | h : r.ixe = 0 ∨ r.ixe = 1 := by omega
  · simp [Raw48.ixZero, h] at hz
    simp [Raw48.ixAt, h, hz]
  · obtain h' | h' | h' | h' : r.ixo = 0 ∨ r.ixo = 1 ∨ r.ixo = 2 ∨ r.ixo = 3 := by omega
    all_goals simp [Raw48.ixAt, h, h']

/-! ### What the opcode map's shapes have in common -/

/-- Facts of a shape on which the decoder and the checks of the form rely: which operands may be pairs, and what the
immediate forms leave out. -/
structure OpSpec.Sane (sp : OpSpec) : Prop where
  narrowA : sp.a.narrow = true → sp.wide = .no
  narrowB : sp.b.narrow = true → sp.wide = .no ∨ sp.wide = .tyDA
  narrowC : sp.c.narrow = false
  cvt : sp.wide = .cvt → (∃ m, sp.c = .lit m) ∧ sp.im = .no ∧ sp.cross = .cvt
  imCross : sp.im ≠ .no → sp.cross = .none ∨ sp.cross = .endloop
  fcmp : sp.mods = .fcmp → sp.d = .pred
  target : sp.im = .target → sp.mods = .zero
  movi : sp.cross = .movi → sp.a = .none ∧ sp.wide = .no ∧ sp.mods = .zero ∧ sp.im = .no ∧ sp.ix = false
  bare : sp.cross = .bare → sp.d = .none ∧ sp.a = .none ∧ sp.b = .none ∧ sp.c = .none ∧ sp.mods = .zero ∧ sp.im = .no

theorem spec2_sane (op : Nat) : (spec2 op).Sane := by
  unfold spec2
  split <;> constructor <;> simp [intOp, scOp, OKind.narrow]

theorem opSpec_sane (cls op : Nat) : (opSpec cls op).Sane := by
  unfold opSpec
  split
  · exact spec2_sane op
  · unfold spec3
    split <;> constructor <;> simp [fltOp, OKind.narrow]
  · unfold spec4
    split <;> constructor <;> simp [OKind.narrow]
  · unfold spec5
    split <;> constructor <;> simp [OKind.narrow]
  · unfold spec6
    split <;> constructor <;> simp [OKind.narrow]
  · unfold specC
    split <;> constructor <;> simp [OKind.narrow]

end Sys2Proof
end

section
/-!
PROOF. The three decoders of operand bits, each the inverse of its encoder: register form, immediate form, and the form of MOVI
(R64 to R69).
-/
namespace Sys2Proof

namespace Raw48

/-- The fields of operand bits, from the highest down (R64). -/
def vals (r : Raw48) : List Nat := [r.ak, r.bk, r.ck, r.im, r.d, r.a, r.b, r.c, r.ixe, r.ixr, r.ixo, r.om]

/-- The widths of the fields of operand bits (R64). -/
def widths : List Nat := [1, 1, 1, 1, 8, 8, 8, 8, 1, 3, 2, 6]

theorem toNat_eq (r : Raw48) : r.toNat = pack widths r.vals := by
  simp only [toNat, widths, vals, pack, List.sum_cons, List.sum_nil]
  omega

theorem vals_ofNat (x : Nat) : (ofNat x).vals = unpack widths x := rfl

theorem toNat_ofNat {x : Nat} (hx : x < 2 ^ 48) : (ofNat x).toNat = x := by
  rw [toNat_eq, vals_ofNat, pack_unpack]
  exact Nat.mod_eq_of_lt hx

theorem ofNat_toNat {r : Raw48} (h : Fits widths r.vals) : ofNat r.toNat = r ∧ r.toNat < 2 ^ 48 := by
  have hu := unpack_pack h
  rw [← toNat_eq, ← vals_ofNat] at hu
  refine ⟨?_, toNat_eq r ▸ pack_lt h⟩
  simp only [vals, List.cons.injEq] at hu
  cases r
  simp [ofNat] at hu ⊢
  simpa using hu

end Raw48

/-! ### The register form (R64 to R67) -/

/-- Pairs do not depend on the field C but where it carries the source type (R129). -/
theorem pair_srcTy {sp : OpSpec} (hs : sp.Sane) (ty : Ty) {o : Opnds} {c : Nat} (h : ∀ m, sp.c = .lit m → o.c = .lit c) :
    sp.wide.pair ty (Ty.ofCode (c % 16)) = sp.wide.pair ty o.srcTy := by
  by_cases hw : sp.wide = .cvt
  · obtain ⟨⟨m, hc⟩, -⟩ := hs.cvt hw
    rw [Opnds.srcTy, h m hc]
  · cases hw' : sp.wide <;> simp [hw'] at hw <;> rfl

/-- The operand fields of the register form. -/
def regFields (sp : OpSpec) (o : Opnds) : Raw48 :=
  { ak := (encSrc o.a).1, bk := (encSrc o.b).1, ck := (encSrc o.c).1, im := 0, d := encDst o.d, a := (encSrc o.a).2
    b := (encSrc o.b).2, c := (encSrc o.c).2, ixe := (encIx o).1, ixr := (encIx o).2.1, ixo := (encIx o).2.2
    om := encMods sp.mods o.mods }

/-- The checks of an operand set in the register form. -/
def wfReg (sp : OpSpec) (ty : Ty) (o : Opnds) : Bool :=
  let p := sp.wide.pair ty o.srcTy
  o.d.wf sp.d (p 0) sp.ix && o.a.wf sp.a (p 1) sp.ix && o.oneIx &&
  modsOk sp.mods ty o.srcTy o.mods && crossOk sp.cross ty o &&
  sp.im != .target && o.b.wf sp.b (p 2) sp.ix && o.c.wf sp.c (p 3) sp.ix && modsRep sp.mods ty o.mods

/-- An operand that the index fields name is one that may be indexed (R66). -/
theorem ixOk_roles {sp : OpSpec} {p : Nat → Bool} {r : Raw48} (h : ixOk sp p r = true) (hr : r.ixr < 8) :
    (∀ x ∈ r.ixAt 0, sp.d = .vec ∧ sp.ix = true ∧ p 0 = false ∧ x < 8) ∧
    (∀ x ∈ r.ixAt 1, (sp.a = .any ∨ sp.a = .vec) ∧ r.ak = 0 ∧ sp.ix = true ∧ p 1 = false ∧ x < 8) ∧
    (∀ x ∈ r.ixAt 2, (sp.b = .any ∨ sp.b = .vec) ∧ r.bk = 0 ∧ sp.ix = true ∧ p 2 = false ∧ x < 8) ∧
    (∀ x ∈ r.ixAt 3, (sp.c = .any ∨ sp.c = .vec) ∧ r.ck = 0 ∧ sp.ix = true ∧ p 3 = false ∧ x < 8) := by
  simp only [Raw48.ixAt, Option.mem_def]
  refine ⟨?_, ?_, ?_, ?_⟩
  all_goals
    intro x hx
    simp at hx
    obtain ⟨⟨he, ho⟩, rfl⟩ := hx
    simp [ixOk, he, ho] at h
    simp [h, hr]

/-- No operand that can name a scalar alone is a pair. -/
theorem OpSpec.Sane.pair_narrow {sp : OpSpec} (hs : sp.Sane) (ty src : Ty) :
    (sp.a.narrow = true → sp.wide.pair ty src 1 = false) ∧ (sp.b.narrow = true → sp.wide.pair ty src 2 = false) ∧
      (sp.c.narrow = true → sp.wide.pair ty src 3 = false) := by
  refine ⟨fun h => ?_, fun h => ?_, fun h => ?_⟩
  · rw [hs.narrowA h]; rfl
  · rcases hs.narrowB h with h | h <;> rw [h]
    · rfl
    · simp [Wide.pair]
  · rw [hs.narrowC] at h
    exact absurd h Bool.false_ne_true

/-- The operand set that the fields of the register form give. -/
def regOpnds (sp : OpSpec) (ty : Ty) (r : Raw48) : Opnds :=
  let p := sp.wide.pair ty (Ty.ofCode (r.c % 16))
  { d := (decDst sp.d (p 0) r.d (r.ixAt 0)).1, a := (decSrc sp.a (p 1) r.ak r.a (r.ixAt 1)).1
    b := (decSrc sp.b (p 2) r.bk r.b (r.ixAt 2)).1, c := (decSrc sp.c (p 3) r.ck r.c (r.ixAt 3)).1
    mods := (decMods sp.mods ty r.om).1 }

/-- The decoder of the register form, check by check. -/
theorem decReg_eq (sp : OpSpec) (ty : Ty) (r : Raw48) :
    let p := sp.wide.pair ty (Ty.ofCode (r.c % 16))
    let m := decMods sp.mods ty r.om
    let o := regOpnds sp ty r
    decReg sp ty r = (o,
      (decDst sp.d (p 0) r.d (r.ixAt 0)).2 && (decSrc sp.a (p 1) r.ak r.a (r.ixAt 1)).2 &&
        (decSrc sp.b (p 2) r.bk r.b (r.ixAt 2)).2 && (decSrc sp.c (p 3) r.ck r.c (r.ixAt 3)).2 && m.2.1 &&
        crossOk sp.cross ty o && r.ixZero,
      m.2.2 && ixOk sp p r && modsOk sp.mods ty o.srcTy o.mods && sp.im != .target) := rfl

theorem decReg_sound {sp : OpSpec} (hs : sp.Sane) {ty : Ty} {r : Raw48} (hr : Fits Raw48.widths r.vals) (him : r.im = 0)
    (hf : (decReg sp ty r).2.1 = true) (hm : (decReg sp ty r).2.2 = true) :
    wfReg sp ty (decReg sp ty r).1 = true ∧ regFields sp (decReg sp ty r).1 = r := by
  rw [decReg_eq] at hf hm ⊢
  have hpair : sp.wide.pair ty (Ty.ofCode (r.c % 16)) = sp.wide.pair ty (regOpnds sp ty r).srcTy :=
    pair_srcTy hs ty fun m hc => by simp only [regOpnds, hc]; rfl
  simp only [Bool.and_eq_true] at hf hm
  obtain ⟨⟨⟨⟨⟨⟨hd, ha⟩, hb⟩, hc⟩, hmf⟩, hx⟩, hz⟩ := hf
  obtain ⟨⟨⟨hmm, hix⟩, hmo⟩, ht⟩ := hm
  obtain ⟨hak, hbk, hck, -, hrd, hra, hrb, hrc, hixe, hixr, hixo, hom, -⟩ := hr
  obtain ⟨i0, i1, i2, i3⟩ := ixOk_roles hix hixr
  obtain ⟨n1, n2, n3⟩ := hs.pair_narrow ty (Ty.ofCode (r.c % 16))
  obtain ⟨dwf, denc, dix⟩ := decDst_sound hd hrd i0
  obtain ⟨awf, aenc, aix⟩ := decSrc_sound ha hak hra n1 i1
  obtain ⟨bwf, benc, bix⟩ := decSrc_sound hb hbk hrb n2 i2
  obtain ⟨cwf, cenc, cix⟩ := decSrc_sound hc hck hrc n3 i3
  obtain ⟨mrep, menc⟩ := decMods_sound hom hmf hmm hmo
  obtain ⟨hie, hone⟩ := encIx_ixAt (o := regOpnds sp ty r) hixe hixo hz dix aix bix cix
  constructor
  · simp only [wfReg, ← hpair, Bool.and_eq_true]
    exact ⟨⟨⟨⟨⟨⟨⟨⟨dwf, awf⟩, hone⟩, hmo⟩, hx⟩, ht⟩, bwf⟩, cwf⟩, mrep⟩
  · simp only [regFields, hie]
    simp only [regOpnds, denc, aenc, benc, cenc, menc]
    obtain ⟨ak, bk, ck, im, d, a, b, c, ixe, ixr, ixo, om⟩ := r
    obtain rfl : im = 0 := him
    rfl

/-- An indexed operand that the form admits may be indexed. -/
theorem Dst.indexed_wf {k : DKind} {pair ok : Bool} {d : Dst} {x : Nat} (h : d.wf k pair ok = true) (hx : d.ixReg = some x) :
    k = .vec ∧ ok = true ∧ pair = false ∧ x < 8 := by
  cases d <;> simp [ixReg] at hx
  simp [wf] at h
  simp [h, ← hx]

theorem Src.indexed_wf {k : OKind} {pair ok : Bool} {s : Src} {x : Nat} (h : s.wf k pair ok = true) (hx : s.ixReg = some x) :
    (k = .any ∨ k = .vec) ∧ (encSrc s).1 = 0 ∧ ok = true ∧ pair = false ∧ x < 8 := by
  cases s <;> simp [ixReg] at hx
  simp [wf] at h
  simp [h, encSrc, ← hx]

theorem decReg_complete {sp : OpSpec} (hs : sp.Sane) {ty : Ty} {o : Opnds} (h : wfReg sp ty o = true) :
    Fits Raw48.widths (regFields sp o).vals ∧ decReg sp ty (regFields sp o) = (o, true, true) := by
  simp only [wfReg, Bool.and_eq_true] at h
  obtain ⟨⟨⟨⟨⟨⟨⟨⟨dwf, awf⟩, hone⟩, hmo⟩, hx⟩, ht⟩, bwf⟩, cwf⟩, mrep⟩ := h
  obtain ⟨hd, hdl⟩ := decDst_encDst dwf
  obtain ⟨ha, hak, hal⟩ := decSrc_encSrc awf
  obtain ⟨hb, hbk, hbl⟩ := decSrc_encSrc bwf
  obtain ⟨hc, hck, hcl⟩ := decSrc_encSrc cwf
  obtain ⟨hm, hml⟩ := decMods_encMods hmo mrep
  obtain ⟨i0, i1, i2, i3, hz⟩ := ixAt_encIx (r := regFields sp o) hone rfl
  have hpair : sp.wide.pair ty (Ty.ofCode ((regFields sp o).c % 16)) = sp.wide.pair ty o.srcTy := by
    refine pair_srcTy hs ty fun m hm => ?_
    cases hoc : o.c <;> simp [hoc, hm, Src.wf] at cwf
    · simp [regFields, hoc, encSrc]
  have hopnds : regOpnds sp ty (regFields sp o) = o := by
    simp only [regOpnds, hpair, i0, i1, i2, i3]
    simp only [regFields, hd, ha, hb, hc, hm]
  have hxr : (encIx o).1 < 2 ∧ (encIx o).2.1 < 8 ∧ (encIx o).2.2 < 4 := by
    rw [encIx_eq]
    split
    · exact ⟨by simp, (Dst.indexed_wf dwf ‹_›).2.2.2, by simp⟩
    · exact ⟨by simp, (Src.indexed_wf awf ‹_›).2.2.2.2, by simp⟩
    · exact ⟨by simp, (Src.indexed_wf bwf ‹_›).2.2.2.2, by simp⟩
    · exact ⟨by simp, (Src.indexed_wf cwf ‹_›).2.2.2.2, by simp⟩
    · decide
  have hixOk : ixOk sp (sp.wide.pair ty o.srcTy) (regFields sp o) = true := by
    simp only [ixOk, regFields]
    rw [encIx_eq]
    split
    · simp [Dst.indexed_wf dwf ‹_›]
    · simp [Src.indexed_wf awf ‹_›]
    · simp [Src.indexed_wf bwf ‹_›]
    · simp [Src.indexed_wf cwf ‹_›]
    · simp
  refine ⟨⟨hak, hbk, hck, Nat.two_pow_pos 1, hdl, hal, hbl, hcl, hxr.1, hxr.2.1, hxr.2.2, hml, trivial⟩, ?_⟩
  rw [decReg_eq, hopnds, hpair, hixOk, hmo, hx, hz, ht, i0, i1, i2, i3]
  simp only [regFields, hd, ha, hb, hc, hm]
  rfl

/-! ### The immediate form (R68, R108, R122, R138) -/

/-- A 24-bit value that has been sign-extended is its low 24 bits. -/
theorem setWidth_signExtend (t : BitVec 24) : (t.signExtend 28).setWidth 24 = t := by
  ext i hi
  simp [BitVec.getElem_signExtend, hi, Nat.lt_trans hi (by decide : 24 < 28)]

/-- Where the immediate form holds the condition code: in the immediate, or in D (R108, R122). -/
def immCond (k : ModKind) (d imm : Nat) : Nat :=
  match k with
  | .icmp _ => fld imm 24 4
  | .fcmp => fld d 3 5
  | _ => 0

/-- The value of the immediate (R68, R108). -/
def immVal (k : ModKind) (imm : Nat) : BitVec 28 :=
  match k with
  | .icmp _ => ((BitVec.ofNat 28 imm).truncate 24).signExtend 28
  | _ => BitVec.ofNat 28 imm

/-- The destination number in the D field (R122). -/
def immDst (k : ModKind) (d : Nat) : Nat :=
  match k with
  | .fcmp => fld d 0 3
  | _ => d

/-- The D field of a destination number and a condition code (R122). -/
def immDField (k : ModKind) (cond d : Nat) : Nat :=
  match k with
  | .fcmp => 8 * cond + d
  | _ => d

/-- The immediate field of a value and a condition code (R108). -/
def immField (k : ModKind) (cond : Nat) (v : BitVec 28) : Nat :=
  match k with
  | .icmp _ => cond * 2 ^ 24 + v.toNat % 2 ^ 24
  | _ => v.toNat

/-- The fields are what the parts read from them give. -/
theorem immFields_of_parts {k : ModKind} {d imm : Nat} (hd : d < 256) (hi : imm < 2 ^ 28) :
    immDField k (immCond k d imm) (immDst k d) = d ∧ immField k (immCond k d imm) (immVal k imm) = imm := by
  have hv : (BitVec.ofNat 28 imm).toNat = imm := by rw [BitVec.toNat_ofNat, Nat.mod_eq_of_lt hi]
  have ht : ((BitVec.ofNat 28 imm).truncate 24).toNat = imm % 2 ^ 24 := by rw [BitVec.toNat_setWidth, hv]
  have hs (t : BitVec 24) : (t.signExtend 28).toNat % 2 ^ 24 = t.toNat := by
    rw [← BitVec.toNat_setWidth, setWidth_signExtend]
  cases k <;> simp only [immDField, immField, immCond, immVal, immDst, hv, hs, ht, true_and, and_true, and_self]
  · simp only [fld]; omega
  · simp only [fld]; omega

/-- What the immediate form can hold. -/
def ImmHolds (k : ModKind) (cond d : Nat) (v : BitVec 28) : Prop :=
  match k with
  | .icmp _ => cond < 16 ∧ v = (v.truncate 24).signExtend 28
  | .fcmp => cond < 32 ∧ d < 8
  | _ => cond = 0

/-- The parts are read back from the fields. -/
theorem immParts_of_fields {k : ModKind} {cond d : Nat} {v : BitVec 28} (hd : d < 256) (h : ImmHolds k cond d v) :
    immCond k (immDField k cond d) (immField k cond v) = cond ∧ immDst k (immDField k cond d) = d ∧
      immVal k (immField k cond v) = v ∧ immDField k cond d < 256 ∧ immField k cond v < 2 ^ 28 := by
  have hv := v.isLt
  cases k with
  | icmp an =>
    obtain ⟨hc, hs⟩ := h
    have hlt : v.toNat % 2 ^ 24 < 2 ^ 24 := Nat.mod_lt _ (by decide)
    refine ⟨?_, rfl, ?_, hd, by simp only [immField]; omega⟩
    · exact (fld_add_low cond 4 hlt).trans (Nat.mod_eq_of_lt hc)
    · have ht : (BitVec.ofNat 28 (cond * 2 ^ 24 + v.toNat % 2 ^ 24)).truncate 24 = v.truncate 24 := by
        apply BitVec.eq_of_toNat_eq
        simp only [BitVec.truncate_eq_setWidth, BitVec.toNat_setWidth, BitVec.toNat_ofNat]
        omega
      rw [immVal, immField, ht, ← hs]
  | fcmp =>
    obtain ⟨hc, hq⟩ := h
    simp [immCond, immDField, immDst, immField, immVal, fld, hv]
    omega
  | _ =>
    cases h
    simp [immCond, immDField, immDst, immField, immVal, hd, hv]

/-- The modifiers that the immediate form can hold, where its operation allows it. -/
theorem immHolds_of_wf {sp : OpSpec} (hs : sp.Sane) {ty src : Ty} {o : Opnds} {v : BitVec 28} {p : Bool}
    (hd : o.d.wf sp.d p sp.ix = true) (hm : modsOk sp.mods ty src o.mods = true) (hw : wfImm sp ty o v = true) :
    ImmHolds sp.mods o.mods.cond (encDst o.d) v := by
  simp only [wfImm, Bool.and_eq_true] at hw
  obtain ⟨-, him⟩ := hw
  cases hi : sp.im with
  | no => simp [hi] at him
  | target =>
    simp [hi] at him
    simp [hs.target hi, ImmHolds, him]
  | yes =>
    simp [hi] at him
    cases hk : sp.mods with
    | icmp an =>
      simp [hk] at him
      simp [hk, modsOk] at hm
      exact ⟨by omega, him.2⟩
    | fcmp =>
      simp [hk, modsOk] at hm
      rw [hs.fcmp hk] at hd
      cases hod : o.d <;> simp [hod, Dst.wf] at hd
      exact ⟨by omega, hd⟩
    | _ => exact (by simpa [hk] using him.2 : o.mods.cond = 0)

/-- The operand bits of the immediate form. -/
def immBits (sp : OpSpec) (o : Opnds) (v : BitVec 28) : Nat :=
  (encSrc o.a).1 * 2 ^ 47 + 2 ^ 44 + immDField sp.mods o.mods.cond (encDst o.d) * 2 ^ 36 + (encSrc o.a).2 * 2 ^ 28 +
    immField sp.mods o.mods.cond v

theorem encOpnds_imm (sp : OpSpec) {o : Opnds} {v : BitVec 28} (hb : o.b = .imm v) : encOpnds sp o = immBits sp o v := by
  cases hk : sp.mods <;> simp only [encOpnds, immBits, immDField, immField, hb, hk]

/-- The operand set that the immediate form gives. -/
def immOpnds (sp : OpSpec) (ty : Ty) (r : Raw48) (imm : Nat) : Opnds :=
  let p := sp.wide.pair ty .raw
  { d := (decDst sp.d (p 0) (immDst sp.mods r.d) none).1, a := (decSrc sp.a (p 1) r.ak r.a none).1, b := .imm (immVal sp.mods imm)
    c := .none, mods := { cond := immCond sp.mods r.d imm } }

/-- Whether an operation's entry allows the immediate form for a type (R68). -/
def immAllowed (sp : OpSpec) (ty : Ty) : Bool :=
  match sp.im with
  | .no => false
  | .yes => ty != .raw && ty != .q4
  | .target => true

/-- The decoder of the immediate form, check by check. -/
theorem decImm_eq (sp : OpSpec) (ty : Ty) (r : Raw48) (imm : Nat) :
    let p := sp.wide.pair ty .raw
    let o := immOpnds sp ty r imm
    decImm sp ty r imm = (o,
      (decDst sp.d (p 0) (immDst sp.mods r.d) none).2 && (decSrc sp.a (p 1) r.ak r.a none).2 && r.bk == 0 && r.ck == 0 &&
        crossImm sp.cross ty o && (sp.im != .yes || !immAllowed sp ty || (immValue ty (immVal sp.mods imm)).isSome),
      immAllowed sp ty && modsOk sp.mods ty .raw o.mods) := by
  cases hk : sp.mods <;> simp only [decImm, immOpnds, immDst, immVal, immCond, immAllowed, hk] <;> rfl

theorem Src.isIx_false {s : Src} (h : s.ixReg = Option.none) : s.isIx = false := by rw [isIx_eq, h]; rfl
theorem Dst.isIx_false {d : Dst} (h : d.ixReg = Option.none) : d.isIx = false := by rw [isIx_eq, h]; rfl

theorem decImm_sound {sp : OpSpec} (hs : sp.Sane) {ty : Ty} {x : Nat} (hx : x < 2 ^ 48) (him : fld x 44 1 = 1)
    (hf : (decImm sp ty (Raw48.ofNat x) (fld x 0 28)).2.1 = true) (hm : (decImm sp ty (Raw48.ofNat x) (fld x 0 28)).2.2 = true) :
    let o := (decImm sp ty (Raw48.ofNat x) (fld x 0 28)).1
    wfOpnds sp ty o = true ∧ encOpnds sp o = x := by
  have hsum := pack_unpack [1, 1, 1, 1, 8, 8, 28] x
  have hx0 := hx
  rw [decImm_eq] at hf hm ⊢
  simp only [Bool.and_eq_true, Raw48.ofNat_d, Raw48.ofNat_ak, Raw48.ofNat_a, Raw48.ofNat_bk, Raw48.ofNat_ck, beq_iff_eq] at hf hm
  obtain ⟨⟨⟨⟨⟨hd, ha⟩, hbk⟩, hck⟩, hx⟩, hv⟩ := hf
  obtain ⟨hal, hmo⟩ := hm
  obtain ⟨n1, -, -⟩ := hs.pair_narrow ty .raw
  have hdl : immDst sp.mods (fld x 36 8) < 256 := by
    have := fld_eight_lt x 36
    cases sp.mods <;> simp [immDst]
    simp [fld]; omega
  obtain ⟨dwf, denc, dix⟩ := decDst_sound (ok := sp.ix) hd hdl (by simp)
  obtain ⟨awf, aenc, aix⟩ := decSrc_sound (ok := sp.ix) ha (fld_lt x 47 1) (fld_lt x 28 8) n1 (by simp)
  obtain ⟨hD, hI⟩ := immFields_of_parts (k := sp.mods) (fld_lt x 36 8) (fld_lt x 0 28)
  constructor
  · have hcross : crossOk sp.cross ty (immOpnds sp ty (Raw48.ofNat x) (fld x 0 28)) = true := by
      have him : sp.im ≠ .no := fun h => by simp [immAllowed, h] at hal
      rcases hs.imCross him with h | h <;> rw [h] at hx ⊢ <;> exact hx
    have hwf : wfImm sp ty (immOpnds sp ty (Raw48.ofNat x) (fld x 0 28)) (immVal sp.mods (fld x 0 28)) = true := by
      have hd' : (immOpnds sp ty (Raw48.ofNat x) (fld x 0 28)).d.isIx = false := Dst.isIx_false dix
      have ha' : (immOpnds sp ty (Raw48.ofNat x) (fld x 0 28)).a.isIx = false := Src.isIx_false aix
      simp only [wfImm, hd', ha']
      cases hi : sp.im with
      | no => simp [immAllowed, hi] at hal
      | target => simp [immOpnds, immCond, hs.target hi]
      | yes =>
        rw [hal, hi] at hv
        have hv' : (immValue ty (immVal sp.mods (fld x 0 28))).isSome = true := hv
        simp only [hv']
        cases hk : sp.mods <;> simp [immOpnds, immCond, immVal, hk, setWidth_signExtend]
    have hone : (immOpnds sp ty (Raw48.ofNat x) (fld x 0 28)).oneIx = true := by
      simp only [Opnds.oneIx, immOpnds, Src.isIx_eq, Dst.isIx_eq, Raw48.ofNat_d, Raw48.ofNat_ak, Raw48.ofNat_a, aix, dix]
      rfl
    simp only [wfOpnds, Bool.and_eq_true]
    exact ⟨⟨⟨⟨⟨dwf, awf⟩, hone⟩, hmo⟩, hcross⟩, hwf⟩
  · rw [encOpnds_imm sp (v := immVal sp.mods (fld x 0 28)) rfl]
    rw [immBits]
    simp only [immOpnds, Raw48.ofNat_d, Raw48.ofNat_ak, Raw48.ofNat_a, denc, aenc, hD, hI]
    simp only [unpack, pack, List.sum_cons, List.sum_nil, hbk, hck, him, Nat.reduceAdd] at hsum
    rw [Nat.mod_eq_of_lt hx0] at hsum
    exact Eq.trans (by ring) hsum

/-- The bit types have no immediate form (R68). -/
theorem immValue_bits {ty : Ty} {v : BitVec 28} (h : (immValue ty v).isSome = true) : ty ≠ .raw ∧ ty ≠ .q4 := by
  constructor <;> rintro rfl <;> simp [immValue] at h

/-- An operation that a well-formed immediate form belongs to allows it. -/
theorem immAllowed_of_wf {sp : OpSpec} {ty : Ty} {o : Opnds} {v : BitVec 28} (h : wfImm sp ty o v = true) :
    sp.im ≠ .no ∧ immAllowed sp ty = true ∧ (sp.im != .yes || !immAllowed sp ty || (immValue ty v).isSome) = true := by
  simp only [wfImm, Bool.and_eq_true] at h
  obtain ⟨-, h⟩ := h
  cases hi : sp.im with
  | no => simp [hi] at h
  | target => simp [immAllowed, hi]
  | yes =>
    simp only [hi, Bool.and_eq_true] at h
    have := immValue_bits h.1
    simp [immAllowed, hi, this, h.1]

theorem decImm_complete {sp : OpSpec} (hs : sp.Sane) {ty : Ty} {o : Opnds} {v : BitVec 28} (hb : o.b = .imm v)
    (h : wfOpnds sp ty o = true) :
    let x := encOpnds sp o
    x < 2 ^ 48 ∧ fld x 44 1 = 1 ∧ decImm sp ty (Raw48.ofNat x) (fld x 0 28) = (o, true, true) := by
  simp only [wfOpnds, hb, Bool.and_eq_true] at h
  obtain ⟨⟨⟨⟨⟨dwf, awf⟩, hone⟩, hmo⟩, hx⟩, hwf⟩ := h
  have hwf' := hwf
  simp only [wfImm, Bool.and_eq_true, Bool.not_eq_true', beq_iff_eq] at hwf'
  obtain ⟨⟨⟨⟨hoc, hdi⟩, hai⟩, hmods⟩, him⟩ := hwf'
  have hsrc : o.srcTy = .raw := by rw [Opnds.srcTy, hoc]
  rw [hsrc] at dwf awf hmo
  have hdix : o.d.ixReg = none := by simpa [Dst.isIx_eq] using hdi
  have haix : o.a.ixReg = none := by simpa [Src.isIx_eq] using hai
  obtain ⟨hd, hdl⟩ := decDst_encDst dwf
  obtain ⟨ha, hak, hal⟩ := decSrc_encSrc awf
  obtain ⟨hcond, hdst, hval, hdf, hif⟩ := immParts_of_fields hdl (immHolds_of_wf hs dwf hmo hwf)
  have hfit : Fits [1, 1, 1, 1, 8, 8, 28] [(encSrc o.a).1, 0, 0, 1, immDField sp.mods o.mods.cond (encDst o.d), (encSrc o.a).2,
      immField sp.mods o.mods.cond v] := ⟨hak, by decide, by decide, by decide, hdf, hal, hif, trivial⟩
  have he : encOpnds sp o = pack [1, 1, 1, 1, 8, 8, 28] [(encSrc o.a).1, 0, 0, 1, immDField sp.mods o.mods.cond (encDst o.d),
      (encSrc o.a).2, immField sp.mods o.mods.cond v] := by
    rw [encOpnds_imm sp hb, immBits]
    simp only [pack, List.sum_cons, List.sum_nil]
    ring
  have hu := unpack_pack hfit
  rw [← he] at hu
  simp [unpack] at hu
  obtain ⟨h1, h2, h3, h4, h5, h6, h7⟩ := hu
  refine ⟨he ▸ pack_lt hfit, h4, ?_⟩
  have hopnds : immOpnds sp ty (Raw48.ofNat (encOpnds sp o)) (fld (encOpnds sp o) 0 28) = o := by
    simp only [immOpnds, Raw48.ofNat_d, Raw48.ofNat_ak, Raw48.ofNat_a, h1, h5, h6, h7, hcond, hdst, hval, ← hmods]
    rw [← hdix, hd, hdix, ← haix, ha, ← hb, ← hoc]
  obtain ⟨hno, hallow, hvalue⟩ := immAllowed_of_wf hwf
  have hcross : crossImm sp.cross ty o = true := by
    rcases hs.imCross hno with h | h <;> rw [h] at hx ⊢ <;> exact hx
  have hd2 := congrArg Prod.snd hd
  have ha2 := congrArg Prod.snd ha
  rw [hdix] at hd2
  rw [haix] at ha2
  rw [decImm_eq, hopnds]
  simp only [Raw48.ofNat_d, Raw48.ofNat_ak, Raw48.ofNat_a, Raw48.ofNat_bk, Raw48.ofNat_ck, h1, h2, h3, h5, h6, h7, hdst, hval,
    hd2, ha2, hcross, hvalue, hmo]
  rw [hallow]
  rfl

/-! ### The form of MOVI (R69) -/

theorem decMovi_sound {sp : OpSpec} (hs : sp.Sane) {ty : Ty} {x : Nat} (hx : x < 2 ^ 48) (hm : sp.cross = .movi)
    (hf : (decMovi sp ty x).2.1 = true) : wfOpnds sp ty (decMovi sp ty x).1 = true ∧ encOpnds sp (decMovi sp ty x).1 = x := by
  have hsum := pack_unpack [4, 8, 4, 32] x
  simp only [decMovi, Bool.and_eq_true, beq_iff_eq] at hf
  obtain ⟨⟨⟨hd, h1⟩, h2⟩, hcross⟩ := hf
  obtain ⟨ha, hw, hk, -⟩ := hs.movi hm
  obtain ⟨dwf, denc, dix⟩ := decDst_sound (ok := sp.ix) hd (fld_lt x 36 8) (by simp)
  have hv : (BitVec.ofNat 32 x).toNat = fld x 0 32 := by simp [fld]
  constructor
  · have hdi : ((decDst sp.d false (fld x 36 8) none).1).isIx = false := Dst.isIx_false dix
    have hp : sp.wide.pair ty Ty.raw 0 = false := by rw [hw]; rfl
    simp only [wfOpnds, decMovi, Opnds.srcTy, hp, dwf, hcross]
    simp [ha, Src.wf, hk, modsOk, Opnds.oneIx, hdi, Src.isIx, hm]
  · rw [Nat.mod_eq_of_lt (by exact hx)] at hsum
    simp only [unpack, pack, List.sum_cons, List.sum_nil, Nat.reduceAdd, h1, h2] at hsum
    simp only [encOpnds, decMovi, denc, hv]
    exact Eq.trans (by ring) hsum

theorem decMovi_complete {sp : OpSpec} {ty : Ty} {o : Opnds} {v : W32} (hs : sp.Sane) (hb : o.b = .w32 v)
    (h : wfOpnds sp ty o = true) :
    let x := encOpnds sp o
    sp.cross = .movi ∧ x < 2 ^ 48 ∧ decMovi sp ty x = (o, true, true) := by
  obtain ⟨d, a, b, c, m⟩ := o
  obtain rfl : b = .w32 v := hb
  simp only [wfOpnds, Bool.and_eq_true, beq_iff_eq] at h
  obtain ⟨⟨⟨⟨⟨dwf, awf⟩, hone⟩, hmo⟩, hx⟩, ⟨hm, hc⟩, hz⟩ := h
  obtain ⟨ha, hw, -, -, hix⟩ := hs.movi hm
  obtain rfl : c = .none := hc
  obtain rfl : m = {} := hz
  obtain rfl : a = .none := by
    rw [ha] at awf
    cases a <;> simp [Src.wf] at awf
    rfl
  have hdix : d.ixReg = none := by
    cases hdx : d.ixReg with
    | none => rfl
    | some x => exact absurd (Dst.indexed_wf dwf hdx).2.1 (by simp [hix])
  rw [hw] at dwf
  obtain ⟨hd, hdl⟩ := decDst_encDst (pair := false) dwf
  have hfit : Fits [4, 8, 4, 32] [0, encDst d, 0, v.toNat] := ⟨by decide, hdl, by decide, v.isLt, trivial⟩
  have he : encOpnds sp ⟨d, .none, .w32 v, .none, {}⟩ = pack [4, 8, 4, 32] [0, encDst d, 0, v.toNat] := by
    simp only [encOpnds, pack, List.sum_cons, List.sum_nil]
    ring
  have hu := unpack_pack hfit
  rw [← he] at hu
  simp [unpack] at hu
  obtain ⟨h1, h2, h3, h4⟩ := hu
  refine ⟨hm, he ▸ pack_lt hfit, ?_⟩
  have hv : BitVec.ofNat 32 (encOpnds sp ⟨d, .none, .w32 v, .none, {}⟩) = v := by
    apply BitVec.eq_of_toNat_eq
    rw [← h4]
    simp [fld]
  rw [hdix] at hd
  simp only [decMovi, h1, h2, h3, hd, hv, hx]
  rfl

/-! ### Every operand set -/

/-- An operand B that is no immediate. -/
def Src.plain : Src → Bool
  | .imm _ | .w32 _ => false
  | _ => true

theorem Src.plain_of_wf {k : OKind} {pair ix : Bool} {s : Src} (h : s.wf k pair ix = true) : s.plain = true := by
  cases s <;> simp [wf] at h <;> rfl

theorem Src.eq_none_of_wf {pair ix : Bool} {s : Src} (h : s.wf .none pair ix = true) : s = .none := by
  cases s <;> simp [wf] at h
  rfl

theorem Dst.eq_none_of_wf {pair ix : Bool} {d : Dst} (h : d.wf .none pair ix = true) : d = .none := by
  cases d <;> simp [wf] at h
  rfl

/-- Without an immediate, the checks and the operand bits are those of the register form. -/
theorem wfOpnds_plain {sp : OpSpec} {ty : Ty} {o : Opnds} (hb : o.b.plain = true) :
    (wfOpnds sp ty o = true ↔ wfReg sp ty o = true ∧ sp.cross ≠ .movi) ∧ encOpnds sp o = (regFields sp o).toNat := by
  obtain ⟨d, a, b, c, m⟩ := o
  cases b <;> simp [Src.plain] at hb <;> refine ⟨?_, rfl⟩ <;> simp [wfOpnds, wfReg] <;> tauto

/-- TRET and TRET.SKIP have no operand bits (R257). -/
theorem wfOpnds_bare {sp : OpSpec} (hs : sp.Sane) (hb : sp.cross = .bare) {ty : Ty} {o : Opnds} :
    wfOpnds sp ty o = true ↔ o = ⟨.none, .none, .none, .none, {}⟩ := by
  obtain ⟨hd, ha, hb', hc, hk, hi⟩ := hs.bare hb
  obtain ⟨d, a, b, c, m⟩ := o
  constructor
  · intro h
    have hplain : b.plain = true := by
      cases b <;> simp [wfOpnds, wfImm, hi, hb] at h <;> rfl
    have hwf := ((wfOpnds_plain hplain).1.1 h).1
    simp only [wfReg, Bool.and_eq_true, hd, ha, hb', hc, hk, modsRep, beq_iff_eq] at hwf
    obtain ⟨⟨⟨⟨⟨⟨⟨⟨hwd, hwa⟩, -⟩, -⟩, -⟩, -⟩, hwb⟩, hwc⟩, hm⟩ := hwf
    rw [Dst.eq_none_of_wf hwd, Src.eq_none_of_wf hwa, Src.eq_none_of_wf hwb, Src.eq_none_of_wf hwc, hm]
  · intro h
    cases h
    simp [wfOpnds, hd, ha, hb', hc, hk, hi, hb, Dst.wf, Src.wf, modsRep, modsOk, crossOk, Opnds.oneIx, Dst.isIx, Src.isIx]

theorem encOpnds_bare {sp : OpSpec} (hk : sp.mods = .zero) : encOpnds sp ⟨.none, .none, .none, .none, {}⟩ = 0 := by
  simp [encOpnds, encSrc, encDst, encIx, encMods, hk, Raw48.toNat]

/-- The form that a word's operand bits have (R64, R68, R69, R257). -/
theorem decOpnds_reg {sp : OpSpec} {ty : Ty} {x : Nat} (hm : sp.cross ≠ .movi) (hb : sp.cross ≠ .bare) (hi : fld x 44 1 ≠ 1) :
    decOpnds sp ty x = decReg sp ty (Raw48.ofNat x) := by
  simp [decOpnds, hm, hb, hi]

theorem decOpnds_imm {sp : OpSpec} {ty : Ty} {x : Nat} (hm : sp.cross ≠ .movi) (hb : sp.cross ≠ .bare) (hi : fld x 44 1 = 1) :
    decOpnds sp ty x = decImm sp ty (Raw48.ofNat x) (fld x 0 28) := by
  simp [decOpnds, hm, hb, hi]

theorem decOpnds_bare {sp : OpSpec} {ty : Ty} {x : Nat} (hb : sp.cross = .bare) :
    decOpnds sp ty x = (⟨.none, .none, .none, .none, {}⟩, x == 0, true) := by
  simp [decOpnds, hb]

theorem decOpnds_movi {sp : OpSpec} {ty : Ty} {x : Nat} (hm : sp.cross = .movi) : decOpnds sp ty x = decMovi sp ty x := by
  simp [decOpnds, hm]

theorem opnds_codec {sp : OpSpec} (hs : sp.Sane) (ty : Ty) : FaceCodec (decOpnds sp ty) (wfOpnds sp ty) (encOpnds sp) where
  sound {x} hx hf hm := by
    by_cases hmv : sp.cross = .movi
    · rw [decOpnds_movi hmv] at hf ⊢
      exact decMovi_sound hs hx hmv hf
    by_cases hbr : sp.cross = .bare
    · rw [decOpnds_bare hbr] at hf ⊢
      exact ⟨(wfOpnds_bare hs hbr).2 rfl, (encOpnds_bare (hs.bare hbr).2.2.2.2.1).trans (beq_iff_eq.1 hf).symm⟩
    by_cases him : fld x 44 1 = 1
    · rw [decOpnds_imm hmv hbr him] at hf hm ⊢
      exact decImm_sound hs hx him hf hm
    · rw [decOpnds_reg hmv hbr him] at hf hm ⊢
      have hfit : Fits Raw48.widths (Raw48.ofNat x).vals := by
        rw [Raw48.vals_ofNat]
        exact fits_unpack _ _
      obtain ⟨hwf, henc⟩ := decReg_sound hs hfit (fld_eq_zero_of_ne_one him) hf hm
      have hb : (decReg sp ty (Raw48.ofNat x)).1.b.plain = true := by
        simp only [wfReg, Bool.and_eq_true] at hwf
        exact Src.plain_of_wf hwf.1.1.2
      obtain ⟨hiff, he⟩ := wfOpnds_plain (sp := sp) (ty := ty) hb
      exact ⟨hiff.2 ⟨hwf, hmv⟩, by rw [he, henc, Raw48.toNat_ofNat hx]⟩
  complete {o} h := by
    cases hb : o.b with
    | imm v =>
      obtain ⟨hlt, him, hd⟩ := decImm_complete hs hb h
      simp only [wfOpnds, hb, Bool.and_eq_true] at h
      have hx := hs.imCross (immAllowed_of_wf h.2).1
      exact ⟨hlt, (decOpnds_imm (by rcases hx with hx | hx <;> simp [hx]) (by rcases hx with hx | hx <;> simp [hx]) him).trans hd⟩
    | w32 v =>
      obtain ⟨hm, hlt, hd⟩ := decMovi_complete hs hb h
      exact ⟨hlt, (decOpnds_movi hm).trans hd⟩
    | _ =>
      obtain ⟨hiff, he⟩ := wfOpnds_plain (sp := sp) (ty := ty) (o := o) (by rw [hb]; rfl)
      obtain ⟨hwf, hmv⟩ := hiff.1 h
      by_cases hbr : sp.cross = .bare
      · obtain rfl := (wfOpnds_bare hs hbr).1 h
        rw [encOpnds_bare (hs.bare hbr).2.2.2.2.1, decOpnds_bare hbr]
        exact ⟨by decide, rfl⟩
      · obtain ⟨hfit, hd⟩ := decReg_complete hs hwf
        obtain ⟨hr, hlt⟩ := Raw48.ofNat_toNat hfit
        have him : fld (regFields sp o).toNat 44 1 = 0 := by rw [← Raw48.ofNat_im, hr]; rfl
        rw [he]
        exact ⟨hlt, by rw [decOpnds_reg hmv hbr (by simp [him]), hr, hd]⟩

end Sys2Proof
end

section
/-!
PROOF. The general form, and how the decoder finds an operation's form by its class and op (R64, R70, R73).
-/
namespace Sys2Proof

/-! ### The general form (R64, R70) -/

theorem encG_eq (cls op : Nat) (g : G) :
    encG cls op g = faceWords cls op g.ty.code g.face (encOpnds (opSpec cls op)) g.fa g.fb := by
  cases h : g.fb <;> simp [encG, faceWords, h]

theorem G.codec {cls op : Nat} (hcls : cls < 16) (hop : op < 64) (priv : Opnds → DecPriv) (mk : G → Instr) :
    Codec cls op (decG (opSpec cls op) mk priv) mk (wf (opSpec cls op)) (encG cls op) where
  sound {w ext i} hc ho hj h := by
    have hcodec := opnds_codec (opSpec_sane cls op) (Ty.ofCode (fld w.toNat 50 4))
    cases ext with
    | none =>
      obtain ⟨hf, hm, rfl⟩ := verdict_eq_ok.1 h
      simp only [Bool.and_eq_true, decide_eq_true_eq] at hf
      have hs := hcodec.sound_words hc ho (Ty.code_ofCode_fld _ _).symm (Face.code_ofCode_fld _ _).symm hj (Prod.ext hf.2 hm) (by simp)
      refine ⟨_, rfl, ?_, (encG_eq ..).trans hs.1⟩
      have hj := hj.1
      simp [wf, hf.1, hs.2.1, Face.ofCode_fld_eq_paired] at hj ⊢
      exact hj
    | some e =>
      obtain ⟨hf, hm, rfl⟩ := verdict_eq_ok.1 h
      simp only [Bool.and_eq_true, decide_eq_true_eq, beq_iff_eq] at hf hm
      have hs := hcodec.sound_words hc ho (Ty.code_ofCode_fld _ _).symm (Face.code_ofCode_fld _ _).symm hj (Prod.ext hf.1.1.2 hm.1)
        (by simpa using ⟨hf.2, Prod.ext hf.1.2 hm.2⟩)
      refine ⟨_, rfl, ?_, (encG_eq ..).trans hs.1⟩
      simp [wf, hf.1.1.1, hs.2.1, hs.2.2 e rfl, Face.ofCode_fld_eq_paired, hj.1]
  complete {w r g} hwf he := by
    have hcodec := opnds_codec (opSpec_sane cls op) g.ty
    rw [encG_eq] at he
    obtain ⟨ty, face, fa, fb⟩ := g
    simp only [wf, Bool.and_eq_true, decide_eq_true_eq] at hwf
    obtain ⟨⟨⟨hty, hfaces⟩, ha⟩, hb⟩ := hwf
    have hface : face = .paired ↔ fb.isSome = true := by cases fb <;> simp at hb ⊢ <;> simp [hb]
    have hwb : ∀ x ∈ fb, wfOpnds (opSpec cls op) ty x = true := by cases fb <;> simp at hb ⊢; simp [hb]
    obtain ⟨h1, h2, h3, h4, h5, ext, hr, hj, hx⟩ := hcodec.complete_words hcls hop ty.code_lt ha hwb hface he
    refine ⟨h1, h2, ext, hr, hj, ?_⟩
    rcases hx with ⟨rfl, rfl⟩ | ⟨e, x, rfl, rfl, h8, h9⟩
    · simp [decG, h3, h4, h5, hty, hfaces]
    · simp [decG, h3, h4, h5, h8, h9, hty, hfaces]

/-! ### Which decoder a word reaches (R57, R73) -/

/-- A word of an instruction class goes to the decoder of its class and op, with its extension when it is paired (R70). -/
theorem decodeWord_joined {w : W64} {ext : Option W64} (hc : 2 ≤ fld w.toNat 60 4 ∧ fld w.toNat 60 4 ≤ 12) (hj : Joined w ext) :
    decodeWord w ext = decInsn w (ext.map BitVec.toNat) := by
  obtain ⟨h2, h12⟩ := hc
  have h0 : fld w.toNat 60 4 ≠ 0 := by omega
  have h1 : fld w.toNat 60 4 ≠ 1 := by omega
  have h13 : fld w.toNat 60 4 ≠ 13 := by omega
  have h14 : fld w.toNat 60 4 ≠ 14 := by omega
  have h15 : fld w.toNat 60 4 ≠ 15 := by omega
  cases ext with
  | none =>
    have h3 : fld w.toNat 48 2 ≠ 3 := by simpa using hj.1
    simp [decodeWord, h0, h1, h13, h14, h15, h3]
  | some e =>
    have h3 : fld w.toNat 48 2 = 3 := hj.1.2 rfl
    simp [decodeWord, h0, h1, h13, h14, h15, h3, hj.2 e rfl]

/-- What the decoder makes of a word of an instruction class, it makes of the word and its extension. -/
theorem decodeWord_ok {w : W64} {x : Option W64} {i : Instr} (hc : 2 ≤ fld w.toNat 60 4 ∧ fld w.toNat 60 4 ≤ 12)
    (h : decodeWord w x = .ok i) :
    ∃ ext, Joined w ext ∧ decInsn w (ext.map BitVec.toNat) = .ok i ∧
      (if pairedWord w then w :: x.toList else [w]) = w :: ext.toList := by
  have hp : pairedWord w = (fld w.toNat 48 2 == 3) := by simp [pairedWord, hc]
  obtain ⟨h2, h12⟩ := hc
  have h0 : fld w.toNat 60 4 ≠ 0 := by omega
  have h1 : fld w.toNat 60 4 ≠ 1 := by omega
  have h13 : fld w.toNat 60 4 ≠ 13 := by omega
  have h14 : fld w.toNat 60 4 ≠ 14 := by omega
  have h15 : fld w.toNat 60 4 ≠ 15 := by omega
  simp only [decodeWord, beq_iff_eq, h0, h1, h13, h14, h15, if_false, Bool.or_self, beq_eq_false_iff_ne.2, Bool.false_eq_true,
    ne_eq, not_false_eq_true] at h
  rw [hp]
  split at h
  · rename_i h3
    cases x with
    | none => simp at h
    | some e =>
      simp only at h
      split at h
      · rename_i he
        exact ⟨some e, ⟨by simp [h3], by simpa using he⟩, h, by simp [h3]⟩
      · simp at h
  · rename_i h3
    exact ⟨none, ⟨by simpa using h3, by simp⟩, h, by simp [h3]⟩

/-- The instructions of the general form are those of their class and op (R73). -/
theorem gView_of_gCtor {cls op : Nat} {mk : G → Instr} (hc : cls ≤ 12) (ho : op < 64) (h : gCtor cls op = some mk) (g : G) :
    (mk g).gView = some (cls, op, g) := by
  interval_cases cls <;> interval_cases op <;> cases h <;> rfl

theorem gCtor_of_gView {cls op : Nat} {i : Instr} {g : G} (h : i.gView = some (cls, op, g)) :
    (2 ≤ cls ∧ cls ≤ 12) ∧ op < 64 ∧ ∃ mk, gCtor cls op = some mk ∧ i = mk g := by
  unfold Instr.gView at h
  split at h <;> cases h <;> exact ⟨by decide, by decide, _, rfl, rfl⟩

/-- The instructions of the memory form are those of their class and op (R73). -/
theorem mView_of_mCtor {cls op : Nat} {mk : MForm → Instr} (h : mCtor cls op = some mk) (m : MForm) :
    (mk m).gView = none ∧ (mk m).mView = some (cls, op, m) := by
  unfold mCtor at h
  split at h <;> cases h <;> exact ⟨rfl, rfl⟩

theorem mCtor_of_mView {cls op : Nat} {i : Instr} {m : MForm} (h : i.mView = some (cls, op, m)) :
    (2 ≤ cls ∧ cls ≤ 12) ∧ op < 64 ∧ gCtor cls op = none ∧ ∃ mk, mCtor cls op = some mk ∧ i = mk m := by
  unfold Instr.mView at h
  split at h <;> cases h <;> exact ⟨by decide, by decide, rfl, _, rfl, rfl⟩

/-- No general-form operation has the op numbers of CLMULL and CLMULH (R75). -/
theorem not_clmul_of_gCtor {cls op : Nat} {mk : G → Instr} (h : gCtor cls op = some mk) :
    ¬(cls = 2 ∧ op = 0x3E) ∧ ¬(cls = 2 ∧ op = 0x3F) := by
  constructor <;> rintro ⟨rfl, rfl⟩ <;> cases h

theorem not_clmul_of_mCtor {cls op : Nat} {mk : MForm → Instr} (h : mCtor cls op = some mk) : cls ≠ 2 := by
  rintro rfl
  cases h

section Reach
variable {w : W64} {ext : Option Nat} {cls op : Nat}

theorem decInsn_general {mk : G → Instr} (hc : fld w.toNat 60 4 = cls) (ho : fld w.toNat 54 6 = op) (hg : gCtor cls op = some mk) :
    decInsn w ext = decG (opSpec cls op) mk (gPriv cls op) w.toNat ext := by
  obtain ⟨h1, h2⟩ := not_clmul_of_gCtor hg
  simp [decInsn, hc, ho, hg, h1, h2]

theorem decInsn_memory {mk : MForm → Instr} {sp : MSpec} (hc : fld w.toNat 60 4 = cls) (ho : fld w.toNat 54 6 = op)
    (hg : gCtor cls op = none) (hm : mCtor cls op = some mk) (hs : mSpec cls op = some sp) :
    decInsn w ext = decM sp mk w.toNat ext := by
  simp [decInsn, hc, ho, hg, hm, hs, not_clmul_of_mCtor hm]

theorem decInsn_own {r : Except DecErr Instr} (hc : fld w.toNat 60 4 = cls) (ho : fld w.toNat 54 6 = op) (h2 : cls ≠ 2)
    (hg : gCtor cls op = none) (hm : mCtor cls op = none) (hd : decOwn cls op w.toNat ext = some r) : decInsn w ext = r := by
  simp [decInsn, hc, ho, hg, hm, hd, h2]

end Reach

/-! ### Instructions of the entries' own forms (R73) -/

section Own
variable {α : Type} {cls op : Nat} {dec : Nat → Option Nat → Except DecErr Instr} {mk : α → Instr} {wf : α → Bool}
  {enc : α → List W64}

/-- What a form's decoder accepts is well-formed, and encodes to its words. -/
theorem Codec.accepts (h : Codec cls op dec mk wf enc) (hwf : ∀ a, (mk a).wf = wf a) (henc : ∀ a, encode (mk a) = some (enc a))
    {w : W64} {ext : Option W64} {i : Instr} (hc : fld w.toNat 60 4 = cls) (ho : fld w.toNat 54 6 = op) (hj : Joined w ext)
    (hd : dec w.toNat (ext.map BitVec.toNat) = .ok i) : i.wf = true ∧ encode i = some (w :: ext.toList) := by
  obtain ⟨a, rfl, hw, he⟩ := h.sound hc ho hj hd
  exact ⟨(hwf a).trans hw, (henc a).trans (congrArg some he)⟩

/-- A form's well-formed instructions decode from their words, where its class and op reach its decoder. -/
theorem Codec.decodes (h : Codec cls op dec mk wf enc) (hcls : 2 ≤ cls ∧ cls ≤ 12)
    (hreach : ∀ {w : W64} {ext : Option Nat}, fld w.toNat 60 4 = cls → fld w.toNat 54 6 = op → decInsn w ext = dec w.toNat ext)
    {a : α} {w : W64} {r : List W64} (hw : wf a = true) (he : enc a = w :: r) : decodeWord w r.head? = .ok (mk a) := by
  obtain ⟨hc, ho, ext, rfl, hj, hd⟩ := h.complete hw he
  have hext : ext.toList.head? = ext := by cases ext <;> rfl
  rw [hext, decodeWord_joined (hc ▸ hcls) hj, hreach hc ho, hd]

end Own

/-- The operations with decoders of their own (R73). -/
theorem decOwn_accepts {w : W64} {ext : Option W64} {cls op : Nat} {i : Instr} (hc : fld w.toNat 60 4 = cls)
    (ho : fld w.toNat 54 6 = op) (hj : Joined w ext) (h : decOwn cls op w.toNat (ext.map BitVec.toNat) = some (.ok i)) :
    i.wf = true ∧ encode i = some (w :: ext.toList) := by
  unfold decOwn at h
  split at h <;> first | cases h | replace h := Option.some.inj h
  · exact CallForm.codec.accepts (fun _ => rfl) (fun _ => rfl) hc ho hj h
  · exact SpawnForm.codec.accepts (fun _ => rfl) (fun _ => rfl) hc ho hj h
  · exact RgrpForm.codec.accepts (fun _ => rfl) (fun _ => rfl) hc ho hj h
  · exact (LayForm.codec true).accepts (fun _ => rfl) (fun _ => rfl) hc ho hj h
  · exact (LayForm.codec false).accepts (fun _ => rfl) (fun _ => rfl) hc ho hj h
  · exact FenceForm.codec.accepts (fun _ => rfl) (fun _ => rfl) hc ho hj h
  · exact QfenceForm.codec.accepts (fun _ => rfl) (fun _ => rfl) hc ho hj h
  · exact (BarForm.codec (by decide) true .barSync).accepts (fun _ => rfl) (fun _ => rfl) hc ho hj h
  · exact (BarForm.codec (by decide) true .barArrive).accepts (fun _ => rfl) (fun _ => rfl) hc ho hj h
  · exact (BarForm.codec (by decide) false .barWait).accepts (fun _ => rfl) (fun _ => rfl) hc ho hj h
  · exact (MmaForm.codec (by decide) .mma).accepts (fun _ => rfl) (fun _ => rfl) hc ho hj h
  · exact (MmaForm.codec (by decide) .mmaz).accepts (fun _ => rfl) (fun _ => rfl) hc ho hj h
  · exact (Face.codec (by decide) (by decide) .mcommit).accepts (fun _ => rfl) (fun _ => rfl) hc ho hj h
  · exact (WaitForm.codec (by decide) (by decide) .mwait).accepts (fun _ => rfl) (fun _ => rfl) hc ho hj h
  · exact (MrwForm.codec (by decide) .mread).accepts (fun _ => rfl) (fun _ => rfl) hc ho hj h
  · exact (MrwForm.codec (by decide) .mwrite).accepts (fun _ => rfl) (fun _ => rfl) hc ho hj h
  · exact MzeroForm.codec.accepts (fun _ => rfl) (fun _ => rfl) hc ho hj h
  · exact MstoreForm.codec.accepts (fun _ => rfl) (fun _ => rfl) hc ho hj h
  · exact StfoldForm.codec.accepts (fun _ => rfl) (fun _ => rfl) hc ho hj h
  · exact CopyForm.codec.accepts (fun _ => rfl) (fun _ => rfl) hc ho hj h
  · exact (Face.codec (by decide) (by decide) .cseal).accepts (fun _ => rfl) (fun _ => rfl) hc ho hj h
  · exact (WaitForm.codec (by decide) (by decide) .cwait).accepts (fun _ => rfl) (fun _ => rfl) hc ho hj h
  · exact (codec_fork (by decide) .forkM).accepts (fun _ => rfl) (fun _ => rfl) hc ho hj h
  · exact (codec_fork (by decide) .forkC).accepts (fun _ => rfl) (fun _ => rfl) hc ho hj h
  · exact (Face.codec (by decide) (by decide) .rdv).accepts (fun _ => rfl) (fun _ => rfl) hc ho hj h
  · exact BcallForm.codec.accepts (fun _ => rfl) (fun _ => rfl) hc ho hj h
  all_goals exact (WvForm.codec (by decide) _).accepts (fun _ => rfl) (fun _ => rfl) hc ho hj h

end Sys2Proof
end

section
/-!
PROOF. Headers and words that trap at decode: their decoders, and when a word is one of them (R60 to R63, R74, R75).
-/
namespace Sys2Proof

/-! ### Headers (R60 to R63) -/

/-- The fields of an interval header (R60). -/
def IntervalHdr.vals (h : IntervalHdr) : List Nat :=
  [0, 0, h.r0.base, h.r0.count, h.r1.base, h.r1.count, h.r2.base, h.r2.count, h.r3.base, h.r3.count, h.wsel, bit h.wen, 0]

theorem encOwn_intervalHeader (h : IntervalHdr) : encOwn (.intervalHeader h) =
    some [BitVec.ofNat 64 (pack [4, 4, 8, 5, 8, 5, 8, 5, 8, 5, 2, 1, 1] h.vals)] := by
  refine congrArg (fun n => some [BitVec.ofNat 64 n]) ?_
  simp only [encRange, IntervalHdr.vals, pack, List.sum_cons, List.sum_nil]
  omega

theorem decInterval_sound {w : W64} {i : Instr} (hc : fld w.toNat 60 4 = 0) (h : decInterval w.toNat = .ok i) :
    ∃ a : IntervalHdr, i = .intervalHeader a ∧ a.wf = true ∧ encOwn i = some [w] := by
  simp only [decInterval] at h
  split at h
  · rename_i hf
    split at h
    · rename_i hok
      cases h
      refine ⟨_, rfl, ?_, ?_⟩
      · simp [IntervalHdr.ranges] at hf
        have hall := hok
        simp [IntervalHdr.contentsOk, IntervalHdr.ranges] at hall
        have h5 (lo : Nat) : fld w.toNat lo 5 < 32 := fld_lt _ lo 5
        simp [IntervalHdr.wf, IntervalHdr.ranges, Range.wf, hok, h5]
        have := fld_lt w.toNat 2 2
        simp [hf, hall]
        omega
      · simp at hf
        rw [encOwn_intervalHeader]
        exact congrArg (some [·]) (ofNat_pack rfl (by simp [unpack, IntervalHdr.vals, hc, hf]))
    · cases h
  · cases h

theorem decInterval_complete {w : W64} {r : List W64} {a : IntervalHdr} (hwf : a.wf = true)
    (he : encOwn (.intervalHeader a) = some (w :: r)) :
    fld w.toNat 60 4 = 0 ∧ decInterval w.toNat = .ok (.intervalHeader a) := by
  rw [encOwn_intervalHeader] at he
  obtain ⟨rfl, -⟩ := List.cons.inj (Option.some.inj he)
  obtain ⟨⟨b0, c0⟩, ⟨b1, c1⟩, ⟨b2, c2⟩, ⟨b3, c3⟩, wsel, wen⟩ := a
  simp only [IntervalHdr.wf, Bool.and_eq_true, decide_eq_true_eq] at hwf
  obtain ⟨⟨⟨hr, hws⟩, hwen⟩, hok⟩ := hwf
  simp [IntervalHdr.ranges, Range.wf] at hr
  have hfit : Fits [4, 4, 8, 5, 8, 5, 8, 5, 8, 5, 2, 1, 1] (IntervalHdr.vals ⟨⟨b0, c0⟩, ⟨b1, c1⟩, ⟨b2, c2⟩, ⟨b3, c3⟩, wsel, wen⟩) := by
    simp [Fits, IntervalHdr.vals, hr]
    omega
  have hu := unpack_ofNat (m := 64) rfl hfit
  simp only [unpack, IntervalHdr.vals, List.cons.injEq, List.sum_cons, List.sum_nil, Nat.reduceAdd] at hu
  obtain ⟨h0, h1, h2, h3, h4, h5, h6, h7, h8, h9, h10, h11, h12, -⟩ := hu
  refine ⟨h0, ?_⟩
  have hempty : (c0 ≠ 0 ∨ b0 = 0) ∧ (c1 ≠ 0 ∨ b1 = 0) ∧ (c2 ≠ 0 ∨ b2 = 0) ∧ (c3 ≠ 0 ∨ b3 = 0) := by simp [hr]
  simp only [decInterval, IntervalHdr.vals, h1, h2, h3, h4, h5, h6, h7, h8, h9, h10, h11, h12, bit_beq_one, hok, hwen]
  simp [IntervalHdr.ranges, hempty]

theorem setOk_lt {n : Nat} (h : setOk n = true) : n < 16 := by
  simp [setOk] at h
  omega

theorem exists_of_length_eight {l : List Nat} (h : l.length = 8) : ∃ a b c d e f g k, l = [a, b, c, d, e, f, g, k] :=
  match l, h with
  | [a, b, c, d, e, f, g, k], _ => ⟨a, b, c, d, e, f, g, k, rfl⟩

/-- The fields of a clause header (R62). -/
def ClauseHdr.vals (h : ClauseHdr) : List Nat := [1, h.wait, h.setA, h.setB, h.len] ++ h.stalls ++ [bit h.yield, 0]

/-- The widths of the fields of a clause header (R62). -/
def ClauseHdr.widths : List Nat := [4, 12, 4, 4, 3, 4, 4, 4, 4, 4, 4, 4, 4, 1, 4]

theorem encOwn_clauseHeader {h : ClauseHdr} (hl : h.stalls.length = 8) :
    encOwn (.clauseHeader h) = some [BitVec.ofNat 64 (pack ClauseHdr.widths h.vals)] := by
  obtain ⟨wait, setA, setB, len, stalls, yield⟩ := h
  obtain ⟨s0, s1, s2, s3, s4, s5, s6, s7, rfl⟩ := exists_of_length_eight hl
  refine congrArg (fun n => some [BitVec.ofNat 64 n]) ?_
  simp only [ClauseHdr.widths, ClauseHdr.vals, pack, List.sum_cons, List.sum_nil, List.foldl, List.cons_append, List.nil_append]
  omega

theorem decClause_sound {w : W64} {i : Instr} (hc : fld w.toNat 60 4 = 1) (h : decClause w.toNat = .ok i) :
    ∃ a : ClauseHdr, i = .clauseHeader a ∧ a.wf = true ∧ encOwn i = some [w] := by
  simp only [decClause] at h
  split at h
  · rename_i hf
    split at h
    · rename_i hok
      cases h
      simp only [Bool.and_eq_true, beq_iff_eq] at hf hok
      refine ⟨_, rfl, ?_, ?_⟩
      · simp only [ClauseHdr.wf, hok, hf.2]
        have h4 (lo : Nat) : fld w.toNat lo 4 < 16 := fld_lt _ lo 4
        have h12 : fld w.toNat 48 12 < 4096 := fld_lt _ 48 12
        simp [h4, h12]
      · rw [encOwn_clauseHeader rfl]
        exact congrArg (some [·]) (ofNat_pack rfl (by simp [unpack, ClauseHdr.widths, ClauseHdr.vals, hc, hf]))
    · cases h
  · cases h

theorem decClause_complete {w : W64} {r : List W64} {a : ClauseHdr} (hwf : a.wf = true)
    (he : encOwn (.clauseHeader a) = some (w :: r)) :
    fld w.toNat 60 4 = 1 ∧ decClause w.toNat = .ok (.clauseHeader a) := by
  simp only [ClauseHdr.wf, Bool.and_eq_true, decide_eq_true_eq, beq_iff_eq] at hwf
  obtain ⟨⟨⟨⟨⟨⟨⟨hwait, hA⟩, hB⟩, hAB⟩, hlen⟩, hl⟩, hst⟩, hz⟩ := hwf
  rw [encOwn_clauseHeader hl] at he
  obtain ⟨rfl, -⟩ := List.cons.inj (Option.some.inj he)
  obtain ⟨wait, setA, setB, len, stalls, yield⟩ := a
  obtain ⟨s0, s1, s2, s3, s4, s5, s6, s7, rfl⟩ := exists_of_length_eight hl
  have hA' := setOk_lt hA
  have hB' := setOk_lt hB
  simp at hst hwait hlen
  have hfit : Fits ClauseHdr.widths (ClauseHdr.vals ⟨wait, setA, setB, len, [s0, s1, s2, s3, s4, s5, s6, s7], yield⟩) := by
    simp [Fits, ClauseHdr.vals, ClauseHdr.widths, hst, hwait, hlen, hA', hB']
  have hu := unpack_ofNat (m := 64) rfl hfit
  simp only [unpack, ClauseHdr.widths, ClauseHdr.vals, List.cons.injEq, List.sum_cons, List.sum_nil, Nat.reduceAdd,
    List.cons_append, List.nil_append] at hu
  obtain ⟨h0, h1, h2, h3, h4, h5, h6, h7, h8, h9, h10, h11, h12, h13, h14, -⟩ := hu
  refine ⟨h0, ?_⟩
  simp only [decClause, ClauseHdr.widths, ClauseHdr.vals, List.cons_append, List.nil_append, h1, h2, h3, h4, h5, h6, h7, h8, h9,
    h10, h11, h12, h13, h14, bit_beq_one, hz, hA, hB, hAB]
  rfl

/-! ### Words without an operation (R57, R74, R75) -/

/-- Whether a class and op have a decoder of their own does not depend on the word. -/
theorem decOwn_isSome (cls op n : Nat) (ext : Option Nat) : (decOwn cls op n ext).isSome = (decOwn cls op 0 none).isSome := by
  unfold decOwn
  split <;> rfl

/-- A word that is paired stands with an extension whose operand bits do not count. -/
theorem joined_encExt_zero {w : W64} (hc : 2 ≤ fld w.toNat 60 4 ∧ fld w.toNat 60 4 ≤ 12) :
    Joined w (if pairedWord w then some (encExt 0) else none) := by
  have hp : pairedWord w = (fld w.toNat 48 2 == 3) := by simp [pairedWord, hc]
  have he : fld (encExt 0).toNat 60 4 = 14 := (fld_encExt (by decide)).1
  rw [hp]
  by_cases h : fld w.toNat 48 2 = 3
  · refine ⟨by simp [h], ?_⟩
    simp [h, he]
  · exact ⟨by simp [h], by simp [h]⟩

/-- A word without an operation decodes as `i` where its class and op reach no decoder. -/
theorem decodeWord_encExt_zero {w : W64} {r : List W64} {i : Instr} (hc : 2 ≤ fld w.toNat 60 4 ∧ fld w.toNat 60 4 ≤ 12)
    (hr : (if pairedWord w then [encExt 0] else []) = r) (h : ∀ ext, decInsn w ext = .ok i) : decodeWord w r.head? = .ok i := by
  have hext : r.head? = if pairedWord w then some (encExt 0) else none := by
    rw [← hr]
    split <;> rfl
  rw [hext, decodeWord_joined hc (joined_encExt_zero hc), h]

/-- A word whose op its class does not define is an illegal word (R74). -/
theorem decInsn_illegal {w : W64} (h : opDefined (fld w.toNat 60 4) (fld w.toNat 54 6) = false) (ext : Option Nat) :
    decInsn w ext = .ok (.illegalWord w) := by
  simp only [opDefined, Bool.or_eq_false_iff, Bool.and_eq_false_iff] at h
  obtain ⟨⟨⟨hg, hm⟩, ho⟩, hcl⟩ := h
  rw [← decOwn_isSome _ _ w.toNat ext] at ho
  simp only [Option.isSome_eq_false_iff, Option.isNone_iff_eq_none] at hg hm ho
  have h1 : ¬(fld w.toNat 60 4 = 2 ∧ fld w.toNat 54 6 = 0x3E) := by
    rintro ⟨h2, h3⟩
    simp [h2, h3] at hcl
  have h2 : ¬(fld w.toNat 60 4 = 2 ∧ fld w.toNat 54 6 = 0x3F) := by
    rintro ⟨h2, h3⟩
    simp [h2, h3] at hcl
  simp only [decInsn, hg, ho, Bool.and_eq_true, beq_iff_eq, h1, h2, if_false]
  rcases hm with hm | hm <;> rw [hm]
  cases mCtor (fld w.toNat 60 4) (fld w.toNat 54 6) <;> rfl

theorem decodeWord_illegal {w : W64} {r : List W64} (hw : reservedWord w = true)
    (hr : (if pairedWord w then [encExt 0] else []) = r) : decodeWord w r.head? = .ok (.illegalWord w) := by
  simp only [reservedWord, Bool.or_eq_true, Bool.and_eq_true, beq_iff_eq, decide_eq_true_eq, Bool.not_eq_true'] at hw
  obtain (hc | hc) | ⟨hc, ho⟩ := hw
  · simp [decodeWord, hc]
  · simp [decodeWord, hc]
  · exact decodeWord_encExt_zero hc hr (decInsn_illegal ho)

theorem decodeWord_clmul {w : W64} {r : List W64} (hc : fld w.toNat 60 4 = 2) (hr : (if pairedWord w then [encExt 0] else []) = r) :
    (fld w.toNat 54 6 = 0x3E → decodeWord w r.head? = .ok (.clmull w)) ∧
      (fld w.toNat 54 6 = 0x3F → decodeWord w r.head? = .ok (.clmulh w)) :=
  ⟨fun ho => decodeWord_encExt_zero (by omega) hr fun ext => by simp [decInsn, hc, ho],
    fun ho => decodeWord_encExt_zero (by omega) hr fun ext => by simp [decInsn, hc, ho]⟩

end Sys2Proof
end

section
/-!
PROOF. Decode and encode are inverse to each other (O1, O2).
-/
namespace Sys2Proof
open Claims

/-! ### Decoding what was encoded (O1) -/

/-- A form whose class and op reach its own decoder decodes from its words. -/
theorem Codec.decodes_own {α : Type} {cls op : Nat} {dec : Nat → Option Nat → Except DecErr Instr} {mk : α → Instr} {wf : α → Bool}
    {enc : α → List W64} (h : Codec cls op dec mk wf enc) (hcls : 2 < cls ∧ cls ≤ 12) (hg : gCtor cls op = none)
    (hm : mCtor cls op = none) (hd : ∀ n ext, decOwn cls op n ext = some (dec n ext)) {a : α} {w : W64} {r : List W64}
    (hw : wf a = true) (he : enc a = w :: r) : decodeWord w r.head? = .ok (mk a) :=
  h.decodes ⟨hcls.1.le, hcls.2⟩ (fun hc ho => decInsn_own hc ho hcls.1.ne' hg hm (hd _ _)) hw he

/-- Headers, illegal words and the entries' own forms decode from their words. -/
theorem encOwn_decodes {i : Instr} {w : W64} {r : List W64} (hwf : wfOwn i = true) (he : encOwn i = some (w :: r)) :
    decodeWord w r.head? = .ok i := by
  unfold encOwn at he
  split at he
  · obtain ⟨hc, hd⟩ := decInterval_complete hwf he
    simpa [decodeWord, hc] using hd
  · obtain ⟨hc, hd⟩ := decClause_complete hwf he
    simpa [decodeWord, hc] using hd
  · obtain ⟨rfl, hr⟩ := List.cons.inj (Option.some.inj he)
    exact decodeWord_illegal hwf hr
  · obtain ⟨rfl, hr⟩ := List.cons.inj (Option.some.inj he)
    simp only [wfOwn, Bool.and_eq_true, beq_iff_eq] at hwf
    exact (decodeWord_clmul hwf.1 hr).1 hwf.2
  · obtain ⟨rfl, hr⟩ := List.cons.inj (Option.some.inj he)
    simp only [wfOwn, Bool.and_eq_true, beq_iff_eq] at hwf
    exact (decodeWord_clmul hwf.1 hr).2 hwf.2
  · exact CallForm.codec.decodes_own (by decide) rfl rfl (fun _ _ => rfl) hwf (Option.some.inj he)
  · exact SpawnForm.codec.decodes_own (by decide) rfl rfl (fun _ _ => rfl) hwf (Option.some.inj he)
  · exact RgrpForm.codec.decodes_own (by decide) rfl rfl (fun _ _ => rfl) hwf (Option.some.inj he)
  · exact (LayForm.codec true).decodes_own (by decide) rfl rfl (fun _ _ => rfl) hwf (Option.some.inj he)
  · exact (LayForm.codec false).decodes_own (by decide) rfl rfl (fun _ _ => rfl) hwf (Option.some.inj he)
  · exact FenceForm.codec.decodes_own (by decide) rfl rfl (fun _ _ => rfl) hwf (Option.some.inj he)
  · exact QfenceForm.codec.decodes_own (by decide) rfl rfl (fun _ _ => rfl) hwf (Option.some.inj he)
  · exact (BarForm.codec (by decide) true .barSync).decodes_own (by decide) rfl rfl (fun _ _ => rfl) hwf (Option.some.inj he)
  · exact (BarForm.codec (by decide) true .barArrive).decodes_own (by decide) rfl rfl (fun _ _ => rfl) hwf (Option.some.inj he)
  · exact (BarForm.codec (by decide) false .barWait).decodes_own (by decide) rfl rfl (fun _ _ => rfl) hwf (Option.some.inj he)
  · exact (MmaForm.codec (by decide) .mma).decodes_own (by decide) rfl rfl (fun _ _ => rfl) hwf (Option.some.inj he)
  · exact (MmaForm.codec (by decide) .mmaz).decodes_own (by decide) rfl rfl (fun _ _ => rfl) hwf (Option.some.inj he)
  · exact (Face.codec (by decide) (by decide) .mcommit).decodes_own (by decide) rfl rfl (fun _ _ => rfl) hwf (Option.some.inj he)
  · exact (WaitForm.codec (by decide) (by decide) .mwait).decodes_own (by decide) rfl rfl (fun _ _ => rfl) hwf (Option.some.inj he)
  · exact (MrwForm.codec (by decide) .mread).decodes_own (by decide) rfl rfl (fun _ _ => rfl) hwf (Option.some.inj he)
  · exact (MrwForm.codec (by decide) .mwrite).decodes_own (by decide) rfl rfl (fun _ _ => rfl) hwf (Option.some.inj he)
  · exact MzeroForm.codec.decodes_own (by decide) rfl rfl (fun _ _ => rfl) hwf (Option.some.inj he)
  · exact MstoreForm.codec.decodes_own (by decide) rfl rfl (fun _ _ => rfl) hwf (Option.some.inj he)
  · exact StfoldForm.codec.decodes_own (by decide) rfl rfl (fun _ _ => rfl) hwf (Option.some.inj he)
  · exact CopyForm.codec.decodes_own (by decide) rfl rfl (fun _ _ => rfl) hwf (Option.some.inj he)
  · exact (Face.codec (by decide) (by decide) .cseal).decodes_own (by decide) rfl rfl (fun _ _ => rfl) hwf (Option.some.inj he)
  · exact (WaitForm.codec (by decide) (by decide) .cwait).decodes_own (by decide) rfl rfl (fun _ _ => rfl) hwf (Option.some.inj he)
  · exact (codec_fork (by decide) .forkM).decodes_own (by decide) rfl rfl (fun _ _ => rfl) (a := (_, _)) hwf (Option.some.inj he)
  · exact (codec_fork (by decide) .forkC).decodes_own (by decide) rfl rfl (fun _ _ => rfl) (a := (_, _)) hwf (Option.some.inj he)
  · exact (Face.codec (by decide) (by decide) .rdv).decodes_own (by decide) rfl rfl (fun _ _ => rfl) hwf (Option.some.inj he)
  · exact BcallForm.codec.decodes_own (by decide) rfl rfl (fun _ _ => rfl) hwf (Option.some.inj he)
  · exact (WvForm.codec (by decide) .evpop).decodes_own (by decide) rfl rfl (fun _ _ => rfl) hwf (Option.some.inj he)
  · exact (WvForm.codec (by decide) .tkclaim).decodes_own (by decide) rfl rfl (fun _ _ => rfl) hwf (Option.some.inj he)
  · exact (WvForm.codec (by decide) .symwalk).decodes_own (by decide) rfl rfl (fun _ _ => rfl) hwf (Option.some.inj he)
  · exact (WvForm.codec (by decide) .slewStart).decodes_own (by decide) rfl rfl (fun _ _ => rfl) hwf (Option.some.inj he)
  · exact (WvForm.codec (by decide) .slewQuery).decodes_own (by decide) rfl rfl (fun _ _ => rfl) hwf (Option.some.inj he)
  · exact (WvForm.codec (by decide) .ckpt).decodes_own (by decide) rfl rfl (fun _ _ => rfl) hwf (Option.some.inj he)
  · cases he

/-- Settles O1: each form's decoder reads back the fields that its encoder lays out, and the form's class and op lead the
decoder to it. -/
theorem decodeEncodeInverse : Obligations.DecodeEncodeInverse := by
  unfold Obligations.DecodeEncodeInverse
  intro i w r hwf he
  unfold encode at he
  unfold Instr.wf at hwf
  cases hg : i.gView with
  | some v =>
    obtain ⟨cls, op, g⟩ := v
    obtain ⟨hcls, hop, mk, hctor, rfl⟩ := gCtor_of_gView hg
    rw [hg] at he hwf
    exact (G.codec (by omega) hop (gPriv cls op) mk).decodes hcls (fun hc ho => decInsn_general hc ho hctor) hwf (Option.some.inj he)
  | none =>
    cases hm : i.mView with
    | some v =>
      obtain ⟨cls, op, m⟩ := v
      obtain ⟨hcls, hop, hnone, mk, hctor, rfl⟩ := mCtor_of_mView hm
      rw [hg, hm] at he hwf
      cases hs : mSpec cls op with
      | none => simp [hs] at hwf
      | some sp =>
        simp only [hs] at hwf
        exact (MForm.codec (by omega) hop sp mk).decodes hcls (fun hc ho => decInsn_memory hc ho hnone hctor hs) hwf
          (Option.some.inj he)
    | none =>
      rw [hg, hm] at he hwf
      exact encOwn_decodes hwf he

end Sys2Proof
end

section
/-!
PROOF. What the decoders accept is well-formed, and its encoding is the word that it came from (O2).
-/
namespace Sys2Proof
open Claims

/-! ### Words of code (R57, R64 to R75) -/

/-- A class and op that no decoder knows are no operation (R74). -/
theorem opDefined_eq_false {cls op n : Nat} {ext : Option Nat} (hg : gCtor cls op = none)
    (hm : ∀ mk sp, mCtor cls op = some mk → mSpec cls op = some sp → False) (ho : decOwn cls op n ext = none)
    (hcl : ¬(cls = 2 ∧ op = 0x3E)) (hch : ¬(cls = 2 ∧ op = 0x3F)) (hop : op < 64) : opDefined cls op = false := by
  have hown : (decOwn cls op 0 none).isSome = false := by rw [← decOwn_isSome cls op n ext, ho]; rfl
  have hmem : ((mCtor cls op).isSome && (mSpec cls op).isSome) = false := by
    cases hc : mCtor cls op with
    | none => rfl
    | some mk => cases hs : mSpec cls op with
      | none => rfl
      | some sp => exact (hm mk sp hc hs).elim
  have hlast : (cls == 2 && decide (0x3E ≤ op)) = false := by
    simp only [Bool.and_eq_false_iff, beq_eq_false_iff_ne, decide_eq_false_iff_not]
    omega
  rw [opDefined, hg, hmem, hown, hlast]
  rfl

/-- What the decoder makes of an instruction word is well-formed, and an operation encodes to the word and its extension. -/
theorem decInsn_accepts {w : W64} {ext : Option W64} {i : Instr} (hcls : 2 ≤ fld w.toNat 60 4 ∧ fld w.toNat 60 4 ≤ 12)
    (hj : Joined w ext) (h : decInsn w (ext.map BitVec.toNat) = .ok i) :
    i.wf = true ∧ ((∀ w, i ≠ .illegalWord w ∧ i ≠ .clmull w ∧ i ≠ .clmulh w) → encode i = some (w :: ext.toList)) := by
  have hop := fld_lt w.toNat 54 6
  obtain ⟨cls, hc⟩ : ∃ cls, fld w.toNat 60 4 = cls := ⟨_, rfl⟩
  obtain ⟨op, ho⟩ : ∃ op, fld w.toNat 54 6 = op := ⟨_, rfl⟩
  rw [hc] at hcls
  rw [ho] at hop
  simp only [decInsn, hc, ho, Bool.and_eq_true, beq_iff_eq] at h
  split at h
  · next hcl =>
    cases h
    exact ⟨by simp [Instr.wf, Instr.gView, Instr.mView, wfOwn, hc, ho, hcl], fun hne => absurd rfl (hne w).2.1⟩
  next hcl =>
  split at h
  · next hch =>
    cases h
    exact ⟨by simp [Instr.wf, Instr.gView, Instr.mView, wfOwn, hc, ho, hch], fun hne => absurd rfl (hne w).2.2⟩
  next hch =>
  cases hg : gCtor cls op with
  | some mk =>
    rw [hg] at h
    have hv := gView_of_gCtor hcls.2 hop hg
    obtain ⟨hw, he⟩ := (G.codec (by omega) hop (gPriv cls op) mk).accepts (fun g => by simp only [Instr.wf, hv])
      (fun g => by simp only [encode, hv]) hc ho hj h
    exact ⟨hw, fun _ => he⟩
  | none =>
    rw [hg] at h
    simp only at h
    split at h
    · next mk sp hm hs =>
      have hv := mView_of_mCtor hm
      obtain ⟨hw, he⟩ := (MForm.codec (by omega) hop sp mk).accepts (fun m => by simp only [Instr.wf, hv, hs])
        (fun m => by simp only [encode, hv]) hc ho hj h
      exact ⟨hw, fun _ => he⟩
    · next hm =>
      cases hd : decOwn cls op w.toNat (ext.map BitVec.toNat) with
      | some r =>
        rw [hd] at h
        obtain ⟨hw, he⟩ := decOwn_accepts hc ho hj (hd.trans (congrArg some h))
        exact ⟨hw, fun _ => he⟩
      | none =>
        rw [hd] at h
        cases h
        have hdef := opDefined_eq_false hg hm hd hcl hch hop
        exact ⟨by simp [Instr.wf, Instr.gView, Instr.mView, wfOwn, reservedWord, hc, ho, hcls, hdef],
          fun hne => absurd rfl (hne w).1⟩

/-- A header or a word of a reserved class is not paired (R57, R58). -/
theorem pairedWord_eq_false {w : W64} (h : ¬(2 ≤ fld w.toNat 60 4 ∧ fld w.toNat 60 4 ≤ 12)) : pairedWord w = false := by
  simp only [pairedWord, Bool.and_eq_false_iff, decide_eq_false_iff_not]
  omega

/-- What the decoder accepts is well-formed, and its encoding is the word that it came from. -/
theorem decodedIsWellFormed : DecodedIsWellFormed := by
  intro w x i h
  by_cases hcls : 2 ≤ fld w.toNat 60 4 ∧ fld w.toNat 60 4 ≤ 12
  · obtain ⟨ext, hj, hd, hw⟩ := decodeWord_ok hcls h
    rw [hw]
    exact decInsn_accepts hcls hj hd
  · rw [pairedWord_eq_false hcls]
    have hlt := fld_lt w.toNat 60 4
    have hc : fld w.toNat 60 4 = 0 ∨ fld w.toNat 60 4 = 1 ∨ fld w.toNat 60 4 = 14 ∨ fld w.toNat 60 4 = 13 ∨
        fld w.toNat 60 4 = 15 := by omega
    obtain hc | hc | hc | hc := hc
    · simp only [decodeWord, hc] at h
      obtain ⟨a, rfl, hw, he⟩ := decInterval_sound hc h
      exact ⟨hw, fun _ => he⟩
    · simp only [decodeWord, hc] at h
      obtain ⟨a, rfl, hw, he⟩ := decClause_sound hc h
      exact ⟨hw, fun _ => he⟩
    · simp [decodeWord, hc] at h
    · have hi : i = .illegalWord w := by
        obtain hc | hc := hc <;> simpa [decodeWord, hc, eq_comm] using h
      subst hi
      exact ⟨by simp [Instr.wf, Instr.gView, Instr.mView, wfOwn, reservedWord, hc], fun hne => absurd rfl (hne w).1⟩

/-! ### Words of bank programs (R211) -/

namespace RawBank

/-- The fields of a bank word from the highest down (R211). -/
def vals (r : RawBank) : List Nat := [r.op, r.d, r.a, r.b, r.c, r.xf]

/-- The widths of the fields of a bank word (R211). -/
def widths : List Nat := [5, 3, 3, 3, 3, 15]

theorem toNat_eq (r : RawBank) : r.toNat = pack widths r.vals := by
  simp only [toNat, widths, vals, pack, List.sum_cons, List.sum_nil]
  omega

/-- A bank word is its fields laid out. -/
theorem toNat_ofNat (x : W32) : BitVec.ofNat 32 (ofNat x.toNat).toNat = x := by
  rw [toNat_eq]
  exact ofNat_pack rfl rfl

/-- Fields laid out in a bank word are read back from it. -/
theorem ofNat_toNat {r : RawBank} (h : Fits widths r.vals) : ofNat (BitVec.ofNat 32 r.toNat).toNat = r := by
  have hu := unpack_ofNat (m := 32) rfl h
  rw [← toNat_eq] at hu
  simp only [unpack, widths, vals, List.cons.injEq] at hu
  obtain ⟨hop, hd, ha, hb, hc, hxf, -⟩ := hu
  cases r
  simp_all [ofNat]

end RawBank

/-- The row offset of XF is its low 13 bits (R211). -/
theorem toNat_rowOffset (x : Nat) : (BitVec.ofNat 13 x).toNat = fld x 0 13 := by
  rw [BitVec.toNat_ofNat, fld, pow_zero, Nat.div_one]

theorem encRow_eq (r : RowRef) : encRow r = pack [1, 1, 13] [0, bit r.x, r.off.toNat] := by
  simp [encRow, pack]

/-- An XF whose bit 14 is zero is that of the row reference read from it (R211). -/
theorem encRow_decode {x : Nat} (hx : x < 2 ^ 15) (h : fld x 14 1 = 0) :
    encRow ⟨fld x 13 1 == 1, BitVec.ofNat 13 x⟩ = x := by
  have hu : [0, bit (fld x 13 1 == 1), (BitVec.ofNat 13 x).toNat] = unpack [1, 1, 13] x := by
    rw [bit_fld, toNat_rowOffset]
    exact congrArg (List.cons · _) h.symm
  rw [encRow_eq, hu, pack_unpack]
  exact Nat.mod_eq_of_lt hx

/-- The fields of a row reference's XF (R211). -/
theorem unpack_encRow (r : RowRef) : unpack [1, 1, 13] (encRow r) = [0, bit r.x, r.off.toNat] := by
  rw [encRow_eq]
  exact unpack_pack ⟨by decide, Nat.lt_succ_of_le (bit_le_one r.x), r.off.isLt, trivial⟩

theorem encRow_lt (r : RowRef) : encRow r < 2 ^ 14 := by
  have hx := bit_le_one r.x
  have ho := r.off.isLt
  rw [encRow]
  omega

theorem fld_encRow (r : RowRef) : fld (encRow r) 14 1 = 0 := (List.cons.inj (unpack_encRow r)).1

/-- A row reference is read back from its XF (R211). -/
theorem decode_encRow (r : RowRef) : (⟨fld (encRow r) 13 1 == 1, BitVec.ofNat 13 (encRow r)⟩ : RowRef) = r := by
  obtain ⟨-, hx, ho⟩ : fld (encRow r) 14 1 = 0 ∧ fld (encRow r) 13 1 = bit r.x ∧ fld (encRow r) 0 13 = r.off.toNat := by
    simpa [unpack] using unpack_encRow r
  rw [hx, bit_beq_one]
  congr 1
  exact BitVec.eq_of_toNat_eq ((toNat_rowOffset _).trans ho)

/-- XF of an operation with J holds no other bit, so that it is J (R211). -/
theorem fld_two_eq_zero {x : Nat} (hx : x < 2 ^ 15) : fld x 2 13 = 0 ↔ x < 4 := by
  simp only [fld]
  omega

theorem fld_zero_two {j : Nat} (h : j < 4) : fld j 0 2 = j := by
  simp only [fld]
  omega

/-- A bank word decodes to a well-formed instruction with the word's fields (R211 to R213). -/
theorem decodeBank_accepts {i : Instr} {x : W32} (h : decodeBank x = some i) :
    i.wf = true ∧ bankFields i = some (RawBank.ofNat x.toNat) := by
  have hfit : Fits RawBank.widths (RawBank.ofNat x.toNat).vals := fits_unpack RawBank.widths x.toNat
  unfold decodeBank at h
  generalize RawBank.ofNat x.toNat = r at h hfit
  obtain ⟨op, d, a, b, c, xf⟩ := r
  obtain ⟨-, hd, ha, hb, hc, hxf, -⟩ := hfit
  simp only at hd ha hb hc hxf h
  split at h <;> simp only [Option.ite_none_right_eq_some, Bool.and_eq_true, beq_iff_eq, bne_iff_ne, Bool.or_eq_true,
    Option.some.injEq, reduceCtorEq] at h
  all_goals
    obtain ⟨hz, rfl⟩ := h
    simp_all [Instr.wf, Instr.gView, Instr.mView, wfOwn, rowOk, bankFields, fld_two_eq_zero, fld_zero_two, encRow_decode]
  case h_13 =>
    obtain ⟨⟨⟨-, hj⟩, h3⟩, hb⟩ := hz
    rw [fld_zero_two hj] at h3 hb
    exact ⟨by omega, hb⟩

theorem fits_bankFields {i : Instr} {r : RawBank} (hwf : i.wf = true) (h : bankFields i = some r) : Fits RawBank.widths r.vals := by
  unfold bankFields at h
  split at h <;> cases h <;> simp [Instr.wf, Instr.gView, Instr.mView, wfOwn, rowOk] at hwf <;>
    simp [Fits, RawBank.widths, RawBank.vals]
  case h_2 r | h_3 r =>
    have hx := encRow_lt r
    omega
  all_goals omega

/-- The word of a well-formed bank instruction's fields decodes to it (R211 to R213). -/
theorem decodeBank_toNat {i : Instr} {r : RawBank} (hwf : i.wf = true) (h : bankFields i = some r) :
    decodeBank (BitVec.ofNat 32 r.toNat) = some i := by
  have hfit := fits_bankFields hwf h
  unfold decodeBank
  rw [RawBank.ofNat_toNat hfit]
  unfold bankFields at h
  split at h <;> cases h <;> simp [Instr.wf, Instr.gView, Instr.mView, wfOwn, rowOk] at hwf ⊢
  case h_2 | h_3 => exact ⟨fld_encRow _, decode_encRow _⟩
  case h_13 =>
    obtain ⟨⟨-, hm⟩, hb⟩ := hwf
    rw [fld_zero_two (by omega), fld_two_eq_zero (by omega)]
    exact ⟨⟨⟨by omega, by omega⟩, hb⟩, rfl⟩
  all_goals exact ⟨(fld_two_eq_zero (by omega)).2 (by omega), fld_zero_two (by omega)⟩

/-- Encode and decode of bank words go through the fields, which a word and its fields give to each other. -/
theorem bankDecodeEncodeInverse : BankDecodeEncodeInverse := by
  constructor
  · intro i x hwf he
    obtain ⟨r, hr, rfl⟩ := Option.map_eq_some_iff.1 he
    exact decodeBank_toNat hwf hr
  · intro i x hd
    obtain ⟨hwf, hf⟩ := decodeBank_accepts hd
    exact ⟨hwf, by rw [encodeBank, hf, Option.map_some, RawBank.toNat_ofNat]⟩

/-- Settles O2: in each form the fields that its decoder accepts, laid out again, are the word. -/
theorem decodingIsWellFormed : Obligations.DecodingIsWellFormed := ⟨decodedIsWellFormed, bankDecodeEncodeInverse⟩

end Sys2Proof
end

section
/-!
PROOF. Words written out in the spec decode to the instructions they stand for (O3).
-/
namespace Sys2Proof

/-- Settles O3, by running the decoder on each of the five words. -/
theorem specWordsDecode : Obligations.SpecWordsDecode := by
  unfold Obligations.SpecWordsDecode
  refine ⟨?_, ?_, ?_, ?_, ?_⟩ <;> decide

end Sys2Proof
end

section
/-!
PROOF. Words that the decoder rejects for their op trap when they are executed (O20).
-/
namespace Sys2Proof.Machine
open Claims

/-- ILLEGAL_OP at the wale at hand takes the trap (R74). -/
theorem illegalOp_eq {s : State} {w : Wale} (x : W64) (h : AtHand s w) : s.illegalOp x =
    .next (s.takeTrap w { cause := .illegalOp, lanes := w.wordLanes x, t0 := s.clk }) :=
  withCur_eq _ h

/-- Settles O20: each of the three words is ILLEGAL_OP on the word at hand. -/
theorem illegalOperations : Obligations.IllegalOperations := by
  unfold Obligations.IllegalOperations
  intro x s w h i hi
  simp only [List.mem_cons, List.not_mem_nil, or_false] at hi
  obtain rfl | rfl | rfl := hi <;> exact illegalOp_eq x h

end Sys2Proof.Machine
end

section
/-!
PROOF. Where a scalar operation completes, idles or traps, and what it writes (O9).
-/
namespace Sys2Proof.Machine
open Claims

/-! ### The shifts of R104 on one word -/

/-- A left shift by a count that may exceed the word. -/
theorem shiftImage_shlN (a b : W32) : shiftImage .i32 shlN a b = if b.toNat ≥ 32 then 0 else a <<< b.toNat := by
  change BitVec.ofNat 32 (shlN 32 a.toNat b.toNat) = _
  unfold shlN
  split
  · rfl
  · exact BitVec.eq_of_toNat_eq (by simp [BitVec.toNat_shiftLeft, Nat.shiftLeft_eq])

/-- A right shift with zero fill by a count that may exceed the word. -/
theorem shiftImage_shrN (a b : W32) : shiftImage .i32 shrN a b = if b.toNat ≥ 32 then 0 else a >>> b.toNat := by
  change BitVec.ofNat 32 (shrN 32 a.toNat b.toNat) = _
  unfold shrN
  split
  · rfl
  · refine BitVec.eq_of_toNat_eq ?_
    rw [BitVec.toNat_ofNat, BitVec.toNat_ushiftRight, Nat.shiftRight_eq_div_pow]
    exact Nat.mod_eq_of_lt ((Nat.div_le_self ..).trans_lt a.isLt)

/-- A negative pattern shifted right is the complement of its complement shifted right. -/
theorem sshiftRight_toNat_of_msb {a : W32} {m : Nat} (hm : m ≤ 32) (ha : a.msb = true) :
    (a.sshiftRight m).toNat = a.toNat / 2 ^ m + (2 ^ 32 - 2 ^ (32 - m)) := by
  have hlt := a.isLt
  have hpow : 2 ^ m * 2 ^ (32 - m) = 2 ^ 32 := by rw [← Nat.pow_add, Nat.add_sub_cancel' hm]
  have hdiv : (2 ^ 32 - (a.toNat + 1)) / 2 ^ m = 2 ^ (32 - m) - (a.toNat / 2 ^ m + 1) := by
    rw [← hpow] at hlt ⊢
    exact Nat.mul_sub_div _ _ _ hlt
  have hq : a.toNat / 2 ^ m < 2 ^ (32 - m) := Nat.div_lt_of_lt_mul (hpow ▸ hlt)
  have hle : 2 ^ (32 - m) ≤ 2 ^ 32 := Nat.pow_le_pow_right (by decide) (Nat.sub_le ..)
  rw [BitVec.sshiftRight_eq_of_msb_true ha, BitVec.toNat_not, BitVec.toNat_ushiftRight, BitVec.toNat_not,
    Nat.shiftRight_eq_div_pow, Nat.sub_sub, Nat.sub_sub, Nat.add_comm 1 a.toNat, hdiv]
  generalize a.toNat / 2 ^ m = q at hq ⊢
  omega

/-- A right shift with fill from the top bit, by a count that may exceed the word. -/
theorem shiftImage_sarN (a b : W32) : shiftImage .i32 sarN a b = a.sshiftRight (min b.toNat 32) := by
  have hlt := a.isLt
  have hof {n : Nat} {x : W32} (h : n = x.toNat) : BitVec.ofNat 32 n = x := by rw [h, BitVec.ofNat_toNat, BitVec.setWidth_eq]
  refine hof ?_
  unfold sarN
  cases ha : a.msb with
  | false =>
    have hneg : a.toNat < 2 ^ (32 - 1) := by simpa [BitVec.msb_eq_decide] using ha
    rw [if_pos hneg, BitVec.sshiftRight_eq_of_msb_false ha, BitVec.toNat_ushiftRight, Nat.shiftRight_eq_div_pow, shrN]
    split
    · next hb => rw [Nat.min_eq_right hb, Nat.div_eq_of_lt hlt]
    · next hb => rw [Nat.min_eq_left (by omega)]
  | true =>
    have hneg : ¬a.toNat < 2 ^ (32 - 1) := by simpa [BitVec.msb_eq_decide] using ha
    rw [if_neg hneg, sshiftRight_toNat_of_msb (Nat.min_le_right ..) ha]
    split
    · next hb => rw [Nat.min_eq_right hb, Nat.div_eq_of_lt hlt]; rfl
    · next hb => rw [Nat.min_eq_left (by omega)]

/-! ### The operations -/

theorem execSshl_eq (g : G) (s : State) :
    execSshl g s = s.scArith g fun a b => if b.toNat ≥ 32 then 0 else a <<< b.toNat :=
  congrArg (s.scArith g) (funext fun a => funext (shiftImage_shlN a))

theorem execSshr_eq (g : G) (s : State) : execSshr g s = s.scArith g fun a b =>
    if g.ty = .i32 then a.sshiftRight (min b.toNat 32) else if b.toNat ≥ 32 then 0 else a >>> b.toNat := by
  refine congrArg (s.scArith g) (funext fun a => funext fun b => ?_)
  by_cases h : g.ty = .i32
  · rw [if_pos h, if_pos (beq_iff_eq.2 h), shiftImage_sarN]
  · rw [if_neg h, if_neg (by simpa using h), shiftImage_shrN]

/-- Each instruction of the table computes the function that the table gives it. -/
theorem exec_scalarOps (g : G) (s : State) : ∀ p ∈ scalarOps g, exec p.1 s = s.scArith g p.2 := by
  have h : (scalarOps g).map (fun p => exec p.1 s) = (scalarOps g).map fun p => s.scArith g p.2 := by
    have hl := execSshl_eq g s
    have hr := execSshr_eq g s
    simp only [scalarOps, List.map_cons, List.map_nil]
    rw [← hl, ← hr]
    rfl
  exact List.map_inj_left.1 h

/-- Whether a meaning is a scalar operation of R98 with the given FACE. -/
def IsScalar (s : State) (face : Face) (r : Host.Outcome State Fault Refusal) : Prop :=
  ∃ uses trap res late, r = s.scalar face uses trap res late

theorem exec_isScalar {g : G} {s : State} :
    ∀ i ∈ (scalarOps g).map Prod.fst ++ [.exmrd g, .tagset g, .tagget g, .movvs g], IsScalar s g.face (exec i s) := by
  intro i hi
  obtain hi | hi := List.mem_append.1 hi
  · obtain ⟨p, hp, rfl⟩ := List.mem_map.1 hi
    exact ⟨_, _, _, _, exec_scalarOps g s p hp⟩
  · simp only [List.mem_cons, List.not_mem_nil, or_false] at hi
    obtain rfl | rfl | rfl | rfl := hi
    · exact ⟨fun _ => [], fun _ => none, fun w => [scFlight w (scOf g.fa.d) w.exm s.clk 4], fun _ => none, rfl⟩
    · exact ⟨_, _, _, fun _ => none, rfl⟩
    · exact ⟨_, _, _, fun _ => none, rfl⟩
    · exact ⟨_, _, _, _, rfl⟩

/-! ### The outcomes of a scalar operation, one equation each -/

section Outcomes
variable {s : State} {w : Wale} {face : Face} {uses : Wale → List Use} {trap late : Wale → Option TrapReq}
  {res : Wale → List InFlight}

/-- Outside a melded region a FACE other than 00 is MELD_ILLEGAL (R70). -/
theorem scalar_meldIllegal (h : AtHand s w) (hf : w.faceOk face = false) :
    s.scalar face uses trap res late = s.raise w .meldIllegal (w.active face) := by
  rw [State.scalar, withCur_eq _ h, hf]
  rfl

/-- An operation with a FACE whose set is empty costs one issue clk (R98). -/
theorem scalar_idle (h : AtHand s w) (hf : w.faceOk face = true) (hface : face ≠ .both) (ha : w.active face = 0) :
    s.scalar face uses trap res late = .next (s.issued w 0) := by
  rw [State.scalar, withCur_eq _ h]
  simp [hf, hface, ha]

/-- Without a trap the results are pending. -/
theorem scalar_done (h : ScalarReady s w face (uses w)) (ht : trap w = none) (hl : late w = none) :
    s.scalar face uses trap res late = .next (s.issueWith w (res w) 1 0) := by
  obtain ⟨hcur, hf, ha, hs⟩ := h
  have hidle : (face != .both && w.active face == 0) = false := by
    obtain rfl | ha := ha
    · rfl
    · rw [beq_eq_false_iff_ne.2 ha, Bool.and_false]
  rw [State.scalar, withCur_eq _ hcur, hf, hidle, ht, hs, hl]
  rfl

end Outcomes

/-! ### What a scalar result changes -/

/-- The wale after a scalar operation with one result. -/
def Wale.afterScalar (w : Wale) (clk : Nat) (e : InFlight) : Wale :=
  ({ w with inflight := w.inflight ++ [e] } : Wale).advance clk 0

section Result
variable {w : Wale} {n clk lat : Nat} {x : W32}

/-- The scalar written reads as the result from its clk on (R101). -/
theorem sAt_afterScalar {c : Nat} (hc : clk + lat ≤ c) : (w.afterScalar clk (scFlight w n x clk lat)).sAt n c = x := by
  refine sAt_of_pending (pendingVal_eq (l := [scFlight w n x clk lat]) (fun e he _ => ?_) ?_ w.inflight)
  · rw [List.mem_singleton.1 he]; rfl
  · exact ⟨_, List.mem_singleton_self _, scFlight_covers_iff.2 ⟨rfl, rfl, hc⟩⟩

/-- A pending scalar result covers no element of another file. -/
theorem scFlight_covers_other {f : RFile} (hf : f ≠ .s) (r t c : Nat) : (scFlight w n x clk lat).covers f r t c = false := by
  simp [InFlight.covers, scFlight, hf.symm]

/-- A scalar result leaves what is pending for an element that it does not cover. -/
theorem pendingVal_afterScalar {e : InFlight} {f : RFile} {r t c : Nat} (h : e.covers f r t c = false) :
    pendingVal (w.afterScalar clk e).inflight f r t c = pendingVal w.inflight f r t c :=
  pendingVal_append_of_not_covers (l := [e]) (fun e' he => by rw [List.mem_singleton.1 he, h]) w.inflight

/-- Another scalar, and any scalar before the result's clk, reads as before (R101). -/
theorem sAt_afterScalar_other {m c : Nat} (h : m ≠ n ∨ c < clk + lat) :
    (w.afterScalar clk (scFlight w n x clk lat)).sAt m c = w.sAt m c := by
  refine sAt_congr rfl (pendingVal_afterScalar (Bool.eq_false_iff.2 fun hcov => ?_))
  obtain ⟨hn, -, hc⟩ := scFlight_covers_iff.1 hcov
  omega

end Result

/-- A scalar operation that is ready completes with its result. -/
theorem scalarOperationsComplete : ScalarOperationsComplete := by
  intro g s w n p hp h hd
  have hcur : AtHand s w := h.1
  have hid : w.id = s.cur := wale?_id hcur
  refine ⟨_, w.afterScalar s.clk (scFlight w n (p.2 (w.uniSrc g.ty g.fa.a s.clk) (w.uniSrc g.ty g.fa.b s.clk)) s.clk 4), ?_,
    wale?_issueWith_cur hcur rfl rfl _ 1 0, fun clk hc => sAt_afterScalar hc, fun clk hc => sAt_afterScalar_other (.inr hc),
    fun m clk hm => sAt_afterScalar_other (.inl hm), ?_, ?_, ?_, ⟨rfl, rfl, rfl, rfl, rfl, rfl, rfl, rfl, rfl, rfl, rfl⟩,
    ⟨rfl, rfl, rfl⟩, onlyWale_issueWith hid _ 1 0⟩
  · rw [exec_scalarOps g s p hp, State.scArith, scalar_done h rfl rfl, hd]
    rfl
  · exact fun r th clk => vAt_congr rfl (pendingVal_afterScalar (scFlight_covers_other (by decide) ..))
  · exact fun r clk => tagAt_congr rfl (pendingVal_afterScalar (scFlight_covers_other (by decide) ..))
  · exact fun q th clk => qAt_congr rfl (pendingVal_afterScalar (scFlight_covers_other (by decide) ..))

/-- A scalar operation whose FACE is illegal traps, and one whose set is empty idles. -/
theorem scalarOperationsIdle : ScalarOperationsIdle := by
  intro g s w h i hi
  obtain ⟨uses, trap, res, late, he⟩ := exec_isScalar (s := s) i hi
  rw [he]
  exact ⟨scalar_meldIllegal h, scalar_idle h⟩

/-- Settles O9: each instruction of the tables is a scalar operation of R98, whose result is pending for its scalar alone. -/
theorem scalarOperations : Obligations.ScalarOperations := ⟨scalarOperationsComplete, scalarOperationsIdle⟩

end Sys2Proof.Machine
end

section
/-!
PROOF. Jumps, ENDLOOP, RET, EXIT, NOP and YIELD: where each continues and what it leaves (O15).
-/
namespace Sys2Proof.Machine
open Claims

/-! ### Issues that replace the wale at hand -/

/-- Holding a pipe and replacing the wale at hand changes nothing that another wale sees. -/
theorem onlyWale_held {s : State} {u v : Wale} (hid : v.id = s.cur) (c : Nat) : OnlyWale s ((s.holdPipe u c).putWale v) := by
  have h : OnlyWale (s.holdPipe u c) ((s.holdPipe u c).putWale v) := onlyWale_putWale (by rw [hid, State.holdPipe_cur])
  simpa [OnlyWale, State.byteAt] using h

section Held
variable {i : Instr} {s : State} {w u v : Wale} {P : State → Wale → Prop} {c : Nat}

/-- An instruction that holds its pipe and replaces the wale at hand goes to that state. -/
theorem goes_held (h : AtHand s w) (he : exec i s = .next ((s.holdPipe u c).putWale v)) (hv : v.id = w.id)
    (hP : OnlyWale s ((s.holdPipe u c).putWale v) → P ((s.holdPipe u c).putWale v) v) : Goes i s P := by
  have hid : v.id = s.cur := hv.trans (wale?_id h)
  have hh : AtHand (s.holdPipe u c) w := by
    rw [AtHand, State.wale?, State.holdPipe_wales, State.holdPipe_cur]
    exact h
  refine ⟨_, v, he, ?_, hP (onlyWale_held hid c)⟩
  have hp := wale?_putWale_cur hh hv
  rwa [State.holdPipe_cur] at hp

/-- An instruction that issues without results goes to the wale past it. -/
theorem goes_issued (h : AtHand s w) (he : exec i s = .next (s.issued u c)) (hu : u.id = w.id)
    (hP : OnlyWale s (s.issued u c) → P (s.issued u c) (u.advance s.clk c)) : Goes i s P :=
  goes_held (v := u.advance s.clk c) h he hu hP

end Held

/-! ### The checks of transfers (R31, R59, R70) -/

/-- Strict mode checks nothing for an instruction that reads no register. -/
@[simp] theorem stallShort_nil (s : State) (w : Wale) : s.stallShort w [] = none := by
  unfold State.stallShort
  split <;> rfl

/-- Whether a target passes does not depend on the lanes that a trap would show. -/
theorem targetTrap_eq_none {s : State} {w : Wale} {target : Nat} {interval : Bool} {l : Mask} (m : Mask)
    (h : s.targetTrap w target interval l = none) : s.targetTrap w target interval m = none := by
  unfold State.targetTrap at h ⊢
  split at h
  · cases h
  · rename_i ha
    rw [if_neg ha]
    split at h
    · split at h
      · rename_i hc
        simp only [hc, if_true]
      · cases h
    · rfl

/-- A control operation of a wale with a legal FACE has its effect when nothing is too early. -/
theorem control_eq {s : State} {w : Wale} {face : Face} {uses : Wale → List Use} {f : Wale → Host.Outcome State Fault Refusal}
    (h : AtHand s w) (hk : w.kind = .wale) (hf : w.faceOk face = true) (hs : s.stallShort w (uses w) = none) :
    s.control face uses f = f w := by
  rw [State.control, withCur_eq _ h]
  simp [hk, hf, hs]

/-- A taken transfer whose target passes continues there. -/
theorem jump_taken {s : State} {w u : Wale} {target : Nat} (h : TargetOk s w target false) :
    s.jump w u true target = .next ((s.holdPipe w (s.clk + 1)).putWale (u.goto s.clk 4 target)) := by
  unfold TargetOk at h
  rw [State.jump, if_pos rfl, h]

/-! ### Jumps (R144) -/

section Jump
variable {s : State} {w : Wale} {g : G} {off : BitVec 28} {uses : List Use} {taken : Wale → Bool}

/-- The target of a jump in its immediate form (R138). -/
theorem immTarget_eq {o : Opnds} (h : o.b = .imm off) : w.immTarget o = w.relTarget off := by rw [Wale.immTarget, h]

theorem uniJump_taken (h : AtHand s w) (hf : w.faceOk g.face = true) (hb : g.fa.b = .imm off) (hs : s.stallShort w uses = none)
    (ht : taken w = true) (hok : TargetOk s w (w.relTarget off) false) : s.uniJump g uses taken =
      .next ((s.holdPipe w (s.clk + 1)).putWale (w.goto s.clk 4 (w.relTarget off))) := by
  have hok' := targetTrap_eq_none (w.active g.face) hok
  rw [State.uniJump, withCur_eq _ h, ht, if_pos rfl, immTarget_eq hb, hok']
  simp only [hf, hs, Bool.not_true, Bool.false_eq_true, if_false]
  exact jump_taken hok

theorem uniJump_bad {r : TrapReq} (h : AtHand s w) (hb : g.fa.b = .imm off) (ht : taken w = true)
    (hr : s.targetTrap w (w.relTarget off) false (w.active g.face) = some r) :
    s.uniJump g uses taken = .next (s.takeTrap w r) := by
  rw [State.uniJump, withCur_eq _ h, ht, if_pos rfl, immTarget_eq hb, hr]

theorem uniJump_not_taken (h : AtHand s w) (hf : w.faceOk g.face = true) (hs : s.stallShort w uses = none)
    (ht : taken w = false) : s.uniJump g uses taken = .next (s.issued w 1) := by
  rw [State.uniJump, withCur_eq _ h, ht]
  simp [hf, hs, State.jump]

end Jump

/-! ### ENDLOOP (R142) -/

section Endloop
variable {s : State} {w : Wale} {g : G} {off : BitVec 28} {m brk : Mask} {rest : List MaskLevel}

/-- At an innermost LOOP pair ENDLOOP goes back when a thread of M is neither out by BREAK nor dead. -/
theorem loopsBack_eq (hm : w.ownMasks = ⟨.loopK, brk⟩ :: ⟨.loopK, m⟩ :: rest) :
    w.loopsBack = (m &&& ~~~brk &&& w.live != 0) := by rw [Wale.loopsBack, hm]

variable (h : AtHand s w) (hk : w.kind = .wale) (hf : w.faceOk g.face = true)
  (hm : w.ownMasks = ⟨.loopK, brk⟩ :: ⟨.loopK, m⟩ :: rest)
include h hk hf hm

/-- ENDLOOP with a thread left continues at its target. -/
theorem execEndloop_back (hb : g.fa.b = .imm off) (hx : w.crossesRegion = false) (hc : m &&& ~~~brk &&& w.live ≠ 0)
    (hok : TargetOk s w (w.relTarget off) false) : exec (.endloop g) s = .next ((s.holdPipe w (s.clk + 1)).putWale
      (({ w with exm := m &&& ~~~brk &&& w.live } : Wale).goto s.clk 4 (w.relTarget off))) := by
  have hc' : (m &&& ~~~brk &&& w.live != 0) = true := bne_iff_ne.2 hc
  change s.control _ _ _ = _
  rw [control_eq h hk hf (stallShort_nil s w)]
  have hok' : s.targetTrap w (w.relTarget off) false (w.active .both) = none := hok
  simp only [loopsBack_eq hm, immTarget_eq hb, hok', hx, hm, hc', if_true, Bool.false_eq_true, if_false]
  exact jump_taken hok

/-- ENDLOOP with a thread left and a bad target traps (R59). -/
theorem execEndloop_bad {x : TrapReq} (hb : g.fa.b = .imm off) (hc : m &&& ~~~brk &&& w.live ≠ 0)
    (hx : s.targetTrap w (w.relTarget off) false (w.active .both) = some x) : exec (.endloop g) s = .next (s.takeTrap w x) := by
  change s.control _ _ _ = _
  rw [control_eq h hk hf (stallShort_nil s w)]
  simp only [loopsBack_eq hm, bne_iff_ne.2 hc, if_true, immTarget_eq hb, hx]

/-- ENDLOOP with no thread left pops its pair. -/
theorem execEndloop_done (hx : w.crossesRegion = false) (hc : m &&& ~~~brk &&& w.live = 0) : exec (.endloop g) s =
    .next (s.issued { w with exm := m &&& w.live, masks := w.masks.tail.tail } 1) := by
  have hc' : (m &&& ~~~brk &&& w.live != 0) = false := by simp [hc]
  change s.control _ _ _ = _
  rw [control_eq h hk hf (stallShort_nil s w)]
  simp only [loopsBack_eq hm, hx, hm, hc', if_false, Bool.false_eq_true, State.jump]

end Endloop

/-- A uniform jump continues at its target, and changes nothing of its wale but where it is. -/
theorem jumps : Jumps := by
  intro g s w off h hf hb target same goes stays
  have go (i : Instr) (he : exec i s = .next ((s.holdPipe w (s.clk + 1)).putWale (w.goto s.clk 4 target))) : goes i :=
    goes_held h he rfl fun ho => ⟨⟨rfl, rfl, rfl⟩, ⟨rfl, rfl, rfl, rfl, rfl, rfl, rfl, rfl, rfl, rfl, rfl⟩, ho⟩
  have stay (i : Instr) (he : exec i s = .next (s.issued w 1)) : stays i :=
    goes_issued h he rfl fun ho => ⟨⟨rfl, rfl, rfl⟩, ⟨rfl, rfl, rfl, rfl, rfl, rfl, rfl, rfl, rfl, rfl, rfl⟩, ho⟩
  refine ⟨fun hok => go _ (uniJump_taken h hf hb (stallShort_nil s w) rfl hok), fun r => uniJump_bad h hb rfl,
    fun n ha hs => ?_, fun m brk rest hk hx hm => ⟨fun hc hok => ?_, fun hc x => execEndloop_bad h hk hf hm hb hc, fun hc => ?_⟩⟩
  · have hsc : Opnds.scA g.fa = n := by rw [Opnds.scA, ha]
    subst hsc
    refine ⟨fun hn => stay _ (uniJump_not_taken h hf hs ?_), fun hz => stay _ (uniJump_not_taken h hf hs ?_),
      fun hok => ⟨fun hz => go _ (uniJump_taken h hf hb hs ?_ hok), fun hn => go _ (uniJump_taken h hf hb hs ?_ hok)⟩⟩
    · exact beq_eq_false_iff_ne.2 hn
    · exact bne_eq_false_iff_eq.2 hz
    · exact beq_iff_eq.2 hz
    · exact bne_iff_ne.2 hn
  · exact goes_held h (execEndloop_back h hk hf hm hb hx hc hok) rfl fun ho =>
      ⟨rfl, rfl, rfl, rfl, ⟨rfl, rfl, rfl, rfl, rfl, rfl, rfl⟩, ⟨rfl, rfl, rfl⟩, ho⟩
  · exact goes_issued h (execEndloop_done h hk hf hm hx hc) rfl fun ho =>
      ⟨rfl, rfl, rfl, rfl, ⟨rfl, rfl, rfl, rfl, rfl, rfl, rfl⟩, ⟨rfl, rfl, rfl⟩, ho⟩

/-! ### RET (R146, R153) -/

/-- The threads of face B for which RET runs a call again: those of the region that the popped level uncovers. -/
def Wale.retFaceB (w : Wale) (m : Mask) : Mask :=
  match Wale.region { w with exm := m &&& w.live, masks := w.masks.tail } with
  | some e => m &&& w.live &&& e.fb
  | none => 0

/-- Where RET continues: at the call again for face B, past it, or at the return address. -/
def Wale.retTarget (w : Wale) (m : Mask) (ret phase : Nat) : Nat :=
  if phase = 1 ∧ w.retFaceB m ≠ 0 then ret - phase else if phase = 0 then ret else ret - phase + 16

/-- The wale after RET. -/
def Wale.afterRet (w : Wale) (clk : Nat) (m : Mask) (h : IntervalHdr) (ivl ret phase : Nat) : Wale :=
  { (({ w with exm := m &&& w.live, masks := w.masks.tail } : Wale).goto clk 4 (w.retTarget m ret phase)).request h ivl clk with
    latch := if phase = 1 ∧ w.retFaceB m ≠ 0 then some (.faceB (ret - phase)) else none }

theorem sameRegs_trans {a b c : Wale} (h : SameRegs a b) (k : SameRegs b c) : SameRegs a c := by
  obtain ⟨hv, ht, hs, hq, hx, hi, hd⟩ := h
  obtain ⟨kv, kt, ks, kq, kx, ki, kd⟩ := k
  exact ⟨kv.trans hv, kt.trans ht, ks.trans hs, kq.trans hq, kx.trans hx, ki.trans hi, kd.trans hd⟩

/-- RET of a CALL level that no open region hides replaces its wale. -/
theorem execRet_eq {g : G} {s : State} {w : Wale} {h : IntervalHdr} {m : Mask} {rest : List MaskLevel} {ivl ret phase : Nat}
    (hr : ControlReady s w g.face ([60, 61, 62, 63].map (Use.mk .s))) (hm : w.ownMasks = ⟨.callK, m⟩ :: rest)
    (hd : ∀ e r k, w.ownMelds = e :: r → callIndex w.ownMasks = some k → e.sd ≤ k + (w.masks.length - w.ownMasks.length))
    (hp : s.retPlan w = .ok (h, ivl, ret, phase)) :
    exec (.ret g) s = .next ((s.holdPipe w (s.clk + 1)).putWale (w.afterRet s.clk m h ivl ret phase)) := by
  obtain ⟨hcur, hk, hf, hs⟩ := hr
  change s.control _ _ _ = _
  rw [control_eq hcur hk hf (stallShort_nil s w)]
  simp only [hp]
  rw [if_neg]
  · simp only [hm, hs]
    rfl
  · split
    · next e r k he hi => exact fun h => Nat.not_lt.2 (hd e r k he hi) (of_decide_eq_true h)
    · exact Bool.false_ne_true

/-- What a request of staging with a latch keeps of its wale, and what it sets. -/
theorem request_latch_frame (w : Wale) (h : IntervalHdr) (addr clk : Nat) (l : Option Latch) :
    let v : Wale := { w.request h addr clk with latch := l }
    v.exm = w.exm ∧ v.live = w.live ∧ v.masks = w.masks ∧ v.melds = w.melds ∧ v.interval = some h ∧
      v.staging = (if intervalCount h = 0 then .done else .waiting) ∧ v.intervalAddr = addr ∧ SameRegs w v :=
  ⟨rfl, rfl, rfl, rfl, rfl, rfl, rfl, rfl, rfl, rfl, rfl, rfl, rfl, rfl⟩

/-- What a transfer keeps of its wale. -/
theorem goto_frame (w : Wale) (clk bound target : Nat) :
    let v := w.goto clk bound target
    v.exm = w.exm ∧ v.live = w.live ∧ v.masks = w.masks ∧ v.melds = w.melds ∧ SameRegs w v :=
  ⟨rfl, rfl, rfl, rfl, rfl, rfl, rfl, rfl, rfl, rfl, rfl⟩

/-- What RET keeps of its wale, and what it sets. -/
theorem afterRet_frame (w : Wale) (clk : Nat) (m : Mask) (h : IntervalHdr) (ivl ret phase : Nat) :
    let v := w.afterRet clk m h ivl ret phase
    v.exm = m &&& w.live ∧ v.live = w.live ∧ v.masks = w.masks.tail ∧ v.melds = w.melds ∧ v.interval = some h ∧
      v.staging = (if intervalCount h = 0 then .done else .waiting) ∧ v.intervalAddr = ivl ∧ SameRegs w v := by
  intro v
  obtain ⟨hx, hl, hk, hm, hr⟩ := goto_frame { w with exm := m &&& w.live, masks := w.masks.tail } clk 4 (w.retTarget m ret phase)
  obtain ⟨hx', hl', hk', hm', hi, hs, ha, hr'⟩ := request_latch_frame
    (({ w with exm := m &&& w.live, masks := w.masks.tail } : Wale).goto clk 4 (w.retTarget m ret phase)) h ivl clk
    (if phase = 1 ∧ w.retFaceB m ≠ 0 then some (.faceB (ret - phase)) else none)
  exact ⟨hx'.trans hx, hl'.trans hl, hk'.trans hk, hm'.trans hm, hi, hs, ha, sameRegs_trans hr hr'⟩

/-- RET continues at its target, and asks for face B of a call that it runs again. -/
theorem jumped_afterRet (s : State) (w : Wale) (m : Mask) (h : IntervalHdr) (ivl ret phase : Nat) :
    let v := w.afterRet s.clk m h ivl ret phase
    if phase = 1 ∧ w.retFaceB m ≠ 0 then Jumped s w v 4 (ret - phase) ∧ v.latch = some (.faceB (ret - phase))
    else Jumped s w v 4 (if phase = 0 then ret else ret - phase + 16) ∧ v.latch = none := by
  intro v
  have hj : Jumped s w v 4 (w.retTarget m ret phase) := ⟨rfl, rfl, rfl⟩
  have hl : v.latch = if phase = 1 ∧ w.retFaceB m ≠ 0 then some (.faceB (ret - phase)) else none := rfl
  clear_value v
  unfold Wale.retTarget at hj
  by_cases hb : phase = 1 ∧ w.retFaceB m ≠ 0
  · rw [if_pos hb] at hj hl ⊢
    exact ⟨hj, hl⟩
  · rw [if_neg hb] at hj hl ⊢
    exact ⟨hj, hl⟩

/-- RET continues where s60 and s61 say, for face B of a call with the phase bit, and its plan is read off s60 to s63. -/
theorem retCompletes : RetCompletes := by
  intro g s w h
  refine ⟨fun m rest ivl ret phase hr hm hd hp => ?_, fun hi hh => ⟨fun ha hok => ?_, fun ha => ?_⟩⟩
  · exact goes_held hr.1 (execRet_eq hr hm hd hp) rfl fun ho =>
      have ⟨hx, hl, hk, hm, hi, hs, ha, hr⟩ := afterRet_frame w s.clk m h ivl ret phase
      ⟨hx, hl, hk, hm, hi, hs, ha, hr, ho, jumped_afterRet ..⟩
  · have hphase : addr52 (w.s64At 60 s.clk) % 2 = 0 := by omega
    have hok' := targetTrap_eq_none w.exm hok
    simp [State.retPlan, hi, hh, ha, hphase, hok']
  · have hphase : addr52 (w.s64At 60 s.clk) % 2 = 1 := by omega
    simp [State.retPlan, hi, hh, ha, hphase]

/-! ### EXIT, NOP and YIELD (R147, R148) -/

theorem execExit_eq {g : G} {s : State} {w : Wale} (h : AtHand s w) (hk : w.kind = .wale) (hf : w.faceOk g.face = true) :
    exec (.exit g) s =
      .next (s.issued { w with live := w.live &&& ~~~w.active g.face, exm := w.exm &&& ~~~w.active g.face } 1) := by
  change s.control _ _ _ = _
  rw [control_eq h hk hf (stallShort_nil s w)]

theorem execNop_eq {g : G} {s : State} {w : Wale} (h : AtHand s w) (hf : w.faceOk g.face = true) :
    exec (.nop g) s = .next (s.issued w 1) := by
  change s.withCur _ = _
  rw [withCur_eq _ h]
  simp [hf]

/-- A function of the wale just put is applied to it. -/
theorem putWale_onWale (s : State) (w : Wale) (f : Wale → Wale) (hf : ∀ x, (f x).id = x.id) :
    (s.putWale w).onWale w.id f = s.putWale (f w) := by
  simp only [State.putWale, State.onWale, List.map_map]
  congr 1
  refine List.map_congr_left fun x _ => ?_
  by_cases hx : x.id = w.id <;> simp [hx, hf]

theorem execYield_eq {g : G} {s : State} {w : Wale} (h : AtHand s w) (hf : w.faceOk g.face = true) :
    exec (.yield g) s = .next ((s.holdPipe w (s.clk + 1)).putWale { w.advance s.clk 1 with yielded := true }) := by
  change s.withCur _ = _
  rw [withCur_eq _ h]
  simp only [hf, Bool.not_true, Bool.false_eq_true, if_false]
  exact congrArg _ (putWale_onWale _ (w.advance s.clk 1) (fun x => { x with yielded := true }) fun _ => rfl)

/-- EXIT, NOP and YIELD are one issue each. -/
theorem exitNopYield : ExitNopYield := by
  intro g s w h hf
  refine ⟨fun hk => ?_, ?_, ?_⟩
  · exact goes_issued h (execExit_eq h hk hf) rfl fun ho =>
      ⟨rfl, rfl, rfl, rfl, ⟨rfl, rfl, rfl, rfl, rfl, rfl, rfl⟩, ⟨rfl, rfl, rfl⟩, ho⟩
  · exact goes_issued h (execNop_eq h hf) rfl fun ho =>
      ⟨⟨rfl, rfl, rfl, rfl, rfl, rfl, rfl, rfl, rfl, rfl, rfl⟩, ⟨rfl, rfl, rfl, rfl, rfl, rfl, rfl⟩, ⟨rfl, rfl, rfl⟩, ho⟩
  · exact goes_held h (execYield_eq h hf) rfl fun ho => ⟨rfl,
      ⟨rfl, rfl, rfl, rfl, rfl, rfl, rfl, rfl, rfl, rfl, rfl⟩, ⟨rfl, rfl, rfl, rfl, rfl, rfl, rfl⟩, ⟨rfl, rfl, rfl⟩, ho⟩

end Sys2Proof.Machine
end

section
/-!
PROOF. CALL: its checks, the results that it leaves pending, and what they read as (O15).
-/
namespace Sys2Proof.Machine
open Claims

/-! ### The results of a CALL (R145) -/

/-- The faces of a CALL that write register `r` with their argument `i`. -/
def facesAt (fs : List (CallFace × Mask)) (i r : Nat) : List (CallFace × Mask) := fs.filter fun p => p.1.d + i == r

/-- The copy of argument `i` to register `r`. -/
def Wale.callCopy (w : Wale) (n : Nat) (fs : List (CallFace × Mask)) (clk i r : Nat) : InFlight :=
  { file := .v, reg := r, mask := (facesAt fs i r).foldl (fun m p => m ||| p.2) 0
    vals := threads.map fun t =>
      match (facesAt fs i r).find? fun p => p.2.getLsbD t with
      | some p => w.vAt (p.1.a + i) t (clk + t / 8)
      | none => 0
    base := clk + 4 * n + 1, k := 1, encAt := w.encPos, lat := 4 * n + 4, no := w.issueNo, filled := true }

/-- The tag that goes with the copy of argument `i` to register `r`. -/
def Wale.callTag (w : Wale) (n : Nat) (fs : List (CallFace × Mask)) (clk i r : Nat) : InFlight :=
  { file := .tag, reg := r, mask := 1
    vals := [BitVec.ofNat 32 (w.tagAt (match facesAt fs i r with | p :: _ => p.1.a + i | [] => 0) clk).code]
    base := clk + 4 * n + 1, k := 0, encAt := w.encPos, lat := 4 * n + 4, no := w.issueNo, filled := true }

/-- The words of the return record in s60 to s63: return address with the phase bit, and the caller's interval header. -/
def Wale.callWord (w : Wale) (ret phase : Nat) : Nat → Nat
  | 0 => ret % 2 ^ 32 / 2 * 2 + phase
  | 1 => ret / 2 ^ 32
  | 2 => w.intervalAddr % 2 ^ 32
  | _ => w.intervalAddr / 2 ^ 32

/-- The return record. -/
def Wale.callRecord (w : Wale) (clk ret phase : Nat) : List InFlight :=
  (List.range 4).map fun j => scFlight w (60 + j) (BitVec.ofNat 32 (w.callWord ret phase j)) clk 4

/-- The faces of the threads, that q7 tells the callee of a melded region. -/
def Wale.callFaces (w : Wale) (exm : Mask) (clk : Nat) : List InFlight :=
  match w.region with
  | some e => [{ file := .q, reg := 7, mask := exm, vals := threads.map fun t => boolWord (e.fa.getLsbD t)
                 base := clk + 1, k := 1, encAt := w.encPos, lat := 4, no := w.issueNo, filled := true }]
  | none => []

/-- All results of a CALL. -/
def Wale.callFlights (w : Wale) (n : Nat) (fs : List (CallFace × Mask)) (exm : Mask) (clk ret phase : Nat) : List InFlight :=
  w.callCopies n fs clk ++ w.callRecord clk ret phase ++ w.callFaces exm clk

/-- The wale after a CALL. -/
def Wale.afterCall (w : Wale) (n : Nat) (fs : List (CallFace × Mask)) (exm : Mask) (clk ret phase target : Nat) : Wale :=
  ({ w with inflight := w.inflight ++ w.callFlights n fs exm clk ret phase, masks := ⟨.callK, w.exm⟩ :: w.masks, exm := exm } :
    Wale).goto clk (4 + 4 * n) target

/-- A CALL whose checks pass leaves its results pending and continues at its target. -/
theorem callTo_eq {s : State} {w : Wale} {c : CallForm} {fs : List (CallFace × Mask)} {exm : Mask} {ret phase target : Nat}
    (h : CallReady s w c fs exm target) : s.callTo w c fs exm ret phase target =
      .next ((s.holdPipe w (s.clk + max (4 * c.n) 1)).putWale (w.afterCall c.n fs exm s.clk ret phase target)) := by
  obtain ⟨-, -, hf, ht, hd, hw, htag, hs⟩ := h
  have hset : ((fs.flatMap fun p => callRegs c.n p.1).any fun r => !w.inSet r) = false := by
    simp only [List.any_eq_false, List.mem_flatMap, callRegs, List.mem_range, Bool.not_eq_true', Bool.not_eq_false]
    rintro r ⟨p, hp, i, hi, hr⟩
    obtain ⟨hwd, hwa⟩ := hw p hp i hi
    simp only [List.mem_cons, List.not_mem_nil, or_false] at hr
    obtain rfl | rfl := hr <;> assumption
  unfold State.callTo
  cases hb : c.fb with
  | none =>
    simp only [ht, hf, hset, hs, Nat.not_le.2 hd, if_false, Bool.not_true, Bool.false_eq_true]
    rfl
  | some b =>
    have hfmt : ((List.range c.n).any fun i => w.tagAt (c.fa.a + i) s.clk != w.tagAt (b.a + i) s.clk) = false := by
      simp only [List.any_eq_false, List.mem_range, bne_iff_ne, not_not]
      exact htag b hb
    simp only [ht, hf, hset, hfmt, hs, Nat.not_le.2 hd, if_false, Bool.not_true, Bool.false_eq_true]
    rfl

/-! ### What each result of a CALL covers -/

/-- A result covers elements of its own file alone. -/
theorem covers_file {e : InFlight} {f : RFile} {r t clk : Nat} (h : e.covers f r t clk = true) : e.file = f := by
  simp only [InFlight.covers, Bool.and_eq_true, beq_iff_eq] at h
  exact h.1.1.1.1

theorem mem_facesAt {fs : List (CallFace × Mask)} {i r : Nat} {p : CallFace × Mask} :
    p ∈ facesAt fs i r ↔ p ∈ fs ∧ p.1.d + i = r := by
  simp [facesAt]

/-- The copies are, for each argument and each register that a face with threads gives it, a result and its tag. -/
theorem mem_callCopies {w : Wale} {n clk : Nat} {fs : List (CallFace × Mask)} {e : InFlight} :
    e ∈ w.callCopies n fs clk ↔ ∃ i < n, ∃ p ∈ fs, p.2 ≠ 0 ∧
      (e = w.callCopy n fs clk i (p.1.d + i) ∨ e = w.callTag n fs clk i (p.1.d + i)) := by
  have h : e ∈ w.callCopies n fs clk ↔ ∃ i ∈ List.range n,
      ∃ r ∈ (((fs.filter fun p => p.2 != 0).map fun p => p.1.d + i).eraseDups),
        e ∈ [w.callCopy n fs clk i r, w.callTag n fs clk i r] := by
    unfold Wale.callCopies
    rw [List.mem_flatMap]
    refine exists_congr fun i => and_congr_right fun _ => ?_
    rw [List.mem_flatMap]
    rfl
  simp [h, List.mem_eraseDups, and_assoc]

/-- A thread is in a union of masks when it is in one of them. -/
theorem getLsbD_foldl_or (l : List (CallFace × Mask)) (m : Mask) (t : Nat) :
    (l.foldl (fun m p => m ||| p.2) m).getLsbD t = true ↔ m.getLsbD t = true ∨ ∃ p ∈ l, p.2.getLsbD t = true := by
  induction l generalizing m with
  | nil => simp
  | cons p l ih =>
    rw [List.foldl_cons, ih, BitVec.getLsbD_or, Bool.or_eq_true, or_assoc]
    simp

section Copies
variable {w : Wale} {n clk c i r t : Nat} {fs : List (CallFace × Mask)} {p : CallFace × Mask}

/-- A copy covers the elements of its register for the threads of its faces. -/
theorem callCopy_covers_iff {r' : Nat} : (w.callCopy n fs clk i r').covers .v r t c = true ↔
    r' = r ∧ (∃ p ∈ fs, p.1.d + i = r' ∧ p.2.getLsbD t = true) ∧ clk + 4 * n + 1 + t / 8 ≤ c := by
  simp only [InFlight.covers, Wale.callCopy, beq_self_eq_true, Bool.true_and, Bool.and_eq_true, getLsbD_foldl_or, mem_facesAt,
    decide_eq_true_eq, Nat.one_mul]
  simp [and_assoc]

/-- A face has a thread when its mask is not empty. -/
theorem ne_zero_of_getLsbD {m : Mask} (h : m.getLsbD t = true) : m ≠ 0 := by
  rintro rfl
  simp at h

/-- No thread belongs to two faces. -/
def Apart (fs : List (CallFace × Mask)) : Prop :=
  ∀ p ∈ fs, ∀ q ∈ fs, ∀ t, p.2.getLsbD t = true → q.2.getLsbD t = true → q.1 = p.1

/-- The word of a thread in the copy of its face's argument. -/
theorem callCopy_val (hfs : Apart fs) (hp : p ∈ fs) (ht : t < 32) (hm : p.2.getLsbD t = true) :
    (w.callCopy n fs clk i (p.1.d + i)).vals.getD t 0 = w.vAt (p.1.a + i) t (clk + t / 8) := by
  have hf : ∃ q, (facesAt fs i (p.1.d + i)).find? (fun p => p.2.getLsbD t) = some q ∧ q.1 = p.1 := by
    cases hq : (facesAt fs i (p.1.d + i)).find? fun p => p.2.getLsbD t with
    | none => exact absurd hm (List.find?_eq_none.1 hq p (mem_facesAt.2 ⟨hp, rfl⟩))
    | some q =>
      have hq' := mem_facesAt.1 (List.mem_of_find?_eq_some hq)
      exact ⟨q, rfl, hfs p hp q hq'.1 t hm (List.find?_some (p := fun p : CallFace × Mask => p.2.getLsbD t) hq)⟩
  obtain ⟨q, hq, hqp⟩ := hf
  simp [Wale.callCopy, threads, ht, hq, hqp, -BitVec.getLsbD_eq_getElem]

/-- A tag of a copy covers the tag of its register. -/
theorem callTag_covers_iff {r' : Nat} : (w.callTag n fs clk i r').covers .tag r 0 c = true ↔ r' = r ∧ clk + 4 * n + 1 ≤ c := by
  simp [InFlight.covers, Wale.callTag]

/-- The faces' arguments have the same tags (R145). -/
def SameTags (w : Wale) (n : Nat) (fs : List (CallFace × Mask)) (clk : Nat) : Prop :=
  ∀ p ∈ fs, ∀ q ∈ fs, ∀ i < n, w.tagAt (q.1.a + i) clk = w.tagAt (p.1.a + i) clk

/-- The tag of a copy is that of its argument. -/
theorem callTag_val (hfs : SameTags w n fs clk) (hp : p ∈ fs) (hi : i < n) :
    (w.callTag n fs clk i (p.1.d + i)).vals.getD 0 0 = BitVec.ofNat 32 (w.tagAt (p.1.a + i) clk).code := by
  have hmem : p ∈ facesAt fs i (p.1.d + i) := mem_facesAt.2 ⟨hp, rfl⟩
  cases hf : facesAt fs i (p.1.d + i) with
  | nil => simp [hf] at hmem
  | cons q l =>
    have hq : q ∈ fs := (mem_facesAt.1 (hf ▸ List.mem_cons_self : q ∈ facesAt fs i (p.1.d + i))).1
    simp [Wale.callTag, hf, hfs p hp q hq i hi]

end Copies

/-- The result that tells the threads' faces covers q7 for the callee's threads. -/
theorem callFaces_covers {w : Wale} {e : MeldEntry} {exm : Mask} {clk c t : Nat} (he : w.region = some e) (ht : t < 32)
    (hm : exm.getLsbD t = true) (hc : clk + 1 + t / 8 ≤ c) :
    ∃ x, w.callFaces exm clk = [x] ∧ x.covers .q 7 t c = true ∧ x.vals.getD t 0 = boolWord (e.fa.getLsbD t) := by
  refine ⟨_, by rw [Wale.callFaces, he], ?_, ?_⟩
  · simp [InFlight.covers, hm, hc, -BitVec.getLsbD_eq_getElem]
  · simp [threads, ht]

/-! ### What is pending after a CALL -/

section Pending
variable {w : Wale} {n clk c : Nat} {fs : List (CallFace × Mask)} {exm : Mask} {ret phase : Nat}

/-- Each result of a CALL is a copy, the tag of one, a word of the return record, or the faces in q7. -/
theorem callFlights_cases {e : InFlight} (h : e ∈ w.callFlights n fs exm clk ret phase) :
    (e.file = .v ∧ ∃ i < n, ∃ p ∈ fs, e = w.callCopy n fs clk i (p.1.d + i)) ∨
    (e.file = .tag ∧ ∃ i < n, ∃ p ∈ fs, e = w.callTag n fs clk i (p.1.d + i)) ∨
    (e.file = .s ∧ ∃ j < 4, e = scFlight w (60 + j) (BitVec.ofNat 32 (w.callWord ret phase j)) clk 4) ∨
    (e.file = .q ∧ e ∈ w.callFaces exm clk) := by
  obtain h | h := List.mem_append.1 h
  · obtain h | h := List.mem_append.1 h
    · obtain ⟨i, hi, p, hp, -, rfl | rfl⟩ := mem_callCopies.1 h
      · exact .inl ⟨rfl, i, hi, p, hp, rfl⟩
      · exact .inr (.inl ⟨rfl, i, hi, p, hp, rfl⟩)
    · obtain ⟨j, hj, rfl⟩ := List.mem_map.1 h
      exact .inr (.inr (.inl ⟨rfl, j, List.mem_range.1 hj, rfl⟩))
  · refine .inr (.inr (.inr ⟨?_, h⟩))
    unfold Wale.callFaces at h
    split at h
    · rw [List.mem_singleton.1 h]
    · cases h

/-- What is pending of a file is decided by the results of that file. -/
theorem pendingVal_callFlights {f : RFile} {r t : Nat} {x : W32}
    (hx : ∀ e ∈ w.callFlights n fs exm clk ret phase, e.file = f → e.covers f r t c = true → e.vals.getD t 0 = x)
    (he : ∃ e ∈ w.callFlights n fs exm clk ret phase, e.covers f r t c = true) (l0 : List InFlight) :
    pendingVal (l0 ++ w.callFlights n fs exm clk ret phase) f r t c = some x :=
  pendingVal_eq (fun e hm hcov => hx e hm (covers_file hcov) hcov) he l0

/-- The results of a CALL in the vector file are its copies. -/
theorem callFlights_v {e : InFlight} (h : e ∈ w.callFlights n fs exm clk ret phase) (hf : e.file = .v) :
    ∃ i < n, ∃ p ∈ fs, e = w.callCopy n fs clk i (p.1.d + i) := by
  obtain ⟨-, h⟩ | ⟨hf', -⟩ | ⟨hf', -⟩ | ⟨hf', -⟩ := callFlights_cases h
  · exact h
  all_goals cases hf.symm.trans hf'

/-- Its results among the tags are those of the copies. -/
theorem callFlights_tag {e : InFlight} (h : e ∈ w.callFlights n fs exm clk ret phase) (hf : e.file = .tag) :
    ∃ i < n, ∃ p ∈ fs, e = w.callTag n fs clk i (p.1.d + i) := by
  obtain ⟨hf', -⟩ | ⟨-, h⟩ | ⟨hf', -⟩ | ⟨hf', -⟩ := callFlights_cases h
  case inr.inl => exact h
  all_goals cases hf.symm.trans hf'

/-- Its scalar results are the return record. -/
theorem callFlights_s {e : InFlight} (h : e ∈ w.callFlights n fs exm clk ret phase) (hf : e.file = .s) :
    ∃ j < 4, e = scFlight w (60 + j) (BitVec.ofNat 32 (w.callWord ret phase j)) clk 4 := by
  obtain ⟨hf', -⟩ | ⟨hf', -⟩ | ⟨-, h⟩ | ⟨hf', -⟩ := callFlights_cases h
  case inr.inr.inl => exact h
  all_goals cases hf.symm.trans hf'

/-- Its predicate results are the faces. -/
theorem callFlights_q {e : InFlight} (h : e ∈ w.callFlights n fs exm clk ret phase) (hf : e.file = .q) :
    e ∈ w.callFaces exm clk := by
  obtain ⟨hf', -⟩ | ⟨hf', -⟩ | ⟨hf', -⟩ | ⟨-, h⟩ := callFlights_cases h
  case inr.inr.inr => exact h
  all_goals cases hf.symm.trans hf'

theorem mem_callFlights_of_copies {e : InFlight} (h : e ∈ w.callCopies n fs clk) : e ∈ w.callFlights n fs exm clk ret phase :=
  List.mem_append_left _ (List.mem_append_left _ h)

/-- The argument of each thread is pending in its register. -/
theorem pendingVal_callFlights_v {p : CallFace × Mask} {i t : Nat} (hfs : Apart fs) (hp : p ∈ fs) (hi : i < n) (ht : t < 32)
    (hm : p.2.getLsbD t = true) (hc : clk + 4 * n + 4 ≤ c) (l0 : List InFlight) :
    pendingVal (l0 ++ w.callFlights n fs exm clk ret phase) .v (p.1.d + i) t c = some (w.vAt (p.1.a + i) t (clk + t / 8)) := by
  refine pendingVal_callFlights (fun e he hf hcov => ?_) ⟨w.callCopy n fs clk i (p.1.d + i), mem_callFlights_of_copies
    (mem_callCopies.2 ⟨i, hi, p, hp, ne_zero_of_getLsbD hm, .inl rfl⟩), callCopy_covers_iff.2 ⟨rfl, ⟨p, hp, rfl, hm⟩, by omega⟩⟩ l0
  obtain ⟨j, hj, q, -, rfl⟩ := callFlights_v he hf
  obtain ⟨hr, ⟨q', hq', hqr, hqm⟩, -⟩ := callCopy_covers_iff.1 hcov
  have hqp : q'.1 = p.1 := hfs p hp q' hq' t hm hqm
  obtain rfl : j = i := Nat.add_left_cancel ((hqp ▸ hqr).trans hr)
  rw [hr]
  exact callCopy_val hfs hp ht hm

/-- The tag of an argument is pending with its register. -/
theorem pendingVal_callFlights_tag {p : CallFace × Mask} {i : Nat} (hfs : SameTags w n fs clk) (hp : p ∈ fs) (hi : i < n)
    (hm : p.2 ≠ 0) (hone : ∀ q ∈ fs, ∀ j < n, q.1.d + j = p.1.d + i → j = i) (hc : clk + 4 * n + 4 ≤ c) (l0 : List InFlight) :
    pendingVal (l0 ++ w.callFlights n fs exm clk ret phase) .tag (p.1.d + i) 0 c =
      some (BitVec.ofNat 32 (w.tagAt (p.1.a + i) clk).code) := by
  refine pendingVal_callFlights (fun e he hf hcov => ?_) ⟨w.callTag n fs clk i (p.1.d + i), mem_callFlights_of_copies
    (mem_callCopies.2 ⟨i, hi, p, hp, hm, .inr rfl⟩), callTag_covers_iff.2 ⟨rfl, by omega⟩⟩ l0
  obtain ⟨j, hj, q, hq, rfl⟩ := callFlights_tag he hf
  obtain ⟨hr, -⟩ := callTag_covers_iff.1 hcov
  obtain rfl := hone q hq j hj hr
  rw [hr]
  exact callTag_val hfs hp hi

/-- The words of the return record are pending in s60 to s63. -/
theorem pendingVal_callFlights_s {j : Nat} (hj : j < 4) (hc : clk + 4 ≤ c) (l0 : List InFlight) :
    pendingVal (l0 ++ w.callFlights n fs exm clk ret phase) .s (60 + j) 0 c = some (BitVec.ofNat 32 (w.callWord ret phase j)) := by
  refine pendingVal_callFlights (fun e he hf hcov => ?_) ⟨scFlight w (60 + j) (BitVec.ofNat 32 (w.callWord ret phase j)) clk 4,
    List.mem_append_left _ (List.mem_append_right _ (List.mem_map.2 ⟨j, List.mem_range.2 hj, rfl⟩)),
    scFlight_covers_iff.2 ⟨rfl, rfl, hc⟩⟩ l0
  obtain ⟨k, -, rfl⟩ := callFlights_s he hf
  obtain ⟨hr, -, -⟩ := scFlight_covers_iff.1 hcov
  obtain rfl : k = j := Nat.add_left_cancel hr
  rfl

/-- The face of each of the callee's threads is pending in q7. -/
theorem pendingVal_callFlights_q {e : MeldEntry} {t : Nat} (he : w.region = some e) (ht : t < 32) (hm : exm.getLsbD t = true)
    (hc : clk + 1 + t / 8 ≤ c) (l0 : List InFlight) :
    pendingVal (l0 ++ w.callFlights n fs exm clk ret phase) .q 7 t c = some (boolWord (e.fa.getLsbD t)) := by
  obtain ⟨x, hx, hcov, hv⟩ := callFaces_covers he ht hm hc
  refine pendingVal_callFlights (fun e' he' hf _ => ?_) ⟨x, List.mem_append_right _ (hx ▸ List.mem_singleton_self x), hcov⟩ l0
  have hmem := callFlights_q he' hf
  rw [hx, List.mem_singleton] at hmem
  rw [hmem, hv]

end Pending

/-! ### CALL completes (R145, R146) -/

/-- A CALL that runs for the faces `fs` leaves what R145 says. -/
theorem goes_call {s : State} {w : Wale} {c : CallForm} {fs : List (CallFace × Mask)} {exm : Mask} {ret phase target : Nat}
    (h : CallReady s w c fs exm target) (he : exec (.call c) s = s.callTo w c fs exm ret phase target) (hfs : Apart fs)
    (hc : ∀ p ∈ fs, p.1 = c.fa ∨ c.fb = some p.1) (hphase : phase ≤ 1) :
    Goes (.call c) s (Called s w c fs exm ret phase target) := by
  have hready := h
  obtain ⟨hcur, -, -, -, -, -, htag, -⟩ := h
  have htags : SameTags w c.n fs s.clk := by
    have hone (p) (hp : p ∈ fs) (i) (hi : i < c.n) : w.tagAt (c.fa.a + i) s.clk = w.tagAt (p.1.a + i) s.clk := by
      obtain hpa | hpb := hc p hp
      · rw [hpa]
      · exact htag p.1 hpb i hi
    exact fun p hp q hq i hi => (hone q hq i hi).symm.trans (hone p hp i hi)
  refine goes_held hcur (he.trans (callTo_eq hready)) rfl fun ho => ⟨⟨rfl, rfl, rfl⟩, rfl, rfl, rfl, rfl, ho, ?_, ?_, ?_⟩
  · intro clk hclk
    have hs {j : Nat} (hj : j < 4) : Wale.sAt (w.afterCall c.n fs exm s.clk ret phase target) (60 + j) clk =
        BitVec.ofNat 32 (w.callWord ret phase j) := sAt_of_pending (pendingVal_callFlights_s hj hclk w.inflight)
    refine ⟨?_, hs (j := 1) (by decide), ?_, hs (j := 3) (by decide)⟩
    · rw [hs (j := 0) (by decide), BitVec.toNat_ofNat]
      exact Nat.mod_eq_of_lt (by simp only [Wale.callWord]; omega)
    · rw [hs (j := 2) (by decide), BitVec.toNat_ofNat]
      exact Nat.mod_eq_of_lt (Nat.mod_lt _ (by decide))
  · intro p hp i hi clk hclk
    refine ⟨fun th hth hm => vAt_of_pending (pendingVal_callFlights_v hfs hp hi hth hm hclk w.inflight), fun hm hone => ?_⟩
    exact tagAt_of_pending (pendingVal_callFlights_tag htags hp hi hm hone hclk w.inflight)
  · intro e hr th hth hm clk hclk
    rw [qAt_of_pending (pendingVal_callFlights_q hr hth hm hclk w.inflight)]
    cases e.fa.getLsbD th <;> rfl

section Exec
variable {c : CallForm} {s : State} {w : Wale} (h : AtHand s w) (hk : w.kind = .wale)
include h hk

/-- CALL with one operand set runs for its active set. -/
theorem execCall_one (hb : c.fb = none) (hm : w.active c.face ≠ 0) : exec (.call c) s =
    s.callTo w c [(c.fa, w.active c.face)] (w.active c.face) (w.insnPc + w.insnBytes) 0 (w.relTarget c.fa.off) := by
  change s.withCur _ = _
  rw [withCur_eq _ h]
  simp only [hk, hb, beq_eq_false_iff_ne.2 hm, bne_self_eq_false, Bool.false_eq_true, if_false]

/-- CALL with one operand set and no thread checks its target, and has no effect (R77). -/
theorem execCall_empty (hb : c.fb = none) (hm : w.active c.face = 0) :
    (∀ x, s.targetTrap w (w.relTarget c.fa.off) true (w.active c.face) = some x → exec (.call c) s = .next (s.takeTrap w x)) ∧
    (s.targetTrap w (w.relTarget c.fa.off) true (w.active c.face) = none → w.faceOk c.face = true →
      exec (.call c) s = .next (s.issued w 1)) := by
  change (∀ x, _ → s.withCur _ = _) ∧ (_ → _ → s.withCur _ = _)
  rw [withCur_eq _ h]
  simp only [hk, hb, beq_iff_eq.2 hm, bne_self_eq_false, Bool.false_eq_true, if_false, if_true]
  refine ⟨fun x hx => ?_, fun hx hf => ?_⟩
  · rw [hx]
  · rw [hx, hf]
    rfl

variable {fb : CallFace} (hb : c.fb = some fb)
include hb

/-- A CALL that RET has asked for runs for face B alone (R146). -/
theorem execCall_faceB (hl : w.latch = some (.faceB w.insnPc)) : exec (.call c) s =
    s.callTo w c [(fb, w.active .faceB)] (w.active .faceB) (w.insnPc + w.insnBytes) 0 (w.relTarget fb.off) := by
  change s.withCur _ = _
  rw [withCur_eq _ h]
  simp [hk, hb, hl]

/-- A face pair of one target runs for both faces at once. -/
theorem execCall_both (hl : w.latch ≠ some (.faceB w.insnPc)) (ho : c.fa.off = fb.off) : exec (.call c) s =
    s.callTo w c [(c.fa, w.exm &&& w.active .faceA), (fb, maskOf fun t => w.exm.getLsbD t && w.usesB t)] w.exm
      (w.insnPc + w.insnBytes) 0 (w.relTarget c.fa.off) := by
  change s.withCur _ = _
  rw [withCur_eq _ h]
  simp [hk, hb, hl, ho]

/-- A face pair of two targets runs for face A first. -/
theorem execCall_faceA (hl : w.latch ≠ some (.faceB w.insnPc)) (ho : c.fa.off ≠ fb.off) : exec (.call c) s =
    s.callTo w c [(c.fa, w.exm &&& w.active .faceA)] (w.exm &&& w.active .faceA) w.insnPc 1 (w.relTarget c.fa.off) := by
  change s.withCur _ = _
  rw [withCur_eq _ h]
  simp [hk, hb, hl, ho]

end Exec

/-- One face is apart from itself. -/
theorem apart_singleton (p : CallFace × Mask) : Apart [p] := by
  intro a ha b hb t _ _
  rw [List.mem_singleton.1 ha, List.mem_singleton.1 hb]

/-- The threads of face A of a melded region do not use face B (R151). -/
theorem apart_faces (w : Wale) (fa fb : CallFace) :
    Apart [(fa, w.exm &&& w.active .faceA), (fb, maskOf fun t => w.exm.getLsbD t && w.usesB t)] := by
  have hno (t : Nat) (ha : (w.exm &&& w.active .faceA).getLsbD t = true)
      (hb : (maskOf fun t => w.exm.getLsbD t && w.usesB t).getLsbD t = true) : False := by
    simp only [getLsbD_maskOf, BitVec.getLsbD_and, Bool.and_eq_true, Wale.active, Wale.usesB] at ha hb
    cases hr : w.region with
    | none => simp [hr] at hb
    | some e =>
      simp [hr, -BitVec.getLsbD_eq_getElem] at ha hb
      exact Bool.false_ne_true (hb.2.2.symm.trans ha.2)
  intro p hp q hq t hpt hqt
  simp only [List.mem_cons, List.not_mem_nil, or_false] at hp hq
  obtain rfl | rfl := hp <;> obtain rfl | rfl := hq
  · rfl
  · exact (hno t hpt hqt).elim
  · exact (hno t hqt hpt).elim
  · rfl

/-- Each form of CALL runs for its faces, of which no thread has two. -/
theorem callCompletes : CallCompletes := by
  intro c s w next m calls
  refine ⟨fun hb hm hr => ?_, fun h hk hb hm => execCall_empty h hk hb hm, fun fb hb => ⟨fun hl hr => ?_, fun hl ho hr => ?_,
    fun hl ho hr => ?_⟩⟩
  · obtain ⟨h, hk, -⟩ := id hr
    exact goes_call hr (execCall_one h hk hb hm) (apart_singleton _) (by simp) (by decide)
  · obtain ⟨h, hk, -⟩ := id hr
    exact goes_call hr (execCall_faceB h hk hb hl) (apart_singleton _) (by simp [hb]) (by decide)
  · obtain ⟨h, hk, -⟩ := id hr
    exact goes_call hr (execCall_both h hk hb hl ho) (apart_faces w c.fa fb) (by simp [hb]) (by decide)
  · obtain ⟨h, hk, -⟩ := id hr
    exact goes_call hr (execCall_faceA h hk hb hl ho) (apart_singleton _) (by simp) (by decide)

/-- Settles O15: each operation is one issue that replaces its wale, whose fields are read off, and the results that CALL
leaves pending are told apart by their files. -/
theorem jumpsAndCalls : Obligations.JumpsAndCalls := ⟨jumps, callCompletes, retCompletes, exitNopYield⟩

end Sys2Proof.Machine
end

section
/-!
PROOF. POPC, CLZ and BREV: what they count, the forms they have, and the elements they write (O6).
-/
namespace Sys2Proof.Machine
open Claims

/-! ### The counts and the reversal (R105) -/

theorem popc32_le (v : W32) : popc32 v ≤ 32 := (List.length_filter_le ..).trans_eq List.length_range

/-- The highest 1 bit of a word that is not zero lies in it. -/
theorem log2_toNat_lt {v : W32} (hv : v ≠ 0) : v.toNat.log2 < 32 :=
  (Nat.log2_lt fun h => hv (BitVec.eq_of_toNat_eq h)).2 v.isLt

/-- CLZ counts the bits from 31 down to the one above bit `log2`, the highest 1 bit. -/
theorem clz32_of_ne_zero {v : W32} (hv : v ≠ 0) : clz32 v = 31 - v.toNat.log2 := by
  rw [clz32, if_neg (by simpa using hv)]

theorem clz32_eq_iff (v : W32) : clz32 v = 32 ↔ v = 0 := by
  refine ⟨fun h => by_contra fun hv => ?_, fun h => by rw [h]; rfl⟩
  rw [clz32_of_ne_zero hv] at h
  omega

/-- The bit under the zeros that CLZ counts is 1. -/
theorem getLsbD_clz32 {v : W32} (hv : v ≠ 0) : v.getLsbD (31 - clz32 v) = true := by
  have hlt := log2_toNat_lt hv
  rw [clz32_of_ne_zero hv, show 31 - (31 - v.toNat.log2) = v.toNat.log2 by omega]
  exact Nat.testBit_log2 fun h => hv (BitVec.eq_of_toNat_eq h)

/-- No 1 bit lies among the zeros that CLZ counts. -/
theorem clz32_le_of_getLsbD {v : W32} {i : Nat} (h : v.getLsbD i = true) : clz32 v ≤ 31 - i := by
  have hpow : 2 ^ i ≤ v.toNat := Nat.ge_two_pow_of_testBit h
  have hv : v.toNat ≠ 0 := Nat.pos_iff_ne_zero.1 ((Nat.two_pow_pos i).trans_le hpow)
  have hi : i ≤ v.toNat.log2 := (Nat.le_log2 hv).2 hpow
  rw [clz32_of_ne_zero fun h0 => hv (by rw [h0]; rfl)]
  omega

theorem getLsbD_brev32 {v : W32} {i : Nat} (hi : i < 32) : (brev32 v).getLsbD i = v.getLsbD (31 - i) := by
  rw [brev32, getLsbD_maskOf, decide_eq_true hi, Bool.true_and]

/-! ### The form of a one-source integer operation -/

/-- An operation without B, C, immediate form or MOVI's word has neither B nor C. -/
theorem bc_eq_none_of_wfOpnds {sp : OpSpec} {ty : Ty} {o : Opnds} (hb : sp.b = .none) (hc : sp.c = .none) (hi : sp.im = .no)
    (hx : sp.cross ≠ .movi) (h : wfOpnds sp ty o = true) : o.b = .none ∧ o.c = .none := by
  have hplain : o.b.plain = true := by
    cases hob : o.b with
    | imm v => simp [wfOpnds, hob, wfImm, hi] at h
    | w32 v => simp [wfOpnds, hob, hx] at h
    | _ => rfl
  have hreg := ((wfOpnds_plain hplain).1.1 h).1
  simp only [wfReg, hb, hc, Bool.and_eq_true] at hreg
  obtain ⟨⟨⟨-, hwb⟩, hwc⟩, -⟩ := hreg
  exact ⟨Src.eq_none_of_wf hwb, Src.eq_none_of_wf hwc⟩

/-- POPC, CLZ and BREV carry TYPE RAW, i32 or n32, and neither B nor C (R105). -/
theorem form_of_wf_bitCount {g : G} {i : Instr} (hi : i ∈ [Instr.popc g, .clz g, .brev g]) (hwf : i.wf = true) :
    (g.ty = .raw ∨ g.ty = .i32 ∨ g.ty = .n32) ∧ g.fa.b = .none ∧ g.fa.c = .none := by
  have hg : g.wf (intOp .any .none .none [.raw, .i32, .n32] [] .no) = true := by
    simp only [List.mem_cons, List.not_mem_nil, or_false] at hi
    obtain rfl | rfl | rfl := hi <;> exact hwf
  simp only [G.wf, Bool.and_eq_true, decide_eq_true_eq] at hg
  obtain ⟨⟨⟨hty, -⟩, hfa⟩, -⟩ := hg
  exact ⟨by simpa [intOp] using hty, bc_eq_none_of_wfOpnds rfl rfl rfl (by decide) hfa⟩

/-! ### The results of the beats -/

/-- One beat of an operation on what the threads before it have left. -/
def VOp.beat (op : VOp) (w : Wale) (g : G) (c : Nat) (acc : List (Nat × ERes) × NMap W32) (t : Nat) :
    List (Nat × ERes) × NMap W32 :=
  if (w.active g.face).getLsbD t then
    let r := op.run w g t c (seedOf acc.2 t)
    (acc.1 ++ [(t, r)], mSet 0 acc.2 (t % 8) r.seed)
  else acc

theorem runAll_eq_foldl_beat (op : VOp) (w : Wale) (g : G) (c : Nat) :
    op.runAll w g c = threads.foldl (op.beat w g c) ([], w.seeds) := rfl

/-- Every result of the beats of a list of threads is its thread's, and each active thread of the list has one. -/
theorem beats_results (op : VOp) (w : Wale) (g : G) (c : Nat) (l : List Nat) (seeds : NMap W32) :
    (∀ p ∈ (l.foldl (op.beat w g c) ([], seeds)).1, ∃ seed, p.2 = op.run w g p.1 c seed) ∧
    ∀ t ∈ l, (w.active g.face).getLsbD t = true → ∃ p ∈ (l.foldl (op.beat w g c) ([], seeds)).1, p.1 = t := by
  induction l using List.reverseRecOn with
  | nil => simp
  | append_singleton l u ih =>
    obtain ⟨hres, hall⟩ := ih
    rw [List.foldl_append, List.foldl_cons, List.foldl_nil, VOp.beat]
    generalize l.foldl (op.beat w g c) ([], seeds) = acc at hres hall ⊢
    split
    · refine ⟨fun p hp => ?_, fun t ht ha => ?_⟩
      · rcases List.mem_append.1 hp with hp | hp
        · exact hres p hp
        · rw [List.mem_singleton.1 hp]
          exact ⟨_, rfl⟩
      · rcases List.mem_append.1 ht with ht | ht
        · obtain ⟨p, hp, hpt⟩ := hall t ht ha
          exact ⟨p, List.mem_append_left _ hp, hpt⟩
        · exact ⟨_, List.mem_append_right _ (List.mem_singleton_self _), (List.mem_singleton.1 ht).symm⟩
    · next hu =>
      refine ⟨hres, fun t ht ha => hall t ?_ ha⟩
      rcases List.mem_append.1 ht with ht | ht
      · exact ht
      · exact absurd (List.mem_singleton.1 ht ▸ ha) hu

/-- The words of an active thread are those that its operation yields, from some seed of its lane. -/
theorem resWord_runAll {op : VOp} {w : Wale} {g : G} {c t : Nat} (ht : t < 32) (ha : (w.active g.face).getLsbD t = true) (j : Nat) :
    ∃ seed, resWord (op.runAll w g c).1 t j = (op.run w g t c seed).vals.getD j 0 := by
  obtain ⟨hres, hall⟩ := beats_results op w g c threads w.seeds
  rw [← runAll_eq_foldl_beat] at hres hall
  obtain ⟨p, hp, hpt⟩ := hall t (List.mem_range.2 ht) ha
  cases hf : (op.runAll w g c).1.find? fun p => p.1 == t with
  | none => exact absurd (List.find?_eq_none.1 hf p hp) (by simp [hpt])
  | some q =>
    obtain ⟨seed, hq⟩ := hres q (List.mem_of_find?_eq_some hf)
    have hqt : q.1 = t := by simpa using List.find?_some hf
    refine ⟨seed, ?_⟩
    simp only [resWord, hf]
    rw [hq, hqt]

/-- A vector operation on vector registers that is ready writes each active thread's words, and its tag (R25, R28). -/
theorem goes_vectorOps {i : Instr} {op : VOp} {g : G} {s : State} {w : Wale} {t j r clk : Nat} (hi : (i, op) ∈ vectorOps g)
    (h : VecReady s w g op) (hf : op.file = .v) (hw : Writes w g s.clk t r) (hj : j < op.outs)
    (hv : s.clk + op.lat - op.occ + 4 + op.occ / 4 * (t / 8) ≤ clk) (ht : s.clk + op.occ ≤ clk) :
    Goes i s fun _ v => v.vAt (r + j) t clk = resWord (op.runAll w g s.clk).1 t j ∧ v.tagAt (r + j) clk = op.tag :=
  ⟨_, _, (exec_vectorOps g s _ hi).trans (vector_done h), wale?_vecDone h.1,
    vAt_of_pending (hf ▸ pendingVal_flights (by simp [hf]) hw hj hv w.inflight),
    tagAt_of_pending (pendingVal_flights_tag hf hw hj ht w.inflight)⟩

/-- A one-source operation on images writes its function of A, tagged TYPE. -/
theorem goes_imgOp {i : Instr} {g : G} {s : State} {w : Wale} {f : W32 → W32} {t r clk : Nat}
    (hi : (i, imgOp g.ty (sameTag g.ty) fun _ a _ _ => f a) ∈ vectorOps g)
    (h : VecReady s w g (imgOp g.ty (sameTag g.ty) fun _ a _ _ => f a)) (hb : g.fb = none) (hd : g.fa.d = .vec r) (ht : t < 32)
    (ha : (w.active g.face).getLsbD t = true) (hc : s.clk + 8 + t / 8 ≤ clk) :
    Goes i s fun _ v => v.vAt r t clk = f ((w.srcAt g.ty g.fa.a false t s.clk (s.clk + t / 8)).truncate 32) ∧
      v.tagAt r clk = g.ty := by
  have ho : w.opnds g t = g.fa := by rw [Wale.opnds, hb]
  have hw : Writes w g s.clk t r := ⟨ht, ha, by rw [ho, hd]; rfl⟩
  obtain ⟨u, v, he, hv, hval, htag⟩ := goes_vectorOps (j := 0) (clk := clk) hi h rfl hw Nat.one_pos
    (by simp only [imgOp]; omega) (by simp only [imgOp]; omega)
  refine ⟨u, v, he, hv, ?_, htag⟩
  obtain ⟨seed, hs⟩ := resWord_runAll (op := imgOp g.ty (sameTag g.ty) fun _ a _ _ => f a) (c := s.clk) ht ha 0
  refine (hval.trans hs).trans ?_
  rw [VOp.run, ho]
  simp [imgOp]

/-- Settles O6: the counts are read off the highest 1 bit, and the three operations share one form and one effect. -/
theorem bitCounts : Obligations.BitCounts := by
  unfold Obligations.BitCounts
  refine ⟨fun v => ⟨rfl, popc32_le v, clz32_eq_iff v, getLsbD_clz32, fun i hi => ⟨clz32_le_of_getLsbD, getLsbD_brev32 hi⟩⟩,
    fun g i => form_of_wf_bitCount, fun g s w t r clk p hp h hb hd ht ha hc => ?_⟩
  simp only [List.mem_cons, List.not_mem_nil, or_false] at hp
  obtain rfl | rfl | rfl := hp
  · exact goes_imgOp (by simp [vectorOps, intOps]) h hb hd ht ha hc
  · exact goes_imgOp (by simp [vectorOps, intOps]) h hb hd ht ha hc
  · exact goes_imgOp (by simp [vectorOps, intOps]) h hb hd ht ha hc

end Sys2Proof.Machine
end

section
/-!
PROOF. The bits of shifts and bit fields (O7).
-/
namespace Sys2Proof.Machine
open Claims

/-! ### Shifts (R104) -/

section Shift
variable {w a n i : Nat}

/-- A pattern has no bit at or above its width. -/
theorem testBit_eq_false_of_le (ha : a < 2 ^ w) (hi : w ≤ i) : a.testBit i = false :=
  Nat.testBit_lt_two_pow (ha.trans_le (Nat.pow_le_pow_right (by decide) hi))

theorem testBit_shlN (hi : i < w) : (shlN w a n).testBit i = (decide (n ≤ i) && a.testBit (i - n)) := by
  rw [shlN]
  split
  · next hn => rw [Nat.zero_testBit, decide_eq_false (by omega), Bool.false_and]
  · rw [Nat.testBit_mod_two_pow, decide_eq_true hi, Bool.true_and, Nat.testBit_mul_two_pow]

theorem testBit_shrN (ha : a < 2 ^ w) : (shrN w a n).testBit i = (decide (i + n < w) && a.testBit (i + n)) := by
  rw [shrN]
  by_cases hin : i + n < w
  · rw [if_neg (by omega), Nat.testBit_div_two_pow, decide_eq_true hin, Bool.true_and]
  · rw [decide_eq_false hin, Bool.false_and]
    split
    · exact Nat.zero_testBit i
    · rw [Nat.testBit_div_two_pow, testBit_eq_false_of_le ha (by omega)]

/-- The top bit of a pattern says whether it lies in the upper half. -/
theorem testBit_top (hw : 0 < w) (ha : a < 2 ^ w) : a.testBit (w - 1) = decide (2 ^ (w - 1) ≤ a) := by
  by_cases h : 2 ^ (w - 1) ≤ a
  · rw [decide_eq_true h]
    exact Nat.testBit_of_two_pow_le_and_two_pow_add_one_gt h (by rwa [Nat.sub_add_cancel hw])
  · rw [decide_eq_false h]
    exact Nat.testBit_lt_two_pow (Nat.not_le.1 h)

/-- A right shift of a pattern in the upper half keeps its top `w − n` bits, with n ones above them. -/
theorem sarN_of_upper (hn : n < w) (ha : 2 ^ (w - 1) ≤ a) : sarN w a n = 2 ^ (w - n) * (2 ^ n - 1) + a / 2 ^ n := by
  rw [sarN, if_neg (Nat.not_lt.2 ha), if_neg (Nat.not_le.2 hn), Nat.mul_sub, ← Nat.pow_add, Nat.sub_add_cancel hn.le, Nat.mul_one,
    Nat.add_comm]

theorem div_two_pow_lt (hn : n ≤ w) (ha : a < 2 ^ w) : a / 2 ^ n < 2 ^ (w - n) :=
  Nat.div_lt_of_lt_mul (by rwa [← Nat.pow_add, Nat.add_sub_cancel' hn])

theorem testBit_sarN (hw : 0 < w) (ha : a < 2 ^ w) (hi : i < w) :
    (sarN w a n).testBit i = if i + n < w then a.testBit (i + n) else a.testBit (w - 1) := by
  rw [testBit_top hw ha]
  by_cases htop : 2 ^ (w - 1) ≤ a
  · rw [decide_eq_true htop]
    by_cases hn : n < w
    · rw [sarN_of_upper hn htop, Nat.testBit_two_pow_mul_add _ (div_two_pow_lt hn.le ha)]
      by_cases hin : i + n < w
      · rw [if_pos hin, if_pos (by omega), Nat.testBit_div_two_pow]
      · rw [if_neg hin, if_neg (by omega), Nat.testBit_two_pow_sub_one, decide_eq_true (by omega)]
    · rw [sarN, if_neg (Nat.not_lt.2 htop), if_pos (Nat.not_lt.1 hn), if_neg (by omega), Nat.testBit_two_pow_sub_one, decide_eq_true hi]
  · rw [sarN, if_pos (Nat.not_le.1 htop), testBit_shrN ha, decide_eq_false htop]
    by_cases hin : i + n < w <;> simp [hin]

theorem shlN_lt : shlN w a n < 2 ^ w := by
  rw [shlN]
  split
  · exact Nat.two_pow_pos w
  · exact Nat.mod_lt _ (Nat.two_pow_pos w)

theorem shrN_lt (ha : a < 2 ^ w) : shrN w a n < 2 ^ w := by
  rw [shrN]
  split
  · exact Nat.two_pow_pos w
  · exact (Nat.div_le_self ..).trans_lt ha

theorem sarN_lt (ha : a < 2 ^ w) : sarN w a n < 2 ^ w := by
  rw [sarN]
  split
  · exact shrN_lt ha
  · split
    · exact Nat.sub_lt (Nat.two_pow_pos w) Nat.one_pos
    · next hn =>
      have hq := div_two_pow_lt (Nat.not_le.1 hn).le ha
      have hle : 2 ^ (w - n) ≤ 2 ^ w := Nat.pow_le_pow_right (by decide) (Nat.sub_le ..)
      omega

end Shift

theorem shiftBits : ShiftBits := fun _ _ _ _ hw ha hi =>
  ⟨testBit_shlN hi, testBit_shrN ha, testBit_sarN hw ha hi, shlN_lt, shrN_lt ha, sarN_lt ha⟩

/-! ### Bit fields (R106) -/

/-- A signed reading is that of the low bits as a two's complement word. -/
theorem ofInt_readInt_signed (w v x : Nat) : BitVec.ofInt v (readInt w true x) = (BitVec.ofNat w x).signExtend v := by
  rw [BitVec.signExtend, BitVec.toInt_eq_msb_cond, BitVec.msb_eq_decide, BitVec.toNat_ofNat, readInt]
  simp

/-- An unsigned reading is that of the low bits. -/
theorem ofInt_readInt_unsigned (w v x : Nat) : BitVec.ofInt v (readInt w false x) = BitVec.ofNat v (x % 2 ^ w) :=
  BitVec.ofInt_natCast ..

/-- A reading of `w` bits has them in its low bits, and above them zeros or, when it is signed, the highest of them. -/
theorem getLsbD_ofInt_readInt {w : Nat} (hw : 0 < w) (sg : Bool) {v i : Nat} (hi : i < v) (x : Nat) :
    (BitVec.ofInt v (readInt w sg x)).getLsbD i = if i < w then x.testBit i else sg && x.testBit (w - 1) := by
  cases sg with
  | true =>
    rw [ofInt_readInt_signed, BitVec.getLsbD_signExtend, BitVec.msb_eq_getLsbD_last, BitVec.getLsbD_ofNat, BitVec.getLsbD_ofNat,
      decide_eq_true hi, decide_eq_true (Nat.sub_one_lt_of_lt hw)]
    by_cases h : i < w <;> simp [h]
  | false =>
    rw [ofInt_readInt_unsigned, BitVec.getLsbD_ofNat, Nat.testBit_mod_two_pow, decide_eq_true hi]
    by_cases h : i < w <;> simp [h]

/-- BFX reads the field from `b` up to `e`, the bit above its last. -/
theorem getLsbD_bfx32 (sg : Bool) (a b c : W32) {i : Nat} (hi : i < 32) : (bfx32 sg a b c).getLsbD i =
    if c = 0 ∨ 32 ≤ b.toNat then false
    else if b.toNat + i < min (b.toNat + c.toNat) 32 then a.getLsbD (b.toNat + i)
    else sg && a.getLsbD (min (b.toNat + c.toNat) 32 - 1) := by
  by_cases h : c = 0 ∨ 32 ≤ b.toNat
  · have hz : bfx32 sg a b c = 0 := if_pos (by simpa using h)
    rw [if_pos h, hz]
    exact BitVec.getLsbD_zero
  · have hf : bfx32 sg a b c = BitVec.ofInt 32 (readInt (min (b.toNat + c.toNat) 32 - b.toNat) sg (a.toNat / 2 ^ b.toNat)) :=
      if_neg (by simpa using h)
    have hbe : b.toNat < min (b.toNat + c.toNat) 32 := by
      have hc : c.toNat ≠ 0 := fun h0 => h (.inl (BitVec.eq_of_toNat_eq h0))
      omega
    rw [if_neg h, hf]
    generalize min (b.toNat + c.toNat) 32 = e at hbe ⊢
    rw [getLsbD_ofInt_readInt (by omega) sg hi, Nat.testBit_div_two_pow, Nat.testBit_div_two_pow, Nat.add_comm i,
      show e - b.toNat - 1 + b.toNat = e - 1 by omega]
    by_cases hie : b.toNat + i < e
    · rw [if_pos hie, if_pos (by omega)]; rfl
    · rw [if_neg hie, if_neg (by omega)]; rfl

/-- Taking one digit's place out of a sum and putting another in. -/
theorem sub_mul_add_mul_digit (p q m l x : Nat) : p * (q + m) + l - m * p + x * p = p * (q + x) + l := by
  rw [Nat.mul_add, Nat.mul_add, Nat.mul_comm m, Nat.mul_comm x]
  omega

/-- Replacing the `n` bits at `off` of a pattern. -/
theorem testBit_replace {x n : Nat} (hx : x < 2 ^ n) (a off i : Nat) :
    (a - a / 2 ^ off % 2 ^ n * 2 ^ off + x * 2 ^ off).testBit i =
      if off ≤ i ∧ i < off + n then x.testBit (i - off) else a.testBit i := by
  have hlow : a % 2 ^ off < 2 ^ off := Nat.mod_lt _ (Nat.two_pow_pos off)
  have ha : 2 ^ off * (2 ^ n * (a / 2 ^ off / 2 ^ n) + a / 2 ^ off % 2 ^ n) + a % 2 ^ off = a := by
    rw [Nat.div_add_mod, Nat.div_add_mod]
  have hr : a - a / 2 ^ off % 2 ^ n * 2 ^ off + x * 2 ^ off = 2 ^ off * (2 ^ n * (a / 2 ^ off / 2 ^ n) + x) + a % 2 ^ off := by
    rw [← sub_mul_add_mul_digit (m := a / 2 ^ off % 2 ^ n), ha]
  rw [hr, Nat.testBit_two_pow_mul_add _ hlow, Nat.testBit_two_pow_mul_add _ hx]
  by_cases hi : i < off
  · rw [if_pos hi, if_neg (by omega), Nat.testBit_mod_two_pow, decide_eq_true hi, Bool.true_and]
  · rw [if_neg hi]
    by_cases hin : i - off < n
    · rw [if_pos hin, if_pos (by omega)]
    · rw [if_neg hin, if_neg (by omega), Nat.testBit_div_two_pow, Nat.testBit_div_two_pow]
      congr 1
      omega

/-- BFI replaces the field from its offset up to `e`, the bit above its last. -/
theorem getLsbD_bfi32 (a b c : W32) {i : Nat} (hi : i < 32) : (bfi32 a b c).getLsbD i =
    if c.toNat % 256 ≤ i ∧ i < min (c.toNat % 256 + c.toNat / 256 % 256) 32 then b.getLsbD (i - c.toNat % 256) else a.getLsbD i := by
  unfold bfi32
  generalize c.toNat % 256 = off
  generalize c.toNat / 256 % 256 = wid
  by_cases h : wid = 0 ∨ off ≥ 32
  · rw [if_pos h, if_neg (by omega)]
  · have hx : b.toNat % 2 ^ (min (off + wid) 32 - off) < 2 ^ (min (off + wid) 32 - off) := Nat.mod_lt _ (Nat.two_pow_pos _)
    rw [if_neg h]
    simp only [BitVec.getLsbD_ofNat, testBit_replace hx, decide_eq_true hi, Bool.true_and]
    by_cases hf : off ≤ i ∧ i < min (off + wid) 32
    · rw [if_pos hf, if_pos (by omega), Nat.testBit_mod_two_pow, decide_eq_true (by omega), Bool.true_and]; rfl
    · rw [if_neg hf, if_neg (by omega)]; rfl

theorem bitFields : BitFields := fun sg a b c _ hi => ⟨getLsbD_bfx32 sg a b c hi, getLsbD_bfi32 a b c hi⟩

/-- Settles O7: each shift and field is a quotient, a product or a replacement by powers of two, read bit by bit. -/
theorem shiftAndFieldBits : Obligations.ShiftAndFieldBits := ⟨shiftBits, bitFields⟩

end Sys2Proof.Machine
end

section
/-!
PROOF. MOVVS, SRDS, EXMRD and TAGGET, EXMWR and TAGSET: what each reads, writes and leaves (O10).
-/
namespace Sys2Proof.Machine
open Claims

/-! ### Scalars written by a read (R111, R114 to R116) -/

/-- What an instruction that writes scalar `n` with a word that reads from 4 clk after issue on does, and leaves. -/
def ScalarReads (i : Instr) (s : State) (w : Wale) (n : Nat) (x : W32) : Prop :=
  Goes i s fun t v =>
    (∀ clk, s.clk + 4 ≤ clk → v.sAt n clk = x) ∧ (∀ m clk, m ≠ n → v.sAt m clk = w.sAt m clk) ∧
    (∀ q th clk, v.vAt q th clk = w.vAt q th clk) ∧ SameControl w v ∧ OnlyWale s t

section Reads
variable {i : Instr} {s : State} {w : Wale} {g : G} {n r : Nat} {x : W32}

/-- A scalar operation that is ready, and has one scalar result, reads its word into that scalar (R101). -/
theorem scalarReads_of_scalar {face : Face} {uses : Wale → List Use} {trap late : Wale → Option TrapReq} {res : Wale → List InFlight}
    (he : exec i s = s.scalar face uses trap res late) (h : ScalarReady s w face (uses w)) (ht : trap w = none) (hl : late w = none)
    (hres : res w = [scFlight w n x s.clk 4]) : ScalarReads i s w n x := by
  have hcur : AtHand s w := h.1
  refine ⟨_, w.afterScalar s.clk (scFlight w n x s.clk 4), ?_, wale?_issueWith_cur hcur rfl rfl _ 1 0, fun clk hc => sAt_afterScalar hc,
    fun m clk hm => sAt_afterScalar_other (.inl hm),
    fun q th clk => vAt_congr rfl (pendingVal_afterScalar (scFlight_covers_other (by decide) ..)),
    ⟨rfl, rfl, rfl, rfl, rfl, rfl, rfl, rfl, rfl, rfl, rfl⟩, onlyWale_issueWith (wale?_id hcur) _ 1 0⟩
  rw [he, scalar_done h ht hl, hres]

/-- A scalar operation of a wale with vector registers may name those of its working set (R19, R22). -/
theorem vecOfScalar_eq_none {rs : List Nat} (face : Face) (hk : w.kind = .wale) (hr : ∀ r ∈ rs, w.inSet r = true) :
    w.vecOfScalar face rs = none := by
  have hmiss : (rs.any fun r => !w.inSet r) = false := List.any_eq_false.2 fun r hm => by rw [hr r hm]; decide
  rw [Wale.vecOfScalar, hk, hmiss]
  rfl

/-- EXMRD reads EXM (R115). -/
theorem scalarReads_exmrd (h : ScalarReady s w g.face []) (hd : g.fa.d = .sc n) : ScalarReads (.exmrd g) s w n w.exm :=
  have he : exec (.exmrd g) s = s.scalar g.face (fun _ => []) (fun _ => none) fun w => [scFlight w (scOf g.fa.d) w.exm s.clk 4] := rfl
  scalarReads_of_scalar he h rfl rfl (by rw [hd, scOf])

/-- In a handler, or for a register that is always readable, SRDS is a scalar operation (R114). -/
theorem execSrds_allowed {c k : Nat} (h : AtHand s w) (ha : g.fa.a = .lit c) (hb : g.fa.b = .lit k)
    (hc : 0x10 ≤ c → w.trap.isSome = true) : exec (.srds g) s = s.scalar g.face (fun _ => []) (fun _ => none) fun w =>
      [scFlight w (scOf g.fa.d) (s.srWord w c k 0) s.clk 4] := by
  have hp : (srTrap c && w.trap.isNone) = false := by
    rw [Bool.and_eq_false_imp]
    intro hs
    simpa using hc (of_decide_eq_true hs)
  change execSrds g s = _
  rw [execSrds, withCur_eq _ h, ha, hb]
  simp only [litOf, hp]
  rfl

/-- SRDS reads the special register's word (R114). -/
theorem scalarReads_srds {c k : Nat} (h : ScalarReady s w g.face []) (hd : g.fa.d = .sc n) (ha : g.fa.a = .lit c) (hb : g.fa.b = .lit k)
    (hc : 0x10 ≤ c → w.trap.isSome = true) : ScalarReads (.srds g) s w n (s.srWord w c k 0) :=
  scalarReads_of_scalar (execSrds_allowed h.1 ha hb hc) h rfl rfl (by rw [hd, scOf])

/-- TAGGET reads the tag's code (R116). -/
theorem scalarReads_tagget (h : ScalarReady s w g.face []) (hd : g.fa.d = .sc n) (hk : w.kind = .wale) (hr : w.inSet r = true)
    (ha : g.fa.a = .vec r) : ScalarReads (.tagget g) s w n (BitVec.ofNat 32 (w.tagAt r s.clk).code) := by
  have he : exec (.tagget g) s = s.scalar g.face (fun _ => []) (fun w => w.vecOfScalar g.face [r]) fun w =>
      [scFlight w n (BitVec.ofNat 32 (w.tagAt r s.clk).code) s.clk 4] := by
    change execTagget g s = _
    rw [execTagget, hd, ha, scOf, vecOf]
  exact scalarReads_of_scalar he h (vecOfScalar_eq_none _ hk (by simpa using hr)) rfl rfl

/-- MOVVS reads the element of the thread that B names (R111). -/
theorem scalarReads_movvs (h : ScalarReady s w g.face (Use.mk .v r :: scUsesOf g.fa.b)) (hd : g.fa.d = .sc n) (hk : w.kind = .wale)
    (hr : w.inSet r = true) (ha : g.fa.a = .vec r) (hu : (w.uniSrc .raw g.fa.b s.clk).toNat ≤ 31)
    (ht : g.fa.mods.any = true ∨ w.tagAt r s.clk = g.ty) :
    ScalarReads (.movvs g) s w n (w.vAt r (w.uniSrc .raw g.fa.b s.clk).toNat s.clk) := by
  have htag : (!g.fa.mods.any && w.tagAt r s.clk != g.ty) = false := by
    obtain ht | ht := ht <;> simp [ht]
  refine scalarReads_of_scalar (i := .movvs g) rfl (by rwa [ha]) ?_ (if_neg (Nat.not_lt.2 hu)) (by rw [hd, ha, scOf, vecOf])
  rw [ha, vecOf, vecOfScalar_eq_none _ hk (by simpa using hr), htag]
  rfl

end Reads

theorem scalarReadsComplete : ScalarReadsComplete := fun _ _ _ _ _ h hd =>
  ⟨scalarReads_exmrd h hd, fun _ _ ha hb hc => scalarReads_srds h hd ha hb hc, fun hk hr ha => scalarReads_tagget h hd hk hr ha,
    fun hs hk hr ha hu ht => scalarReads_movvs ⟨h.1, h.2.1, h.2.2.1, hs⟩ hd hk hr ha hu ht⟩

/-! ### EXMWR (R115) -/

section Exmwr
variable {s : State} {w : Wale} {g : G}

theorem execExmwr_done (h : AtHand s w) (hr : w.region = none) (hf : g.face = .both) (hs : s.stallShort w (scUsesOf g.fa.a) = none) :
    exec (.exmwr g) s = .next (s.issued { w with exm := w.uniSrc .raw g.fa.a s.clk &&& w.live } 4) := by
  change execExmwr g s = _
  rw [execExmwr, withCur_eq _ h, hr, hf, hs]
  rfl

theorem execExmwr_region (h : AtHand s w) (hr : w.region.isSome = true) :
    exec (.exmwr g) s = s.raise w .meldIllegal (w.active g.face) := by
  change execExmwr g s = _
  rw [execExmwr, withCur_eq _ h, hr]
  rfl

end Exmwr

/-! ### TAGSET (R116) -/

/-- The wale after the tags of registers `rs` have been set. -/
def Wale.afterTags (w : Wale) (clk : Nat) (ty : Ty) (rs : List Nat) : Wale :=
  ({ w with inflight := w.inflight ++ rs.map fun r => tagFlight w r ty clk 1 } : Wale).advance clk 0

section Tags
variable {w : Wale} {clk r t c : Nat} {ty : Ty} {rs : List Nat}

/-- Each register of the list has the tag from the next clk on (R100). -/
theorem tagAt_afterTags (hr : r ∈ rs) (hc : clk + 1 ≤ c) : (w.afterTags clk ty rs).tagAt r c = ty := by
  refine tagAt_of_pending (pendingVal_eq (fun e he _ => ?_) ?_ w.inflight)
  · obtain ⟨q, -, rfl⟩ := List.mem_map.1 he
    rfl
  · exact ⟨_, List.mem_map.2 ⟨r, hr, rfl⟩, tagFlight_covers_iff.2 ⟨rfl, rfl, rfl, hc⟩⟩

/-- Tag writes leave what is pending in another file, or for the tag of a register that is not in the list. -/
theorem pendingVal_afterTags {f : RFile} (h : f = .tag → r ∉ rs) :
    pendingVal (w.afterTags clk ty rs).inflight f r t c = pendingVal w.inflight f r t c := by
  refine pendingVal_append_of_not_covers (fun e he => Bool.eq_false_iff.2 fun hcov => ?_) w.inflight
  obtain ⟨q, hq, rfl⟩ := List.mem_map.1 he
  obtain ⟨hf, rfl, -, -⟩ := tagFlight_covers_iff.1 hcov
  exact h hf.symm hq

end Tags

/-- The registers whose tags TAGSET sets: both of a pair for f64. -/
def tagsetRegs (ty : Ty) (r : Nat) : List Nat := if ty == .f64 then [r, r + 1] else [r]

theorem mem_tagsetRegs {ty : Ty} {r q : Nat} : q ∈ tagsetRegs ty r ↔ q = r ∨ (ty = .f64 ∧ q = r + 1) := by
  by_cases h : ty = .f64 <;> simp [tagsetRegs, h]

/-- TAGSET that is ready, with its registers in the working set, sets their tags. -/
theorem execTagset_done {s : State} {w : Wale} {g : G} {r : Nat} (h : ScalarReady s w g.face []) (hk : w.kind = .wale)
    (hd : g.fa.d = .vec r) (hr : ∀ q ∈ tagsetRegs g.ty r, w.inSet q = true) : exec (.tagset g) s =
      .next (s.issueWith w ((tagsetRegs g.ty r).map fun q => tagFlight w q g.ty s.clk 1) 1 0) := by
  change execTagset g s = _
  rw [execTagset, hd]
  exact scalar_done h (vecOfScalar_eq_none _ hk hr) rfl

theorem maskAndTagWrites : MaskAndTagWrites := by
  intro g s w h
  refine ⟨fun hr hf hs => ?_, fun hr => execExmwr_region h hr, fun r hready hk hd hr hr1 => ?_⟩
  · exact goes_issued h (execExmwr_done h hr hf hs) rfl fun ho =>
      ⟨rfl, rfl, rfl, rfl, ⟨rfl, rfl, rfl, rfl, rfl, rfl, rfl⟩, ⟨rfl, rfl, rfl⟩, ho⟩
  · have hset : ∀ q ∈ tagsetRegs g.ty r, w.inSet q = true := fun q hq => by
      obtain rfl | ⟨hty, rfl⟩ := mem_tagsetRegs.1 hq
      · exact hr
      · exact hr1 hty
    refine ⟨_, w.afterTags s.clk g.ty (tagsetRegs g.ty r), execTagset_done hready hk hd hset, wale?_issueWith_cur h rfl rfl _ 1 0,
      fun clk hc => ⟨tagAt_afterTags (mem_tagsetRegs.2 (.inl rfl)) hc,
        fun hty => tagAt_afterTags (mem_tagsetRegs.2 (.inr ⟨hty, rfl⟩)) hc⟩, fun q clk hq hq1 => ?_,
      fun q th clk => vAt_congr rfl (pendingVal_afterTags (by simp)), fun m clk => sAt_congr rfl (pendingVal_afterTags (by simp)),
      ⟨rfl, rfl, rfl, rfl, rfl, rfl, rfl, rfl, rfl, rfl, rfl⟩, onlyWale_issueWith (wale?_id h) _ 1 0⟩
    have hno : q ∉ tagsetRegs g.ty r := by
      rw [mem_tagsetRegs]
      tauto
    exact tagAt_congr rfl (pendingVal_afterTags fun _ => hno)

/-- Settles O10: the four reads are scalar operations with one result, EXMWR is an issue, and TAGSET leaves tags pending. -/
theorem scalarReadsAndWrites : Obligations.ScalarReadsAndWrites := ⟨scalarReadsComplete, maskAndTagWrites⟩

end Sys2Proof.Machine
end

section
/-!
PROOF. BALLOT and VOTE: the scalar that the predicate bits of the active threads give (O12).
-/
namespace Sys2Proof.Machine
open Claims

/-! ### One scalar result (R101) -/

/-- An instruction whose one result is scalar `n`, pending with latency `lat`, goes to the wale past it, where only that scalar reads
anew. -/
theorem goes_scFlight {i : Instr} {s : State} {w : Wale} {n lat o : Nat} {x : W32} (h : AtHand s w)
    (he : exec i s = .next (s.issueWith w [scFlight w n x s.clk lat] o 0)) : Goes i s fun t v =>
      (∀ clk, s.clk + lat ≤ clk → v.sAt n clk = x) ∧ (∀ k clk, k ≠ n → v.sAt k clk = w.sAt k clk) ∧
      SameControl w v ∧ Advanced s w v 0 ∧ OnlyWale s t :=
  ⟨_, w.afterScalar s.clk (scFlight w n x s.clk lat), he, wale?_issueWith_cur h rfl rfl _ o 0, fun _ hc => sAt_afterScalar hc,
    fun _ _ hk => sAt_afterScalar_other (.inl hk), ⟨rfl, rfl, rfl, rfl, rfl, rfl, rfl, rfl, rfl, rfl, rfl⟩, ⟨rfl, rfl, rfl⟩,
    onlyWale_issueWith (wale?_id h) _ o 0⟩

/-! ### BALLOT and VOTE (R135) -/

section Vote
variable {p : Nat → Bool} {m : Mask}

/-- A comparison with the active threads that satisfy a predicate is one comparison for each thread. -/
theorem maskOf_and_beq (x : Mask) : (maskOf p &&& m == x) = (List.range 32).all fun t => (m.getLsbD t && p t) == x.getLsbD t := by
  rw [Bool.eq_iff_iff, beq_iff_eq, List.all_eq_true, BitVec.eq_of_getLsbD_eq_iff]
  refine forall_congr' fun t => imp_congr_ctx List.mem_range.symm fun ht => ?_
  rw [BitVec.getLsbD_and, getLsbD_maskOf, decide_eq_true (List.mem_range.1 ht), Bool.true_and, Bool.and_comm, beq_iff_eq]

/-- The predicate holds in every active thread. -/
theorem maskOf_and_beq_self : (maskOf p &&& m == m) = (List.range 32).all fun t => !m.getLsbD t || p t := by
  rw [maskOf_and_beq]
  congr 1
  funext t
  cases m.getLsbD t <;> cases p t <;> rfl

/-- The predicate holds in no active thread. -/
theorem maskOf_and_beq_zero : (maskOf p &&& m == 0) = (List.range 32).all fun t => !m.getLsbD t || !p t := by
  rw [maskOf_and_beq]
  congr 1
  funext t
  rw [show (0 : Mask).getLsbD t = false from BitVec.getLsbD_zero, beq_false, Bool.not_and]

/-- The predicate holds in some active thread. -/
theorem maskOf_and_bne_zero : (maskOf p &&& m != 0) = (List.range 32).any fun t => m.getLsbD t && p t := by
  rw [bne, maskOf_and_beq_zero, List.not_all_eq_any_not]
  simp only [Bool.not_or, Bool.not_not]

/-- The number of active threads in which the predicate holds. -/
theorem count_maskOf_and : Mask.count (maskOf p &&& m) = (List.range 32).countP fun t => m.getLsbD t && p t := by
  rw [Mask.count, threads, ← List.countP_eq_length_filter]
  refine List.countP_congr fun t ht => ?_
  rw [BitVec.getLsbD_and, getLsbD_maskOf, decide_eq_true (List.mem_range.1 ht), Bool.true_and, Bool.and_comm]

end Vote

/-- An operation of the shape of BALLOT writes its scalar, whether or not a thread is active. -/
theorem ballotLike_done {s : State} {w : Wale} {g : G} {n q : Nat} (h : AtHand s w) (hk : w.kind = .wale) (hf : w.faceOk g.face = true)
    (hs : s.stallShort w [⟨.q, q⟩] = none) (hd : g.fa.d = .sc n) (ha : g.fa.a = .pred q) (f : Mask → Mask → W32) : s.ballotLike g f =
      .next (s.issueWith w [scFlight w n (f (maskOf fun t => w.qAt q t s.clk) (w.active g.face)) s.clk 4] 1 0) := by
  rw [State.ballotLike, withCur_eq _ h, ha, hd, hk, hf]
  simp only [predOf, hs]
  rfl

theorem ballotAndVote : BallotAndVote := by
  intro g s w n q h hk hf hs hd ha on yes gives
  have hgives {i : Instr} {f : Mask → Mask → W32} {x : W32} (hi : exec i s = s.ballotLike g f)
      (hx : f (maskOf yes) (w.active g.face) = x) : gives i x :=
    goes_scFlight h (hx ▸ hi.trans (ballotLike_done h hk hf hs hd ha f))
  have hvote {k : Nat} {x : W32} (hb : g.fa.b = .lit k) (hx : voteVal k (maskOf yes) (w.active g.face) = x) : gives (.vote g) x :=
    hgives (f := voteVal k) (by change execVote g s = _; rw [execVote, hb]) hx
  refine ⟨⟨maskOf yes &&& w.active g.face, fun t ht => ?_, hgives rfl rfl⟩, fun hb => hvote hb ?_, fun hb => hvote hb ?_,
    fun hb => hvote hb ?_, fun hb => hvote hb ?_⟩
  · rw [BitVec.getLsbD_and, getLsbD_maskOf, decide_eq_true ht, Bool.true_and, Bool.and_comm]
  · exact congrArg boolWord maskOf_and_beq_self
  · exact congrArg boolWord maskOf_and_bne_zero
  · exact congrArg (BitVec.ofNat 32) count_maskOf_and
  · exact congrArg boolWord (congrArg₂ or maskOf_and_beq_self maskOf_and_beq_zero)

end Sys2Proof.Machine
end

section
/-!
PROOF. The wale reductions: the tree of an associative function is the fold over the active threads (O12).
-/
namespace Sys2Proof.Machine
open Claims

/-! ### The tree of a reduction (R136) -/

/-- The node that two neighbours of a level combine to, and the exceptions so far (R136). -/
def joinNodes (f : W32 → W32 → W32 × Nat) (en : Nat) (a b : Option Node) (x : TreeExc) : Option Node × TreeExc :=
  ((treeLevel f en [a, b] x).1.headD none, (treeLevel f en [a, b] x).2)

/-- A level combines its first two nodes, and goes on. -/
theorem treeLevel_cons_cons (f : W32 → W32 → W32 × Nat) (en : Nat) (a b : Option Node) (r : List (Option Node)) (x : TreeExc) :
    treeLevel f en (a :: b :: r) x =
      ((joinNodes f en a b x).1 :: (treeLevel f en r (joinNodes f en a b x).2).1, (treeLevel f en r (joinNodes f en a b x).2).2) := rfl

/-- A level halves the number of nodes. -/
theorem length_treeLevel (f : W32 → W32 → W32 × Nat) (en : Nat) :
    ∀ (l : List (Option Node)) (x : TreeExc), (treeLevel f en l x).1.length = (l.length + 1) / 2
  | [], _ => rfl
  | [_], _ => by simp [treeLevel]
  | a :: b :: r, x => by
    rw [treeLevel_cons_cons, List.length_cons, length_treeLevel f en r, List.length_cons, List.length_cons]
    omega

/-- The levels leave one node of 2 ^ k. -/
theorem length_treeFold (f : W32 → W32 → W32 × Nat) (en k : Nat) (l : List (Option Node)) (x : TreeExc) (hl : l.length = 2 ^ k) :
    (treeFold f en k l x).1.length = 1 := by
  induction k generalizing l x with
  | zero => exact hl
  | succ k ih =>
    refine ih _ _ ?_
    rw [length_treeLevel, hl]
    omega

/-- A reduction's function of two values that raises no exception (R137). -/
abbrev quiet (f : W32 → W32 → W32) (a b : W32) : W32 × Nat := (f a b, 0)

/-- The values of a level's nodes combined from the left, where there is one. -/
def foldVals (f : W32 → W32 → W32) (o : Option W32) (l : List (Option Node)) : Option W32 :=
  l.foldl (fun o n => o.merge f (n.map Node.val)) o

section Quiet
variable {f : W32 → W32 → W32} {en : Nat}

/-- Two nodes combine to the function of their values; where one has no active thread, the other stands. -/
theorem joinNodes_quiet (a b : Option Node) (x : TreeExc) :
    (joinNodes (quiet f) en a b x).1.map Node.val = (a.map Node.val).merge f (b.map Node.val) ∧
    (joinNodes (quiet f) en a b x).2.lanes = x.lanes := by
  cases a <;> cases b <;> simp [joinNodes, treeLevel]

variable [hf : Std.Associative f]

/-- A level keeps the value that its nodes combine to, and adds no thread to a trap. -/
theorem treeLevel_quiet : ∀ (l : List (Option Node)) (x : TreeExc) (o : Option W32),
    foldVals f o (treeLevel (quiet f) en l x).1 = foldVals f o l ∧ (treeLevel (quiet f) en l x).2.lanes = x.lanes
  | [], _, _ => ⟨rfl, rfl⟩
  | [_], _, _ => ⟨rfl, rfl⟩
  | a :: b :: r, x, o => by
    obtain ⟨hval, hlanes⟩ := joinNodes_quiet (f := f) (en := en) a b x
    obtain ⟨hfold, hrest⟩ := treeLevel_quiet r (joinNodes (quiet f) en a b x).2 ((o.merge f (a.map Node.val)).merge f (b.map Node.val))
    rw [treeLevel_cons_cons]
    refine ⟨?_, hrest.trans hlanes⟩
    rw [foldVals, List.foldl_cons, hval, ← (Option.associative_merge f).assoc]
    exact hfold

theorem treeFold_quiet (k : Nat) (l : List (Option Node)) (x : TreeExc) (o : Option W32) :
    foldVals f o (treeFold (quiet f) en k l x).1 = foldVals f o l ∧ (treeFold (quiet f) en k l x).2.lanes = x.lanes := by
  induction k generalizing l x with
  | zero => exact ⟨rfl, rfl⟩
  | succ k ih =>
    obtain ⟨hval, hlanes⟩ := treeLevel_quiet (f := f) (en := en) l x o
    obtain ⟨hvals, hall⟩ := ih (treeLevel (quiet f) en l x).1 (treeLevel (quiet f) en l x).2
    exact ⟨hvals.trans hval, hall.trans hlanes⟩

end Quiet

/-! ### The fold over the active threads (R136) -/

/-- The threads below `n` that satisfy a predicate are the first of them and those after it. -/
theorem filter_range_eq_cons {p : Nat → Bool} {t0 n : Nat} (hn : t0 < n) (h0 : p t0 = true) (hlt : ∀ t < t0, p t = false) :
    (List.range n).filter p = t0 :: (List.range n).filter fun t => decide (t0 < t) && p t := by
  induction n, hn using Nat.le_induction with
  | base =>
    have hbelow : (List.range t0).filter p = [] := List.filter_eq_nil_iff.2 fun t ht => by simp [hlt t (List.mem_range.1 ht)]
    have hafter : ((List.range (t0 + 1)).filter fun t => decide (t0 < t) && p t) = [] := List.filter_eq_nil_iff.2 fun t ht => by
      have := List.mem_range.1 ht
      simp
      omega
    rw [hafter, List.range_succ, List.filter_append, hbelow, List.filter_singleton, h0]
    rfl
  | succ n hn ih =>
    rw [List.range_succ, List.filter_append, List.filter_append, ih, List.cons_append, List.filter_singleton, List.filter_singleton,
      decide_eq_true (show t0 < n from hn), Bool.true_and]

/-- The values of the nodes of the threads that satisfy a predicate, combined from the left. -/
theorem foldVals_map_ite (f : W32 → W32 → W32) (p : Nat → Bool) (node : Nat → Node) (l : List Nat) (o : Option W32) :
    foldVals f o (l.map fun t => if p t then some (node t) else none) =
      (l.filter p).foldl (fun o t => o.merge f (some (node t).val)) o := by
  rw [foldVals, List.foldl_map, List.foldl_filter]
  congr 1
  funext o t
  cases p t
  · exact Option.merge_none_right
  · rfl

/-- With a first thread, that is the fold from its value. -/
theorem foldl_merge_cons (f : W32 → W32 → W32) (v : Nat → W32) (t0 : Nat) (l : List Nat) :
    (t0 :: l).foldl (fun o t => o.merge f (some (v t))) none = some (l.foldl (fun x t => f x (v t)) (v t0)) := by
  rw [List.foldl_cons, Option.merge_none_left]
  exact List.foldl_hom some fun _ _ => rfl

/-- The node of an active thread, which the tree begins with: its element, read in its beat (R136). -/
def Wale.leafOf (w : Wale) (g : G) (c t : Nat) : Node := ⟨(w.srcAt g.ty g.fa.a false t c (c + t / 8)).truncate 32, maskOf (· == t)⟩

/-- The first level of the tree: a node for each active thread. -/
def Wale.leaves (w : Wale) (g : G) (c : Nat) : List (Option Node) :=
  threads.map fun t => if (w.active g.face).getLsbD t then some (w.leafOf g c t) else none

/-- A tree whose levels leave a node gives that node's value, and what they raised. -/
theorem tree_of_root {w : Wale} {g : G} {en c : Nat} {f : W32 → W32 → W32 × Nat} {n : Node} (ident : W32)
    (h : (treeFold f en 5 (w.leaves g c) {}).1 = [some n]) :
    (w.tree g en c ident f fun v => (v, 0)).1 = n.val ∧
    (w.tree g en c ident f fun v => (v, 0)).2.lanes = (treeFold f en 5 (w.leaves g c) {}).2.lanes := by
  dsimp only [Wale.leaves, Wale.leafOf, Wale.tree] at h ⊢
  rw [h]
  simp

/-- The tree of a function that is associative and raises nothing gives the fold over the active threads, and no trap. -/
theorem tree_quiet {w : Wale} {g : G} {c t0 : Nat} {f : W32 → W32 → W32} [Std.Associative f] (en : Nat) (ident : W32) (h0 : t0 < 32)
    (ha : (w.active g.face).getLsbD t0 = true) (hlt : ∀ t < t0, (w.active g.face).getLsbD t = false) :
    (w.tree g en c ident (quiet f) fun v => (v, 0)).1 =
      ((List.range 32).filter fun t => decide (t0 < t) && (w.active g.face).getLsbD t).foldl
        (fun x t => f x (w.leafOf g c t).val) (w.leafOf g c t0).val ∧
    (w.tree g en c ident (quiet f) fun v => (v, 0)).2.lanes = 0 := by
  obtain ⟨hval, hlanes⟩ := treeFold_quiet (f := f) (en := en) 5 (w.leaves g c) {} none
  obtain ⟨root, hroot⟩ := List.length_eq_one_iff.1 (length_treeFold (quiet f) en 5 (w.leaves g c) {} (by simp [Wale.leaves, threads]))
  rw [hroot, Wale.leaves, foldVals_map_ite, threads, filter_range_eq_cons h0 ha hlt, foldl_merge_cons f fun t => (w.leafOf g c t).val,
    foldVals, List.foldl_cons, List.foldl_nil, Option.merge_none_left] at hval
  obtain ⟨n, rfl, hn⟩ := Option.map_eq_some_iff.1 hval
  obtain ⟨hv, hl⟩ := tree_of_root ident hroot
  exact ⟨hv.trans hn, hl.trans hlanes⟩

/-! ### The outcomes of a reduction, one equation each (R136) -/

section Reduce
variable {s : State} {w : Wale} {g : G} {n : Nat} {ident : W32} {f : W32 → W32 → W32 × Nat} {root : W32 → W32 × Nat}

/-- Without an active thread the scalar is the identity. -/
theorem reduce_idle (h : AtHand s w) (hc : s.vecCheck w g (redOp g.ty) = none) (hd : g.fa.d = .sc n) (hm : w.active g.face = 0) :
    s.reduce g ident f root = .next (s.issueWith w [scFlight w n ident s.clk 16] 1 0) := by
  rw [State.reduce, withCur_eq _ h, hc, hd, hm]
  rfl

/-- Without an enabled exception the scalar is the tree's root. -/
theorem reduce_done (h : AtHand s w) (hc : s.vecCheck w g (redOp g.ty) = none) (hd : g.fa.d = .sc n) (hm : w.active g.face ≠ 0)
    (hl : (w.tree g (s.enables w) s.clk ident f root).2.lanes = 0) : s.reduce g ident f root =
      .next (s.issueWith w [scFlight w n (w.tree g (s.enables w) s.clk ident f root).1 s.clk 16] 4 0) := by
  rw [State.reduce, withCur_eq _ h, hc, hd]
  simp only [beq_eq_false_iff_ne.2 hm, hl]
  rfl

/-- An enabled exception of a node raises FP_EXC at commit. -/
theorem reduce_fault (h : AtHand s w) (hc : s.vecCheck w g (redOp g.ty) = none) (hm : w.active g.face ≠ 0)
    (hl : (w.tree g (s.enables w) s.clk ident f root).2.lanes ≠ 0) : s.reduce g ident f root =
      .next ((s.holdPipe w (s.clk + 4)).takeTrap w
        { cause := .fpExc, lanes := (w.tree g (s.enables w) s.clk ident f root).2.lanes
          detail := (w.tree g (s.enables w) s.clk ident f root).2.exc, t0 := s.clk + 4 }) := by
  rw [State.reduce, withCur_eq _ h, hc]
  simp only [beq_eq_false_iff_ne.2 hm, bne_iff_ne.2 hl]
  rfl

end Reduce

/-! ### The reductions' tables -/

/-- The smaller or larger of two images is associative. -/
theorem associative_minmaxInt (larger : Bool) (ty : Ty) : Std.Associative (minmaxInt larger ty) := by
  refine ⟨fun a b c => ?_⟩
  have hlt (x y : W32) : (if ty == .i32 then x.slt y else x.ult y) = decide ((if ty == .i32 then x.toInt else (x.toNat : Int)) <
      (if ty == .i32 then y.toInt else (y.toNat : Int))) := by
    split
    · rfl
    · simp [BitVec.ult]
  simp only [minmaxInt, hlt]
  cases larger <;> grind

/-- WMIN's function picks by the type's order. -/
theorem minmaxInt_false (ty : Ty) : minmaxInt false ty =
    fun a b => if ty = .i32 then (if a.slt b then a else b) else (if a.ult b then a else b) := by
  funext a b
  simp only [minmaxInt, beq_iff_eq, Bool.bne_false]
  split <;> rfl

/-- WMAX's function picks by the type's order. -/
theorem minmaxInt_true (ty : Ty) : minmaxInt true ty =
    fun a b => if ty = .i32 then (if a.slt b then b else a) else (if a.ult b then b else a) := by
  funext a b
  simp only [minmaxInt, beq_iff_eq, Bool.bne_true]
  split
  · cases a.slt b <;> rfl
  · cases a.ult b <;> rfl

section Exec
variable {g : G} {s : State}

theorem execWsum_f32 (h : g.ty = .f32) : exec (.wsum g) s = s.reduce g 0 sumF32 (rootF32 true) := by
  change execWsum g s = _
  rw [execWsum, if_pos (beq_iff_eq.2 h)]

theorem execWsum_int (h : g.ty ≠ .f32) : exec (.wsum g) s = s.reduceInt g 0 (· + ·) := by
  change execWsum g s = _
  rw [execWsum, if_neg (by simpa using h)]

theorem execWmin_f32 (h : g.ty = .f32) : exec (.wmin g) s = s.reduce g 0x7F800000 (minmaxF32 false) (rootF32 false) := by
  change execWmin g s = _
  rw [execWmin, if_pos (beq_iff_eq.2 h)]

theorem execWmin_int (h : g.ty ≠ .f32) : exec (.wmin g) s = s.reduceInt g (BitVec.ofInt 32 g.ty.maxVal) (minmaxInt false g.ty) := by
  change execWmin g s = _
  rw [execWmin, if_neg (by simpa using h)]

theorem execWmax_f32 (h : g.ty = .f32) : exec (.wmax g) s = s.reduce g 0xFF800000 (minmaxF32 true) (rootF32 false) := by
  change execWmax g s = _
  rw [execWmax, if_pos (beq_iff_eq.2 h)]

theorem execWmax_int (h : g.ty ≠ .f32) : exec (.wmax g) s = s.reduceInt g (BitVec.ofInt 32 g.ty.minVal) (minmaxInt true g.ty) := by
  change execWmax g s = _
  rw [execWmax, if_neg (by simpa using h)]

theorem execWand_eq : exec (.wand g) s = s.reduceInt g 0xFFFFFFFF (· &&& ·) := rfl

theorem execWor_eq : exec (.wor g) s = s.reduceInt g 0 (· ||| ·) := rfl

/-- The f32 reductions are the table's trees. -/
theorem exec_reduceFloats (h : g.ty = .f32) : ∀ p ∈ reduceFloats g, exec p.1 s = s.reduce g p.2.1 p.2.2.1 p.2.2.2 := by
  intro p hp
  simp only [reduceFloats, List.mem_cons, List.not_mem_nil, or_false] at hp
  obtain rfl | rfl | rfl := hp
  · exact execWsum_f32 h
  · exact execWmin_f32 h
  · exact execWmax_f32 h

/-- The integer reductions are trees of the table's functions, each of which is associative. -/
theorem exec_reduceInts (h : g.ty ≠ .f32) :
    ∀ p ∈ reduceInts g, Std.Associative p.2 ∧ ∃ ident, exec p.1 s = s.reduceInt g ident p.2 := by
  intro p hp
  simp only [reduceInts, List.mem_cons, List.not_mem_nil, or_false] at hp
  obtain rfl | rfl | rfl | rfl | rfl := hp
  · exact ⟨⟨BitVec.add_assoc⟩, _, execWsum_int h⟩
  · rw [← minmaxInt_false]
    exact ⟨associative_minmaxInt false g.ty, _, execWmin_int h⟩
  · rw [← minmaxInt_true]
    exact ⟨associative_minmaxInt true g.ty, _, execWmax_int h⟩
  · exact ⟨⟨BitVec.and_assoc⟩, _, execWand_eq⟩
  · exact ⟨⟨BitVec.or_assoc⟩, _, execWor_eq⟩

/-- Each reduction has the table's identity. -/
theorem exec_reduceTable : ∀ p ∈ reduceTable g, ∃ f root, exec p.1 s = s.reduce g p.2 f root := by
  intro p hp
  simp only [reduceTable, List.mem_cons, List.not_mem_nil, or_false] at hp
  by_cases hty : g.ty = .f32
  · rw [if_pos hty, if_pos hty] at hp
    obtain rfl | rfl | rfl | rfl | rfl := hp
    · exact ⟨_, _, execWsum_f32 hty⟩
    · exact ⟨_, _, execWmin_f32 hty⟩
    · exact ⟨_, _, execWmax_f32 hty⟩
    · exact ⟨_, _, execWand_eq⟩
    · exact ⟨_, _, execWor_eq⟩
  · rw [if_neg hty, if_neg hty] at hp
    obtain rfl | rfl | rfl | rfl | rfl := hp
    · exact ⟨_, _, execWsum_int hty⟩
    · exact ⟨_, _, execWmin_int hty⟩
    · exact ⟨_, _, execWmax_int hty⟩
    · exact ⟨_, _, execWand_eq⟩
    · exact ⟨_, _, execWor_eq⟩

end Exec

theorem waleReductions : WaleReductions := by
  intro g s w n h hc hd m gives
  refine ⟨fun p hp hm => ?_, fun p hp hty t0 h0 ha hlt => ?_, fun p hp hty hm => ⟨fun hl => ?_, fun hl => ?_⟩⟩
  · obtain ⟨f, root, he⟩ := exec_reduceTable (s := s) p hp
    exact goes_scFlight h (he.trans (reduce_idle h hc hd hm))
  · obtain ⟨hf, ident, he⟩ := exec_reduceInts (s := s) hty p hp
    obtain ⟨hval, hlanes⟩ := tree_quiet (c := s.clk) (f := p.2) (s.enables w) ident h0 ha hlt
    exact goes_scFlight h (hval ▸ he.trans (reduce_done h hc hd (ne_zero_of_getLsbD ha) hlanes))
  · exact goes_scFlight h ((exec_reduceFloats hty p hp).trans (reduce_done h hc hd hm hl))
  · exact (exec_reduceFloats hty p hp).trans (reduce_fault h hc hm hl)

end Sys2Proof.Machine
end

section
/-!
PROOF. Q4PACK: its outcomes, its pending results, and the codes and scale bytes that its blocks give (O12).
-/
namespace Sys2Proof.Machine
open Claims

/-! ### The outcomes of Q4PACK, one equation each (R17, R131) -/

section Outcomes
variable {s : State} {w : Wale} {g : G}

/-- Without an active thread it costs one issue clk (R17). -/
theorem q4pack_idle (h : AtHand s w) (hc : s.q4Check w g = none) (hm : w.active g.face = 0) :
    exec (.q4pack g) s = .next (s.issued w 0) := by
  change execQ4pack g s = _
  rw [execQ4pack, withCur_eq _ h, hc, hm]
  rfl

/-- A block partly active is FMT_PARTIAL at commit. -/
theorem q4pack_partial (h : AtHand s w) (hc : s.q4Check w g = none) (hm : w.active g.face ≠ 0) (hx : mixedBlocks (w.faces g) ≠ 0) :
    exec (.q4pack g) s = .next ((s.holdPipe w (s.clk + 4)).takeTrap w
      { cause := .fmtPartial, lanes := mixedBlocks (w.faces g), t0 := s.clk + 4 }) := by
  have ht : max (s.clk + 4) (s.holdPipe w (s.clk + 4)).clk = s.clk + 4 := by simp
  change execQ4pack g s = _
  rw [execQ4pack, withCur_eq _ h, hc]
  simp only [beq_eq_false_iff_ne.2 hm, bne_iff_ne.2 hx, State.raise, ht]
  rfl

/-- A beat that raises a trap raises it at commit. -/
theorem q4pack_fault {r : TrapReq} (h : AtHand s w) (hc : s.q4Check w g = none) (hm : w.active g.face ≠ 0)
    (hx : mixedBlocks (w.faces g) = 0) (ht : commitTrap (w.q4Beats g s.clk).1 (s.enables w) (s.clk + 4) = some r) :
    exec (.q4pack g) s = .next ((s.holdPipe w (s.clk + 4)).takeTrap w r) := by
  change execQ4pack g s = _
  rw [execQ4pack, withCur_eq _ h, hc]
  simp only [beq_eq_false_iff_ne.2 hm, hx, ht]
  rfl

/-- Otherwise the codes and the scale bytes are pending. -/
theorem q4pack_done (h : AtHand s w) (hc : s.q4Check w g = none) (hm : w.active g.face ≠ 0)
    (hx : mixedBlocks (w.faces g) = 0) (ht : commitTrap (w.q4Beats g s.clk).1 (s.enables w) (s.clk + 4) = none) :
    exec (.q4pack g) s = .next (s.issueWith { w with seeds := (w.q4Beats g s.clk).2 } (w.q4Flights g (w.q4Beats g s.clk).1 s.clk) 4 0) := by
  change execQ4pack g s = _
  rw [execQ4pack, withCur_eq _ h, hc]
  simp only [beq_eq_false_iff_ne.2 hm, hx, ht]
  rfl

end Outcomes

/-! ### Threads grouped by their registers -/

/-- A group is a register that some thread names, with the mask of the threads that name it. -/
theorem mem_byReg {l : List (Nat × Nat)} {d : Nat × Mask} (h : d ∈ byReg l) :
    (∃ t, (d.1, t) ∈ l) ∧ ∀ t, d.2.getLsbD t = true ↔ t < 32 ∧ (d.1, t) ∈ l := by
  obtain ⟨r, hr, rfl⟩ := List.mem_map.1 h
  refine ⟨?_, fun t => ?_⟩
  · obtain ⟨⟨r', t⟩, hm, rfl⟩ := List.mem_map.1 (List.mem_eraseDups.1 hr)
    exact ⟨t, hm⟩
  · rw [getLsbD_maskOf, Bool.and_eq_true, decide_eq_true_eq, List.contains_iff_mem]

/-- Each register that a thread names has its group. -/
theorem mem_byReg_of_mem {l : List (Nat × Nat)} {r t : Nat} (h : (r, t) ∈ l) : ∃ m, (r, m) ∈ byReg l :=
  ⟨_, List.mem_map.2 ⟨r, List.mem_eraseDups.2 (List.mem_map.2 ⟨(r, t), h, rfl⟩), rfl⟩⟩

/-! ### The pending results of a Q4PACK (R131) -/

/-- The registers that the active threads name, thread by thread. -/
def Wale.namedBy (w : Wale) (g : G) (reg : Nat → Option Nat) : List (Nat × Nat) :=
  (threads.filter fun t => (w.active g.face).getLsbD t).filterMap fun t => (reg t).map fun r => (r, t)

theorem mem_namedBy_iff {w : Wale} {g : G} {reg : Nat → Option Nat} {r t : Nat} :
    (r, t) ∈ w.namedBy g reg ↔ t < 32 ∧ (w.active g.face).getLsbD t = true ∧ reg t = some r := by
  simp only [Wale.namedBy, List.mem_filterMap, List.mem_filter, threads, List.mem_range, Option.map_eq_some_iff]
  constructor
  · rintro ⟨t', ⟨ht, hm⟩, r', hr, heq⟩
    cases heq
    exact ⟨ht, hm, hr⟩
  · rintro ⟨ht, hm, hr⟩
    exact ⟨t, ⟨ht, hm⟩, r, hr, rfl⟩

/-- Word `j` of each active thread's results, pending for the register that the thread names, and that register's tag. -/
def Wale.q4Out (w : Wale) (g : G) (rs : List (Nat × ERes)) (c : Nat) (reg : Nat → Option Nat) (j : Nat) (tag : Ty) : List InFlight :=
  (byReg (w.namedBy g reg)).flatMap fun d =>
    [mkFlight w .v d.1 d.2 (threads.map fun t => resWord rs t j) c 8 4 1, tagFlight w d.1 tag c 4]

/-- Q4PACK leaves the codes pending for D, and then the scale bytes for B. -/
theorem q4Flights_eq (w : Wale) (g : G) (rs : List (Nat × ERes)) (c : Nat) : w.q4Flights g rs c =
    w.q4Out g rs c (fun t => w.dstReg (w.opnds g t).d t c) 0 .q4 ++ w.q4Out g rs c (fun t => w.q4Scale (w.opnds g t) t c) 1 .n8 := rfl

/-- A pending result covers the elements of its mask in its register, each from its clk on (R28). -/
theorem mkFlight_covers_iff {w : Wale} {f' f : RFile} {r' r t clk c lat occ k : Nat} {m : Mask} {vals : List W32} :
    (mkFlight w f' r' m vals c lat occ k).covers f r t clk = true ↔
      f' = f ∧ r' = r ∧ m.getLsbD t = true ∧ c + lat - occ + 4 + k * (t / 8) ≤ clk := by
  simp [InFlight.covers, mkFlight, and_assoc, -BitVec.getLsbD_eq_getElem]
  exact fun _ _ _ => decide_eq_true_iff

section Out
variable {w : Wale} {g : G} {rs : List (Nat × ERes)} {c : Nat} {reg : Nat → Option Nat} {j : Nat} {tag : Ty} {r t clk : Nat}

/-- A result that covers an element is of a thread that names its register, and gives that thread's word. -/
theorem q4Out_covers_v {e : InFlight} (he : e ∈ w.q4Out g rs c reg j tag) (hcov : e.covers .v r t clk = true) :
    (r, t) ∈ w.namedBy g reg ∧ e.vals.getD t 0 = resWord rs t j := by
  obtain ⟨d, hd, he⟩ := List.mem_flatMap.1 he
  obtain rfl | rfl := List.mem_pair.1 he
  · obtain ⟨-, rfl, hm, -⟩ := mkFlight_covers_iff.1 hcov
    obtain ⟨ht, hmem⟩ := ((mem_byReg hd).2 t).1 hm
    exact ⟨hmem, by simp [mkFlight, threads, ht]⟩
  · exact absurd (tagFlight_covers_iff.1 hcov).1 (by decide)

/-- A tag that covers a register is of one that a thread names. -/
theorem q4Out_covers_tag {e : InFlight} (he : e ∈ w.q4Out g rs c reg j tag) (hcov : e.covers .tag r t clk = true) :
    (∃ u, (r, u) ∈ w.namedBy g reg) ∧ t = 0 ∧ e.vals.getD 0 0 = BitVec.ofNat 32 tag.code := by
  obtain ⟨d, hd, he⟩ := List.mem_flatMap.1 he
  obtain rfl | rfl := List.mem_pair.1 he
  · exact absurd (covers_file hcov) (by simp [mkFlight])
  · obtain ⟨-, rfl, rfl, -⟩ := tagFlight_covers_iff.1 hcov
    exact ⟨(mem_byReg hd).1, rfl, rfl⟩

/-- The word of a thread is pending for the register that it names (R28). -/
theorem pendingVal_q4Out (hn : (r, t) ∈ w.namedBy g reg) (hc : c + 8 + t / 8 ≤ clk) (l0 : List InFlight) :
    pendingVal (l0 ++ w.q4Out g rs c reg j tag) .v r t clk = some (resWord rs t j) := by
  refine pendingVal_eq (fun e he hcov => (q4Out_covers_v he hcov).2) ?_ l0
  obtain ⟨m, hd⟩ := mem_byReg_of_mem hn
  exact ⟨_, List.mem_flatMap.2 ⟨(r, m), hd, List.mem_cons_self⟩,
    mkFlight_covers_iff.2 ⟨rfl, rfl, ((mem_byReg hd).2 t).2 ⟨(mem_namedBy_iff.1 hn).1, hn⟩, by omega⟩⟩

/-- The tag is pending for a register that a thread names (R100). -/
theorem pendingVal_q4Out_tag (hn : (r, t) ∈ w.namedBy g reg) (hc : c + 4 ≤ clk) (l0 : List InFlight) :
    pendingVal (l0 ++ w.q4Out g rs c reg j tag) .tag r 0 clk = some (BitVec.ofNat 32 tag.code) := by
  refine pendingVal_eq (fun e he hcov => (q4Out_covers_tag he hcov).2.2) ?_ l0
  obtain ⟨m, hd⟩ := mem_byReg_of_mem hn
  exact ⟨_, List.mem_flatMap.2 ⟨(r, m), hd, List.mem_cons_of_mem _ (List.mem_singleton_self _)⟩,
    tagFlight_covers_iff.2 ⟨rfl, rfl, rfl, hc⟩⟩

/-- An element whose thread does not name its register has nothing new pending. -/
theorem pendingVal_q4Out_other (hn : (r, t) ∉ w.namedBy g reg) (l0 : List InFlight) :
    pendingVal (l0 ++ w.q4Out g rs c reg j tag) .v r t clk = pendingVal l0 .v r t clk :=
  pendingVal_append_of_not_covers (fun _ he => Bool.eq_false_iff.2 fun hcov => hn (q4Out_covers_v he hcov).1) l0

/-- The tag of a register that no thread names has nothing new pending. -/
theorem pendingVal_q4Out_tag_other (hn : ∀ u, (r, u) ∉ w.namedBy g reg) (l0 : List InFlight) :
    pendingVal (l0 ++ w.q4Out g rs c reg j tag) .tag r t clk = pendingVal l0 .tag r t clk :=
  pendingVal_append_of_not_covers (fun _ he => Bool.eq_false_iff.2 fun hcov => (q4Out_covers_tag he hcov).1.elim hn) l0

end Out

/-! ### One block (R131) -/

/-- Element `j` of thread `t`'s eight, as its source's type reads it. -/
def Wale.q4Val (w : Wale) (o : Opnds) (c t j : Nat) : FVal :=
  (fmtOf o.srcTy).read o.mods.ftz (w.vAt ((w.q4Run o t c).getD j 0) t (c + t / 8)).toNat

/-- The elements of a block's threads. -/
def Wale.q4All (w : Wale) (o : Opnds) (ts : List Nat) (c : Nat) : List FVal :=
  ts.flatMap fun t => (List.range 8).map fun j => w.q4Val o c t j

/-- The scale exponent field of a block: 63 when an element is a NaN, or the one that its largest magnitude needs. -/
def Wale.q4Field (w : Wale) (o : Opnds) (ts : List Nat) (c : Nat) : Nat :=
  if (w.q4All o ts c).any FVal.isNan then 63 else q4Exp (btOf o) ((w.q4All o ts c).foldl magMax (.num false 0 0))

/-- One element's code, and the exceptions that it raises, with the random word `rnd`. -/
def Wale.q4CodeOf (w : Wale) (o : Opnds) (ts : List Nat) (c t j : Nat) (rnd : W32) : Nat × Nat :=
  if (w.q4All o ts c).any FVal.isNan then (0, sigExc [w.q4Val o c t j])
  else q4Encode (btOf o) (w.q4Field o ts c) o.mods.rm rnd.toNat (w.q4Val o c t j)

/-- One element's code joins the word, and its lane's seed steps. -/
def Wale.q4Add (w : Wale) (o : Opnds) (ts : List Nat) (c t : Nat) (x : Nat × Nat × W32) (j : Nat) : Nat × Nat × W32 :=
  (x.1 + (w.q4CodeOf o ts c t j (stepSeed o.mods x.2.2)).1 * 16 ^ j, x.2.1 ||| (w.q4CodeOf o ts c t j (stepSeed o.mods x.2.2)).2,
    stepSeed o.mods x.2.2)

/-- A thread's word of eight codes, its exceptions, and its lane's seed after them. -/
def Wale.q4Word (w : Wale) (o : Opnds) (ts : List Nat) (c t : Nat) (seed : W32) : Nat × Nat × W32 :=
  (List.range 8).foldl (w.q4Add o ts c t) (0, 0, seed)

/-- What a block gives one of its threads: codes, scale byte, exceptions. -/
def Wale.q4Entry (w : Wale) (o : Opnds) (ts : List Nat) (c t : Nat) (seed : W32) : Nat × W32 × W32 × Nat :=
  (t, BitVec.ofNat 32 (w.q4Word o ts c t seed).1, BitVec.ofNat 32 (btOf o * 64 + w.q4Field o ts c), (w.q4Word o ts c t seed).2.1)

/-- A fold that collects what each element of a list gives, and carries a state along. -/
def collect {α β σ : Type} (out : α → σ → List β) (next : α → σ → σ) (l : List α) (st : σ) : List β × σ :=
  l.foldl (fun acc a => (acc.1 ++ out a acc.2, next a acc.2)) ([], st)

/-- What is collected is what some element gives in some state, and of each element everything in one state. -/
theorem mem_collect {α β σ : Type} (out : α → σ → List β) (next : α → σ → σ) (l : List α) (st : σ) :
    (∀ x ∈ (collect out next l st).1, ∃ a ∈ l, ∃ s, x ∈ out a s) ∧ ∀ a ∈ l, ∃ s, ∀ x ∈ out a s, x ∈ (collect out next l st).1 := by
  induction l using List.reverseRecOn with
  | nil => simp [collect]
  | append_singleton l b ih =>
    obtain ⟨hfrom, hall⟩ := ih
    rw [collect, List.foldl_append, List.foldl_cons, List.foldl_nil, ← collect]
    refine ⟨fun x hx => ?_, fun a ha => ?_⟩
    · obtain hx | hx := List.mem_append.1 hx
      · obtain ⟨a, ha, s, hs⟩ := hfrom x hx
        exact ⟨a, List.mem_append_left _ ha, s, hs⟩
      · exact ⟨b, by simp, _, hx⟩
    · obtain ha | ha := List.mem_append.1 ha
      · obtain ⟨s, hs⟩ := hall a ha
        exact ⟨s, fun x hx => List.mem_append_left _ (hs x hx)⟩
      · rw [List.mem_singleton.1 ha]
        exact ⟨_, fun x hx => List.mem_append_right _ hx⟩

/-- A block collects its threads' entries, each from its lane's seed at that thread. -/
theorem q4Block_eq_collect (w : Wale) (o : Opnds) (ts : List Nat) (c : Nat) (seeds : NMap W32) :
    w.q4Block o ts c seeds = collect (fun t sd => [w.q4Entry o ts c t (seedOf sd t)])
      (fun t sd => mSet 0 sd (t % 8) (w.q4Word o ts c t (seedOf sd t)).2.2) ts seeds := rfl

/-- Every result of a block is the entry of one of its threads, from some seed, and each of its threads has one. -/
theorem mem_q4Block (w : Wale) (o : Opnds) (ts : List Nat) (c : Nat) (seeds : NMap W32) :
    (∀ x ∈ (w.q4Block o ts c seeds).1, ∃ t ∈ ts, ∃ seed, x = w.q4Entry o ts c t seed) ∧
    ∀ t ∈ ts, ∃ seed, w.q4Entry o ts c t seed ∈ (w.q4Block o ts c seeds).1 := by
  rw [q4Block_eq_collect]
  obtain ⟨hfrom, hall⟩ := mem_collect (fun t sd => [w.q4Entry o ts c t (seedOf sd t)])
    (fun t sd => mSet 0 sd (t % 8) (w.q4Word o ts c t (seedOf sd t)).2.2) ts seeds
  refine ⟨fun x hx => ?_, fun t ht => ?_⟩
  · obtain ⟨t, ht, sd, hx⟩ := hfrom x hx
    exact ⟨t, ht, _, List.mem_singleton.1 hx⟩
  · obtain ⟨sd, hsd⟩ := hall t ht
    exact ⟨_, hsd _ (List.mem_singleton_self _)⟩

/-! ### Codes without a random word (R50) -/

theorem q4Encode_rnd {mode : RMode} (h : mode ≠ .rs) (bt e x y : Nat) (v : FVal) : q4Encode bt e mode x v = q4Encode bt e mode y v := by
  cases mode with
  | rs => exact absurd rfl h
  | _ => simp only [q4Encode]

section NotRandom
variable {w : Wale} {o : Opnds} {ts : List Nat} {c t : Nat}

/-- Unless the mode is `.rs` a code does not depend on its random word. -/
theorem q4CodeOf_rnd (h : o.mods.rm ≠ .rs) (j : Nat) (x y : W32) : w.q4CodeOf o ts c t j x = w.q4CodeOf o ts c t j y := by
  rw [Wale.q4CodeOf, Wale.q4CodeOf, q4Encode_rnd h]

/-- Words with the same codes so far go on to the same codes, whatever their seeds. -/
theorem foldl_q4Add_fst (h : o.mods.rm ≠ .rs) (l : List Nat) (x y : Nat × Nat × W32) (hxy : x.1 = y.1) :
    (l.foldl (w.q4Add o ts c t) x).1 = (l.foldl (w.q4Add o ts c t) y).1 := by
  induction l generalizing x y with
  | nil => exact hxy
  | cons j l ih =>
    refine ih _ _ ?_
    rw [Wale.q4Add, Wale.q4Add, hxy, q4CodeOf_rnd h]

/-- An entry's codes and scale byte do not depend on the seed. -/
theorem q4Entry_seed (h : o.mods.rm ≠ .rs) (x y : W32) :
    (w.q4Entry o ts c t x).2.1 = (w.q4Entry o ts c t y).2.1 ∧ (w.q4Entry o ts c t x).2.2.1 = (w.q4Entry o ts c t y).2.2.1 := by
  have hword : (w.q4Word o ts c t x).1 = (w.q4Word o ts c t y).1 := by
    rw [Wale.q4Word, Wale.q4Word, foldl_q4Add_fst h _ (0, 0, x) (0, 0, y) rfl]
  simp only [Wale.q4Entry, hword, and_self]

end NotRandom

/-! ### The beats, block by block of each face (R131) -/

/-- The threads of block `b`. -/
def blockThreads (b : Nat) : List Nat := (List.range 4).map (4 * b + ·)

theorem mem_blockThreads {b t : Nat} : t ∈ blockThreads b ↔ t / 4 = b := by
  simp only [blockThreads, List.mem_map, List.mem_range]
  constructor
  · rintro ⟨i, hi, rfl⟩
    omega
  · rintro rfl
    exact ⟨t % 4, by omega, by omega⟩

/-- What the beats leave for a thread's entry: its two words and its exceptions. -/
def q4Res (x : Nat × W32 × W32 × Nat) : Nat × ERes := (x.1, { vals := [x.2.1, x.2.2.1], exc := x.2.2.2 })

/-- The blocks in the order of the beats, each of every face. -/
def Wale.q4Blocks (w : Wale) (g : G) : List (Nat × Opnds × Mask) := (List.range 8).flatMap fun b => (w.faces g).map fun p => (b, p)

theorem mem_q4Blocks {w : Wale} {g : G} {b : Nat} {p : Opnds × Mask} : (b, p) ∈ w.q4Blocks g ↔ b < 8 ∧ p ∈ w.faces g := by
  simp [Wale.q4Blocks]

/-- The entries of a block, when it is active in its face. -/
def Wale.q4Given (w : Wale) (c : Nat) (q : Nat × Opnds × Mask) (sd : NMap W32) : List (Nat × W32 × W32 × Nat) × NMap W32 :=
  if q.2.2.getLsbD (4 * q.1) then w.q4Block q.2.1 (blockThreads q.1) c sd else ([], sd)

/-- The beats collect what the blocks give. -/
theorem q4Beats_fst (w : Wale) (g : G) (c : Nat) : (w.q4Beats g c).1 =
    (collect (fun q sd => (w.q4Given c q sd).1) (fun q sd => (w.q4Given c q sd).2) (w.q4Blocks g) w.seeds).1.map q4Res := by
  rw [Wale.q4Beats, collect, Wale.q4Blocks, List.foldl_flatMap]
  refine congrArg (fun r : List (Nat × W32 × W32 × Nat) × NMap W32 => r.1.map q4Res) (congrArg (fun f => List.foldl f _ _) ?_)
  funext acc b
  rw [List.foldl_map]
  refine congrArg (fun f => List.foldl f _ _) ?_
  funext acc ⟨o, m⟩
  by_cases hbit : m.getLsbD (4 * b) = true
  · simp only [Wale.q4Given, if_pos hbit, blockThreads]
  · simp only [Wale.q4Given, if_neg hbit, List.append_nil]

/-- Every result of the beats is a thread's entry in an active block of a face, and each thread of such a block has one. -/
theorem mem_q4Beats (w : Wale) (g : G) (c : Nat) :
    (∀ y ∈ (w.q4Beats g c).1, ∃ p ∈ w.faces g, ∃ t < 32, p.2.getLsbD (4 * (t / 4)) = true ∧
      ∃ seed, y = q4Res (w.q4Entry p.1 (blockThreads (t / 4)) c t seed)) ∧
    ∀ p ∈ w.faces g, ∀ t < 32, p.2.getLsbD (4 * (t / 4)) = true →
      ∃ seed, q4Res (w.q4Entry p.1 (blockThreads (t / 4)) c t seed) ∈ (w.q4Beats g c).1 := by
  rw [q4Beats_fst]
  obtain ⟨hfrom, hall⟩ := mem_collect (fun q sd => (w.q4Given c q sd).1) (fun q sd => (w.q4Given c q sd).2) (w.q4Blocks g) w.seeds
  refine ⟨fun y hy => ?_, fun p hp t ht hbit => ?_⟩
  · obtain ⟨x, hx, rfl⟩ := List.mem_map.1 hy
    obtain ⟨⟨b, p⟩, hq, sd, hx⟩ := hfrom x hx
    obtain ⟨hb, hp⟩ := mem_q4Blocks.1 hq
    by_cases hbit : p.2.getLsbD (4 * b) = true
    · rw [Wale.q4Given, if_pos hbit] at hx
      obtain ⟨t, ht, seed, rfl⟩ := (mem_q4Block ..).1 x hx
      obtain rfl := mem_blockThreads.1 ht
      exact ⟨p, hp, t, by omega, hbit, seed, rfl⟩
    · rw [Wale.q4Given, if_neg hbit] at hx
      exact absurd hx List.not_mem_nil
  · obtain ⟨sd, hsd⟩ := hall (t / 4, p) (mem_q4Blocks.2 ⟨by omega, hp⟩)
    rw [Wale.q4Given, if_pos hbit] at hsd
    obtain ⟨seed, hmem⟩ := (mem_q4Block w p.1 (blockThreads (t / 4)) c sd).2 t (mem_blockThreads.2 rfl)
    exact ⟨seed, List.mem_map.2 ⟨_, hsd _ hmem, rfl⟩⟩

/-! ### Faces and blocks (R131, R151) -/

/-- No thread is in both halves of an active set. -/
theorem not_mem_both_faces {w : Wale} {m : Mask} {t : Nat} (ha : (maskOf fun t => m.getLsbD t && !w.usesB t).getLsbD t = true)
    (hb : (maskOf fun t => m.getLsbD t && w.usesB t).getLsbD t = true) : False := by
  rw [getLsbD_maskOf] at ha hb
  cases hu : w.usesB t <;> simp [hu] at ha hb

/-- A thread is in one face only. -/
theorem faces_disjoint {w : Wale} {g : G} {p q : Opnds × Mask} {t : Nat} (hp : p ∈ w.faces g) (hq : q ∈ w.faces g)
    (hpt : p.2.getLsbD t = true) (hqt : q.2.getLsbD t = true) : p = q := by
  unfold Wale.faces at hp hq
  cases hb : g.fb with
  | none =>
    rw [hb] at hp hq
    rw [List.mem_singleton.1 hp, List.mem_singleton.1 hq]
  | some fb =>
    rw [hb] at hp hq
    obtain rfl | rfl := List.mem_pair.1 hp <;> obtain rfl | rfl := List.mem_pair.1 hq
    · rfl
    · exact (not_mem_both_faces hpt hqt).elim
    · exact (not_mem_both_faces hqt hpt).elim
    · rfl

/-- Where no block is partly active, the block of an active thread is active whole. -/
theorem getLsbD_of_mixedBlocks_eq_zero {fs : List (Opnds × Mask)} {p : Opnds × Mask} {t i : Nat} (h : mixedBlocks fs = 0) (hp : p ∈ fs)
    (ht : t < 32) (hm : p.2.getLsbD t = true) (hi : i < 4) : p.2.getLsbD (t / 4 * 4 + i) = true := by
  by_contra hn
  have hbit : (mixedBlocks fs).getLsbD t = true := by
    rw [mixedBlocks, getLsbD_maskOf, decide_eq_true ht, Bool.true_and, List.any_eq_true]
    refine ⟨p, hp, ?_⟩
    simp only [hm, Bool.true_and, List.contains_iff_mem, List.mem_map, List.mem_range]
    exact ⟨i, hi, by simpa using hn⟩
  rw [h] at hbit
  simp at hbit

/-- The word of a thread that each of its results has. -/
theorem resWord_eq {rs : List (Nat × ERes)} {t j : Nat} {x : W32} (hall : ∀ p ∈ rs, p.1 = t → p.2.vals.getD j 0 = x)
    (hex : ∃ p ∈ rs, p.1 = t) : resWord rs t j = x := by
  obtain ⟨p, hp, hpt⟩ := hex
  cases hf : rs.find? fun p => p.1 == t with
  | none => exact absurd (List.find?_eq_none.1 hf p hp) (by simp [hpt])
  | some q =>
    simp only [resWord, hf]
    exact hall q (List.mem_of_find?_eq_some hf) (by simpa using List.find?_some hf)

/-- The words of a thread of a face, where no block is partly active and no code is random, are those of its block. -/
theorem resWord_q4Beats {w : Wale} {g : G} {c t : Nat} {p : Opnds × Mask} (hx : mixedBlocks (w.faces g) = 0) (hp : p ∈ w.faces g)
    (ht : t < 32) (hm : p.2.getLsbD t = true) (hrs : p.1.mods.rm ≠ .rs) (seed : W32) (j : Nat) :
    resWord (w.q4Beats g c).1 t j = (q4Res (w.q4Entry p.1 (blockThreads (t / 4)) c t seed)).2.vals.getD j 0 := by
  obtain ⟨hfrom, hall⟩ := mem_q4Beats w g c
  have hbit : p.2.getLsbD (4 * (t / 4)) = true := by
    rw [Nat.mul_comm]
    exact getLsbD_of_mixedBlocks_eq_zero hx hp ht hm (i := 0) (by decide)
  refine resWord_eq (fun y hy hyt => ?_) ?_
  · obtain ⟨q, hq, u, -, hqbit, seed', rfl⟩ := hfrom y hy
    obtain rfl : u = t := hyt
    obtain rfl := faces_disjoint hq hp hqbit hbit
    obtain ⟨hcodes, hscale⟩ := q4Entry_seed (w := w) (ts := blockThreads (u / 4)) (c := c) (t := u) hrs seed' seed
    rw [q4Res, q4Res, hcodes, hscale]
  · obtain ⟨seed', hmem⟩ := hall p hp t ht hbit
    exact ⟨_, hmem, rfl⟩

/-! ### Q4PACK (R131) -/

/-- The wale after a Q4PACK: past its instruction, with its codes and scale bytes pending. -/
def Wale.afterQ4pack (w : Wale) (g : G) (clk : Nat) : Wale :=
  ({ w with seeds := (w.q4Beats g clk).2, inflight := w.inflight ++ w.q4Flights g (w.q4Beats g clk).1 clk } : Wale).advance clk 0

theorem pendingVal_afterQ4pack (w : Wale) (g : G) (c : Nat) (f : RFile) (r t clk : Nat) :
    pendingVal (w.afterQ4pack g c).inflight f r t clk = pendingVal
      (w.inflight ++ w.q4Out g (w.q4Beats g c).1 c (fun t => w.dstReg (w.opnds g t).d t c) 0 .q4 ++
        w.q4Out g (w.q4Beats g c).1 c (fun t => w.q4Scale (w.opnds g t) t c) 1 .n8) f r t clk := by
  rw [List.append_assoc, ← q4Flights_eq]
  rfl

theorem q4packCompletes : Q4packCompletes := by
  intro g s w h hc m mixed rs
  refine ⟨q4pack_idle h hc, q4pack_partial h hc, fun hm hx r => q4pack_fault h hc hm hx, fun hm hx ht => ?_,
    fun hx p hp th hth hbit hrs => ?_⟩
  · have hid : w.id = s.cur := wale?_id h
    refine ⟨_, w.afterQ4pack g s.clk, q4pack_done h hc hm hx ht, 
      wale?_issueWith_cur (v := { w with seeds := (w.q4Beats g s.clk).2 }) h rfl rfl _ 4 0,
      onlyWale_issueWith (w := { w with seeds := (w.q4Beats g s.clk).2 }) hid _ 4 0,
      ⟨rfl, rfl, rfl, rfl, rfl, rfl, rfl, rfl, rfl, rfl, rfl⟩, ⟨rfl, rfl, rfl⟩, fun th r b hth ha hr hb clk hclk => ?_⟩
    have hcodes : (r, th) ∈ w.namedBy g fun t => w.dstReg (w.opnds g t).d t s.clk := mem_namedBy_iff.2 ⟨hth, ha, hr⟩
    have hscale : (b, th) ∈ w.namedBy g fun t => w.q4Scale (w.opnds g t) t s.clk := mem_namedBy_iff.2 ⟨hth, ha, hb⟩
    refine ⟨vAt_of_pending ?_, tagAt_of_pending ?_, fun hne => vAt_of_pending ?_, fun hno => tagAt_of_pending ?_⟩
    · rw [pendingVal_afterQ4pack, pendingVal_q4Out hscale hclk]
    · rw [pendingVal_afterQ4pack, pendingVal_q4Out_tag hscale (by omega)]
    · have hother : (r, th) ∉ w.namedBy g fun t => w.q4Scale (w.opnds g t) t s.clk := fun hmem =>
        hne (Option.some.inj ((mem_namedBy_iff.1 hmem).2.2.symm.trans hb))
      rw [pendingVal_afterQ4pack, pendingVal_q4Out_other hother, pendingVal_q4Out hcodes hclk]
    · have hnone : ∀ u, (r, u) ∉ w.namedBy g fun t => w.q4Scale (w.opnds g t) t s.clk := fun u hmem => by
        obtain ⟨hu, hau, hru⟩ := mem_namedBy_iff.1 hmem
        exact hno u hu hau hru
      rw [pendingVal_afterQ4pack, pendingVal_q4Out_tag_other hnone, pendingVal_q4Out_tag hcodes (by omega)]
  · have hblock : (List.range 4).map (th / 4 * 4 + ·) = blockThreads (th / 4) := by rw [blockThreads, Nat.mul_comm]
    rw [hblock]
    obtain ⟨seed, hmem⟩ := (mem_q4Block w p.1 (blockThreads (th / 4)) s.clk w.seeds).2 th (mem_blockThreads.2 rfl)
    exact ⟨_, hmem, rfl, resWord_q4Beats hx hp hth hbit hrs seed 0, resWord_q4Beats hx hp hth hbit hrs seed 1⟩

/-- Settles O12: a ballot, a vote or a reduction leaves one scalar pending, and Q4PACK its codes and then its scale bytes. -/
theorem ballotsReductionsAndPacking : Obligations.BallotsReductionsAndPacking := ⟨ballotAndVote, waleReductions, q4packCompletes⟩

end Sys2Proof.Machine
end

section
/-!
PROOF. IF, ELSE, ENDIF, LOOP, BREAK, CONT, MELD and ENDMELD: the stacks they leave, and where they trap (O13, O14, O16).
-/
namespace Sys2Proof.Machine
open Claims

/-! ### What a wale keeps -/

theorem sameRegs_refl (w : Wale) : SameRegs w w := ⟨rfl, rfl, rfl, rfl, rfl, rfl, rfl⟩

theorem sameControl_refl (w : Wale) : SameControl w w := ⟨rfl, rfl, rfl, rfl, rfl, rfl, rfl, rfl, rfl, rfl, rfl⟩

/-- An issue without results moves its wale past the instruction, and keeps its registers. -/
theorem advanced_advance (s : State) (w : Wale) (b : Nat) : Advanced s w (w.advance s.clk b) b := ⟨rfl, rfl, rfl⟩

/-! ### Predicates and strict mode (R31, R139) -/

/-- A thread's bit of a predicate that is read for the threads `m` (R139). -/
theorem readPred_bit (w : Wale) (q : Nat) (m : Mask) (clk : Nat) {th : Nat} (ht : th < 32) :
    (w.readPred q m clk).getLsbD th = (m.getLsbD th && w.qAt q th (clk + th / 8)) := by
  rw [Wale.readPred, getLsbD_maskOf, decide_eq_true ht, Bool.true_and]

/-- The predicate that a form's A operand names. -/
theorem predA_eq {o : Opnds} {q : Nat} (h : o.a = .pred q) : Opnds.predA o = q := by rw [Opnds.predA, h]

/-- What reads a predicate or nothing passes where reading it passes. -/
theorem stallShort_predUse {s : State} {w : Wale} {q : Nat} (h : s.stallShort w [⟨.q, q⟩] = none) (m : Mask) :
    s.stallShort w (predUse q m) = none := by
  unfold predUse
  split
  · exact stallShort_nil s w
  · exact h

theorem predBound_eq (m : Mask) : predBound m = if m = 0 then 1 else 4 := by simp [predBound]

/-! ### IF, ELSE and ENDIF (R141) -/

section Blocks
variable {s : State} {w : Wale} {g : G}

theorem execIfOp_pushes {q : Nat} (ha : g.fa.a = .pred q) (h : ControlReady s w g.face (predUse q w.exm))
    (hd : w.masks.length < 16) : exec (.ifOp g) s =
      .next (s.issued { w with masks := ⟨.ifK, w.exm⟩ :: w.masks, exm := w.readPred q w.exm s.clk } (predBound w.exm)) := by
  obtain ⟨hcur, hk, hf, hs⟩ := h
  change s.control _ _ _ = _
  rw [predA_eq ha, control_eq hcur hk hf hs, if_neg (Nat.not_le.2 hd)]

theorem execIfOp_full {q : Nat} (ha : g.fa.a = .pred q) (h : ControlReady s w g.face [⟨.q, q⟩])
    (hd : 16 ≤ w.masks.length) : exec (.ifOp g) s = s.raise w .stackOvf 0 := by
  obtain ⟨hcur, hk, hf, hs⟩ := h
  change s.control _ _ _ = _
  rw [predA_eq ha, control_eq hcur hk hf (stallShort_predUse hs _), if_pos hd, State.stackOvf]

variable (h : ControlReady s w g.face []) (hx : w.crossesRegion = false)
include h hx

theorem execElseOp_turns {m : Mask} {r : List MaskLevel} (hm : w.ownMasks = ⟨.ifK, m⟩ :: r) : exec (.elseOp g) s =
    .next (s.issued { w with masks := ⟨.elseK, m⟩ :: w.masks.tail, exm := m &&& w.live &&& ~~~w.exm } 1) := by
  obtain ⟨hcur, hk, hf, hs⟩ := h
  change s.control _ _ _ = _
  rw [control_eq hcur hk hf hs]
  simp only [hx, hm, Bool.false_eq_true, if_false]

theorem execElseOp_other (hm : ∀ m r, w.ownMasks ≠ ⟨.ifK, m⟩ :: r) : exec (.elseOp g) s = s.raise w .stackOvf 0 := by
  obtain ⟨hcur, hk, hf, hs⟩ := h
  change s.control _ _ _ = _
  rw [control_eq hcur hk hf hs]
  simp only [hx, Bool.false_eq_true, if_false]
  rfl

theorem execEndif_pops {k : MaskKind} {m : Mask} {r : List MaskLevel} (hm : w.ownMasks = ⟨k, m⟩ :: r)
    (hk : k = .ifK ∨ k = .elseK) :
    exec (.endif g) s = .next (s.issued { w with masks := w.masks.tail, exm := m &&& w.live } 1) := by
  obtain ⟨hcur, hkind, hf, hs⟩ := h
  change s.control _ _ _ = _
  rw [control_eq hcur hkind hf hs]
  obtain rfl | rfl := hk <;> simp only [hx, hm, Bool.false_eq_true, if_false]

theorem execEndif_other (hm : ∀ m r, w.ownMasks ≠ ⟨.ifK, m⟩ :: r ∧ w.ownMasks ≠ ⟨.elseK, m⟩ :: r) :
    exec (.endif g) s = s.raise w .stackOvf 0 := by
  obtain ⟨hcur, hk, hf, hs⟩ := h
  change s.control _ _ _ = _
  rw [control_eq hcur hk hf hs]
  simp only [hx, Bool.false_eq_true, if_false]
  split
  · next m r he => exact absurd he (hm m r).1
  · next m r he => exact absurd he (hm m r).2
  · rfl

end Blocks

/-- IF, ELSE and ENDIF are one issue each. -/
theorem ifElseEndif : IfElseEndif := by
  intro g s w q
  refine ⟨fun ha h hd => ?_, fun m r h hx hm => ?_, fun k m r h hx hm hk => ?_⟩
  · exact goes_issued h.1 (execIfOp_pushes ha h hd) rfl fun ho =>
      ⟨rfl, fun th ht => readPred_bit w q w.exm s.clk ht, rfl, rfl, sameRegs_refl w, predBound_eq w.exm ▸ advanced_advance s w _, ho⟩
  · exact goes_issued h.1 (execElseOp_turns h hx hm) rfl fun ho =>
      ⟨rfl, rfl, rfl, rfl, sameRegs_refl w, advanced_advance s w 1, ho⟩
  · exact goes_issued h.1 (execEndif_pops h hx hm hk) rfl fun ho =>
      ⟨rfl, rfl, rfl, rfl, sameRegs_refl w, advanced_advance s w 1, ho⟩

/-! ### LOOP, BREAK and CONT (R142) -/

section Loops
variable {s : State} {w : Wale} {g : G}

theorem execLoop_pushes (h : ControlReady s w g.face []) (hr : w.region = none ∨ g.face ≠ .both) (hd : w.masks.length + 2 ≤ 16) :
    exec (.loop g) s = .next (s.issued { w with
      masks := ⟨.loopK, w.exm &&& ~~~w.loopFaces g.face⟩ :: ⟨.loopK, w.exm⟩ :: w.masks, exm := w.exm &&& w.loopFaces g.face } 1) := by
  obtain ⟨hcur, hk, hf, hs⟩ := h
  have hb : (w.region.isSome && g.face == .both) = false := by
    obtain hr | hr := hr <;> simp [hr]
  change s.control _ _ _ = _
  rw [control_eq hcur hk hf hs, hb, if_neg Bool.false_ne_true, if_neg (Nat.not_lt.2 hd)]

theorem execLoop_full (h : ControlReady s w g.face []) (hr : w.region = none ∨ g.face ≠ .both) (hd : 14 < w.masks.length) :
    exec (.loop g) s = s.raise w .stackOvf 0 := by
  obtain ⟨hcur, hk, hf, hs⟩ := h
  have hb : (w.region.isSome && g.face == .both) = false := by
    obtain hr | hr := hr <;> simp [hr]
  change s.control _ _ _ = _
  rw [control_eq hcur hk hf hs, hb, if_neg Bool.false_ne_true, if_pos (by omega), State.stackOvf]

/-- The registers that BREAK and CONT read: each face's predicate, where the face has a thread (R139, R142). -/
def leaveUses (g : G) (w : Wale) : List Use := (w.faces g).flatMap fun p => predUse (Opnds.predA p.1) p.2

/-- The threads that BREAK and CONT take: those of each face whose predicate is 1 (R142). -/
def Wale.leaving (w : Wale) (g : G) (clk : Nat) : Mask :=
  (w.faces g).foldl (fun r p => r ||| w.readPred (Opnds.predA p.1) p.2 clk) 0

/-- The wale after BREAK or CONT has taken threads out of the loop. -/
def Wale.leftLoop (w : Wale) (g : G) (k : Nat) (brk : Bool) (clk : Nat) : Wale :=
  { w with exm := w.exm &&& ~~~w.leaving g clk, masks := leaveLoop w.masks k (w.leaving g clk) brk }

theorem leave_inside {k : Nat} (h : ControlReady s w g.face (leaveUses g w)) (hk : loopAbove w.ownMasks = some k)
    (hd : ∀ e r, w.ownMelds = e :: r → e.sd + k + 1 ≤ w.masks.length) (brk : Bool) :
    s.leave g brk = .next (s.issued (w.leftLoop g k brk s.clk) (predBound (w.active g.face))) := by
  obtain ⟨hcur, hkind, hf, hs⟩ := h
  change s.control g.face (leaveUses g) _ = _
  rw [control_eq hcur hkind hf hs]
  simp only [hk]
  rw [if_neg]
  · rfl
  · split
    · next e r he =>
      have := hd e r he
      exact fun h => absurd (of_decide_eq_true h) (by omega)
    · exact Bool.false_ne_true

theorem leave_outside (h : ControlReady s w g.face (leaveUses g w)) (hk : loopAbove w.ownMasks = none) (brk : Bool) :
    s.leave g brk = s.raise w .stackOvf 0 := by
  obtain ⟨hcur, hkind, hf, hs⟩ := h
  change s.control g.face (leaveUses g) _ = _
  rw [control_eq hcur hkind hf hs]
  simp only [hk]
  rfl

/-- A thread is in an OR over a list when it is in one of its masks. -/
theorem getLsbD_foldl_or_map {α : Type} (f : α → Mask) (l : List α) (m : Mask) (th : Nat) :
    (l.foldl (fun r x => r ||| f x) m).getLsbD th = (m.getLsbD th || l.any fun x => (f x).getLsbD th) := by
  induction l generalizing m with
  | nil => simp
  | cons x l ih => rw [List.foldl_cons, ih, BitVec.getLsbD_or, List.any_cons, Bool.or_assoc]

theorem leaving_bit (w : Wale) (g : G) (clk : Nat) {th : Nat} (ht : th < 32) : (w.leaving g clk).getLsbD th =
    (w.faces g).any fun p => p.2.getLsbD th && w.qAt (Opnds.predA p.1) th (clk + th / 8) := by
  have hzero : (0 : Mask).getLsbD th = false := BitVec.getLsbD_zero
  rw [Wale.leaving, getLsbD_foldl_or_map, hzero, Bool.false_or]
  simp only [readPred_bit w _ _ clk ht]

/-- With one operand set the threads taken are those of the active set whose predicate is 1. -/
theorem leaving_unpaired {q : Nat} (ha : g.fa.a = .pred q) (hb : g.fb = none) (clk : Nat) {th : Nat} (ht : th < 32) :
    (w.leaving g clk).getLsbD th = ((w.active g.face).getLsbD th && w.qAt q th (clk + th / 8)) := by
  rw [leaving_bit w g clk ht]
  simp [Wale.faces, hb, predA_eq ha]

theorem leaveUses_unpaired {q : Nat} (ha : g.fa.a = .pred q) (hb : g.fb = none) :
    leaveUses g w = predUse q (w.active g.face) := by
  simp [leaveUses, Wale.faces, hb, predA_eq ha]

/-- Levels of IF blocks are passed over on the way to the innermost loop. -/
theorem loopAbove_append {l : List MaskLevel} (h : ∀ x ∈ l, x.kind = .ifK ∨ x.kind = .elseK) (r : List MaskLevel) :
    loopAbove (l ++ r) = (loopAbove r).map (· + l.length) := by
  induction l with
  | nil => simp
  | cons x l ih =>
    obtain ⟨k, m⟩ := x
    have ih := ih fun x hx => h x (List.mem_cons_of_mem _ hx)
    have hk : loopAbove (⟨k, m⟩ :: (l ++ r)) = (loopAbove (l ++ r)).map (· + 1) := by
      obtain rfl | rfl : k = .ifK ∨ k = .elseK := h _ (List.mem_cons_self ..) <;> rfl
    rw [List.cons_append, hk, ih, Option.map_map]
    rfl

/-- A search that meets a CALL level or the bottom finds no loop (R143). -/
theorem loopAbove_noLoop {l : List MaskLevel} (h : NoLoop l) : loopAbove l = none := by
  obtain ⟨above, rest, rfl, ha, hr⟩ := h
  rw [loopAbove_append ha]
  obtain rfl | ⟨m, r, rfl⟩ := hr <;> rfl

/-- Of the levels above the innermost pair each loses the threads that leave, and BRK takes them at a BREAK. -/
theorem leaveLoop_append (above rest : List MaskLevel) (b r : Mask) (brk : Bool) :
    leaveLoop (above ++ ⟨.loopK, b⟩ :: rest) above.length r brk =
      above.map (fun l => { l with mask := l.mask &&& ~~~r }) ++ ⟨.loopK, if brk then b ||| r else b⟩ :: rest := by
  rw [leaveLoop, List.take_left, List.drop_left]
  cases brk <;> rfl

/-- What BREAK and CONT leave: the stacks, EXM and the rest of their wale. -/
theorem goes_leave {i : Instr} {k : Nat} {brk : Bool} (h : ControlReady s w g.face (leaveUses g w)) (hk : loopAbove w.ownMasks = some k)
    (hd : ∀ e r, w.ownMelds = e :: r → e.sd + k + 1 ≤ w.masks.length) (hi : exec i s = s.leave g brk) :
    Goes i s fun t v => v.masks = leaveLoop w.masks k (w.leaving g s.clk) brk ∧ v.exm = w.exm &&& ~~~w.leaving g s.clk ∧
      v.live = w.live ∧ v.melds = w.melds ∧ SameRegs w v ∧ Advanced s w v (if w.active g.face = 0 then 1 else 4) ∧ OnlyWale s t :=
  goes_issued h.1 (hi.trans (leave_inside h hk hd brk)) rfl fun ho =>
    ⟨rfl, rfl, rfl, rfl, sameRegs_refl w, predBound_eq (w.active g.face) ▸ advanced_advance s w _, ho⟩

end Loops

/-- LOOP pushes its pair; BREAK and CONT leave the loop that the search finds. -/
theorem loopBreakCont : LoopBreakCont := by
  intro g s w
  refine ⟨fun h hr hd => ?_, fun q above brk rest ha hb h hm ht hmask hab => ?_, fun k h hk hd => ?_⟩
  · exact goes_issued h.1 (execLoop_pushes h hr hd) rfl fun ho =>
      ⟨rfl, rfl, rfl, rfl, sameRegs_refl w, advanced_advance s w 1, ho⟩
  · have hown : loopAbove w.ownMasks = some above.length := by
      rw [Wale.ownMasks, ht, hmask, loopAbove_append hab]
      simp [loopAbove]
    have hmeld : ∀ e r, w.ownMelds = e :: r → e.sd + above.length + 1 ≤ w.masks.length := by
      simp [Wale.ownMelds, ht, hm]
    have hr : ControlReady s w g.face (leaveUses g w) := by
      obtain ⟨hcur, hkind, hf, hs⟩ := h
      exact ⟨hcur, hkind, hf, leaveUses_unpaired ha hb ▸ stallShort_predUse hs _⟩
    have hleft (b : Bool) := leaveLoop_append above rest brk (w.leaving g s.clk) b
    refine ⟨w.leaving g s.clk, fun th => leaving_unpaired ha hb s.clk, ?_, ?_⟩
    · obtain ⟨t, v, he, hv, hmasks, hexm, hlive, -, hp⟩ := goes_leave (i := .breakOp g) hr hown hmeld rfl
      exact ⟨t, v, he, hv, by rw [hmasks, hmask, hleft]; rfl, hexm, hlive, hp⟩
    · obtain ⟨t, v, he, hv, hmasks, hexm, hlive, -, hp⟩ := goes_leave (i := .cont g) hr hown hmeld rfl
      exact ⟨t, v, he, hv, by rw [hmasks, hmask, hleft]; rfl, hexm, hlive, hp⟩
  · exact ⟨w.leaving g s.clk, fun th => leaving_bit w g s.clk, goes_leave h hk hd rfl, goes_leave h hk hd rfl⟩

/-- Settles O13: one equation for each operation's outcome, and the threads that BREAK and CONT take bit by bit. -/
theorem structuredControl : Obligations.StructuredControl := ⟨ifElseEndif, loopBreakCont⟩

/-! ### MELD and ENDMELD (R150) -/

section Melds
variable {s : State} {w : Wale} {g : G}

theorem execMeld_pushes {q : Nat} (ha : g.fa.a = .pred q) (h : ControlReady s w g.face (predUse q (w.active g.face)))
    (hd : w.melds.length < 3) : exec (.meld g) s = .next (s.issued { w with
      melds := ⟨w.exm, w.active g.face &&& ~~~w.readPred q (w.active g.face) s.clk,
        w.active g.face &&& w.readPred q (w.active g.face) s.clk, w.masks.length, q⟩ :: w.melds
      exm := w.active g.face } (predBound (w.active g.face))) := by
  obtain ⟨hcur, hk, hf, hs⟩ := h
  change s.control _ _ _ = _
  rw [predA_eq ha, control_eq hcur hk hf hs, if_neg (Nat.not_le.2 hd)]

theorem execMeld_full {q : Nat} (ha : g.fa.a = .pred q) (h : ControlReady s w g.face [⟨.q, q⟩]) (hd : 3 ≤ w.melds.length) :
    exec (.meld g) s = s.raise w .stackOvf 0 := by
  obtain ⟨hcur, hk, hf, hs⟩ := h
  change s.control _ _ _ = _
  rw [predA_eq ha, control_eq hcur hk hf (stallShort_predUse hs _), if_pos hd, State.stackOvf]

theorem execEndmeld_pops {e : MeldEntry} {r : List MeldEntry} (h : ControlReady s w g.face []) (hm : w.ownMelds = e :: r)
    (hd : w.masks.length = e.sd) : exec (.endmeld g) s =
      .next (s.issued { w with melds := w.melds.tail, exm := e.saved &&& w.live } 1) := by
  obtain ⟨hcur, hk, hf, hs⟩ := h
  change s.control _ _ _ = _
  rw [control_eq hcur hk hf hs]
  simp [hm, hd]

theorem execEndmeld_illegal {e : MeldEntry} {r : List MeldEntry} (h : ControlReady s w g.face [])
    (hm : w.ownMelds = [] ∨ w.ownMelds = e :: r ∧ w.masks.length ≠ e.sd) :
    exec (.endmeld g) s = s.raise w .meldIllegal w.exm := by
  obtain ⟨hcur, hk, hf, hs⟩ := h
  change s.control _ _ _ = _
  rw [control_eq hcur hk hf hs]
  obtain hm | ⟨hm, hd⟩ := hm
  · simp only [hm]
  · simp only [hm, ne_eq, hd, not_false_eq_true, if_true]

end Melds

/-- Settles O16: MELD's two sets are its active set with and without the predicate's bits, read in each thread's beat. -/
theorem meldAndEndmeld : Obligations.MeldAndEndmeld := by
  unfold Obligations.MeldAndEndmeld
  intro g s w q
  refine ⟨fun ha h hd => ?_, fun e r h hm hd => ?_, fun e r => execEndmeld_illegal⟩
  · refine goes_issued h.1 (execMeld_pushes ha h hd) rfl fun ho => ⟨_, rfl, rfl, rfl, rfl, fun th ht => ?_, fun th ht => ?_, rfl, rfl,
      rfl, sameRegs_refl w, predBound_eq (w.active g.face) ▸ advanced_advance s w _, ho⟩
    · rw [BitVec.getLsbD_and, readPred_bit w q _ s.clk ht, ← Bool.and_assoc, Bool.and_self]
    · rw [BitVec.getLsbD_and, BitVec.getLsbD_not, readPred_bit w q _ s.clk ht, decide_eq_true ht]
      cases (w.active g.face).getLsbD th <;> rfl
  · exact goes_issued h.1 (execEndmeld_pops h hm hd) rfl fun ho =>
      ⟨rfl, rfl, rfl, rfl, sameRegs_refl w, advanced_advance s w 1, ho⟩

/-! ### Full stacks (R143) -/

section Full
variable {s : State} {w : Wale} {g : G}

theorem execEndloop_other (h : ControlReady s w g.face []) (hx : w.crossesRegion = false)
    (hm : ∀ b m r, w.ownMasks ≠ ⟨.loopK, b⟩ :: ⟨.loopK, m⟩ :: r) : exec (.endloop g) s = s.raise w .stackOvf 0 := by
  obtain ⟨hcur, hk, hf, hs⟩ := h
  have hl : w.loopsBack = false := by
    unfold Wale.loopsBack
    split
    · next b m r he => exact absurd he (hm b m r)
    · rfl
  change s.control _ _ _ = _
  rw [control_eq hcur hk hf hs]
  simp only [hl, hx, Bool.false_eq_true, if_false]
  rfl

theorem execRet_other {p : IntervalHdr × Nat × Nat × Nat} (h : ControlReady s w g.face []) (hp : s.retPlan w = .ok p)
    (hmeld : w.ownMelds = []) (hm : ∀ m r, w.ownMasks ≠ ⟨.callK, m⟩ :: r) : exec (.ret g) s = s.raise w .stackOvf 0 := by
  obtain ⟨hcur, hk, hf, hs⟩ := h
  change s.control _ _ _ = _
  rw [control_eq hcur hk hf hs]
  simp only [hp, hmeld, Bool.false_eq_true, if_false]
  rfl

/-- A CALL whose earlier checks pass finds the mask stack full (R143, R145, log 105). -/
theorem callTo_full {c : CallForm} {fs : List (CallFace × Mask)} {exm : Mask} {target : Nat} (hf : w.faceOk c.face = true)
    (hd : 16 ≤ w.masks.length) (ht : s.targetTrap w target true exm = none)
    (hset : ∀ p ∈ fs, ∀ r ∈ callRegs c.n p.1, w.inSet r = true)
    (htag : ∀ b, c.fb = some b → ∀ i < c.n, w.tagAt (c.fa.a + i) s.clk = w.tagAt (b.a + i) s.clk) (ret phase : Nat) :
    s.callTo w c fs exm ret phase target = s.raise w .stackOvf 0 := by
  have hmiss : ((fs.flatMap fun p => callRegs c.n p.1).any fun r => !w.inSet r) = false := by
    simp only [List.any_eq_false, List.mem_flatMap]
    rintro r ⟨p, hp, hr⟩
    simp [hset p hp r hr]
  unfold State.callTo
  cases hb : c.fb with
  | none =>
    simp only [ht, hf, hmiss, hd, Bool.not_true, Bool.false_eq_true, if_false, if_true]
    rfl
  | some b =>
    have hfmt : ((List.range c.n).any fun i => w.tagAt (c.fa.a + i) s.clk != w.tagAt (b.a + i) s.clk) = false := by
      simpa using htag b hb
    simp only [ht, hf, hmiss, hfmt, hd, Bool.not_true, Bool.false_eq_true, if_false, if_true]
    rfl

end Full

/-- Settles O14: each operation's check of its stack is reached once those before it pass. -/
theorem stackOverflow : Obligations.StackOverflow := by
  unfold Obligations.StackOverflow
  intro g s w q ovf
  refine ⟨execIfOp_full, execLoop_full, execMeld_full, fun h hx => ⟨execElseOp_other h hx, execEndif_other h hx, execEndloop_other h hx⟩,
    fun p => execRet_other, fun h hl => ⟨leave_outside h (loopAbove_noLoop hl) true, leave_outside h (loopAbove_noLoop hl) false⟩,
    fun c h hk hf hd => ?_⟩
  refine ⟨fun hb ha ht hset htag => ?_, fun fb hb => ⟨fun hl ht hset htag => ?_, fun hl => ⟨fun ho ht hset htag => ?_,
    fun ho ht hset htag => ?_⟩⟩⟩
  · exact (execCall_one h hk hb ha).trans (callTo_full hf hd ht (by simpa using hset) htag ..)
  · exact (execCall_faceB h hk hb hl).trans (callTo_full hf hd ht (by simpa using hset) htag ..)
  · exact (execCall_both h hk hb hl ho).trans (callTo_full hf hd ht (by simpa using hset) htag ..)
  · exact (execCall_faceA h hk hb hl ho).trans (callTo_full hf hd ht (by simpa using hset) htag ..)

end Sys2Proof.Machine
end

section
/-!
PROOF. TRAP, BKPT, TRET and TRET.SKIP: entering and leaving a handler (O19, O21).
-/
namespace Sys2Proof.Machine
open Claims

/-! ### What settling keeps (R28, R251) -/

/-- A wale keeps its serial and place, its live threads and both stacks. -/
def SamePlace (w v : Wale) : Prop :=
  v.id = w.id ∧ v.core = w.core ∧ v.slot = w.slot ∧ v.live = w.live ∧ v.masks = w.masks ∧ v.melds = w.melds

theorem samePlace_refl (w : Wale) : SamePlace w w := ⟨rfl, rfl, rfl, rfl, rfl, rfl⟩

theorem SamePlace.trans {a b c : Wale} (h : SamePlace a b) (k : SamePlace b c) : SamePlace a c := by
  obtain ⟨hi, hc, hs, hl, hm, hd⟩ := h
  obtain ⟨ki, kc, ks, kl, km, kd⟩ := k
  exact ⟨ki.trans hi, kc.trans hc, ks.trans hs, kl.trans hl, km.trans hm, kd.trans hd⟩

theorem samePlace_land (w : Wale) (e : InFlight) : SamePlace w (w.land e) := by
  unfold Wale.land
  split
  · exact samePlace_refl w
  · split <;> exact samePlace_refl w

/-- Settling every result keeps what is no register. -/
theorem samePlace_settleAll (w : Wale) : SamePlace w w.settleAll := by
  have hfold (l : List InFlight) : ∀ u, SamePlace w u → SamePlace w (l.foldl Wale.land u) := by
    induction l with
    | nil => exact fun u hu => hu
    | cons e l ih => exact fun u hu => ih _ (hu.trans (samePlace_land u e))
  exact hfold (w.inflight.partition fun e => e.filled).1 w (samePlace_refl w)

theorem samePlace_clearHandlerRegs (w : Wale) : SamePlace w w.clearHandlerRegs := by
  unfold Wale.clearHandlerRegs
  split <;> exact samePlace_refl w

/-- A result that lands keeps the scalars' canonical form. -/
theorem mSorted_land_s {w : Wale} (e : InFlight) (h : mSorted w.s = true) : mSorted (w.land e).s = true := by
  unfold Wale.land
  split
  · exact h
  · split
    · exact h
    · exact h
    · exact mSorted_mSet _ _ _ h
    · exact h
    · exact h

theorem mSorted_settleAll_s {w : Wale} (h : mSorted w.s = true) : mSorted w.settleAll.s = true := by
  have hfold (l : List InFlight) : ∀ u : Wale, mSorted u.s = true → mSorted (l.foldl Wale.land u).s = true := by
    induction l with
    | nil => exact fun u hu => hu
    | cons e l ih => exact fun u hu => ih _ (mSorted_land_s e hu)
  exact hfold (w.inflight.partition fun e => e.filled).1 w h

/-- What newer results discard lies in the queues: of requests, of weaver operations, and of the wale's own matrix operations. -/
theorem supersedeAll_eq (s : State) (w : Wale) (clk : Nat) : ∃ reqs wv, ∃ f : List MOp → List MOp, s.supersedeAll w clk =
    ({ s with reqs := reqs, wvPend := wv } : State).onWale w.id fun x => { x with mq := f x.mq } := by
  unfold State.supersedeAll
  induction w.inflight.filter (fun e => e.filled && decide (e.readable ≤ clk)) generalizing s with
  | nil =>
    refine ⟨s.reqs, s.wvPend, id, ?_⟩
    simp [State.onWale]
  | cons e l ih =>
    obtain ⟨reqs, wv, f, h⟩ := ih (s.supersede w e.file e.reg e.no e.mask)
    refine ⟨reqs, wv, fun q => f (q.map fun o => o.supersede e.file e.reg e.no e.mask (w.trap.map TrapFrame.no)), ?_⟩
    rw [List.foldl_cons, h]
    simp only [State.onWale, State.supersede, List.map_map]
    congr 1
    refine List.map_congr_left fun x _ => ?_
    by_cases hx : x.id = w.id <;> simp [hx]

/-- The wale is found with what is left of its matrix operations. -/
theorem wale?_supersedeAll {s : State} {w : Wale} {v : Wale} (h : s.wale? w.id = some v) (clk : Nat) :
    ∃ mq, (s.supersedeAll w clk).wale? w.id = some { v with mq := mq } := by
  obtain ⟨reqs, wv, f, he⟩ := supersedeAll_eq s w clk
  refine ⟨f v.mq, ?_⟩
  rw [he, wale?_onWale_self _ _ (fun x => { x with mq := f x.mq }) fun _ => rfl]
  exact congrArg (Option.map _) h

theorem wale?_of_atHand {s : State} {w : Wale} (h : AtHand s w) : s.wale? w.id = some w := by
  have hid : w.id = s.cur := wale?_id h
  rw [hid]
  exact h

/-! ### TRAP and BKPT (R156) -/

section Entering
variable {s : State} {w : Wale} {g : G}

/-- A wale outside a handler that traps stands in its context's handler, with the frame of the trap (R251, R253). -/
theorem wale?_takeTrap (h : s.wale? w.id = some w) (hk : w.kind = .wale) (ht : w.trap = none) (hh : s.handler w.ctx ≠ 0) (r : TrapReq) :
    ∃ v, (s.takeTrap w r).wale? w.id = some v ∧ v.trap = some (w.frame { r with t0 := max r.t0 s.clk }) ∧
      v.pc = s.handler w.ctx ∧ v.exm = w.live := by
  obtain ⟨mq, he⟩ := takeTrap_enters r hk ht hh
  obtain ⟨mq', hw⟩ := wale?_supersedeAll h (w.settleClk s.clk)
  have hv : (w.enter (s.handler w.ctx) { r with t0 := max r.t0 s.clk }).id = w.id := enter_id ..
  have hfound : ((s.supersedeAll w (w.settleClk s.clk)).writeLoc (saveArea w.core w.slot) w.settleAll.saveBytes).wale? w.id =
      some { w with mq := mq' } := by rw [State.wale?, State.writeLoc_wales]; exact hw
  refine ⟨{ w.enter (s.handler w.ctx) { r with t0 := max r.t0 s.clk } with mq := mq }, ?_, rfl, rfl, ?_⟩
  · rw [he]
    have hp := wale?_putWale_self (w := { w.enter (s.handler w.ctx) { r with t0 := max r.t0 s.clk } with mq := mq })
      (hv.symm ▸ hfound)
    rwa [show ({ w.enter (s.handler w.ctx) { r with t0 := max r.t0 s.clk } with mq := mq } : Wale).id = w.id from hv] at hp
  · obtain ⟨-, -, -, hlive, -, -⟩ := (samePlace_settleAll w).trans (samePlace_clearHandlerRegs _)
    exact hlive

/-- sr.tcause of a trap that is no header's holds the cause's code and DETAIL (R253). -/
theorem frame_tcause (w : Wale) {r : TrapReq} (hr : r.hdr = false) :
    (w.frame r).tcause.toNat % 256 = r.cause.code ∧ (w.frame r).tcause.toNat / 2 ^ 16 = r.detail % 256 := by
  have hc : r.cause.code < 256 := by cases r.cause <;> decide
  have hv : (w.frame r).tcause.toNat = r.detail % 256 * 2 ^ 16 + r.cause.code := by
    simp only [Wale.frame, hr, Bool.false_eq_true, if_false, Nat.add_zero, BitVec.toNat_ofNat]
    exact Nat.mod_eq_of_lt (by omega)
  omega

theorem execTrap_traps {n : Nat} (h : AtHand s w) (hf : w.faceOk g.face = true) (hn : g.fa.b = .lit n) (ha : w.active g.face ≠ 0) :
    exec (.trap g) s = .next (s.takeTrap w { cause := .trap, lanes := w.active g.face, detail := n, t0 := s.clk }) := by
  change s.withCur _ = _
  rw [withCur_eq _ h]
  simp only [hf, beq_eq_false_iff_ne.2 ha, hn, Bool.not_true, Bool.false_eq_true, if_false, State.raise, Nat.zero_max]

theorem execTrap_idle (h : AtHand s w) (hf : w.faceOk g.face = true) (ha : w.active g.face = 0) :
    exec (.trap g) s = .next (s.issued w 1) := by
  change s.withCur _ = _
  rw [withCur_eq _ h]
  simp [hf, ha]

theorem execBkpt_breaks (h : AtHand s w) (hf : w.faceOk g.face = true) (hb : s.bken w.ctx = true) :
    exec (.bkpt g) s = .next (s.takeTrap w { cause := .brk, lanes := 0, t0 := s.clk }) := by
  change s.withCur _ = _
  rw [withCur_eq _ h]
  simp only [hf, hb, Bool.not_true, Bool.false_eq_true, if_false, if_true, State.raise, Nat.zero_max]

theorem execBkpt_idle (h : AtHand s w) (hf : w.faceOk g.face = true) (hb : s.bken w.ctx = false) :
    exec (.bkpt g) s = .next (s.issued w 1) := by
  change s.withCur _ = _
  rw [withCur_eq _ h]
  simp [hf, hb]

/-- An issue without results is all that an operation does which acts as NOP. -/
theorem goes_nop {i : Instr} (h : AtHand s w) (he : exec i s = .next (s.issued w 1)) :
    Goes i s fun t v => SameControl w v ∧ SameRegs w v ∧ Advanced s w v 1 ∧ OnlyWale s t :=
  goes_issued h he rfl fun ho => ⟨(sameControl_refl _), (sameRegs_refl _),
    ⟨rfl, rfl, rfl⟩, ho⟩

end Entering

/-- Settles O19: TRAP and BKPT each trap or issue, and the trap's frame names the operation. -/
theorem trapAndBreakpoint : Obligations.TrapAndBreakpoint := by
  unfold Obligations.TrapAndBreakpoint
  intro g s w h hf enters
  have enter (i : Instr) (r : TrapReq) (hr : r.hdr = false) (he : exec i s = .next (s.takeTrap w r)) :
      enters i r.cause.code fun d => d = r.detail % 256 := by
    intro hk ht hh
    have hid : w.id = s.cur := wale?_id h
    obtain ⟨v, hv, htrap, hpc, hexm⟩ := wale?_takeTrap (wale?_of_atHand h) hk ht hh r
    obtain ⟨hcode, hdetail⟩ := frame_tcause w (r := { r with t0 := max r.t0 s.clk }) hr
    exact ⟨_, v, he, hid ▸ hv, _, htrap, hpc, hexm, rfl, rfl, hcode, hdetail⟩
  refine ⟨fun n hn ha => ?_, fun ha => goes_nop h (execTrap_idle h hf ha), fun hb => ?_, fun hb => ?_⟩
  · have he := execTrap_traps h hf hn ha
    exact ⟨he, enter _ _ rfl he⟩
  · have he := execBkpt_breaks h hf hb
    refine ⟨he, fun hk ht hh => ?_⟩
    obtain ⟨t, v, hx, hv, f, htrap, hpc, hexm, htpc, htexm, hcode, -⟩ := enter _ _ rfl he hk ht hh
    exact ⟨t, v, hx, hv, f, htrap, hpc, hexm, htpc, htexm, hcode, trivial⟩
  · have he := execBkpt_idle h hf hb
    exact ⟨goes_nop h he, he.trans (execNop_eq h hf).symm⟩

/-! ### TRET and TRET.SKIP (R157, R257, R258) -/

/-- The word at offset `o` of a wale's save area (R252). -/
def State.savedWord (s : State) (w : Wale) (o : Nat) : W32 := BitVec.ofNat 32 (s.natAt (saveArea w.core w.slot + o) 4)

/-- s56 to s63 as the save area gives them (R257). -/
def State.savedScalars (s : State) (w : Wale) (n : Nat) : NMap W32 :=
  (List.range n).foldl (fun m k => mSet 0 m (56 + k) (s.savedWord w (0x400 + 4 * k))) w.s

theorem restore_s (w : Wale) (s : State) : (w.restore s).s = s.savedScalars w 8 := by
  unfold Wale.restore
  split <;> rfl

theorem samePlace_restore (w : Wale) (s : State) : SamePlace w (w.restore s) := by
  unfold Wale.restore
  split
  · exact samePlace_refl w
  · exact samePlace_clearHandlerRegs w

/-- Each of the scalars that come back is the word of the save area. -/
theorem savedScalars_get (s : State) {w : Wale} (hs : mSorted w.s = true) (n : Nat) : mSorted (s.savedScalars w n) = true ∧
    ∀ k < n, mGet 0 (s.savedScalars w n) (56 + k) = s.savedWord w (0x400 + 4 * k) := by
  induction n with
  | zero => exact ⟨hs, by simp⟩
  | succ n ih =>
    obtain ⟨hsort, hget⟩ := ih
    have he : s.savedScalars w (n + 1) = mSet 0 (s.savedScalars w n) (56 + n) (s.savedWord w (0x400 + 4 * n)) := by
      simp [State.savedScalars, List.range_succ]
    rw [he]
    refine ⟨mSorted_mSet _ _ _ hsort, fun k hk => ?_⟩
    obtain hk | rfl := Nat.lt_succ_iff_lt_or_eq.1 hk
    · rw [mGet_mSet_ne 0 _ hsort (by omega), hget k hk]
    · exact mGet_mSet_self 0 _ _ hsort

/-- The wale after TRET or TRET.SKIP, `s` the state once newer results have discarded older queued ones. -/
def Wale.returned (w : Wale) (s : State) (f : TrapFrame) (h : Option IntervalHdr) (r : Resume) (skip : Bool) (addr : Nat) : Wale :=
  let w1 := (w.settleAll.advance s.clk 4).restore s
  let w2 := { w1 with
    exm := f.texm &&& w.live, trap := none, prods := [], pc := r.pc, clause := r.clause
    retryPc := if skip then none else w1.retryPc
    latch := if r.faceB then some (.faceB r.pc) else none }
  match h with
  | some h => w2.request h addr s.clk
  | none => w2.unstage

section Leaving
variable {s : State} {w : Wale} {f : TrapFrame}

theorem depthsOk_iff : w.depthsOk f = true ↔ w.masks.length = f.maskDepth ∧ w.melds.length = f.meldDepth := by
  simp [Wale.depthsOk]

/-- A return whose checks and fetches pass replaces the wale. -/
theorem leaveHandler_returns {h : Option IntervalHdr} {r : Resume} {skip : Bool} (hcur : AtHand s w) (ht : w.trap = some f)
    (hhdr : (skip && f.onHdr) = false) (hd : w.depthsOk f = true) (hc : w.settleClk s.clk ≤ s.clk) (hi : s.intervalBack w f = .ok h)
    (hr : s.resumeAt w f skip = .ok r) : ∃ mq addr, s.leaveHandler skip = .next (((s.supersedeAll w s.clk).holdPipe
      { w with mq := mq } ((s.supersedeAll w s.clk).clk + 1)).putWale
        (Wale.returned { w with mq := mq } (s.supersedeAll w s.clk) f h r skip addr)) := by
  refine ⟨match (s.supersedeAll w s.clk).wale? w.id with | some x => x.mq | none => w.mq,
    addr52 (s.natAt (saveArea w.core w.slot + 0x428) 8), ?_⟩
  rw [State.leaveHandler, withCur_eq _ hcur]
  simp only [ht, hhdr, hd, Nat.not_lt.2 hc, hi, hr, Bool.not_true, Bool.false_eq_true, if_false]
  rfl

/-- What the wale has once it has left its handler. -/
theorem returned_spec (u : State) (h : Option IntervalHdr) (r : Resume) (skip : Bool) (addr : Nat) (hs : mSorted w.s = true) :
    let v := w.returned u f h r skip addr
    v.id = w.id ∧ v.pc = r.pc ∧ v.clause = r.clause ∧ v.trap = none ∧ v.exm = f.texm &&& w.live ∧ v.live = w.live ∧
      v.masks = w.masks ∧ v.melds = w.melds ∧
      (∀ n < 8, mGet 0 v.s (56 + n) = u.savedWord w (0x400 + 4 * n)) ∧
      (∀ i, h = some i → v.interval = h ∧ v.staging = if intervalCount i = 0 then .done else .waiting) ∧
      (h = none → v.interval = none) := by
  obtain ⟨hid, -, -, hlive, hmasks, hmelds⟩ : SamePlace w ((w.settleAll.advance u.clk 4).restore u) :=
    (samePlace_settleAll w).trans (samePlace_restore (w.settleAll.advance u.clk 4) u)
  have hget (n : Nat) (hn : n < 8) : mGet 0 ((w.settleAll.advance u.clk 4).restore u).s (56 + n) = u.savedWord w (0x400 + 4 * n) := by
    obtain ⟨-, hcore, hslot, -, -, -⟩ := samePlace_settleAll w
    rw [restore_s, (savedScalars_get u (w := w.settleAll.advance u.clk 4) (mSorted_settleAll_s hs) 8).2 n hn]
    simp only [State.savedWord, Wale.advance, hcore, hslot]
  cases h with
  | none => exact ⟨hid, rfl, rfl, rfl, rfl, hlive, hmasks, hmelds, hget, nofun, fun _ => rfl⟩
  | some i => exact ⟨hid, rfl, rfl, rfl, rfl, hlive, hmasks, hmelds, hget, fun _ hi => Option.some.inj hi ▸ ⟨rfl, rfl⟩, nofun⟩

/-- Where a return resumes (R157, R258). -/
theorem resumeAt_pc {r : Resume} {skip : Bool} (h : s.resumeAt w f skip = .ok r) (hh : f.onHdr = true → skip = false) :
    r.pc = if skip then addr52 (f.tpc + f.slotBytes) else f.tpc := by
  unfold State.resumeAt at h
  cases ho : f.onHdr with
  | true =>
    obtain rfl := hh ho
    simp only [ho, if_true] at h
    exact Except.ok.inj h ▸ rfl
  | false =>
    simp only [ho, Bool.false_eq_true, if_false] at h
    generalize (if skip = true then addr52 (f.tpc + f.slotBytes) else f.tpc) = pc at h ⊢
    cases hc : f.clause with
    | none =>
      simp only [hc] at h
      exact Except.ok.inj h ▸ rfl
    | some c =>
      simp only [hc] at h
      generalize s.natAt (saveArea w.core w.slot + 0x430) 8 / 2 ^ 56 % 8 + (if skip = true then 1 else 0) = slot at h
      split at h
      · cases h
      · split at h
        · exact Except.ok.inj h ▸ rfl
        · cases h

end Leaving

/-- A return whose checks and fetches pass leaves the handler. -/
theorem trapReturn : TrapReturn := by
  intro g s w f h hcan hcur ht hm hd hc hi area back
  have hid : w.id = s.cur := wale?_id hcur
  have go (skip : Bool) (i : Instr) (he : exec i s = s.leaveHandler skip) (r : Resume) (hhdr : (skip && f.onHdr) = false)
      (hr : s.resumeAt w f skip = .ok r) : Goes i s fun t v => v.pc = r.pc ∧ v.clause = r.clause ∧ back t v := by
    obtain ⟨mq, addr, hx⟩ := leaveHandler_returns hcur ht hhdr (depthsOk_iff.2 ⟨hm, hd⟩) hc hi hr
    obtain ⟨mq', hw⟩ := wale?_supersedeAll (wale?_of_atHand hcur) s.clk
    obtain ⟨reqs, wv, q, hu⟩ := supersedeAll_eq s w s.clk
    obtain ⟨hvid, hpc, hclause, htrap, hexm, hlive, hmasks, hmelds, hsc, hsome, hnone⟩ :=
      returned_spec (w := { w with mq := mq }) (f := f) (s.supersedeAll w s.clk) h r skip addr (scalars_canonical hcan hcur).1
    generalize Wale.returned { w with mq := mq } (s.supersedeAll w s.clk) f h r skip addr = v at *
    have hvw : v.id = w.id := hvid
    refine ⟨_, _, he.trans hx, ?_, hpc, hclause, htrap, hexm, hlive, hmasks, hmelds, fun n hn => (hsc n hn).trans ?_, hsome, hnone,
      fun l => ?_, ?_, ?_⟩
    · have hv := wale?_putWale_self (s := (s.supersedeAll w s.clk).holdPipe { w with mq := mq } ((s.supersedeAll w s.clk).clk + 1))
        (w := v) (x := { w with mq := mq' }) (by rw [hvw, State.wale?, State.holdPipe_wales]; exact hw)
      rwa [hvw, hid] at hv
    · rw [hu, Nat.add_assoc]; rfl
    · rw [hu]; simp [State.byteAt]
    · rw [hu]; simp
    · rw [hu]; simp
  refine ⟨fun r hr => ?_, fun r hh hr => ?_⟩
  · obtain ⟨t, v, he, hv, hpc, hb⟩ := go false (.tret g) rfl r rfl hr
    exact ⟨t, v, he, hv, hpc.trans (resumeAt_pc hr fun _ => rfl), hb⟩
  · obtain ⟨t, v, he, hv, hpc, hb⟩ := go true (.tretSkip g) rfl r (by rw [hh]; rfl) hr
    exact ⟨t, v, he, hv, hpc.trans (resumeAt_pc hr fun ho => absurd (hh.symm.trans ho) Bool.false_ne_true), hb⟩

/-- A return outside a handler, off its entry depths, or past a header is refused. -/
theorem trapReturnRefused : TrapReturnRefused := by
  intro g s w h i hi
  obtain ⟨skip, he, hs⟩ : ∃ skip, exec i s = s.leaveHandler skip ∧ (skip = true → i = .tretSkip g) := by
    simp only [List.mem_cons, List.not_mem_nil, or_false] at hi
    obtain rfl | rfl := hi
    · exact ⟨false, rfl, nofun⟩
    · exact ⟨true, rfl, fun _ => rfl⟩
  refine ⟨fun ht => ?_, fun f ht hh hd => ?_, fun f ht hh => ?_⟩
  · rw [he, State.leaveHandler, withCur_eq _ h]
    simp only [ht]
  · have hhdr : (skip && f.onHdr) = false := by
      cases skip with
      | false => rfl
      | true => exact hh (hs rfl)
    have hdep : w.depthsOk f = false := Bool.eq_false_iff.2 fun hok => by
      obtain ⟨hm, hn⟩ := depthsOk_iff.1 hok
      exact hd.elim (fun h => h hm) fun h => h hn
    rw [he, State.leaveHandler, withCur_eq _ h]
    simp only [ht, hhdr, hdep, Bool.not_false, Bool.false_eq_true, if_false, if_true]
    rfl
  · change s.leaveHandler true = _
    rw [State.leaveHandler, withCur_eq _ h]
    simp only [ht, hh, Bool.and_self, if_true]

/-- Settles O21: one equation gives the wale that a return leaves, whose scalars are the words of the save area. -/
theorem trapReturns : Obligations.TrapReturns := ⟨trapReturn, trapReturnRefused⟩

end Sys2Proof.Machine
end

section
/-!
PROOF. What an acquire of a wale changes: its own stamp, what later loads may share, and the images its workgroup waits for (R238, R239, R312).
-/
namespace Sys2Proof.Machine
open Claims

/-! ### What later loads may share (R240) -/

/-- A request without the values that its loads keep for sharing. -/
def quietReq (q : Req) : Req := { q with elems := q.elems.map fun e => { e with read := none } }

/-- A workgroup without the images that its releases wait for. -/
def quietWg (g : Workgroup) : Workgroup := { g with imgWait := [] }

/-- Only the values kept for sharing differ. -/
def ReadsOnly (s t : State) : Prop := t = { s with reqs := t.reqs } ∧ t.reqs.map quietReq = s.reqs.map quietReq

theorem readsOnly_refl (s : State) : ReadsOnly s s := ⟨rfl, rfl⟩

theorem ReadsOnly.trans {s t u : State} (h : ReadsOnly s t) (k : ReadsOnly t u) : ReadsOnly s u := by
  obtain ⟨hs, hq⟩ := h
  obtain ⟨ks, kq⟩ := k
  refine ⟨?_, kq.trans hq⟩
  rw [ks, hs]

/-- Changing the values kept for sharing changes nothing else. -/
theorem readsOnly_onElems (s : State) (i : Nat) {f : Req → Elem → Elem}
    (hf : ∀ q e, ({ f q e with read := none } : Elem) = { e with read := none }) : ReadsOnly s (s.onElems i f) := by
  refine ⟨rfl, ?_⟩
  simp only [State.onElems, List.map_map]
  refine List.map_congr_left fun q _ => ?_
  by_cases hq : (q.wale == i) = true
  · simp only [Function.comp_apply, hq, if_true, quietReq, List.map_map]
    congr 1
    exact List.map_congr_left fun e _ => hf q e
  · simp only [Function.comp_apply, hq, Bool.false_eq_true, if_false]

theorem readsOnly_foldl {α : Type} {f : State → α → State} (hf : ∀ s x, ReadsOnly s (f s x)) (l : List α) (s : State) :
    ReadsOnly s (l.foldl f s) := by
  induction l generalizing s with
  | nil => exact readsOnly_refl s
  | cons x l ih => exact (hf s x).trans (ih _)

theorem readsOnly_shareReads (s : State) (q : Req) : ReadsOnly s (s.shareReads q) := by
  unfold State.shareReads
  split
  · exact readsOnly_refl s
  · refine readsOnly_foldl (fun s e => ?_) _ s
    split
    · exact readsOnly_refl s
    · refine readsOnly_onElems s _ fun q e => ?_
      split <;> rfl

theorem readsOnly_unshareAll (s : State) (i no : Nat) : ReadsOnly s (s.unshareAll i no) := by
  unfold State.unshareAll
  refine (readsOnly_foldl (fun s q => readsOnly_shareReads s q) _ s).trans (readsOnly_onElems _ _ fun q e => ?_)
  split <;> rfl

/-! ### Acquiring (R238) -/

/-- The images that an acquire brings before its workgroup's releases are all that joining them changes (R312). -/
theorem joinImages_eq (s : State) (wg : Nat) (infos : List RelInfo) : ∃ wgs, s.joinImages wg infos = { s with wgs := wgs } ∧
    wgs.map quietWg = s.wgs.map quietWg := by
  unfold State.joinImages
  dsimp only
  split
  · exact ⟨s.wgs, rfl, rfl⟩
  · refine ⟨_, rfl, ?_⟩
    simp only [List.map_map]
    refine List.map_congr_left fun g _ => ?_
    by_cases hg : (g.id == wg) = true
    · simp only [Function.comp_apply, hg, if_true, quietWg]
    · simp only [Function.comp_apply, hg, Bool.false_eq_true, if_false]

/-- An acquire changes its wale's stamp, and beside it what later loads may share and the images that releases wait for. -/
theorem acquireBy_eq {s : State} {i : Nat} {w : Wale} (hw : s.wale? i = some w) (no : Nat) (infos : List RelInfo) (sc : Scope) (rsp : Bool) :
    ∃ reqs wgs, s.acquireBy i no infos sc rsp =
        { s.onWale i fun x => x.acquire infos sc rsp s.clk with reqs := reqs, wgs := wgs } ∧
      reqs.map quietReq = s.reqs.map quietReq ∧ wgs.map quietWg = s.wgs.map quietWg := by
  simp only [State.acquireBy, hw]
  obtain ⟨hr, hq⟩ := readsOnly_unshareAll (s.onWale i fun x => x.acquire infos sc rsp s.clk) i no
  obtain ⟨wgs, hj, hg⟩ := joinImages_eq ((s.onWale i fun x => x.acquire infos sc rsp s.clk).unshareAll i no) w.wg
    (infos.filter fun i => i.syncs sc w.core w.wg w.ctx rsp)
  refine ⟨((s.onWale i fun x => x.acquire infos sc rsp s.clk).unshareAll i no).reqs, wgs, ?_, hq, ?_⟩
  · rw [hj, hr]
  · rw [hg, hr]
    rfl

/-- Applying a function to a wale leaves the other wales as they were. -/
theorem onWale_others (s : State) (i : Nat) {f : Wale → Wale} (hf : ∀ x, (f x).id = x.id) :
    ((s.onWale i f).wales.filter fun x => x.id != i) = s.wales.filter fun x => x.id != i := by
  rw [State.onWale_wales]
  induction s.wales with
  | nil => rfl
  | cons x l ih =>
    simp only [List.map_cons, List.filter_cons]
    by_cases hx : x.id = i
    · simpa [hx, hf] using ih
    · simpa [hx] using ih

section Acquired
variable {s : State} {w : Wale}

/-- An acquire keeps what control, traps and queues change of its wale, and its registers. -/
theorem acquire_keeps (w : Wale) (infos : List RelInfo) (sc : Scope) (rsp : Bool) (clk : Nat) :
    SameControl w (w.acquire infos sc rsp clk) ∧ SameRegs w (w.acquire infos sc rsp clk) :=
  ⟨(sameControl_refl _), rfl, rfl, rfl, rfl, rfl, rfl, rfl⟩

/-- The wale at hand acquires, and then issues without results: it has moved past its instruction, with its stamp joined. -/
theorem acquired_issued (h : AtHand s w) (infos : List RelInfo) (sc : Scope) :
    let u := s.acquireBy w.id w.issueNo infos sc false
    let t := u.issued ((u.wale? w.id).getD w) 0
    let v := (w.acquire infos sc false s.clk).advance s.clk 0
    u.wale? w.id = some (w.acquire infos sc false s.clk) ∧ t.wale? s.cur = some v ∧ Advanced s w v 0 ∧ SameControl w v ∧
      SameRegs w v ∧ OnlyAcquire s t := by
  intro u t v
  have hid : w.id = s.cur := wale?_id h
  have hw : s.wale? w.id = some w := by rw [hid]; exact h
  obtain ⟨reqs, wgs, hu, hreqs, hwgs⟩ := acquireBy_eq hw w.issueNo infos sc false
  have hu' : u = _ := hu
  have hfound : u.wale? w.id = some (w.acquire infos sc false s.clk) := by
    rw [hu']
    change (s.onWale w.id fun x => x.acquire infos sc false s.clk).wale? w.id = _
    rw [wale?_onWale_self _ _ (fun x => x.acquire infos sc false s.clk) fun _ => rfl, hw]
    rfl
  have hclk : u.clk = s.clk := by rw [hu']; rfl
  have ht : t = (u.issued (w.acquire infos sc false s.clk) 0) := by
    change u.issued _ 0 = _
    rw [hfound]
    rfl
  have hv : t.wale? w.id = some v := by
    have := wale?_issued (w := w.acquire infos sc false s.clk) 0 hfound
    rw [hclk] at this
    rw [ht]
    exact this
  refine ⟨hfound, hid ▸ hv, ⟨rfl, rfl, rfl⟩, (acquire_keeps w infos sc false s.clk).1, (acquire_keeps w infos sc false s.clk).2, ?_⟩
  have hothers : (t.wales.filter fun x => x.id != s.cur) = s.wales.filter fun x => x.id != s.cur := by
    rw [← hid, ht, State.issued_wales]
    refine (putWale_others u ((w.acquire infos sc false s.clk).advance u.clk 0)).trans ?_
    rw [hu']
    exact onWale_others s w.id fun _ => rfl
  rw [ht, hu'] at hothers ⊢
  refine ⟨fun l => by simp [State.byteAt], ?_⟩
  simp only [State.issued_mem, State.issued_regs, State.issued_ctxRecs, State.issued_wgs, State.issued_reqs, State.issued_near,
    State.issued_layouts, State.issued_locks, State.issued_events, State.issued_faultRing, State.issued_banks, State.issued_images,
    State.issued_clk, State.issued_ctxStopped]
  exact ⟨rfl, rfl, rfl, rfl, rfl, rfl, rfl, rfl, rfl, rfl, rfl, rfl, hothers, hreqs, hwgs⟩

end Acquired

end Sys2Proof.Machine
end

section
/-!
PROOF. The named barriers: arrivals, the phase that the last one completes, waits and traps (O32).
-/
namespace Sys2Proof.Machine
open Claims

/-! ### The checksum's record (R366 to R368) -/

/-- A trace record changes no wale, no workgroup and no clk. -/
def SameAgents (s t : State) : Prop := t.wales = s.wales ∧ t.wgs = s.wgs ∧ t.clk = s.clk ∧ t.cur = s.cur

theorem sameAgents_refl (s : State) : SameAgents s s := ⟨rfl, rfl, rfl, rfl⟩

theorem SameAgents.trans {s t u : State} (h : SameAgents s t) (k : SameAgents t u) : SameAgents s u := by
  obtain ⟨hw, hg, hc, hr⟩ := h
  obtain ⟨kw, kg, kc, kr⟩ := k
  exact ⟨kw.trans hw, kg.trans hg, kc.trans hc, kr.trans hr⟩

theorem sameAgents_bump (s : State) (off : Nat) : SameAgents s (s.bump off) := by
  unfold State.bump
  dsimp only
  split <;> exact sameAgents_refl s

theorem sameAgents_psWrite (s : State) (d l : Nat) (rec : BitVec 256) : SameAgents s (s.psWrite d l rec) := by
  simp [SameAgents, State.psWrite]

theorem sameAgents_psReport (s : State) (d : Nat) : SameAgents s (s.psReport d) := by
  unfold State.psReport
  split
  · split
    · exact sameAgents_psWrite s d _ _
    · exact sameAgents_refl s
    · exact sameAgents_refl s
  · exact sameAgents_refl s

theorem sameAgents_psiak (s : State) (d : Nat) (rec : BitVec 256) : SameAgents s (s.psiak d rec) := by
  refine (sameAgents_psReport s d).trans ?_
  have hdrop : SameAgents (s.psReport d) ((s.psReport d).bump (mgmt d 0x1020)) := sameAgents_bump _ _
  unfold State.psiak
  dsimp only
  split
  · exact hdrop
  · split
    · exact sameAgents_psWrite _ d _ _
    · exact hdrop
    · exact sameAgents_refl _

/-- The wale whose arrival at a barrier has been counted (R366). -/
def Wale.counted (w : Wale) (bar k : Nat) : Wale := { w with barArrivals := mSet 0 w.barArrivals bar k }

/-- Logging an arrival counts it at its wale, and without checksums that is all. -/
theorem logArrival_frame (s : State) (w : Wale) (bar : Nat) :
    SameAgents (s.onWale w.id fun x => x.counted bar (mGet 0 w.barArrivals bar + 1)) (s.logArrival w bar) ∧
      ((s.ctrace w.ctx).getLsbD 0 = false → (s.logArrival w bar).mem = s.mem) := by
  unfold State.logArrival
  dsimp only
  have htrace : (s.onWale w.id fun x => { x with barArrivals := mSet 0 x.barArrivals bar (mGet 0 w.barArrivals bar + 1) }).ctrace w.ctx =
    s.ctrace w.ctx := rfl
  rw [htrace]
  split
  · next ht => exact ⟨sameAgents_psiak _ _ _, fun hf => absurd (ht.symm.trans hf) (by decide)⟩
  · exact ⟨sameAgents_refl _, fun _ => rfl⟩

/-! ### An arrival (R181, R182) -/

/-- The state once the checksum of an arrival is logged and its release made, before the barrier counts it. -/
def State.arrivalMade (s : State) (w : Wale) (g bar : Nat) : State :=
  let u := ((s.logArrival w bar).waleRelease w .grp).2
  let i := ((s.logArrival w bar).waleRelease w .grp).1
  { u with rels := mSet [] u.rels (barKey g bar) (mGet [] u.rels (barKey g bar) ++ [i]) }

/-- The arrivals of the open phase with this one. -/
def Workgroup.nextArrived (g : Workgroup) (bar : Nat) : Nat := match mFind g.barriers bar with | some b => b.arrived + 1 | none => 1

/-- The wale with its pending bit of a barrier set. -/
def Wale.pending (w : Wale) (bar : Nat) : Wale := if w.barPend.contains bar then w else { w with barPend := w.barPend ++ [bar] }

/-- The state once the barrier has counted an arrival that does not complete its phase. -/
def State.arrivalCounted (s : State) (w : Wale) (g : Workgroup) (bar n : Nat) : State :=
  ((s.arrivalMade w g.id bar).putWg { g with barriers := mPut g.barriers bar ⟨n, g.nextArrived bar⟩ }).onWale w.id fun x => x.pending bar

/-- A release at group scope drops lines of its cluster and the wale's finished requests, and moves no byte of memory (R239). -/
theorem waleRelease_grp (u : State) (w : Wale) : ∃ clean reqs, (u.waleRelease w .grp).2 = { u with clean := clean, reqs := reqs } :=
  ⟨_, _, rfl⟩

section Arrival
variable {s : State} {w : Wale} {g : Workgroup} {bar n : Nat}

/-- Before the barrier counts it, an arrival is counted at its wale, and a checksum's record may change memory. -/
theorem arrivalMade_frame (s : State) (w : Wale) (g bar : Nat) :
    SameAgents (s.onWale w.id fun x => x.counted bar (mGet 0 w.barArrivals bar + 1)) (s.arrivalMade w g bar) ∧
      (s.arrivalMade w g bar).mem = (s.logArrival w bar).mem ∧ (s.arrivalMade w g bar).absentHit = (s.logArrival w bar).absentHit := by
  have hlog := (logArrival_frame s w bar).1
  unfold State.arrivalMade
  generalize s.logArrival w bar = u at hlog ⊢
  obtain ⟨clean, reqs, he⟩ := waleRelease_grp u w
  dsimp only
  rw [he]
  exact ⟨hlog, rfl, rfl⟩

theorem arrive_mismatch {b : Barrier} (hg : s.wg? w.wg = some g) (hb : mFind g.barriers bar = some b) (hn : b.count ≠ n) :
    s.arrive w bar n = none := by
  simp [State.arrive, hg, hb, hn]

/-- An arrival with the count of the open phase is counted, or completes it. -/
theorem arrive_eq (hg : s.wg? w.wg = some g) (hn : ∀ b, mFind g.barriers bar = some b → b.count = n) : s.arrive w bar n =
    some (if g.nextArrived bar = n then (s.arrivalMade w g.id bar).completePhase g bar w.id else s.arrivalCounted w g bar n) := by
  cases hf : mFind g.barriers bar with
  | none =>
    simp only [State.arrive, hg, hf, State.arrivalCounted, Workgroup.nextArrived, Bool.false_eq_true, if_false]
    split <;> rfl
  | some b =>
    have hne : (b.count != n) = false := by simpa using hn b hf
    simp only [State.arrive, hg, hf, hne, State.arrivalCounted, Workgroup.nextArrived, Bool.false_eq_true, if_false]
    split <;> rfl

end Arrival

/-! ### A wale that keeps its work -/

/-- A wale keeps its serial and workgroup, its registers and control, and its place in the program. -/
def SameWork (w v : Wale) : Prop :=
  SameControl w v ∧ SameRegs w v ∧ v.id = w.id ∧ v.wg = w.wg ∧ v.pc = w.pc ∧ v.insnBytes = w.insnBytes ∧ v.stall = w.stall ∧
    v.issueNo = w.issueNo

theorem sameWork_pending (w : Wale) (bar k : Nat) : SameWork w ((w.counted bar k).pending bar) := by
  unfold Wale.pending
  split <;>
    exact ⟨(sameControl_refl _), (sameRegs_refl _), rfl, rfl, rfl, rfl, rfl, rfl⟩

theorem pending_contains (w : Wale) (bar : Nat) : (w.pending bar).barPend.contains bar = true := by
  unfold Wale.pending
  split
  · assumption
  · simp

theorem pending_id (w : Wale) (bar : Nat) : (w.pending bar).id = w.id := by
  unfold Wale.pending
  split <;> rfl

/-- The wale after the completion of a phase (R182). -/
def Wale.released (w : Wale) (g bar id clk : Nat) (infos : List RelInfo) : Wale :=
  if w.wg == g && (w.barPend.contains bar || w.id == id) then
    { w with
      barGot := mSet [] w.barGot bar infos, barPend := w.barPend.filter (· != bar)
      nextIssue := match w.held with
        | some h => if h.reason = .barrier ∧ w.barPend.contains bar then clk + 4 else w.nextIssue
        | none => w.nextIssue }
  else w

section Released
variable (w : Wale) (g bar id clk : Nat) (infos : List RelInfo)

theorem sameWork_released : SameWork w (w.released g bar id clk infos) := by
  unfold Wale.released
  split <;>
    exact ⟨(sameControl_refl _), (sameRegs_refl _), rfl, rfl, rfl, rfl, rfl, rfl⟩

theorem released_id : (w.released g bar id clk infos).id = w.id := by
  obtain ⟨-, -, hid, -⟩ := sameWork_released w g bar id clk infos
  exact hid

/-- No wale of the workgroup keeps the pending bit. -/
theorem released_clear (h : w.wg = g) : (w.released g bar id clk infos).barPend.contains bar = false := by
  unfold Wale.released
  split
  · simp
  · next hc => simp_all

/-- A wale that waits at the barrier goes on 4 clk later. -/
theorem released_wakes {r : Held} (h : w.wg = g) (hp : w.barPend.contains bar = true) (hh : w.held = some r) (hr : r.reason = .barrier) :
    (w.released g bar id clk infos).nextIssue = clk + 4 := by
  simp [Wale.released, h, List.contains_iff_mem.mp hp, hh, hr]

end Released

/-! ### What the barrier does with an arrival (R182) -/

/-- A workgroup put in its place is found there, when there was one. -/
theorem wg?_putWg_self {s : State} {g h : Workgroup} {i : Nat} (hg : s.wg? i = some h) (hi : g.id = i) : (s.putWg g).wg? i = some g := by
  have hid : h.id = i := by simpa using List.find?_some hg
  unfold State.wg? at *
  rw [State.putWg_wgs, find?_map_id _ Workgroup.id, hg]
  · simp [hi, hid]
  · intro x
    by_cases hx : x.id = g.id <;> simp [hx]

theorem wg?_id {s : State} {i : Nat} {g : Workgroup} (h : s.wg? i = some g) : g.id = i := by
  simpa using List.find?_some h

section Arrival
variable {s : State} {w : Wale} {g : Workgroup} {bar n : Nat}

/-- What every arrival leaves: the clk and the wale at hand, and memory but for a checksum's record (R366). -/
def ArrivalKeeps (s : State) (w : Wale) (bar : Nat) (t : State) : Prop :=
  t.clk = s.clk ∧ t.cur = s.cur ∧ t.absentHit = (s.logArrival w bar).absentHit ∧ t.mem = (s.logArrival w bar).mem ∧
    ((s.ctrace w.ctx).getLsbD 0 = false → t.mem = s.mem)

/-- The arrivals that a wale has made at a barrier, this one too. -/
def Wale.nextArrival (w : Wale) (bar : Nat) : Nat := mGet 0 w.barArrivals bar + 1

theorem arrivalKeeps_of {t : State} {wg : Nat} (hc : t.clk = (s.arrivalMade w wg bar).clk) (hr : t.cur = (s.arrivalMade w wg bar).cur)
    (ha : t.absentHit = (s.arrivalMade w wg bar).absentHit) (hm : t.mem = (s.arrivalMade w wg bar).mem) : ArrivalKeeps s w bar t := by
  obtain ⟨⟨-, -, hclk, hcur⟩, hmem, habs⟩ := arrivalMade_frame s w wg bar
  have hlog := hm.trans hmem
  exact ⟨hc.trans hclk, hr.trans hcur, ha.trans habs, hlog, fun h => hlog.trans ((logArrival_frame s w bar).2 h)⟩

/-- An arrival that is counted sets the pending bit of its wale, and stands in its workgroup's barrier. -/
theorem arrivalCounted_spec (hw : s.wale? w.id = some w) (hg : s.wg? w.wg = some g) :
    ArrivalKeeps s w bar (s.arrivalCounted w g bar n) ∧
    (s.arrivalCounted w g bar n).wale? w.id = some ((w.counted bar (w.nextArrival bar)).pending bar) ∧
    (s.arrivalCounted w g bar n).wg? w.wg = some { g with barriers := mPut g.barriers bar ⟨n, g.nextArrived bar⟩ } := by
  obtain ⟨hwales, hwgs, -, -⟩ := (arrivalMade_frame s w g.id bar).1
  have hgid := wg?_id hg
  refine ⟨arrivalKeeps_of (wg := g.id) rfl rfl rfl rfl, ?_, ?_⟩
  · have hmade : (s.arrivalMade w g.id bar).wale? w.id = some (w.counted bar (w.nextArrival bar)) := by
      unfold State.wale?
      rw [hwales]
      change (s.onWale w.id fun x => x.counted bar (w.nextArrival bar)).wale? w.id = _
      rw [wale?_onWale_self s w.id (fun x => x.counted bar (w.nextArrival bar)) fun _ => rfl, hw]
      rfl
    change (((s.arrivalMade w g.id bar).putWg _).onWale w.id fun x => x.pending bar).wale? w.id = _
    rw [wale?_onWale_self _ w.id (fun x => x.pending bar) fun x => pending_id x bar]
    change ((s.arrivalMade w g.id bar).wale? w.id).map _ = _
    rw [hmade]
    rfl
  · have hmade : (s.arrivalMade w g.id bar).wg? w.wg = some g := by
      unfold State.wg?
      rw [hwgs]
      exact hg
    exact wg?_putWg_self (g := { g with barriers := _ }) hmade hgid

/-- The state in which an arrival has completed its phase. -/
def State.phaseDone (s : State) (w : Wale) (g : Workgroup) (bar : Nat) : State := (s.arrivalMade w g.id bar).completePhase g bar w.id

/-- The releases of the open phase, which its waits acquire (R238). -/
def State.phaseReleases (s : State) (w : Wale) (g : Workgroup) (bar : Nat) : List RelInfo :=
  mGet [] (s.arrivalMade w g.id bar).rels (barKey g.id bar)

/-- The completion of a phase maps every wale. -/
theorem phaseDone_wales (s : State) (w : Wale) (g : Workgroup) (bar : Nat) : (s.phaseDone w g bar).wales =
    (s.onWale w.id fun x => x.counted bar (w.nextArrival bar)).wales.map fun x => x.released g.id bar w.id s.clk (s.phaseReleases w g bar) := by
  obtain ⟨hwales, -, hclk, -⟩ := (arrivalMade_frame s w g.id bar).1
  have hmap : (s.phaseDone w g bar).wales =
      (s.arrivalMade w g.id bar).wales.map fun x => x.released g.id bar w.id (s.arrivalMade w g.id bar).clk (s.phaseReleases w g bar) := rfl
  rw [hmap, hwales, hclk]
  rfl

theorem phaseDone_wale? (s : State) (w : Wale) (g : Workgroup) (bar i : Nat) : (s.phaseDone w g bar).wale? i =
    ((s.onWale w.id fun x => x.counted bar (w.nextArrival bar)).wale? i).map fun x =>
      x.released g.id bar w.id s.clk (s.phaseReleases w g bar) := by
  unfold State.wale?
  rw [phaseDone_wales, find?_map_id _ Wale.id _ _ fun x => released_id x g.id bar w.id s.clk _]

/-- The arrival that completes a phase empties the barrier and clears the pending bits of the workgroup. -/
theorem phaseDone_spec (hw : s.wale? w.id = some w) (hg : s.wg? w.wg = some g) :
    ArrivalKeeps s w bar (s.phaseDone w g bar) ∧
    (s.phaseDone w g bar).wale? w.id =
      some ((w.counted bar (w.nextArrival bar)).released g.id bar w.id s.clk (s.phaseReleases w g bar)) ∧
    (s.phaseDone w g bar).wg? w.wg = some { g with barriers := mDel g.barriers bar } ∧
    ∀ y ∈ (s.phaseDone w g bar).wales, y.wg = w.wg → y.barPend.contains bar = false := by
  obtain ⟨-, hwgs, -, -⟩ := (arrivalMade_frame s w g.id bar).1
  have hgid := wg?_id hg
  refine ⟨arrivalKeeps_of (wg := g.id) rfl rfl rfl rfl, ?_, ?_, fun y hy hyg => ?_⟩
  · rw [phaseDone_wale?, wale?_onWale_self s w.id (fun x => x.counted bar (w.nextArrival bar)) fun _ => rfl, hw]
    rfl
  · have hmade : (s.arrivalMade w g.id bar).wg? w.wg = some g := by
      unfold State.wg?
      rw [hwgs]
      exact hg
    exact wg?_putWg_self (g := { g with barriers := _ }) hmade hgid
  · rw [phaseDone_wales] at hy
    obtain ⟨x, -, rfl⟩ := List.mem_map.mp hy
    obtain ⟨-, -, -, hxg, -⟩ := sameWork_released x g.id bar w.id s.clk (s.phaseReleases w g bar)
    exact released_clear x g.id bar w.id s.clk _ (hxg.symm.trans (hyg.trans hgid.symm))

/-- A wale that waits at the barrier goes on 4 clk after its phase is complete. -/
theorem phaseDone_wakes (hg : s.wg? w.wg = some g) {y : Nat} {z : Wale} {r : Held} (hy : y ≠ w.id) (hz : s.wale? y = some z)
    (hzg : z.wg = w.wg) (hp : z.barPend.contains bar = true) (hh : z.held = some r) (hr : r.reason = .barrier) :
    ∃ u, (s.phaseDone w g bar).wale? y = some u ∧ u.nextIssue = s.clk + 4 ∧ u.pc = z.pc := by
  refine ⟨z.released g.id bar w.id s.clk (s.phaseReleases w g bar), ?_,
    released_wakes z g.id bar w.id s.clk _ (hzg.trans (wg?_id hg).symm) hp hh hr, ?_⟩
  · rw [phaseDone_wale?, wale?_onWale_ne s (fun x => x.counted bar (w.nextArrival bar)) (fun _ => rfl) hy, hz]
    rfl
  · obtain ⟨-, -, -, -, hpc, -⟩ := sameWork_released z g.id bar w.id s.clk (s.phaseReleases w g bar)
    exact hpc

end Arrival

/-! ### Acquiring and going on -/

theorem SameWork.trans_control {w x v : Wale} (h : SameWork w x) (k : SameControl x v) : SameControl w v := by
  obtain ⟨⟨h1, h2, h3, h4, h5, h6, h7, h8, h9, h10, h11⟩, -⟩ := h
  obtain ⟨k1, k2, k3, k4, k5, k6, k7, k8, k9, k10, k11⟩ := k
  exact ⟨k1.trans h1, k2.trans h2, k3.trans h3, k4.trans h4, k5.trans h5, k6.trans h6, k7.trans h7, k8.trans h8, k9.trans h9,
    k10.trans h10, k11.trans h11⟩

theorem SameWork.trans_regs {w x v : Wale} (h : SameWork w x) (k : SameRegs x v) : SameRegs w v := by
  obtain ⟨-, ⟨h1, h2, h3, h4, h5, h6, h7⟩, -⟩ := h
  obtain ⟨k1, k2, k3, k4, k5, k6, k7⟩ := k
  exact ⟨k1.trans h1, k2.trans h2, k3.trans h3, k4.trans h4, k5.trans h5, k6.trans h6, k7.trans h7⟩

theorem SameWork.advanced {w x v : Wale} {s t : State} {b : Nat} (h : SameWork w x) (hc : t.clk = s.clk) (k : Advanced t x v b) :
    Advanced s w v b := by
  obtain ⟨-, -, -, -, hpc, hbytes, hstall, hno⟩ := h
  obtain ⟨kpc, knext, kno⟩ := k
  exact ⟨by rw [kpc, hpc, hbytes], by rw [knext, hstall, hc], by rw [kno, hno]⟩

theorem others_of_onlyAcquire {s t : State} (h : OnlyAcquire s t) :
    (t.wales.filter fun x => x.id != s.cur) = s.wales.filter fun x => x.id != s.cur := by
  obtain ⟨-, -, -, -, -, -, -, -, -, -, -, -, -, hothers, -, -⟩ := h
  exact hothers

/-- An acquire and the issue after it keep every barrier of a workgroup. -/
theorem barriers_of_onlyAcquire {s t : State} {i : Nat} {g : Workgroup} (h : OnlyAcquire s t) (hg : s.wg? i = some g) :
    ∃ k, t.wg? i = some k ∧ k.barriers = g.barriers := by
  obtain ⟨-, -, -, -, -, -, -, -, -, -, -, -, -, -, -, hwgs⟩ := h
  have hfind (l : List Workgroup) : ((l.map quietWg).find? fun x => x.id == i) = (l.find? fun x => x.id == i).map quietWg :=
    find?_map_id l Workgroup.id quietWg i fun _ => rfl
  have heq : (t.wg? i).map quietWg = (s.wg? i).map quietWg := (hfind t.wgs).symm.trans ((congrArg _ hwgs).trans (hfind s.wgs))
  rw [hg] at heq
  obtain ⟨k, hk, hq⟩ := Option.map_eq_some_iff.mp heq
  have hbar : (quietWg k).barriers = (quietWg g).barriers := by rw [hq]
  exact ⟨k, hk, hbar⟩

/-- The acquire of one wale keeps the wales of others. -/
theorem wale?_of_others {s t : State} {c y : Nat} (h : (t.wales.filter fun x => x.id != c) = s.wales.filter fun x => x.id != c)
    (hy : y ≠ c) : t.wale? y = s.wale? y := by
  have hfind (l : List Wale) : ((l.filter fun x => x.id != c).find? fun x => x.id == y) = l.find? fun x => x.id == y := by
    rw [List.find?_filter]
    congr 1
    funext x
    by_cases hx : x.id = y <;> simp [hx, hy]
  unfold State.wale?
  rw [← hfind t.wales, h, hfind]

/-! ### The checks of a barrier operation (R181) -/

section BarOp
variable {s : State} {w : Wale} {g : Workgroup} {f : BarForm} {arrives : Wale → Bool} {go : Wale → Nat → Out}

/-- A barrier operation that passes its checks does its work. -/
theorem barOp_go (h : BarReady s w g f (if arrives w then uniUses f.count else []))
    (hn : arrives w = true → 1 ≤ w.uniVal f.count s.clk ∧ w.uniVal f.count s.clk ≤ 64) :
    s.barOp f arrives go = go w (w.uniVal f.count s.clk) := by
  obtain ⟨hw, hk, hface, hact, hg, hbar, hst⟩ := h
  have hcount : (arrives w && (decide (w.uniVal f.count s.clk < 1) || decide (64 < w.uniVal f.count s.clk))) = false := by
    cases ha : arrives w with
    | false => rfl
    | true =>
      obtain ⟨hlo, hhi⟩ := hn ha
      simp
      omega
  change s.withCur _ = _
  rw [withCur_eq _ hw]
  simp only [hk, hface, hact, hg, hst, Nat.not_le.mpr hbar, hcount, bne_self_eq_false, beq_iff_eq, Bool.not_true, Bool.false_eq_true,
    if_false]

/-- A count outside 1 to 64 traps. -/
theorem barOp_count (h : BarReady s w g f []) (ha : arrives w = true)
    (hn : w.uniVal f.count s.clk = 0 ∨ 64 < w.uniVal f.count s.clk) : s.barOp f arrives go = s.raise w .barrierCount 0 := by
  obtain ⟨hw, hk, hface, hact, hg, hbar, -⟩ := h
  have hcount : (arrives w && (decide (w.uniVal f.count s.clk < 1) || decide (64 < w.uniVal f.count s.clk))) = true := by
    simp only [ha, Bool.true_and, Bool.or_eq_true, decide_eq_true_eq]
    omega
  change s.withCur _ = _
  rw [withCur_eq _ hw]
  simp only [hk, hface, hact, hg, Nat.not_le.mpr hbar, hcount, bne_self_eq_false, beq_iff_eq, Bool.not_true, Bool.false_eq_true,
    if_false, if_true]

/-- A barrier beyond the grant traps. -/
theorem barOp_access (hw : AtHand s w) (hk : w.kind = .wale) (hface : w.faceOk f.face = true) (hact : w.active f.face ≠ 0)
    (hg : s.wg? w.wg = some g) (hbar : g.bars ≤ f.bar) : s.barOp f arrives go = s.raise w .access 0 := by
  change s.withCur _ = _
  rw [withCur_eq _ hw]
  simp only [hk, hface, hact, hg, hbar, bne_self_eq_false, beq_iff_eq, Bool.not_true, Bool.false_eq_true, if_false, if_true]

/-- Without an active thread a barrier operation issues and does nothing. -/
theorem barOp_idle (hw : AtHand s w) (hk : w.kind = .wale) (hface : w.faceOk f.face = true) (hact : w.active f.face = 0) :
    s.barOp f arrives go = .next (s.issued w 0) := by
  change s.withCur _ = _
  rw [withCur_eq _ hw]
  simp only [hk, hface, hact, bne_self_eq_false, beq_self_eq_true, Bool.not_true, Bool.false_eq_true, if_false, if_true]

end BarOp

/-! ### Waiting (R182) -/

section Wait
variable {i : Instr} {s : State} {w : Wale}

/-- The wale that waits from a clk on. -/
def Wale.heldAt (w : Wale) (clk : Nat) (r : Reason) (watched : Bool) : Wale :=
  { w with held := some ⟨r, match w.held with | some h => h.since | none => clk, watched⟩, nextIssue := clk + 1 }

theorem hold_eq (s : State) (w : Wale) (r : Reason) (watched : Bool) : s.hold w r watched = s.putWale (w.heldAt s.clk r watched) := rfl

/-- An instruction that waits stands where it was and comes again at the next clk. -/
theorem goes_hold (h : AtHand s w) {r : Reason} {b : Bool} {l : Option Latch} (he : exec i s = .next (s.hold { w with latch := l } r b)) :
    Goes i s fun t v => v.pc = w.pc ∧ v.nextIssue = s.clk + 1 ∧ SameControl w v ∧ SameRegs w v ∧ OnlyWale s t :=
  goes_putWale h he rfl fun ho => ⟨rfl, rfl, (sameControl_refl _),
    (sameRegs_refl _), ho⟩

/-- The waiting part holds the wale while its pending bit is set. -/
theorem barWaitPart_pending {bar : Nat} (h : w.barPend.contains bar = true) (arrived : Bool) : s.barWaitPart w bar arrived =
    s.hold { w with latch := if arrived then some (.arrived bar) else w.latch } .barrier true :=
  if_pos h

/-- Once the pending bit is clear the wait acquires its phase's releases at group scope and goes on (R181, R238). -/
theorem barWaitPart_clear {bar : Nat} (hw : AtHand s w) (h : w.barPend.contains bar = false) (arrived : Bool) :
    let v := (w.acquire (mGet [] w.barGot bar) .grp false s.clk).advance s.clk 0
    (s.barWaitPart w bar arrived).wale? s.cur = some v ∧ Advanced s w v 0 ∧ SameControl w v ∧ SameRegs w v ∧
      OnlyAcquire s (s.barWaitPart w bar arrived) := by
  intro v
  obtain ⟨-, ht, hadv, hctl, hregs, honly⟩ := acquired_issued hw (mGet [] w.barGot bar) .grp
  have he : s.barWaitPart w bar arrived = (s.barAcquire w bar).issued (((s.barAcquire w bar).wale? w.id).getD w) 0 :=
    if_neg (by rw [h]; exact Bool.false_ne_true)
  rw [he]
  exact ⟨ht, hadv, hctl, hregs, honly⟩

end Wait

/-! ### The three operations -/

section Ops
variable {s : State} {w : Wale} {g : Workgroup} {f : BarForm}

/-- The state in which an arrival goes on: BAR.ARRIVE issues, BAR.SYNC waits (R181). -/
def State.afterArrival (s : State) (f : BarForm) (w : Wale) (t : State) : Instr → State
  | .barSync _ => (t.holdPipe w (s.clk + 1)).barWaitPart ((t.wale? w.id).getD w) f.bar true
  | _ => t.issued ((t.wale? w.id).getD w) 0

/-- The two operations that make an arrival check its count, wait until it may be made, make it, and go on. -/
theorem exec_arrival {i : Instr} (hi : i ∈ [Instr.barArrive f, .barSync f]) (ha : i = .barSync f → w.arrived f.bar = false) :
    ∃ (arrives : Wale → Bool) (go : Wale → Nat → Out) (watched : Bool), exec i s = s.barOp f arrives go ∧ arrives w = true ∧
      ∀ n, (s.arriveReady w = false → go w n = .next (s.hold w .barrier watched)) ∧
        (s.arriveReady w = true → s.arrive w f.bar n = none → go w n = s.raise w .barrierCount 0) ∧
        (∀ t, s.arriveReady w = true → s.arrive w f.bar n = some t → go w n = fin (s.afterArrival f w t i)) := by
  simp only [List.mem_cons, List.not_mem_nil, or_false] at hi
  obtain rfl | rfl := hi
  · have he : exec (.barArrive f) s = execBarArrive f s := rfl
    unfold execBarArrive at he
    exact ⟨_, _, false, he, rfl, fun n => ⟨fun h => by simp [h], fun h hn => by simp [h, hn],
      fun t h hn => by simp [h, hn, State.afterArrival]⟩⟩
  · have hfree := ha rfl
    have he : exec (.barSync f) s = execBarSync f s := rfl
    unfold execBarSync at he
    exact ⟨_, _, true, he, by simp [hfree], fun n => ⟨fun h => by simp [h, hfree], fun h hn => by simp [h, hn, hfree],
      fun t h hn => by simp [h, hn, hfree, State.afterArrival]⟩⟩

/-- The two operations that wait without an arrival are the waiting part alone (R182, R261). -/
theorem exec_wait {i : Instr} (hi : i ∈ [Instr.barWait f, .barSync f]) (ha : i = .barSync f → w.arrived f.bar = true)
    (h : BarReady s w g f []) : ∃ arrived, exec i s = .next (s.barWaitPart w f.bar arrived) := by
  simp only [List.mem_cons, List.not_mem_nil, or_false] at hi
  obtain rfl | rfl := hi
  · have he : exec (.barWait f) s = execBarWait f s := rfl
    unfold execBarWait at he
    exact ⟨false, he.trans (barOp_go h nofun)⟩
  · have hstands := ha rfl
    have he : exec (.barSync f) s = execBarSync f s := rfl
    unfold execBarSync at he
    refine ⟨true, he.trans ((barOp_go (w := w) (g := g) (by simpa [hstands] using h) (by simp [hstands])).trans ?_)⟩
    simp [hstands]

/-- Every barrier operation makes the same checks first. -/
theorem exec_barOp {i : Instr} (hi : i ∈ [Instr.barArrive f, .barSync f, .barWait f]) :
    ∃ (arrives : Wale → Bool) (go : Wale → Nat → Out), exec i s = s.barOp f arrives go := by
  simp only [List.mem_cons, List.not_mem_nil, or_false] at hi
  obtain rfl | rfl | rfl := hi
  · exact ⟨_, _, show execBarArrive f s = _ by unfold execBarArrive; rfl⟩
  · exact ⟨_, _, show execBarSync f s = _ by unfold execBarSync; rfl⟩
  · exact ⟨_, _, show execBarWait f s = _ by unfold execBarWait; rfl⟩

end Ops

theorem barrierWaitsAndTraps : BarrierWaitsAndTraps := by
  intro f s w g
  refine ⟨fun i hi ha => ?_, fun hw hk hface hact hg hbar i hi => ?_, fun hw hk hface hact i hi => ?_, fun h i hi ha => ?_⟩
  · obtain ⟨arrives, go, watched, he, harr, hgo⟩ := exec_arrival (s := s) (w := w) hi ha
    refine ⟨fun h hready b hb hne => ?_, fun h hn => he.trans (barOp_count h harr hn), fun h hlo hhi hready => ?_⟩
    · obtain ⟨hlo, hhi, hready, -⟩ := hready
      obtain ⟨-, -, -, -, hg, -, -⟩ := id h
      obtain ⟨-, hmiss, -⟩ := hgo (w.uniVal f.count s.clk)
      rw [he, barOp_go (by rwa [harr]) fun _ => ⟨hlo, hhi⟩]
      exact hmiss hready (arrive_mismatch hg hb hne)
    · refine goes_hold h.1 (l := w.latch) (r := .barrier) (b := watched) ?_
      rw [he, barOp_go (by rwa [harr]) fun _ => ⟨hlo, hhi⟩]
      exact (hgo _).1 hready
  · obtain ⟨arrives, go, he⟩ := exec_barOp (s := s) hi
    exact he.trans (barOp_access hw hk hface hact hg hbar)
  · obtain ⟨arrives, go, he⟩ := exec_barOp (s := s) hi
    exact he.trans (barOp_idle hw hk hface hact)
  · obtain ⟨arrived, he⟩ := exec_wait hi ha h
    refine ⟨fun hp => goes_hold h.1 (he.trans (congrArg _ (barWaitPart_pending hp arrived))), fun hc => ?_⟩
    obtain ⟨ht, hadv, hctl, hregs, honly⟩ := barWaitPart_clear h.1 hc arrived
    exact ⟨_, _, he, ht, hadv, hctl, hregs, honly⟩

/-! ### Arrivals -/

section Arrivals
variable {s t : State} {w x : Wale} {f : BarForm}

/-- An arrival that goes on past its checks. -/
theorem goes_arrival {i : Instr} {g : Workgroup} {P : State → Wale → Prop} {v : Wale} (h : BarReady s w g f (uniUses f.count))
    (hready : ArriveReady s w f) (hi : i ∈ [Instr.barArrive f, .barSync f]) (ha : i = .barSync f → w.arrived f.bar = false)
    (ht : s.arrive w f.bar (w.uniVal f.count s.clk) = some t) (habs : (s.afterArrival f w t i).absentHit = false)
    (hv : (s.afterArrival f w t i).wale? s.cur = some v) (hP : P (s.afterArrival f w t i) v) : Goes i s P := by
  obtain ⟨arrives, go, watched, he, harr, hgo⟩ := exec_arrival (s := s) (w := w) hi ha
  obtain ⟨hlo, hhi, hready, -⟩ := hready
  obtain ⟨-, -, hmade⟩ := hgo (w.uniVal f.count s.clk)
  refine ⟨_, v, ?_, hv, hP⟩
  rw [he, barOp_go (by rwa [harr]) fun _ => ⟨hlo, hhi⟩, hmade t hready ht, fin_next habs]

/-- A wale alone is part of what an acquire may change. -/
theorem onlyAcquire_of_onlyWale {u : State} (h : OnlyWale s u) : OnlyAcquire s u := by
  obtain ⟨hbytes, hmem, hregs, hrecs, hwgs, hreqs, hnear, hlay, hlocks, hev, hring, -, -, hbanks, himg, hclk, hstop, hothers⟩ := h
  exact ⟨hbytes, hmem, hregs, hrecs, hnear, hlay, hlocks, hev, hring, hbanks, himg, hclk, hstop, hothers, by rw [hreqs], by rw [hwgs]⟩

theorem onlyAcquire_holdPipe {u : State} {c : Nat} (h : OnlyAcquire (t.holdPipe w c) u) : OnlyAcquire t u := by
  simpa [OnlyAcquire, State.byteAt] using h

theorem acquireBy_absentHit (hw : s.wale? w.id = some w) (no : Nat) (infos : List RelInfo) (sc : Scope) (rsp : Bool) :
    (s.acquireBy w.id no infos sc rsp).absentHit = s.absentHit := by
  obtain ⟨reqs, wgs, he, -, -⟩ := acquireBy_eq hw no infos sc rsp
  rw [he]
  rfl

/-- The wale that issues stands alone under its serial. -/
theorem eq_of_mem_issued {y : Wale} {b : Nat} (hy : y ∈ (s.issued w b).wales) (hid : y.id = w.id) : y = w.advance s.clk b := by
  have hw : (s.issued w b).wales = (s.putWale (w.advance s.clk b)).wales := State.issued_wales s w b
  rw [hw, State.putWale_wales] at hy
  obtain ⟨z, -, rfl⟩ := List.mem_map.mp hy
  by_cases hz : (z.id == (w.advance s.clk b).id) = true
  · rw [if_pos hz]
  · rw [if_neg hz] at hid
    exact absurd (beq_iff_eq.mpr hid) hz

/-- What an arrival leaves once its wale goes on. -/
def WentOn (s t : State) (w x : Wale) (u : State) (v : Wale) : Prop :=
  u.absentHit = t.absentHit ∧ u.wale? s.cur = some v ∧ v.barPend = x.barPend ∧ Advanced s w v 0 ∧ SameControl w v ∧ SameRegs w v ∧
    OnlyAcquire t u ∧ ∀ y ∈ u.wales, y.id = w.id → y = v

/-- BAR.ARRIVE goes on. -/
theorem afterArrival_arrive (hw : AtHand s w) (hc : t.clk = s.clk) (hr : t.cur = s.cur) (hx : t.wale? w.id = some x) (hs : SameWork w x) :
    WentOn s t w x (s.afterArrival f w t (.barArrive f)) (x.advance s.clk 0) := by
  have hu : s.afterArrival f w t (.barArrive f) = t.issued x 0 := by
    change t.issued ((t.wale? w.id).getD w) 0 = _
    rw [hx]
    rfl
  have hxid : x.id = w.id := wale?_id hx
  have hv : (t.issued x 0).wale? x.id = some (x.advance s.clk 0) := by rw [wale?_issued (w := x) 0 (hxid ▸ hx), hc]
  rw [hu]
  refine ⟨by simp, ?_, rfl, hs.advanced rfl ⟨rfl, rfl, rfl⟩, hs.trans_control (sameControl_refl _),
    hs.trans_regs (sameRegs_refl _), onlyAcquire_of_onlyWale (onlyWale_held (v := x.advance t.clk 0) ?_ _),
    fun y hy hid => ?_⟩
  · rw [← wale?_id hw, ← hxid]
    exact hv
  · exact hxid.trans ((wale?_id hw).trans hr.symm)
  · rw [eq_of_mem_issued hy (hid.trans hxid.symm), hc]

/-- The BAR.SYNC that completes its phase acquires the phase's releases and goes on. -/
theorem afterArrival_sync (hw : AtHand s w) (hc : t.clk = s.clk) (hr : t.cur = s.cur) (hx : t.wale? w.id = some x) (hs : SameWork w x)
    (hp : x.barPend.contains f.bar = false) : WentOn s t w x (s.afterArrival f w t (.barSync f))
      ((x.acquire (mGet [] x.barGot f.bar) .grp false s.clk).advance s.clk 0) := by
  have hxid : x.id = w.id := wale?_id hx
  have hu : s.afterArrival f w t (.barSync f) = (t.holdPipe w (s.clk + 1)).barWaitPart x f.bar true := by
    change (t.holdPipe w (s.clk + 1)).barWaitPart ((t.wale? w.id).getD w) f.bar true = _
    rw [hx]
    rfl
  have hatt : AtHand (t.holdPipe w (s.clk + 1)) x := by
    rw [AtHand, State.wale?, State.holdPipe_wales, State.holdPipe_cur, hr, ← wale?_id hw]
    exact hx
  obtain ⟨hv, hadv, hctl, hregs, honly⟩ := barWaitPart_clear hatt hp true
  have hclk : (t.holdPipe w (s.clk + 1)).clk = s.clk := (State.holdPipe_clk _ _ _).trans hc
  have hfound : (t.holdPipe w (s.clk + 1)).wale? x.id = some x := wale?_of_atHand hatt
  have hacq := (acquired_issued hatt (mGet [] x.barGot f.bar) .grp).1
  have hform : (t.holdPipe w (s.clk + 1)).barWaitPart x f.bar true =
      ((t.holdPipe w (s.clk + 1)).barAcquire x f.bar).issued (x.acquire (mGet [] x.barGot f.bar) .grp false (t.holdPipe w (s.clk + 1)).clk) 0 := by
    unfold State.barWaitPart
    rw [if_neg (by rw [hp]; exact Bool.false_ne_true)]
    dsimp only
    unfold State.barAcquire
    rw [hacq]
    rfl
  have hacqclk : ((t.holdPipe w (s.clk + 1)).barAcquire x f.bar).clk = (t.holdPipe w (s.clk + 1)).clk := by
    obtain ⟨reqs, wgs, he, -, -⟩ := acquireBy_eq hfound x.issueNo (mGet [] x.barGot f.bar) .grp false
    unfold State.barAcquire
    rw [he]
    rfl
  rw [hu]
  rw [hclk, State.holdPipe_cur, hr] at hv
  rw [hclk] at hadv hctl hregs
  refine ⟨?_, hv, rfl, hs.advanced hclk hadv, hs.trans_control hctl, hs.trans_regs hregs, onlyAcquire_holdPipe honly, fun y hy hid => ?_⟩
  · rw [hform, State.issued_absentHit]
    unfold State.barAcquire
    rw [acquireBy_absentHit hfound, State.holdPipe_absentHit]
  · rw [hform] at hy
    rw [eq_of_mem_issued hy (hid.trans hxid.symm), hacqclk, hclk]

/-- The BAR.SYNC whose phase stays open waits, with its arrival kept in its latch (R261). -/
theorem afterArrival_waits (hw : AtHand s w) (hc : t.clk = s.clk) (hr : t.cur = s.cur) (hx : t.wale? w.id = some x) (hs : SameWork w x)
    (hp : x.barPend.contains f.bar = true) : ∃ v, (s.afterArrival f w t (.barSync f)).wale? s.cur = some v ∧ v.barPend = x.barPend ∧
      v.latch = some (.arrived f.bar) ∧ v.pc = w.pc ∧ v.nextIssue = s.clk + 1 ∧ SameControl w v ∧ SameRegs w v ∧
      OnlyAcquire t (s.afterArrival f w t (.barSync f)) ∧ (s.afterArrival f w t (.barSync f)).absentHit = t.absentHit := by
  have hxid : x.id = w.id := wale?_id hx
  have hu : s.afterArrival f w t (.barSync f) = (t.holdPipe w (s.clk + 1)).hold { x with latch := some (.arrived f.bar) } .barrier true := by
    change (t.holdPipe w (s.clk + 1)).barWaitPart ((t.wale? w.id).getD w) f.bar true = _
    rw [hx]
    exact if_pos hp
  have hfound : (t.holdPipe w (s.clk + 1)).wale? x.id = some x := by
    rw [State.wale?, State.holdPipe_wales, hxid]
    exact hx
  obtain ⟨-, -, -, -, hpc, -⟩ := id hs
  rw [hu, hold_eq]
  refine ⟨({ x with latch := some (.arrived f.bar) } : Wale).heldAt (t.holdPipe w (s.clk + 1)).clk .barrier true,
    ?_, rfl, rfl, hpc, ?_, hs.trans_control (sameControl_refl _),
    hs.trans_regs (sameRegs_refl _), onlyAcquire_of_onlyWale (onlyWale_held ?_ _), ?_⟩
  · rw [← wale?_id hw, ← hxid]
    exact wale?_putWale_self hfound
  · exact congrArg (· + 1) ((State.holdPipe_clk _ _ _).trans hc)
  · exact hxid.trans ((wale?_id hw).trans hr.symm)
  · simp

end Arrivals

/-- An arrival's record is all that memory keeps of it. -/
theorem ArrivalKeeps.memory {s t u : State} {w : Wale} {bar : Nat} (h : ArrivalKeeps s w bar t) (ho : OnlyAcquire t u) :
    u.mem = (s.logArrival w bar).mem ∧ ((s.ctrace w.ctx).getLsbD 0 = false → u.mem = s.mem) := by
  obtain ⟨-, -, -, hlog, hsame⟩ := h
  obtain ⟨-, hmem, -⟩ := ho
  exact ⟨hmem.trans hlog, fun hf => hmem.trans (hsame hf)⟩

/-- The maps of a workgroup's barriers have rising keys. -/
theorem mSorted_barriers {s : State} {i : Nat} {g : Workgroup} (hs : s.canonical = true) (hg : s.wg? i = some g) :
    mSorted g.barriers = true := by
  simp only [State.canonical, Bool.and_eq_true, List.all_eq_true] at hs
  obtain ⟨⟨⟨⟨-, -⟩, -⟩, hwgs⟩, -⟩ := hs
  have hcan := hwgs g (List.mem_of_find?_eq_some hg)
  simp only [Workgroup.canonical, Bool.and_eq_true] at hcan
  obtain ⟨⟨hbar, -⟩, -⟩ := hcan
  exact hbar

theorem barrierArrivals : BarrierArrivals := by
  intro f s w g hcanon h hready n a keeps hcount
  obtain ⟨hw, -, -, -, hg, -, -⟩ := id h
  obtain ⟨-, -, -, habs⟩ := id hready
  have hfound : s.wale? w.id = some w := wale?_of_atHand hw
  have hmade := arrive_eq (n := n) hg hcount
  refine ⟨fun hne => ?_, fun heq i hi ha => ?_⟩
  · rw [if_neg (show ¬ g.nextArrived f.bar = n from hne)] at hmade
    obtain ⟨hkeeps, hx, hk⟩ := arrivalCounted_spec (bar := f.bar) (n := n) hfound hg
    obtain ⟨hclk, hcur, habs', -, -⟩ := id hkeeps
    have hwork := sameWork_pending w f.bar (w.nextArrival f.bar)
    have hpend := pending_contains (w.counted f.bar (w.nextArrival f.bar)) f.bar
    refine ⟨?_, fun hfree => ?_⟩
    · obtain ⟨ha, hv, hbar, hadv, hctl, hregs, honly, -⟩ := afterArrival_arrive hw hclk hcur hx hwork
      exact goes_arrival h hready (by simp) nofun hmade (ha.trans (habs'.trans habs)) hv
        ⟨hbar.symm ▸ hpend, hadv, hctl, hregs, hkeeps.memory honly, barriers_of_onlyAcquire honly hk⟩
    · obtain ⟨v, hv, hbar, hlatch, hpc, hnext, hctl, hregs, honly, ha⟩ := afterArrival_waits hw hclk hcur hx hwork hpend
      exact goes_arrival h hready (by simp) (fun _ => hfree) hmade (ha.trans (habs'.trans habs)) hv
        ⟨hbar.symm ▸ hpend, hlatch, hpc, hnext, hctl, hregs, hkeeps.memory honly, barriers_of_onlyAcquire honly hk⟩
  · rw [if_pos (show g.nextArrived f.bar = n from heq)] at hmade
    obtain ⟨hkeeps, hx, hk, hclear⟩ := phaseDone_spec (bar := f.bar) hfound hg
    obtain ⟨hclk, hcur, habs', -, -⟩ := id hkeeps
    have hwork : SameWork w ((w.counted f.bar (w.nextArrival f.bar)).released g.id f.bar w.id s.clk (s.phaseReleases w g f.bar)) :=
      sameWork_released (w.counted f.bar (w.nextArrival f.bar)) g.id f.bar w.id s.clk (s.phaseReleases w g f.bar)
    have hpend := released_clear (w.counted f.bar (w.nextArrival f.bar)) g.id f.bar w.id s.clk (s.phaseReleases w g f.bar) (wg?_id hg).symm
    generalize (w.counted f.bar (w.nextArrival f.bar)).released g.id f.bar w.id s.clk (s.phaseReleases w g f.bar) = x at hx hwork hpend
    have hwent : ∃ v, WentOn s (s.phaseDone w g f.bar) w x (s.afterArrival f w (s.phaseDone w g f.bar) i) v := by
      simp only [List.mem_cons, List.not_mem_nil, or_false] at hi
      obtain rfl | rfl := hi
      · exact ⟨_, afterArrival_arrive hw hclk hcur hx hwork⟩
      · exact ⟨_, afterArrival_sync hw hclk hcur hx hwork hpend⟩
    obtain ⟨v, habsv, hv, hbar, hadv, hctl, hregs, honly, hown⟩ := hwent
    have hothers := others_of_onlyAcquire honly
    rw [hcur, ← wale?_id hw] at hothers
    obtain ⟨k, hkfound, hkbar⟩ := barriers_of_onlyAcquire honly hk
    refine goes_arrival h hready hi ha hmade (habsv.trans (habs'.trans habs)) hv
      ⟨hadv, hctl, hregs, hkeeps.memory honly, ⟨k, hkfound, ?_⟩, fun y hy hyg => ?_, fun y z r hy hz hzg hp hh hr => ?_⟩
    · rw [hkbar]
      exact mFind_mDel_self f.bar (mSorted_barriers hcanon hg)
    · by_cases hid : y.id = w.id
      · rw [hown y hy hid, hbar]
        exact hpend
      · have hmem : y ∈ (s.phaseDone w g f.bar).wales.filter fun x => x.id != w.id := by
          rw [← hothers]
          exact List.mem_filter.mpr ⟨hy, by simpa using hid⟩
        exact hclear y (List.mem_filter.mp hmem).1 hyg
    · obtain ⟨u, hu, hnext, hpc⟩ := phaseDone_wakes (bar := f.bar) hg hy hz hzg hp hh hr
      exact ⟨u, (wale?_of_others hothers hy).trans hu, hnext, hpc⟩

/-- Settles O32: an arrival is counted or completes its phase, and what it leaves is what the wait, the issue or the trap after it
meets (R181, R182). -/
theorem barriers : Obligations.Barriers := ⟨barrierArrivals, barrierWaitsAndTraps⟩

end Sys2Proof.Machine
end

section
/-!
PROOF. Queue locks: the request, what the home slice does with it, and the acknowledgement (O31).
-/
namespace Sys2Proof.Machine
open Claims

/-! ### What locks rest on -/

/-- The token of an owner is a word, and not zero (R179). -/
theorem lockToken_bounds (id : Nat) : 0 < lockToken id ∧ lockToken id < 2 ^ (8 * 4) := by
  have hlt := (Config.lockToken id).isLt
  unfold lockToken
  dsimp only
  split <;> omega

/-- A core's caches are all that a fill changes (R337). -/
theorem fillVa_eq (s : State) (core ctx va : Nat) : ∃ tlbs, s.fillVa core ctx va = { s with tlbs := tlbs } := by
  have hfill (u : State) (unit : Nat) (l : Leaf) : ∃ tlbs, u.tlbFill unit ctx l = { u with tlbs := tlbs } := by
    unfold State.tlbFill
    split
    · exact ⟨u.tlbs, rfl⟩
    · exact ⟨_, rfl⟩
  unfold State.fillVa
  split
  · next l _ =>
    obtain ⟨t1, h1⟩ := hfill s core l
    obtain ⟨t2, h2⟩ := hfill (s.tlbFill core ctx l) (1000 + dieOf core) l
    refine ⟨t2, ?_⟩
    rw [State.fillBoth, h2, h1]
  · exact ⟨s.tlbs, rfl⟩

/-- A release leaves the locks, the wales and the clk (R239). -/
def SameLocks (s t : State) : Prop := t.locks = s.locks ∧ t.wales = s.wales ∧ t.clk = s.clk ∧ t.cur = s.cur

theorem SameLocks.trans {s t u : State} (h : SameLocks s t) (k : SameLocks t u) : SameLocks s u := by
  obtain ⟨hl, hw, hc, hr⟩ := h
  obtain ⟨kl, kw, kc, kr⟩ := k
  exact ⟨kl.trans hl, kw.trans hw, kc.trans hc, kr.trans hr⟩

theorem sameLocks_foldl {α : Type} {f : State → α → State} (hf : ∀ s x, SameLocks s (f s x)) (l : List α) (s : State) :
    SameLocks s (l.foldl f s) := by
  induction l generalizing s with
  | nil => exact ⟨rfl, rfl, rfl, rfl⟩
  | cons x l ih => exact (hf s x).trans (ih (f s x))

theorem sameLocks_flushCluster (s : State) (c : Nat) : SameLocks s (s.flushCluster c) := by
  have hback (s : State) (l : Nat) (bs : List Byte) (r : NMap (List RelInfo)) :
      SameLocks s { (s.writeLoc l bs).dropClean c l with rels := r } :=
    ⟨State.writeLoc_locks s l bs, State.writeLoc_wales s l bs, State.writeLoc_clk s l bs, State.writeLoc_cur s l bs⟩
  obtain ⟨hl, hw, hc, hr⟩ := sameLocks_foldl (f := fun (s : State) (p : Nat × DirtyByte) => _)
    (fun s p => hback s (p.1 - cacheKey c 0) [p.2.v] _)
    (s.dirty.filter fun p => decide (cacheKey c 0 ≤ p.1) && decide (p.1 < cacheKey (c + 1) 0)) s
  exact ⟨hl, hw, hc, hr⟩

theorem sameLocks_waleRelease (s : State) (w : Wale) : SameLocks s (s.waleRelease w .dev).2 :=
  sameLocks_flushCluster (s.release w .dev false (s.relWaits w.asReq .dev).2).2 (clusterOf w.core)

/-! ### Waiting -/

section Waits
variable {i : Instr} {s u : State} {w : Wale} {l : Option Latch} {r : Reason} {b : Bool} {n : Nat}

/-- The wale that waits, next looked at at a clk. -/
def Wale.holdsOn (w : Wale) (since : Nat) (l : Option Latch) (r : Reason) (watched : Bool) (next : Nat) : Wale :=
  { ({ w with latch := l } : Wale).heldAt since r watched with nextIssue := next }

theorem waitsAt_holdsOn (w : Wale) (since : Nat) (l : Option Latch) (r : Reason) (b : Bool) (n : Nat) :
    WaitsAt w (w.holdsOn since l r b n) n l :=
  ⟨rfl, rfl, rfl, (sameControl_refl _), (sameRegs_refl _)⟩

/-- An instruction that waits with a latch. -/
theorem goes_waits (h : AtHand s w) (he : exec i s = .next (s.putWale (w.holdsOn s.clk l r b n))) :
    Goes i s fun t v => WaitsAt w v n l ∧ OnlyWale s t :=
  goes_putWale h he rfl fun ho => ⟨waitsAt_holdsOn w s.clk l r b n, ho⟩

/-- The same in a state that has changed elsewhere. -/
theorem wale?_putWale_holdsOn {since : Nat} (h : AtHand s w) (hu : (u.wale? w.id).isSome) :
    (u.putWale (w.holdsOn since l r b n)).wale? s.cur = some (w.holdsOn since l r b n) := by
  obtain ⟨x, hx⟩ := Option.isSome_iff_exists.mp hu
  rw [← wale?_id h]
  exact wale?_putWale_self (w := w.holdsOn since l r b n) hx

theorem isSome_wale?_of_wales (h : AtHand s w) (hu : u.wales = s.wales) : (u.wale? w.id).isSome := by
  rw [State.wale?, hu]
  exact Option.isSome_of_eq_some (wale?_of_atHand h)

/-- A wale held and then told when to look again. -/
theorem hold_onWale_eq (u : State) (w : Wale) (l : Option Latch) (r : Reason) (b : Bool) (n : Nat) :
    ((u.hold { w with latch := l } r b).onWale w.id fun x => { x with nextIssue := n }) = u.putWale (w.holdsOn u.clk l r b n) :=
  putWale_onWale u (({ w with latch := l } : Wale).heldAt u.clk r b) (fun x => { x with nextIssue := n }) fun _ => rfl

theorem lockWait_eq (u : State) (w : Wale) (va k n : Nat) :
    u.lockWait w va k n = u.putWale (w.holdsOn u.clk (some (.lock k va)) .queueLock true (u.clk + n)) :=
  hold_onWale_eq u w (some (.lock k va)) .queueLock true (u.clk + n)

end Waits

/-! ### Issuing the request (R152, R162, R227) -/

/-- LOCKQ and UNLOCKQ at their issue. -/
def State.lockIssue (s : State) (w : Wale) (m : MForm) (watched : Bool) : Out :=
  match s.uniAccess w m lockOp with
  | .trap r => .next (s.takeTrap w r)
  | .absent => fin { s with absentHit := true }
  | .empty => .next (s.issued w 0)
  | .miss va => .next (s.parkWalk w va)
  | .at' _ _ none => .next (s.issued w 0)
  | .at' _ va (some l) => .next ((s.uniFill w va).lockSend w va l watched)

section Issue
variable {s : State} {w : Wale} {m : MForm} {va l : Nat}

theorem exec_lockq_fresh (h : AtHand s w) (hl : ∀ a b, w.latch ≠ some (.lock a b)) (hq : ∀ a b k, w.latch ≠ some (.lockReq a b k)) :
    exec (.lockq m) s = s.lockIssue w m true := by
  change s.withCur _ = _
  rw [withCur_eq _ h]
  split
  · next hlock => exact absurd hlock (hl _ _)
  · next hreq => exact absurd hreq (hq _ _ _)
  · rfl

theorem exec_unlockq_fresh (h : AtHand s w) (hl : ∀ a, w.latch ≠ some (.unlock a)) (hq : ∀ a b k, w.latch ≠ some (.lockReq a b k)) :
    exec (.unlockq m) s = s.lockIssue w m false := by
  change s.withCur _ = _
  rw [withCur_eq _ h]
  split
  · next hlock => exact absurd hlock (hl _)
  · next hreq => exact absurd hreq (hq _ _ _)
  · rfl

/-- The request goes to the home slice. -/
theorem goes_lockSend {i : Instr} {b : Bool} (h : AtHand s w) (he : exec i s = s.lockIssue w m b)
    (hx : ∃ x, s.uniAccess w m lockOp = .at' x va (some l)) :
    Goes i s fun t v => WaitsAt w v (s.clk + 1) (some (.lockReq l va (s.clk + 6))) ∧ OnlyWale s t := by
  obtain ⟨x, hx⟩ := hx
  obtain ⟨tlbs, hfill⟩ := fillVa_eq s w.core w.ctx va
  have hsend : s.lockIssue w m b =
      .next (({ s with tlbs := tlbs }.holdPipe w (s.clk + 1)).putWale
        (w.holdsOn ({ s with tlbs := tlbs }.holdPipe w (s.clk + 1)).clk (some (.lockReq l va (s.clk + 6))) .queueLock b
          (({ s with tlbs := tlbs }.holdPipe w (s.clk + 1)).clk + 1))) := by
    unfold State.lockIssue
    rw [hx]
    dsimp only
    unfold State.uniFill
    rw [hfill]
    rfl
  have hclk : ({ s with tlbs := tlbs }.holdPipe w (s.clk + 1)).clk = s.clk := State.holdPipe_clk _ _ _
  rw [hclk] at hsend
  refine ⟨_, _, he.trans hsend, wale?_putWale_holdsOn h (isSome_wale?_of_wales h ?_), waitsAt_holdsOn w _ _ _ _ _, ?_⟩
  · exact State.holdPipe_wales _ _ _
  · have honly := onlyWale_held (s := { s with tlbs := tlbs }) (u := w)
      (v := w.holdsOn s.clk (some (.lockReq l va (s.clk + 6))) .queueLock b (s.clk + 1)) (show w.id = s.cur from wale?_id h) (s.clk + 1)
    exact honly

end Issue

/-- Until the request is at the home slice the wale waits. -/
theorem exec_lockq_travels {s : State} {w : Wale} {m : MForm} {l va k : Nat} (h : AtHand s w) (hl : w.latch = some (.lockReq l va k)) :
    exec (.lockq m) s = if s.clk < k then .next (s.hold w .queueLock true) else s.lockAt w va l w.retrying := by
  change s.withCur _ = _
  rw [withCur_eq _ h]
  simp only [hl]

theorem exec_unlockq_travels {s : State} {w : Wale} {m : MForm} {l va k : Nat} (h : AtHand s w) (hl : w.latch = some (.lockReq l va k)) :
    exec (.unlockq m) s = if s.clk < k then .next (s.hold w .queueLock false) else s.unlockAt w l := by
  change s.withCur _ = _
  rw [withCur_eq _ h]
  simp only [hl]

/-- A wale held with the latch that it has. -/
theorem hold_eq_holdsOn (s : State) (w : Wale) (r : Reason) (b : Bool) :
    s.hold w r b = s.putWale (w.holdsOn s.clk w.latch r b (s.clk + 1)) := rfl

/-! ### The home slice (R179, R180) -/

section Slice
variable {s : State} {w : Wale} {l v : Nat}

/-- The lock word that the home slice writes is read back, and no other byte changes. -/
theorem natAt_lockWord (s : State) (l : Nat) {v : Nat} (hv : v < 2 ^ (8 * 4)) : (s.lockWord l v).natAt l 4 = v := by
  have hread : (s.lockWord l v).natAt l 4 = (s.writeNat l 4 v).natAt l 4 := rfl
  rw [hread, natAt_writeNat, Nat.mod_eq_of_lt hv]

theorem byteAt_lockWord_out (hs : Memory.wf s.mem = true) {a : Nat} (ha : a < l ∨ l + 4 ≤ a) : (s.lockWord l v).byteAt a = s.byteAt a := by
  have hread : (s.lockWord l v).byteAt a = (s.writeNat l 4 v).byteAt a := rfl
  rw [hread, byteAt_writeNat_out hs ha]

theorem sameLocks_lockWord (s : State) (l v : Nat) : SameLocks s (s.lockWord l v) := by
  simp [SameLocks, State.lockWord]

/-- Where locks are written: the table's entry, and the word. -/
theorem locks_grant {k : Nat} (s : State) (n : Lock) : mFind ({ s with locks := mPut s.locks l n }.lockWord l v).locks l = some n ∧
    (k ≠ l → mFind ({ s with locks := mPut s.locks l n }.lockWord l v).locks k = mFind s.locks k) := by
  obtain ⟨hlocks, -⟩ := sameLocks_lockWord { s with locks := mPut s.locks l n } l v
  rw [hlocks]
  exact ⟨mFind_mPut_self s.locks l n, mFind_mPut_ne n⟩

theorem lockAt_free (hfree : mFind s.locks l = none) (hcount : s.lockCount (homeDie l 0) < 4096)
    (hhome : s.homeReady l w.core w.stamp = true) (va : Nat) (b : Bool) : s.lockAt w va l b =
      .next (({ s with locks := mPut s.locks l ⟨w.id, [], w.ctx⟩ }.lockWord l (lockToken w.id)).lockWait w va l 6) := by
  simp [State.lockAt, hfree, hhome, Nat.not_le.mpr hcount]

theorem lockAt_full (hfree : mFind s.locks l = none) (h : 4096 ≤ s.lockCount (homeDie l 0) ∨ s.homeReady l w.core w.stamp = false)
    (va : Nat) (b : Bool) : s.lockAt w va l b = .next (s.hold w .queueLock true) := by
  obtain h | h := h <;> simp [State.lockAt, hfree, h]

theorem lockAt_other {k : Lock} (hk : mFind s.locks l = some k) (ho : k.owner ≠ w.id) (va : Nat) (b : Bool) : ∃ u : State,
    s.lockAt w va l b = .next (u.lockWait w va l 1) ∧ u.wales = s.wales ∧ u.clk = s.clk ∧ u.mem = s.mem ∧
      mFind u.locks l = some { k with fifo := if k.fifo.contains w.id then k.fifo else k.fifo ++ [w.id] } := by
  by_cases hq : k.fifo.contains w.id = true
  · refine ⟨s, ?_, rfl, rfl, rfl, by rw [if_pos hq]; exact hk⟩
    simp only [State.lockAt, hk, if_neg ho, hq, if_true]
  · refine ⟨{ s with locks := mPut s.locks l { k with fifo := k.fifo ++ [w.id] } }, ?_, rfl, rfl, rfl, ?_⟩
    · simp only [State.lockAt, hk, if_neg ho, hq, Bool.false_eq_true, if_false]
    · rw [if_neg hq]
      exact mFind_mPut_self s.locks l _

theorem lockAt_owner {k : Lock} (hk : mFind s.locks l = some k) (ho : k.owner = w.id) (va : Nat) (b : Bool) : s.lockAt w va l b =
    if b then .next (s.lockWait w va l 6) else s.raise w .lockError 0 := by
  simp only [State.lockAt, hk, if_pos ho]

end Slice

/-! ### LOCKQ (R179, R180, R261) -/

/-- A LOCKQ whose acknowledgement has come issues when it finds itself the owner. -/
theorem exec_lockq_acknowledged {s : State} {w : Wale} {m : MForm} {l va : Nat} (h : AtHand s w) (hl : w.latch = some (.lock l va)) :
    exec (.lockq m) s = .next (if (mFind s.locks l).map Lock.owner = some w.id then s.lockDone w l else s.lockWait w va l 1) := by
  change s.withCur _ = _
  rw [withCur_eq _ h]
  simp only [hl]

theorem lockqCompletes : LockqCompletes := by
  intro m s w va l hcanon h goes
  refine ⟨fun hl hq hx => goes_lockSend h (exec_lockq_fresh h hl hq) hx, fun k hl => ⟨fun hk => ?_, fun hk => ?_⟩,
    fun hl => ⟨fun ho => ?_, fun ho => ?_⟩⟩
  · exact goes_waits h (by rw [exec_lockq_travels h hl, if_pos hk, hold_eq_holdsOn])
  · have he : exec (.lockq m) s = s.lockAt w va l w.retrying := by rw [exec_lockq_travels h hl, if_neg (Nat.not_lt.mpr hk)]
    refine ⟨fun hfree hcount hhome => ?_, fun hfree hbusy => ?_, fun k hf ho => ?_, fun k hf ho => ⟨fun hr => ?_, fun hr => ?_⟩⟩
    · obtain ⟨hpos, hlt⟩ := lockToken_bounds w.id
      rw [lockAt_free hfree hcount hhome, lockWait_eq] at he
      have hslice := sameLocks_lockWord { s with locks := mPut s.locks l ⟨w.id, [], w.ctx⟩ } l (lockToken w.id)
      have hlocks (k : Nat) := locks_grant (l := l) (v := lockToken w.id) (k := k) s ⟨w.id, [], w.ctx⟩
      have hword := natAt_lockWord { s with locks := mPut s.locks l ⟨w.id, [], w.ctx⟩ } l hlt
      have hmem : Memory.wf s.mem = true := memory_wf_of_canonical hcanon
      have hbyte (a : Nat) (ha : a < l ∨ l + 4 ≤ a) := byteAt_lockWord_out (s := { s with locks := mPut s.locks l ⟨w.id, [], w.ctx⟩ })
        (v := lockToken w.id) hmem ha
      generalize ({ s with locks := mPut s.locks l ⟨w.id, [], w.ctx⟩ } : State).lockWord l (lockToken w.id) = u at he hslice hlocks hword hbyte
      obtain ⟨-, hwales, hclk, -⟩ := hslice
      refine ⟨_, _, he, wale?_putWale_holdsOn h (isSome_wale?_of_wales h hwales), ?_, (hlocks l).1, ?_, hword, hbyte,
        fun k hk => (hlocks k).2 hk⟩
      · rw [hclk]
        exact waitsAt_holdsOn w _ _ _ _ _
      · exact fun hz => hpos.ne' (hword.symm.trans hz)
    · exact goes_waits h (by rw [he, lockAt_full hfree hbusy, hold_eq_holdsOn])
    · obtain ⟨u, hu, hwales, hclk, hmem, hlock⟩ := lockAt_other hf ho va w.retrying
      rw [hu, lockWait_eq, hclk] at he
      exact ⟨_, _, he, wale?_putWale_holdsOn h (isSome_wale?_of_wales h hwales), waitsAt_holdsOn w _ _ _ _ _, hmem, hlock⟩
    · rw [he, lockAt_owner hf ho, hr]
      exact if_neg Bool.false_ne_true
    · rw [lockAt_owner hf ho, hr, if_pos rfl, lockWait_eq] at he
      exact ⟨_, _, he, wale?_putWale_holdsOn h (isSome_wale?_of_wales h rfl), waitsAt_holdsOn w _ _ _ _ _, rfl, rfl⟩
  · obtain ⟨-, ht, hadv, hctl, hregs, -, hmem, -, -, -, -, hlocks, -⟩ := acquired_issued h (mGet [] s.rels (lockKey l)) .dev
    exact ⟨_, _, by rw [exec_lockq_acknowledged h hl, if_pos ho]; rfl, ht, hlocks, hmem, hctl, hregs, hadv⟩
  · rw [hl]
    exact goes_waits h (by rw [exec_lockq_acknowledged h hl, if_neg ho, lockWait_eq])

/-! ### UNLOCKQ (R179, R180, R227) -/

section Unlock
variable {s : State} {w : Wale} {l : Nat}

/-- The lock's release joins those that the next grant acquires (R242). -/
def State.lockReleased (s : State) (w : Wale) (l : Nat) : State :=
  let u := (s.waleRelease w .dev).2
  let i := (s.waleRelease w .dev).1
  let joined := (mGet [] u.rels (lockKey l)).foldl (fun st x => stampJoin st x.stamp) i.stamp
  { u with rels := mSet [] u.rels (lockKey l) [{ i with stamp := joined }] }

/-- The lock's word and entry after it. -/
def State.lockPassed (s : State) (l : Nat) (k : Lock) : State :=
  match k.fifo with
  | [] => { (s.lockWord l 0) with locks := mDel s.locks l }
  | h :: r =>
    let c := match s.wale? h with | some x => x.ctx | none => k.ctx
    { (s.lockWord l (lockToken h)) with locks := mPut s.locks l ⟨h, r, c⟩ }.onWale h fun x =>
      match x.latch with | some (.lock _ _) => { x with nextIssue := max x.nextIssue (s.clk + 6) } | _ => x

theorem unlockAt_other (h : ∀ k, mFind s.locks l = some k → k.owner ≠ w.id) : s.unlockAt w l = s.raise w .lockError 0 := by
  unfold State.unlockAt
  cases hf : mFind s.locks l with
  | none => rfl
  | some k => exact if_pos (h k hf)

theorem unlockAt_waits {k : Lock} (hf : mFind s.locks l = some k) (ho : k.owner = w.id)
    (h : s.waleRelReady w .dev = false ∨ s.homeReady l w.core w.stamp = false) : s.unlockAt w l = .next (s.hold w .queueLock false) := by
  obtain h | h := h <;> simp [State.unlockAt, hf, ho, h]

theorem unlockAt_passes {k : Lock} (hf : mFind s.locks l = some k) (ho : k.owner = w.id) (hr : s.waleRelReady w .dev = true)
    (hh : s.homeReady l w.core w.stamp = true) : s.unlockAt w l =
      .next ((((s.lockReleased w l).lockPassed l k).hold { w with latch := some (.unlock l) } .queueLock false).onWale w.id
        fun x => { x with nextIssue := ((s.lockReleased w l).lockPassed l k).clk + 6 }) := by
  simp only [State.unlockAt, hf, ho, hr, hh, ne_eq, not_true_eq_false, if_false, Bool.not_true, Bool.or_false, Bool.false_eq_true]
  rfl

/-- The release keeps the locks, the wales and the clk. -/
theorem sameLocks_lockReleased (s : State) (w : Wale) (l : Nat) : SameLocks s (s.lockReleased w l) := sameLocks_waleRelease s w

/-- A lock without a queue becomes free and its word 0. -/
theorem lockPassed_free {k : Lock} (hs : mSorted s.locks = true) (hq : k.fifo = []) : mFind (s.lockPassed l k).locks l = none ∧
    (s.lockPassed l k).natAt l 4 = 0 ∧ ∀ j, j ≠ l → mFind (s.lockPassed l k).locks j = mFind s.locks j := by
  simp only [State.lockPassed, hq]
  exact ⟨mFind_mDel_self l hs, natAt_lockWord s l (v := 0) (by decide), fun j hj => mFind_mDel_ne hs hj⟩

/-- A lock with a queue passes to its head, with that wale's token. -/
theorem lockPassed_next {k : Lock} {h : Nat} {r : List Nat} (hq : k.fifo = h :: r) :
    (∃ c, mFind (s.lockPassed l k).locks l = some ⟨h, r, c⟩) ∧ (s.lockPassed l k).natAt l 4 = lockToken h ∧
      ∀ j, j ≠ l → mFind (s.lockPassed l k).locks j = mFind s.locks j := by
  simp only [State.lockPassed, hq]
  exact ⟨⟨_, mFind_mPut_self s.locks l _⟩, natAt_lockWord s l (lockToken_bounds h).2, fun j hj => mFind_mPut_ne _ hj⟩

/-- The lock's passing keeps the clk and every wale in its place. -/
theorem lockPassed_keeps (s : State) (l : Nat) (k : Lock) (i : Nat) :
    (s.lockPassed l k).clk = s.clk ∧ ((s.lockPassed l k).wale? i).isSome = (s.wale? i).isSome := by
  cases hq : k.fifo with
  | nil =>
    simp only [State.lockPassed, hq]
    obtain ⟨-, hwales, hclk, -⟩ := sameLocks_lockWord s l 0
    exact ⟨hclk, by simp only [State.wale?, hwales]⟩
  | cons h r =>
    simp only [State.lockPassed, hq]
    obtain ⟨-, hwales, hclk, -⟩ := sameLocks_lockWord s l (lockToken h)
    refine ⟨hclk, ?_⟩
    simp only [State.wale?, State.onWale_wales, hwales]
    rw [find?_map_id _ Wale.id, Option.isSome_map]
    intro x
    split
    · split <;> rfl
    · rfl

end Unlock

/-- An UNLOCKQ that the home slice has acknowledged issues. -/
theorem exec_unlockq_acknowledged {s : State} {w : Wale} {m : MForm} {l : Nat} (h : AtHand s w) (hl : w.latch = some (.unlock l)) :
    exec (.unlockq m) s = .next (s.issued w 0) := by
  change s.withCur _ = _
  rw [withCur_eq _ h]
  simp only [hl]

theorem unlockqCompletes : UnlockqCompletes := by
  intro m s w va l hcanon h
  have hsorted : mSorted s.locks = true := by
    simp only [State.canonical, State.memMaps, Bool.and_eq_true] at hcanon
    tauto
  refine ⟨fun hl hq hx => goes_lockSend h (exec_unlockq_fresh h hl hq) hx, fun k hl => ⟨fun hk => ?_, fun hk => ?_⟩, fun a hl => ?_⟩
  · exact goes_waits h (by rw [exec_unlockq_travels h hl, if_pos hk, hold_eq_holdsOn])
  · have he : exec (.unlockq m) s = s.unlockAt w l := by rw [exec_unlockq_travels h hl, if_neg (Nat.not_lt.mpr hk)]
    refine ⟨fun ho => by rw [he, unlockAt_other ho], fun k hf ho => ⟨fun hr hh => ?_, fun hwait => ?_⟩⟩
    · rw [unlockAt_passes hf ho hr hh, hold_onWale_eq] at he
      obtain ⟨hlocks, hwales, hclk, -⟩ := sameLocks_lockReleased s w l
      obtain ⟨hclk', hkept⟩ := lockPassed_keeps (s.lockReleased w l) l k w.id
      rw [hclk', hclk] at he
      have hfound : (((s.lockReleased w l).lockPassed l k).wale? w.id).isSome := by
        rw [hkept]
        exact isSome_wale?_of_wales h hwales
      refine ⟨_, _, he, wale?_putWale_holdsOn h hfound, waitsAt_holdsOn w _ _ _ _ _, fun hq => ?_, fun n r hq => ?_, ?_⟩
      · obtain ⟨hfree, hword, -⟩ := lockPassed_free (l := l) (hlocks.symm ▸ hsorted) hq
        exact ⟨hfree, hword⟩
      · obtain ⟨hnext, hword, -⟩ := lockPassed_next (s := s.lockReleased w l) (l := l) hq
        exact ⟨hnext, hword, fun hz => (lockToken_bounds n).1.ne' (hword.symm.trans hz)⟩
      · intro j hj
        have hother : mFind ((s.lockReleased w l).lockPassed l k).locks j = mFind (s.lockReleased w l).locks j := by
          cases hq : k.fifo with
          | nil =>
            obtain ⟨-, -, hkeep⟩ := lockPassed_free (l := l) (hlocks.symm ▸ hsorted) hq
            exact hkeep j hj
          | cons n r =>
            obtain ⟨-, -, hkeep⟩ := lockPassed_next (s := s.lockReleased w l) (l := l) hq
            exact hkeep j hj
        rw [hlocks] at hother
        exact hother
    · exact goes_waits h (by rw [he, unlockAt_waits hf ho hwait, hold_eq_holdsOn])
  · exact goes_issued h (exec_unlockq_acknowledged h hl) rfl fun ho => ⟨(sameControl_refl _),
      (sameRegs_refl _), ⟨rfl, rfl, rfl⟩, ho⟩

/-! ### The checks of wale-uniform accesses (R152, R162) -/

theorem uniformAccessesIdleOrTrap : UniformAccessesIdleOrTrap := by
  intro m s w h hl hq hu
  refine ⟨fun i hi => ?_, fun i hi => ?_⟩
  · obtain ⟨b, he⟩ : ∃ b, exec i s = s.lockIssue w m b := by
      simp only [List.mem_cons, List.not_mem_nil, or_false] at hi
      obtain rfl | rfl := hi
      · exact ⟨_, exec_lockq_fresh h hl hq⟩
      · exact ⟨_, exec_unlockq_fresh h hu hq⟩
    rw [he]
    unfold State.lockIssue
    exact ⟨fun hx => by rw [hx], fun x va hx => by rw [hx], fun va hx => by rw [hx], fun r hx => by rw [hx]⟩
  · simp only [List.mem_cons, List.not_mem_nil, or_false] at hi
    have hcur : s.wale? s.cur = some w := h
    unfold barwOp
    obtain rfl | rfl := hi
    · exact ⟨fun hx => by simp only [exec, execBarwArv, State.withCur, hcur, hx],
        fun r hx => by simp only [exec, execBarwArv, State.withCur, hcur, hx]⟩
    · exact ⟨fun hx => by simp only [exec, execBarwWait, State.withCur, hcur, hx],
        fun r hx => by simp only [exec, execBarwWait, State.withCur, hcur, hx]⟩

/-- Settles O31: the request, the home slice's answer and the acknowledgement of LOCKQ and UNLOCKQ, and the checks before them
(R152, R179, R180). -/
theorem locks : Obligations.Locks := ⟨lockqCompletes, unlockqCompletes, uniformAccessesIdleOrTrap⟩

end Sys2Proof.Machine
end

section
/-!
PROOF. The end of wales and workgroups, and what a weaver writes when it retires them (O42).
-/
namespace Sys2Proof.Machine
open Claims

/-! ### Fields of records -/

/-- The bits of a number are those of its bytes. -/
theorem testBit_leNat (bs : List Byte) (i : Nat) : (leNat bs).testBit i = (bs.getD (i / 8) 0).getLsbD (i % 8) := by
  induction bs generalizing i with
  | nil => simp [leNat]
  | cons b bs ih =>
    have hb : b.toNat < 2 ^ 8 := b.isLt
    rw [leNat, show b.toNat + 256 * leNat bs = 2 ^ 8 * leNat bs + b.toNat by omega, Nat.testBit_two_pow_mul_add _ hb]
    by_cases hi : i < 8
    · rw [if_pos hi, Nat.div_eq_of_lt hi, Nat.mod_eq_of_lt hi]
      rfl
    · obtain ⟨k, rfl⟩ := Nat.exists_eq_add_of_le (Nat.not_lt.mp hi)
      rw [if_neg hi, Nat.add_sub_cancel_left, ih, Nat.add_mod_left, show (8 + k) / 8 = k / 8 + 1 by omega]
      rfl

theorem testBit_natAt (s : State) (a n i : Nat) : (s.natAt a n).testBit i = (decide (i / 8 < n) && (s.byteAt (a + i / 8)).getLsbD (i % 8)) := by
  rw [State.natAt, testBit_leNat, State.bytesAt]
  by_cases hi : i / 8 < n
  · simp [List.getD_eq_getElem?_getD, hi]
  · simp [List.getD_eq_getElem?_getD, hi]

/-- A field of a record in memory rests on its own bytes alone. -/
theorem field_natAt_congr {s t : State} {a n N hi lo : Nat} (h : ∀ j, lo / 8 ≤ j → j ≤ hi / 8 → t.byteAt (a + j) = s.byteAt (a + j)) :
    field (BitVec.ofNat N (t.natAt a n)) hi lo = field (BitVec.ofNat N (s.natAt a n)) hi lo := by
  refine Nat.eq_of_testBit_eq fun i => ?_
  simp only [field, BitVec.toNat_ofNat, Nat.testBit_mod_two_pow, Nat.testBit_div_two_pow, testBit_natAt]
  by_cases hi' : i < hi + 1 - lo
  · rw [h ((i + lo) / 8) (by omega) (by omega)]
  · simp [hi']

/-! ### What a weaver's writes leave -/

/-- Memory, stamps and queues' states apart, a weaver's write to a record changes nothing. -/
def SameLists (s t : State) : Prop :=
  t.wales = s.wales ∧ t.wgs = s.wgs ∧ t.retired = s.retired ∧ t.launches = s.launches ∧ t.events = s.events ∧ t.evHeld = s.evHeld ∧
    t.contHeld = s.contHeld ∧ t.coreTasks = s.coreTasks ∧ t.regs = s.regs

theorem sameLists_refl (s : State) : SameLists s s := ⟨rfl, rfl, rfl, rfl, rfl, rfl, rfl, rfl, rfl⟩

theorem SameLists.trans {s t u : State} (h : SameLists s t) (k : SameLists t u) : SameLists s u := by
  obtain ⟨h1, h2, h3, h4, h5, h6, h7, h8, h9⟩ := h
  obtain ⟨k1, k2, k3, k4, k5, k6, k7, k8, k9⟩ := k
  exact ⟨k1.trans h1, k2.trans h2, k3.trans h3, k4.trans h4, k5.trans h5, k6.trans h6, k7.trans h7, k8.trans h8, k9.trans h9⟩

theorem sameLists_writeNat (s : State) (l n x : Nat) : SameLists s (s.writeNat l n x) := by
  simp [SameLists]

theorem sameLists_stir (s : State) (die : Nat) : SameLists s (s.stir die) := by
  unfold State.stir
  split <;> exact sameLists_refl s

theorem byteAt_stir (s : State) (die l : Nat) : (s.stir die).byteAt l = s.byteAt l := by
  unfold State.stir
  split <;> rfl

theorem sameLists_foldl {α : Type} {f : State → α → State} (hf : ∀ s x, SameLists s (f s x)) (l : List α) (s : State) :
    SameLists s (l.foldl f s) := by
  induction l generalizing s with
  | nil => exact sameLists_refl s
  | cons x l ih => exact (hf s x).trans (ih (f s x))

theorem sameLists_flushCluster (s : State) (c : Nat) : SameLists s (s.flushCluster c) := by
  have hback (s : State) (l : Nat) (bs : List Byte) (r : NMap (List RelInfo)) :
      SameLists s { (s.writeLoc l bs).dropClean c l with rels := r } := by simp [SameLists, State.dropClean]
  obtain ⟨hw, hg, hr, hl, he, hh, hc, ht, hregs⟩ := sameLists_foldl (f := fun (s : State) (p : Nat × DirtyByte) => _)
    (fun s p => hback s (p.1 - cacheKey c 0) [p.2.v] _)
    (s.dirty.filter fun p => decide (cacheKey c 0 ≤ p.1) && decide (p.1 < cacheKey (c + 1) 0)) s
  exact ⟨hw, hg, hr, hl, he, hh, hc, ht, hregs⟩

/-- The release that a wale's end makes changes no list (R147, R239). -/
theorem sameLists_waleRelease (s : State) (w : Wale) : SameLists s (s.waleRelease w .dev).2 :=
  sameLists_flushCluster (s.release w .dev false (s.relWaits w.asReq .dev).2).2 (clusterOf w.core)

/-! ### The event queues (R287, R382) -/

/-- A record posted to a queue with room joins it, and nothing else changes but stamps and a die's wake. -/
theorem postEv_room {s : State} {core : Nat} (hroom : (mGet [] s.events core).length < 64) (hheld : s.evHeld = [])
    (data : BitVec 128) (die : Nat) (stamp : List Nat) : ∃ e, e.data = data ∧
      SameLists { s with events := mSet [] s.events core (mGet [] s.events core ++ [e]) } (s.postEv core data die stamp) := by
  obtain ⟨hw, hg, hr, hl, he, hh, hc, ht, hregs⟩ :=
    sameLists_stir ({ s with relCount := setNth s.relCount die (s.relCount.getD die 0 + 1) } : State) (dieOf core)
  refine ⟨⟨data, stampJoin stamp (unitStamp die (s.relCount.getD die 0 + 1))⟩, rfl, ?_⟩
  unfold State.postEv
  dsimp only
  rw [he, hh, if_pos ⟨hroom, by simp [hheld]⟩]
  exact ⟨hw, hg, hr, hl, rfl, rfl, hc, ht, hregs⟩

/-- Posting a record, whether its queue has room or not, changes the event queues alone. -/
theorem postEv_lists (s : State) (core : Nat) (data : BitVec 128) (die : Nat) (stamp : List Nat) :
    SameLists { s with events := (s.postEv core data die stamp).events, evHeld := (s.postEv core data die stamp).evHeld }
      (s.postEv core data die stamp) := by
  obtain ⟨hw, hg, hr, hl, he, hh, hc, ht, hregs⟩ :=
    sameLists_stir ({ s with relCount := setNth s.relCount die (s.relCount.getD die 0 + 1) } : State) (dieOf core)
  unfold State.postEv
  dsimp only
  split <;> exact ⟨hw, hg, hr, hl, rfl, rfl, hc, ht, hregs⟩

/-! ### The end of a wale (R147, R286) -/

/-- The workgroup that a wale of it has left, with the wale's time charged. -/
def Workgroup.left (g : Workgroup) (w : Wale) (clk : Nat) (stamp : List Nat) : Workgroup :=
  { g with charge := g.charge + (clk - w.born), stamp := stampJoin g.stamp stamp }

/-- The state once a wale is gone, before its workgroup's end. -/
def State.waleGone (s : State) (w : Wale) : State :=
  ((s.waleRelease w .dev).2.dropWale w.id).onWg w.wg fun g => g.left w s.clk (s.waleRelease w .dev).1.stamp

section Ends
variable {s : State} {w : Wale}

theorem exec_waleEnd (hw : s.wale? w.id = some w) (hc : s.canEnd w = true) : exec (.waleEnd w.id) s =
    match (s.waleGone w).wg? w.wg with
    | none => .next (s.waleGone w)
    | some g => .next (if (s.waleGone w).wales.any fun x => x.kind == .wale && x.wg == g.id then s.waleGone w
        else (s.waleGone w).groupEnd g) := by
  change execWaleEnd w.id s = _
  simp only [execWaleEnd, hw, hc, Bool.not_true, Bool.false_eq_true, if_false]
  rfl

theorem waleGone_wales (s : State) (w : Wale) : (s.waleGone w).wales =
    s.wales.filter fun x => x.id != w.id && !(x.parent == w.id && x.kind != .wale && x.kind != .weaver) := by
  obtain ⟨hwales, -⟩ := sameLists_waleRelease s w
  have hdrop : (s.waleGone w).wales = ((s.waleRelease w .dev).2.dropWale w.id).wales := rfl
  rw [hdrop, State.dropWale, hwales]

/-- The wale is gone. -/
theorem waleGone_self (s : State) (w : Wale) : (s.waleGone w).wale? w.id = none := by
  rw [State.wale?, waleGone_wales, List.find?_filter, List.find?_eq_none]
  intro x _
  by_cases hx : x.id = w.id <;> simp [hx]

/-- Every other wale stands as it was. -/
theorem waleGone_other {i : Nat} {x : Wale} (hx : s.wale? i = some x) (hk : x.kind = .wale) (hi : i ≠ w.id) :
    (s.waleGone w).wale? i = some x := by
  rw [State.wale?, waleGone_wales]
  have hid := wale?_id hx
  rw [State.wale?] at hx
  generalize s.wales = l at hx ⊢
  induction l with
  | nil => exact hx
  | cons y l ih =>
    by_cases hy : y.id = i
    · rw [List.find?_cons_of_pos (by simpa using hy)] at hx
      obtain rfl : y = x := Option.some.inj hx
      rw [List.filter_cons_of_pos (by simp [hk, hy, hi]), List.find?_cons_of_pos (by simpa using hy)]
    · rw [List.find?_cons_of_neg (by simpa using hy)] at hx
      rw [List.filter_cons]
      split
      · rw [List.find?_cons_of_neg (by simpa using hy)]
        exact ih hx
      · exact ih hx

/-- Its workgroup is charged. -/
theorem waleGone_wg? (s : State) (w : Wale) :
    (s.waleGone w).wg? w.wg = (s.wg? w.wg).map fun g => g.left w s.clk (s.waleRelease w .dev).1.stamp := by
  obtain ⟨-, hwgs, -⟩ := sameLists_waleRelease s w
  have hfound : ((s.waleRelease w .dev).2.dropWale w.id).wg? w.wg = s.wg? w.wg := by
    simp only [State.wg?, State.dropWale, hwgs]
  unfold State.waleGone
  rw [wg?_onWg_self _ _ (fun g => g.left w s.clk (s.waleRelease w .dev).1.stamp) fun _ => rfl, hfound]

/-- The end of a workgroup leaves the wales. -/
theorem groupEnd_wales (s : State) (g : Workgroup) : (s.groupEnd g).wales = s.wales := by
  unfold State.groupEnd
  split
  · rfl
  · exact (postEv_lists s g.core _ _ _).1

/-- A workgroup that other wales keep goes on. -/
theorem waleEnd_goesOn {g : Workgroup} (hw : s.wale? w.id = some w) (hc : s.canEnd w = true) (hg : s.wg? w.wg = some g)
    (hx : ∃ x ∈ s.wales, x.kind = .wale ∧ x.wg = g.id ∧ x.id ≠ w.id) : exec (.waleEnd w.id) s = .next (s.waleGone w) := by
  obtain ⟨x, hmem, hk, hxg, hne⟩ := hx
  have hany : ((s.waleGone w).wales.any fun x => x.kind == .wale && x.wg == g.id) = true := by
    rw [List.any_eq_true, waleGone_wales]
    exact ⟨x, List.mem_filter.mpr ⟨hmem, by simp [hk, hne]⟩, by simp [hk, hxg]⟩
  rw [exec_waleEnd hw hc, waleGone_wg?, hg]
  exact congrArg _ (if_pos hany)

/-- The workgroup ends with its last wale. -/
theorem waleEnd_last {g : Workgroup} (hw : s.wale? w.id = some w) (hc : s.canEnd w = true) (hg : s.wg? w.wg = some g)
    (hx : ∀ x ∈ s.wales, x.kind = .wale → x.wg = g.id → x.id = w.id) : exec (.waleEnd w.id) s =
      .next ((s.waleGone w).groupEnd (g.left w s.clk (s.waleRelease w .dev).1.stamp)) := by
  have hany : ¬ ((s.waleGone w).wales.any fun x => x.kind == .wale && x.wg == g.id) = true := by
    rw [List.any_eq_true, waleGone_wales]
    rintro ⟨x, hmem, hxg⟩
    obtain ⟨hin, hkept⟩ := List.mem_filter.mp hmem
    simp only [Bool.and_eq_true, beq_iff_eq] at hxg
    have hid := hx x hin hxg.1 hxg.2
    simp [hid] at hkept
  rw [exec_waleEnd hw hc, waleGone_wg?, hg]
  exact congrArg _ (if_neg hany)

/-- The lists once the wale is gone. -/
theorem waleGone_lists (s : State) (w : Wale) : (s.waleGone w).retired = s.retired ∧ (s.waleGone w).events = s.events ∧
    (s.waleGone w).evHeld = s.evHeld := by
  obtain ⟨-, -, hretired, -, hevents, hheld, -⟩ := sameLists_waleRelease s w
  exact ⟨hretired, hevents, hheld⟩

end Ends

/-- A workgroup taken out of the table is not found. -/
theorem find?_filter_id (l : List Workgroup) (n : Nat) : (l.filter fun x => x.id != n).find? (fun x => x.id == n) = none := by
  rw [List.find?_filter, List.find?_eq_none]
  intro x _
  by_cases hx : x.id = n <;> simp [hx]

/-- A spawned workgroup leaves nothing (R286). -/
theorem groupEnd_spawned {s : State} {g : Workgroup} (h : g.origin = .spawned) :
    s.groupEnd g = { s with wgs := s.wgs.filter fun x => x.id != g.id } := by
  unfold State.groupEnd
  rw [h]

/-- The workgroup of a launch or task goes to its core's retirement list, and its record to the core's event queue (R286, R382). -/
theorem groupEnd_listed {s : State} {g : Workgroup} (h : g.origin ≠ .spawned) :
    mGet [] (s.groupEnd g).retired g.core = mGet [] s.retired g.core ++ [g.id] ∧
      ((mGet [] s.events g.core).length < 64 → s.evHeld = [] → ∃ e,
        mGet [] (s.groupEnd g).events g.core = mGet [] s.events g.core ++ [e] ∧ e.data = evData g.origin.record g.group 0x02 g.ctx) := by
  have hform : s.groupEnd g =
      { (s.postEv g.core (evData g.origin.record g.group 0x02 g.ctx) (dieOf g.core) g.stamp) with
        retired := mSet [] (s.postEv g.core (evData g.origin.record g.group 0x02 g.ctx) (dieOf g.core) g.stamp).retired g.core
          (mGet [] (s.postEv g.core (evData g.origin.record g.group 0x02 g.ctx) (dieOf g.core) g.stamp).retired g.core ++ [g.id]) } := by
    unfold State.groupEnd
    split
    · next ho => exact absurd ho h
    · rfl
  obtain ⟨-, -, hretired, -⟩ := postEv_lists s g.core (evData g.origin.record g.group 0x02 g.ctx) (dieOf g.core) g.stamp
  refine ⟨?_, fun hroom hheld => ?_⟩
  · rw [hform, hretired]
    exact mGet_mSet_self_of_ne [] _ _ (by simp)
  · obtain ⟨e, he, -, -, -, -, hevents, -⟩ :=
      postEv_room hroom hheld (evData g.origin.record g.group 0x02 g.ctx) (dieOf g.core) g.stamp
    refine ⟨e, ?_, he⟩
    rw [hform]
    change mGet [] (s.postEv g.core _ _ _).events g.core = _
    rw [hevents]
    exact mGet_mSet_self_of_ne [] _ _ (by simp)

theorem waleEnds : WaleEnds := by
  intro s w hw hc
  obtain ⟨hretired, hevents, hheld⟩ := waleGone_lists s w
  cases hg : s.wg? w.wg with
  | none =>
    have hnone : (s.waleGone w).wg? w.wg = none := by rw [waleGone_wg?, hg, Option.map_none]
    exact ⟨s.waleGone w, by rw [exec_waleEnd hw hc, hnone], waleGone_self s w, fun i x hx hk hi => waleGone_other hx hk hi, nofun⟩
  | some g =>
    have hgid : g.id = w.wg := by simpa using List.find?_some hg
    by_cases hx : ∃ x ∈ s.wales, x.kind = .wale ∧ x.wg = g.id ∧ x.id ≠ w.id
    · refine ⟨_, waleEnd_goesOn hw hc hg hx, waleGone_self s w, fun i x hx hk hi => waleGone_other hx hk hi, fun k hk => ?_⟩
      obtain rfl : g = k := Option.some.inj hk
      refine ⟨fun _ => ⟨g.left w s.clk (s.waleRelease w .dev).1.stamp, ?_, rfl, rfl, hevents, hretired⟩, fun hlast => ?_⟩
      · rw [hgid]
        rw [waleGone_wg?, hg]
        rfl
      obtain ⟨x, hmem, hk, hxg, hne⟩ := hx
      exact absurd (hlast x hmem hk hxg) hne
    · have hlast : ∀ x ∈ s.wales, x.kind = .wale → x.wg = g.id → x.id = w.id := by
        intro x hmem hk hxg
        by_contra hne
        exact hx ⟨x, hmem, hk, hxg, hne⟩
      refine ⟨_, waleEnd_last hw hc hg hlast, ?_, fun i x hx hk hi => ?_, fun k hk => ?_⟩
      · rw [State.wale?, groupEnd_wales]
        exact waleGone_self s w
      · rw [State.wale?, groupEnd_wales]
        exact waleGone_other hx hk hi
      · obtain rfl : g = k := Option.some.inj hk
        refine ⟨fun h => absurd h hx, fun _ => ⟨fun hs => ?_, fun hs => ?_⟩⟩
        · rw [groupEnd_spawned (g := g.left w s.clk (s.waleRelease w .dev).1.stamp) hs]
          exact ⟨find?_filter_id _ g.id, hretired, hevents⟩
        · have hlisted := groupEnd_listed (s := s.waleGone w) (g := g.left w s.clk (s.waleRelease w .dev).1.stamp) hs
          rw [hretired, hevents, hheld] at hlisted
          exact hlisted

/-! ### What memory keeps -/

/-- Memory keeps its form, and the bytes that `p` names. -/
def KeepsBytes (p : Nat → Prop) (s t : State) : Prop :=
  Memory.wf s.mem = true → Memory.wf t.mem = true ∧ ∀ a, p a → t.byteAt a = s.byteAt a

theorem keepsBytes_of {p : Nat → Prop} {s t : State} (hm : t.mem = s.mem) (hb : ∀ a, t.byteAt a = s.byteAt a) : KeepsBytes p s t :=
  fun hs => ⟨by rw [hm]; exact hs, fun a _ => hb a⟩

theorem KeepsBytes.trans {p : Nat → Prop} {s t u : State} (h : KeepsBytes p s t) (k : KeepsBytes p t u) : KeepsBytes p s u := by
  intro hs
  obtain ⟨ht, hst⟩ := h hs
  obtain ⟨hu, htu⟩ := k ht
  exact ⟨hu, fun a ha => (htu a ha).trans (hst a ha)⟩

theorem keepsBytes_writeNat {p : Nat → Prop} {s : State} {l n : Nat} (x : Nat) (h : ∀ a, p a → a < l ∨ l + n ≤ a) :
    KeepsBytes p s (s.writeNat l n x) :=
  fun hs => ⟨writeNat_wf l n x hs, fun a ha => byteAt_writeNat_out hs (h a ha)⟩

theorem KeepsBytes.natAt {p : Nat → Prop} {s t : State} (h : KeepsBytes p s t) (hs : Memory.wf s.mem = true) {a n : Nat}
    (hp : ∀ i < n, p (a + i)) : t.natAt a n = s.natAt a n := by
  rw [State.natAt, State.natAt, State.bytesAt, State.bytesAt]
  exact congrArg _ (List.map_congr_left fun i hi => (h hs).2 _ (hp i (List.mem_range.mp hi)))

theorem keepsBytes_stir (p : Nat → Prop) (s : State) (die : Nat) : KeepsBytes p s (s.stir die) := by
  unfold State.stir
  split <;> exact keepsBytes_of rfl fun _ => rfl

/-! ### Translations -/

/-- The tables in memory and the registers fix where a record is. -/
theorem recLoc_congr {s t : State} (hb : ∀ a, t.byteAt a = s.byteAt a) (hr : t.regs = s.regs) (ctx va : Nat) (p : Perm) :
    t.recLoc ctx va p = s.recLoc ctx va p := by
  have hwalk (n tab : Nat) : walkFrom t va n tab = walkFrom s va n tab := by
    induction n generalizing tab with
    | zero => rfl
    | succ n ih => simp only [walkFrom, natAt_congr hb, ih]
  have htable : t.walk ctx va = s.walk ctx va := by
    unfold State.walk State.ctxRoot State.reg
    rw [hr, hwalk]
  have hplace (l : Leaf) : t.place l va = s.place l va := by
    unfold State.place State.expl State.reg
    rw [hr]
  have hxlate : t.xlate ctx none p va = s.xlate ctx none p va := by
    unfold State.xlate
    rw [htable]
    cases s.walk ctx va with
    | none => rfl
    | some l => simp only [State.useLeaf, hplace]
  unfold State.recLoc
  rw [hxlate]

/-! ### The weaver pops its event queue (R244, R382) -/

/-- A pop changes the event queues, which grow no longer, and the stamp of the weaver. -/
theorem popReport_eq {s s1 : State} {core n : Nat} {ev : List Nat} (hs : mSorted s.events = true) (h : s.popReport core n = some (s1, ev)) :
    ∃ events wales, s1 = { s with events := events, wales := wales } ∧
      (∀ c, (mGet [] events c).length ≤ (mGet [] s.events c).length) ∧
      ∀ i x, s.wale? i = some x → x.kind ≠ .weaver → (s1.wale? i) = some x := by
  unfold State.popReport at h
  dsimp only at h
  split at h
  · split at h
    · next x rest hq =>
      split at h
      · simp only [Option.some.injEq] at h
        obtain ⟨rfl, -⟩ := h
        refine ⟨_, _, rfl, fun c => ?_, fun i y hy hk => ?_⟩
        · by_cases hc : c = core
          · subst hc
            rw [mGet_mSet_self [] c rest hs]
            have hle := (List.dropWhile_sublist (l := mGet [] s.events c)
              (fun x => !(field x.data 31 24 == 2 || field x.data 31 24 == 3))).length_le
            rw [hq, List.length_cons] at hle
            omega
          · rw [mGet_mSet_ne [] rest hs hc]
        · simp only [State.wale?, State.weaverJoin]
          rw [find?_map_id _ Wale.id]
          · rw [State.wale?] at hy
            rw [hy]
            simp [hk]
          · intro z
            split <;> rfl
      · exact absurd h nofun
    · exact absurd h nofun
  · split at h
    · exact absurd h nofun
    · simp only [Option.some.injEq] at h
      obtain ⟨rfl, -⟩ := h
      exact ⟨s.events, s.wales, rfl, fun _ => le_rfl, fun i x hx _ => hx⟩

/-! ### Posting by a weaver (R287) -/

/-- Records without a continuation leave the held list alone. -/
theorem contClk_of_zero {s : State} (h : ∀ x ∈ s.contHeld, x.va = 0) : ∃ hs, s.contClk = { s with contHeld := hs } := by
  have hfold (l : List ContHeld) (u : State) (hl : ∀ x ∈ l, x.va = 0) :
      (l.foldl (fun s h => if h.va = 0 then s else s.joinDec h.ctx h.va h.core h.stamp) u) = u := by
    induction l with
    | nil => rfl
    | cons x l ih =>
      rw [List.foldl_cons, if_pos (hl x (by simp))]
      exact ih fun y hy => hl y (by simp [hy])
  unfold State.contClk
  dsimp only
  split
  · exact ⟨s.contHeld, rfl⟩
  · exact ⟨_, hfold _ _ fun x hx => h x (List.mem_filter.mp hx).1⟩

/-- A weaver's post without a continuation changes the event queues, and with room in the queue the record is there. -/
theorem weaverPost_zero {s : State} (hc : s.contHeld = []) (core ccore : Nat) (data : BitVec 128) (ctx : Nat) (stamp : List Nat) :
    let t := s.weaverPost core ccore data ctx 0 stamp
    t.wales = s.wales ∧ t.wgs = s.wgs ∧ t.retired = s.retired ∧ t.launches = s.launches ∧ (∀ p, KeepsBytes p s t) ∧
      ((mGet [] s.events ccore).length < 64 → s.evHeld = [] → ∃ e ∈ mGet [] t.events ccore, e.data = data) := by
  intro t
  have hlists := postEv_lists s ccore data (dieOf core) stamp
  have hbytes (p : Nat → Prop) : KeepsBytes p s (s.postEv ccore data (dieOf core) stamp) := by
    have hstir := keepsBytes_stir p ({ s with relCount := setNth s.relCount (dieOf core) (s.relCount.getD (dieOf core) 0 + 1) } : State)
      (dieOf ccore)
    unfold State.postEv
    dsimp only
    split <;> exact hstir
  have hroom := fun hr hh => postEv_room (s := s) (core := ccore) hr hh data (dieOf core) stamp
  obtain ⟨hw, hg, hr, hl, -, -, hheld, -⟩ := hlists
  change (s.postEv ccore data (dieOf core) stamp).contHeld = s.contHeld at hheld
  obtain ⟨hs, ht⟩ := contClk_of_zero
    (s := { s.postEv ccore data (dieOf core) stamp with
      contHeld := (s.postEv ccore data (dieOf core) stamp).contHeld ++ [⟨ccore, data, core, ctx, 0, stamp⟩] }) (by simp [hheld, hc])
  have ht' : t = _ := ht
  rw [ht']
  refine ⟨hw, hg, hr, hl, hbytes, fun hlen hevs => ?_⟩
  obtain ⟨e, he, -, -, -, -, hevents, -⟩ := hroom hlen hevs
  refine ⟨e, ?_, he⟩
  change e ∈ mGet [] (s.postEv ccore data (dieOf core) stamp).events ccore
  rw [hevents]
  change e ∈ mGet [] (mSet [] s.events ccore (mGet [] s.events ccore ++ [e])) ccore
  rw [mGet_mSet_self_of_ne [] _ _ (by simp)]
  simp

/-! ### Descriptors and DONE (R276, R282) -/

/-- A location clear of the fields of a queue's descriptor. -/
def ClearOf (l n a : Nat) : Prop := a < l ∨ l + n ≤ a

theorem sameLists_putDesc (s : State) (q off v : Nat) : SameLists s (s.putDesc q off v) := sameLists_writeNat s _ 4 v

theorem descAt_congr {s t : State} (h : t.regs = s.regs) (q : Nat) : t.descAt q = s.descAt q := by
  simp only [State.descAt, State.reg, h]

/-- A descriptor clear of what was written reads as before. -/
theorem KeepsBytes.desc {p : Nat → Prop} {s t : State} (h : KeepsBytes p s t) (hs : Memory.wf s.mem = true) (hr : t.regs = s.regs) {q : Nat}
    (hp : ∀ i < 64, p (s.descAt q + i)) : t.desc q = s.desc q := by
  unfold State.desc
  rw [descAt_congr hr, locHbm, h.natAt hs hp]

/-! ### The retirement of a workgroup (R286, R290) -/

/-- DONE of a launch's record takes one more workgroup, by an atomic of its weaver that releases at `.dev`. -/
def State.doneCounted (s : State) (core : Nat) (g : Workgroup) (loc : Nat) (ev : List Nat) : List Nat × State :=
  (s.putDone loc (rDone (s.recAt loc) + 1)).weaverRel core g.ctx (loc + 60)
    (stampJoin (stampJoin g.stamp ev) (s.stampAt (loc + 60) core)) true

/-- The queue is charged with the clk of a workgroup over 64. -/
def State.charged (s : State) (q : Nat) (g : Workgroup) : State :=
  s.putDesc q 16 ((dDeficit (s.desc q) - ((g.charge + 63) / 64 : Nat)) % 2 ^ 32).toNat

theorem exec_workgroupRetire {s s1 : State} {core n q seq a loc : Nat} {rest ev : List Nat} {g : Workgroup} {l : LaunchSt}
    (hn : mGet [] s.retired core = n :: rest) (hup : s.weaverUp core = true) (hpop : s.popReport core n = some (s1, ev))
    (hg : s.wg? n = some g) (ho : g.origin = .launch q seq a) (hl : s.launch? q seq = some l) (hloc : s.launchLoc l = some loc)
    (hready : s.weaverReady core loc (stampJoin g.stamp ev) = true) : exec (.workgroupRetire core) s =
      let u := (s1.unlist core n).doneCounted core g loc ev
      let t := u.2.charged q g
      .next (if rDone ((s1.unlist core n).recAt loc) + 1 = l.total then t.retireLaunch l loc core u.1 else t.drained l loc) := by
  change execWorkgroupRetire core s = _
  simp only [execWorkgroupRetire, hn, List.head?_cons, hg, ho, hl, hloc, hup, hpop, hready, Bool.not_true, Bool.false_eq_true, if_false]
  rfl

section Retire
variable {s : State} {core n q loc : Nat} {g : Workgroup} {l : LaunchSt} {ev st : List Nat} {p : Nat → Prop}

/-- DONE counted: its word holds the count, and no other byte changes. -/
theorem doneCounted_spec (s : State) (core : Nat) (g : Workgroup) (loc : Nat) (ev : List Nat) :
    SameLists s (s.doneCounted core g loc ev).2 ∧
      (s.doneCounted core g loc ev).2.natAt (loc + 60) 4 = (rDone (s.recAt loc) + 1) % 2 ^ 32 ∧
      ∀ p, (∀ a, p a → ClearOf (loc + 60) 4 a) → KeepsBytes p s (s.doneCounted core g loc ev).2 := by
  have hlists : SameLists s (s.putDone loc (rDone (s.recAt loc) + 1)) := sameLists_writeNat s (loc + 60) 4 _
  have hword : (s.putDone loc (rDone (s.recAt loc) + 1)).natAt (loc + 60) 4 = (rDone (s.recAt loc) + 1) % 2 ^ 32 := natAt_writeNat s (loc + 60) 4 _
  have hbytes (p : Nat → Prop) (hp : ∀ a, p a → ClearOf (loc + 60) 4 a) : KeepsBytes p s (s.putDone loc (rDone (s.recAt loc) + 1)) :=
    keepsBytes_writeNat (n := 4) _ hp
  unfold State.doneCounted
  generalize s.putDone loc (rDone (s.recAt loc) + 1) = u at hlists hword hbytes ⊢
  exact ⟨hlists, hword, hbytes⟩

/-- DEFICIT charged: its word holds the difference. -/
theorem charged_spec (s : State) (q : Nat) (g : Workgroup) : SameLists s (s.charged q g) ∧
    ((s.charged q g).natAt (s.descAt q + 16) 4 : Int) = (dDeficit (s.desc q) - ((g.charge + 63) / 64 : Nat)) % 2 ^ 32 ∧
    ∀ p, (∀ a, p a → ClearOf (s.descAt q + 16) 4 a) → KeepsBytes p s (s.charged q g) := by
  refine ⟨sameLists_putDesc s q 16 _, ?_, fun p hp => keepsBytes_writeNat (n := 4) _ hp⟩
  have hread : (s.charged q g).natAt (s.descAt q + 16) 4 =
      (s.writeNat (s.descAt q + 16) 4 ((dDeficit (s.desc q) - ((g.charge + 63) / 64 : Nat)) % 2 ^ 32).toNat).natAt (s.descAt q + 16) 4 := rfl
  rw [hread, natAt_writeNat]
  generalize dDeficit (s.desc q) - ((g.charge + 63) / 64 : Nat) = d
  omega

/-- The draining of a launch writes NEXT and STATE of its record. -/
theorem drained_spec (s : State) (l : LaunchSt) (loc : Nat) : SameLists s (s.drained l loc) ∧
    ∀ p, (∀ a, p a → ClearOf loc 4 a ∧ ClearOf (loc + 56) 4 a) → KeepsBytes p s (s.drained l loc) := by
  unfold State.drained
  dsimp only
  split
  · exact ⟨(sameLists_writeNat s (loc + 56) 4 _).trans (sameLists_writeNat _ loc 4 _), fun p hp =>
      (keepsBytes_writeNat (n := 4) _ fun a ha => (hp a ha).2).trans (keepsBytes_writeNat (n := 4) _ fun a ha => (hp a ha).1)⟩
  · exact ⟨sameLists_refl s, fun p _ => keepsBytes_of rfl fun _ => rfl⟩

theorem passHead_spec (s : State) (q seq : Nat) : SameLists s (s.passHead q seq) ∧
    ∀ p, (∀ a, p a → ClearOf (s.descAt q + 20) 4 a) → KeepsBytes p s (s.passHead q seq) := by
  unfold State.passHead
  split
  · exact ⟨sameLists_putDesc s q 20 _, fun p hp => keepsBytes_writeNat (n := 4) _ hp⟩
  · exact ⟨sameLists_refl s, fun p _ => keepsBytes_of rfl fun _ => rfl⟩

theorem advanceLow_spec (s : State) (q core : Nat) (st : List Nat) : SameLists s (s.advanceLow q core st) ∧
    ∀ p, (∀ a, p a → ClearOf (s.descAt q + 28) 4 a) → KeepsBytes p s (s.advanceLow q core st) := by
  unfold State.advanceLow
  dsimp only
  split
  · exact ⟨sameLists_refl s, fun p _ => keepsBytes_of rfl fun _ => rfl⟩
  · generalize s.lowScan (s.desc q) (dSize (s.desc q) + 1) (dLow (s.desc q)) = low
    have hlists := sameLists_putDesc s q 28 low
    have hbytes (p : Nat → Prop) (hp : ∀ a, p a → ClearOf (s.descAt q + 28) 4 a) : KeepsBytes p s (s.putDesc q 28 low) :=
      keepsBytes_writeNat (n := 4) low hp
    generalize s.putDesc q 28 low = u at hlists hbytes ⊢
    exact ⟨hlists, hbytes⟩

/-- The record of a launch that retires: STATE Retired, and a stamp for it. -/
def State.stateRetired (s : State) (core loc : Nat) (st : List Nat) : List Nat × State :=
  (s.putState loc 5).weaverRel core (rCtx (s.recAt loc)) loc st false

theorem stateRetired_spec (s : State) (core loc : Nat) (st : List Nat) : SameLists s (s.stateRetired core loc st).2 ∧
    (s.stateRetired core loc st).2.natAt loc 4 / 2 ^ 28 = 5 ∧
    ∀ p, (∀ a, p a → ClearOf loc 4 a) → KeepsBytes p s (s.stateRetired core loc st).2 := by
  have hlists : SameLists s (s.putState loc 5) := sameLists_writeNat s loc 4 _
  have hword : (s.putState loc 5).natAt loc 4 / 2 ^ 28 = 5 := by
    rw [State.putState, natAt_writeNat]
    omega
  have hbytes (p : Nat → Prop) (hp : ∀ a, p a → ClearOf loc 4 a) : KeepsBytes p s (s.putState loc 5) := keepsBytes_writeNat (n := 4) _ hp
  unfold State.stateRetired
  generalize s.putState loc 5 = u at hlists hword hbytes ⊢
  exact ⟨hlists, hword, hbytes⟩

/-- The launch is out of the table. -/
def State.dropLaunch (s : State) (l : LaunchSt) : State :=
  { s with launches := s.launches.filter fun x => !(x.queue == l.queue && x.seq == l.seq) }

/-- HEAD has passed the record of a launch that retires. -/
def State.headPassed (s : State) (l : LaunchSt) (loc core : Nat) (st : List Nat) : State :=
  ((s.stateRetired core loc st).2.dropLaunch l).passHead l.queue l.seq

/-- LOW has advanced. -/
def State.lowPassed (s : State) (l : LaunchSt) (loc core : Nat) (st : List Nat) : State :=
  (s.headPassed l loc core st).advanceLow l.queue core (s.stateRetired core loc st).1

theorem retireLaunch_eq (s : State) (l : LaunchSt) (loc core : Nat) (st : List Nat) : s.retireLaunch l loc core st =
    let r := s.recAt loc
    let u := (s.lowPassed l loc core st).weaverPost core (rCcore r) (evData l.recVa l.seq 0x01 (rCtx r)) (rCtx r) (field r 563 512)
      (s.stateRetired core loc st).1
    (u.putQueue l.queue { u.queueOf l.queue with resumeList := (u.queueOf l.queue).resumeList.filter (· != l.seq) }).settled l.queue l.seq :=
  rfl

/-- What is written on the way: the record's STATE, HEAD and LOW. -/
theorem lowPassed_spec (s : State) (l : LaunchSt) (loc core : Nat) (st : List Nat) :
    SameLists (s.dropLaunch l) (s.lowPassed l loc core st) ∧
      (∀ p, (∀ a, p a → ClearOf (s.descAt l.queue) 64 a) → KeepsBytes p (s.stateRetired core loc st).2 (s.lowPassed l loc core st)) := by
  obtain ⟨⟨hw, hg, hr, hl, he, hh, hc, ht, hregs⟩, -, -⟩ := stateRetired_spec s core loc st
  obtain ⟨hhead, hbhead⟩ := passHead_spec ((s.stateRetired core loc st).2.dropLaunch l) l.queue l.seq
  obtain ⟨hlow, hblow⟩ := advanceLow_spec (s.headPassed l loc core st) l.queue core (s.stateRetired core loc st).1
  have hat : (s.headPassed l loc core st).descAt l.queue = s.descAt l.queue := by
    obtain ⟨-, -, -, -, -, -, -, -, hregs'⟩ := hhead
    exact descAt_congr (hregs'.trans hregs) _
  have hat' : ((s.stateRetired core loc st).2.dropLaunch l).descAt l.queue = s.descAt l.queue := descAt_congr hregs _
  have hout : SameLists (s.dropLaunch l) ((s.stateRetired core loc st).2.dropLaunch l) :=
    ⟨hw, hg, hr, by simp only [State.dropLaunch, hl], he, hh, hc, ht, hregs⟩
  refine ⟨hout.trans (hhead.trans hlow), fun p hp => KeepsBytes.trans (hbhead p fun a ha => ?_) (hblow p fun a ha => ?_)⟩
  · have hclear := hp a ha
    rw [hat']
    unfold ClearOf at hclear ⊢
    omega
  · have hclear := hp a ha
    rw [hat]
    unfold ClearOf at hclear ⊢
    omega

/-- A launch that retires: its record, its queue's HEAD and LOW, and its record to CCORE, when it has no continuation (R286). -/
theorem retireLaunch_spec (hc : s.contHeld = []) (hv : field (s.recAt loc) 563 512 = 0) (hm : Memory.wf s.mem = true)
    (hd : loc + 256 ≤ s.descAt l.queue ∨ s.descAt l.queue + 64 ≤ loc) :
    let t := s.retireLaunch l loc core st
    t.wales = s.wales ∧ t.wgs = s.wgs ∧ t.retired = s.retired ∧
      t.launches = s.launches.filter (fun x => !(x.queue == l.queue && x.seq == l.seq)) ∧ t.natAt loc 4 / 2 ^ 28 = 5 ∧
      t.natAt (loc + 60) 4 = s.natAt (loc + 60) 4 ∧
      ((mGet [] s.events (rCcore (s.recAt loc))).length < 64 → s.evHeld = [] → ∃ e ∈ mGet [] t.events (rCcore (s.recAt loc)),
        e.data = evData l.recVa l.seq 0x01 (rCtx (s.recAt loc))) := by
  intro t
  have ht : t = _ := retireLaunch_eq s l loc core st
  obtain ⟨-, hstate, hbstate⟩ := stateRetired_spec s core loc st
  obtain ⟨⟨hw, hg, hr, hl, he, hh, hcont, -, -⟩, hblow⟩ := lowPassed_spec s l loc core st
  obtain ⟨hw', hg', hr', hl', hbpost, hroom⟩ := weaverPost_zero (hcont.trans hc) core (rCcore (s.recAt loc))
    (evData l.recVa l.seq 0x01 (rCtx (s.recAt loc))) (rCtx (s.recAt loc)) (s.stateRetired core loc st).1
  dsimp only at ht
  rw [hv] at ht
  generalize (s.lowPassed l loc core st).weaverPost core (rCcore (s.recAt loc)) (evData l.recVa l.seq 0x01 (rCtx (s.recAt loc)))
    (rCtx (s.recAt loc)) 0 (s.stateRetired core loc st).1 = u at ht hw' hg' hr' hl' hbpost hroom
  have hnat (a k : Nat) : t.natAt a k = u.natAt a k := by rw [ht]; rfl
  have hafter : KeepsBytes (ClearOf (s.descAt l.queue) 64) (s.stateRetired core loc st).2 u :=
    (hblow _ fun a ha => ha).trans (hbpost _)
  have hform := (hbstate (fun _ => False) fun _ h => h.elim) hm
  have hdone := (hbstate (ClearOf loc 4) fun _ h => h).natAt hm (a := loc + 60) (n := 4) fun i hi => by unfold ClearOf; omega
  rw [ht] at *
  refine ⟨hw'.trans hw, hg'.trans hg, hr'.trans hr, hl'.trans hl, ?_, ?_, fun hlen hheld => ?_⟩
  · rw [hnat, hafter.natAt hform.1 fun i hi => by unfold ClearOf; omega]
    exact hstate
  · rw [hnat, hafter.natAt hform.1 fun i hi => by unfold ClearOf; omega]
    exact hdone
  · exact hroom (by rw [he]; exact hlen) (hh.trans hheld)

end Retire

/-! ### The end of tasks (R289) -/

/-- A released record joins a queue, and memory stays (R289). -/
theorem pushTask_keeps (s : State) (ctx va core : Nat) (r : BitVec 512) (st : List Nat) :
    (s.pushTask ctx va core r st).wales = s.wales ∧ (s.pushTask ctx va core r st).wgs = s.wgs ∧
      (s.pushTask ctx va core r st).retired = s.retired ∧ ∀ a, (s.pushTask ctx va core r st).byteAt a = s.byteAt a := by
  have hstir (u : State) (d : Nat) (hu : u.wales = s.wales ∧ u.wgs = s.wgs ∧ u.retired = s.retired ∧ ∀ a, u.byteAt a = s.byteAt a) :
      (u.stir d).wales = s.wales ∧ (u.stir d).wgs = s.wgs ∧ (u.stir d).retired = s.retired ∧ ∀ a, (u.stir d).byteAt a = s.byteAt a := by
    obtain ⟨hw, hg, hr, hb⟩ := hu
    obtain ⟨kw, kg, kr, -⟩ := sameLists_stir u d
    exact ⟨kw.trans hw, kg.trans hg, kr.trans hr, fun a => (byteAt_stir u d a).trans (hb a)⟩
  unfold State.pushTask
  dsimp only
  split
  · split
    · exact ⟨rfl, rfl, rfl, fun _ => rfl⟩
    · exact hstir _ _ ⟨rfl, rfl, rfl, fun _ => rfl⟩
  · exact hstir _ _ ⟨rfl, rfl, rfl, fun _ => rfl⟩
  · exact ⟨rfl, rfl, rfl, fun _ => rfl⟩

/-- A core's record goes to the queue of the core that it names. -/
theorem pushTask_core {s : State} {ctx va core : Nat} {r : BitVec 512} {st : List Nat} (hr : field r 191 190 = 0)
    (ha : field r 189 181 ≠ 0x1FF) : mGet [] (s.pushTask ctx va core r st).coreTasks (field r 189 181) =
      mGet [] s.coreTasks (field r 189 181) ++ [taskEntry ctx va] := by
  unfold State.pushTask
  dsimp only
  split
  · rw [if_neg ha]
    obtain ⟨-, -, -, -, -, -, -, ht, -⟩ := sameLists_stir ({ (s.weaverRel core ctx (taskKey (taskEntry ctx va)) st false).2 with
      coreTasks := qPush (s.weaverRel core ctx (taskKey (taskEntry ctx va)) st false).2.coreTasks (field r 189 181) (taskEntry ctx va) } : State)
      (dieOf (field r 189 181))
    rw [ht]
    exact mGet_mSet_self_of_ne [] _ _ (by simp)
  · next h => exact absurd (hr.symm.trans h) (by decide)
  · next h _ => exact absurd hr h

section Join
variable {s : State} {ctx va core l : Nat} {st : List Nat}

/-- The join counter's word after a decrement. -/
def State.joinCount (s : State) (l : Nat) : Nat := (s.natAt (l + 16) 4 + (2 ^ 32 - 1)) % 2 ^ 32

/-- The counter written. -/
def State.joinCounted (s : State) (ctx core l : Nat) (st : List Nat) : List Nat × State :=
  (s.writeNat (l + 16) 4 (s.joinCount l)).weaverRel core ctx (l + 16) (stampJoin st (s.stampAt (l + 16) core)) true

theorem joinDec_eq (h : s.recLoc ctx va .w = some l) : s.joinDec ctx va core st =
    if s.joinCount l = 0 then
      (s.joinCounted ctx core l st).2.pushTask ctx va core ((s.joinCounted ctx core l st).2.contAt l) (s.joinCounted ctx core l st).1
    else (s.joinCounted ctx core l st).2 := by
  simp only [State.joinDec, h]
  rfl

theorem joinCounted_spec (s : State) (ctx core l : Nat) (st : List Nat) : SameLists s (s.joinCounted ctx core l st).2 ∧
    (s.joinCounted ctx core l st).2.natAt (l + 16) 4 = s.joinCount l ∧
    (Memory.wf s.mem = true → ∀ a, ClearOf (l + 16) 4 a → (s.joinCounted ctx core l st).2.byteAt a = s.byteAt a) := by
  have hlists := sameLists_writeNat s (l + 16) 4 (s.joinCount l)
  have hword : (s.writeNat (l + 16) 4 (s.joinCount l)).natAt (l + 16) 4 = s.joinCount l := by
    rw [natAt_writeNat]
    exact Nat.mod_mod _ _
  have hbytes (hm : Memory.wf s.mem = true) (a : Nat) (ha : ClearOf (l + 16) 4 a) :
      (s.writeNat (l + 16) 4 (s.joinCount l)).byteAt a = s.byteAt a := byteAt_writeNat_out hm ha
  unfold State.joinCounted
  generalize s.writeNat (l + 16) 4 (s.joinCount l) = u at hlists hword hbytes ⊢
  exact ⟨hlists, hword, hbytes⟩

/-- A decrement writes the counter's word, and at 0 releases the record to its queue. -/
theorem joinDec_spec (h : s.recLoc ctx va .w = some l) (hm : Memory.wf s.mem = true) :
    let t := s.joinDec ctx va core st
    t.wales = s.wales ∧ t.wgs = s.wgs ∧ t.retired = s.retired ∧ t.natAt (l + 16) 4 = (s.natAt (l + 16) 4 + (2 ^ 32 - 1)) % 2 ^ 32 ∧
      (∀ a, a < l + 16 ∨ l + 20 ≤ a → t.byteAt a = s.byteAt a) ∧
      (s.natAt (l + 16) 4 = 1 → field (s.contAt l) 191 190 = 0 → field (s.contAt l) 189 181 ≠ 0x1FF →
        mGet [] t.coreTasks (field (s.contAt l) 189 181) = mGet [] s.coreTasks (field (s.contAt l) 189 181) ++ [taskEntry ctx va]) := by
  intro t
  have ht : t = _ := joinDec_eq h
  obtain ⟨⟨hw, hg, hr, -, -, -, -, htasks, -⟩, hword, hbytes⟩ := joinCounted_spec s ctx core l st
  have hfield (hi lo : Nat) (hlo : 160 ≤ lo) : field ((s.joinCounted ctx core l st).2.contAt l) hi lo = field (s.contAt l) hi lo :=
    field_natAt_congr fun j hj _ => hbytes hm _ (by unfold ClearOf; omega)
  generalize (s.joinCounted ctx core l st).2 = u at ht hw hg hr htasks hword hbytes hfield
  by_cases hz : s.joinCount l = 0
  · rw [if_pos hz] at ht
    obtain ⟨hw', hg', hr', hb'⟩ := pushTask_keeps u ctx va core (u.contAt l) (s.joinCounted ctx core l st).1
    rw [ht]
    refine ⟨hw'.trans hw, hg'.trans hg, hr'.trans hr, (natAt_congr hb' _ _).trans hword,
      fun a ha => (hb' a).trans (hbytes hm a (by unfold ClearOf; omega)), fun _ hk ha => ?_⟩
    rw [← hfield 191 190 (by decide)] at hk
    rw [← hfield 189 181 (by decide)] at ha ⊢
    rw [pushTask_core hk ha, htasks]
  · rw [if_neg hz] at ht
    rw [ht]
    refine ⟨hw, hg, hr, hword, fun a ha => hbytes hm a (by unfold ClearOf; omega), fun h1 => absurd ?_ hz⟩
    rw [State.joinCount, h1]
    rfl

/-- A weaver whose counter's home is ready decrements the parent of a task (R289). -/
theorem exec_joinDecrement {s1 : State} {n p : Nat} {rest ev : List Nat} (hn : mGet [] s.retired core = n :: rest)
    (hup : s.weaverUp core = true) (hpop : s.popReport core n = some (s1, ev)) (hp : s.taskParent n = some (ctx, p)) (hne : p ≠ 0)
    (hl : s.recLoc ctx p .w = some l)
    (hready : s.weaverReady core l (match s.wg? n with | some g => stampJoin g.stamp ev | none => ev) = true) :
    ∃ st, exec (.joinDecrement core) s = .next ((s1.joinDec ctx p core st).unlist core n) := by
  have hjoin (st : List Nat) (h : s.weaverReady core l st = true) : s.joinReady ctx p core st = true := by
    simp only [State.joinReady, hl]
    exact h
  change ∃ st, execJoinDecrement core s = _
  simp only [execJoinDecrement, hn, List.head?_cons, hp, hup, hpop, Bool.not_true, Bool.false_eq_true, if_false]
  cases hg : s.wg? n with
  | none =>
    rw [hg] at hready
    exact ⟨ev, by simp [hjoin _ hready, hne]⟩
  | some g =>
    rw [hg] at hready
    exact ⟨stampJoin g.stamp ev, by simp [hjoin _ hready, hne]⟩

end Join

/-! ### Retirement -/

/-- The entry is off its list, and its workgroup out of the table. -/
theorem unlist_spec {s : State} {core n : Nat} {rest : List Nat} (hs : mSorted s.retired = true) (hn : mGet [] s.retired core = n :: rest) :
    mGet [] (s.unlist core n).retired core = rest ∧ (s.unlist core n).wg? n = none := by
  refine ⟨?_, find?_filter_id s.wgs n⟩
  change mGet [] (mSet [] s.retired core ((mGet [] s.retired core).erase n)) core = rest
  rw [mGet_mSet_self [] core _ hs, hn, List.erase_cons_head]

theorem launch?_keys {s : State} {q seq : Nat} {l : LaunchSt} (h : s.launch? q seq = some l) : l.queue = q ∧ l.seq = seq := by
  simpa using List.find?_some h

/-- A launch that has left the table is not found. -/
theorem find?_dropLaunch (ls : List LaunchSt) (l : LaunchSt) :
    (ls.filter fun x => !(x.queue == l.queue && x.seq == l.seq)).find? (fun x => x.queue == l.queue && x.seq == l.seq) = none := by
  rw [List.find?_filter, List.find?_eq_none]
  intro x _
  cases x.queue == l.queue && x.seq == l.seq <;> simp

/-- What the retirement of a workgroup writes: DONE and DEFICIT. -/
theorem retired_writes {u : State} {core q loc : Nat} {g : Workgroup} {ev : List Nat} (hm : Memory.wf u.mem = true)
    (hd : loc + 256 ≤ u.descAt q ∨ u.descAt q + 64 ≤ loc) :
    let t := (u.doneCounted core g loc ev).2.charged q g
    SameLists u t ∧ Memory.wf t.mem = true ∧ t.natAt (loc + 60) 4 = (rDone (u.recAt loc) + 1) % 2 ^ 32 ∧
      (t.natAt (u.descAt q + 16) 4 : Int) = (dDeficit (u.desc q) - ((g.charge + 63) / 64 : Nat)) % 2 ^ 32 ∧
      ∀ hi lo, hi < 2048 → hi < 480 ∨ 512 ≤ lo → field (t.recAt loc) hi lo = field (u.recAt loc) hi lo := by
  intro t
  obtain ⟨hlists, hword, hbytes⟩ := doneCounted_spec u core g loc ev
  obtain ⟨hlists', hdebt, hbytes'⟩ := charged_spec (u.doneCounted core g loc ev).2 q g
  have hregs : (u.doneCounted core g loc ev).2.regs = u.regs := by
    obtain ⟨-, -, -, -, -, -, -, -, h⟩ := hlists
    exact h
  have hat : (u.doneCounted core g loc ev).2.descAt q = u.descAt q := descAt_congr hregs q
  have hdesc : (u.doneCounted core g loc ev).2.desc q = u.desc q :=
    (hbytes (ClearOf (loc + 60) 4) fun _ h => h).desc hm hregs fun i hi => by unfold ClearOf; omega
  rw [hdesc] at hdebt
  rw [hat] at hdebt hbytes'
  have hm' := (hbytes (ClearOf (loc + 60) 4) fun _ h => h) hm
  have hkeeps : KeepsBytes (fun a => ClearOf (loc + 60) 4 a ∧ ClearOf (u.descAt q + 16) 4 a) u t :=
    (hbytes _ fun a ha => ha.1).trans (hbytes' _ fun a ha => ha.2)
  refine ⟨hlists.trans hlists', (hkeeps hm).1, ?_, hdebt, fun hi lo htop h => field_natAt_congr fun j hlo hhi => (hkeeps hm).2 _ ?_⟩
  · rw [(hbytes' (ClearOf (u.descAt q + 16) 4) fun _ h => h).natAt hm'.1 fun i hi => by unfold ClearOf; omega]
    exact hword
  · unfold ClearOf
    omega

theorem retirement : Retirement := by
  intro core n rest ev s s1 hcanon hn hup hcont hpop
  have hcanon' := hcanon
  simp only [State.canonical, State.unitMaps, State.memMaps, Bool.and_eq_true] at hcanon'
  have hm : Memory.wf s.mem = true := memory_wf_of_canonical hcanon
  have hevents : mSorted s.events = true := by tauto
  have hretired : mSorted s.retired = true := by tauto
  clear hcanon'
  obtain ⟨events, wales, hs1, hlen, hothers⟩ := popReport_eq hevents hpop
  obtain ⟨hlist, hgone⟩ : mGet [] (s1.unlist core n).retired core = rest ∧ (s1.unlist core n).wg? n = none := by
    rw [hs1]
    exact unlist_spec (s := { s with events := events, wales := wales }) hretired hn
  have hbytes (a : Nat) : (s1.unlist core n).byteAt a = s.byteAt a := by rw [hs1]; rfl
  have hregs : (s1.unlist core n).regs = s.regs := by rw [hs1]; rfl
  have hmem : (s1.unlist core n).mem = s.mem := by rw [hs1]; rfl
  have hwales : (s1.unlist core n).wales = s1.wales := rfl
  refine ⟨hothers, fun g q seq a l loc hg ho hl hloc hsize hdisj hready => ?_, fun ctx p l hp hne hl hready => ?_⟩
  · intro r
    have hexec := exec_workgroupRetire hn hup hpop hg ho hl hloc hready
    have hlaunches : (s1.unlist core n).launches = s.launches := by rw [hs1]; rfl
    have hcont' : (s1.unlist core n).contHeld = [] := by rw [hs1]; exact hcont
    have hlen' (c : Nat) : (mGet [] (s1.unlist core n).events c).length ≤ (mGet [] s.events c).length := by rw [hs1]; exact hlen c
    have hheld' : (s1.unlist core n).evHeld = s.evHeld := by rw [hs1]; rfl
    have hat : (s1.unlist core n).descAt q = s.descAt q := descAt_congr hregs q
    have hrec : (s1.unlist core n).recAt loc = r := by rw [State.recAt, natAt_congr hbytes]; rfl
    have hdesc : (s1.unlist core n).desc q = s.desc q := by rw [State.desc, State.desc, hat, natAt_congr hbytes]
    generalize s1.unlist core n = u at *
    obtain ⟨⟨hw, hgs, hr, hls, he, hh, hc, -, hregs'⟩, hm', hdone, hdebt, hfields⟩ :=
      retired_writes (core := core) (g := g) (ev := ev) (hmem ▸ hm) (hat.symm ▸ hdisj)
    rw [hrec] at hexec hdone hfields
    rw [hdesc, hat] at hdebt
    have hat' : ((u.doneCounted core g loc ev).2.charged q g).descAt q = s.descAt q :=
      (descAt_congr hregs' q).trans hat
    dsimp only at hexec
    generalize (u.doneCounted core g loc ev).1 = st at hexec
    generalize (u.doneCounted core g loc ev).2.charged q g = v at *
    refine ⟨fun hne => ?_, fun heq hv => ?_⟩
    · rw [if_neg hne] at hexec
      obtain ⟨⟨hw', hgs', hr', hls', -⟩, hb⟩ := drained_spec v l loc
      have hkeeps := hb (fun a => ClearOf loc 4 a ∧ ClearOf (loc + 56) 4 a) fun _ h => h
      refine ⟨_, hexec, ?_, ?_, ?_, ?_, ?_, hw'.trans (hw.trans hwales)⟩
      · rw [hkeeps.natAt hm' fun i hi => by unfold ClearOf; omega]
        exact hdone
      · rw [hkeeps.natAt hm' fun i hi => by unfold ClearOf; omega]
        exact hdebt
      · rw [State.wg?, hgs', hgs]
        exact hgone
      · rw [hr', hr]
        exact hlist
      · rw [State.launch?, hls', hls, hlaunches]
        exact hl
    · rw [if_pos heq] at hexec
      obtain ⟨rfl, rfl⟩ := launch?_keys hl
      have hccore : rCcore (v.recAt loc) = rCcore r := hfields 584 576 (by decide) (by decide)
      have hctx : rCtx (v.recAt loc) = rCtx r := hfields 47 41 (by decide) (by decide)
      obtain ⟨hw', hgs', hr', hls', hstate, hdone', hev⟩ := retireLaunch_spec (st := st) (core := core) (hc.trans hcont')
        ((hfields 563 512 (by decide) (by decide)).trans hv) hm' (hat'.symm ▸ hdisj)
      rw [hccore, hctx, he, hh] at hev
      refine ⟨_, hexec, hstate, hdone'.trans hdone, ?_, ?_, ?_, hw'.trans (hw.trans hwales), fun hlen hheld => ?_⟩
      · rw [State.launch?, hls']
        exact find?_dropLaunch _ l
      · rw [State.wg?, hgs', hgs]
        exact hgone
      · rw [hr', hr]
        exact hlist
      · exact hev (lt_of_le_of_lt (hlen' _) hlen) (hheld'.trans hheld)
  · obtain ⟨st, he⟩ := exec_joinDecrement hn hup hpop hp hne hl hready
    have hb1 (a : Nat) : s1.byteAt a = s.byteAt a := by rw [hs1]; rfl
    have hloc : s1.recLoc ctx p .w = some l := (recLoc_congr hb1 (by rw [hs1]) ctx p .w).trans hl
    have hm1 : Memory.wf s1.mem = true := by rw [hs1]; exact hm
    obtain ⟨hw, hg, hr, hword, hout, htask⟩ := joinDec_spec (core := core) (st := st) hloc hm1
    have hcontAt : s1.contAt l = s.contAt l := by rw [State.contAt, State.contAt, natAt_congr hb1]
    rw [natAt_congr hb1] at hword htask
    rw [hcontAt] at htask
    have htasks1 : s1.coreTasks = s.coreTasks := by rw [hs1]
    have hr1 : s1.retired = s.retired := by rw [hs1]
    obtain ⟨hlist', hgone'⟩ := unlist_spec (s := s1.joinDec ctx p core st) (core := core) (n := n) (rest := rest)
      (by rw [hr, hr1]; exact hretired) (by rw [hr, hr1]; exact hn)
    rw [htasks1] at htask
    exact ⟨_, he, hword, hlist', hgone', hw, fun a ha => (hout a ha).trans (hb1 a), htask⟩

/-- Settles O42: a wale's end, and what the weaver of its core then writes for its workgroup, launch or task (R147, R286, R289). -/
theorem endsAndRetirement : Obligations.EndsAndRetirement := ⟨waleEnds, retirement⟩

end Sys2Proof.Machine
end

section
/-!
PROOF. RGRP_FORM settles every pending result before it reads the keys again, so a result that is not yet readable changes the groups (O23).
-/
namespace Sys2Proof.Machine
open Claims

/-- A wale at its RGRP with threads 0 and 1 active and both keys 0 as read now; thread 1's key of 1 is a pending result, readable from
clk 100 on. -/
def keyPending : Wale :=
  { newWale 1 .wale 0 0 2 0 0 64 0 0 3 with
    latch := some (.rgrp 0 1 1), tags := [(0, .n32)]
    inflight := [{ file := .v, reg := 0, mask := 2, vals := [0, 1], base := 100, k := 1, encAt := 0, lat := 8, no := 0, filled := true }] }

/-- Its workgroup, whose new wales are due. -/
def keyGroup : Workgroup := { newGroup 2 0 .spawned 2 0 64 0 with regroup := some 0 }

/-- The machine at clk 0 with that wale alone. -/
def lateKey : State := { State.reset with wales := [keyPending], wgs := [keyGroup], nextId := 3 }

/-- As read now, the two keys agree: one new wale, for which there is room. -/
theorem lateKey_oneGroup : (rgrpGroups [keyPending] 0 lateKey.clk).length = 1 ∧
    lateKey.rgrpRoom keyGroup [keyPending] (rgrpGroups [keyPending] 0 lateKey.clk).length = true := by
  have hone : (rgrpGroups [keyPending] 0 lateKey.clk).length = 1 := by decide +kernel
  refine ⟨hone, ?_⟩
  rw [hone]
  simp [State.rgrpRoom]

/-- The conditions of a regrouping hold. -/
theorem lateKey_ready : lateKey.members 2 = [keyPending] ∧ lateKey.wg? 2 = some keyGroup ∧ keyPending.atRgrp = some (0, 1, 1) ∧
    rgrpBad [keyPending] 0 1 1 lateKey.clk = none ∧ (∀ w ∈ [keyPending], lateKey.rgrpReady w = true) ∧
    ∀ x ∈ lateKey.wales, x.id < lateKey.nextId := by decide +kernel

/-- The unit forms two new wales: the settled keys differ. -/
theorem lateKey_formsTwo : (match exec (.rgrpForm 2) lateKey with
    | .next t => (t.wg? 2).map Workgroup.wcount
    | _ => none) = some 2 := by decide +kernel

/-- Refutes O23: in `lateKey` the conditions of RGRP_FORM hold and the keys as read give one group, but the unit settles the pending
key first and forms two new wales (R155). -/
theorem not_spawnAndRegroup : ¬ Obligations.SpawnAndRegroup := by
  unfold Obligations.SpawnAndRegroup
  rintro ⟨-, -, hforms⟩
  obtain ⟨hmembers, hgroup, hat, hgood, hready, hids⟩ := lateKey_ready
  obtain ⟨hone, hroom⟩ := lateKey_oneGroup
  obtain ⟨-, -, -, hform⟩ := hforms lateKey 2 keyGroup keyPending [] 0 1 1 hmembers hgroup hat hgood hready hids
  obtain ⟨t, he, -, ⟨k, hk, hcount, -⟩, -⟩ := hform 0 (List.ne_nil_of_length_pos (hone ▸ Nat.one_pos)) (by rw [hone]; decide) rfl
    (Nat.zero_le _) hroom
  have htwo := lateKey_formsTwo
  rw [he] at htwo
  simp only [hk, Option.map_some, hcount, hone] at htwo
  exact absurd htwo (by decide)

end Sys2Proof.Machine
end

section
/-!
PROOF. Near accesses: the elements that their beats place, what an issue adds to the banks' list, and the banks' clk (O25).
-/
namespace Sys2Proof.Machine
open Claims

/-! ### The elements of the beats -/

/-- A beat's plan belongs to an active thread, and its elements to that thread. -/
def PlanOf (m : Mask) (p : Nat × EPlan) : Prop := p.1 < 32 ∧ m.getLsbD p.1 = true ∧ ∀ es, p.2 = .ok es → ∀ e ∈ es, e.t = p.1

theorem mkElems_t {ty : Ty} {t j d a : Nat} {zero : Bool} {v : Nat → W32} {v2 : W32} {e : Elem}
    (he : e ∈ mkElems ty t j d a zero v v2) : e.t = t := by
  obtain ⟨i, -, rfl⟩ := List.mem_map.mp he
  rfl

theorem elemPlan_t {w : Wale} {op : MemOp} {x : MCtx} {t j c : Nat} {es : List Elem} (h : w.elemPlan op x t j c = .ok es) {e : Elem}
    (he : e ∈ es) : e.t = t := by
  unfold Wale.elemPlan at h
  dsimp only at h
  split at h
  · exact absurd h nofun
  · obtain rfl := EPlan.ok.inj h
    exact mkElems_t he
  · obtain rfl := EPlan.ok.inj h
    obtain ⟨e', he', rfl⟩ := List.mem_map.mp he
    exact mkElems_t (e := e') he'

theorem planOf_facePlan {w : Wale} {op : MemOp} {x : MCtx} {c : Nat} {p : Nat × EPlan} (hp : p ∈ w.facePlan op x c) : PlanOf x.m p := by
  obtain ⟨t, ht, hp⟩ := List.mem_flatMap.mp hp
  obtain ⟨j, -, rfl⟩ := List.mem_map.mp hp
  obtain ⟨hlt, hm⟩ := List.mem_filter.mp ht
  exact ⟨List.mem_range.mp hlt, hm, fun es h e he => elemPlan_t h he⟩

theorem planOf_nearPlace {m : Mask} {p : Nat × EPlan} (h : PlanOf m p) (s : State) (w : Wale) (x : MCtx) : PlanOf m (s.nearPlace w x p) := by
  obtain ⟨hlt, hm, hes⟩ := h
  unfold State.nearPlace
  dsimp only
  split
  · next es g hok hg =>
    split
    · exact ⟨hlt, hm, nofun⟩
    · refine ⟨hlt, hm, fun es' h e he => ?_⟩
      obtain rfl := EPlan.ok.inj h
      simp only [List.map_map, List.mem_map] at he
      obtain ⟨e', he', rfl⟩ := he
      exact hes es hok e' he'
  · exact ⟨hlt, hm, nofun⟩
  · exact ⟨hlt, hm, hes⟩

theorem planOf_misPlan {m : Mask} {p : Nat × EPlan} (h : PlanOf m p) : PlanOf m (misPlan p) := by
  obtain ⟨hlt, hm, hes⟩ := h
  unfold misPlan
  split
  · split
    · exact ⟨hlt, hm, nofun⟩
    · exact ⟨hlt, hm, hes⟩
  · exact ⟨hlt, hm, hes⟩

/-- Every plan of a near access is one of an active thread of its face. -/
theorem planOf_nearPlaced {s : State} {w : Wale} {op : MemOp} {l : List MCtx} {y : MCtx × List (Nat × EPlan)}
    (hy : y ∈ nearPlaced s w op l) : y.1 ∈ l ∧ ∀ p ∈ y.2, PlanOf y.1.m p := by
  obtain ⟨x, hx, rfl⟩ := List.mem_map.mp hy
  refine ⟨hx, fun p hp => ?_⟩
  obtain ⟨q, hq, rfl⟩ := List.mem_map.mp hp
  exact planOf_misPlan (planOf_nearPlace (planOf_facePlan hq) s w x)

/-- An element without a cause is one of an active thread. -/
theorem planElems_t {m : Mask} {ps : List (Nat × EPlan)} (h : ∀ p ∈ ps, PlanOf m p) {e : Elem} (he : e ∈ planElems ps) :
    e.t < 32 ∧ m.getLsbD e.t = true := by
  obtain ⟨p, hp, he⟩ := List.mem_flatMap.mp he
  obtain ⟨hlt, hm, hes⟩ := h p hp
  obtain ⟨t, plan⟩ := p
  cases plan with
  | ok es => rw [hes es rfl e he]; exact ⟨hlt, hm⟩
  | bad c => exact absurd he (List.not_mem_nil)
  | absent => exact absurd he (List.not_mem_nil)

/-! ### The accesses at the banks (R167) -/

section Ops
variable {s : State} {w : Wale} {m : MForm} {op : MemOp} {l : List MCtx}

/-- The delay of a near access to its bank (R167). -/
def bankDelay (w : Wale) (store : Bool) (r : LRec) : Nat :=
  match store, decide (lSpace r = 3) with
  | true, false => 8
  | true, true => 12 + 2 * hops w.core (lPeer r)
  | false, false => 12
  | false, true => 16 + 2 * hops w.core (lPeer r)

theorem nearDelay_fst (w : Wale) (store : Bool) (r : LRec) : (nearDelay w.core r store).1 = bankDelay w store r := by
  unfold nearDelay bankDelay
  by_cases h : lSpace r = 3 <;> cases store <;> simp [h]

/-- The accesses of an element of a face. -/
theorem mem_nearOps {x : MCtx} {wr vol : Bool} {es : List Elem} {c : Nat} {o : NearOp} : o ∈ nearOps w x wr vol es c ↔
    ∃ e ∈ es, e.zero = false ∧ o =
      { wale := w.id, at' := c + bankDelay w wr x.r + e.t / 8, wr := wr, loc := e.loc, size := e.size, val := e.val, reg := x.f.d + e.j
        t := e.t, fmt := lFmt x.r, no := w.issueNo, vol := vol, arv := none, handle := x.handle, cs := e.cs } := by
  unfold nearOps
  simp only [List.mem_map, List.mem_filter, nearDelay_fst, Bool.not_eq_true', and_assoc, eq_comm (b := o)]

/-- A near instruction's accesses are those of its placed elements. -/
theorem mem_nearList {o : NearOp} : o ∈ nearList s w m op l ↔
    ∃ y ∈ nearPlaced s w op l, o ∈ nearOps w y.1 op.store (m.acls == .vol) (planElems y.2) s.clk := by
  unfold nearList
  simp only [List.mem_flatMap, List.mem_filter, beq_iff_eq]
  refine ⟨fun ⟨_, _, ho, _⟩ => ho, fun ho => ⟨o.t, ?_, ho, rfl⟩⟩
  obtain ⟨y, hy, ho⟩ := ho
  obtain ⟨e, he, -, rfl⟩ := mem_nearOps.mp ho
  exact List.mem_range.mpr (planElems_t (planOf_nearPlaced hy).2 he).1

end Ops

/-! ### The trap of the beats (R249) -/

/-- The causes that the beats raise, by thread. -/
def badPlans (ps : List (Nat × EPlan)) : List (Nat × Cause) := ps.filterMap fun | (t, .bad c) => some (t, c) | _ => none

theorem mem_badPlans {ps : List (Nat × EPlan)} {t : Nat} {c : Cause} : (t, c) ∈ badPlans ps ↔ (t, EPlan.bad c) ∈ ps := by
  unfold badPlans
  rw [List.mem_filterMap]
  constructor
  · rintro ⟨⟨t', plan⟩, hp, h⟩
    cases plan with
    | bad c' =>
      simp only [Option.some.injEq] at h
      obtain ⟨rfl, rfl⟩ := h
      exact hp
    | ok es => exact absurd h nofun
    | absent => exact absurd h nofun
  · exact fun h => ⟨_, h, rfl⟩

/-- The cause of the lowest code (R249). -/
def lowestCause (l : List (Nat × Cause)) (c : Cause) : Cause := l.foldl (fun k x => if x.2.code < k.code then x.2 else k) c

/-- The lowest cause is the first one or another of the list. -/
theorem lowestCause_mem (l : List (Nat × Cause)) (c : Cause) : lowestCause l c = c ∨ ∃ t, (t, lowestCause l c) ∈ l := by
  induction l generalizing c with
  | nil => exact .inl rfl
  | cons x l ih =>
    have hstep : lowestCause (x :: l) c = lowestCause l (if x.2.code < c.code then x.2 else c) := rfl
    rw [hstep]
    split
    · obtain h | ⟨t, h⟩ := ih x.2
      · rw [h]
        exact .inr ⟨x.1, List.mem_cons_self⟩
      · exact .inr ⟨t, List.mem_cons_of_mem _ h⟩
    · obtain h | ⟨t, h⟩ := ih c
      · exact .inl h
      · exact .inr ⟨t, List.mem_cons_of_mem _ h⟩

theorem beatTrap_eq (ps : List (Nat × EPlan)) (t0 : Nat) : beatTrap ps t0 = match badPlans ps with
    | [] => none
    | b :: _ => some { cause := lowestCause (badPlans ps) b.2
                       lanes := maskOf fun t => (badPlans ps).contains (t, lowestCause (badPlans ps) b.2), t0 := t0 } := rfl

/-- The threads that a beats' trap lists are those that raised its cause, and there is one. -/
theorem beatTrap_lanes {ps : List (Nat × EPlan)} {t0 : Nat} {r : TrapReq} (h : beatTrap ps t0 = some r) (ht : ∀ p ∈ ps, p.1 < 32) :
    (∃ th, th < 32 ∧ r.lanes.getLsbD th = true) ∧ ∀ th < 32, r.lanes.getLsbD th = true ↔ (th, EPlan.bad r.cause) ∈ ps := by
  rw [beatTrap_eq] at h
  cases hb : badPlans ps with
  | nil => rw [hb] at h; exact absurd h nofun
  | cons b rest =>
    rw [hb] at h
    have hr : r = _ := (Option.some.inj h).symm
    rw [← hb] at hr
    have hlanes (th : Nat) (hth : th < 32) : r.lanes.getLsbD th = true ↔ (th, EPlan.bad r.cause) ∈ ps := by
      rw [hr, getLsbD_maskOf, ← mem_badPlans, ← List.contains_iff_mem]
      simp only [hth, decide_true, Bool.true_and]
    obtain ⟨th, hth⟩ : ∃ th, (th, r.cause) ∈ badPlans ps := by
      rw [hr]
      obtain h | h := lowestCause_mem (badPlans ps) b.2
      · refine ⟨b.1, ?_⟩
        dsimp only
        rw [h, hb]
        exact List.mem_cons_self
      · exact h
    have hin := mem_badPlans.mp hth
    exact ⟨⟨th, ht _ hin, (hlanes th (ht _ hin)).mpr hin⟩, hlanes⟩

/-! ### The issue of a near instruction (R162, R166, R167) -/

section Issue
variable {s : State} {w : Wale} {m : MForm} {op : MemOp} {l : List MCtx}

/-- The pending results of a near instruction: a load's. -/
def nearResults (s : State) (w : Wale) (op : MemOp) (l : List MCtx) : List InFlight :=
  if op.store then [] else (nearPlaced s w op l).flatMap fun p => nearFlights op w p.1 (planElems p.2) s.clk

theorem exec_near {p : Instr × MemOp} (hp : p ∈ nearTable m) : exec p.1 s = s.near' m p.2 ∧ p.2.load = !p.2.store := by
  simp only [nearTable, List.mem_cons, List.not_mem_nil, or_false] at hp
  obtain rfl | rfl | rfl | rfl := hp
  · exact ⟨rfl, rfl⟩
  · exact ⟨rfl, rfl⟩
  · exact ⟨rfl, rfl⟩
  · exact ⟨rfl, rfl⟩

theorem nearHeld_iff : (op.store && s.fenceHolds w || s.acquireOpen w || m.acls == .vol && s.volOpen w (w.active m.face)) = true ↔
    NearHeld s w m op := by
  simp only [NearHeld, Bool.or_eq_true, Bool.and_eq_true, beq_iff_eq, or_assoc]

theorem near_trap {r : TrapReq} (h : AtHand s w) (hc : s.memCheck w m op = .trap r) : s.near' m op = .next (s.takeTrap w r) := by
  change s.withCur _ = _
  rw [withCur_eq _ h]
  simp only [hc]

theorem near_empty (h : AtHand s w) (hc : s.memCheck w m op = .empty) : s.near' m op = .next (s.issued w 0) := by
  change s.withCur _ = _
  rw [withCur_eq _ h]
  simp only [hc]

theorem near_held (h : AtHand s w) (hc : s.memCheck w m op = .go l) (hheld : NearHeld s w m op) :
    s.near' m op = .next (s.hold w .flagWait false) := by
  change s.withCur _ = _
  rw [withCur_eq _ h]
  simp only [hc]
  exact if_pos (nearHeld_iff.mpr hheld)

/-- An access that nothing holds back takes the trap of its beats, or goes on once the banks do not hold it. -/
theorem near_go (h : AtHand s w) (hc : s.memCheck w m op = .go l) (hfree : ¬ NearHeld s w m op) : s.near' m op =
    match beatTrap ((nearPlaced s w op l).flatMap Prod.snd) (s.clk + 4) with
    | some r => .next ((s.holdPipe w (s.clk + 4)).takeTrap w r)
    | none => if s.bankHolds w (nearList s w m op l) then .next (s.hold w .flagWait false)
        else .next (({ s with near := s.near ++ nearList s w m op l } : State).issueWith w (nearResults s w op l) 4 0) := by
  change s.withCur _ = _
  rw [withCur_eq _ h]
  simp only [hc]
  exact if_neg (mt nearHeld_iff.mp hfree)

end Issue

theorem nearAccessesTrap : NearAccessesTrap := by
  intro m s w l r p hp h
  have he := (exec_near (s := s) hp).1
  refine ⟨fun hc => he.trans (near_trap h hc), fun hc => he.trans (near_empty h hc), fun hc hheld => he.trans (near_held h hc hheld),
    fun hc hfree hbeat => ⟨?_, beatTrap_lanes hbeat fun q hq => ?_⟩⟩
  · rw [he, near_go h hc hfree, hbeat]
  · obtain ⟨y, hy, hq⟩ := List.mem_flatMap.mp hq
    exact ((planOf_nearPlaced hy).2 q hq).1

/-! ### What the issue leaves (R166, R167) -/

section Complete
variable {s : State} {w : Wale} {m : MForm} {op : MemOp} {l : List MCtx}

/-- Each access at a bank is one of an active thread of a face, at its clk. -/
theorem nearList_spec {o : NearOp} (ho : o ∈ nearList s w m op l) : o.wale = w.id ∧ o.no = w.issueNo ∧ o.wr = op.store ∧ o.t < 32 ∧
    ∃ x ∈ l, x.m.getLsbD o.t = true ∧ o.fmt = lFmt x.r ∧ o.at' = s.clk + o.t / 8 + bankDelay w op.store x.r := by
  obtain ⟨y, hy, ho⟩ := mem_nearList.mp ho
  obtain ⟨hl, hplans⟩ := planOf_nearPlaced hy
  obtain ⟨e, he, -, rfl⟩ := mem_nearOps.mp ho
  obtain ⟨hlt, hm⟩ := planElems_t hplans he
  exact ⟨rfl, rfl, rfl, hlt, y.1, hl, hm, rfl, Nat.add_right_comm _ _ _⟩

/-- Each element outside zero mode has its access. -/
theorem nearList_elem {y : MCtx × List (Nat × EPlan)} (hy : y ∈ nearPlaced s w op l) {e : Elem} (he : e ∈ planElems y.2) (hz : e.zero = false) :
    ∃ o ∈ nearList s w m op l, o.loc = e.loc ∧ o.size = e.size ∧ o.val = e.val ∧ o.t = e.t ∧ o.reg = y.1.f.d + e.j :=
  ⟨_, mem_nearList.mpr ⟨y, hy, mem_nearOps.mpr ⟨e, he, hz, rfl⟩⟩, rfl, rfl, rfl, rfl, rfl⟩

/-- A load's data registers carry the layout's format from 4 clk on. -/
theorem tag_nearResults {x : MCtx} (hs : op.store = false) {r clk : Nat} (hr : r ∈ dataRegs op x.f x.r) (hc : s.clk + 4 ≤ clk)
    (fl : List InFlight) : pendingVal (fl ++ nearResults s w op [x]) .tag r 0 clk = some (BitVec.ofNat 32 (lFmt x.r).code) := by
  have hres : nearResults s w op [x] =
      nearFlights op w x (planElems ((w.facePlan op x s.clk).map fun p => misPlan (s.nearPlace w x p))) s.clk := by
    simp [nearResults, nearPlaced, hs]
  rw [hres]
  generalize planElems ((w.facePlan op x s.clk).map fun p => misPlan (s.nearPlace w x p)) = es
  unfold nearFlights
  dsimp only
  refine pendingVal_eq (fun e he hcov => ?_) ⟨tagFlight w r (lFmt x.r) s.clk 4, ?_, tagFlight_covers_iff.mpr ⟨rfl, rfl, rfl, hc⟩⟩ fl
  · obtain ⟨q, -, he⟩ := List.mem_flatMap.mp he
    simp only [List.mem_cons, List.not_mem_nil, or_false] at he
    obtain rfl | rfl := he
    · simp [InFlight.covers, mkFlight] at hcov
    · rfl
  · exact List.mem_flatMap.mpr ⟨r, hr, by simp⟩

end Complete

theorem nearAccessesComplete : NearAccessesComplete := by
  intro m s w l p hp hready
  obtain ⟨h, hc, hfree, hbeat, hbank⟩ := hready
  obtain ⟨he, hload⟩ := exec_near (s := s) hp
  rw [near_go h hc hfree, hbeat] at he
  simp only [hbank, Bool.false_eq_true, if_false] at he
  have hw := wale?_issueWith_cur (s := s) (u := { s with near := s.near ++ nearList s w m p.2 l }) h rfl rfl (nearResults s w p.2 l) 4 0
  refine ⟨_, _, he, hw, ⟨rfl, rfl, rfl⟩, (sameControl_refl _), rfl, rfl, rfl, rfl, rfl, by simp, by simp, by simp,
    by simp, by simp, fun hs => ?_, ⟨nearList s w m p.2 l, by simp, fun o ho => nearList_spec ho, fun y hy e he hz => nearList_elem hy he hz⟩,
    fun hl x hx r hr clk hclk => ?_⟩
  · change w.inflight ++ nearResults s w p.2 l = w.inflight
    rw [nearResults, if_pos hs, List.append_nil]
  · subst hx
    exact tagAt_of_pending (tag_nearResults (by simpa [hl] using hload) hr hclk w.inflight)

/-! ### The banks' clk (R167) -/

/-- A near store is performed: its bytes stand, and the release sequences of its element end (R238). -/
def State.nearWrite (s : State) (o : NearOp) : State :=
  { (s.writeNat o.loc o.size o.val.toNat) with
    rels := mDelRange (s.writeNat o.loc o.size o.val.toNat).rels o.loc (o.loc + o.size) }

/-- Reads before writes, when every access of the list is due and none is an arrival. -/
def State.nearDone (s : State) : State :=
  (s.near.filter fun o => o.wr).foldl State.nearWrite ((s.near.filter fun o => !o.wr).foldl State.fillNear { s with near := [] })

theorem bankClk_eq {s : State} (hne : s.near ≠ []) (hdue : ∀ o ∈ s.near, o.at' ≤ s.clk) (harv : ∀ o ∈ s.near, o.arv = none) :
    s.bankClk = { s.nearDone with wales := s.nearDone.wales.map (markFilled []) } := by
  have hall : s.near.filter (fun o => decide (o.at' ≤ s.clk)) = s.near := List.filter_eq_self.mpr fun o ho => by simpa using hdue o ho
  have hrest : s.near.filter (fun o => !decide (o.at' ≤ s.clk)) = [] := List.filter_eq_nil_iff.mpr fun o ho => by simpa using hdue o ho
  have hnone : s.near.filter (fun o => o.arv.isSome) = [] := List.filter_eq_nil_iff.mpr fun o ho => by simp [harv o ho]
  have hread : s.near.filter (fun o => !o.wr && o.arv.isNone) = s.near.filter fun o => !o.wr :=
    List.filter_congr fun o ho => by simp [harv o ho]
  have hempty : s.near.isEmpty = false := by simpa using hne
  unfold State.bankClk
  simp only [hall, hrest, hnone, hread, hempty, Bool.false_eq_true, if_false, List.foldl_nil]
  rfl

/-- The element that a near load's read puts in the pending result of its thread (R30, R161). -/
def Wale.filledBy (w : Wale) (o : NearOp) (x : W32) : Wale :=
  { w with inflight := w.inflight.map fun e => if e.takes .v o then { e with vals := setNth e.vals o.t x } else e }

theorem fillNear_eq {s : State} {o : NearOp} {w : Wale} (hw : s.wale? o.wale = some w) (ht : w.trap = none) :
    s.fillNear o = s.putWale (w.filledBy o (memImage o.fmt (s.natAt o.loc o.size))) := by
  unfold State.fillNear
  simp only [hw]
  split
  · next f hf => exact absurd (ht.symm.trans hf) nofun
  · rfl

theorem getD_setNth {α : Type} {l : List α} {n : Nat} (x d : α) (h : n < l.length) : (setNth l n x).getD n d = x := by
  induction l generalizing n with
  | nil => exact absurd h (Nat.not_lt_zero n)
  | cons y l ih =>
    cases n with
    | zero => rfl
    | succ n => exact ih (Nat.lt_of_succ_lt_succ h)

/-- A wale's pending loads are filled once no access of it is left at the banks. -/
theorem wale?_markFilled (s : State) (i : Nat) :
    ({ s with wales := s.wales.map (markFilled []) } : State).wale? i = (s.wale? i).map (markFilled []) :=
  find?_map_id s.wales Wale.id (markFilled []) i fun _ => rfl

/-- The pending result that a near load's last read fills. -/
theorem filledBy_filled {w : Wale} {o : NearOp} {e : InFlight} (x : W32) (he : e ∈ w.inflight) (hf : e.file = .v) (hno : e.no = o.no)
    (hr : e.reg = o.reg) (hm : e.mask.getLsbD o.t = true) (hfill : e.filled = false) (hlen : o.t < e.vals.length) :
    ∃ d ∈ (markFilled [] (w.filledBy o x)).inflight, d.file = .v ∧ d.reg = e.reg ∧ d.no = e.no ∧ d.filled = true ∧ d.vals.getD o.t 0 = x := by
  have htakes : e.takes .v o = true := by simp [InFlight.takes, hf, hno, hr, hm, hfill, -BitVec.getLsbD_eq_getElem]
  have hmem : ({ e with vals := setNth e.vals o.t x } : InFlight) ∈ (w.filledBy o x).inflight :=
    List.mem_map.mpr ⟨e, he, if_pos htakes⟩
  refine ⟨{ e with vals := setNth e.vals o.t x, filled := true }, List.mem_map.mpr ⟨_, hmem, ?_⟩, hf, rfl, rfl, rfl,
    getD_setNth x 0 hlen⟩
  exact if_pos (by simp [hf, hfill])

section Performed
variable {s : State} {o o2 : NearOp} {w : Wale} {e : InFlight}

theorem nearDone_store (hn : s.near = [o]) (hwr : o.wr = true) : s.nearDone = ({ s with near := [] } : State).nearWrite o := by
  simp [State.nearDone, hn, hwr]

theorem nearDone_load (hn : s.near = [o]) (hwr : o.wr = false) : s.nearDone = ({ s with near := [] } : State).fillNear o := by
  simp [State.nearDone, hn, hwr]

theorem nearDone_both (hn : s.near = [o, o2]) (hwr : o.wr = true) (hwr2 : o2.wr = false) :
    s.nearDone = (({ s with near := [] } : State).fillNear o2).nearWrite o := by
  simp [State.nearDone, hn, hwr, hwr2]

/-- A near store alone. -/
theorem bankClk_store (hs : s.canonical = true) (hdue : o.at' ≤ s.clk) (ha : o.arv = none) (hn : s.near = [o]) (hwr : o.wr = true) :
    s.bankClk.natAt o.loc o.size = o.val.toNat % 2 ^ (8 * o.size) ∧ s.bankClk.near = [] ∧
      ∀ l, l < o.loc ∨ o.loc + o.size ≤ l → s.bankClk.byteAt l = s.byteAt l := by
  rw [bankClk_eq (by simp [hn]) (by simpa [hn] using hdue) (by simpa [hn] using ha), nearDone_store hn hwr]
  have hm : Memory.wf ({ s with near := [] } : State).mem = true := memory_wf_of_canonical (s := s) hs
  refine ⟨natAt_writeNat ({ s with near := [] } : State) o.loc o.size o.val.toNat, ?_, fun l hl => byteAt_writeNat_out hm hl⟩
  exact State.writeNat_near ({ s with near := [] } : State) o.loc o.size o.val.toNat

/-- The wale whose load has been performed, and its pending result. -/
theorem load_filled (hw : s.wale? o.wale = some w) (ht : w.trap = none) (he : e ∈ w.inflight) (hf : e.file = .v) (hno : e.no = o.no)
    (hr : e.reg = o.reg) (hm : e.mask.getLsbD o.t = true) (hfill : e.filled = false) (hlen : o.t < e.vals.length) {t : State}
    (hwales : t.wales = (({ s with near := [] } : State).fillNear o).wales) :
    ∃ v, ({ t with wales := t.wales.map (markFilled []) } : State).wale? o.wale = some v ∧ ∃ d ∈ v.inflight, d.file = .v ∧ d.reg = e.reg ∧
      d.no = e.no ∧ d.filled = true ∧ d.vals.getD o.t 0 = memImage o.fmt (s.natAt o.loc o.size) := by
  have hid : w.id = o.wale := wale?_id hw
  have hput : t.wale? o.wale = some (w.filledBy o (memImage o.fmt (s.natAt o.loc o.size))) := by
    rw [State.wale?, hwales, fillNear_eq (s := { s with near := [] }) hw ht, ← hid]
    exact wale?_putWale_self (s := { s with near := [] }) (w := w.filledBy o (memImage o.fmt (s.natAt o.loc o.size))) (hid.symm ▸ hw)
  refine ⟨_, ?_, filledBy_filled (memImage o.fmt (s.natAt o.loc o.size)) he hf hno hr hm hfill hlen⟩
  rw [wale?_markFilled, hput]
  rfl

end Performed

theorem nearAccessesPerformed : NearAccessesPerformed := by
  intro s o hs hdue ha
  refine ⟨fun hn hwr _ => bankClk_store hs hdue ha hn hwr, fun w e hn hwr hw ht he hf hno hr hm hfill hlen => ?_,
    fun w e o2 hn hwr hwr2 ha2 hdue2 _ _ hw ht he hf hno hr hm hfill hlen => ?_⟩
  · rw [bankClk_eq (by simp [hn]) (by simpa [hn] using hdue) (by simpa [hn] using ha), nearDone_load hn hwr]
    refine ⟨?_, load_filled hw ht he hf hno hr hm hfill hlen rfl⟩
    rw [fillNear_eq (s := { s with near := [] }) hw ht]
    rfl
  · rw [bankClk_eq (by simp [hn]) (by simp [hn, hdue, hdue2]) (by simp [hn, ha, ha2]), nearDone_both hn hwr hwr2]
    obtain ⟨v, hv, d, hd, -, hreg, -, hfilled, hval⟩ := load_filled hw ht he hf hno hr hm hfill hlen
      (t := (({ s with near := [] } : State).fillNear o2).nearWrite o) (State.writeNat_wales _ _ _ _)
    exact ⟨v, hv, d, hd, hreg, hfilled, hval⟩

/-- Settles O25: a near access is its placed elements' accesses at the banks, which the banks perform reads first (R162, R167). -/
theorem nearAccesses : Obligations.NearAccesses := ⟨nearAccessesComplete, nearAccessesTrap, nearAccessesPerformed⟩

end Sys2Proof.Machine
end
